-- ==== Sys2Proof/Word.lean ====
section
/-!
DEFINITION. The word types of the device: bytes, 32-bit and 64-bit words, ranks, vector registers.
A value is a bit vector where the manual writes it as bits (R5, R172); counts and addresses used as keys are `Nat`.
-/
namespace Sys2Proof

/-- One byte (R5). -/
abbrev Byte := BitVec 8
/-- A 32-bit word: a slot word (R178), a lane (R228), an FP32 pattern (R61). -/
abbrev W32 := BitVec 32
/-- A 64-bit word: a scalar or control register (R172, R173). -/
abbrev Word := BitVec 64
/-- The 64 lanes of a vector register, lane `i` in bits `32i + 31 : 32i` (R172). -/
abbrev VBits := BitVec 2048
/-- A rank: package in bits 31:12, endpoint in bits 11:0 (R31). -/
abbrev Rank := BitVec 32

end Sys2Proof
end

