-- ==== Sys2Proof/Machine/Float.lean ====
section
/-!
DEFINITION. The number formats and the one rounding that all engines share (R61 to R65, R71, R73 to R76, R79). A finite value is
held exactly, as a whole multiple of 2^-149; a result is an exact magnitude that `roundMag` rounds once.
-/
namespace Sys2Proof.Machine

/-- A format: exponent bits, mantissa bits, bias, and whether it has infinities (R61). -/
structure Fmt where
  eb   : Nat
  mb   : Nat
  bias : Nat
  infs : Bool
  deriving DecidableEq, Repr

def Fmt.f32  : Fmt := ⟨8, 23, 127, true⟩
def Fmt.bf16 : Fmt := ⟨8, 7, 127, true⟩
def Fmt.f16  : Fmt := ⟨5, 10, 15, true⟩
def Fmt.e5m2 : Fmt := ⟨5, 2, 15, true⟩
def Fmt.e4m3 : Fmt := ⟨4, 3, 7, false⟩

/-- Width in bits. -/
def Fmt.width (f : Fmt) : Nat := 1 + f.eb + f.mb
/-- The magnitude code of an infinity, or of the NaN of E4M3 that stands where an infinity would (R63). -/
def Fmt.topCode (f : Fmt) : Nat := if f.infs then (2 ^ f.eb - 1) * 2 ^ f.mb else 0x7F
/-- The magnitude code of the largest finite value (R61, R63). -/
def Fmt.maxCode (f : Fmt) : Nat := f.topCode - 1
/-- The canonical NaN (R63). E5M2's is 0x7E, the others set the top mantissa bit. -/
def Fmt.nan (f : Fmt) : Nat := if f.infs then f.topCode + 2 ^ (f.mb - 1) else 0x7F
/-- The exponent of two of the least subnormal. -/
def Fmt.ulp (f : Fmt) : Int := 1 - (f.bias : Int) - (f.mb : Int)

/-- A decoded value. `fin neg mag` is (−1)^neg × mag × 2^-149, with −0 as `fin true 0` (R62, R77). -/
inductive FVal where
  | nan
  | inf (neg : Bool)
  | fin (neg : Bool) (mag : Nat)
  deriving DecidableEq, Repr

def FVal.isNan : FVal → Bool
  | .nan => true
  | _ => false

/-- The sign; a NaN has none. -/
def FVal.neg : FVal → Bool
  | .nan => false
  | .inf n => n
  | .fin n _ => n

/-- The sign inverted. -/
def FVal.negate : FVal → FVal
  | .nan => .nan
  | .inf n => .inf !n
  | .fin n m => .fin (!n) m

/-- Decodes a code of a format (R62, R63). -/
def Fmt.decode (f : Fmt) (x : Nat) : FVal :=
  let neg := x.testBit (f.width - 1)
  let c := x % 2 ^ (f.width - 1)
  let e := c / 2 ^ f.mb
  let m := c % 2 ^ f.mb
  if f.infs && e == 2 ^ f.eb - 1 then (if m = 0 then .inf neg else .nan)
  else if !f.infs && c == 0x7F then .nan
  else
    let base := (149 + f.ulp).toNat
    if e = 0 then .fin neg (m * 2 ^ base) else .fin neg ((2 ^ f.mb + m) * 2 ^ (base + e - 1))

/-- The exact integer in units of 2^-149; 0 for what is not finite. -/
def FVal.int : FVal → Int
  | .fin n m => if n then -(m : Int) else m
  | _ => 0

/-- FPFLAGS bits (R74). -/
def flNX : BitVec 6 := 1
def flUF : BitVec 6 := 2
def flOF : BitVec 6 := 4
def flDZ : BitVec 6 := 8
def flNV : BitVec 6 := 16
def flSAT : BitVec 6 := 32

/-- Number of bits of `n`. -/
def bitLen (n : Nat) : Nat := if n = 0 then 0 else n.log2 + 1

/-- Whether a magnitude is rounded up: `odd` is the kept last bit, `half` the first dropped bit, `rest` whether more is dropped
(R73: 0 nearest even, 1 toward zero, 2 toward −inf, 3 toward +inf). -/
def roundUp (rm : Nat) (neg odd half rest : Bool) : Bool :=
  match rm with
  | 0 => half && (rest || odd)
  | 1 => false
  | 2 => neg && (half || rest)
  | _ => !neg && (half || rest)

/-- Rounds `q × 2^x` (plus something below one unit where `sticky`) to a multiple of 2^l: the multiple, and whether inexact. -/
def roundAt (rm : Nat) (neg : Bool) (q : Nat) (x l : Int) (sticky : Bool) : Nat × Bool :=
  if l ≤ x then
    let k := q * 2 ^ (x - l).toNat
    (if roundUp rm neg (k.testBit 0) false sticky then k + 1 else k, sticky)
  else
    let s := (l - x).toNat
    let k := q / 2 ^ s
    let half := q.testBit (s - 1)
    let rest := decide (q % 2 ^ (s - 1) ≠ 0) || sticky
    (if roundUp rm neg (k.testBit 0) half rest then k + 1 else k, half || rest)

/-- The magnitude code that `q × 2^x` rounds to, with unlimited exponent above, and the flags NX and UF. A result is tiny when it
stays below the least normal after rounding to full precision (R74). -/
def roundCode (f : Fmt) (rm : Nat) (neg : Bool) (q : Nat) (x : Int) (sticky : Bool) : Nat × BitVec 6 :=
  if q = 0 && !sticky then (0, 0)
  else
    let e : Int := (bitLen q : Int) - 1 + x
    let l : Int := if e - f.mb < f.ulp then f.ulp else e - f.mb
    let r := roundAt rm neg q x l sticky
    let w := roundAt rm neg q x (e - f.mb) sticky
    let low : Int := 1 - (f.bias : Int)
    let tiny := decide (e < low) && !(decide (e = low - 1) && w.1 == 2 ^ (f.mb + 1))
    ((l - f.ulp).toNat * 2 ^ f.mb + r.1, if r.2 then (if tiny then flNX ||| flUF else flNX) else 0)

/-- Puts a sign on a magnitude code. -/
def Fmt.sign (f : Fmt) (neg : Bool) (code : Nat) : Nat := if neg then 2 ^ (f.width - 1) + code else code

/-- Whether rounding goes toward zero for this sign. -/
def towardZero (rm : Nat) (neg : Bool) : Bool := rm == 1 || (rm == 2 && !neg) || (rm == 3 && neg)

/-- The code of an infinite result, or what stands for it (R75). -/
def Fmt.infCode (f : Fmt) (neg : Bool) : Nat := if f.infs then f.sign neg f.topCode else f.nan

/-- Rounds an exact magnitude once to a format: code and flags (R71, R75). `sat` is SAT8 for an 8-bit destination. -/
def roundMag (f : Fmt) (rm : Nat) (sat : Bool) (neg : Bool) (q : Nat) (x : Int) (sticky : Bool) : Nat × BitVec 6 :=
  let c := roundCode f rm neg q x sticky
  if f.maxCode < c.1 then
    if sat then (f.sign neg f.maxCode, flOF ||| flNX ||| flSAT)
    else (if towardZero rm neg then f.sign neg f.maxCode else f.infCode neg, flOF ||| flNX)
  else (f.sign neg c.1, c.2)

/-- Rounds a signed exact value; `zneg` is the sign of an exact zero. -/
def roundInt (f : Fmt) (rm : Nat) (v : Int) (x : Int) (zneg : Bool) : Nat × BitVec 6 :=
  if v = 0 then (f.sign zneg 0, 0) else roundMag f rm false (decide (v < 0)) v.natAbs x false

/-- FP32 values of a pattern, and results as patterns. -/
def f32 (x : W32) : FVal := Fmt.f32.decode x.toNat
def nan32 : W32 := 0x7FC00000
def pack32 (r : Nat × BitVec 6) : W32 × BitVec 6 := (BitVec.ofNat 32 r.1, r.2)

/-- Sign of an exact zero sum of operands with signs `a` and `b` (R215). -/
def zeroSign (rm : Nat) (a b : Bool) : Bool := if a = b then a else rm == 2

/-- FP32 addition of decoded values (R215). -/
def addVal (rm : Nat) : FVal → FVal → W32 × BitVec 6
  | .nan, _ => (nan32, 0)
  | _, .nan => (nan32, 0)
  | .inf a, .inf b => if a = b then (BitVec.ofNat 32 (Fmt.f32.infCode a), 0) else (nan32, flNV)
  | .inf a, _ => (BitVec.ofNat 32 (Fmt.f32.infCode a), 0)
  | _, .inf b => (BitVec.ofNat 32 (Fmt.f32.infCode b), 0)
  | .fin a m, .fin b n => pack32 (roundInt .f32 rm ((FVal.fin a m).int + (FVal.fin b n).int) (-149) (zeroSign rm a b))

def fpAdd (rm : Nat) (a b : W32) : W32 × BitVec 6 := addVal rm (f32 a) (f32 b)
def fpSub (rm : Nat) (a b : W32) : W32 × BitVec 6 := addVal rm (f32 a) (f32 b).negate

/-- FP32 multiplication (R215). -/
def fpMul (rm : Nat) (a b : W32) : W32 × BitVec 6 :=
  match f32 a, f32 b with
  | .nan, _ => (nan32, 0)
  | _, .nan => (nan32, 0)
  | .inf s, .inf t => (BitVec.ofNat 32 (Fmt.f32.infCode (s != t)), 0)
  | .inf s, .fin t n => if n = 0 then (nan32, flNV) else (BitVec.ofNat 32 (Fmt.f32.infCode (s != t)), 0)
  | .fin s m, .inf t => if m = 0 then (nan32, flNV) else (BitVec.ofNat 32 (Fmt.f32.infCode (s != t)), 0)
  | .fin s m, .fin t n => pack32 (roundMag .f32 rm false (s != t) (m * n) (-298) false)

/-- FP32 division (R215). The quotient of magnitudes keeps 600 fraction bits; the rest is sticky. -/
def fpDiv (rm : Nat) (a b : W32) : W32 × BitVec 6 :=
  match f32 a, f32 b with
  | .nan, _ => (nan32, 0)
  | _, .nan => (nan32, 0)
  | .inf _, .inf _ => (nan32, flNV)
  | .inf s, .fin t _ => (BitVec.ofNat 32 (Fmt.f32.infCode (s != t)), 0)
  | .fin s _, .inf t => (BitVec.ofNat 32 (Fmt.f32.sign (s != t) 0), 0)
  | .fin s m, .fin t n =>
    if n = 0 then (if m = 0 then (nan32, flNV) else (BitVec.ofNat 32 (Fmt.f32.infCode (s != t)), flDZ))
    else pack32 (roundMag .f32 rm false (s != t) (m * 2 ^ 600 / n) (-600) (decide (m * 2 ^ 600 % n ≠ 0)))

/-- Integer square root by bits, `i` of them left. -/
def isqrtGo (n : Nat) : Nat → Nat → Nat
  | 0, r => r
  | i + 1, r => let c := r + 2 ^ i; isqrtGo n i (if c * c ≤ n then c else r)

/-- The greatest `r` with r² ≤ n, for n below 2^1024. -/
def isqrt (n : Nat) : Nat := isqrtGo n ((bitLen n + 1) / 2) 0

/-- FP32 square root (R215). -/
def fpSqrt (rm : Nat) (a : W32) : W32 × BitVec 6 :=
  match f32 a with
  | .nan => (nan32, 0)
  | .inf s => if s then (nan32, flNV) else (BitVec.ofNat 32 (Fmt.f32.infCode false), 0)
  | .fin s m =>
    if m = 0 then (a, 0)
    else if s then (nan32, flNV)
    else
      let r := isqrt (m * 2 ^ 101)
      pack32 (roundMag .f32 rm false false r (-125) (decide (r * r ≠ m * 2 ^ 101)))

/-- FP32 a × b + c with one rounding (R215): NV for inf × 0 unless c is NaN, and for inf − inf. -/
def fpFma (rm : Nat) (a b c : FVal) : W32 × BitVec 6 :=
  match a, b, c with
  | .nan, _, _ => (nan32, 0)
  | _, .nan, _ => (nan32, 0)
  | .inf s, .inf t, c => addVal rm (.inf (s != t)) c
  | .inf s, .fin t n, c =>
    if n = 0 then (nan32, if c.isNan then 0 else flNV) else addVal rm (.inf (s != t)) c
  | .fin s m, .inf t, c =>
    if m = 0 then (nan32, if c.isNan then 0 else flNV) else addVal rm (.inf (s != t)) c
  | .fin _ _, .fin _ _, .nan => (nan32, 0)
  | .fin _ _, .fin _ _, .inf u => (BitVec.ofNat 32 (Fmt.f32.infCode u), 0)
  | .fin s m, .fin t n, .fin u k =>
    let p : Int := if s != t then -((m * n : Nat) : Int) else ((m * n : Nat) : Int)
    pack32 (roundInt .f32 rm (p + (FVal.fin u k).int * 2 ^ 149) (-298) (zeroSign rm (s != t) u))

/-- The order of values that are not NaN, −0 equal to +0: below, equal, above. -/
def FVal.cmp (a b : FVal) : Ordering :=
  match a, b with
  | .inf s, .inf t => if s = t then .eq else if s then .lt else .gt
  | .inf s, _ => if s then .lt else .gt
  | _, .inf t => if t then .gt else .lt
  | a, b => compare a.int b.int

/-- Whether `a` is below `b`, with −0 below +0. -/
def FVal.below (a b : FVal) : Bool :=
  match a.cmp b with
  | .lt => true
  | .eq => a.neg && !b.neg
  | .gt => false

/-- FMIN and FMAX (R215). -/
def fpMin (a b : W32) : W32 :=
  if (f32 a).isNan || (f32 b).isNan then nan32 else if (f32 b).below (f32 a) then b else a
def fpMax (a b : W32) : W32 :=
  if (f32 a).isNan || (f32 b).isNan then nan32 else if (f32 a).below (f32 b) then b else a

/-- FABS and FNEG (R215). -/
def fpAbs (a : W32) : W32 := if (f32 a).isNan then nan32 else a &&& 0x7FFFFFFF
def fpNeg (a : W32) : W32 := if (f32 a).isNan then nan32 else a ^^^ 0x80000000

/-- FCMP and the floating VCMP: eq 0, ne 1, lt 2, le 3, un 4 (R216, R236). -/
def fpCmp (c : Nat) (a b : W32) : Bool :=
  if (f32 a).isNan || (f32 b).isNan then c == 1 || c == 4
  else
    match c with
    | 0 => (f32 a).cmp (f32 b) == .eq
    | 1 => (f32 a).cmp (f32 b) != .eq
    | 2 => (f32 a).cmp (f32 b) == .lt
    | 3 => (f32 a).cmp (f32 b) != .gt
    | _ => false

/-- Rounds a value to an integer under `rm`: the integer and whether inexact (R217). -/
def toInt (rm : Nat) (neg : Bool) (mag : Nat) : Int × Bool :=
  let r := roundAt rm neg mag (-149) 0 false
  (if neg then -(r.1 : Int) else r.1, r.2)

/-- Conversion to an integer of range `lo` to `hi`: result and flags (R217, R238). -/
def fpToInt (rm : Nat) (lo hi : Int) (a : FVal) : Int × BitVec 6 :=
  match a with
  | .nan => (0, flNV)
  | .inf s => (if s then lo else hi, flNV)
  | .fin s m =>
    let r := toInt rm s m
    if r.1 < lo then (lo, flNV) else if hi < r.1 then (hi, flNV) else (r.1, if r.2 then flNX else 0)

/-- An integer to FP32 (R217). -/
def intToFp (rm : Nat) (v : Int) : W32 × BitVec 6 := pack32 (roundInt .f32 rm v 0 false)

/-- Narrowing of a value to BF16, FP16, E5M2 or E4M3 (R75). `sat` is SAT8. -/
def narrow (f : Fmt) (rm : Nat) (sat : Bool) (a : FVal) : Nat × BitVec 6 :=
  let s8 := sat && decide (f.width = 8)
  match a with
  | .nan => (f.nan, 0)
  | .inf s => if s8 then (f.sign s f.maxCode, flSAT) else (f.infCode s, if f.infs then 0 else flNV)
  | .fin s m => roundMag f rm s8 s m (-149) false

/-- Widening to FP32: exact (R75); a NaN becomes canonical (R64). -/
def widen (f : Fmt) (x : Nat) : W32 :=
  match f.decode x with
  | .nan => nan32
  | .inf s => BitVec.ofNat 32 (Fmt.f32.infCode s)
  | .fin s m => (pack32 (roundMag .f32 0 false s m (-149) false)).1

/-- SumRound of R71: exact terms in units of 2^-u with their kinds, rounded once to nearest even. -/
structure SumAcc where
  nan  : Bool
  nv   : Bool      -- a NaN was made from terms that are not NaN
  pinf : Bool
  ninf : Bool
  sum  : Int
  allNegZero : Bool
  deriving DecidableEq, Repr

def SumAcc.empty : SumAcc := ⟨false, false, false, false, 0, true⟩

/-- Adds a term that is `v` × 2^-(149 + k). -/
def SumAcc.add (s : SumAcc) (k : Nat) (v : FVal) : SumAcc :=
  match v with
  | .nan => { s with nan := true, allNegZero := false }
  | .inf n => if n then { s with ninf := true, allNegZero := false } else { s with pinf := true, allNegZero := false }
  | .fin n m => { s with sum := s.sum + (FVal.fin n m).int * 2 ^ k, allNegZero := s.allNegZero && n && decide (m = 0) }

/-- The rounded sum of terms in units of 2^-(149 + k). -/
def SumAcc.round (s : SumAcc) (f : Fmt) (rm : Nat) (k : Nat) : Nat × BitVec 6 :=
  if s.nan then (f.nan, if s.nv then flNV else 0)
  else if s.pinf && s.ninf then (f.nan, flNV)
  else if s.pinf then (f.infCode false, 0)
  else if s.ninf then (f.infCode true, 0)
  else roundInt f rm s.sum (-(149 + k : Nat)) s.allNegZero

/-- The eight magnitudes of E2M1 in halves (R65). -/
def e2m1Half (c : Nat) : Nat :=
  match c % 8 with
  | 0 => 0
  | 1 => 1
  | 2 => 2
  | 3 => 3
  | 4 => 4
  | 5 => 6
  | 6 => 8
  | _ => 12

/-- The value of an E2M1 code in a block with this extra byte (R65). -/
def e2m1 (extra : Nat) (c : Nat) : FVal :=
  if c = 8 then Fmt.e4m3.decode extra else .fin (decide (8 ≤ c)) (e2m1Half c * 2 ^ 148)

/-- A valid scale: positive and finite (R69). -/
def scaleOk (x : W32) : Bool :=
  match f32 x with
  | .fin n m => !n && decide (m ≠ 0)
  | _ => false

/-- A valid sidecar of 64 bits: SCALE, EXTRA and three zero bytes (R67). -/
def sidecarOk (s : Word) : Bool :=
  scaleOk (s.extractLsb' 0 32) && decide ((s.extractLsb' 32 8).toNat % 128 ≠ 127) && decide (s.extractLsb' 40 24 = 0)

/-- Candidates of R76: code and decoded value in units of 2^-149. An EXTRA of the same value as a regular code never wins. -/
def e2m1Cands (extra : Nat) : List (Nat × Int) :=
  let all := (List.range 16).map fun c => (c, (e2m1 extra c).int)
  all.filter fun a => a.1 ≠ 8 || !(all.any fun b => b.1 ≠ 8 && b.2 == a.2)

/-- Whether candidate `a` beats `b` for the quotient num/den (den > 0): nearer first, then bit 0 clear, then a regular code. -/
def e2m1Better (num den : Int) (a b : Nat × Int) : Bool :=
  let da := (a.2 * den - num).natAbs
  let db := (b.2 * den - num).natAbs
  if da ≠ db then decide (da < db)
  else if a.1 % 2 ≠ b.1 % 2 then decide (a.1 % 2 = 0)
  else decide (a.1 ≠ 8) && decide (b.1 = 8)

/-- VPACK4's narrowing of one element (R76): code and flags. The scale is valid. -/
def packE2m1 (x : W32) (scale : W32) (extra : Nat) : Nat × BitVec 6 :=
  let sc := (f32 scale).int
  let cands := e2m1Cands extra
  let zeroCode (neg : Bool) : Nat := if neg && extra == 0x80 then 8 else 0
  let top (neg : Bool) : Nat × Int :=
    cands.foldl (fun b c => if neg then (if c.2 < b.2 then c else b) else (if b.2 < c.2 then c else b)) (0, 0)
  match f32 x with
  | .nan => (0, flNV)
  | .inf n => ((top n).1, flSAT)
  | .fin n m =>
    -- q = ±m / sc, compared with candidates c × 2^-149: scale the numerator by 2^149
    let num : Int := (FVal.fin n m).int * 2 ^ 149
    let t := top n
    if (t.2 * sc).natAbs < num.natAbs then (t.1, flSAT ||| flOF ||| flNX)
    else
      let best := cands.foldl (fun b c => if e2m1Better num sc c b then c else b) (0, 0)
      let code := if best.2 = 0 then zeroCode n else best.1
      (code, if best.2 * sc = num then 0 else flNX)

end Sys2Proof.Machine
end

