-- ==== Sys2Proof/Config.lean ====
section
/-!
DEFINITION. What the device fixes once, and the free values: an `opaque` constant has no body, so nothing can be proved about
the value it gives. A free value stands wherever the manual says a value is undefined or unspecified and the device goes on
(R102, R111, R182, R254, R330).
-/
namespace Sys2Proof.Config

/-- A free value of `w` bits. `seed` is the state's counter `fresh`, `site` says which value of that step is meant. -/
opaque free (w seed site : Nat) : BitVec w

/-- Bytes of the tile store (R19). -/
def storeBytes : Nat := 0x200000
/-- Bytes of the instruction store (R19); bundle fetch wraps there (R176). -/
def imemBytes : Nat := 0x40000
/-- Bytes of the weight space of a tile (R17). -/
def anvilBytes : Nat := 0x400000
/-- First address of the context save area (R219, R340). -/
def saveArea : Nat := 0x1FC000
/-- End of the in-range addresses below the unexpected pool's default place (R219). -/
def plainEnd : Nat := 0x1F0000
/-- Entries of the NI tables: send, posted-receive, server-request (R85). -/
def sendTable : Nat := 64
def recvTable : Nat := 256
def reqTable : Nat := 128
/-- Held timed sends at most (R85). -/
def timedMax : Nat := 16
/-- Entries of the unexpected-header store (R85). -/
def headerStore : Nat := 1024
/-- The eager limit of a group without a descriptor (R92). -/
def defaultEager : Nat := 512
/-- Bytes of a rendezvous chunk (R84, R119). -/
def chunkBytes : Nat := 2048
/-- Chunks of a contribution, of a child's partial results or of results that a halo link lets wait at its end (R163, R165; log 83). -/
def haloCredit : Nat := 4
/-- Servers of a package (R16). -/
def servers : Nat := 192
/-- Endpoints of the services (R31). -/
def placerEp : Nat := 0x4C0
def dispatcherEp : Nat := 0x4C1
def mgmtEp : Nat := 0x4C2
def haloEp : Nat := 0x4C3

end Sys2Proof.Config
end

