-- ==== Sys2Proof/Machine/Sparse.lean ====
section
/-!
DEFINITION. Finite maps with a default value, held as lists of (key, value) pairs in one canonical form: keys strictly rising
and no entry equal to the default. Equal maps are equal lists. Memories and register files are such maps.
-/
namespace Sys2Proof.Machine.Sparse

/-- The value at key `k`: the listed one, or the default `d`. -/
def get {α : Type} (d : α) : List (Nat × α) → Nat → α
  | [], _ => d
  | (j, v) :: m, k => if k = j then v else get d m k

/-- The map without the entries of key `k`. -/
def erase {α : Type} : List (Nat × α) → Nat → List (Nat × α)
  | [], _ => []
  | (j, w) :: m, k => if k = j then erase m k else (j, w) :: erase m k

/-- Sets key `k` to `v`, keeping the canonical form: writing the default removes the entry. -/
def set {α : Type} [DecidableEq α] (d : α) : List (Nat × α) → Nat → α → List (Nat × α)
  | [], k, v => if v = d then [] else [(k, v)]
  | (j, w) :: m, k, v =>
    if k < j then (if v = d then (j, w) :: erase m k else (k, v) :: (j, w) :: m)
    else if k = j then (if v = d then erase m k else (k, v) :: m)
    else (j, w) :: set d m k v

/-- Every key of the map is above `lo`, keys rise strictly, and no entry is the default. -/
def above {α : Type} [DecidableEq α] (d : α) : Option Nat → List (Nat × α) → Bool
  | _, [] => true
  | lo, (j, w) :: m => (match lo with | none => true | some l => decide (l < j)) && decide (w ≠ d) && above d (some j) m

/-- The canonical form. -/
def wf {α : Type} [DecidableEq α] (d : α) (m : List (Nat × α)) : Bool := above d none m

/-- The keys that are listed. -/
def keys {α : Type} (m : List (Nat × α)) : List Nat := m.map (·.1)

end Sys2Proof.Machine.Sparse
end

