-- ==== Sys2Proof/Syntax.lean ====
section
/-!
DEFINITION. The instructions and events of the opcode table, one constructor for each row (R1 to R442): 229 slot words with
the fields their encodings carry (R178 to R181), and 133 steps that other units of the package make (packets, server, halo,
placer, host and management steps), each with the data that the step works on.
-/
namespace Sys2Proof

/-- A packet header (R82). `offset` is the byte offset, the granted length of a CTS, or the reason of a refusal. -/
structure Header where
  dest   : Rank
  src    : Rank
  tag    : W32
  group  : BitVec 16
  kind   : BitVec 8
  hflags : BitVec 8
  len    : Nat
  seq    : W32
  offset : W32
  xid    : W32
  deriving DecidableEq, Repr

/-- A packet: header and payload bytes (R82). `poison` marks payload bytes that the device knows to be bad (R347, R389). -/
structure Packet where
  hdr     : Header
  payload : List Byte
  poison  : Bool
  deriving DecidableEq, Repr

/-- One contiguous range of a shard: its place in the request's buffer, its virtual address and its length (R135). -/
structure Piece where
  pos : Nat
  va  : Nat
  len : Nat
  deriving DecidableEq, Repr

/-- A shard as it reaches its server (R135, R137). `rereq` is the order stamp a re-request names (R384); `damaged` says that
its end-to-end CRC fails on arrival (R383); `poisoned` lists the bytes, by place and length in the request's buffer, that come of poisoned words of
the tile: source bytes, operands, or elements under a poisoned index (R347, R396). -/
structure Shard where
  issuer   : Rank
  srv      : Nat
  xid      : Nat
  no       : Nat
  actx     : Nat
  group    : BitVec 16
  pieces   : List Piece
  data     : List Byte
  aop      : Nat
  notify   : Option (Rank × W32)
  rereq    : Option Nat
  attempt  : Nat
  damaged  : Bool
  poisoned : List (Nat × Nat)
  deriving DecidableEq, Repr

/-- An SDATA or SDONE of a shard (R137, R391): `chunks` are reply bytes at their offsets in the request buffer. -/
structure Reply where
  dest    : Rank
  srv     : Nat
  xid     : Nat
  no      : Nat
  result  : Nat
  bytes   : Nat
  chunks  : List (Nat × List Byte)
  stamp   : Nat
  damaged : Bool
  deriving DecidableEq, Repr

/-- A probe at a server: the rank of the tile whose FENCE waits, and a number that tells one FENCE's probes from another's (R127). -/
structure Probe where
  issuer : Rank
  no     : Nat
  deriving DecidableEq, Repr

/-- The echo of a probe: the server that sends it and the probe's number (R127). -/
structure ProbeEcho where
  srv : Nat
  no  : Nat
  deriving DecidableEq, Repr

/-- One chunk on the halo tree (R166, R167). `node` is the receiving node, `child` the child it comes from; `fenced` says that
the contribution is a SENDR's, whose release is still awaited (R164); `void` that it is not to be counted, as its sender's status will not
be OK (R330). -/
structure HChunk where
  node   : Nat
  child  : Nat
  src    : Rank
  group  : BitVec 16
  tag    : W32
  xid    : Nat
  seq    : W32
  len    : Nat
  round  : Nat
  chunk  : Nat
  data   : List Byte
  fenced : Bool
  void   : Bool
  deriving DecidableEq, Repr

/-- Who asks for a DRAM burst: rank, partition and context for the log record (R397). -/
structure Requester where
  rank : Rank
  part : Nat
  actx : Nat
  deriving DecidableEq, Repr

/-- A host descriptor (R310). -/
structure Descriptor where
  op      : BitVec 8
  actx    : BitVec 16
  rank    : Rank
  tag     : W32
  group   : BitVec 16
  len     : W32
  tagmask : W32
  haddr   : Word
  va      : Word
  cookie  : Word
  deriving DecidableEq, Repr

/-- What the management controller assigns to a partition (R32, R308). A tile may come with a layout of its anvil regions: BASE and
SIZE of each (R155); without one they stay as they are. -/
inductive Resource where
  | tile (ep : Nat) (regions : List (Nat × Nat))
  | ctx (actx : Nat)
  | key (slot : Nat)
  | group (g : Nat)
  | stage (n : Nat)
  | fn (f : Nat)
  deriving DecidableEq, Repr

/-- The partition parameters of R34, R372, R434 and R435. -/
inductive Param where
  | ageStep | ageLimit | horizon | maxPend | absLimit | shardTo | retryMax | retIdle
  deriving DecidableEq, Repr

/-- A context descriptor at one server (R141, R400); PENDLIMIT in microseconds, 100 ms by default. -/
structure CtxDesc where
  valid     : Bool
  part      : Nat
  ckey      : Nat
  root      : Nat
  pool      : List Nat
  pend      : Bool
  pendLimit : Nat := 100000
  deriving DecidableEq, Repr

/-- What start-up finds in flash: whether each copy verifies, and the harvest map (R316, R26). -/
structure Flash where
  copyA   : Bool
  copyB   : Bool
  harvest : List Nat
  deriving DecidableEq, Repr

/-- The rows of the opcode table. A field of a slot word has the width its encoding gives it. -/
inductive Instr where
  /-- NOP (R177): The C-slot word 0x0000_0000 does nothing. -/
  | nop
  /-- BR (R195): Unconditional transfer to target × 4. -/
  | br (t : BitVec 16)
  /-- BRP (R195): Transfers when pk xor NEG; with S = 1 it speculates in the direction HINT gives, and with S = 0 it stalls until pk lands. -/
  | brp (s : BitVec 1) (n : BitVec 1) (h : BitVec 1) (k : BitVec 3) (t : BitVec 16)
  /-- CALL (R195): Writes the successor address to s31 and transfers to the target. -/
  | call (t : BitVec 16)
  /-- CALLR (R195): Writes the successor address to s31 and transfers to sa[17:2] × 4. -/
  | callr (a : BitVec 5)
  /-- JMPR (R195): Transfers to sa[17:2] × 4. -/
  | jmpr (a : BitVec 5)
  /-- LOOP (R197): Sets up hardware loop counter k with the count in sa, or skips the body when the count is 0. -/
  | loop (k : BitVec 2) (a : BitVec 5) (t : BitVec 16)
  /-- LOOPI (R197): Sets up hardware loop counter k with an immediate count of 1 to 256. -/
  | loopi (k : BitVec 2) (n : BitVec 8) (t : BitVec 16)
  /-- END (R198): Closes contrails, waits for outstanding requests, issues, cancels open receives and ends the thread. -/
  | endT
  /-- TRAP (R199): Takes a TRAP_INSN trap with TINFO := n after the bundle, or parks the tile in handler mode. -/
  | trap (n : BitVec 16)
  /-- TRET (R200): Leaves handler mode, re-issues the slots named in TMASK from their captures, then continues at TPC.NEXT and takes any pending trap. -/
  | tret
  /-- WAITB (R201): Stalls until the PHASE of NBk reaches sa[7:0], then acquires the bytes of the counted requests. -/
  | waitb (a : BitVec 5) (k : BitVec 6)
  /-- ARRB (R201): Bumps named barrier k once. -/
  | arrb (k : BitVec 6)
  /-- SETB (R201): Sets TARGET of NBk from sa and clears COUNT, leaving PHASE unchanged. -/
  | setb (a : BitVec 5) (k : BitVec 6)
  /-- WAITW (R203): Gates the clocks until the stage dispatcher delivers a work item, or completes at once with all ones when the gang binds no stage. -/
  | waitw
  /-- DONEW (R204): Sends an acknowledgement of the ticket in sa to the stage dispatcher. -/
  | donew (a : BitVec 5)
  /-- YIELD (R206): Holds the issue unit idle for one step, giving the NI the tile-store banks. -/
  | yield
  /-- SLEEPT (R205): Gates the clocks while TIME < sa. -/
  | sleept (a : BitVec 5)
  /-- GETC (R207): Reads a control register into sd. -/
  | getc (d : BitVec 5) (i : BitVec 12)
  /-- SETC (R207): Writes sa to a control register under that register's own rules. -/
  | setc (a : BitVec 5) (i : BitVec 12)
  /-- UPOOL_WRITE (R94): A SETC of UPOOL base or size takes effect only when the pool holds no message or reservation, and is otherwise ignored. -/
  | upoolWrite (size : Bool) (v : Word)
  /-- NAMED_BARRIER_WRITE (R113): A SETC of NBk is applied before the bumps of its own step. -/
  | namedBarrierWrite (k : BitVec 6) (v : Word)
  /-- TOUCH_WRITE (R126): A SETC replaces the touched-server mask, which changes the set of servers that the next FENCE probes. -/
  | touchWrite (k : BitVec 2) (v : Word)
  /-- FPFLAGS_CLEAR (R74): A W1C write clears sticky FP flags at issue. -/
  | fpflagsClear (v : Word)
  /-- OORFLAG_CLEAR (R344): A W1C write clears OOR after the accesses of its own bundle. -/
  | oorflagClear (v : Word)
  /-- FENCE (R127): Probes every touched server, stalls until all echoes arrive, then clears TOUCH. -/
  | fence
  /-- SYNCX (R209): Stalls until the matrix and tile-store engines are idle. -/
  | syncx
  /-- BRANCH_RESOLVE (R189): When a speculated predicate lands, the speculative bundles commit or are squashed and the correct path refills. -/
  | branchResolve
  /-- ADD (R210): sd := sa + sb modulo 2^64. -/
  | add (d : BitVec 5) (a : BitVec 5) (b : BitVec 5)
  /-- SUB (R210): sd := sa − sb modulo 2^64. -/
  | sub (d : BitVec 5) (a : BitVec 5) (b : BitVec 5)
  /-- AND (R210): Bitwise AND. -/
  | and (d : BitVec 5) (a : BitVec 5) (b : BitVec 5)
  /-- OR (R210): Bitwise OR. -/
  | or (d : BitVec 5) (a : BitVec 5) (b : BitVec 5)
  /-- XOR (R210): Bitwise XOR. -/
  | xor (d : BitVec 5) (a : BitVec 5) (b : BitVec 5)
  /-- SHL (R210): Shift left by sb[5:0]. -/
  | shl (d : BitVec 5) (a : BitVec 5) (b : BitVec 5)
  /-- SHR (R210): Logical shift right by sb[5:0]. -/
  | shr (d : BitVec 5) (a : BitVec 5) (b : BitVec 5)
  /-- SRA (R210): Arithmetic shift right by sb[5:0]. -/
  | sra (d : BitVec 5) (a : BitVec 5) (b : BitVec 5)
  /-- MIN (R210): Signed minimum. -/
  | min (d : BitVec 5) (a : BitVec 5) (b : BitVec 5)
  /-- MAX (R210): Signed maximum. -/
  | max (d : BitVec 5) (a : BitVec 5) (b : BitVec 5)
  /-- MINZ (R210): Unsigned minimum. -/
  | minz (d : BitVec 5) (a : BitVec 5) (b : BitVec 5)
  /-- MAXZ (R210): Unsigned maximum. -/
  | maxz (d : BitVec 5) (a : BitVec 5) (b : BitVec 5)
  /-- MUL (R210): Product modulo 2^64. -/
  | mul (d : BitVec 5) (a : BitVec 5) (b : BitVec 5)
  /-- MULH (R210): High 64 bits of the signed product. -/
  | mulh (d : BitVec 5) (a : BitVec 5) (b : BitVec 5)
  /-- MULHZ (R210): High 64 bits of the unsigned product. -/
  | mulhz (d : BitVec 5) (a : BitVec 5) (b : BitVec 5)
  /-- DIV (R210): Signed quotient truncated toward zero, with the edge cases of R81. -/
  | div (d : BitVec 5) (a : BitVec 5) (b : BitVec 5)
  /-- DIVZ (R210): Unsigned quotient. -/
  | divz (d : BitVec 5) (a : BitVec 5) (b : BitVec 5)
  /-- REM (R210): Signed remainder, taking the dividend's sign. -/
  | rem (d : BitVec 5) (a : BitVec 5) (b : BitVec 5)
  /-- REMZ (R210): Unsigned remainder. -/
  | remz (d : BitVec 5) (a : BitVec 5) (b : BitVec 5)
  /-- CLZ (R210): Count of leading zero bits. -/
  | clz (d : BitVec 5) (a : BitVec 5)
  /-- POPC (R210): Count of set bits. -/
  | popc (d : BitVec 5) (a : BitVec 5)
  /-- ANDN (R210): sa and not sb. -/
  | andn (d : BitVec 5) (a : BitVec 5) (b : BitVec 5)
  /-- ADDI (R211): Adds a sign-extended 16-bit immediate. -/
  | addi (d : BitVec 5) (a : BitVec 5) (i : BitVec 16)
  /-- ANDI (R211): ANDs with a zero-extended immediate. -/
  | andi (d : BitVec 5) (a : BitVec 5) (i : BitVec 16)
  /-- ORI (R211): ORs with a zero-extended immediate. -/
  | ori (d : BitVec 5) (a : BitVec 5) (i : BitVec 16)
  /-- XORI (R211): XORs with a zero-extended immediate. -/
  | xori (d : BitVec 5) (a : BitVec 5) (i : BitVec 16)
  /-- SHLI (R211): Shift left by an immediate n. -/
  | shli (d : BitVec 5) (a : BitVec 5) (n : BitVec 6)
  /-- SHRI (R211): Logical shift right by an immediate n. -/
  | shri (d : BitVec 5) (a : BitVec 5) (n : BitVec 6)
  /-- SRAI (R211): Arithmetic shift right by an immediate n. -/
  | srai (d : BitVec 5) (a : BitVec 5) (n : BitVec 6)
  /-- MOVI (R211): sd := the sign-extended imm16. -/
  | movi (d : BitVec 5) (i : BitVec 16)
  /-- MOVHI (R211): Replaces bits 16q + 15:16q of sd with imm16. -/
  | movhi (d : BitVec 5) (q : BitVec 2) (i : BitVec 16)
  /-- CMP (R212): pk := cond(sa, sb). -/
  | cmp (k : BitVec 3) (a : BitVec 5) (b : BitVec 5) (c : BitVec 3)
  /-- CMPI (R212): pk := cond(sa, imm13). -/
  | cmpi (k : BitVec 3) (a : BitVec 5) (c : BitVec 3) (i : BitVec 13)
  /-- SEL (R212): sd := sa if pk, else sb. -/
  | sel (d : BitVec 5) (a : BitVec 5) (b : BitVec 5) (k : BitVec 3)
  /-- BFX (R213): Extracts a zero-extended bit field. -/
  | bfx (d : BitVec 5) (a : BitVec 5) (p : BitVec 6) (l : BitVec 6)
  /-- BFXS (R213): Extracts a sign-extended bit field. -/
  | bfxs (d : BitVec 5) (a : BitVec 5) (p : BitVec 6) (l : BitVec 6)
  /-- BFI (R213): Inserts a bit field of sa into sd. -/
  | bfi (d : BitVec 5) (a : BitVec 5) (p : BitVec 6) (l : BitVec 6)
  /-- PAND (R214): pk := pi and pj. -/
  | pand (k : BitVec 3) (i : BitVec 3) (j : BitVec 3)
  /-- POR (R214): pk := pi or pj. -/
  | por (k : BitVec 3) (i : BitVec 3) (j : BitVec 3)
  /-- PXOR (R214): pk := pi xor pj. -/
  | pxor (k : BitVec 3) (i : BitVec 3) (j : BitVec 3)
  /-- PANDN (R214): pk := pi and not pj. -/
  | pandn (k : BitVec 3) (i : BitVec 3) (j : BitVec 3)
  /-- FADD (R215): FP32 addition rounded under RM. -/
  | fadd (d : BitVec 4) (a : BitVec 4) (b : BitVec 4)
  /-- FSUB (R215): FP32 subtraction rounded under RM. -/
  | fsub (d : BitVec 4) (a : BitVec 4) (b : BitVec 4)
  /-- FMUL (R215): FP32 multiplication rounded under RM. -/
  | fmul (d : BitVec 4) (a : BitVec 4) (b : BitVec 4)
  /-- FDIV (R215): FP32 division rounded under RM. -/
  | fdiv (d : BitVec 4) (a : BitVec 4) (b : BitVec 4)
  /-- FMIN (R215): FP32 minimum, with −0 below +0. -/
  | fmin (d : BitVec 4) (a : BitVec 4) (b : BitVec 4)
  /-- FMAX (R215): FP32 maximum, with −0 below +0. -/
  | fmax (d : BitVec 4) (a : BitVec 4) (b : BitVec 4)
  /-- FSQRT (R215): FP32 square root rounded under RM. -/
  | fsqrt (d : BitVec 4) (a : BitVec 4)
  /-- FABS (R215): Clears the sign bit. -/
  | fabs (d : BitVec 4) (a : BitVec 4)
  /-- FNEG (R215): Inverts the sign bit. -/
  | fneg (d : BitVec 4) (a : BitVec 4)
  /-- FFMA (R215): fd := fa × fb + fc with one rounding. -/
  | ffma (d : BitVec 4) (a : BitVec 4) (b : BitVec 4) (c : BitVec 4)
  /-- FCMP (R216): Sets pk by an FP32 comparison. -/
  | fcmp (k : BitVec 3) (a : BitVec 4) (b : BitVec 4) (c : BitVec 3)
  /-- FCVT_F2I (R217): Converts FP32 to a signed 64-bit integer. -/
  | fcvtF2i (d : BitVec 5) (a : BitVec 4)
  /-- FCVT_F2IZ (R217): Converts FP32 to an unsigned 64-bit integer. -/
  | fcvtF2iz (d : BitVec 5) (a : BitVec 4)
  /-- FCVT_I2F (R217): Converts a signed integer to FP32. -/
  | fcvtI2f (d : BitVec 4) (a : BitVec 5)
  /-- FCVT_IZ2F (R217): Converts an unsigned integer to FP32. -/
  | fcvtIz2f (d : BitVec 4) (a : BitVec 5)
  /-- FCVT_F2BF (R217): Narrows FP32 to BF16 in sd[15:0]. -/
  | fcvtF2bf (d : BitVec 5) (a : BitVec 4)
  /-- FCVT_BF2F (R217): Widens BF16 to FP32. -/
  | fcvtBf2f (d : BitVec 4) (a : BitVec 5)
  /-- FCVT_F2H (R217): Narrows FP32 to FP16 in sd[15:0]. -/
  | fcvtF2h (d : BitVec 5) (a : BitVec 4)
  /-- FCVT_H2F (R217): Widens FP16 to FP32. -/
  | fcvtH2f (d : BitVec 4) (a : BitVec 5)
  /-- MOVSF (R218): sd := the bits of fa, zero-extended. -/
  | movsf (d : BitVec 5) (a : BitVec 4)
  /-- MOVFS (R218): fd := sa[31:0]. -/
  | movfs (d : BitVec 4) (a : BitVec 5)
  /-- FMOVI (R218): fd := imm16 × 2^16. -/
  | fmovi (d : BitVec 4) (i : BitVec 16)
  /-- LDB (R220): Loads a sign-extended byte. -/
  | ldb (d : BitVec 5) (a : BitVec 5) (o : BitVec 13)
  /-- LDBZ (R220): Loads a zero-extended byte. -/
  | ldbz (d : BitVec 5) (a : BitVec 5) (o : BitVec 13)
  /-- LDH (R220): Loads a sign-extended half word. -/
  | ldh (d : BitVec 5) (a : BitVec 5) (o : BitVec 13)
  /-- LDHZ (R220): Loads a zero-extended half word. -/
  | ldhz (d : BitVec 5) (a : BitVec 5) (o : BitVec 13)
  /-- LDW (R220): Loads a sign-extended word. -/
  | ldw (d : BitVec 5) (a : BitVec 5) (o : BitVec 13)
  /-- LDWZ (R220): Loads a zero-extended word. -/
  | ldwz (d : BitVec 5) (a : BitVec 5) (o : BitVec 13)
  /-- LDD (R220): Loads 8 bytes. -/
  | ldd (d : BitVec 5) (a : BitVec 5) (o : BitVec 13)
  /-- STB (R220): Stores 1 byte. -/
  | stb (d : BitVec 5) (a : BitVec 5) (o : BitVec 13)
  /-- STH (R220): Stores 2 bytes. -/
  | sth (d : BitVec 5) (a : BitVec 5) (o : BitVec 13)
  /-- STW (R220): Stores 4 bytes. -/
  | stw (d : BitVec 5) (a : BitVec 5) (o : BitVec 13)
  /-- STD (R220): Stores 8 bytes. -/
  | std (d : BitVec 5) (a : BitVec 5) (o : BitVec 13)
  /-- LDX (R221): Indexed load at sa + sb, with sb optionally scaled by the width. -/
  | ldx (d : BitVec 5) (a : BitVec 5) (b : BitVec 5) (c : BitVec 1) (z : BitVec 3)
  /-- STX (R221): Indexed store at sa + sb, with sb optionally scaled by the width. -/
  | stx (d : BitVec 5) (a : BitVec 5) (b : BitVec 5) (c : BitVec 1) (z : BitVec 3)
  /-- LDV (R222): Loads 64 contiguous lanes. -/
  | ldv (d : BitVec 5) (a : BitVec 5) (i : BitVec 16)
  /-- STV (R222): Stores 64 contiguous lanes. -/
  | stv (d : BitVec 5) (a : BitVec 5) (i : BitVec 16)
  /-- LDVS (R222): Loads 64 lanes at stride sb. -/
  | ldvs (d : BitVec 5) (a : BitVec 5) (b : BitVec 5)
  /-- STVS (R222): Stores 64 lanes at stride sb. -/
  | stvs (d : BitVec 5) (a : BitVec 5) (b : BitVec 5)
  /-- LDVX (R222): Gathers 64 lanes at the lane offsets held in vb. -/
  | ldvx (d : BitVec 5) (a : BitVec 5) (b : BitVec 5)
  /-- STVX (R222): Scatters 64 lanes to the lane offsets held in vb. -/
  | stvx (d : BitVec 5) (a : BitVec 5) (b : BitVec 5)
  /-- LDF (R220): Loads 4 bytes into fd. -/
  | ldf (d : BitVec 4) (a : BitVec 5) (o : BitVec 13)
  /-- STF (R220): Stores fd as 4 bytes. -/
  | stf (d : BitVec 4) (a : BitVec 5) (o : BitVec 13)
  /-- ANVW (R225): Copies L bytes from the tile store into anvil region j. -/
  | anvw (a : BitVec 5) (b : BitVec 5)
  /-- ANVW_COMPLETE (R225): When an ANVW's engine busy time ends, the ANVW completes and AGENj rises by 1. -/
  | anvwComplete
  /-- ANVR (R225): Copies L bytes from anvil region j to the tile store. -/
  | anvr (a : BitVec 5) (b : BitVec 5)
  /-- FILL (R224): Writes the byte sb[39:32] over sb[31:0] bytes from address sa. -/
  | fill (a : BitVec 5) (b : BitVec 5)
  /-- COPY (R224): Copies sb[31:0] bytes from sa to sd; overlapping ranges copy correctly. -/
  | copy (d : BitVec 5) (a : BitVec 5) (b : BitVec 5)
  /-- LDXA (R223): Loads 64 XA wire elements into xa0 or xa1. -/
  | ldxa (d : BitVec 1) (a : BitVec 5) (o : BitVec 13)
  /-- STXA (R223): Stores xa0 or xa1 as 64 XA wire elements. -/
  | stxa (d : BitVec 1) (a : BitVec 5) (o : BitVec 13)
  /-- VADD (R232): Adds the selected f32 lanes. -/
  | vadd (d : BitVec 5) (a : BitVec 5) (b : BitVec 5) (m : BitVec 3)
  /-- VSUB (R232): Subtracts the selected f32 lanes. -/
  | vsub (d : BitVec 5) (a : BitVec 5) (b : BitVec 5) (m : BitVec 3)
  /-- VMUL (R232): Multiplies the selected f32 lanes. -/
  | vmul (d : BitVec 5) (a : BitVec 5) (b : BitVec 5) (m : BitVec 3)
  /-- VMIN (R232): Lane-wise f32 minimum. -/
  | vmin (d : BitVec 5) (a : BitVec 5) (b : BitVec 5) (m : BitVec 3)
  /-- VMAX (R232): Lane-wise f32 maximum. -/
  | vmax (d : BitVec 5) (a : BitVec 5) (b : BitVec 5) (m : BitVec 3)
  /-- VABS (R232): Clears the lane sign bits. -/
  | vabs (d : BitVec 5) (a : BitVec 5) (m : BitVec 3)
  /-- VNEG (R232): Inverts the lane sign bits. -/
  | vneg (d : BitVec 5) (a : BitVec 5) (m : BitVec 3)
  /-- VFMA (R232): vd := va × vb + vd with one rounding. -/
  | vfma (d : BitVec 5) (a : BitVec 5) (b : BitVec 5) (m : BitVec 3)
  /-- VFMS (R232): vd := vd − va × vb with one rounding. -/
  | vfms (d : BitVec 5) (a : BitVec 5) (b : BitVec 5) (m : BitVec 3)
  /-- VRCP (R233): Correctly rounded reciprocal. -/
  | vrcp (d : BitVec 5) (a : BitVec 5) (m : BitVec 3)
  /-- VRSQ (R233): Correctly rounded reciprocal square root. -/
  | vrsq (d : BitVec 5) (a : BitVec 5) (m : BitVec 3)
  /-- VEXP2 (R233): Correctly rounded 2^x. -/
  | vexp2 (d : BitVec 5) (a : BitVec 5) (m : BitVec 3)
  /-- VLOG2 (R233): Correctly rounded log2 x. -/
  | vlog2 (d : BitVec 5) (a : BitVec 5) (m : BitVec 3)
  /-- VTANH (R233): Correctly rounded tanh x. -/
  | vtanh (d : BitVec 5) (a : BitVec 5) (m : BitVec 3)
  /-- VSIGM (R233): Correctly rounded logistic sigmoid. -/
  | vsigm (d : BitVec 5) (a : BitVec 5) (m : BitVec 3)
  /-- VSQRT (R233): Correctly rounded square root. -/
  | vsqrt (d : BitVec 5) (a : BitVec 5) (m : BitVec 3)
  /-- VIADD (R235): Integer lane addition modulo 2^32. -/
  | viadd (d : BitVec 5) (a : BitVec 5) (b : BitVec 5) (m : BitVec 3)
  /-- VISUB (R235): Integer lane subtraction modulo 2^32. -/
  | visub (d : BitVec 5) (a : BitVec 5) (b : BitVec 5) (m : BitVec 3)
  /-- VIMUL (R235): Integer lane multiplication, low 32 bits. -/
  | vimul (d : BitVec 5) (a : BitVec 5) (b : BitVec 5) (m : BitVec 3)
  /-- VAND (R235): Lane-wise AND. -/
  | vand (d : BitVec 5) (a : BitVec 5) (b : BitVec 5) (m : BitVec 3)
  /-- VOR (R235): Lane-wise OR. -/
  | vor (d : BitVec 5) (a : BitVec 5) (b : BitVec 5) (m : BitVec 3)
  /-- VXOR (R235): Lane-wise XOR. -/
  | vxor (d : BitVec 5) (a : BitVec 5) (b : BitVec 5) (m : BitVec 3)
  /-- VSHL (R235): Lane-wise shift left. -/
  | vshl (d : BitVec 5) (a : BitVec 5) (b : BitVec 5) (m : BitVec 3)
  /-- VSHR (R235): Lane-wise logical shift right. -/
  | vshr (d : BitVec 5) (a : BitVec 5) (b : BitVec 5) (m : BitVec 3)
  /-- VSRA (R235): Lane-wise arithmetic shift right. -/
  | vsra (d : BitVec 5) (a : BitVec 5) (b : BitVec 5) (m : BitVec 3)
  /-- VIMIN (R235): Lane-wise signed minimum. -/
  | vimin (d : BitVec 5) (a : BitVec 5) (b : BitVec 5) (m : BitVec 3)
  /-- VIMAX (R235): Lane-wise signed maximum. -/
  | vimax (d : BitVec 5) (a : BitVec 5) (b : BitVec 5) (m : BitVec 3)
  /-- VCMP (R236): Sets mask bits by a lane comparison. -/
  | vcmp (k : BitVec 3) (a : BitVec 5) (b : BitVec 5) (m : BitVec 3) (c : BitVec 8)
  /-- VSEL (R237): Selects each lane from va or vb by mask mk. -/
  | vsel (d : BitVec 5) (a : BitVec 5) (b : BitVec 5) (k : BitVec 3)
  /-- VCVT_F2BF (R238): Narrows f32 lanes to packed BF16. -/
  | vcvtF2bf (d : BitVec 5) (a : BitVec 5) (m : BitVec 3)
  /-- VCVT_BF2F (R238): Widens packed BF16 to f32 lanes. -/
  | vcvtBf2f (d : BitVec 5) (a : BitVec 5) (m : BitVec 3)
  /-- VCVT_F2H (R238): Narrows f32 lanes to packed FP16. -/
  | vcvtF2h (d : BitVec 5) (a : BitVec 5) (m : BitVec 3)
  /-- VCVT_H2F (R238): Widens packed FP16 to f32 lanes. -/
  | vcvtH2f (d : BitVec 5) (a : BitVec 5) (m : BitVec 3)
  /-- VCVT_F2E4 (R238): Narrows f32 lanes to packed E4M3. -/
  | vcvtF2e4 (d : BitVec 5) (a : BitVec 5) (m : BitVec 3)
  /-- VCVT_E42F (R238): Widens packed E4M3 to f32 lanes. -/
  | vcvtE42f (d : BitVec 5) (a : BitVec 5) (m : BitVec 3)
  /-- VCVT_F2E5 (R238): Narrows f32 lanes to packed E5M2. -/
  | vcvtF2e5 (d : BitVec 5) (a : BitVec 5) (m : BitVec 3)
  /-- VCVT_E52F (R238): Widens packed E5M2 to f32 lanes. -/
  | vcvtE52f (d : BitVec 5) (a : BitVec 5) (m : BitVec 3)
  /-- VCVT_F2I (R238): Converts f32 lanes to signed i32 lanes. -/
  | vcvtF2i (d : BitVec 5) (a : BitVec 5) (m : BitVec 3)
  /-- VCVT_I2F (R238): Converts signed i32 lanes to f32 lanes. -/
  | vcvtI2f (d : BitVec 5) (a : BitVec 5) (m : BitVec 3)
  /-- VBMAX (R242): Writes each block's greatest lane magnitude to its selected lanes. -/
  | vbmax (d : BitVec 5) (a : BitVec 5) (m : BitVec 3)
  /-- VPACK4 (R240): Narrows 64 f32 lanes into two E2M1 blocks using the sidecars in vb. -/
  | vpack4 (d : BitVec 5) (a : BitVec 5) (b : BitVec 5)
  /-- VUNPK4 (R241): Widens two E2M1 blocks to 64 f32 lanes. -/
  | vunpk4 (d : BitVec 5) (a : BitVec 5) (b : BitVec 5)
  /-- VSUM (R234): Exact sum of the selected lanes, rounded once into fd. -/
  | vsum (d : BitVec 4) (a : BitVec 5) (m : BitVec 3)
  /-- VRMAX (R234): Greatest selected lane into fd. -/
  | vrmax (d : BitVec 4) (a : BitVec 5) (m : BitVec 3)
  /-- VRMIN (R234): Least selected lane into fd. -/
  | vrmin (d : BitVec 4) (a : BitVec 5) (m : BitVec 3)
  /-- VBCAST (R243): Broadcasts sa[31:0] to the selected lanes. -/
  | vbcast (d : BitVec 5) (a : BitVec 5) (m : BitVec 3)
  /-- VBCASTF (R243): Broadcasts fa to the selected lanes. -/
  | vbcastf (d : BitVec 5) (f : BitVec 4) (m : BitVec 3)
  /-- VSHUF (R243): Permutes the lanes of va by the indices in vb. -/
  | vshuf (d : BitVec 5) (a : BitVec 5) (b : BitVec 5) (m : BitVec 3)
  /-- VSLIDE (R243): Slides lanes across va and vb by n. -/
  | vslide (d : BitVec 5) (a : BitVec 5) (b : BitVec 5) (m : BitVec 3) (n : BitVec 6)
  /-- VMOVM_TO_MASK (R245): mk := sa. -/
  | vmovmToMask (k : BitVec 3) (a : BitVec 5)
  /-- VMAND (R245): mk := mi and mj. -/
  | vmand (k : BitVec 3) (i : BitVec 3) (j : BitVec 3)
  /-- VMOR (R245): mk := mi or mj. -/
  | vmor (k : BitVec 3) (i : BitVec 3) (j : BitVec 3)
  /-- VMNOT (R245): mk := not mi. -/
  | vmnot (k : BitVec 3) (i : BitVec 3)
  /-- VMOVM_TO_SCALAR (R245): sd := mi. -/
  | vmovmToScalar (d : BitVec 5) (i : BitVec 3)
  /-- VXAC_F32 (R246): Contributes the selected f32 lanes to the exact accumulator. -/
  | vxacF32 (d : BitVec 1) (a : BitVec 5) (m : BitVec 3)
  /-- VXAC_BF16 (R246): Contributes the selected BF16 lanes to the exact accumulator. -/
  | vxacBf16 (d : BitVec 1) (a : BitVec 5) (m : BitVec 3)
  /-- VXRD_F32 (R247): Reads exact accumulator lanes to FP32 with one rounding. -/
  | vxrdF32 (d : BitVec 5) (a : BitVec 1) (m : BitVec 3)
  /-- VXRD_BF16 (R247): Reads exact accumulator lanes to BF16 with one rounding. -/
  | vxrdBf16 (d : BitVec 5) (a : BitVec 1) (m : BitVec 3)
  /-- VXCLR (R247): Clears the selected exact accumulator lanes. -/
  | vxclr (d : BitVec 1) (m : BitVec 3)
  /-- VLANE (R243): Writes the lane index i into lane i. -/
  | vlane (d : BitVec 5) (m : BitVec 3)
  /-- VGETS (R244): sd := lane n of va. -/
  | vgets (d : BitVec 5) (a : BitVec 5) (n : BitVec 6)
  /-- VPUTS (R244): Lane n of vd := sa[31:0]. -/
  | vputs (d : BitVec 5) (a : BitVec 5) (n : BitVec 6)
  /-- MLDB (R251): Latches a B block from the anvil into the B latch. -/
  | mldb (a : BitVec 5) (f : BitVec 3)
  /-- MLDBG (R157): Latches a B block once AGENj reaches the expected generation, stalls while it is behind, and traps GENERATION once it has passed. -/
  | mldbg (a : BitVec 5) (b : BitVec 5) (f : BitVec 3)
  /-- MMA_BB (R253): BF16 × bf16 matrix multiply-accumulate into acck. -/
  | mmaBb (k : BitVec 2) (a : BitVec 5) (b : BitVec 5) (c : BitVec 5)
  /-- MMA_HH (R253): FP16 × fp16 matrix multiply-accumulate. -/
  | mmaHh (k : BitVec 2) (a : BitVec 5) (b : BitVec 5) (c : BitVec 5)
  /-- MMA_EE (R253): E4M3 × e4m3 matrix multiply-accumulate. -/
  | mmaEe (k : BitVec 2) (a : BitVec 5) (b : BitVec 5) (c : BitVec 5)
  /-- MMA_EF (R253): E4M3 × e5m2 matrix multiply-accumulate. -/
  | mmaEf (k : BitVec 2) (a : BitVec 5) (b : BitVec 5) (c : BitVec 5)
  /-- MMA_FE (R253): E5M2 × e4m3 matrix multiply-accumulate. -/
  | mmaFe (k : BitVec 2) (a : BitVec 5) (b : BitVec 5) (c : BitVec 5)
  /-- MMA_FF (R253): E5M2 × e5m2 matrix multiply-accumulate. -/
  | mmaFf (k : BitVec 2) (a : BitVec 5) (b : BitVec 5) (c : BitVec 5)
  /-- MMA_EQ (R253): E4M3 × e2m1 matrix multiply-accumulate with K = 128. -/
  | mmaEq (k : BitVec 2) (a : BitVec 5) (b : BitVec 5) (c : BitVec 5)
  /-- MMA_BQ (R253): BF16 × e2m1 matrix multiply-accumulate with K = 128. -/
  | mmaBq (k : BitVec 2) (a : BitVec 5) (b : BitVec 5) (c : BitVec 5)
  /-- MZERO (R255): Zeros accumulator k. -/
  | mzero (k : BitVec 2)
  /-- MRD (R255): Reads accumulator row sa[5:0] into vd. -/
  | mrd (d : BitVec 5) (a : BitVec 5) (k : BitVec 2)
  /-- MWR (R255): Writes vb into accumulator row sa[5:0]. -/
  | mwr (a : BitVec 5) (b : BitVec 5) (k : BitVec 2)
  /-- MSTO (R256): Stores all 64 accumulator rows to the tile store in f32, bf16 or fp16. -/
  | msto (a : BitVec 5) (b : BitVec 5) (f : BitVec 2) (k : BitVec 2)
  /-- MBIAS (R255): Sets every row of the accumulator to vb. -/
  | mbias (b : BitVec 5) (k : BitVec 2)
  /-- SEND (R264): Sends a message, eager or by rendezvous. -/
  | send (d : BitVec 4) (a : BitVec 5) (b : BitVec 5) (c : BitVec 5)
  /-- SENDR (R264): Sends a message whose RELEASE follows the tile's earlier server requests. -/
  | sendr (d : BitVec 4) (a : BitVec 5) (b : BitVec 5) (c : BitVec 5)
  /-- SENDT (R264): Sends a message held until TIME ≥ TSEND. -/
  | sendt (d : BitVec 4) (a : BitVec 5) (b : BitVec 5) (c : BitVec 5)
  /-- SENDV (R264): Sends the 256 bytes of vc eagerly. -/
  | sendv (d : BitVec 4) (a : BitVec 5) (b : BitVec 5) (c : BitVec 5)
  /-- POST (R265): Posts a receive into a tile-store buffer after searching the unexpected store. -/
  | post (d : BitVec 4) (a : BitVec 5) (b : BitVec 5) (c : BitVec 5)
  /-- POSTM (R100): Posts a mailbox with a hold copy reserved in the pool. -/
  | postm (d : BitVec 4) (a : BitVec 5) (b : BitVec 5) (c : BitVec 5)
  /-- POSTA (R102): Posts a receive into an anvil region. -/
  | posta (d : BitVec 4) (a : BitVec 5) (b : BitVec 5) (c : BitVec 5)
  /-- WAITM (R267): Stalls until the entry is observable, then observes it and sets pj. -/
  | waitm (k : BitVec 4) (j : BitVec 3)
  /-- TESTM (R267): Observes the entry without stalling when it is observable. -/
  | testm (k : BitVec 4) (j : BitVec 3)
  /-- MREC (R268): Reads word w of the entry's completion record. -/
  | mrec (d : BitVec 5) (k : BitVec 4) (w : BitVec 2)
  /-- CANCEL (R269): Cancels a receive, mailbox or subscription. -/
  | cancel (k : BitVec 4)
  /-- PROBE (R266): Searches the unexpected store without posting. -/
  | probe (d : BitVec 5) (a : BitVec 5) (b : BitVec 5) (j : BitVec 3)
  /-- GET (R271): Reads bytes from servers into a tile-store buffer. -/
  | get (d : BitVec 4) (a : BitVec 5) (b : BitVec 5) (c : BitVec 5)
  /-- PUT (R271): Writes bytes to servers, optionally with a notify. -/
  | put (d : BitVec 4) (a : BitVec 5) (b : BitVec 5) (c : BitVec 5)
  /-- GETB (R271): Reads a box described in the tile store. -/
  | getb (d : BitVec 4) (a : BitVec 5) (b : BitVec 5) (c : BitVec 5)
  /-- PUTB (R271): Writes a box. -/
  | putb (d : BitVec 4) (a : BitVec 5) (b : BitVec 5) (c : BitVec 5)
  /-- GATH (R271): Gathers listed elements. -/
  | gath (d : BitVec 4) (a : BitVec 5) (b : BitVec 5) (c : BitVec 5)
  /-- SCAT (R271): Scatters listed elements. -/
  | scat (d : BitVec 4) (a : BitVec 5) (b : BitVec 5) (c : BitVec 5)
  /-- APPLY (R271): Requests an atomic read-operate-write at a server. -/
  | apply (d : BitVec 4) (a : BitVec 5) (b : BitVec 5) (c : BitVec 5)
  /-- CAS (R271): Requests an atomic compare-and-swap at a server. -/
  | cas (d : BitVec 4) (a : BitVec 5) (b : BitVec 5) (c : BitVec 5)
  /-- PUBL (R273): Opens a contrail over a buffer. -/
  | publ (d : BitVec 4) (a : BitVec 5) (b : BitVec 5) (c : BitVec 5)
  /-- SUBS (R273): Posts a contrail subscription and sends SUBSCRIBE. -/
  | subs (d : BitVec 4) (a : BitVec 5) (b : BitVec 5) (c : BitVec 5)
  /-- UNPUB (R273): Closes a contrail after its running round. -/
  | unpub (k : BitVec 4)
  /-- FREEH (R270): Frees a completed entry, or detaches an incomplete one, and sets the handle free. -/
  | freeh (k : BitVec 4)
  /-- BLD (R280): Loads a 320-byte belief block image. -/
  | bld (d : BitVec 4) (a : BitVec 5) (o : BitVec 16)
  /-- BST (R280): Stores a belief block image. -/
  | bst (d : BitVec 4) (a : BitVec 5) (o : BitVec 16)
  /-- BZERO (R281): Sets a belief block to zero with DIM 1. -/
  | bzero (d : BitVec 4)
  /-- BADD (R281): Adds two belief blocks. -/
  | badd (d : BitVec 4) (a : BitVec 4) (b : BitVec 4)
  /-- BSUB (R281): Subtracts two belief blocks. -/
  | bsub (d : BitVec 4) (a : BitVec 4) (b : BitVec 4)
  /-- BPERM (R282): Rearranges a block by the selector in sb. -/
  | bperm (d : BitVec 4) (a : BitVec 4) (b : BitVec 5)
  /-- BMARG (R283): Marginalises by Schur complement, trapping SINGULAR on a failing pivot. -/
  | bmarg (d : BitVec 4) (a : BitVec 4) (k : BitVec 8)
  /-- BDAMP (R285): Damps the new block toward the old block by β. -/
  | bdamp (d : BitVec 4) (a : BitVec 4) (f : BitVec 4)
  /-- BMEAN (R284): Solves Λμ = η into η. -/
  | bmean (d : BitVec 4) (a : BitVec 4)
  /-- BRES (R286): fd := the greatest absolute element difference of two blocks. -/
  | bres (d : BitVec 4) (a : BitVec 4) (b : BitVec 4)
  /-- BREG (R287): Adds fb to the diagonal and sets RG. -/
  | breg (d : BitVec 4) (a : BitVec 4) (f : BitVec 4)
  /-- SIG (R295): Computes the signature of a block of the tile store. -/
  | sig (d : BitVec 2) (a : BitVec 5) (b : BitVec 5)
  /-- SCMP (R296): pk := STEP ≠ 0 and D(sigi, sigj) ≤ THR. -/
  | scmp (k : BitVec 3) (i : BitVec 2) (j : BitVec 2)
  /-- SKSET (R297): Sets skip-map bit sa[9:0] to pk. -/
  | skset (a : BitVec 5) (k : BitVec 3)
  /-- STEPA (R299): Logs the skip map, advances STEP and clears the skip map. -/
  | stepa
  /-- SIGST (R298): Exchanges sigd with a step-memory entry. -/
  | sigst (d : BitVec 2) (a : BitVec 5)
  /-- WATCHDOG (R387): When ELAPSED reaches LIMIT on a counted stall, a WATCHDOG trap is taken at the boundary. -/
  | watchdog
  /-- EAGER (R88): An arriving eager message is matched to a posted receive or stored unexpected, converted, or refused BUSY. -/
  | eager (p : Packet)
  /-- RTS (R96): An arriving rendezvous request is matched, sending a CTS, or is held unexpected. -/
  | rts (p : Packet)
  /-- CTS (R96): The granted length arrives at the sender, which starts the DATA chunks, or completes when g = 0. -/
  | cts (p : Packet)
  /-- DATA (R96): A rendezvous chunk lands in the receive buffer; the last chunk completes the receive and sends ACK. -/
  | data (p : Packet)
  /-- ACK (R99): Acknowledgement arrives and completes the send, or ends a revoke. -/
  | ack (p : Packet)
  /-- ABSENT (R370): A refusal by a stopped or parked destination schedules a retry or completes the request. -/
  | absent (p : Packet)
  /-- BUSY (R370): A refusal for want of room schedules a retry without limit. -/
  | busy (p : Packet)
  /-- RETRY_INTERVAL (R371): When a refused packet's retry interval ends, it re-enters the injection round-robin. -/
  | retryInterval (ep : Nat) (xid : Nat)
  /-- RELEASE (R381): A fenced, clearing or poisoned RELEASE reaches the receiver and completes or holds the receive. -/
  | release (p : Packet)
  /-- REVOKE (R379): The sender stops DATA under the revoked grant and answers with an ACK counting its packets. -/
  | revoke (p : Packet)
  /-- TIMED_SEND_RELEASE (R104): When TIME reaches TSEND, a held SENDT leaves as a SEND. -/
  | timedSendRelease (ep : Nat) (id : Nat)
  /-- ESCAPE_CHANNEL (R117): A header blocked for 16 cycles moves to the ESC class on a mesh route. -/
  | escapeChannel (n : Nat)
  /-- SUBSCRIBE (R106): A subscription travels toward the publisher, raising router counts, and enables a round. -/
  | subscribe (p : Packet)
  /-- PRUNE (R106): Lowers router subscription counts and frees empty contrail entries. -/
  | prune (p : Packet)
  /-- CONTRAIL_ROUND (R105): The publisher starts a round, sending the whole buffer as CDATA once a subscriber is waiting and no round is running. -/
  | contrailRound (ep : Nat) (id : Nat)
  /-- CDATA (R107): A contrail chunk is replicated to counted ports and completes subscriptions at its last chunk. -/
  | cdata (p : Packet)
  /-- UCDATA (R106): A contrail chunk sent to one overflowed subscriber alone. -/
  | ucdata (p : Packet)
  /-- UET_FAILURE (R374): Ultra Ethernet Transport reports exhausted retransmission, and the request completes UNREACHABLE. -/
  | uetFailure (ep : Nat) (xid : Nat)
  /-- QGET (R138): The server translates and reads a GET shard and returns SDATA and SDONE. -/
  | qget (q : Shard)
  /-- QPUT (R138): The server performs a PUT shard and returns SDONE. -/
  | qput (q : Shard)
  /-- QGETB (R147): The server reads a box shard. -/
  | qgetb (q : Shard)
  /-- QPUTB (R147): The server writes a box shard. -/
  | qputb (q : Shard)
  /-- QGATH (R148): The server gathers the listed elements of a shard. -/
  | qgath (q : Shard)
  /-- QSCAT (R148): The server scatters the listed elements of a shard. -/
  | qscat (q : Shard)
  /-- APPLY_ADD32 (R149): Atomic 32-bit add. -/
  | applyAdd32 (q : Shard)
  /-- APPLY_ADD64 (R149): Atomic 64-bit add. -/
  | applyAdd64 (q : Shard)
  /-- APPLY_AND64 (R149): Atomic AND. -/
  | applyAnd64 (q : Shard)
  /-- APPLY_OR64 (R149): Atomic OR. -/
  | applyOr64 (q : Shard)
  /-- APPLY_XOR64 (R149): Atomic XOR. -/
  | applyXor64 (q : Shard)
  /-- APPLY_SMIN64 (R149): Atomic signed minimum. -/
  | applySmin64 (q : Shard)
  /-- APPLY_SMAX64 (R149): Atomic signed maximum. -/
  | applySmax64 (q : Shard)
  /-- APPLY_UMIN64 (R149): Atomic unsigned minimum. -/
  | applyUmin64 (q : Shard)
  /-- APPLY_UMAX64 (R149): Atomic unsigned maximum. -/
  | applyUmax64 (q : Shard)
  /-- APPLY_SWAP64 (R149): Atomic swap. -/
  | applySwap64 (q : Shard)
  /-- APPLY_FADD32 (R149): Atomic FP32 add rounded to nearest. -/
  | applyFadd32 (q : Shard)
  /-- APPLY_XADD (R149): Atomic exact-accumulator combination of 64-byte wire elements. -/
  | applyXadd (q : Shard)
  /-- APPLY_RESERVED (R149): A reserved OP completes DENIED and changes nothing. -/
  | applyReserved (q : Shard)
  /-- QCAS (R150): The server performs an atomic compare-and-swap. -/
  | qcas (q : Shard)
  /-- FENCE_PROBE (R127): The server echoes a probe once the tile's earlier requests are performed. -/
  | fenceProbe (srv : Nat) (probe : Probe)
  /-- SDATA (R137): Reply bytes land in the request buffer at their offset. -/
  | sdata (r : Reply)
  /-- SDONE (R391): A shard result arrives, and the request completes once every shard has answered. -/
  | sdone (r : Reply)
  /-- ECHO (R127): A FENCE echo arrives, and FENCE completes once all echoes are in. -/
  | echo (ep : Nat) (echo : ProbeEcho)
  /-- SHARD_TIMEOUT (R383): SHARDTO expires without an SDONE, so the shard is re-requested or given up. -/
  | shardTimeout (ep : Nat) (xid : Nat) (no : Nat)
  /-- PENDLIMIT_EXPIRY (R402): A pending shard that has waited PENDLIMIT fails FAULT. -/
  | pendlimitExpiry (srv : Nat) (issuer : Rank) (xid : Nat) (no : Nat)
  /-- SWAP_HOLD (R406): Every 20 µs, a shard held by a swap is answered HOLD. -/
  | swapHold (srv : Nat) (issuer : Rank) (xid : Nat) (no : Nat)
  /-- BURST_READ (R393): A DRAM read burst is parity-checked, retransferred, decoded and corrected, or lost. -/
  | burstRead (stack : Nat) (addr : Nat) (by_ : Requester)
  /-- BURST_WRITE (R393): A DRAM write burst is parity-checked and retransferred, or poisoned. -/
  | burstWrite (stack : Nat) (addr : Nat) (data : List Byte) (by_ : Requester)
  /-- LANE_SWAP (R394): A lane whose error counter reaches three is replaced by a spare. -/
  | laneSwap (stack : Nat) (ch : Nat) (lane : Nat)
  /-- LANE_WINDOW_END (R394): After 1,048,576 bursts the channel's lane error counters clear. -/
  | laneWindowEnd (stack : Nat) (ch : Nat)
  /-- REMAP_EPOCH_END (R152): After 65,536 channel requests the epoch ends and a swap may start. -/
  | remapEpochEnd (stack : Nat)
  /-- SWAP_DONE (R153): The swap finishes, updates both table copies, releases held requests and is journalled. -/
  | swapDone (stack : Nat)
  /-- RETENTION_ENTRY (R435): A region idle for RETIDLE is re-encoded under DEC-TED. -/
  | retentionEntry (ep : Nat) (region : Nat)
  /-- RETENTION_SCRUB (R435): Every 100 ms, a region in retention is read and corrected in place. -/
  | retentionScrub (ep : Nat) (region : Nat)
  /-- HCONTRIB (R164): A row node accepts, refuses or holds a contribution chunk for its round. -/
  | hcontrib (c : HChunk)
  /-- HPART (R167): A partial chunk arrives at a parent and is folded once all of its children are present. -/
  | hpart (c : HChunk)
  /-- HRESULT (R167): A result chunk passes down the tree and completes the round at the row node. -/
  | hresult (c : HChunk)
  /-- HALO_NODE_FAILED (R420): A failed node's groups are invalidated, and aborted rounds are signalled by zero-length results. -/
  | haloNodeFailed (node : Nat)
  /-- LAUNCH (R39): The placer checks a launch record and rejects it or reads its image header. -/
  | launch (p : Packet)
  /-- IMAGE_HEADER_READ (R40): The image header read completes; the launch is accepted or rejected with reason 0x0A. -/
  | imageHeaderRead (n : Nat)
  /-- AGING_STEP (R45): Each AGESTEP of waiting raises a launch's effective priority. -/
  | agingStep (n : Nat)
  /-- DRAIN_RESERVATION (R47): After AGELIMIT the oldest eligible launch reserves the position with the earliest free time. -/
  | drainReservation (part : Nat)
  /-- PLACEMENT (R46): The placer takes free tiles for an eligible launch and loads them. -/
  | placement (part : Nat)
  /-- IMAGE_FETCH (R40): A tile's image fetch completes; when all are loaded PLACED is sent, or on failure the gang is FAULTED. -/
  | imageFetch (n : Nat) (ep : Nat)
  /-- PREEMPTION (R49): The tiles of lower-priority gangs stop, quiesce and begin their context exchange. -/
  | preemption (n : Nat)
  /-- PREEMPTED (R49): Once every tile's exchange completes, PREEMPTED is sent. -/
  | preempted (n : Nat)
  /-- RESUME (R51): When no placed gang remains on its tiles, a suspended gang is exchanged back and RESUMED is sent. -/
  | resume (n : Nat)
  /-- TILE_END (R53): END takes effect on a tile, and when every member has ended the gang ends with ENDED. -/
  | tileEnd (ep : Nat)
  /-- LEASE_EXPIRY (R53): The lease runs out; members stop, state is discarded and LEASE_EXPIRED is sent. -/
  | leaseExpiry (n : Nat)
  /-- GANG_FAULTED (R324): After the parking record reaches the fault rank or its delivery fails, the gang ends FAULTED. -/
  | gangFaulted (n : Nat)
  /-- FAULT_DELIVERY_TIMEOUT (R324): A parking record not delivered within 10 ms counts as failed. -/
  | faultDeliveryTimeout (n : Nat)
  /-- WITHDRAW (R54): System software withdraws a launch, handled as a lease expiry. -/
  | withdraw (n : Nat)
  /-- WORK_ITEM (R55): A 16-byte item sent to the stage dispatcher is queued or refused. -/
  | workItem (p : Packet)
  /-- ITEM_DELIVERY (R58): The dispatcher delivers an item to a tile waiting in WAITW. -/
  | itemDelivery (ep : Nat)
  /-- DONEW_ACK (R204): The dispatcher forgets a logged item named by an acknowledgement. -/
  | donewAck (p : Packet)
  /-- TWIN_COMPARE_TIMEOUT (R389): No partner request arrives within 64 µs, and both tiles trap TWIN_MISMATCH. -/
  | twinCompareTimeout (ep : Nat)
  /-- LOG_RECORD_DELIVERY (R327): The management controller takes a queued record, writes it to the host ring and sends it to the fault rank. -/
  | logRecordDelivery (unit : Nat)
  /-- HOST_SEND (R310): A host descriptor with OP SEND. -/
  | hostSend (fn : Nat) (d : Descriptor)
  /-- HOST_SENDR (R310): A host descriptor with OP SENDR. -/
  | hostSendr (fn : Nat) (d : Descriptor)
  /-- HOST_POST (R310): A host descriptor with OP POST. -/
  | hostPost (fn : Nat) (d : Descriptor)
  /-- HOST_CANCEL (R310): A host descriptor that cancels the POST with the given COOKIE. -/
  | hostCancel (fn : Nat) (d : Descriptor)
  /-- HOST_GET (R310): A host descriptor with OP GET. -/
  | hostGet (fn : Nat) (d : Descriptor)
  /-- HOST_PUT (R310): A host descriptor with OP PUT. -/
  | hostPut (fn : Nat) (d : Descriptor)
  /-- HOST_DENIED_OP (R310): A descriptor with any other OP completes DENIED. -/
  | hostDeniedOp (fn : Nat) (d : Descriptor)
  /-- COMPLETION_QUEUE_WRITE (R311): A completion entry is written once the queue has room, firing MSI-X when enabled. -/
  | completionQueueWrite (fn : Nat)
  /-- SQTAIL_WRITE (R311): A new tail starts descriptor fetch, or sets QERR if it overfills the ring. -/
  | sqtailWrite (fn : Nat) (v : Word)
  /-- HWCTL_EN_WRITE (R438): Enables the queues or, once fetched descriptors complete, disables them; a write that would change EN in CONFIG_LOCKED is ignored. -/
  | hwctlEnWrite (fn : Nat) (v : Word)
  /-- QERR_CLEAR (R311): Clearing QERR lets fetching resume. -/
  | qerrClear (fn : Nat) (v : Word)
  /-- CQHEAD_WRITE (R361): The host consumes completion entries, and out-of-range values are ignored. -/
  | cqheadWrite (fn : Nat) (v : Word)
  /-- ELHEAD_WRITE (R329): The host consumes error-log records. -/
  | elheadWrite (v : Word)
  /-- JHEAD_WRITE (R409): The host consumes journal records, and swapping resumes. -/
  | jheadWrite (v : Word)
  /-- PWRLIM_WRITE (R317): Sets the power limit, clamped to 600–2,400 W. -/
  | pwrlimWrite (v : Word)
  /-- ALARMCTL_WRITE (R436): Sets the alarm policy and its lock after any raised alarm. -/
  | alarmctlWrite (v : Word)
  /-- ALARMSTAT_CLEAR (R436): W1C write clears alarm source bits. -/
  | alarmstatClear (v : Word)
  /-- REMAPCTL_WRITE (R154): Enables or disables remap swaps for a stack. -/
  | remapctlWrite (stack : Nat) (v : Word)
  /-- LOCKED_FIELD_WRITE (R438): A host write to an RW-L field in CONFIG_LOCKED or RUN moves the interface to ERROR. -/
  | lockedFieldWrite (fn : Nat) (off : Nat) (v : Word)
  /-- HOST_REGISTER_WRITE (R361): A write to a host-window or BAR 2 register without a row of its own writes its RW fields only. -/
  | hostRegisterWrite (fn : Nat) (bar2 : Bool) (off : Nat) (v : Word)
  /-- LOCK_INTERFACE (R312): Moves the TDISP interface to CONFIG_LOCKED, freezing its configuration. -/
  | lockInterface (fn : Nat)
  /-- START_INTERFACE (R312): Moves the interface from CONFIG_LOCKED to RUN. -/
  | startInterface (fn : Nat)
  /-- STOP_INTERFACE (R439): Moves the interface to CONFIG_UNLOCKED, and from ERROR zeroes the partition state and window registers. -/
  | stopInterface (fn : Nat)
  /-- GET_DEVICE_INTERFACE_REPORT (R440): Returns the TDISP interface report with its device-specific area. -/
  | getDeviceInterfaceReport (fn : Nat)
  /-- IDE_INTEGRITY_FAILURE (R312): An IDE integrity failure moves the interface to ERROR. -/
  | ideIntegrityFailure (fn : Nat) (off : Nat)
  /-- PARTITION_ASSIGN (R32): The management controller assigns tiles, contexts, key slots, groups and stages to a partition. -/
  | partitionAssign (part : Nat) (r : Resource)
  /-- TILE_PARTITION_MOVE (R33): Moving a tile zeroes its stores and weight regions, sets AB0–AB7 and resets AGEN. -/
  | tilePartitionMove (ep : Nat) (part : Nat)
  /-- PLACER_PARAMETER_SET (R34): System software sets a partition's placer parameters. -/
  | placerParameterSet (part : Nat) (q : Param) (v : Nat)
  /-- GROUP_DESCRIPTOR_WRITE (R92): Sets a group's eager limit and slot width. -/
  | groupDescriptorWrite (part : Nat) (group : Nat) (eager : Nat) (slotw : Nat)
  /-- GROUP_ENTRY_WRITE (R161): Writes a halo group entry, refusing inconsistent ones. -/
  | groupEntryWrite (part : Nat) (node : Nat) (e : BitVec 128)
  /-- CONTEXT_DESCRIPTOR_WRITE (R141): Writes a context descriptor at a server. -/
  | contextDescriptorWrite (srv : Nat) (actx : Nat) (d : CtxDesc)
  /-- PAGE_ENTRY_CHANGE (R143): Changes a page entry, drops cached copies and retranslates pending shards. -/
  | pageEntryChange (srv : Nat) (actx : Nat) (pn : Nat) (addr : Nat) (e : Word)
  /-- POOL_REFILL (R402): Refilling a copy-on-write pool retranslates the pending shards. -/
  | poolRefill (srv : Nat) (actx : Nat) (frames : List Nat)
  /-- FAIL_PENDING_SHARDS (R402): System software fails a context's pending shards on a server. -/
  | failPendingShards (srv : Nat) (actx : Nat)
  /-- KEY_SLOT_LOAD (R144): Loads a key slot for a partition. -/
  | keySlotLoad (slot : Nat) (part : Nat)
  /-- KEY_SLOT_ERASE (R403): Erases a key slot at one point in each server's order. -/
  | keySlotErase (slot : Nat)
  /-- FAULTRANK_SET (R328): Sets a partition's fault rank and group. -/
  | faultrankSet (part : Nat) (rank : Rank) (group : Nat)
  /-- PKGMAP_WRITE (R314): Writes a package's fabric address and port mask. -/
  | pkgmapWrite (pkg : Nat) (e : Word)
  /-- TABLE_REBUILD (R410): The host writes a rebuilt indirection entry, ending a freeze. -/
  | tableRebuild (stack : Nat) (region : Nat) (chan : Nat)
  /-- ALARM (R437): A glitch, clock, crack or thermal sensor raises the security alarm, applying the standing policy. -/
  | alarm (src : Nat)
  /-- D3HOT_ENTRY (R317): Entering D3hot withdraws every partition and self-refreshes the stacks. -/
  | d3hotEntry
  /-- TIME_SYNC (R315): IEEE 1588 synchronisation updates TIME and sets TSYNC. -/
  | timeSync (ns : Nat)
  /-- START_UP (R316): At reset the management controller derives keys, verifies flash, trains links and releases the units. -/
  | startUp (f : Flash)
  /-- RESERVED_ENCODING (R177): A bundle that holds a reserved slot word or a packed header with nonzero bits 31:8 issues and traps RESERVED_ENCODING, with no slot executing. -/
  | reservedEncoding
  /-- RESULT_LANDING (R186): An operation's result lands within its latency bound after issue, or at the end of its engine's busy time: MMA accumulator values and their FPFLAGS, MSTO writes and flags, and the end of an MLDB latch, COPY or FILL, after which stalled bundles and SYNCX may proceed. -/
  | resultLanding
  /-- SERVER_FAILED (R405): A base die reports a server failed, and the management controller takes the server out of service. -/
  | serverFailed (srv : Nat)
  /-- TILE_CLOCK_LOWERING (R317): The management controller lowers the tile clock in steps of 100 MHz to hold the package within PWRLIM, averaged over 1 ms. -/
  | tileClockLowering
  /-- D0_ENTRY (R317): The package returns from D3hot to D0 and the stacks leave self-refresh. -/
  | d0Entry
  /-- SR_IOV_ENABLE (R308): The host enables or disables a virtual function under SR-IOV, which decides whether messages to its rank are refused with ABSENT reason 0x07. -/
  | srIovEnable (fn : Nat) (on : Bool)
  deriving DecidableEq, Repr

end Sys2Proof
end

