-- ==== Sys2Proof/Machine/State.lean ====
section
/-!
DEFINITION. The state of one HS-ORN-A1 package as plain data, the reasons a step can stop, and the state after reset.
One tile is in focus (`State.tile`): the slot words act on it. The others stand in `State.others`. `State.turns` is the list of
outside inputs and timing choices that later steps read; `State.sched` holds the events that units of the package have already
set going, with the cycle in which each falls due.
-/
namespace Sys2Proof.Machine

/-- Memory: address and byte, canonical form, an unlisted byte reads zero (log 2, 3). -/
abbrev Memory := List Host.Cell

/-- The canonical form of a memory. -/
abbrev Memory.wf (m : Memory) : Bool := Sparse.wf (0 : Byte) m

/-- A name of a register, as a destination or a source (R172, R173). `acc` and `xa` name the whole accumulator. -/
inductive Reg where
  | s (n : Nat) | f (n : Nat) | v (n : Nat) | m (n : Nat) | p (n : Nat) | acc (n : Nat) | xa (n : Nat)
  | b (n : Nat) | sig (n : Nat) | h (n : Nat) | cr (n : Nat) | none
  deriving DecidableEq, Repr

/-- A scalar register: value and carried 4-bit residue (R172, R343). -/
structure SVal where
  val : Word
  res : BitVec 4
  deriving DecidableEq, Repr

/-- A vector register: 64 lanes and their carried residues, four bits a lane (R172, R230). -/
structure VVal where
  bits : VBits
  res  : BitVec 256
  deriving DecidableEq, Repr

/-- An exact accumulator (R77). -/
structure XA where
  n    : BitVec 384
  pinf : BitVec 16
  ninf : BitVec 16
  nan  : Bool
  zs   : BitVec 2
  deriving DecidableEq, Repr

/-- A cleared exact accumulator (R77). -/
def XA.clear : XA := ⟨0, 0, 0, false, 0⟩

/-- A belief block: `lam` holds Λ[i][j] at lane `8i + j`, `eta` holds η[i] at lane `i` (R275). -/
structure Belief where
  lam : VBits
  eta : BitVec 256
  dim : Nat
  nf  : Bool
  rg  : Bool
  inv : Bool
  deriving DecidableEq, Repr

/-- The block that BZERO and placement give (R275). -/
def Belief.zero : Belief := ⟨0, 0, 1, false, false, false⟩

/-- A hardware loop counter with its hidden fields (R197). Addresses are instruction-store addresses. -/
structure Loop where
  count  : W32
  start  : Nat
  stop   : Nat
  active : Bool
  deriving DecidableEq, Repr

def Loop.zero : Loop := ⟨0, 0, 0, false⟩

/-- The register files of a thread (R172) and its control registers by index (R173). -/
structure Regs where
  s   : List (Nat × SVal)
  f   : List (Nat × W32)
  v   : List (Nat × VVal)
  m   : List (Nat × Word)
  p   : List (Nat × Bool)
  acc : List (Nat × VBits)   -- row `r` of accumulator `k` at key `64k + r`
  xa  : List (Nat × XA)      -- lane `i` of `xak` at key `64k + i`
  b   : List (Nat × Belief)
  sig : List (Nat × BitVec 512)
  h   : List (Nat × Option Nat)
  lc  : List (Nat × Loop)
  cr  : List (Nat × Word)
  deriving DecidableEq, Repr

/-- A result in flight: no bundle issued before cycle `ready` may read `dest`; its flags are ORed into FPFLAGS when it lands
(R74, R182, R186). -/
structure Landing where
  dest  : Reg
  ready : Nat
  flags : BitVec 6
  deriving DecidableEq, Repr

/-- A poisoned word or register, or an error that the next trap entry meets in its own capture (R346, R347). -/
inductive Poison where
  | store (word : Nat) | anvil (word : Nat) | reg (r : Reg) | row (acc row : Nat) | imem (word : Nat) | capture
  deriving DecidableEq, Repr

/-- The capture of a slot that faulted: every register file as read at issue, the scalar and f operands in assembly order with
the registers they came from, the control register that TOPD3 shows, the poison marks, and the registers that were inside the window
of an earlier write, whose captured values are not defined (R182, R335, R347). -/
structure Capture where
  slot   : Nat
  regs   : Regs
  ops    : List SVal
  names  : List Reg
  third  : Option Nat
  poison : List Poison
  open_  : List Reg
  deriving DecidableEq, Repr

/-- A cause held behind a trap at issue, with the address of the trapping bundle (R441). -/
structure PendTrap where
  cause : Nat
  tinfo : Word
  addr  : Nat
  deriving DecidableEq, Repr

/-- A replay that TRET has ordered (R337): the slots to re-issue, those that read registers, the address and the way on. -/
structure Replay where
  mask : BitVec 8
  rf   : BitVec 8
  addr : Nat
  next : Nat
  deriving DecidableEq, Repr

/-- Why a bundle stalls (R187). The counted stalls are those of R387. -/
inductive Stall where
  | busy | pred | spec | gated | twin
  | waitm (h : Nat) | waitb (k : Nat) | fence | mldbg (region : Nat) | endWait | full (table : Nat)
  deriving DecidableEq, Repr

/-- The part of a tile that a squash restores and a context exchange saves (R49, R189). -/
structure Thread where
  regs    : Regs
  order   : List Nat            -- loop counters, most recently entered first (R197)
  pc      : Nat
  land    : List Landing
  caps    : List Capture
  pend    : List PendTrap       -- oldest first
  replay  : Option Replay
  endStep : Nat                 -- 0 running, 3 in the third phase of END (R198)
  waited  : Nat                 -- turns that the present bundle has stalled (R430)
  elapsed : Nat                 -- ns of the present counted stall (R386)
  sigHeld : Bool                -- a SIG has taken the stall of R295
  issued  : Nat                 -- bundles issued in normal mode since placement: the steps of a pair (R430)
  deriving DecidableEq, Repr

/-- What the slots of a bundle read: register files, tile store, results in flight and the cycles until which the matrix and the
tile-store engine are busy, as they stood at issue (R182, R187). -/
structure Source where
  regs   : Regs
  mem    : Memory
  land   : List Landing
  matrix : Nat
  store  : Nat
  deriving DecidableEq, Repr

/-- The bundle in issue. `src` is what its slots read; `ops` and `poison` replace the scalar operands and the poison marks of a
replayed slot by its capture; `others` are captures of slots that fault in the same bundle (R358); `stored` are the ranges that
the bundle has stored to (R120); `hold` says that a trap of the bundle at issue holds its later causes back (R441); `entering` that
the bundle traps, so that a branch of it resolves at once (R333); `loops` that R197's action follows the bundle. -/
structure Issue where
  slot    : Nat
  addr    : Nat
  succ    : Nat
  src     : Option Source
  ops     : Option (List SVal)
  poison  : Option (List Poison)
  jump    : Option Nat
  stall   : Option Stall
  trapped : Option Bool         -- some late: this bundle has taken a trap
  raised  : Option (Nat × Word) -- cause and TINFO of a slot that faulted at issue
  hold    : Bool
  entering : Bool
  others  : List Capture
  stored  : List (Nat × Nat × Bool) -- address, length, and whether the step sequencer has stored (R418)
  first   : Nat                 -- the first NI entry that the bundle itself may make (R198); 0: none
  loops   : Bool
  oorBy   : Option (Nat × Nat)  -- the slot of this bundle whose access OORADDR records, and its address (R344)
  deriving DecidableEq, Repr

/-- A speculative path (R189). -/
structure Spec where
  saved    : Thread
  cleared  : List Poison              -- the marks that the path itself has cleared (R347)
  stores   : List (Nat × List Byte × Bool) -- oldest first; `true` for one of the step sequencer (R418)
  covers   : List (List (Nat × Nat))  -- the ranges that each of its stores writes (R347)
  nstores  : Nat
  engine   : Nat                      -- the cycle until which the tile-store engine was busy before the path
  bundles  : Nat
  guess    : Bool
  truth    : Bool
  target   : Nat
  addr     : Nat
  succ     : Nat
  ready    : Nat
  deriving DecidableEq, Repr

/-- The B latch: format code, the block's bytes, where in the weight space it came from, how long it is, when the latching
ends, and the poisoned word it read (R250, R251, R347). -/
structure Latch where
  fmt    : Nat
  data   : List Byte
  at_    : Nat
  bytes  : Nat
  until_ : Nat
  poison : Option Nat
  deriving DecidableEq, Repr

/-- A range of tile-store or anvil bytes that an engine works on until a cycle (R225, R253, R256). -/
structure Job where
  acc    : Nat
  base   : Word
  stride : Word
  rows   : Nat
  bytes  : Nat
  until_ : Nat
  flags  : List (BitVec 6) -- of an MMA: the flags that each row raises (R253)
  deriving DecidableEq, Repr

/-- The engines of a tile (R186): busy until these cycles, and what runs. `old` is the tile store as it stood before the MSTO that runs
(R256). -/
structure Engine where
  matrix : Nat
  store  : Nat
  mma    : List Job
  msto   : List Job
  anvw   : List Job       -- acc is the region, base the offset
  old    : Memory
  deriving DecidableEq, Repr

/-- Retention of an anvil region (R435): when it was last accessed, when its entry or exit ends, when it was last scrubbed. -/
inductive Retain where
  | active (since : Nat) | entering (until_ : Nat) | kept (since : Nat) | leaving (until_ : Nat)
  deriving DecidableEq, Repr

/-- A completion record (R109). -/
structure Rec where
  status   : BitVec 8
  flags    : BitVec 8
  group    : BitVec 16
  source   : W32
  tag      : W32
  dlen     : Nat
  flen     : Nat
  progress : Nat
  tstamp   : W32
  shards   : Word
  deriving DecidableEq, Repr

def Rec.zero : Rec := ⟨0, 0, 0, 0, 0, 0, 0, 0, 0, 0⟩

/-- What an NI entry is (R85). -/
inductive EKind where
  | send | sendr | sendt | sendv | publ | donew
  | post | postm | posta | subs
  | get | put | getb | putb | gath | scat | apply | cas
  deriving DecidableEq, Repr

/-- Where a request's bytes lie: tile store with the in-range intervals at issue (R262), anvil region and offset, host memory, bytes held
by the entry, a program image (`ilen` instruction bytes, then data at `daddr`), or the image header of a launch. -/
inductive Buf where
  | store (a : Nat) (ranges : List (Nat × Nat)) | anvil (region off : Nat) | host (a : Nat) | bytes (l : List Byte) | image (ilen daddr : Nat) | header (ticket : Nat)
  deriving DecidableEq, Repr

/-- How far an entry has come (R96, R98, R103, R105); `turn` is a receive that is DONE once those matched before it are (R122). -/
inductive Phase where
  | held | queued | awaitAck | awaitCts | sending | awaitLast | relWait | relAcked
  | posted | granted | landing | relHeld | turn
  | shards | open_ | round | closing | done
  deriving DecidableEq, Repr

/-- One shard of a request at its issuer (R135, R383, R391). -/
structure ShardSt where
  shard    : Shard
  attempts : Nat
  due      : Nat          -- ns of TIME at which SHARDTO expires; 0 while stopped
  performed : Bool
  pending  : Bool
  code     : Option Nat   -- final code once answered
  data     : List (Nat × List Byte) -- bytes of this attempt's SDATA, which land with its SDONE (R383, R391)
  spoiled  : Bool         -- an SDATA of this attempt came damaged
  lost     : Bool         -- an earlier attempt has had no answer within SHARDTO (R326, R383)
  deriving DecidableEq, Repr

/-- A header in the unexpected store, or one that waits for its mailbox (R91, R94, R95). `waits` says that an earlier SEQ is missing,
`whole` that its last flit has come; `pay` is the payload of a message that waits for its mailbox. -/
structure Unexp where
  hdr      : Header
  units    : List Nat
  conv     : Bool
  waits    : Bool
  arrival  : Nat
  poison   : Bool
  skew     : Bool
  whole    : Bool
  pay      : List Byte
  deriving DecidableEq, Repr

/-- A table entry of an NI (R85, R86). -/
structure Ent where
  id       : Nat
  kind     : EKind
  phase    : Phase
  rcd      : Rec
  nb       : Option Nat
  detached : Bool
  observed : Bool
  rank     : Rank
  any      : Bool
  tag      : W32
  mask     : W32
  group    : BitVec 16
  len      : Nat
  buf      : Buf
  full     : Nat              -- length of the message being received
  seq      : Option W32
  xid      : W32
  granted  : Nat
  sent     : Nat              -- bytes sent or landed
  chunks   : Nat              -- DATA packets sent, or landed, under the present grant
  took     : Nat              -- bytes of the DATA packets that the destination has accepted (R375)
  beat     : Bool             -- a DATA beat has come under the present grant (R98)
  unsent   : List Nat         -- shards of a request that are still to leave, in order
  part     : Nat              -- bytes of the first of them that have left; of a receive, granted bytes that came without content; of a
                              -- send, not 0 once the comparator has found a later chunk to differ (R389)
  cts      : Bool             -- its CTS has begun (R442)
  tsend    : Option Word
  timed    : Bool
  late     : Bool
  rel      : Nat              -- receive: 0 none awaited, 1 awaited, 2 fenced; SENDR: 0 not sent, 1 fenced sent, 2 final sent
  relEarly : Option Nat       -- a release that arrived before its bytes
  watch    : List (Nat × Nat) -- SENDR: (entry, shard) not yet performed at issue
  retryAt  : Option Nat       -- ns
  interval : Nat              -- ns
  absFrom  : Option Nat       -- ns of the first ABSENT refusal
  peer     : Rank
  peerXid  : W32
  hdr      : Option Header
  arrival  : Nat
  counted  : Bool             -- the bump of its last completion or delivery belongs to a completed phase (R121, R201)
  inHold   : Bool             -- this delivery of a mailbox goes to the hold copy
  mheld    : Bool             -- mailbox state held (R100)
  hold     : Option (List Byte × Rec)
  units    : List Nat
  shards   : List ShardSt
  cookie   : Word
  gen      : Word             -- AGEN at the first chunk of a round (R412)
  stage    : Memory           -- bytes of a mailbox delivery that has not ended (R100)
  closing  : Bool             -- a cancelled mailbox that waits for its deliveries, a contrail that ends after its round (R101, R105)
  dirty    : List (Nat × Nat) -- source bytes written after issue (R99)
  pairWait : Bool             -- a leading tile's request that its partner has not issued yet (R388)
  poison   : Bool
  skew     : Bool             -- the matched message was skewed (R104)
  boxq     : List Unexp       -- messages that a mailbox has matched and takes after the present one (R100)
  mate     : Nat              -- which request of a pair's tile this is, in normal mode; 0: none (R388)
  ordn     : Nat              -- its number among the compared ones (R432)
  matched  : Nat              -- the place of its message among those that the interface has matched (R122)
  deriving DecidableEq, Repr

/-- A receive or request buffer whose entry has gone before its completion was observed: its bytes stay unspecified (R111, R121). `nb` and
`counted` are as in the entry that `id` named. -/
structure Ghost where
  id      : Nat
  nb      : Option Nat
  region  : Option Nat          -- an anvil region, where `addr` is an offset; none: the tile store
  addr    : Nat
  len     : Nat
  counted : Bool
  raised  : Bool                -- of a region: its completion has raised the generation, so that MLDBG acquires its bytes (R121)
  deriving DecidableEq, Repr

/-- A write into the weight space that waits in an interface until its region has left retention (R435): the payload of an eager message, or
a packet of a rendezvous or of a round. -/
inductive LateWrite where
  | eager (id : Nat) (l : List Byte) (bad : Bool)
  | chunk (id : Nat) (p : Packet)
  deriving DecidableEq, Repr

/-- The network interface of an endpoint (R85 to R113). -/
structure Ni where
  ents     : List Ent
  unexp    : List Unexp
  seqOut   : List (Nat × W32)
  seqIn    : List (Nat × W32)
  groups   : List (Nat × (Nat × Nat))  -- group, EAGER and SLOTW
  nextId   : Nat
  nextXid  : W32
  arrivals : Nat
  instant  : List (Nat × Nat × Nat)    -- entries that complete in a later cycle: entry, status, cycle (R261, R374)
  bumps    : List (Nat × Nat × Word × Nat) -- bumps of this cycle: barrier, cycle, the barrier before it, entry (R113)
  nbSet    : List (Nat × Nat × Word)   -- barriers written in this cycle: barrier, cycle, the value before phases complete (R113)
  openBumps : List (Nat × Nat)         -- bumps of phases that are not complete: barrier and entry, oldest first; entry 0 is an ARRB
  fence    : Option (Nat × List Nat)   -- the number of the stalled FENCE's probes, and the servers that they went to (R127)
  echoes   : List (Nat × Nat)          -- outstanding echoes: server and number of the probe
  relLog   : List (Rank × W32 × Nat)   -- releases that arrived before their message
  revoked  : List (Rank × W32 × Option Nat × Nat) -- revoked transfers: count in the ACK, DATA packets discarded (R379)
  waitCq   : List (Rec × Word)
  last     : Nat                       -- the entry that the round-robin served last (R119)
  asked    : List (BitVec 16 × W32)    -- contrails of this publisher with a SUBSCRIBE since their last round began (R105)
  alone    : List (Rank × BitVec 16 × W32) -- subscribers that a full router table leaves to be served alone (R106)
  ghosts   : List Ghost
  late     : List LateWrite              -- writes that wait for their region, oldest first (R435)
  matchNo  : Nat                       -- how many messages it has matched to receives (R122)
  waiting  : List (Nat × Packet × Option Nat) -- packets that wait for a turn of the round-robin: entry, packet, and the interval of a retried one (R119)
  deriving DecidableEq, Repr

def Ni.empty : Ni := ⟨[], [], [], [], [], 1, 0, 0, [], [], [], [], none, [], [], [], [], 0, [], [], [], [], 0, []⟩

/-- The twin state of a tile (R427 to R431). -/
structure Twin where
  lead     : Bool
  partner  : Nat
  queue    : List (List Word)
  reqs     : List (Nat × Nat × List Word × Nat × Nat)  -- ordinal, opcode, operands, entry, ns waited for the partner (R388)
  ordinal  : Nat
  mismatch : Option Word
  made     : Nat                 -- requests made in normal mode
  ended    : List (Nat × Rec × List ShardSt) -- of a trailing tile: the leading tile's entries that have completed before it has made its own (R388)
  deriving DecidableEq, Repr

/-- The run state of a tile (R41, R49, R53, R322). -/
inductive Run where
  | idle | loading | running | stopping | stopped | ended | parked | removed
  deriving DecidableEq, Repr

/-- A suspended context: the register dump and everything that the exchange moves (R49). -/
structure Context where
  thr    : Thread
  mem    : Memory
  imem   : Memory
  ni     : Ni
  latch  : Option Latch
  poison : List Poison
  twin   : Option Twin
  gang   : Nat
  run    : Run
  item   : List Word
  deriving DecidableEq, Repr

/-- A tile (R19). -/
structure Tile where
  ep     : Nat
  run    : Run
  thr    : Thread
  iss    : Issue
  spec   : Option Spec
  idle   : Nat                       -- first cycle in which the issue unit may issue again
  waitw  : Bool
  item   : List Word                 -- s25, s26, s28 and s29 of an item delivered to the waiting WAITW
  last   : Nat                       -- ns of TIME at the last issue turn
  imem   : Memory
  mem    : Memory
  anvil  : Memory
  latch  : Option Latch
  eng    : Engine
  poison : List Poison
  retain : List (Nat × Retain)
  flaws  : List Nat                  -- 8-byte words of the weight space with bit errors that the code corrects (R346, R435)
  ni     : Ni
  shadow : Option Context
  gang   : Nat
  twin   : Option Twin
  deriving DecidableEq, Repr

/-- A step that a unit of the package has set going, or that a packet's arrival brings about. Each stands for the event row of the
opcode table that `runEv` (Cycle.lean) names. `shard` carries the request kind: 0 GET, 1 PUT, 2 GETB, 3 PUTB, 4 GATH, 5 SCAT,
6 APPLY, 7 CAS. -/
inductive Ev where
  | packet (p : Packet)
  | again (p : Packet) (interval : Nat)     -- a packet that was refused, sent again
  | refused (p : Packet) (interval : Nat)   -- the ABSENT that answers it, on its way back
  | send (src dst : Nat) (e : Ev)           -- it leaves again
  | shardPart (kind : Nat) (q : Shard)      -- a packet of a shard before its last one
  | shard (kind : Nat) (q : Shard)
  | sdata (r : Reply) (interval : Nat)
  | sdone (r : Reply) (interval : Nat)
  | fenceProbe (srv : Nat) (issuer : Rank) (no : Nat)
  | echo (ep srv no interval : Nat)
  | pendlimitExpiry (srv : Nat) (issuer : Rank) (xid no : Nat)
  | swapHold (srv : Nat) (issuer : Rank) (xid no : Nat)
  | laneSwap (stack ch lane : Nat)
  | laneWindowEnd (stack ch : Nat)
  | swapDone (stack : Nat)
  | hcontrib (c : HChunk)
  | hpart (c : HChunk)
  | hresult (c : HChunk)
  | imageHeaderRead (n : Nat)
  | placement (part : Nat)
  | imageFetch (n ep : Nat)
  | preemption (n : Nat)
  | preempted (n : Nat)
  | resume (n : Nat)
  | tileEnd (ep : Nat)
  | gangFaulted (n : Nat)
  | faultDeliveryTimeout (n : Nat)
  | itemDelivery (ep : Nat)
  | logRecordDelivery (unit : Nat)
  | completionQueueWrite (fn : Nat)
  | contrailRound (ep id : Nat)
  | twinCompareTimeout (ep : Nat)
  | serverFailed (srv : Nat)
  deriving DecidableEq, Repr

/-- What a packet holds at an output port of a router: the class in which it goes on, the cycle in which that was granted, and the
flits that have crossed (R116, R303). Ports: 0 west, 1 north, 2 east, 3 south, 4 the east–west bridge, 5 the north–south bridge,
6 the local port, 8 + j Ethernet port j. Classes: 0 VC0, 1 VC1, 2 ESC. -/
structure Branch where
  port  : Nat
  cls   : Nat
  grant : Option Nat
  sent  : Nat
  deriving DecidableEq, Repr

/-- A packet at one input of a router (die × 256 + row × 16 + column). Inputs: 0 to 5 as the ports, 16 the tile's own NI, 17 + e the
endpoint 0x400 + e, 0x2000 + j Ethernet port j; 0xFFFF stands for the way through an NI to itself. `flits` are those that hold a slot:
the cycle in which each reached the router and whether the slot is a shared one; `gone` have left. `outs` is empty until the header
has been routed. `ready` are the flits in the local port with the cycle from which the interface may take each, `taken` those that it
has taken. `column` says that the packet came along a column ring; `waited` are R117's cycles. -/
structure Leg where
  router : Nat
  inp    : Nat
  cls    : Nat
  column : Bool
  flits  : List (Nat × Bool)
  gone   : Nat
  outs   : Option (List Branch)
  waited : Nat
  ready  : List Nat
  taken  : Nat
  deriving DecidableEq, Repr

/-- A packet on the torus: what its arrival does, its endpoints and its first and last router, its flits, how many of them its interface
has injected and since which cycle, and where they stand (R84, R114 to R119). An endpoint 0x2000 + j is Ethernet port j; `fabric` is the FABRIC
that was read when the port was chosen (R314). -/
structure Transit where
  ev       : Ev
  fabric   : Nat
  src      : Nat
  dst      : Nat
  first    : Nat
  last     : Nat
  size     : Nat
  injected : Nat
  began    : Nat
  legs     : List Leg
  deriving DecidableEq, Repr

/-- A router's contrail entry: name, for each output port the open subscriptions beyond it, and those beyond an Ethernet port (R106). -/
structure Contrail where
  pub   : Rank
  group : BitVec 16
  tag   : W32
  ports : List (Nat × Nat)
  far   : List (Nat × Rank)
  deriving DecidableEq, Repr

/-- A message that an Ethernet port has given to its transport: port, fabric address, initiator, tag, and the packet that is its payload
(R313, R314). -/
structure UetMsg where
  port      : Nat
  fabric    : Nat
  initiator : Rank
  tag       : BitVec 64
  packet    : Packet
  deriving DecidableEq, Repr

/-- A shard at its server: request kind, order of arrival, the entries under which its pages have been translated so far (none: unmapped), and
whether it has been translated whole (R143). -/
structure Waiting where
  kind  : Nat
  shard : Shard
  order : Nat
  pages : List (Nat × Option Word)
  ready : Bool
  deriving DecidableEq, Repr

/-- A server (R134 to R151, R384, R402). -/
structure Server where
  ctx     : List (Nat × CtxDesc)
  tlb     : List (Nat × Nat × Word)       -- context, page number, page entry; newest first (R143)
  busy    : Nat                           -- first cycle in which it serves again
  walks   : List (Nat × Nat × Nat)        -- walks in flight: context, page number, cycle in which each ends (R143)
  walk    : Nat                           -- cycles that a walk takes
  arrivals : Nat
  queue   : List Waiting                  -- in arrival order
  deficit : List (Nat × Nat)              -- context and deficit (R151)
  ring    : List Nat                      -- contexts in round-robin order
  pending : List (Waiting × Nat × Nat × Nat) -- pending write shards: the ns at which each was answered PENDING, the page and the cause (R402)
  held    : List Waiting                  -- held behind a pending, discarded, lost or swapped shard of the same issuer
  resend  : List (Rank × Nat × Nat)       -- shards asked for again, or lost on their way (R384)
  broken  : List (Rank × Nat × Nat)       -- shards of which an earlier packet was lost or damaged (R383)
  log     : List (Rank × Nat × Nat × Reply × Nat)   -- performed shards with the ns of performance (R384)
  stamp   : Nat
  wrote   : List (Nat × Nat × Nat)        -- context, page, stamp of its last write
  fences  : List (Rank × Nat)             -- probes held behind pending shards, each with its number
  out     : Bool
  unread  : Bool                          -- its record of performed shards cannot be read (R385)
  deriving DecidableEq, Repr

def Server.empty : Server := ⟨[], [], 0, [], 3, 0, [], [], [], [], [], [], [], [], 0, [], [], false, false⟩

/-- The base die of a stack: channels, lanes, remapping (R152, R392 to R399, R406 to R408). -/
structure Base where
  en       : Bool
  busy     : Option (Nat × Nat)           -- physical regions under swap
  held     : List Waiting                 -- shards held by the swap
  hotRun   : Nat
  swaps    : Nat
  chCur    : List (Nat × Nat)
  chLast   : List (Nat × Nat)
  regCur   : List (Nat × Nat)
  total    : Nat
  table    : List (Nat × Nat)             -- physical region → channel × 1024 + region, where it differs from the reset mapping
  badMain  : List Nat
  badCopy  : List Nat
  frozen   : List Nat
  poisoned : List Nat                     -- bursts holding the reserved check pattern
  poisonList : List Nat
  cells    : List (Nat × List Nat)        -- bursts with bad symbols in the array
  xfer     : List (Nat × List (List Nat)) -- bursts with failing lanes for each coming transfer
  laneErr  : List (Nat × Nat)             -- channel × 128 + lane → failed transfers in this window
  replaced : List (Nat × Nat)             -- channel × 128 + lane → spare, oldest first
  bursts   : List (Nat × Nat)             -- channel → bursts in this window
  exhausted : List Nat
  deriving DecidableEq, Repr

def Base.zero : Base := ⟨true, none, [], 0, 0, [], [], [], 0, [], [], [], [], [], [], [], [], [], [], [], []⟩

/-- A halo group entry at one node (R161). -/
structure GEntry where
  group  : BitVec 16
  expect : Nat
  nelem  : Nat
  op     : Nat
  ityp   : Nat
  otyp   : Nat
  parent : Bool
  valid  : Bool
  child  : BitVec 16
  part   : Nat
  deriving DecidableEq, Repr

/-- One child's chunks of a round at a node. -/
structure HIn where
  child : Nat
  chunk : Nat
  data  : List Byte
  deriving DecidableEq, Repr

/-- A round of a group at a node (R164, R167, R168). `from_` is each member's contribution: child, rank, tag, xid, chunks
accepted, whether a release is awaited; `taken` are members whose result has been delivered. -/
structure HRound where
  group  : BitVec 16
  round  : Nat
  ins    : List HIn
  from_  : List (Nat × Rank × W32 × Nat × Nat × Bool)
  folded : Nat
  result : List (Nat × List Byte)
  sent   : Bool
  taken  : List Rank
  deriving DecidableEq, Repr

/-- A node of the halo tree (R160): 0–63 row nodes (die × 16 + row), 64–67 die nodes, 68 the root. -/
structure HNode where
  entries : List GEntry
  rounds  : List HRound
  first   : List (Nat × Nat)        -- group → next round a member of it starts: key group × 16 + child
  failed  : Bool
  down    : List HChunk             -- results from above that wait for room below (R165)
  foldAt  : Nat                     -- the cycle from which the combining unit is free (R160)
  upAt    : Nat                     -- the cycle from which the link up is free (R160)
  downAt  : Nat                     -- the cycle from which the links down are free (R160)
  voided  : List (Rank × Nat)       -- contributions that a poisoned RELEASE has discarded before their last chunk: source and XID (R419)
  deriving DecidableEq, Repr

def HNode.empty : HNode := ⟨[], [], [], false, [], 0, 0, 0, []⟩

/-- A launch record (R35). -/
structure LaunchRec where
  image  : Nat
  imglen : Nat
  actx   : Nat
  part   : Nat
  prio   : Nat
  levels : List W32
  lease  : Nat
  flags  : BitVec 16
  stage  : BitVec 16
  preds  : List Nat
  argva  : Word
  deriving DecidableEq, Repr

/-- How far a launch has come (R40 to R54). A `queued` record waits for the records before it to be accepted or rejected (R44); its
message's bytes stand in `Launch.header`. The members of a `quitting` gang stop before it ends with an event and a reason (R53); a
`faulting` gang is stopped and waits for its parking record (R351). -/
inductive LState where
  | queued | header | waiting | eligible | loading | placed | stopping | suspended | resuming | quitting (ev reason : Nat) | faulting | ended (ev : Nat)
  deriving DecidableEq, Repr

/-- A launch as the placer keeps it. -/
structure Launch where
  n         : Nat                 -- launch number; for a record whose header is being read, a ticket above 2^32
  launcher  : Rank
  tag       : W32
  group     : BitVec 16
  lrec      : LaunchRec
  st        : LState
  since     : Nat                 -- ns at which it became eligible
  boost     : Nat
  header    : List Byte
  tiles     : List Nat            -- leading tiles in member order
  fetched   : List Nat
  placedAt  : Nat
  suspAt    : Nat
  suspended : Nat                 -- ns spent suspended
  parkedBy  : Option (Nat × Nat)  -- first parked tile and its cause
  recordAt  : Option Nat          -- ns at which the parking record's message was issued
  accepted  : Nat                 -- order of acceptance
  by_       : Nat                 -- a suspended gang: the launch that pre-empted it (R51)
  halt      : Bool                -- its partition is halted: it ends with REASON 0 and TILE 0 (R439)
  deriving DecidableEq, Repr

/-- A partition (R32, R34, R328, R372, R434, R435). -/
structure Part where
  params    : List (Nat × Nat)    -- value of each parameter that differs from its default
  faultRank : Rank
  faultGrp  : Nat
  groups    : List (Nat × (Nat × Nat))
  reserve   : Option (Nat × List Nat)   -- drain reservation: launch and tiles
  halted    : Bool
  deriving DecidableEq, Repr

def Part.zero : Part := ⟨[], 0xFFFFFFFF, 0xFFF0, [], none, false⟩

/-- A work item (R55 to R59, R434). -/
structure Item where
  stage   : Nat
  data    : List Byte
  order   : Nat
  count   : Nat                   -- deliveries so far
  first   : Nat                   -- order of the first delivery
  deriving DecidableEq, Repr

/-- An item that stays logged until DONEW names its ticket: the tile and the gang that hold it, and the ticket's sequence number (R59). -/
structure Logged where
  item : Item
  tile : Nat
  gang : Nat
  seq  : Nat
  deriving DecidableEq, Repr

/-- The stage dispatcher. -/
structure Dispatch where
  queues : List Item              -- each stage's items in queue order
  logged : List Logged
  seq    : Nat
  orders : Nat
  served : List (Nat × Nat)       -- stage → tile served last
  deriving DecidableEq, Repr

/-- An error-log record (R325). -/
structure LogRec where
  seq     : Nat
  cls     : Nat
  sev     : Nat
  code    : Nat
  unit    : Rank
  part    : Nat
  actx    : Nat
  time    : Nat
  addr    : Nat
  count   : Nat
  gang    : Nat
  detail0 : Word
  detail1 : Word
  lost    : Nat
  deriving DecidableEq, Repr

/-- A unit's log queue (R327): key, records, number of the next record, records lost since the last delivered one. -/
structure LogQueue where
  key  : Nat
  recs : List LogRec
  next : Nat
  lost : Nat
  deriving DecidableEq, Repr

/-- TDISP interface states (R312). -/
inductive Tdisp where
  | unlocked | locked | run | error
  deriving DecidableEq, Repr

/-- A host function (R308 to R311). -/
structure HostFn where
  enabled : Bool
  part    : Option Nat
  qerr    : Bool
  ien     : Bool
  en      : Bool
  enOff   : Bool                  -- a write of EN to 0 waits for the fetched descriptors
  tailDue : Bool                  -- after QERR nothing is fetched until TAIL has been written again (R311)
  sqBase  : Word
  sqSize  : Word
  sqTail  : Nat
  sqHead  : Nat
  cqBase  : Word
  cqSize  : Word
  cqHead  : Nat
  cqTail  : Nat
  state   : Tdisp
  locks   : Nat
  report  : List Byte             -- answer to the last GET_DEVICE_INTERFACE_REPORT: its device-specific area
  mmio    : List (Nat × Nat × Nat) -- and its MMIO ranges: BAR, bytes, range (R440)
  msix    : Nat                   -- MSI-X messages of vector 0 fired
  ni      : Ni
  deriving DecidableEq, Repr

def HostFn.zero : HostFn :=
  ⟨false, none, false, false, false, false, false, 0, 0, 0, 0, 0, 0, 0, 0, .unlocked, 0, [], [], 0, Ni.empty⟩

/-- Where start-up stands (R316, R437). -/
inductive Boot where
  | reset | running | recovery | halted
  deriving DecidableEq, Repr

/-- What the management controller and BAR 2 hold. -/
structure Mgmt where
  boot     : Boot
  status   : Word                 -- BAR 2 offset 0
  tsync    : Bool
  pwrlim   : Nat
  d3hot    : Bool
  clock    : Nat                  -- tile clock in 100 MHz
  queues   : List LogQueue
  ring     : List (Nat × LogRec)
  elTail   : Nat
  elHead   : Nat
  elDrops  : Nat
  elIen    : Bool
  msix1    : Nat
  journal  : List (Nat × List Byte)
  jTail    : Nat
  jHead    : Nat
  jFull    : Bool
  policy   : Nat
  alock    : Bool
  acount   : Nat
  asrc     : BitVec 4
  flash    : Flash                -- what start-up finds in flash (R316)
  pkgmap   : List (Nat × Word)
  harvest  : List Nat
  devKey   : Bool
  ideKeys  : Bool
  spdmKeys : Bool                 -- the SPDM session keys (R312, R437)
  outMask  : List Nat             -- servers out of service
  deriving DecidableEq, Repr

/-- An outside input or a choice of timing that the next step reads. -/
inductive Turn where
  | input (i : Instr)                     -- an event of the table that comes from outside the package
  | port (j : Nat) (p : Packet)           -- Ethernet port `j` brings in a packet of another package (R313)
  | delay (n : Nat) (cycles : Nat)        -- scheduled event `n` comes later, and so do later ones that keep its order
  | flip (ep : Nat) (r : Reg) (mask : VBits)  -- a soft error changes a register and not its residue (R343)
  | hurt (ep : Nat) (p : Poison)          -- an uncorrectable error in tile state, or in the next trap's capture (R347)
  | hurtSaved (ep : Nat) (p : Poison)     -- the same in a shadow store, a register dump or an engine's shadow copy (R352)
  | pathFail (ep : Nat)                   -- the exchange path of a tile cannot complete (R352)
  | soft (ep : Nat) (p : Poison)          -- a read finds an error that the code corrects (R346)
  | flaw (ep : Nat) (word : Nat)          -- a correctable error in a word of the weight space that nothing reads yet (R435)
  | cell (stack burst : Nat) (symbols : List Nat)            -- a cell error (R393)
  | lanes (stack burst : Nat) (fails : List (List Nat))      -- failing transfers of a burst (R393)
  | table (stack region : Nat) (copy : Bool)                 -- an uncorrectable indirection entry (R408)
  | hostMem (a : Nat) (data : List Byte)  -- the host writes its own memory
  | softSaved (ep : Nat) (p : Poison)     -- a correctable error in a shadow store or a shadow copy (R346, R352)
  | walkTime (srv cycles : Nat)           -- how long the walks of a server take from now on (R143)
  | recordLost (srv : Nat)                -- a server's record of performed shards cannot be read (R385)
  | drop (n : Nat)                        -- server packet `n` of the torus never arrives (R383)
  | corrupt (n : Nat)                     -- server packet `n` of the torus arrives damaged (R383)
  deriving DecidableEq, Repr

/-- The package. -/
structure State where
  tile    : Tile
  others  : List Tile
  round   : List Nat              -- tiles that have still to issue in this cycle
  cycle   : Nat
  time    : Nat                   -- TIME in ns (R28, R315)
  frac    : Nat                   -- tenths of the tile clock's 100 MHz count, towards the next ns
  fresh   : Nat                   -- the model's counter of free values and of FENCE's probes
  turns   : List Turn
  sched   : List (Nat × Ev)
  torus   : List Transit
  routers : List (Nat × List Contrail)
  spills  : List (Nat × Rank × BitVec 16 × W32 × Rank) -- routers without room for a contrail: router, name and subscriber (R106)
  uet     : List UetMsg           -- what the Ethernet ports have sent, oldest first
  srv     : List (Nat × Server)
  base    : List (Nat × Base)
  dram    : Memory                -- stack × 2^36 + channel address
  tables  : List (Nat × Word)     -- page tables: stack × 2^36 + address (R142)
  keys    : List (Nat × Option Nat) -- key slot that holds a key → the partition that it was loaded for; none is erased (R144)
  slotPart : List (Nat × Option Nat) -- key slot → the partition that it is assigned to (R32)
  keyGen  : List (Nat × Nat)      -- key slot → how often a key has been loaded into it
  seals   : List (Nat × Nat × Nat × Nat) -- bursts last written under a key, latest first: the first one's place in the stacks over 64, how many,
                                  -- key, and the first one's stack × 2^30 + physical address over 64, which gives the XTS tweak (R144)
  halo    : List (Nat × HNode)
  owner   : List (Nat × Option Nat) -- tile → partition
  ctxPart : List (Nat × Option Nat)
  stgPart : List (Nat × Option Nat)
  grpPart : List (Nat × Option Nat)
  parts   : List (Nat × Part)
  launches : List Launch
  nextLaunch : Nat                -- one more than the launches accepted (R43)
  accepts : Nat
  disp    : Dispatch
  nis     : List (Nat × Ni)       -- NIs of the services and of the halo row nodes
  fns     : List (Nat × HostFn)
  hostMem : Memory
  mgmt    : Mgmt
  pkg     : Nat                   -- own package number
  deriving DecidableEq, Repr

/-- Reasons a step stops. There is none: the manual gives every event of the package an effect, and a trap, a parked tile and a halted
package are next states. -/
inductive Fault where
  deriving DecidableEq, Repr

/-- Reasons for which an instruction has no meaning in the model. `notModelled`: raised by an arm of `exec` that has no meaning
yet; safe. -/
inductive Refusal where
  | notModelled (mnemonic : String)
  deriving DecidableEq, Repr

def Regs.zero : Regs := ⟨[], [], [], [], [], [], [], [], [], [], [], []⟩

/-- The control registers that have a reset value other than zero, for tile `ep`: TILEID and RANK (log 1), the unexpected pool
(R41, R173) and AB0–AB7 (R155). -/
def Regs.reset (ep : Nat) : Regs :=
  { Regs.zero with
    cr := (if ep = 0 then [] else [(0x000, BitVec.ofNat 64 ep), (0x001, BitVec.ofNat 64 ep)]) ++
      [(0x018, 0x1F0000), (0x019, 0xC000), (0x0D8, 0x80000), (0x0D9, 0x80008), (0x0DA, 0x80010), (0x0DB, 0x80018),
       (0x0DC, 0x80020), (0x0DD, 0x80028), (0x0DE, 0x80030), (0x0DF, 0x80038)] }

def Thread.reset (ep : Nat) : Thread := ⟨Regs.reset ep, [], 0, [], [], [], none, 0, 0, 0, false, 0⟩

def Issue.none : Issue := ⟨0, 0, 0, .none, .none, .none, .none, .none, .none, .none, false, false, [], [], 0, false, .none⟩

def Engine.idle : Engine := ⟨0, 0, [], [], [], []⟩

/-- Tile `ep` as start-up releases it: no gang, stores zero, registers at their reset values (R11, R41, R155). -/
def Tile.reset (ep : Nat) : Tile :=
  ⟨ep, .idle, Thread.reset ep, Issue.none, none, 0, false, [], 0, [], [], [], none, Engine.idle, [], [], [], Ni.empty, none, 0, none⟩

def Mgmt.reset : Mgmt :=
  ⟨.reset, 0, false, 2400, false, 18, [], [], 0, 0, 0, false, 0, [], 0, 0, false, 1, false, 0, 0, ⟨true, true, []⟩, [], [], true, true, true, []⟩

/-- The package right after reset: start-up (R316) has not run, no partition, gang, page, key slot or message exists. -/
def State.reset : State :=
  { tile := Tile.reset 0, others := [], round := [], cycle := 0, time := 0, frac := 0, fresh := 0, turns := [], sched := [],
    torus := [], routers := [], spills := [], uet := [], srv := [], base := [], dram := [], tables := [], keys := [], slotPart := [], keyGen := [], seals := [], halo := [], owner := [],
    ctxPart := [], stgPart := [], grpPart := [], parts := [], launches := [], nextLaunch := 1, accepts := 0,
    disp := ⟨[], [], 0, 0, []⟩, nis := [], fns := [], hostMem := [], mgmt := Mgmt.reset, pkg := 0 }

end Sys2Proof.Machine
end

