-- ==== Sys2Proof/Machine/Exact.lean ====
section
/-!
DEFINITION. Exact accumulators (R77 to R80): contributing, combining, reading and the 64-byte wire element. The vector unit, the
halo tree and the servers' XADD use these operations.
-/
namespace Sys2Proof.Machine

/-- Saturating addition of two counts (R78). -/
def satAdd16 (a b : BitVec 16) : BitVec 16 := if 0xFFFF < a.toNat + b.toNat then 0xFFFF else a + b

/-- Contributes a value (R78). -/
def XA.contribute (x : XA) (c : FVal) : XA :=
  match c with
  | .nan => { x with nan := true, zs := 2 }
  | .inf neg => if neg then { x with ninf := satAdd16 x.ninf 1, zs := 2 } else { x with pinf := satAdd16 x.pinf 1, zs := 2 }
  | .fin neg m =>
    if neg && decide (m = 0) then (if x.zs = 0 then { x with zs := 1 } else x)
    else { x with n := x.n + BitVec.ofInt 384 (FVal.fin neg m).int, zs := 2 }

/-- Combines two accumulators part by part (R78). -/
def XA.combine (x y : XA) : XA :=
  { n := x.n + y.n, pinf := satAdd16 x.pinf y.pinf, ninf := satAdd16 x.ninf y.ninf, nan := x.nan || y.nan,
    zs := if x.zs = 0 then y.zs else if y.zs = 0 then x.zs else if x.zs = 2 || y.zs = 2 then 2 else 1 }

/-- Reads an accumulator to a format with one rounding to nearest even (R79). -/
def XA.read (f : Fmt) (x : XA) : Nat × BitVec 6 :=
  if x.nan || (decide (x.pinf ≠ 0) && decide (x.ninf ≠ 0)) then (f.nan, if x.nan then 0 else flNV)
  else if x.pinf ≠ 0 then (f.infCode false, 0)
  else if x.ninf ≠ 0 then (f.infCode true, 0)
  else roundInt f 0 x.n.toInt (-149) (decide (x.zs = 1))

/-- The 512 bits of a wire element, byte 0 lowest (R80). -/
def XA.wire (x : XA) : BitVec 512 :=
  (0#88 ++ (0#5 ++ x.zs ++ (if x.nan then 1#1 else 0#1)) ++ x.ninf ++ x.pinf ++ x.n)

/-- The accumulator of a wire element: reserved bits ignored, ZS = 0b11 taken as 0b10 (R80). -/
def XA.ofWire (w : BitVec 512) : XA :=
  { n := w.extractLsb' 0 384, pinf := w.extractLsb' 384 16, ninf := w.extractLsb' 400 16, nan := w.getLsbD 416,
    zs := if w.extractLsb' 417 2 = 3 then 2 else w.extractLsb' 417 2 }

/-- `n` little-endian bytes of a natural number. -/
def toBytes (n : Nat) (x : Nat) : List Byte := (List.range n).map fun i => BitVec.ofNat 8 (x / 2 ^ (8 * i))

/-- The natural number of little-endian bytes. -/
def ofBytes : List Byte → Nat
  | [] => 0
  | b :: l => b.toNat + 256 * ofBytes l

end Sys2Proof.Machine
end

