-- ==== Sys2Proof/Machine/Flags.lean ====
section
/-!
DEFINITION. Residues (R343) and integer conditions (R180, R212), and the integer conventions of R81.
-/
namespace Sys2Proof.Machine

/-- The residue of a number: its value modulo 15 (R343). -/
def resOf (n : Nat) : BitVec 4 := BitVec.ofNat 4 (n % 15)

/-- A scalar written with a zero residue: the carried residue is that of the value (R343). -/
def SVal.of (x : Word) : SVal := ⟨x, resOf x.toNat⟩

/-- The zero scalar. -/
def SVal.zero : SVal := ⟨0, 0⟩

/-- Whether the carried residue is the residue of the value; 15 never is (R343). -/
def SVal.ok (x : SVal) : Bool := x.res == resOf x.val.toNat

/-- ADD's residue: from the carried residues and the carry; 2^64 leaves 1 modulo 15 (R343). -/
def SVal.add (x y : SVal) : SVal :=
  let carry := (x.val.toNat + y.val.toNat) / 2 ^ 64
  ⟨x.val + y.val, BitVec.ofNat 4 ((x.res.toNat + y.res.toNat + 15 - carry) % 15)⟩

/-- SUB's residue, from the carried residues and the borrow (R343). -/
def SVal.sub (x y : SVal) : SVal :=
  let borrow := if x.val.toNat < y.val.toNat then 1 else 0
  ⟨x.val - y.val, BitVec.ofNat 4 ((x.res.toNat + 30 - y.res.toNat + borrow) % 15)⟩

/-- MUL's residue, from the carried residues and the high product (R343). -/
def SVal.mul (x y : SVal) : SVal :=
  let hi := x.val.toNat * y.val.toNat / 2 ^ 64
  ⟨x.val * y.val, BitVec.ofNat 4 ((x.res.toNat * y.res.toNat + 15 - hi % 15) % 15)⟩

/-- The integer conditions eq 0, ne 1, lt 2, ge 3, ltz 4, gez 5 (R180, R212). -/
def intCond (c : Nat) (x y : Word) : Bool :=
  match c with
  | 0 => x == y
  | 1 => x != y
  | 2 => x.slt y
  | 3 => !x.slt y
  | 4 => x.ult y
  | _ => !x.ult y

/-- DIV: truncated toward zero; a zero divisor gives all ones, −2^63 ÷ −1 gives −2^63 (R81, R210). -/
def divS (x y : Word) : Word := if y = 0 then BitVec.allOnes 64 else x.sdiv y
/-- DIVZ (R81, R210). -/
def divU (x y : Word) : Word := if y = 0 then BitVec.allOnes 64 else x / y
/-- REM: the dividend's sign; a zero divisor gives the dividend (R81, R210). -/
def remS (x y : Word) : Word := if y = 0 then x else x.srem y
/-- REMZ (R81, R210). -/
def remU (x y : Word) : Word := if y = 0 then x else x % y

/-- MULH: bits 127:64 of the signed product (R210). -/
def mulHigh (x y : Word) : Word := BitVec.ofInt 64 (x.toInt * y.toInt / 2 ^ 64)
/-- MULHZ: bits 127:64 of the unsigned product (R210). -/
def mulHighZ (x y : Word) : Word := BitVec.ofNat 64 (x.toNat * y.toNat / 2 ^ 64)

/-- Leading zero bits of the low `n` bits (R210). -/
def clzGo (x : Word) : Nat → Nat
  | 0 => 0
  | n + 1 => if x.getLsbD n then 0 else 1 + clzGo x n

/-- Leading zero bits; 64 for 0 (R210). -/
def clz (x : Word) : Nat := clzGo x 64

/-- Set bits (R210). -/
def popc (x : Word) : Nat := (List.range 64).foldl (fun n i => if x.getLsbD i then n + 1 else n) 0

/-- BFX: `len` bits from `pos`, zeros above bit 63 (R213). -/
def bfx (x : Word) (pos len : Nat) : Word := BitVec.ofNat 64 (x.toNat / 2 ^ pos % 2 ^ len)

/-- BFXS: the same field with its sign taken from bit len − 1 (R213). -/
def bfxs (x : Word) (pos len : Nat) : Word :=
  let v := x.toNat / 2 ^ pos % 2 ^ len
  if v.testBit (len - 1) then BitVec.ofInt 64 ((v : Int) - 2 ^ len) else BitVec.ofNat 64 v

/-- BFI: the low min(len, 64 − pos) bits of `a` replace the field of `d` at `pos` (R213). -/
def bfi (d a : Word) (pos len : Nat) : Word :=
  let w := if len ≤ 64 - pos then len else 64 - pos
  let mask : Word := BitVec.ofNat 64 ((2 ^ w - 1) * 2 ^ pos)
  (d &&& ~~~mask) ||| ((a <<< pos) &&& mask)

end Sys2Proof.Machine
end

