-- ==== Sys2Proof/Machine/Base.lean ====
section
/-!
DEFINITION. Tiles, registers, results in flight and the tile store: the operations that everything else is written over. Each
register file has one reader and one writer, where hard-wired registers live (R172); memory accesses go through the range rule of
R219 and the buffers that messages are landing in (R111).
-/
namespace Sys2Proof.Machine

/-! ### Tiles -/

/-- Puts a tile into the list of tiles out of focus, in endpoint order. -/
def insertTile (t : Tile) : List Tile → List Tile
  | [] => [t]
  | u :: l => if t.ep < u.ep then t :: u :: l else if t.ep = u.ep then t :: l else u :: insertTile t l

/-- The tile of an endpoint; one that nothing has touched stands as reset left it (R11). -/
def State.getTile (s : State) (ep : Nat) : Tile :=
  if s.tile.ep = ep then s.tile else (s.others.find? fun t => t.ep == ep).getD (Tile.reset ep)

/-- Replaces the tile with the endpoint of `t`. -/
def State.setTile (s : State) (t : Tile) : State :=
  if s.tile.ep = t.ep then { s with tile := t } else { s with others := insertTile t s.others }

def State.modTile (s : State) (ep : Nat) (f : Tile → Tile) : State := s.setTile (f (s.getTile ep))

/-- Brings a tile into focus. -/
def State.focus (s : State) (ep : Nat) : State :=
  if s.tile.ep = ep then s
  else { s with tile := s.getTile ep, others := insertTile s.tile (s.others.filter fun t => t.ep != ep) }

/-- Changes the tile in focus. -/
def State.onTile (s : State) (f : Tile → Tile) : State := { s with tile := f s.tile }
def State.onThr (s : State) (f : Thread → Thread) : State := s.onTile fun t => { t with thr := f t.thr }
def State.onRegs (s : State) (f : Regs → Regs) : State := s.onThr fun h => { h with regs := f h.regs }
def State.onIss (s : State) (f : Issue → Issue) : State := s.onTile fun t => { t with iss := f t.iss }

/-- Ranks (R31). -/
def State.rankOf (s : State) (ep : Nat) : Rank := BitVec.ofNat 32 (s.pkg * 4096 + ep)
def rankEp (r : Rank) : Nat := r.toNat % 4096
def rankPkg (r : Rank) : Nat := r.toNat / 4096
def State.ownPkg (s : State) (r : Rank) : Bool := rankPkg r == s.pkg

/-- The partition of a tile (R32). -/
def State.partOf (s : State) (ep : Nat) : Option Nat := Sparse.get none s.owner ep

/-! ### Registers -/

/-- s0 reads zero (R172). -/
def Regs.getS (r : Regs) (n : Nat) : SVal := if n = 0 then SVal.zero else Sparse.get SVal.zero r.s n
/-- Writes to s0 are discarded (R172). -/
def Regs.setS (r : Regs) (n : Nat) (v : SVal) : Regs := if n = 0 then r else { r with s := Sparse.set SVal.zero r.s n v }
def Regs.getF (r : Regs) (n : Nat) : W32 := Sparse.get 0 r.f n
def Regs.setF (r : Regs) (n : Nat) (v : W32) : Regs := { r with f := Sparse.set 0 r.f n v }
def VVal.zero : VVal := ⟨0, 0⟩
def Regs.getV (r : Regs) (n : Nat) : VVal := Sparse.get VVal.zero r.v n
def Regs.setV (r : Regs) (n : Nat) (v : VVal) : Regs := { r with v := Sparse.set VVal.zero r.v n v }
/-- m0 reads all ones, and writes to it are discarded (R172). -/
def Regs.getM (r : Regs) (n : Nat) : Word := if n = 0 then BitVec.allOnes 64 else Sparse.get 0 r.m n
def Regs.setM (r : Regs) (n : Nat) (v : Word) : Regs := if n = 0 then r else { r with m := Sparse.set 0 r.m n v }
/-- p0 reads true, and writes to it are discarded (R172). -/
def Regs.getP (r : Regs) (n : Nat) : Bool := if n = 0 then true else Sparse.get false r.p n
def Regs.setP (r : Regs) (n : Nat) (v : Bool) : Regs := if n = 0 then r else { r with p := Sparse.set false r.p n v }
def Regs.getRow (r : Regs) (k i : Nat) : VBits := Sparse.get 0 r.acc (64 * k + i)
def Regs.setRow (r : Regs) (k i : Nat) (v : VBits) : Regs := { r with acc := Sparse.set 0 r.acc (64 * k + i) v }
def Regs.getXA (r : Regs) (k i : Nat) : XA := Sparse.get XA.clear r.xa (64 * k + i)
def Regs.setXA (r : Regs) (k i : Nat) (v : XA) : Regs := { r with xa := Sparse.set XA.clear r.xa (64 * k + i) v }
def Regs.getB (r : Regs) (n : Nat) : Belief := Sparse.get Belief.zero r.b n
def Regs.setB (r : Regs) (n : Nat) (v : Belief) : Regs := { r with b := Sparse.set Belief.zero r.b n v }
def Regs.getSig (r : Regs) (n : Nat) : BitVec 512 := Sparse.get 0 r.sig n
def Regs.setSig (r : Regs) (n : Nat) (v : BitVec 512) : Regs := { r with sig := Sparse.set 0 r.sig n v }
def Regs.getH (r : Regs) (n : Nat) : Option Nat := Sparse.get none r.h n
def Regs.setH (r : Regs) (n : Nat) (v : Option Nat) : Regs := { r with h := Sparse.set none r.h n v }
def Regs.getLC (r : Regs) (n : Nat) : Loop := Sparse.get Loop.zero r.lc n
def Regs.setLC (r : Regs) (n : Nat) (v : Loop) : Regs := { r with lc := Sparse.set Loop.zero r.lc n v }
def Regs.getC (r : Regs) (n : Nat) : Word := Sparse.get 0 r.cr n
def Regs.setC (r : Regs) (n : Nat) (v : Word) : Regs := { r with cr := Sparse.set 0 r.cr n v }

/-- Control-register indices (R173). -/
def crTILEID := 0x000
def crRANK := 0x001
def crGANGID := 0x002
def crGANGSZ := 0x003
def crCOORD0 := 0x004
def crEXTENT0 := 0x008
def crCYCLE := 0x010
def crTIME := 0x011
def crACTX := 0x012
def crGROUP := 0x013
def crSLOTFORM := 0x014
def crTAGMASK := 0x015
def crTSEND := 0x016
def crNOTIFY := 0x017
def crUPOOLB := 0x018
def crUPOOLS := 0x019
def crTCAUSE := 0x020
def crTPC := 0x021
def crTMASK := 0x022
def crTVEC := 0x023
def crTOPD0 := 0x024
def crTOPD3 := 0x027
def crTINFO := 0x028
def crOORADDR := 0x030
def crOORFLAG := 0x031
def crFPFLAGS := 0x032
def crFPMODE := 0x033
def crTOUCH0 := 0x040
def crSTEP := 0x050
def crSIGTHR := 0x051
def crSIGBASE := 0x052
def crSKIPLOG := 0x053
def crSKIPMAP0 := 0x060
def crBSINGTHR := 0x071
def crNB0 := 0x080
def crWDOG := 0x0C0
def crPAIRMODE := 0x0C1
def crAGEN0 := 0x0D0
def crAB0 := 0x0D8

def State.cr (s : State) (n : Nat) : Word := s.tile.thr.regs.getC n
def State.setCr (s : State) (n : Nat) (v : Word) : State := s.onRegs fun r => r.setC n v
def Tile.cr (t : Tile) (n : Nat) : Word := t.thr.regs.getC n
def Tile.setCr (t : Tile) (n : Nat) (v : Word) : Tile := { t with thr := { t.thr with regs := t.thr.regs.setC n v } }

/-- Handler mode: TCAUSE.HM (R332). -/
def Tile.hm (t : Tile) : Bool := (t.cr crTCAUSE).getLsbD 63
def State.hm (s : State) : Bool := s.tile.hm

/-! ### Lanes -/

/-- `n` fields of `w` bits, field 0 lowest. -/
def packFields (w : Nat) (f : Nat → Nat) : Nat → Nat
  | 0 => 0
  | n + 1 => packFields w f n + f n % 2 ^ w * 2 ^ (w * n)

/-- Lane `i` of a vector (R172). -/
def lane (v : VBits) (i : Nat) : W32 := v.extractLsb' (32 * i) 32
/-- The vector with lane `i` = `f i` for i = 0 to 63. -/
def ofLanes (f : Nat → W32) : VBits := BitVec.ofNat 2048 (packFields 32 (fun i => (f i).toNat) 64)
/-- The residue that lane `i` carries. -/
def VVal.laneRes (v : VVal) (i : Nat) : BitVec 4 := v.res.extractLsb' (4 * i) 4
/-- A vector from lanes and their residues. -/
def VVal.ofLanes (f : Nat → W32) (r : Nat → BitVec 4) : VVal :=
  ⟨Machine.ofLanes f, BitVec.ofNat 256 (packFields 4 (fun i => (r i).toNat) 64)⟩
/-- A vector written with a zero residue in every lane (R343). -/
def VVal.ofBits (b : VBits) : VVal := ⟨b, BitVec.ofNat 256 (packFields 4 (fun i => (resOf (lane b i).toNat).toNat) 64)⟩
/-- The lowest of the 64 lanes whose carried residue is wrong (R230). -/
def VVal.badLane (v : VVal) : Option Nat := (List.range 64).find? fun i => v.laneRes i != resOf (lane v.bits i).toNat

/-! ### What the slots of a bundle read -/

/-- A free value of this step; `site` tells it from the others of the step (R182). -/
def State.freeBits (s : State) (w site : Nat) : BitVec w := Config.free w s.fresh (s.tile.iss.slot * 0x1000000 + site)

/-- Writes `l` at address `a` of a memory. -/
def putBytes (m : Memory) (a : Nat) : List Byte → Memory
  | [] => m
  | b :: l => putBytes (Sparse.set 0 m a b) (a + 1) l

/-- The tile store as the thread sees it: with the buffered stores of a speculative path (R189). -/
def Tile.seen (t : Tile) : Memory :=
  match t.spec with
  | none => t.mem
  | some p => p.stores.foldl (fun m w => putBytes m w.1 w.2.1) t.mem

/-- The state that the slots of the bundle read (R182). -/
def State.source (s : State) : Source :=
  match s.tile.iss.src with
  | some x => x
  | none => ⟨s.tile.thr.regs, s.tile.seen, s.tile.thr.land, s.tile.eng.matrix, s.tile.eng.store⟩

/-- Whether a result for `r` is still in flight (R182). -/
def State.flying (s : State) (r : Reg) : Bool := s.source.land.any fun l => l.dest == r && decide (s.cycle < l.ready)

/-- Scalar register `n` as read at issue: a read inside a write's window gives a free value (R182, R194). -/
def State.rdS (s : State) (n : Nat) : SVal :=
  if n ≠ 0 && s.flying (.s n) then SVal.of (s.freeBits 64 n) else s.source.regs.getS n

/-- The scalar operand at position `pos` of the assembly form; a replay takes it from the capture (R335, R337). -/
def State.opS (s : State) (pos : Nat) (r : BitVec 5) : SVal :=
  match s.tile.iss.ops with
  | some l => l.getD pos SVal.zero
  | none => s.rdS r.toNat

/-- The f operand at position `pos` of the assembly form. -/
def State.opF (s : State) (pos : Nat) (r : BitVec 4) : W32 :=
  match s.tile.iss.ops with
  | some l => (l.getD pos SVal.zero).val.extractLsb' 0 32
  | none => if s.flying (.f r.toNat) then s.freeBits 32 (0x100 + r.toNat) else s.source.regs.getF r.toNat

/-- An f operand as TOPD shows it (R335). -/
def SVal.ofF (x : W32) : SVal := SVal.of (x.zeroExtend 64)

def State.rdV (s : State) (r : BitVec 5) : VVal :=
  if s.flying (.v r.toNat) then VVal.ofBits (s.freeBits 2048 (0x200 + r.toNat)) else s.source.regs.getV r.toNat
/-- Lane `i` of an exact accumulator as read at issue (R248). -/
def State.freeXA (s : State) (site : Nat) : XA :=
  ⟨s.freeBits 384 site, s.freeBits 16 (site + 1), s.freeBits 16 (site + 2), (s.freeBits 1 (site + 3)) == 1, s.freeBits 2 (site + 4)⟩
/-- Whether the bound of the last write to an exact accumulator has not passed (R248). -/
def State.flyingXA (s : State) (k : Nat) : Bool :=
  match s.source.land.find? fun l => l.dest == .xa k with
  | some l => decide (s.cycle < l.ready)
  | none => false
def State.rdXA (s : State) (k : BitVec 1) (i : Nat) : XA :=
  if s.flyingXA k.toNat then s.freeXA (0x5000000 + 512 * k.toNat + 8 * i) else s.source.regs.getXA k.toNat i
def State.rdM (s : State) (r : BitVec 3) : Word :=
  if r ≠ 0 && s.flying (.m r.toNat) then s.freeBits 64 (0x300 + r.toNat) else s.source.regs.getM r.toNat
def State.rdP (s : State) (r : BitVec 3) : Bool :=
  if r ≠ 0 && s.flying (.p r.toNat) then (s.freeBits 1 (0x400 + r.toNat)) == 1 else s.source.regs.getP r.toNat
def State.rdSig (s : State) (r : BitVec 2) : BitVec 512 :=
  if s.flying (.sig r.toNat) then s.freeBits 512 (0x500 + r.toNat) else s.source.regs.getSig r.toNat
def State.rdH (s : State) (r : BitVec 4) : Option Nat := s.source.regs.getH r.toNat
/-- A control register as the bundle reads it at issue (R175, R335). -/
def State.rdC (s : State) (n : Nat) : Word := s.source.regs.getC n
/-- The rounding mode and SAT8 (R73). -/
def State.rm (s : State) : Nat := ((s.rdC crFPMODE).extractLsb' 0 2).toNat
def State.sat8 (s : State) : Bool := (s.rdC crFPMODE).getLsbD 2

/-! ### Results -/

/-- Whether a write to `r` would fall into the window of an earlier write (R182). -/
def State.clash (s : State) (r : Reg) : Bool := s.tile.thr.land.any fun l => l.dest == r && decide (s.cycle < l.ready)

/-- Whether a result still counts: in flight, or the last write to an exact accumulator while the bound of an earlier one has not passed,
since only the last counts there (R248). `all` are the results of the thread. -/
def Landing.live (cycle : Nat) (all : List Landing) (l : Landing) : Bool :=
  decide (cycle < l.ready) ||
    match l.dest with
    | .xa _ => all.any fun m => m.dest == l.dest && decide (cycle < m.ready)
    | _ => false

/-- Records a result in flight with latency bound `lat` (R182, R185). -/
def State.land (s : State) (r : Reg) (lat : Nat) (flags : BitVec 6) : State :=
  s.onThr fun h => { h with land := ⟨r, s.cycle + lat, flags⟩ :: h.land.filter fun l => l.live s.cycle h.land || l.flags != 0 }

/-- Writing a register clears its poison; a speculative path notes what it has cleared (R189, R347). -/
def State.clean (s : State) (r : Reg) : State :=
  s.onTile fun t =>
    { t with
      poison := t.poison.filter fun p => p != .reg r
      spec := t.spec.map fun p => { p with cleared := p.cleared ++ t.poison.filter fun q => q == .reg r } }

/-- Writes a scalar register with latency bound `lat`; a second write inside a window leaves a free value (R182). -/
def State.wrS (s : State) (r : BitVec 5) (v : SVal) (lat : Nat) (flags : BitVec 6 := 0) : State :=
  if r = 0 then s.land .none lat flags
  else
    let v' := if s.clash (.s r.toNat) then SVal.of (s.freeBits 64 (0x600 + r.toNat)) else v
    ((s.onRegs fun g => g.setS r.toNat v').clean (.s r.toNat)).land (.s r.toNat) lat flags
def State.wrF (s : State) (r : BitVec 4) (v : W32) (lat : Nat) (flags : BitVec 6 := 0) : State :=
  let v' := if s.clash (.f r.toNat) then s.freeBits 32 (0x620 + r.toNat) else v
  ((s.onRegs fun g => g.setF r.toNat v').clean (.f r.toNat)).land (.f r.toNat) lat flags
def State.wrV (s : State) (r : BitVec 5) (v : VVal) (lat : Nat) (flags : BitVec 6 := 0) : State :=
  let v' := if s.clash (.v r.toNat) then VVal.ofBits (s.freeBits 2048 (0x640 + r.toNat)) else v
  ((s.onRegs fun g => g.setV r.toNat v').clean (.v r.toNat)).land (.v r.toNat) lat flags
def State.wrM (s : State) (r : BitVec 3) (v : Word) (lat : Nat) : State :=
  if r = 0 then s
  else
    let v' := if s.clash (.m r.toNat) then s.freeBits 64 (0x660 + r.toNat) else v
    ((s.onRegs fun g => g.setM r.toNat v').clean (.m r.toNat)).land (.m r.toNat) lat 0
def State.wrP (s : State) (r : BitVec 3) (v : Bool) (lat : Nat) : State :=
  if r = 0 then s
  else
    let v' := if s.clash (.p r.toNat) then (s.freeBits 1 (0x680 + r.toNat)) == 1 else v
    ((s.onRegs fun g => g.setP r.toNat v').clean (.p r.toNat)).land (.p r.toNat) lat 0
def State.wrSig (s : State) (r : BitVec 2) (v : BitVec 512) (lat : Nat) : State :=
  let v' := if s.clash (.sig r.toNat) then s.freeBits 512 (0x6A0 + r.toNat) else v
  ((s.onRegs fun g => g.setSig r.toNat v').clean (.sig r.toNat)).land (.sig r.toNat) lat 0

/-- Changes the lanes of an exact accumulator that `sel` names. Writes are applied in issue order (R248); two in one bundle leave
free values (R182). `f i x` is the new value of lane `i` that held `x`. -/
def State.wrXA (s : State) (k : BitVec 1) (lat : Nat) (sel : Nat → Bool) (f : Nat → XA → XA) : State :=
  let twice := s.tile.thr.land.any fun l => l.dest == .xa k.toNat && decide (l.ready = s.cycle + 24) && decide (lat ≠ 24)
  ((s.onRegs fun r => (List.range 64).foldl (fun r i =>
    if twice then r.setXA k.toNat i (s.freeXA (0x5100000 + 512 * k.toNat + 8 * i))
    else if sel i then r.setXA k.toNat i (f i (r.getXA k.toNat i)) else r) r).clean (.xa k.toNat)).land (.xa k.toNat) lat 0

/-! ### Tile store -/

/-- The in-range intervals: the plain store, the unexpected pool, and in handler mode the context save area (R219). -/
def Tile.ranges (t : Tile) : List (Nat × Nat) :=
  [(0, Config.plainEnd),
   ((t.cr crUPOOLB).toNat, (t.cr crUPOOLB).toNat + (t.cr crUPOOLS).toNat)] ++
  (if t.hm then [(Config.saveArea, Config.storeBytes)] else [])

def inRanges (rs : List (Nat × Nat)) (a : Nat) : Bool := rs.any fun r => decide (r.1 ≤ a) && decide (a < r.2)
def Tile.inRange (t : Tile) (a : Nat) : Bool := inRanges t.ranges a

/-- Moves past the in-range intervals that begin at or before `a`. -/
def skipRanges (rs : List (Nat × Nat)) (a : Nat) : Nat := rs.foldl (fun c r => if r.1 ≤ c && c < r.2 then r.2 else c) a

/-- The lowest out-of-range address of `a` to `a + n − 1`, without wrapping. -/
def Tile.oorFrom (t : Tile) (a n : Nat) : Option Nat :=
  let c := skipRanges t.ranges (skipRanges t.ranges (skipRanges t.ranges a))
  if c < a + n then some c else none

/-- The lower of two optional addresses. -/
def minOpt : Option Nat → Option Nat → Option Nat
  | some a, some b => some (if b < a then b else a)
  | some a, none => some a
  | none, b => b

/-- The lowest out-of-range byte address of `n` bytes from `a`, modulo 2^64 (R219, R344). -/
def Tile.oor (t : Tile) (a : Word) (n : Nat) : Option Nat :=
  if a.toNat + n ≤ 2 ^ 64 then t.oorFrom a.toNat n
  else minOpt (t.oorFrom 0 (a.toNat + n - 2 ^ 64)) (t.oorFrom a.toNat (2 ^ 64 - a.toNat))

/-- The kinds of entries whose buffer a message writes. -/
def EKind.receives : EKind → Bool
  | .post | .postm | .subs | .get | .getb | .gath | .apply | .cas => true
  | .send | .sendr | .sendt | .sendv | .publ | .donew | .posta | .put | .putb | .scat => false

/-- Whether byte `a` lies in a receive or request buffer whose completion has not been observed (R111). A mailbox's buffer is
settled once it has been observed (R101). -/
def Ent.unsettled (e : Ent) (a : Nat) : Bool :=
  e.kind.receives && !e.observed &&
    (match e.buf with
     | .store b _ => decide (b ≤ a) && decide (a < b + e.len)
     | _ => false)

/-- Whether byte `a` of the tile store lies in the buffer of an entry that went unobserved. -/
def Ghost.covers (g : Ghost) (a : Nat) : Bool := g.region.isNone && decide (g.addr ≤ a) && decide (a < g.addr + g.len)

def Tile.unsettled (t : Tile) (a : Nat) : Bool := (t.ni.ents.any fun e => e.unsettled a) || t.ni.ghosts.any fun g => g.covers a

/-- Whether `n` bytes from `a` and `m` bytes from `b` have an address in common, modulo 2^64. -/
def overlap (a n b m : Nat) : Bool :=
  decide (0 < n) && decide (0 < m) && (decide ((a + (2 ^ 64 - b)) % 2 ^ 64 < m) || decide ((b + (2 ^ 64 - a)) % 2 ^ 64 < n))

/-- The address of row `i` of an engine's range, and whether the row touches `n` bytes from `a`. -/
def Job.row (j : Job) (i : Nat) : Nat := (j.base + BitVec.ofNat 64 i * j.stride).toNat
def Job.hits (j : Job) (i a n : Nat) : Bool := overlap a n (j.row i) j.bytes

/-- Whether a running MSTO may be writing byte `a`: it is then read or written as old or new without rule (R256). -/
def Tile.racing (t : Tile) (cycle a : Nat) : Bool :=
  t.eng.msto.any fun j => decide (cycle < j.until_) && (List.range j.rows).any fun i => j.hits i a 1

/-- A byte of the tile store that holds `new` as a reader finds it: old or new while an MSTO may be writing it (R256). -/
def Tile.raced (t : Tile) (fresh cycle a : Nat) (new : Byte) : Byte :=
  if t.racing cycle a && Config.free 1 fresh (0x10000000 + a) == 1 then Sparse.get 0 t.eng.old a else new

/-- Bytes that a writer puts at `a`: while an MSTO may be writing a byte of them, what stays is the written byte or the MSTO's, and
what a reader may still find instead of it is the written byte (R256). -/
def Tile.raceStore (t : Tile) (fresh cycle a : Nat) (l : List Byte) : Tile × List Byte :=
  if t.eng.msto.any fun j => decide (cycle < j.until_) then
    let at_ (i : Nat) : Nat := (a + i) % 2 ^ 64
    let hit := l.zipIdx.filter fun b => t.racing cycle (at_ b.2)
    ({ t with eng := { t.eng with old := hit.foldl (fun m b => Sparse.set 0 m (at_ b.2) b.1) t.eng.old } },
     l.zipIdx.map fun b =>
       if t.racing cycle (at_ b.2) && Config.free 1 fresh (0x20000000 + at_ b.2) == 1 then Sparse.get 0 t.mem (at_ b.2) else b.1)
  else (t, l)

/-- The rows of a running job that a write of `n` bytes from `a` touches. -/
def Job.hit (j : Job) (cycle a n : Nat) : List Nat :=
  if cycle < j.until_ then (List.range j.rows).filter fun i => j.hits i a n else []

/-- An MMA whose rows `hit` have been overwritten: which of NX, UF, OF and NV those rows raise is free (R74, R253). -/
def Job.raced (j : Job) (fresh : Nat) (hit : List Nat) : Job :=
  { j with flags := j.flags.zipIdx.map fun f => if hit.contains f.2 then Config.free 6 fresh (0x7100000 + 64 * j.acc + f.2) &&& 0x17 else f.1 }

/-- The flags that a job raises when its results land. -/
def Job.raised (j : Job) : BitVec 6 := j.flags.foldl (fun f r => f ||| r) 0

/-- What such a write does to one MMA: its rows that use the bytes are free, and so are the flags that those rows raise as the last result of the
accumulator on its way lands. -/
def Tile.raceRows (fresh cycle a n : Nat) (t : Tile) (j : Job) : Tile :=
  let hit := j.hit cycle a n
  let last (l : Landing) : Bool := decide (cycle < l.ready) && t.thr.land.all fun m => m.dest != l.dest || decide (m.ready ≤ l.ready)
  if hit.isEmpty then t
  else
    { t with thr :=
        { t.thr with
          regs := hit.foldl (fun r i => r.setRow j.acc i (Config.free 2048 fresh (0x7000000 + 64 * j.acc + i))) t.thr.regs
          land := t.thr.land.map fun l =>
            if l.dest == .acc j.acc && last l then { l with flags := (j.raced fresh hit).raised } else l } }

/-- A write of `n` bytes from `a` into A rows of a running MMA leaves the accumulator rows that use them free, and the flags that those rows
raise (R253). -/
def Tile.mmaRace (t : Tile) (fresh cycle a n : Nat) : Tile :=
  let t' := t.eng.mma.foldl (Tile.raceRows fresh cycle a n) t
  { t' with eng := { t'.eng with mma := t'.eng.mma.map fun j => j.raced fresh (j.hit cycle a n) } }

/-- A write of `n` anvil bytes from `a` into a block that the latch is still reading leaves those latched bytes free (R102, R251). -/
def Tile.latchRace (t : Tile) (fresh cycle a n : Nat) : Tile :=
  match t.latch with
  | none => t
  | some l =>
    if cycle < l.until_ then
      let data := ((List.range n).filter fun i => decide (l.at_ ≤ a + i) && decide (a + i < l.at_ + l.bytes)).foldl
        (fun m i => m.set (a + i - l.at_) (Config.free 8 fresh (0x9000000 + a + i))) l.data
      { t with latch := some { l with data } }
    else t

/-- The byte at address `a` that an instruction reads: zero out of range (R219), free in an unobserved buffer (R111). -/
def State.ldByte (s : State) (a : Nat) : Byte :=
  if !s.tile.inRange a then 0
  else if s.tile.unsettled a then s.freeBits 8 (0x1000 + a)
  else if s.tile.racing s.cycle a then s.tile.raced s.fresh s.cycle a (Sparse.get 0 s.tile.seen a)
  else Sparse.get 0 s.source.mem a

/-- `n` bytes from address `a`, modulo 2^64. -/
def State.ldBytes (s : State) (a : Word) (n : Nat) : List Byte :=
  (List.range n).map fun i => s.ldByte (a + BitVec.ofNat 64 i).toNat

/-- `n` bytes from address `a` as a little-endian number (R5). -/
def ofLE : List Byte → Nat
  | [] => 0
  | b :: l => b.toNat + 256 * ofLE l
def toLE (n x : Nat) : List Byte := (List.range n).map fun i => BitVec.ofNat 8 (x / 2 ^ (8 * i))

/-- Writes bytes at the addresses of a memory that lie in the given intervals; the others are dropped (R219, R262). -/
def putRange (rs : List (Nat × Nat)) (m : Memory) (a : Word) : List Byte → Memory
  | [] => m
  | b :: l => putRange rs (if inRanges rs a.toNat then Sparse.set 0 m a.toNat b else m) (a + 1) l

/-- Writes bytes at in-range addresses of a memory (R219). -/
def Tile.putIn (t : Tile) (m : Memory) (a : Word) (l : List Byte) : Memory := putRange t.ranges m a l

/-- A live buffer that the NI still reads: a store into it makes those bytes free (R99). -/
def Ent.touched (e : Ent) (a n : Nat) : Ent :=
  match e.buf with
  | .store b _ => if overlap a n b e.len && e.phase != .done then { e with dirty := (a, n) :: e.dirty } else e
  | _ => e

/-- Writing a whole 8-byte word of the store clears its poison; the words that `n` bytes from `a` cover whole, modulo 2^64 (R347). -/
def Poison.covered (a n : Nat) : Poison → Bool
  | .store w => decide ((8 * w + (2 ^ 64 - a)) % 2 ^ 64 + 8 ≤ n)
  | _ => false

/-- The words whose every byte lies in one of several ranges that one operation writes. -/
def Poison.coveredBy (rs : List (Nat × Nat)) : Poison → Bool
  | .store w => (List.range 8).all fun i => rs.any fun r => decide ((8 * w + i + (2 ^ 64 - r.1)) % 2 ^ 64 < r.2)
  | _ => false

/-- An operation that has written several ranges: on a speculative path the poison of their words is cleared when the path is
committed (R189, R347). -/
def State.cover (s : State) (rs : List (Nat × Nat)) : State :=
  s.onTile fun t =>
    match t.spec with
    | some p => { t with spec := some { p with covers := p.covers ++ [rs] } }
    | none => { t with poison := t.poison.filter fun p => !p.coveredBy rs }

/-- The same for words of the weight space. -/
def Poison.coveredAnvil (a n : Nat) : Poison → Bool
  | .anvil w => decide (a ≤ 8 * w) && decide (8 * w + 8 ≤ a + n)
  | _ => false

/-- A store of the thread: at once for every later bundle and for the NI, or into the buffer of a speculative path
(R120, R185, R189). A send buffer that the step sequencer (`seq`) writes is read as it stands (R418). -/
def State.storeAs (seq : Bool) (s : State) (a : Word) (l : List Byte) : State :=
  s.onTile fun t =>
    match t.spec with
    | some p =>
      let hit := l.zipIdx.filter fun b => t.inRange (a + BitVec.ofNat 64 b.2).toNat
      let put := hit.map fun b => ((a + BitVec.ofNat 64 b.2).toNat, [b.1], seq)
      { t with spec := some { p with stores := p.stores ++ put, covers := p.covers ++ [[(a.toNat, l.length)]] } }
    | none =>
      let r := (t.mmaRace s.fresh s.cycle a.toNat l.length).raceStore s.fresh s.cycle a.toNat l
      let t := r.1
      { t with
        mem := t.putIn t.mem a r.2
        poison := t.poison.filter fun p => !p.covered a.toNat l.length
        ni := if seq then t.ni else { t.ni with ents := t.ni.ents.map fun e => e.touched a.toNat l.length }
        iss := { t.iss with stored := (a.toNat, l.length, seq) :: t.iss.stored } }

/-- A store of the other slots. -/
def State.stBytes (s : State) (a : Word) (l : List Byte) : State := s.storeAs false a l

/-- A store bundle on a speculative path counts against its eight stores (R189). -/
def State.countStore (s : State) : State :=
  s.onTile fun t => { t with spec := t.spec.map fun p => { p with nstores := p.nstores + 1 } }

/-! ### Poison -/

/-- The poison marks that the bundle reads: the tile's, or a replayed slot's capture (R347). -/
def State.marks (s : State) : List Poison := s.tile.iss.poison.getD s.tile.poison

/-- Structure code and register number of a register in STORE_UE's TINFO (R347). -/
def Reg.ueCode : Reg → Nat × Nat
  | .s n => (2, n)
  | .f n => (3, n)
  | .v n => (4, n)
  | .m n => (5, n)
  | .p n => (5, n)
  | .acc n => (6, n)
  | .xa n => (7, n)
  | .b n => (8, n)
  | .sig n => (9, n)
  | .h n => (2, n)
  | .cr n => (2, n)
  | .none => (0, 0)

/-- TINFO of STORE_UE: structure in bits 3:0, element in 7:4, register number or word address in 63:8 (R347). -/
def ueInfo (structure_ element number : Nat) : Word :=
  BitVec.ofNat 64 (structure_ + 16 * (element % 16) + 256 * number)

/-- Block operands are not captured: a replay reads them, and their marks, from the registers (R288). -/
def State.marksFor (s : State) (r : Reg) : List Poison :=
  match r with
  | .b _ => s.tile.poison
  | _ => s.marks

/-- The first poisoned register of a list, as STORE_UE reports it. -/
def State.ueReg (s : State) (rs : List Reg) : Option Word :=
  (rs.find? fun r => (s.marksFor r).any fun p => p == .reg r).map fun r => ueInfo r.ueCode.1 0 r.ueCode.2

/-- The lowest poisoned 8-byte word of the tile store that `n` bytes from `a` touch. -/
def State.ueMem (s : State) (a : Word) (n : Nat) : Option Word :=
  if n = 0 then none
  else
    s.tile.poison.foldl (fun (b : Option Word) p =>
      match p with
      | .store w =>
        if overlap a.toNat n (8 * w) 8 then
          (match b with
           | none => some (ueInfo 0 0 (8 * w))
           | some x => if 256 * (8 * w) < x.toNat then some (ueInfo 0 0 (8 * w)) else some x)
        else b
      | _ => b) none

end Sys2Proof.Machine
end

