-- ==== Sys2Proof/Machine/Routes.lean ====
section
/-!
DEFINITION. Routers and routes of the package (R22 to R24, R46, R114, R115, R117). A router is die × 256 + row × 16 + column, the
endpoint of the tile at it.
-/
namespace Sys2Proof.Machine

def rDie (r : Nat) : Nat := r / 256 % 4
def rRow (r : Nat) : Nat := r / 16 % 16
def rCol (r : Nat) : Nat := r % 16
def mkRouter (d row col : Nat) : Nat := d * 256 + row * 16 + col

/-- One hop: the next router, whether it is a bridge, whether it crosses a dateline, whether it runs in a column ring. -/
structure Hop where
  next     : Nat
  bridge   : Bool
  dateline : Bool
  column   : Bool
  deriving DecidableEq, Repr

/-- The router beyond a port: 0 west, 1 north, 2 east, 3 south, 4 the east–west bridge, 5 the north–south bridge (R21, R22). -/
def portNext (r p : Nat) : Nat :=
  match p with
  | 0 => mkRouter (rDie r) (rRow r) ((rCol r + 15) % 16)
  | 1 => mkRouter (rDie r) ((rRow r + 15) % 16) (rCol r)
  | 2 => mkRouter (rDie r) (rRow r) ((rCol r + 1) % 16)
  | 3 => mkRouter (rDie r) ((rRow r + 1) % 16) (rCol r)
  | 4 => mkRouter (if rDie r % 2 = 0 then rDie r + 1 else rDie r - 1) (rRow r) (15 - rCol r)
  | 5 => mkRouter (if rDie r < 2 then rDie r + 2 else rDie r - 2) (15 - rRow r) (rCol r)
  | _ => r

/-- The port that leads to a neighbour. -/
def portTo (r n : Nat) : Nat :=
  if rDie r % 2 ≠ rDie n % 2 then 4
  else if rDie r ≠ rDie n then 5
  else if rRow r = rRow n then (if rCol n = (rCol r + 1) % 16 then 2 else 0)
  else if rRow n = (rRow r + 1) % 16 then 3 else 1

/-- The input at which a packet that leaves over a port arrives. -/
def enters (p : Nat) : Nat := if p < 4 then (p + 2) % 4 else p

/-- The hop over a port. -/
def hopVia (r p : Nat) : Hop :=
  ⟨portNext r p, decide (4 ≤ p), (p = 0 && rCol r = 0) || (p = 2 && rCol r = 15) || (p = 1 && rRow r = 0) || (p = 3 && rRow r = 15),
   p = 1 || p = 3⟩

/-- The class of a hop, from the class in which the packet came and whether it came along a column ring (R115). -/
def hopClass (cls : Nat) (column : Bool) (h : Hop) : Nat :=
  if cls = 2 then 2 else if h.bridge then 0 else if h.dateline then 1 else if h.column && !column then 0 else cls

/-- One step along a ring from `x` to `y`: the shorter way, up when d ≤ 8 (R114). -/
def ringStep (x y : Nat) : Nat × Bool :=
  let d := (y + 16 - x) % 16
  if d ≤ 8 then ((x + 1) % 16, x == 15) else ((x + 15) % 16, x == 0)

/-- One hop within a die to position (row, col): row ring first (R114). -/
def dieHop (cur row col : Nat) : Hop :=
  if rCol cur ≠ col then
    let r := ringStep (rCol cur) col
    ⟨mkRouter (rDie cur) (rRow cur) r.1, false, r.2, false⟩
  else
    let r := ringStep (rRow cur) row
    ⟨mkRouter (rDie cur) r.1 (rCol cur), false, r.2, true⟩

/-- The next hop of a fixed route: an east–west bridge first, then a north–south one (R114). -/
def nextHop (cur dst : Nat) : Hop :=
  if rDie cur % 2 ≠ rDie dst % 2 then
    let edge := if rDie cur % 2 = 0 then 15 else 0
    if rRow cur = rRow dst && rCol cur = edge then
      ⟨mkRouter (if rDie cur % 2 = 0 then rDie cur + 1 else rDie cur - 1) (rRow cur) (15 - edge), true, false, false⟩
    else dieHop cur (rRow dst) edge
  else if rDie cur / 2 ≠ rDie dst / 2 then
    let edge := if rDie cur < 2 then 15 else 0
    if rCol cur = rCol dst && rRow cur = edge then
      ⟨mkRouter (if rDie cur < 2 then rDie cur + 2 else rDie cur - 2) (15 - edge) (rCol cur), true, false, false⟩
    else dieHop cur edge (rCol dst)
  else dieHop cur (rRow dst) (rCol dst)

/-- Plane coordinates (R46). -/
def planeRow (r : Nat) : Nat := 16 * (rDie r / 2) + rRow r
def planeCol (r : Nat) : Nat := 16 * (rDie r % 2) + rCol r
def ofPlane (row col : Nat) : Nat := mkRouter (2 * (row / 16) + col / 16) (row % 16) (col % 16)

/-- The next hop in the escape channel: plane row first, then plane column, no wrap links (R117). -/
def escHop (cur dst : Nat) : Hop :=
  let pr := planeRow cur; let pc := planeCol cur
  if pc ≠ planeCol dst then
    let c := if pc < planeCol dst then pc + 1 else pc - 1
    ⟨ofPlane pr c, decide (pc / 16 ≠ c / 16), false, false⟩
  else
    let r := if pr < planeRow dst then pr + 1 else pr - 1
    ⟨ofPlane r pc, decide (pr / 16 ≠ r / 16), false, true⟩

/-- The routers of a fixed route, from `cur` on, with fuel. -/
def routeFrom : Nat → Nat → Nat → List Nat
  | 0, cur, _ => [cur]
  | f + 1, cur, dst => if cur = dst then [cur] else cur :: routeFrom f (nextHop cur dst).next dst

/-- A route takes at most 16 + 16 hops on each of three dies. -/
def route (src dst : Nat) : List Nat := routeFrom 100 src dst
def hopCount (src dst : Nat) : Nat := (route src dst).length - 1

/-- Outer-edge position `e` of a die (R23): the horizontal edge is row 0 on dies 0 and 1 and row 15 on dies 2 and 3; the vertical
edge is column 0 on dies 0 and 2 and column 15 on dies 1 and 3. -/
def edgePos (d e : Nat) : Nat :=
  if e < 16 then mkRouter d (if d < 2 then 0 else 15) e else mkRouter d (e - 16) (if d % 2 = 0 then 0 else 15)

/-- The two attachments of server `k` (0 to 191), lower position first (R23). -/
def srvPorts (k : Nat) : Nat × Nat :=
  let stack := k / 16
  let q := stack % 3 * 16 + k % 16
  let a := q % 32; let b := (q + 16) % 32
  let d := stack / 3
  (edgePos d (if a < b then a else b), edgePos d (if a < b then b else a))

/-- The attachment of server `k` nearer to router `r`, the lower-numbered position on a tie (R23). -/
def srvNear (k r : Nat) : Nat :=
  let p := srvPorts k
  if hopCount r p.1 ≤ hopCount r p.2 then p.1 else p.2

/-- The router of an endpoint that is not a server, and of Ethernet port j under the number 0x2000 + j (R24). -/
def epRouter (ep : Nat) : Nat :=
  if ep < 0x400 then ep
  else if 0x2000 ≤ ep then edgePos ((ep - 0x2000) / 4) (8 * ((ep - 0x2000) % 4) + 4)
  else if ep = Config.mgmtEp then mkRouter 0 8 7
  else if 0x500 ≤ ep then mkRouter 0 7 8
  else mkRouter 0 8 8

/-- Routers at the two ends of a path between endpoints; a server answers at the attachment nearer to the other end (R23). Tile `t` and its row
node have a halo link between them, under the number 0x4000 + t (R25, R160). -/
def pathEnds (src dst : Nat) : Nat × Nat :=
  let isSrv (e : Nat) : Bool := decide (0x400 ≤ e) && decide (e < 0x4C0)
  if src < 0x400 && dst = Config.haloEp then (0x4000 + src, 0x4000 + src)
  else if src = Config.haloEp && dst < 0x400 then (0x4000 + dst, 0x4000 + dst)
  else if isSrv src then
    let d := epRouter dst
    -- a reply leaves on the attachment nearer the reply's destination
    let p := srvPorts (src - 0x400)
    (if hopCount p.1 d ≤ hopCount p.2 d then p.1 else p.2, d)
  else if isSrv dst then (epRouter src, srvNear (dst - 0x400) (epRouter src))
  else (epRouter src, epRouter dst)

end Sys2Proof.Machine
end

