-- ==== Sys2Proof/Machine/Torus.lean ====
section
/-!
DEFINITION. The torus flit by flit (R84, R106, R107, R114 to R119, R303, R304, R314): slots, classes, links, the escape channel, local
ports and injection. A cycle's crossings are decided from the state at its start. What arriving packets do stands in Cycle.lean.
-/
namespace Sys2Proof.Machine

/-! ### Packets -/

/-- Flits of a packet with `n` payload bytes (R84). -/
def flitsOf (n : Nat) : Nat := if n ≤ 32 then 1 else 1 + (n - 32 + 63) / 64

/-- Bytes of a shard's last packet (R137). -/
def lastPart (n : Nat) : Nat := if n = 0 then 0 else (n - 1) % 2048 + 1

/-- Flits of what travels; a server packet counts its data bytes alone (log 71). -/
def Ev.flits : Ev → Nat
  | .packet p => flitsOf p.payload.length
  | .again p _ => flitsOf p.payload.length
  | .shardPart _ _ => flitsOf 2048
  | .shard _ q => flitsOf (lastPart q.data.length)
  | .sdata r _ => flitsOf (r.chunks.foldl (fun n c => n + c.2.length) 0)
  | .hcontrib c => flitsOf c.data.length
  | _ => 1

/-- KIND of what travels: of a message, a server request or reply, or on the halo tree (R83, R137, R166). -/
def Ev.kind : Ev → Nat
  | .packet p => p.hdr.kind.toNat
  | .again p _ => p.hdr.kind.toNat
  | .shardPart k _ => 0x10 + k
  | .shard k _ => 0x10 + k
  | .fenceProbe _ _ _ => 0x18
  | .sdata _ _ => 0x20
  | .sdone _ _ => 0x21
  | .echo _ _ _ _ => 0x22
  | .hcontrib _ => 0x30
  | .hpart _ => 0x31
  | .hresult _ => 0x32
  | _ => 0

/-- The kinds that R83 gives to messages; those that it reserves, and those of servers and of the halo tree, come in over no port. -/
def messageKind (k : Nat) : Bool := decide (1 ≤ k) && decide (k ≤ 0x0D)

/-- The packet that an event carries; a server message carries none. -/
def Ev.packet? : Ev → Option Packet
  | .packet p => some p
  | .again p _ => some p
  | _ => none
/-- The packet that an event carries, answers or waits to send again. -/
def Ev.inner? : Ev → Option Packet
  | .packet p => some p
  | .again p _ => some p
  | .refused p _ => some p
  | .send _ _ e => e.inner?
  | _ => none
def Transit.kind (t : Transit) : Nat := t.ev.kind

/-- CDATA is copied to every counted port; a copy that is sent again goes to its subscriber alone (R106). -/
def Transit.multi (t : Transit) : Bool :=
  match t.ev with
  | .packet p => p.hdr.kind == 0x0B
  | _ => false
/-- SUBSCRIBE and PRUNE travel, in reverse, the route from the publisher to the subscriber (R106). -/
def Transit.back (t : Transit) : Bool := t.kind == 0x09 || t.kind == 0x0A
/-- What keeps to the fixed routes: CDATA, also a copy that goes again to its subscriber, SUBSCRIBE and PRUNE (R107). -/
def Transit.fixedRoute (t : Transit) : Bool := t.kind == 0x0B || t.back
/-- A message to the sender's own rank stays in its interface (R91). -/
def Transit.self (t : Transit) : Bool := t.src == t.dst
/-- What goes over a tile's halo link and not on the torus (R25, R163). -/
def Transit.onLink (t : Transit) : Bool := decide (0x4000 ≤ t.first)

/-- Kinds that an interface injects before all others (R119). -/
def Transit.urgent (t : Transit) : Bool :=
  match t.ev with
  | .packet p => [0x03, 0x05, 0x06, 0x07, 0x08, 0x09, 0x0A, 0x0C].contains p.hdr.kind.toNat
  | .again p _ => [0x03, 0x05, 0x06, 0x07, 0x08, 0x09, 0x0A, 0x0C].contains p.hdr.kind.toNat
  | .refused _ _ => true
  | _ => false

/-- FABRIC of the package of a rank (R314). -/
def State.fabricOf (s : State) (r : Rank) : Nat := ((Sparse.get 0 s.mgmt.pkgmap (rankPkg r)).extractLsb' 16 48).toNat

/-- Puts a packet among those that an endpoint injects; one for an Ethernet port carries the FABRIC of its port selection (R314). -/
def State.inject (s : State) (ev : Ev) (src dst : Nat) : State :=
  let e := pathEnds src dst
  let fabric := if 0x2000 ≤ dst then (ev.packet?.map fun p => s.fabricOf p.hdr.dest).getD 0 else 0
  { s with torus := s.torus ++ [⟨ev, fabric, src, dst, e.1, e.2, ev.flits, 0, s.cycle, []⟩] }

/-- Whether an endpoint still has a packet to inject into the torus. -/
def State.injecting (s : State) (src : Nat) : Bool := s.torus.any fun t => t.src == src && !t.onLink && decide (t.injected < t.size)
/-- Whether `src`, the tile or its row node, still has to put something on the tile's halo link. -/
def State.linkBusy (s : State) (src tile : Nat) : Bool :=
  s.torus.any fun t => t.src == src && t.first == 0x4000 + tile && decide (t.injected < t.size)

/-! ### Ethernet ports (R314) -/

/-- The lowest set bit of PORTS at or above `x`, wrapping. -/
def choosePort (mask : BitVec 16) (x : Nat) : Option Nat :=
  ((List.range 16).map fun i => (x + i) % 16).find? fun j => mask.getLsbD j

/-- The port on which a packet between two ranks leaves for the package of `far` (R314). -/
def State.portFor (s : State) (far near : Rank) : Option Nat :=
  choosePort ((Sparse.get 0 s.mgmt.pkgmap (rankPkg far)).extractLsb' 0 16) ((far ^^^ near).toNat % 16)

/-- The endpoint through which a rank is reached, in or out of the package; `near` is the other end (R114, R314). -/
def State.endpointOf (s : State) (r near : Rank) : Option Nat :=
  if s.ownPkg r then some (rankEp r) else (s.portFor r near).map fun j => 0x2000 + j

/-- A header as it is stored (R82). -/
def headerBytes (h : Header) : List Byte :=
  toLE 4 h.dest.toNat ++ toLE 4 h.src.toNat ++ toLE 4 h.tag.toNat ++ toLE 2 h.group.toNat ++ toLE 1 h.kind.toNat ++ toLE 1 h.hflags.toNat ++
    toLE 4 (h.len % 2 ^ 24) ++ toLE 4 h.seq.toNat ++ toLE 4 h.offset.toNat ++ toLE 4 h.xid.toNat

/-- A port gives a packet to its transport (R313, R314). -/
def State.toUet (s : State) (j fabric : Nat) (p : Packet) : State :=
  { s with uet := s.uet ++ [⟨j, fabric, p.hdr.src,
      BitVec.ofNat 64 (p.hdr.tag.toNat + p.hdr.group.toNat * 2 ^ 32), p⟩] }

/-- The payload of a transport message: the packet whole (R82, R313). -/
def UetMsg.payload (m : UetMsg) : List Byte := headerBytes m.packet.hdr ++ m.packet.payload

/-! ### Contrail tables (R106) -/

def Contrail.is (c : Contrail) (pub : Rank) (group : BitVec 16) (tag : W32) : Bool := c.pub == pub && c.group == group && c.tag == tag

/-- A router's entry of a contrail. -/
def State.contrailAt (s : State) (r : Nat) (pub : Rank) (group : BitVec 16) (tag : W32) : Option Contrail :=
  (Sparse.get [] s.routers r).find? fun c => c.is pub group tag

/-- Raises or lowers the count of a port at a router; an entry whose counts are all zero is freed. Beyond an Ethernet port the
subscriber is noted too. -/
def State.countPort (s : State) (pub : Rank) (group : BitVec 16) (tag : W32) (sub : Rank) (up : Bool) (r port : Nat) : State :=
  let l := Sparse.get [] s.routers r
  let c := (s.contrailAt r pub group tag).getD ⟨pub, group, tag, [], []⟩
  let n := Sparse.get 0 c.ports port
  let c' := { c with
    ports := Sparse.set 0 c.ports port (if up then n + 1 else n - 1)
    far := if port < 8 then c.far else if up then c.far ++ [(port, sub)] else c.far.erase (port, sub) }
  let rest := l.filter fun c => !c.is pub group tag
  { s with routers := Sparse.set [] s.routers r (if c'.ports.isEmpty then rest else rest ++ [c']) }

/-- Whether a router has room for a contrail's count. -/
def State.portRoom (s : State) (pub : Rank) (group : BitVec 16) (tag : W32) (r : Nat) : Bool :=
  (s.contrailAt r pub group tag).isSome || decide ((Sparse.get [] s.routers r).length < 32)

/-- The overflow mark of a SUBSCRIBE or PRUNE, which has no SEQ of its own: bit 0 of that field (log 16). -/
def marked (h : Header) : Bool := h.seq.getLsbD 0
def mark (h : Header) : Header := { h with seq := 1 }

/-- A SUBSCRIBE or PRUNE at a router, with the port towards the subscriber: it counts there unless a router has been found that has no
room for the contrail. The answer holds the header with which it goes on. -/
def State.countAt (s : State) (h : Header) (r port : Nat) : State × Header :=
  let spill : Nat × Rank × BitVec 16 × W32 × Rank := (r, h.dest, h.group, h.tag, h.src)
  if marked h then (s, h)
  else if h.kind = 0x09 then
    (if s.portRoom h.dest h.group h.tag r then (s.countPort h.dest h.group h.tag h.src true r port, h)
     else ({ s with spills := s.spills ++ [spill] }, mark h))
  else if s.spills.contains spill then ({ s with spills := s.spills.erase spill }, mark h)
  else (s.countPort h.dest h.group h.tag h.src false r port, h)

/-! ### Routing -/

/-- The router before `r` on a route. -/
def prevOn : List Nat → Nat → Option Nat
  | a :: b :: l, r => if b = r then some a else prevOn (b :: l) r
  | _, _ => none

/-- The port at which an endpoint takes what reaches its router. -/
def exitPort (dst : Nat) : Nat := if 0x2000 ≤ dst then 8 + (dst - 0x2000) else 6

/-- The output ports of a packet at a router (R106, R114, R117). -/
def State.portsAt (s : State) (t : Transit) (g : Leg) : List Nat :=
  if t.multi then
    match t.ev.packet? with
    | some p => ((s.contrailAt g.router p.hdr.src p.hdr.group p.hdr.tag).elim [] fun c => c.ports.map fun x => x.1)
    | none => []
  else if g.router = t.last then [exitPort t.dst]
  else if t.back then [portTo g.router ((prevOn (route t.last t.first) g.router).getD t.last)]
  else [portTo g.router (if g.cls = 2 then (escHop g.router t.last).next else (nextHop g.router t.last).next)]

/-- A header that may cross has its way decided. -/
def State.routed (s : State) (t : Transit) : Transit :=
  { t with legs := t.legs.map fun g =>
      match g.outs, g.flits with
      | none, f :: _ =>
        if f.1 < s.cycle then
          { g with outs := some ((s.portsAt t g).map fun p => ⟨p, hopClass g.cls g.column (hopVia g.router p), none, 0⟩) }
        else g
      | _, _ => g }

/-- The routers of a contrail's route from the publisher's to the subscriber's, each with its port towards the subscriber (R106). -/
def subscriptionPath (pub sub : Nat) : List (Nat × Nat) :=
  let l := route (epRouter pub) (epRouter sub)
  l.zip (((l.zip (l.drop 1)).map fun x => portTo x.1 x.2) ++ [exitPort sub])

/-- The SUBSCRIBEs and PRUNEs whose headers reach a router in this cycle count there (R106). -/
def State.countHeaders (s : State) : State :=
  (List.range s.torus.length).foldl (fun st i =>
    match st.torus[i]? with
    | none => st
    | some t =>
      match t.ev, t.legs.find? fun g => g.gone == 0 && (g.flits.head?.map fun f => f.1) == some s.cycle with
      | .packet p, some g =>
        if t.back then
          let r := st.countAt p.hdr g.router (if g.inp < 6 then g.inp else exitPort t.src)
          { r.1 with torus := r.1.torus.set i { t with ev := .packet { p with hdr := r.2 } } }
        else st
      | _, _ => st) s

/-! ### Slots, grants and links (R116, R117, R303, R304) -/

/-- The slot that a flit of a class may take at a router's input: a private one (false) before a shared one (true). -/
def slotAt (l : List Transit) (r i k : Nat) : Option Bool :=
  let at_ := (l.flatMap fun t => t.legs).filter fun g => g.router == r && g.inp == i
  let held (f : Leg → Bool) (shared : Bool) : Nat := ((at_.filter f).flatMap fun g => g.flits.filter fun x => x.2 == shared).length
  if held (fun g => g.cls == k) false < 4 then some false
  else if k ≠ 2 && held (fun g => g.cls == k) true < 12 && held (fun g => g.cls != 2) true < 16 then some true
  else none

/-- What a packet asks of a port, or holds there: transit, leg and branch by their places, the router, the port and the class; when its
header came and at which input; the grant; the next flit is the header; the next flit stands in the router since an earlier cycle. -/
structure Claim where
  t     : Nat
  g     : Nat
  b     : Nat
  router : Nat
  port  : Nat
  cls   : Nat
  came  : Nat
  inp   : Nat
  grant : Option Nat
  sent  : Nat
  head  : Bool
  ready : Bool
  deriving DecidableEq, Repr

/-- Every branch that has still flits to send over a link. -/
def claimsOf (l : List Transit) (cycle : Nat) : List Claim :=
  l.zipIdx.flatMap fun t => t.1.legs.zipIdx.flatMap fun g => ((g.1.outs.getD []).zipIdx.filter fun b => b.1.port < 6 && b.1.sent < t.1.size).map fun b =>
    let next := g.1.flits[b.1.sent - g.1.gone]?
    ⟨t.2, g.2, b.2, g.1.router, b.1.port, b.1.cls, (g.1.flits.head?.map fun f => f.1).getD 0, g.1.inp, b.1.grant, b.1.sent,
     b.1.sent == 0, (next.map fun f => decide (f.1 < cycle)).getD false⟩

def Claim.samePort (a b : Claim) : Bool := a.router == b.router && a.port == b.port
/-- A class of a port that a packet holds. -/
def allocated (cs : List Claim) (r p k : Nat) : Bool := cs.any fun c => c.router == r && c.port == p && c.cls == k && c.grant.isSome

/-- The header that reached the router earliest goes first, on a tie the input of the lower rank (R303). -/
def Claim.before (a b : Claim) : Bool :=
  decide (a.came < b.came) || (a.came == b.came && (decide (a.inp < b.inp) || (a.inp == b.inp && decide (a.t < b.t))))

/-- Those of several requests that are granted: one for each class of a port. -/
def granted (l : List Claim) : List Claim := l.filter fun c => !(l.any fun d => d.samePort c && d.cls == c.cls && d.before c)

/-- The escapes that may be taken: a header that has waited 16 cycles, where the ESC class of the port is unallocated and has a slot
(R107, R117). -/
def escapes (l : List Transit) (cs : List Claim) : List Claim :=
  cs.filterMap fun c =>
    match l[c.t]? with
    | none => none
    | some t =>
      match t.legs[c.g]? with
      | none => none
      | some g =>
        let port := portTo c.router (escHop c.router t.last).next
        if c.head && c.ready && !t.fixedRoute && g.cls != 2 && decide (16 ≤ g.waited) && !allocated cs c.router port 2 &&
            (slotAt l (portNext c.router port) (enters port) 2).isSome then some { c with port, cls := 2, grant := none }
        else none

/-- The grants of a cycle: first the escapes and the requests of packets in ESC, then those of the other headers. -/
def grantsOf (l : List Transit) (cycle : Nat) : List Claim :=
  let cs := claimsOf l cycle
  let asks := cs.filter fun c => c.grant.isNone && c.head && c.ready && !allocated cs c.router c.port c.cls
  let esc := granted (escapes l cs ++ asks.filter fun c => c.cls == 2)
  let rest := granted (asks.filter fun c => c.cls != 2 && !(esc.any fun e => e.t == c.t && e.g == c.g))
  (esc ++ rest).map fun c => { c with grant := some cycle }

/-- The claims after the grants of the cycle. -/
def claimsNow (l : List Transit) (cycle : Nat) : List Claim :=
  let new := grantsOf l cycle
  ((claimsOf l cycle).filter fun c => !(new.any fun n => n.t == c.t && n.g == c.g && n.b == c.b)) ++ new

/-- The flits that cross a link: one for each link, that of the earliest grant, on a tie of the higher class (R303). -/
def crossings (l : List Transit) (cycle : Nat) : List Claim :=
  let may := (claimsNow l cycle).filter fun c =>
    c.grant.isSome && c.ready && (slotAt l (portNext c.router c.port) (enters c.port) c.cls).isSome
  let first (a b : Claim) : Bool :=
    decide (a.grant.getD 0 < b.grant.getD 0) || (a.grant == b.grant && decide (b.cls < a.cls))
  may.filter fun c => !(may.any fun d => d.samePort c && first d c)

/-! ### Movement -/

/-- A flit that has crossed a link: where it comes, in which class and slot, and when. -/
structure Entering where
  router : Nat
  inp    : Nat
  cls    : Nat
  column : Bool
  flit   : Nat × Bool
  deriving DecidableEq, Repr

/-- A flit that enters a router joins its packet there. -/
def enterLeg (l : List Leg) (x : Entering) : List Leg :=
  if l.any fun g => g.router == x.router && g.inp == x.inp then
    l.map fun g => if g.router == x.router && g.inp == x.inp then { g with flits := g.flits ++ [x.flit] } else g
  else l ++ [⟨x.router, x.inp, x.cls, x.column, [x.flit], 0, none, 0, [], 0⟩]

/-- What a crossing brings into the next router: one cycle later, or three over a bridge (R22, R303). -/
def Claim.enters (c : Claim) (l : List Transit) (cycle : Nat) : Entering :=
  let h := hopVia c.router c.port
  ⟨h.next, Machine.enters c.port, c.cls, h.column, (cycle + (if h.bridge then 3 else 1), (slotAt l h.next (Machine.enters c.port) c.cls).getD false)⟩

/-- A leg after a cycle: grants are noted, flits that have crossed every port are gone, those at a local port pass into it in the cycle
after they came, a header that may cross and does not has waited (R107, R117, R303, R304). -/
def Leg.advance (g : Leg) (cycle : Nat) (new cross : List Claim) : Leg :=
  match g.outs with
  | none => g
  | some bs =>
    let may (b : Branch) : Bool := ((g.flits[b.sent - g.gone]?).map fun f => decide (f.1 < cycle)).getD false
    let step (x : Branch × Nat) : Branch :=
      let b := match new.find? fun c => c.b == x.2 with | some c => { x.1 with port := c.port, cls := c.cls, grant := c.grant } | none => x.1
      if cross.any fun c => c.b == x.2 then { b with sent := b.sent + 1 }
      else if 6 ≤ b.port && may b then { b with sent := b.sent + 1 }
      else b
    let bs' := bs.zipIdx.map step
    let all := g.gone + g.flits.length
    let gone := bs'.foldl (fun n b => min n b.sent) all
    let out := bs.zipIdx.any fun x => x.1.port == 6 && may x.1
    let late := bs'.any fun b => b.port < 6 && b.sent == 0 && may b
    { g with
      outs := some bs', gone, flits := g.flits.drop (gone - g.gone)
      waited := if late then g.waited + 1 else g.waited
      ready := if out then g.ready ++ [cycle + 1] else g.ready }

/-- The torus after the crossings of a cycle. -/
def moveFlits (l : List Transit) (cycle : Nat) : List Transit :=
  let new := grantsOf l cycle
  let cross := crossings l cycle
  l.zipIdx.map fun t =>
    let mine (g : Nat) (cs : List Claim) := cs.filter fun c => c.t == t.2 && c.g == g
    let legs := t.1.legs.zipIdx.map fun g => g.1.advance cycle (mine g.2 new) (mine g.2 cross)
    { t.1 with legs := ((cross.filter fun c => c.t == t.2).map fun c => c.enters l cycle).foldl enterLeg legs }

/-- A leg that nothing of its packet will use again. -/
def Leg.done (g : Leg) (size : Nat) : Bool := decide (size ≤ g.gone) && g.ready.isEmpty && g.outs.isSome
/-- Packets that have been delivered, and legs that have been passed, go. -/
def sweepTorus (l : List Transit) : List Transit :=
  (l.map fun t => { t with legs := t.legs.filter fun g => !g.done t.size }).filter fun t => decide (t.injected < t.size) || !t.legs.isEmpty

/-! ### Local ports -/

/-- The endpoint that a leg's local port serves for a packet. -/
def Transit.taker (t : Transit) (g : Leg) : Nat := if t.multi then g.router else t.dst

/-- Whether an earlier packet of the same source to the same endpoint has not been taken whole (R91). -/
def Transit.behind (l : List Transit) (t : Transit) : Bool :=
  !t.multi && l.any fun u => u.src == t.src && u.dst == t.dst && !u.multi && decide (0 < u.injected) && decide (u.began < t.began)

/-- The flits that interfaces take in a cycle, one for each local port: the first in the port, on a tie from the input of the lower rank
(R88), then the packet that was injected first (log 89). The answer names transit and leg. -/
def takenFlits (l : List Transit) (cycle : Nat) : List (Transit × Leg × Nat × Nat) :=
  let may := l.zipIdx.flatMap fun t => (t.1.legs.zipIdx.filter fun g =>
    (match g.1.ready with | r :: _ => decide (r ≤ cycle) | [] => false) && !t.1.behind l).map fun g => (t.1, g.1, t.2, g.2)
  let key (x : Transit × Leg × Nat × Nat) : Nat × Nat × Bool := (x.1.taker x.2.1, x.2.1.router, x.1.self)
  let rank (x : Transit × Leg × Nat × Nat) : Nat × Nat × Nat := (x.2.1.ready.headD 0, x.2.1.inp, x.2.2.1)
  let less (a b : Nat × Nat × Nat) : Bool :=
    decide (a.1 < b.1) || (a.1 == b.1 && (decide (a.2.1 < b.2.1) || (a.2.1 == b.2.1 && decide (a.2.2 < b.2.2))))
  may.filter fun x => !(may.any fun y => key y == key x && less (rank y) (rank x))

/-- The torus after interfaces have taken flits. -/
def takeFlits (l : List Transit) (x : List (Transit × Leg × Nat × Nat)) : List Transit :=
  l.zipIdx.map fun t => { t.1 with legs := t.1.legs.zipIdx.map fun g =>
    if (x.any fun y => y.2.2.1 == t.2 && y.2.2.2 == g.2) then { g.1 with ready := g.1.ready.drop 1, taken := g.1.taken + 1 } else g.1 }

/-! ### Injection (R116, R118, R119) -/

/-- The input through which an endpoint injects. -/
def localInp (src : Nat) : Nat := if src < 0x400 then 16 else if src < 0x2000 then 17 + (src - 0x400) else src

/-- The packet that an endpoint injects next at a router: one that it has begun, then the first made of those without payload (log 93), then
the first. -/
def nextInjected (l : List Transit) (src first : Nat) : Option Nat :=
  let mine := l.zipIdx.filter fun t => t.1.src == src && t.1.first == first && decide (t.1.injected < t.1.size)
  match mine.find? fun t => decide (0 < t.1.injected) with
  | some t => some t.2
  | none => match mine.find? fun t => t.1.urgent with
    | some t => some t.2
    | none => mine.head?.map fun t => t.2

/-- One flit of a packet is injected: its header is in the router two cycles later, and needs a slot there. What an interface sends to
itself goes through it, what is for a halo link takes two cycles (R160). `old` is the torus at the start of the cycle. -/
def Transit.injectFlit (t : Transit) (old : List Transit) (cycle : Nat) : Transit :=
  let t1 := { t with injected := t.injected + 1, began := if t.injected = 0 then cycle else t.began }
  if t.self || t.onLink then
    let at_ := cycle + (if t.onLink then 2 else 4)
    match t.legs with
    | [] => { t1 with legs := [⟨t.first, 0xFFFF, 0, false, [], 1, some [], 0, [at_], 0⟩] }
    | g :: l => { t1 with legs := { g with gone := g.gone + 1, ready := g.ready ++ [at_] } :: l }
  else
    match slotAt old t.first (localInp t.src) 0 with
    | none => t
    | some shared => { t1 with legs := enterLeg t.legs ⟨t.first, localInp t.src, 0, false, (cycle + 2, shared)⟩ }

/-- Every endpoint injects one flit. -/
def injectFlits (old l : List Transit) (cycle : Nat) : List Transit :=
  l.zipIdx.map fun t => if nextInjected l t.1.src t.1.first == some t.2 then t.1.injectFlit old cycle else t.1

/-- ESCAPE_CHANNEL of one packet: its header goes on in ESC where that may be taken (R117). -/
def escapeNow (l : List Transit) (n cycle : Nat) : List Transit :=
  let cs := (granted (escapes l (claimsOf l cycle))).filter fun c => c.t == n
  l.zipIdx.map fun t => if t.2 = n then
      { t.1 with legs := t.1.legs.zipIdx.map fun g => { g.1 with outs := g.1.outs.map fun bs => bs.zipIdx.map fun b =>
          match (cs.find? fun c => c.g == g.2 && c.b == b.2) with
          | some c => { b.1 with port := c.port, cls := 2, grant := some cycle }
          | none => b.1 } }
    else t.1

end Sys2Proof.Machine
end

