-- ==== Sys2Proof/Machine/Records.lean ====
section
/-!
DEFINITION. Network interfaces and their entries: where an entry's bytes lie, completion records (R109 to R111), named-barrier
bumps (R112, R113), weight-region generations (R156), observation (R121), and the error log (R325 to R329). An NI is named by a key:
the endpoint of its tile, service or host function, or 0x1000 + node for a halo row node.
-/
namespace Sys2Proof.Machine

/-! ### Interfaces -/

def State.getFn (s : State) (f : Nat) : HostFn := Sparse.get HostFn.zero s.fns f
def State.modFn (s : State) (f : Nat) (g : HostFn → HostFn) : State :=
  { s with fns := Sparse.set HostFn.zero s.fns f (g (s.getFn f)) }

def isTile (key : Nat) : Bool := decide (key < 0x400)
def isHost (key : Nat) : Bool := decide (0x500 ≤ key) && decide (key < 0x540)

def State.getNi (s : State) (key : Nat) : Ni :=
  if isTile key then (s.getTile key).ni
  else if isHost key then (s.getFn (key - 0x500)).ni
  else Sparse.get Ni.empty s.nis key

def State.modNi (s : State) (key : Nat) (f : Ni → Ni) : State :=
  if isTile key then s.modTile key fun t => { t with ni := f t.ni }
  else if isHost key then s.modFn (key - 0x500) fun h => { h with ni := f h.ni }
  else { s with nis := Sparse.set Ni.empty s.nis key (f (s.getNi key)) }

/-- The NI that a packet from `src` to `dst` reaches; a row node stands behind the halo endpoint (R160, R163). -/
def niKey (dst src : Rank) : Nat := if rankEp dst = Config.haloEp then 0x1000 + rankEp src / 16 else rankEp dst
/-- The rank under which an NI sends. -/
def State.niRank (s : State) (key : Nat) : Rank := s.rankOf (if 0x1000 ≤ key then Config.haloEp else key)

def Ni.ent (n : Ni) (id : Nat) : Option Ent := n.ents.find? fun e => e.id == id
def Ni.modEnt (n : Ni) (id : Nat) (f : Ent → Ent) : Ni := { n with ents := n.ents.map fun e => if e.id = id then f e else e }
def State.ent (s : State) (key id : Nat) : Option Ent := (s.getNi key).ent id
def State.modEnt (s : State) (key id : Nat) (f : Ent → Ent) : State := s.modNi key fun n => n.modEnt id f
/-- Marks of the weight space, which no exchange moves (R49). -/
def Poison.isAnvil : Poison → Bool
  | .anvil _ => true
  | _ => false

/-- A tile with its suspended context on it, stopped; and back again, `t` being the tile as it was. -/
def Tile.shadowOut (t : Tile) : Tile :=
  match t.shadow with
  | none => t
  | some c =>
    { t with thr := c.thr, mem := c.mem, ni := c.ni, gang := c.gang, twin := c.twin, run := .stopped
             poison := t.poison.filter Poison.isAnvil ++ c.poison }
def Tile.shadowIn (u t : Tile) : Tile :=
  { u with
    thr := t.thr, mem := t.mem, ni := t.ni, gang := t.gang, twin := t.twin, run := t.run
    poison := u.poison.filter Poison.isAnvil ++ t.poison.filter fun p => !p.isAnvil
    shadow := t.shadow.map fun c =>
      { c with thr := u.thr, mem := u.mem, ni := u.ni, twin := u.twin, poison := u.poison.filter fun p => !p.isAnvil } }

/-- What a suspended context of a tile undergoes: `f` acts on it, and on the other tile's of a pair, as if it stood on the tile, stopped (R49,
R429). -/
def State.inShadow (s : State) (ep : Nat) (f : State → State) : State :=
  match (s.getTile ep).shadow with
  | none => s
  | some c =>
    let pair := match c.twin with
      | some w => if (s.getTile w.partner).shadow.isSome && w.partner != ep then [ep, w.partner] else [ep]
      | none => [ep]
    pair.foldl (fun st e => st.modTile e fun u => u.shadowIn (s.getTile e)) (f (pair.foldl (fun st e => st.modTile e Tile.shadowOut) s))

/-- What an entry leaves that goes before its completion was observed: its buffer stays unspecified (R111, R121). -/
def Ent.ghost (e : Ent) : List Ghost :=
  let left (region : Option Nat) (a : Nat) : List Ghost :=
    if e.kind.receives && !e.observed && 0 < e.len then [⟨e.id, e.nb, region, a, e.len, e.counted, e.phase == .done && e.rcd.status != 0x03⟩] else []
  match e.buf with
  | .store a _ => left none a
  | .anvil j o => left (some j) o
  | _ => []
def State.dropEnt (s : State) (key id : Nat) : State :=
  s.modNi key fun n =>
    { n with ents := n.ents.filter fun e => e.id != id
             ghosts := n.ghosts ++ (n.ents.filter fun e => e.id == id).flatMap Ent.ghost }

/-- The parts of an unobserved buffer outside `n` bytes from `a` of the tile store or of a region, which have now been acquired. -/
def Ghost.minus (g : Ghost) (region : Option Nat) (a n : Nat) : List Ghost :=
  if g.region != region || g.addr + g.len ≤ a || a + n ≤ g.addr then [g]
  else
    (if g.addr < a then [{ g with len := a - g.addr }] else []) ++
      (if a + n < g.addr + g.len then [{ g with addr := a + n, len := g.addr + g.len - (a + n) }] else [])

/-- A new entry: everything empty. -/
def Ent.fresh (id : Nat) (k : EKind) : Ent :=
  { id, kind := k, phase := .queued, rcd := Rec.zero, nb := none, detached := false, observed := false, rank := 0, any := false,
    tag := 0, mask := 0, group := 0, len := 0, buf := .bytes [], full := 0, seq := none, xid := 0, granted := 0, sent := 0,
    chunks := 0, took := 0, beat := false, unsent := [], part := 0, cts := false, tsend := none, timed := false, late := false, rel := 0, relEarly := none, watch := [],
    retryAt := none, interval := 0, absFrom := none, peer := 0, peerXid := 0, hdr := none, arrival := 0, counted := false,
    inHold := false, mheld := false, hold := none, units := [], shards := [], cookie := 0, gen := 0,
    dirty := [], stage := [], closing := false, pairWait := false, poison := false, skew := false, boxq := [], mate := 0, ordn := 0, matched := 0 }

/-- Which table an entry stands in: 0 send, 1 posted-receive, 2 server-request (R85, R387). -/
def EKind.table : EKind → Nat
  | .send | .sendr | .sendt | .sendv | .publ | .donew => 0
  | .post | .postm | .posta | .subs => 1
  | .get | .put | .getb | .putb | .gath | .scat | .apply | .cas => 2

def EKind.isSend : EKind → Bool
  | .send | .sendr | .sendt | .sendv | .donew => true
  | .publ | .post | .postm | .posta | .subs | .get | .put | .getb | .putb | .gath | .scat | .apply | .cas => false

def EKind.isRecv (k : EKind) : Bool := k.table == 1
def EKind.isReq (k : EKind) : Bool := k.table == 2

/-- Whether a table of an NI is full (R85). Sends beyond sixteen held SENDTs stall as well. -/
def Ni.full (n : Ni) (k : EKind) : Bool :=
  let c := (n.ents.filter fun e => e.kind.table == k.table).length
  match k.table with
  | 0 => decide (Config.sendTable ≤ c)
  | 1 => decide (Config.recvTable ≤ c)
  | _ => decide (Config.reqTable ≤ c)

def Ni.heldTimed (n : Ni) : Nat := (n.ents.filter fun e => e.timed && e.phase == .held).length

/-- The eager limit and slot width of a group at an NI: what placement loaded into a tile, the present descriptors elsewhere
(R92). -/
def State.groupDesc (s : State) (key g : Nat) : Nat × Nat :=
  if isTile key then Sparse.get (Config.defaultEager, 0) (s.getNi key).groups g
  else
    match Sparse.get none s.grpPart g with
    | none => (Config.defaultEager, 0)
    | some p => Sparse.get (Config.defaultEager, 0) (Sparse.get Part.zero s.parts p).groups g

/-- A packet of an entry: header fields of the entry, a kind, its OFFSET and payload (R82). -/
def Ent.packet (e : Ent) (src : Rank) (kind : BitVec 8) (hflags : BitVec 8) (offset : W32) (payload : List Byte) (poison : Bool) : Packet :=
  ⟨⟨e.rank, src, e.tag, e.group, kind, hflags, e.len, e.seq.getD 0, offset, e.xid⟩, payload, poison⟩

/-- The RELEASE of a SENDR: OFFSET 0 clearing, 1 fenced, 2 poisoned (R103, R381). -/
def Ent.releasePacket (e : Ent) (src : Rank) (kind : Nat) : Packet := e.packet src 0x08 0 (BitVec.ofNat 32 kind) [] false

/-- The answer to a packet: kind, OFFSET, with source and destination exchanged and SEQ and XID echoed (R82, R370). -/
def answer (h : Header) (kind : BitVec 8) (offset : Nat) : Packet :=
  ⟨⟨h.src, h.dest, h.tag, h.group, kind, 0, h.len, h.seq, BitVec.ofNat 32 offset, h.xid⟩, [], false⟩

/-! ### Bytes -/

/-- Anvil region registers: BASE, SIZE in 65,536-byte units and OWNER of ABj (R155). -/
def abBase (ab : Word) : Nat := (ab.extractLsb' 0 7).toNat
def abSize (ab : Word) : Nat := (ab.extractLsb' 16 7).toNat
def abOwner (ab : Word) : Nat := (ab.extractLsb' 32 6).toNat

/-- Weight-space address of an offset in region `j`. -/
def Tile.anvilAddr (t : Tile) (j off : Nat) : Nat := abBase (t.cr (crAB0 + j)) * 65536 + off

/-- Whether a byte of the weight space lies in a receive buffer whose completion has not been observed (R102, R111). -/
def Tile.unsettledAnvil (t : Tile) (a : Nat) : Bool :=
  let at_ (j o n : Nat) : Bool := decide (t.anvilAddr j o ≤ a) && decide (a < t.anvilAddr j o + n)
  (t.ni.ents.any fun e => match e.buf with
    | .anvil j o => e.kind.receives && !e.observed && at_ j o e.len
    | _ => false) ||
  t.ni.ghosts.any fun g => match g.region with
    | some j => at_ j g.addr g.len
    | none => false

/-- Free bytes of the NI: those of a source that the thread has written since issue, or of a buffer still being received
(R99, R111). -/
def State.niFree (s : State) (key a : Nat) : Byte := Config.free 8 s.fresh (0x40000000 + key * 0x1000000 + a)

/-- The part of a poisoned 8-byte word at `w` in `n` bytes from `a`, modulo 2^64: the place of its first byte, and how many. -/
def wordSpan (a n w : Nat) : List (Nat × Nat) :=
  let d := (w + (2 ^ 64 - a)) % 2 ^ 64
  if d < n then [(d, min 8 (n - d))]
  else if 2 ^ 64 - d < 8 && 0 < n then [(0, min (8 - (2 ^ 64 - d)) n)]
  else []

/-- The poisoned bytes among the `n` of a buffer from `off`, by place and length in the buffer (R347, R396). -/
def State.badSpans (s : State) (key : Nat) (e : Ent) (off n : Nat) : List (Nat × Nat) :=
  let t := s.getTile key
  let spans : List (Nat × Nat) := match e.buf with
    | .bytes _ => if e.poison then [(0, n)] else []
    | .store a rs => t.poison.flatMap fun (p : Poison) => match p with
      | .store w => if inRanges rs (8 * w) then wordSpan ((a + off) % 2 ^ 64) n (8 * w) else []
      | _ => []
    | .anvil j o => t.poison.flatMap fun (p : Poison) => match p with
      | .anvil w => wordSpan (t.anvilAddr j (o + off)) n (8 * w)
      | _ => []
    | .image _ _ => []
    | .header _ => []
    | .host _ => []
  spans.map fun x => (off + x.1, x.2)

/-- `n` bytes of a buffer from `off` as an NI reads them, and whether any is poisoned (R262, R347). -/
def State.readBuf (s : State) (key : Nat) (e : Ent) (off n : Nat) : List Byte × Bool :=
  match e.buf with
  | .bytes l => ((List.range n).map fun i => l.getD (off + i) 0, e.poison)
  | .image _ _ => (List.replicate n 0, false)
  | .header _ => (List.replicate n 0, false)
  | .host a => ((List.range n).map fun i => Sparse.get 0 s.hostMem (a + off + i), false)
  | .store a rs =>
    let t := s.getTile key
    ((List.range n).map fun i =>
      let x := (a + off + i) % 2 ^ 64
      if !inRanges rs x then 0
      else if (e.dirty.any fun d => overlap d.1 d.2 x 1) || t.unsettled x then s.niFree key x
      else t.raced s.fresh s.cycle x (Sparse.get 0 t.mem x),
     !(s.badSpans key e off n).isEmpty)
  | .anvil j o =>
    let t := s.getTile key
    let a := t.anvilAddr j (o + off)
    ((List.range n).map fun i => if t.unsettledAnvil (a + i) then s.niFree key (0x800000 + a + i) else Sparse.get 0 t.anvil (a + i),
     !(s.badSpans key e off n).isEmpty)

/-- The retention state of region `j` (R435). -/
def Tile.retained (t : Tile) (j : Nat) : Option Retain := (t.retain.find? fun x => x.1 == j).map Prod.snd
def Tile.setRetain (t : Tile) (j : Nat) (r : Retain) : Tile := { t with retain := (t.retain.filter fun x => x.1 != j) ++ [(j, r)] }
/-- An access of the NI to region `j`; one in retention begins its exit (R435). -/
def Tile.touchRegion (t : Tile) (time j : Nat) : Tile :=
  match t.retained j with
  | some (.kept _) => t.setRetain j (.leaving (time + 4000))
  | some (.entering u) => t.setRetain j (.leaving (Nat.max u time + 4000))
  | some (.leaving u) => if u ≤ time then t.setRetain j (.active time) else t
  | _ => t.setRetain j (.active time)

/-- Whether an access to region `j` has to wait: it is in retention, or on its way in or out (R435). -/
def Tile.asleep (t : Tile) (time j : Nat) : Bool :=
  match t.retained j with
  | some (.kept _) => true
  | some (.entering _) => true
  | some (.leaving u) => decide (time < u)
  | _ => false

/-- An access of the interface to a buffer in a region that is asleep, in a pair at either tile, begins the region's exit and waits; `wait` is that,
`go` the access (R429, R435). -/
def State.whenAwake (s : State) (key : Nat) (buf : Buf) (wait : State → State) (go : State) : State :=
  match buf with
  | .anvil j _ =>
    let both := match (s.getTile key).twin with
      | some w => if w.lead then [key, w.partner] else [key]
      | none => [key]
    if both.any fun k => (s.getTile k).asleep s.time j then wait (both.foldl (fun st k => st.modTile k fun t => t.touchRegion s.time j) s) else go
  | _ => go

/-- A write waits in the interface for its region. -/
def State.waitLanding (key : Nat) (w : LateWrite) (s : State) : State := s.modNi key fun n => { n with late := n.late ++ [w] }

/-- The NI writes bytes into a buffer at `off`; bytes that were out of range at issue are dropped (R262). -/
def State.writeBuf (s : State) (key : Nat) (buf : Buf) (off : Nat) (l : List Byte) : State :=
  match buf with
  | .bytes _ => s
  | .image ilen daddr =>
    s.modTile key fun t =>
      let low := l.take (ilen - off)
      let t := { t with imem := putBytes t.imem off low }
      { t with mem := putBytes t.mem (daddr + (off + low.length - ilen)) (l.drop low.length) }
  | .header n =>
    { s with launches := s.launches.map fun x =>
        if x.n = n then { x with header := (List.range 64).map fun i => if off ≤ i && i < off + l.length then l.getD (i - off) 0 else x.header.getD i 0 }
        else x }
  | .host a => { s with hostMem := putBytes s.hostMem (a + off) l }
  | .store a rs =>
    s.modTile key fun t =>
      let r := (t.mmaRace s.fresh s.cycle ((a + off) % 2 ^ 64) l.length).raceStore s.fresh s.cycle ((a + off) % 2 ^ 64) l
      let t := r.1
      { t with mem := putRange rs t.mem (BitVec.ofNat 64 (a + off)) r.2
               poison := t.poison.filter fun p => !p.covered ((a + off) % 2 ^ 64) l.length }
  | .anvil j o => s.modTile key fun t =>
      let t := (t.latchRace s.fresh s.cycle (t.anvilAddr j (o + off)) l.length).touchRegion s.time j
      { t with anvil := putBytes t.anvil (t.anvilAddr j (o + off)) l
               poison := t.poison.filter fun p => !p.coveredAnvil (t.anvilAddr j (o + off)) l.length }

/-- Writes received bytes, at the trailing tile of a pair as well (R429). -/
def State.recvBytes (s : State) (key : Nat) (buf : Buf) (off : Nat) (l : List Byte) : State :=
  let s1 := s.writeBuf key buf off l
  if isTile key then
    match (s.getTile key).twin with
    | some w => if w.lead then s1.writeBuf w.partner buf off l else s1
    | none => s1
  else s1

/-! ### Error log -/

/-- Adds a record to a unit's queue: merged into an equal record still queued, dropped from a full queue (R327). -/
def LogQueue.add (q : LogQueue) (r : LogRec) : LogQueue :=
  let same (x : LogRec) : Bool := x.cls == r.cls && x.code == r.code && x.unit == r.unit && x.part == r.part && x.addr == r.addr
  if q.recs.any same then
    { q with recs := q.recs.map fun x => if same x then { x with count := min (x.count + r.count) 0xFFFFFFFF } else x }
  else if 32 ≤ q.recs.length then { q with lost := min (q.lost + 1) 0xFFFF }
  else { q with recs := q.recs ++ [{ r with seq := q.next }], next := (q.next + 1) % 2 ^ 32 }

/-- The queue of one unit and class. -/
def logKey (cls ep : Nat) : Nat := cls * 0x2000 + ep

/-- Queues a log record and, where the queue was empty, its delivery (R325 to R327). `ep` is the reporting unit's endpoint. -/
def State.log (s : State) (cls sev code ep : Nat) (part actx addr gang : Nat) (d0 d1 : Word) : State :=
  let key := logKey cls ep
  let q := (s.mgmt.queues.find? fun q => q.key == key).getD ⟨key, [], 0, 0⟩
  let r : LogRec := ⟨0, cls, sev, code, s.rankOf ep, part, actx, s.time, addr, 1, gang, d0, d1, 0⟩
  let q' := q.add r
  { s with
    mgmt := { s.mgmt with queues := q' :: s.mgmt.queues.filter fun q => q.key != key }
    sched := if q.recs.isEmpty then s.sched ++ [(s.cycle + 1, .logRecordDelivery key)] else s.sched }

/-- PART of a record for a tile (R325). -/
def State.logPart (s : State) (ep : Nat) : Nat := (s.partOf ep).getD 0xFFFF

/-! ### Barriers and generations -/

/-- A barrier after its bumps: while TARGET ≠ 0 and COUNT ≥ TARGET, a phase completes (R113). -/
def nbSettle (v : Word) : Word :=
  let phase := (v.extractLsb' 56 8).toNat
  let target := (v.extractLsb' 32 24).toNat
  let count := (v.extractLsb' 0 24).toNat
  if target = 0 then v
  else BitVec.ofNat 64 ((phase + count / target) % 256 * 2 ^ 56 + target * 2 ^ 32 + count % target)

/-- Adds `n` bumps, COUNT saturating at 0xFF_FFFF (R112, R113). -/
def nbBump (v : Word) (n : Nat) : Word :=
  let count := min ((v.extractLsb' 0 24).toNat + n) 0xFFFFFF
  nbSettle ((v &&& 0xFFFFFFFF00000000) ||| BitVec.ofNat 64 count)

/-- The entries whose last bumps a completed phase has counted (R201): those of barrier `k` that left the open bumps. -/
def Ni.countBumps (n : Ni) (k count who : Nat) : Ni :=
  let mine := n.openBumps.filter (fun b => b.1 == k) ++ [(k, who)]
  let gone := mine.take (mine.length - count)
  let rest := mine.drop (mine.length - count)
  { n with
    openBumps := n.openBumps.filter (fun b => b.1 != k) ++ rest
    ents := n.ents.map fun e =>
      if rest.any fun b => b.2 == e.id then { e with counted := false }
      else if gone.any fun b => b.2 == e.id then { e with counted := true } else e
    ghosts := n.ghosts.map fun g =>
      if rest.any fun b => b.2 == g.id then { g with counted := false }
      else if gone.any fun b => b.2 == g.id then { g with counted := true } else g }

/-- What a barrier that this cycle has not bumped yet holds before phases complete: the value that the cycle has written, or its own (R113). -/
def Tile.unbumped (t : Tile) (cycle k : Nat) : Word :=
  ((t.ni.nbSet.find? fun x => x.1 == k && x.2.1 == cycle).map fun x => x.2.2).getD (t.cr (crNB0 + k))

/-- Bumps barrier `k` of a tile once, for entry `who` or for an ARRB: all bumps of one cycle are added to what the barrier held before
them, and then phases complete (R113, R201). -/
def Tile.bump (t : Tile) (cycle k who : Nat) : Tile :=
  let mine := t.ni.bumps.filter fun b => b.1 == k && b.2.1 == cycle
  let v := match mine with | [] => t.unbumped cycle k | b :: _ => b.2.2.1
  let w := nbBump v (mine.length + 1)
  let t' := t.setCr (crNB0 + k) w
  let n := t'.ni.countBumps k (w.extractLsb' 0 24).toNat who
  { t' with ni := { n with bumps := n.bumps.filter (fun b => decide (cycle ≤ b.2.1)) ++ [(k, cycle, v, who)] } }

/-- Writes a barrier: the write first, then the bumps of the same step, and then phases complete (R113). `f` is applied to what it held before
them. -/
def Tile.writeNb (t : Tile) (cycle k : Nat) (f : Word → Word) : Tile :=
  let bs := t.ni.bumps.filter fun b => b.1 == k && b.2.1 == cycle
  let new := f (match bs with | [] => t.unbumped cycle k | b :: _ => b.2.2.1)
  let again (e : Ent) : Ent := if bs.any fun b => b.2.2.2 == e.id then { e with counted := false } else e
  let n : Ni :=
    { t.ni with
      openBumps := t.ni.openBumps.filter fun b => b.1 != k
      bumps := t.ni.bumps.filter fun b => !(b.1 == k && b.2.1 == cycle)
      nbSet := t.ni.nbSet.filter (fun x => x.1 != k && decide (cycle ≤ x.2.1)) ++ [(k, cycle, new)]
      ents := t.ni.ents.map again
      ghosts := t.ni.ghosts.map fun g => if bs.any fun b => b.2.2.2 == g.id then { g with counted := false } else g }
  bs.foldl (fun t b => t.bump cycle k b.2.2.2) { t.setCr (crNB0 + k) (nbSettle new) with ni := n }

/-- AGENj rises by 1 modulo 2^64 (R156). -/
def Tile.bumpAgen (t : Tile) (j : Nat) : Tile := t.setCr (crAGEN0 + j) (t.cr (crAGEN0 + j) + 1)

/-- Raises AGENj of a tile and of its trailing tile, which holds the forwarded bytes (R156, R429). -/
def State.raiseAgen (s : State) (key j : Nat) : State :=
  let s1 := s.modTile key fun t => t.bumpAgen j
  match (s.getTile key).twin with
  | some w => if w.lead then s1.modTile w.partner fun t => t.bumpAgen j else s1
  | none => s1

/-! ### Completion and observation -/

def recDone : BitVec 8 := 0x80
def recRdv : BitVec 8 := 0x20
def recHeld : BitVec 8 := 0x10
def recConv : BitVec 8 := 0x08
def recSkew : BitVec 8 := 0x04
def recOver : BitVec 8 := 0x02
def recFresh : BitVec 8 := 0x01

/-- Status codes (R319). -/
def stOK : BitVec 8 := 0x00
def stCORRECTED : BitVec 8 := 0x01
def stTRUNC : BitVec 8 := 0x02
def stCANCELLED : BitVec 8 := 0x03
def stLATE : BitVec 8 := 0x04
def stPARTIAL : BitVec 8 := 0x05
def stPOISONED : BitVec 8 := 0x06
def stUNREACHABLE : BitVec 8 := 0x07
def stFAULT : BitVec 8 := 0x08
def stDENIED : BitVec 8 := 0x09
def stUNCORRECTABLE : BitVec 8 := 0x0A
def stGENMISMATCH : BitVec 8 := 0x0B
def stTIMEOUT : BitVec 8 := 0x0C
def stREVOKED : BitVec 8 := 0x0D
def stABSENT : BitVec 8 := 0x0E

/-- Whether the entry's bytes go to an anvil region, and which. -/
def Ent.anvilRegion (e : Ent) : Option Nat :=
  match e.buf with
  | .anvil j _ => if e.kind == .posta || e.kind == .subs then some j else none
  | _ => none

/-- Bits 31:0 of TIME (R109). -/
def State.stamp (s : State) : W32 := BitVec.ofNat 32 s.time

/-- The record as completion leaves it: DONE set and the time taken (R109, R111). -/
def Rec.finish (r : Rec) (time : W32) : Rec := { r with flags := r.flags ||| recDone, tstamp := time }

/-- The record and DONE of an entry at one interface, its barrier's bump, and the freeing of a detached entry (R86, R111, R113). -/
def State.markDone (s : State) (key id : Nat) (e : Ent) (r : Rec) : State :=
  let s0 := s.modEnt key id fun e => { e with rcd := r, phase := .done, observed := false, counted := false, retryAt := none }
  let s1 := if e.detached then s0.dropEnt key id else s0
  match e.nb with
  | some k => if isTile key then s1.modTile key fun t => t.bump s.cycle k id else s1
  | none => s1

/-- The other tile of a pair and its entry for the same request: the one with the same number among the requests of normal mode (R388). -/
def State.mateOf (s : State) (key : Nat) (e : Ent) : Option (Twin × Ent) :=
  match (if isTile key then (s.getTile key).twin else none) with
  | some w => ((s.getNi w.partner).ents.find? fun f => e.mate != 0 && f.mate == e.mate).map fun f => (w, f)
  | none => none

/-- The record of the trailing tile's entry receives the values of the leading tile's, and its shards their outcomes (R388). An entry that the
trailing tile has still to make finds them waiting. -/
def State.mirrorDone (s : State) (key : Nat) (e : Ent) (r : Rec) : State :=
  match (if isTile key then (s.getTile key).twin else none) with
  | none => s
  | some w =>
    if !w.lead || e.mate = 0 then s
    else
      match (s.getNi w.partner).ents.find? fun f => f.mate == e.mate with
      | some f => if f.phase != .done then (s.modEnt w.partner f.id fun x => { x with shards := e.shards }).markDone w.partner f.id f r else s
      | none =>
        s.modTile w.partner fun t => { t with twin := t.twin.map fun v =>
          if v.made < e.mate then { v with ended := v.ended ++ [(e.mate, r, e.shards)] } else v }

/-- Completes an entry: the record's fields and DONE in one step (R111), its barrier bumped (R113), its region's generation raised
unless it is cancelled (R102), a detached entry freed (R86), and a host function's completion queued (R311). An entry of the
management controller that carries a parking record ends its gang's wait (R324); the placer's reads of an image header and a
tile's fetch of its image, its entry 0, report to the placer (R40). -/
def State.complete (s : State) (key id : Nat) (f : Rec → Rec) : State :=
  match s.ent key id with
  | none => s
  | some e =>
    if e.phase = .done then s
    else
      let r := (f e.rcd).finish s.stamp
      let s2 := (s.markDone key id e r).mirrorDone key e r
      let s3 := match e.anvilRegion with
        | some j => if r.status = stCANCELLED then s2 else s2.raiseAgen key j
        | none => s2
      if isHost key then
        { (s3.modNi key fun n => { n with waitCq := n.waitCq ++ [(r, e.cookie)] }) with
          sched := s3.sched ++ [(s.cycle + 1, .completionQueueWrite (key - 0x500))] }
      else if key = Config.mgmtEp && e.cookie != 0 then
        { s3 with sched := s3.sched ++ [(s.cycle + 1, .gangFaulted (e.cookie.toNat - 1))] }
      else if key = Config.placerEp && e.cookie != 0 then
        { s3 with sched := s3.sched ++ [(s.cycle + 1, .imageHeaderRead (e.cookie.toNat - 1))] }
      else if isTile key && id == 0 then
        { s3 with sched := s3.sched ++ [(s.cycle + 1, .imageFetch (s.getTile key).gang key)] }
      else s3

/-- Completes an entry of a sender or requester with a status and lengths. -/
def State.completeWith (s : State) (key id : Nat) (status : BitVec 8) (dlen flen : Nat) : State :=
  s.complete key id fun r => { r with status, dlen, flen }

/-- Whether an entry is observable: DONE, or for a mailbox FRESH while armed and a hold copy while held (R100, R267). -/
def Ent.observable (e : Ent) : Bool :=
  if e.kind = .postm && e.phase != .done then
    (if e.mheld then e.hold.isSome else e.rcd.flags &&& recFresh != 0)
  else e.phase == .done

/-- The bytes of an observed entry's buffer are acquired, also where an earlier entry had left them unspecified (R121). -/
def Ni.acquire (n : Ni) (e : Ent) : Ni :=
  let take (region : Option Nat) (a : Nat) : Ni := if e.kind.receives then { n with ghosts := n.ghosts.flatMap fun g => g.minus region a e.len } else n
  match e.buf with
  | .store a _ => take none a
  | .anvil j o => take (some j) o
  | _ => n

/-- Observes an entry: a mailbox becomes held; a hold copy moves into the buffer, in a pair into that of the tile that observes, and the record is
updated now (R100, R109, R121, R267, R430). -/
def State.observe (s : State) (key id : Nat) : State :=
  match s.ent key id with
  | none => s
  | some e =>
    let s := s.modNi key fun n => n.acquire e
    if e.kind = .postm && e.phase != .done && e.mheld then
      match e.hold with
      | some (l, r) =>
        (s.writeBuf key e.buf 0 l).modEnt key id fun e =>
          { e with hold := none, observed := true, rcd := { r with flags := r.flags &&& ~~~recFresh, tstamp := s.stamp } }
      | none => s
    else if e.kind = .postm && e.phase != .done then
      s.modEnt key id fun e =>
        { e with observed := true, mheld := true, rcd := { e.rcd with flags := e.rcd.flags &&& ~~~recFresh } }
    else s.modEnt key id fun e => { e with observed := true }

/-- WAITB's acquisition: the entries that name barrier `k` and whose last bump a completed phase has counted; later bytes of a mailbox
are not acquired (R121, R201). -/
def Tile.acquireNb (t : Tile) (k : Nat) : Tile :=
  let mark (e : Ent) : Ent := if e.nb == some k && e.counted then { e with observed := true } else e
  let mine := t.ni.ents.filter fun e => e.nb == some k && e.counted
  let n := { t.ni with ents := t.ni.ents.map mark, ghosts := t.ni.ghosts.filter fun g => !(g.nb == some k && g.counted) }
  { t with ni := mine.foldl (fun n e => n.acquire e) n }

/-- MLDBG's acquisition: the receives into region `j` whose completion has raised its generation (R121). -/
def Tile.acquireAnvil (t : Tile) (j : Nat) : Tile :=
  let mine (e : Ent) : Bool := e.anvilRegion == some j && e.phase == .done && e.rcd.status != stCANCELLED
  let n := { t.ni with
    ents := t.ni.ents.map fun e => if mine e then { e with observed := true } else e
    ghosts := t.ni.ghosts.filter fun g => !(g.region == some j && g.raised) }
  { t with ni := (t.ni.ents.filter mine).foldl (fun n e => n.acquire e) n }

end Sys2Proof.Machine
end

