-- ==== Sys2Proof/Machine/Ops.lean ====
section
/-!
DEFINITION. The shared operations of the thread: stalls (R187), transfers and hardware loops (R193, R197), taking a trap and
parking (R322, R331 to R336, R441), returning from one (R200, R337), and the order in which a slot is checked (R344, R357).
-/
namespace Sys2Proof.Machine

/-- What a step of the machine gives. -/
abbrev Out := Host.Outcome State Fault Refusal

/-- Trap causes (R321). -/
def tcRESERVED := 0x01
def tcHANDLER := 0x02
def tcRESIDUE := 0x03
def tcSCALE := 0x04
def tcSINGULAR := 0x05
def tcANVIL := 0x06
def tcGENERATION := 0x07
def tcMSG := 0x08
def tcWATCHDOG := 0x09
def tcRANGE := 0x0A
def tcUE := 0x0B
def tcTRAP := 0x0C
def tcTWIN := 0x0D
def tcHANDLE := 0x0F

/-! ### Stalls -/

/-- The bundle stalls: no slot of it takes effect (R187). -/
def State.stallOn (s : State) (w : Stall) : State := s.onIss fun i => { i with stall := some w }

/-- An operation that a speculative path does not execute stalls until the branch resolves (R189). -/
def State.confirmed (s : State) (k : Out) : Out := if s.tile.spec.isSome then .next (s.stallOn .spec) else k

/-- Stalls while `b`. -/
def State.stallIf (s : State) (b : Bool) (w : Stall) (k : Out) : Out := if b then .next (s.stallOn w) else k

/-- The matrix or tile-store engine was busy when the bundle issued: what the bundle itself starts does not stall it (R186, R187,
R226). -/
def State.matrixBusy (s : State) : Bool := decide (s.cycle < s.source.matrix)
def State.storeBusy (s : State) : Bool := decide (s.cycle < s.source.store)

/-! ### Where execution goes -/

/-- A transfer: the next bundle stands at `a` (R195). -/
def State.jumpTo (s : State) (a : Nat) : State := (s.onIss fun i => { i with jump := some a }).onThr fun h => { h with pc := a }

/-- R197's action after a bundle at `a`: the active counters that end there, most recently entered first. -/
def loopAct (a succ : Nat) : List Nat → Regs → Regs × Nat
  | [], r => (r, succ)
  | k :: ks, r =>
    let c := r.getLC k
    if c.active && c.stop == a then
      if 1 < c.count.toNat then (r.setLC k { c with count := c.count - 1 }, c.start)
      else loopAct a succ ks (r.setLC k { c with count := 0, active := false })
    else loopAct a succ ks r

/-- Where the bundle in issue leads: its taken transfer, else the loop action, else its successor. `cslot` says that the C slot
faulted, which defers the action (R333, R338). -/
def State.nextAddr (s : State) (cslot : Bool) : State × Nat :=
  match s.tile.iss.jump with
  | some t => (s, t)
  | none =>
    if s.tile.iss.loops && !cslot then
      let r := loopAct s.tile.iss.addr s.tile.iss.succ s.tile.thr.order s.tile.thr.regs
      (s.onRegs fun _ => r.1, r.2)
    else (s, s.tile.iss.succ)

/-! ### Work items -/

/-- Sorts by a key, lowest first, equal keys in their order. -/
def sortBy {α : Type} (key : α → Nat) : List α → List α
  | [] => []
  | x :: l => insertBefore key x (sortBy key l)
where
  /-- Inserts before equal keys. -/
  insertBefore (key : α → Nat) (x : α) : List α → List α
    | [] => [x]
    | y :: l => if key x ≤ key y then x :: y :: l else y :: insertBefore key x l

/-- Puts an item into a queue at the head of its stage (R59): before every other item of the stage. -/
def headOfStage (i : Item) : List Item → List Item
  | [] => [i]
  | j :: l => if j.stage = i.stage then i :: j :: l else j :: headOfStage i l

/-- The items that a gang holds at tiles lose them: each returns to the head of its stage, the oldest first delivery at the front, or is
dropped after RETRYMAX deliveries with a record (R59, R434). -/
def State.returnItems (s : State) (eps : List Nat) (gang : Nat) : State :=
  let held (x : Logged) : Bool := eps.contains x.tile && x.gang == gang
  let s0 := { s with disp := { s.disp with logged := s.disp.logged.filter fun x => !held x } }
  -- latest first delivery first, so that the oldest ends at the front
  let sorted := sortBy (fun x : Logged => x.item.first) (s.disp.logged.filter held)
  sorted.reverse.foldl (fun st x =>
    let i := x.item
    let part := Sparse.get none st.stgPart i.stage
    let limit := match part with
      | some p => Sparse.get 8 (Sparse.get Part.zero st.parts p).params 6
      | none => 8
    if limit ≤ i.count then
      st.log 0x0A 1 0x020B Config.dispatcherEp (part.getD 0xFFFF) 0xFFFF i.stage 0
        (BitVec.ofNat 64 (ofBytes (i.data.take 8))) (BitVec.ofNat 64 (ofBytes (i.data.drop 8)))
    else { st with disp := { st.disp with queues := headOfStage i st.disp.queues } }) s0

/-! ### Parking -/

/-- The control registers that outlive a thread: AGEN and AB (R33, R41). -/
def keptCr (i : Nat) : Bool := decide (crAGEN0 ≤ i) && decide (i < crAB0 + 8)

/-- A thread with every register zero (R322). -/
def Thread.cleared (h : Thread) : Thread :=
  ⟨{ Regs.zero with cr := h.regs.cr.filter fun x => keptCr x.1 }, [], 0, [], [], [], none, 0, 0, 0, false, 0⟩

/-- The open receives of a parked tile complete CANCELLED (R322). -/
def State.cancelAll (s : State) (key : Nat) : State :=
  ((s.getNi key).ents.filter fun e => e.kind.isRecv && e.phase != .done).foldl (fun st e =>
    st.complete key e.id fun r => { r with status := stCANCELLED, dlen := 0, flen := 0 }) s

/-- Whether the RELEASE of a send is still to leave: its interface has not begun it, or it has been refused and is to go again (R373). -/
def State.releaseWaits (s : State) (ep : Nat) (e : Ent) : Bool :=
  let is (v : Ev) : Bool := (v.inner?.map fun p => p.hdr.kind == 0x08 && p.hdr.src == s.rankOf ep && p.hdr.xid == e.xid).getD false
  (s.torus.any fun t => is t.ev && (t.injected == 0 || (match t.ev with | .refused _ _ => true | _ => false))) || s.sched.any fun x => is x.2

/-- The poisoned RELEASE that the management controller sends for each SENDR of a parked tile whose message has left and whose final
RELEASE has not (R382). -/
def State.poisonReleases (s : State) (ep : Nat) : State :=
  ((s.getNi ep).ents.filter fun e =>
    e.kind == .sendr && (e.rel < 2 || s.releaseWaits ep e) && e.phase != .done && e.phase != .queued && e.phase != .held).foldl
    (fun st e =>
      match st.endpointOf e.rank (st.rankOf ep) with
      | some dst => st.inject (.packet (e.releasePacket (s.rankOf ep) 2)) Config.mgmtEp dst
      | none => st) s

/-- The senders of eager messages whose header had been taken and whose last flit has not come learn that the tile is parked (R322, R323,
R370). -/
def State.refuseHalves (s : State) (ep : Nat) : State :=
  let n := s.getNi ep
  let half (u : Unexp) : List Header := if u.whole then [] else [u.hdr]
  let hs := n.unexp.flatMap half ++ n.ents.flatMap fun e =>
    e.boxq.flatMap half ++ (match e.hdr with | some h => if e.kind.isRecv && e.phase == .landing && h.kind == 0x01 then [h] else [] | none => [])
  hs.foldl (fun st h =>
    match st.endpointOf h.src (st.rankOf ep) with
    | some dst => st.inject (.packet (answer h 0x06 7)) ep dst
    | none => st) s

/-- What travels for a send, a contrail or a server request of an interface. -/
def Ev.ofRequest : Ev → Bool
  | .packet p => [0x01, 0x02, 0x04, 0x08, 0x0B, 0x0D].contains p.hdr.kind.toNat
  | .again p _ => [0x01, 0x02, 0x04, 0x08, 0x0B, 0x0D].contains p.hdr.kind.toNat
  | .shard _ _ => true
  | .shardPart _ _ => true
  | .hcontrib _ => true
  | .send _ _ e => e.ofRequest
  | _ => false

/-- No further packet of a tile's requests leaves: those that its interface has not begun, and those that wait to be sent again (R322). -/
def State.abandonPackets (s : State) (ep : Nat) : State :=
  { s.modNi ep fun n => { n with waiting := [] } with
    torus := s.torus.filter fun t => !(t.src == ep && t.injected == 0 && t.ev.ofRequest)
    sched := s.sched.filter fun x => match x.2 with | .send src _ e => !(src == ep && e.ofRequest) | _ => true }

/-! ### The halo tree's rounds -/

def State.getNode (s : State) (n : Nat) : HNode := Sparse.get HNode.empty s.halo n
def State.modNode (s : State) (n : Nat) (f : HNode → HNode) : State := { s with halo := Sparse.set HNode.empty s.halo n (f (s.getNode n)) }

/-- Moves a member's contribution of the next round into round `k`, and so on: a discarded one does not count (R419). -/
def shiftRounds (child k : Nat) (g : BitVec 16) (rounds : List HRound) : List HRound :=
  let from_ (n : Nat) := (rounds.find? fun r => r.group == g && r.round == n).elim [] fun r => r.from_.filter fun f => f.1 == child
  let ins (n : Nat) := (rounds.find? fun r => r.group == g && r.round == n).elim [] fun r => r.ins.filter fun x => x.child == child
  rounds.map fun r =>
    if r.group == g && decide (k ≤ r.round) then
      { r with from_ := (r.from_.filter fun f => f.1 != child) ++ from_ (r.round + 1), ins := (r.ins.filter fun x => x.child != child) ++ ins (r.round + 1) }
    else r

/-- A row node discards a member's contribution to round `k`: it does not count as accepted, and later ones of the member move up (R164,
R419). -/
def State.dropContribution (s : State) (node child : Nat) (g : BitVec 16) (k : Nat) : State :=
  let place := g.toNat * 16 + child
  s.modNode node fun n =>
    { n with rounds := shiftRounds child k g n.rounds, first := Sparse.set 0 n.first place (Sparse.get 0 n.first place - 1) }

/-- The contributions of a parked tile that have not left whole are absent: what has come of them, or is on its way, goes (R323, R419; log 94). -/
def State.withdrawHalo (s : State) (ep : Nat) : State :=
  let own := s.rankOf ep
  ((s.getNi ep).ents.filter fun e => e.kind.isSend && e.phase == .awaitAck && e.rank == s.rankOf Config.haloEp && decide (e.sent < e.len)).foldl
    (fun st e =>
      let mine (src : Rank) (xid : Nat) : Bool := src == own && xid == e.xid.toNat
      let s1 := { st with torus := st.torus.filter fun t => match t.ev with | .hcontrib c => !mine c.src c.xid | _ => true }
      let s2 := s1.modNode (ep / 16) fun h => { h with voided := h.voided.filter fun v => !mine v.1 v.2 }
      match (s2.getNode (ep / 16)).rounds.find? fun r => r.group == e.group && r.from_.any fun f => mine f.2.1 f.2.2.2.1 with
      | some r => s2.dropContribution (ep / 16) (ep % 16) e.group r.round
      | none => s2) s

/-- Poison of memories, which parking leaves; registers are written zero (R322, R347). -/
def Poison.inMemory : Poison → Bool
  | .store _ => true
  | .anvil _ => true
  | .imem _ => true
  | .reg _ => false
  | .row _ _ => false
  | .capture => false

/-- The placer notes the first parked member of a gang; a gang that is being stopped or is suspended ends FAULTED (R324, R351). -/
def Launch.noteParked (gang ep cause : Nat) (l : Launch) : Launch :=
  if l.n = gang && gang != 0 && l.parkedBy.isNone then
    { l with parkedBy := some (ep, cause), st := if l.st == .stopping || l.st == .suspended || l.st == .resuming then .faulting else l.st }
  else l

/-- Parks one tile: the record, the registers zero, the latch empty, its receives cancelled, its requests abandoned, its items
returned, its unfinished contributions absent (R322, R323, R419, R59). -/
def State.parkOne (s : State) (ep : Nat) (record : Bool) (partner : Nat) : State :=
  let t := s.getTile ep
  let cause := ((t.cr crTCAUSE).extractLsb' 0 8).toNat
  let d1 := BitVec.ofNat 64 (((t.cr crTPC).extractLsb' 0 18).toNat + ((t.cr crTMASK).extractLsb' 0 8).toNat * 2 ^ 32
    + partner * 2 ^ 48)
  let s0 := if record then
      s.log 0x01 2 (0x0100 + cause) ep (s.logPart ep) ((t.cr crACTX).extractLsb' 0 16).toNat
        ((t.cr crTPC).extractLsb' 0 18).toNat t.gang (t.cr crTINFO) d1
    else s
  let s1 := ((((s0.poisonReleases ep).withdrawHalo ep).abandonPackets ep).refuseHalves ep).cancelAll ep
  let s2 := s1.modTile ep fun t =>
    { t with
      run := .parked
      thr := t.thr.cleared
      spec := none
      latch := none
      waitw := false
      item := []
      poison := t.poison.filter Poison.inMemory
      ni := { t.ni with ents := t.ni.ents.filter (fun e => e.kind.isRecv), waiting := [], fence := none } }
  ({ s2 with launches := s2.launches.map (Launch.noteParked t.gang ep cause) }).returnItems [ep] t.gang

/-- Parks a tile, and its twin with it under one record (R322, R431). -/
def State.park (s : State) (ep : Nat) : State :=
  match (s.getTile ep).twin with
  | some w => (s.parkOne ep true w.partner).parkOne w.partner false ep
  | none => s.parkOne ep true 0

/-! ### Taking a trap -/

/-- When everything in flight has landed and the engines have finished (R331). -/
def Tile.drained (t : Tile) (cycle : Nat) : Nat :=
  t.thr.land.foldl (fun c l => max c l.ready) (max cycle (max t.eng.matrix t.eng.store))

/-- TCAUSE at entry (R332). -/
def tcauseWord (cause slot : Nat) (late multi : Bool) : Word :=
  BitVec.ofNat 64 (2 ^ 63 + (if late then 2 ^ 12 else 0) + (if multi then 2 ^ 11 else 0) + slot % 8 * 2 ^ 8 + cause % 256)

/-- Trap entry: TCAUSE, TINFO, TPC, TMASK and the captures are written, handler mode is entered and the next bundle issues at
TVEC.ADDR once everything in flight has landed; a trap in handler mode, without a handler, or that meets an error in its own capture
parks the tile (R322, R331 to R336, R341, R347). TOPD0–TOPD3 show the first capture. -/
def State.enterTrap (s : State) (cause slot : Nat) (late multi : Bool) (tinfo : Word) (caps : List Capture) (mask rf addr next : Nat) :
    State :=
  let h := s.hm
  let top (n : Nat) : Word := match caps with | c :: _ => (c.ops.getD n SVal.zero).val | [] => 0
  let third : Word := match caps with
    | c :: _ => (match c.third with | some i => c.regs.getC i | none => 0)
    | [] => 0
  let s1 := (((((((s.setCr crTCAUSE (tcauseWord cause slot late multi)).setCr crTINFO tinfo).setCr crTPC
      (BitVec.ofNat 64 (addr + next * 2 ^ 32))).setCr crTMASK (BitVec.ofNat 64 (mask + rf * 256))).setCr crTOPD0 (top 0)).setCr
      (crTOPD0 + 1) (top 1)).setCr (crTOPD0 + 2) (top 2)).setCr crTOPD3 third
  let vec := ((s.cr crTVEC).extractLsb' 0 18).toNat
  let s2 := s1.onIss fun i => { i with trapped := some late }
  if h || vec = 0 || (!caps.isEmpty && s.tile.poison.contains .capture) then s2.park s.tile.ep
  else
    s2.onTile fun t =>
      { t with
        idle := max t.idle (t.drained s.cycle + 1)
        waitw := false
        ni := { t.ni with fence := none }
        thr := { t.thr with caps, pc := vec, elapsed := 0, waited := 0, replay := none, sigHeld := false } }

/-- A bundle that issued in handler mode traps in handler mode, also when its TRET has left it (R341). -/
def State.inHandler (s : State) : State :=
  if (s.source.regs.getC crTCAUSE).getLsbD 63 && s.tile.iss.src.isSome then s.setCr crTCAUSE ((s.cr crTCAUSE) ||| 0x8000000000000000) else s

/-- The capture of the slot in issue (R335, R347). -/
def State.capture (s : State) (names : List Reg) (ops : List SVal) (third : Option Nat) : Capture :=
  ⟨s.tile.iss.slot, s.source.regs, ops, names, third, s.marks, (s.source.land.filter fun l => decide (s.cycle < l.ready)).map fun l => l.dest⟩

/-- The bits of the slots of captures. -/
def slotBits (cs : List Capture) : Nat := cs.foldl (fun m c => m ||| 2 ^ c.slot) 0

/-- Entry of a trap at issue that `slot` reports; the captures name the slots that faulted (R331 to R336, R358). -/
def State.takeFault (s : State) (slot cause : Nat) (tinfo : Word) (caps : List Capture) : State :=
  let n := s.nextAddr (caps.any fun c => c.slot == 0)
  (n.1.inHandler.enterTrap cause slot false (decide (1 < caps.length)) tinfo caps (slotBits caps) 0 s.tile.iss.addr n.2).onIss
    fun i => { i with others := caps, raised := some (cause, tinfo) }

/-- A slot traps at issue: it does not execute, and its capture is kept; on a speculative path issue stops at the bundle until the
branch resolves (R331, R335, R342, R358). -/
def State.slotTrap (s : State) (cause : Nat) (tinfo : Word) (names : List Reg) (ops : List SVal) (third : Option Nat) : State :=
  if s.tile.spec.isSome then s.stallOn .spec
  else s.takeFault s.tile.iss.slot cause tinfo (s.capture names ops third :: s.tile.iss.others)

/-- A cause taken after the bundle: entered with the address that the bundle chose, or held behind a trap at issue (R331, R333,
R441). -/
def State.lateTrap (s : State) (cause : Nat) (tinfo : Word) : State :=
  if s.tile.iss.hold then
    (s.onThr fun h => { h with pend := h.pend ++ [⟨cause, tinfo, s.tile.iss.addr⟩] }).onIss fun i => { i with trapped := some true }
  else
    let n := s.nextAddr false
    n.1.inHandler.enterTrap cause 0 true false tinfo [] 0 0 s.tile.iss.addr n.2

/-- Takes the oldest held cause after a bundle that leads to `next`; TPC.ADDR is the bundle that raised it (R441). -/
def State.takePending (s : State) (next : Nat) : State :=
  match s.tile.thr.pend with
  | [] => s
  | p :: rest => (s.onThr fun h => { h with pend := rest }).inHandler.enterTrap p.cause 0 true false p.tinfo [] 0 0 p.addr next

/-- Where the bundle stands that would issue next: a replay's, or the one at the program counter. -/
def Thread.nextBundle (h : Thread) : Nat := match h.replay with | some r => r.addr | none => h.pc

/-- A trap at the boundary before the bundle that would issue next (R331, R333). -/
def State.boundaryTrap (s : State) (cause : Nat) (tinfo : Word) : State :=
  s.enterTrap cause 0 true false tinfo [] 0 0 s.tile.thr.nextBundle s.tile.thr.nextBundle

/-- A bundle that holds a reserved word traps before any slot executes; `slots` are those whose words are not zero. After a packed header
with a nonzero bit in 31:8, reason 4, NEXT is the successor (R334, R354). -/
def State.reservedTrap (s : State) (slot : Nat) (multi : Bool) (tinfo : Word) (slots : Nat) : State :=
  if s.tile.spec.isSome then s.stallOn .spec
  else
    let n := s.nextAddr (slots.testBit 0 || tinfo.extractLsb' 36 3 == 4)
    (n.1.enterTrap tcRESERVED slot false multi tinfo [] slots slots s.tile.iss.addr n.2).onIss fun i => { i with raised := some (tcRESERVED, tinfo) }

/-! ### Returning -/

/-- Leaves handler mode: TCAUSE.HM is cleared and the rest of TCAUSE stays (R200, R332). -/
def State.leaveHandler (s : State) : State := s.setCr crTCAUSE ((s.cr crTCAUSE) &&& 0x7FFFFFFFFFFFFFFF)

/-- TRET in handler mode: the slots named in TMASK.REPLAY are re-issued from TPC.ADDR, and execution then continues at TPC.NEXT;
with none, it continues there at once and a pending trap is taken (R200, R337, R441). -/
def State.returnFromTrap (s : State) : State :=
  let tpc := s.cr crTPC
  let addr := (tpc.extractLsb' 0 18).toNat
  let next := (tpc.extractLsb' 32 18).toNat
  let mask := (s.cr crTMASK).extractLsb' 0 8
  let rf := (s.cr crTMASK).extractLsb' 8 8
  let s1 := s.leaveHandler.jumpTo next
  if mask ≠ 0 then s1.onThr fun h => { h with replay := some ⟨mask, rf, addr, next⟩ }
  else
    match s1.tile.thr.pend with
    | p :: rest => (s1.onThr fun h => { h with pend := rest }).enterTrap p.cause 0 true false p.tinfo [] 0 0 p.addr next
    | [] => s1

/-! ### The checks of a slot -/

/-- What a slot is checked for: its operand registers in assembly order with their values, its other registers, TOPD3's register,
the bytes it reads of the tile store, the first cause before the range check, the ranges it accesses, the first cause after it. -/
structure Checks where
  names : List Reg := []
  ops   : List SVal := []
  regs  : List Reg := []
  third : Option Nat := none
  reads : List (Word × Nat) := []
  first : Option (Nat × Word) := none
  mem   : List (Word × Nat) := []
  later : Option (Nat × Word) := none

/-- The lowest out-of-range byte of an access (R344). -/
def State.oorOf (s : State) (rs : List (Word × Nat)) : Option Nat :=
  rs.foldl (fun b r => minOpt b (s.tile.oor r.1 r.2)) none

/-- Records an out-of-range access of the slot in issue when OOR changes from 0 to 1; of the accesses of one bundle, the lowest-numbered
slot's is the first (R344). -/
def State.recordOor (s : State) (a : Option Nat) : State :=
  let mark (s : State) (x : Nat) : State :=
    ((s.setCr crOORFLAG 1).setCr crOORADDR (BitVec.ofNat 64 x)).onIss fun i => { i with oorBy := some (i.slot, x) }
  match a with
  | none => s
  | some x =>
    if !(s.cr crOORFLAG).getLsbD 0 then mark s x
    else
      match s.tile.iss.oorBy with
      | some k => if s.tile.iss.slot < k.1 then mark s x else s
      | none => s

/-- TVEC.ENOOR (R174). -/
def State.enoor (s : State) : Bool := (s.cr crTVEC).getLsbD 63

/-- The first poisoned source of a slot (R347). -/
def State.ueOf (s : State) (c : Checks) : Option Word :=
  match s.ueReg (c.names ++ c.regs) with
  | some i => some i
  | none => c.reads.foldl (fun b r => match b with | some i => some i | none => s.ueMem r.1 r.2) none

/-- Checks a slot in the order of R357 and, when nothing fails, takes its effect. -/
def State.checked (s : State) (c : Checks) (eff : State → State) : Out :=
  match s.ueOf c with
  | some i => .next (s.slotTrap tcUE i c.names c.ops c.third)
  | none =>
    match c.first with
    | some f => .next (s.slotTrap f.1 f.2 c.names c.ops c.third)
    | none =>
      let a := s.oorOf c.mem
      let s1 := s.recordOor a
      match (if s.enoor then a else none) with
      | some x => .next (s1.slotTrap tcRANGE (BitVec.ofNat 64 x) c.names c.ops c.third)
      | none =>
        match c.later with
        | some f => .next (s1.slotTrap f.1 f.2 c.names c.ops c.third)
        | none => .next (eff s1)

/-- TINFO of RESIDUE for a scalar register (R336): use 0 address, 1 index, 2 transfer, 3 length, 4 store data. -/
def residueInfo (n : Nat) (vector : Bool) (lane use : Nat) (carried computed : BitVec 4) : Word :=
  BitVec.ofNat 64 (n % 32 + (if vector then 32 else 0) + lane % 64 * 2 ^ 6 + use % 8 * 2 ^ 12 + carried.toNat * 2 ^ 15
    + computed.toNat * 2 ^ 19)

/-- The residue check of scalar register `n` (R194, R343). -/
def resCheck (n : Nat) (v : SVal) (use : Nat) : Option (Nat × Word) :=
  if v.ok then none else some (tcRESIDUE, residueInfo n false 0 use v.res (resOf v.val.toNat))

/-- The first cause of a list. -/
def firstOf : List (Option (Nat × Word)) → Option (Nat × Word)
  | [] => none
  | some c :: _ => some c
  | none :: l => firstOf l

end Sys2Proof.Machine
end

