-- ==== Sys2Proof/Machine/Store.lean ====
section
/-!
DEFINITION. The M slot: loads and stores, block moves and anvil moves (R219 to R226, R364).
-/
namespace Sys2Proof.Machine

/-- Every M-slot operation stalls while the tile-store engine is busy (R186, R226). -/
def State.mslot (s : State) (k : Out) : Out := s.stallIf s.storeBusy .busy k

/-- A store on a speculative path needs a place in the buffer of eight (R189). -/
def State.storeRoom (s : State) (k : Out) : Out :=
  match s.tile.spec with
  | some p => if 8 ≤ p.nstores then .next (s.stallOn .spec) else k
  | none => k

/-- A store of the thread, counted on a speculative path. -/
def State.store (s : State) (a : Word) (l : List Byte) : State := (s.stBytes a l).countStore

/-- A scalar load: address sa + off, `n` bytes, the result made by `f` (R220). -/
def State.loadOp (s : State) (a : BitVec 5) (o : Word) (n : Nat) (eff : Nat → State → State) : Out :=
  let x := s.opS 0 a
  let addr := x.val + o
  s.mslot <| s.checked
    { names := [.s a.toNat], ops := [x], first := resCheck a.toNat x 0, mem := [(addr, n)], reads := [(addr, n)] }
    (eff (ofLE (s.ldBytes addr n)))

/-- Sign extension of an `n`-byte number. -/
def sext (n x : Nat) : Word := if x.testBit (8 * n - 1) then BitVec.ofInt 64 ((x : Int) - 2 ^ (8 * n)) else BitVec.ofNat 64 x

/-- The 13-bit signed offset (R220). -/
def off13 (o : BitVec 13) : Word := o.signExtend 64

/-- A scalar store of the low `n` bytes of sd (R220): the address's residue is checked, then the data's (R194). -/
def State.storeOp (s : State) (d a : BitVec 5) (o : Word) (n : Nat) : Out :=
  let v := s.opS 0 d
  let x := s.opS 1 a
  let addr := x.val + o
  s.mslot <| s.storeRoom <| s.checked
    { names := [.s d.toNat, .s a.toNat], ops := [v, x],
      first := firstOf [resCheck a.toNat x 0, resCheck d.toNat v 4], mem := [(addr, n)] }
    fun s => s.store addr (toLE n v.val.toNat)

/-- LDB (R220). -/
def execLdb (d a : BitVec 5) (o : BitVec 13) (s : State) : Out :=
  s.loadOp a (off13 o) 1 fun x s => s.wrS d (SVal.of (sext 1 x)) 4
/-- LDBZ (R220). -/
def execLdbz (d a : BitVec 5) (o : BitVec 13) (s : State) : Out :=
  s.loadOp a (off13 o) 1 fun x s => s.wrS d (SVal.of (BitVec.ofNat 64 x)) 4
/-- LDH (R220). -/
def execLdh (d a : BitVec 5) (o : BitVec 13) (s : State) : Out :=
  s.loadOp a (off13 o) 2 fun x s => s.wrS d (SVal.of (sext 2 x)) 4
/-- LDHZ (R220). -/
def execLdhz (d a : BitVec 5) (o : BitVec 13) (s : State) : Out :=
  s.loadOp a (off13 o) 2 fun x s => s.wrS d (SVal.of (BitVec.ofNat 64 x)) 4
/-- LDW (R220). -/
def execLdw (d a : BitVec 5) (o : BitVec 13) (s : State) : Out :=
  s.loadOp a (off13 o) 4 fun x s => s.wrS d (SVal.of (sext 4 x)) 4
/-- LDWZ (R220). -/
def execLdwz (d a : BitVec 5) (o : BitVec 13) (s : State) : Out :=
  s.loadOp a (off13 o) 4 fun x s => s.wrS d (SVal.of (BitVec.ofNat 64 x)) 4
/-- LDD (R220). -/
def execLdd (d a : BitVec 5) (o : BitVec 13) (s : State) : Out :=
  s.loadOp a (off13 o) 8 fun x s => s.wrS d (SVal.of (BitVec.ofNat 64 x)) 4
/-- STB (R220). -/
def execStb (d a : BitVec 5) (o : BitVec 13) (s : State) : Out := s.storeOp d a (off13 o) 1
/-- STH (R220). -/
def execSth (d a : BitVec 5) (o : BitVec 13) (s : State) : Out := s.storeOp d a (off13 o) 2
/-- STW (R220). -/
def execStw (d a : BitVec 5) (o : BitVec 13) (s : State) : Out := s.storeOp d a (off13 o) 4
/-- STD (R220). -/
def execStd (d a : BitVec 5) (o : BitVec 13) (s : State) : Out := s.storeOp d a (off13 o) 8

/-- Bytes of a size code (R220, R221). -/
def sizeBytes (z : BitVec 3) : Nat :=
  match z.toNat with
  | 0 => 1 | 1 => 1 | 2 => 2 | 3 => 2 | 4 => 4 | 5 => 4 | _ => 8

/-- The value a size code makes of the loaded bytes: codes 0, 2 and 4 sign-extend (R220). -/
def sizeValue (z : BitVec 3) (x : Nat) : Word :=
  if z.toNat = 0 || z.toNat = 2 || z.toNat = 4 then sext (sizeBytes z) x else BitVec.ofNat 64 x

/-- sa + sb, or sa + sb × width with SC (R221). -/
def indexed (x y : Word) (c : BitVec 1) (z : BitVec 3) : Word := if c = 1 then x + y * BitVec.ofNat 64 (sizeBytes z) else x + y

/-- LDX: sa is checked as an address and sb as an index (R194, R221). -/
def execLdx (d a b : BitVec 5) (c : BitVec 1) (z : BitVec 3) (s : State) : Out :=
  let x := s.opS 0 a
  let y := s.opS 1 b
  let addr := indexed x.val y.val c z
  let n := sizeBytes z
  s.mslot <| s.checked
    { names := [.s a.toNat, .s b.toNat], ops := [x, y], first := firstOf [resCheck a.toNat x 0, resCheck b.toNat y 1],
      mem := [(addr, n)], reads := [(addr, n)] }
    fun t => t.wrS d (SVal.of (sizeValue z (ofLE (s.ldBytes addr n)))) 4
/-- STX (R221). -/
def execStx (d a b : BitVec 5) (c : BitVec 1) (z : BitVec 3) (s : State) : Out :=
  let v := s.opS 0 d
  let x := s.opS 1 a
  let y := s.opS 2 b
  let addr := indexed x.val y.val c z
  let n := sizeBytes z
  s.mslot <| s.storeRoom <| s.checked
    { names := [.s d.toNat, .s a.toNat, .s b.toNat], ops := [v, x, y],
      first := firstOf [resCheck a.toNat x 0, resCheck b.toNat y 1, resCheck d.toNat v 4], mem := [(addr, n)] }
    fun s => s.store addr (toLE n v.val.toNat)
/-- LDF copies the bits (R220). -/
def execLdf (d : BitVec 4) (a : BitVec 5) (o : BitVec 13) (s : State) : Out :=
  s.loadOp a (off13 o) 4 fun x s => s.wrF d (BitVec.ofNat 32 x) 4
/-- STF copies the bits (R220). -/
def execStf (d : BitVec 4) (a : BitVec 5) (o : BitVec 13) (s : State) : Out :=
  let v := s.opF 0 d
  let x := s.opS 1 a
  let addr := x.val + off13 o
  s.mslot <| s.storeRoom <| s.checked
    { names := [.f d.toNat, .s a.toNat], ops := [SVal.ofF v, x], first := resCheck a.toNat x 0, mem := [(addr, 4)] }
    fun s => s.store addr (toLE 4 v.toNat)

/-! ### Vector loads and stores (R222) -/

/-- The lane addresses of a vector access. -/
def laneRanges (f : Nat → Word) : List (Word × Nat) := (List.range 64).map fun i => (f i, 4)

/-- The 64 lanes at addresses `f i`. -/
def State.ldLanes (s : State) (f : Nat → Word) : VVal := VVal.ofBits (ofLanes fun i => BitVec.ofNat 32 (ofLE (s.ldBytes (f i) 4)))

/-- Stores lane `i` at `f i`, in rising order, so that the highest-numbered lane determines a shared byte (R222). -/
def State.stLanes (s : State) (f : Nat → Word) (v : VBits) : State :=
  (((List.range 64).foldl (fun s i => s.stBytes (f i) (toLE 4 (lane v i).toNat)) s).cover
    ((List.range 64).map fun i => ((f i).toNat, 4))).countStore

/-- The residue check of a vector register's lanes: the lowest failing lane (R230, R364). -/
def laneCheck (r : BitVec 5) (v : VVal) (use : Nat) : Option (Nat × Word) :=
  v.badLane.map fun i => (tcRESIDUE, residueInfo r.toNat true i use (v.laneRes i) (resOf (lane v.bits i).toNat))

/-- A vector load with bound `lat`. -/
def State.vload (s : State) (d : BitVec 5) (lat : Nat) (c : Checks) (f : Nat → Word) : Out :=
  s.mslot <| s.checked { c with mem := laneRanges f, reads := laneRanges f } fun t => t.wrV d (s.ldLanes f) lat

/-- A vector store. -/
def State.vstore (s : State) (d : BitVec 5) (c : Checks) (f : Nat → Word) : Out :=
  let v := s.rdV d
  s.mslot <| s.storeRoom <| s.checked
    { c with regs := .v d.toNat :: c.regs, first := firstOf [c.first, laneCheck d v 4], mem := laneRanges f }
    fun s => s.stLanes f v.bits

/-- Lane addresses of the contiguous, strided and indexed forms (R222). -/
def contig (x : Word) (i : BitVec 16) (n : Nat) : Word := x + i.signExtend 64 + BitVec.ofNat 64 (4 * n)
def strided (x y : Word) (n : Nat) : Word := x + BitVec.ofNat 64 n * y
def offset (x : Word) (v : VBits) (n : Nat) : Word := x + (lane v n).zeroExtend 64

/-- LDV (R222). -/
def execLdv (d a : BitVec 5) (i : BitVec 16) (s : State) : Out :=
  let x := s.opS 0 a
  s.vload d 5 { names := [.s a.toNat], ops := [x], first := resCheck a.toNat x 0 } (contig x.val i)
/-- STV (R222). -/
def execStv (d a : BitVec 5) (i : BitVec 16) (s : State) : Out :=
  let x := s.opS 0 a
  s.vstore d { names := [.s a.toNat], ops := [x], first := resCheck a.toNat x 0 } (contig x.val i)
/-- LDVS: sb is a signed stride and an index use (R194, R222). -/
def execLdvs (d a b : BitVec 5) (s : State) : Out :=
  let x := s.opS 0 a
  let y := s.opS 1 b
  s.vload d 5 { names := [.s a.toNat, .s b.toNat], ops := [x, y], first := firstOf [resCheck a.toNat x 0, resCheck b.toNat y 1] }
    (strided x.val y.val)
/-- STVS (R222). -/
def execStvs (d a b : BitVec 5) (s : State) : Out :=
  let x := s.opS 0 a
  let y := s.opS 1 b
  s.vstore d { names := [.s a.toNat, .s b.toNat], ops := [x, y], first := firstOf [resCheck a.toNat x 0, resCheck b.toNat y 1] }
    (strided x.val y.val)
/-- LDVX: the offset lanes of vb are address uses (R222, R230, R364). -/
def execLdvx (d a b : BitVec 5) (s : State) : Out :=
  let x := s.opS 0 a
  let v := s.rdV b
  s.vload d 8 { names := [.s a.toNat], ops := [x], regs := [.v b.toNat], first := firstOf [resCheck a.toNat x 0, laneCheck b v 0] }
    (offset x.val v.bits)
/-- STVX (R222). -/
def execStvx (d a b : BitVec 5) (s : State) : Out :=
  let x := s.opS 0 a
  let v := s.rdV b
  s.vstore d { names := [.s a.toNat], ops := [x], regs := [.v b.toNat], first := firstOf [resCheck a.toNat x 0, laneCheck b v 0] }
    (offset x.val v.bits)

/-! ### Exact accumulators (R223) -/

/-- The tile-store engine is busy for `n` steps (R186). -/
def State.useStore (s : State) (n : Nat) : State := s.onTile fun t => { t with eng := { t.eng with store := s.cycle + n } }

/-- LDXA: 64 wire elements; bytes out of range read zero; bound 24, engine 20 (R186, R223). -/
def execLdxa (d : BitVec 1) (a : BitVec 5) (o : BitVec 13) (s : State) : Out :=
  let x := s.opS 0 a
  let addr := x.val + off13 o
  s.mslot <| s.checked
    { names := [.s a.toNat], ops := [x], first := resCheck a.toNat x 0, mem := [(addr, 4096)], reads := [(addr, 4096)] }
    fun t => (t.wrXA d 24 (fun _ => true) fun i _ =>
      XA.ofWire (BitVec.ofNat 512 (ofLE (s.ldBytes (addr + BitVec.ofNat 64 (64 * i)) 64)))).useStore 20
/-- STXA (R223). -/
def execStxa (d : BitVec 1) (a : BitVec 5) (o : BitVec 13) (s : State) : Out :=
  let x := s.opS 0 a
  let addr := x.val + off13 o
  s.mslot <| s.storeRoom <| s.checked
    { names := [.s a.toNat], ops := [x], regs := [.xa d.toNat], first := resCheck a.toNat x 0, mem := [(addr, 4096)] }
    fun t => (t.store addr ((List.range 64).flatMap fun i => toLE 64 (s.rdXA d i).wire.toNat)).useStore 20

/-! ### Block moves (R224) -/

/-- The indices below `n` whose address `a` + index lies in the tile store. -/
def storeIdx (a : Word) (n : Nat) : List Nat :=
  if a.toNat < Config.storeBytes then List.range (min n (Config.storeBytes - a.toNat))
  else (List.range (min (n - (2 ^ 64 - a.toNat)) Config.storeBytes)).map fun i => i + (2 ^ 64 - a.toNat)

/-- Writes byte `f i` at address `a` + i for the indices below `n`, out-of-range bytes dropped (R219). -/
def State.blockWrite (s : State) (a : Word) (n : Nat) (f : Nat → Byte) : State :=
  ((storeIdx a n).foldl (fun s i => s.stBytes (a + BitVec.ofNat 64 i) [f i]) s).cover [(a.toNat, n)]

/-- The words of `dst` into which a move of `n` bytes from `src` carries bytes of the source word `w`, modulo 2^64 (R347). -/
def movedWords (src dst n w : Nat) : List Nat :=
  ((List.range 8).filter fun i => decide ((8 * w + i + (2 ^ 64 - src)) % 2 ^ 64 < n)).foldl
    (fun l i => let x := (8 * w + i + (2 ^ 64 - src) + dst) % 2 ^ 64 / 8; if l.contains x then l else l ++ [x]) []

/-- The words that a move of `n` bytes of the tile store from `src` to `dst` leaves poisoned (R347). -/
def State.movePoison (s : State) (src dst : Word) (n : Nat) : List Nat :=
  s.tile.poison.flatMap fun p =>
    match p with
    | .store w => movedWords src.toNat dst.toNat n w
    | _ => []

/-- Marks words of the tile store that lie in it. -/
def Tile.poisonWords (t : Tile) (l : List Nat) : Tile :=
  { t with poison := t.poison ++ (l.filter fun w => t.inRange (8 * w)).map Poison.store }

/-- FILL: sb[31:0] bytes of sb[39:32]; the busy time counts the whole length (R186, R224, R364). -/
def execFill (a b : BitVec 5) (s : State) : Out :=
  let x := s.opS 0 a
  let y := s.opS 1 b
  let n := (y.val.extractLsb' 0 32).toNat
  s.confirmed <| s.mslot <| s.checked
    { names := [.s a.toNat, .s b.toNat], ops := [x, y], first := firstOf [resCheck a.toNat x 0, resCheck b.toNat y 3], mem := [(x.val, n)] }
    fun s => (s.blockWrite x.val n fun _ => y.val.extractLsb' 32 8).useStore ((n + 255) / 256 + 4)
/-- COPY: the whole source as if read first (R224). -/
def execCopy (d a b : BitVec 5) (s : State) : Out :=
  let w := s.opS 0 d
  let x := s.opS 1 a
  let y := s.opS 2 b
  let n := (y.val.extractLsb' 0 32).toNat
  s.confirmed <| s.mslot <| s.checked
    { names := [.s d.toNat, .s a.toNat, .s b.toNat], ops := [w, x, y],
      first := firstOf [resCheck d.toNat w 0, resCheck a.toNat x 0, resCheck b.toNat y 3], mem := [(w.val, n), (x.val, n)] }
    fun t => ((t.blockWrite w.val n fun i => s.ldByte (x.val + BitVec.ofNat 64 i).toNat).onTile fun u =>
      u.poisonWords (s.movePoison x.val w.val n)).useStore ((n + 255) / 256 + 4)

/-! ### Anvil moves (R225) -/

/-- TINFO of ANVIL_RANGE (R336). -/
def anvilInfo (j reason off : Nat) : Word := BitVec.ofNat 64 (j % 8 + reason * 8 + off % 2 ^ 22 * 2 ^ 32)

/-- The anvil check in the order of R364 and R366: `bad` is a nonzero bit where zeros are required (reason 3), then OWNER (1), then
misalignment (2), then leaving the region (0). -/
def State.anvilCheck (s : State) (j off n : Nat) (bad misaligned : Bool) : Option (Nat × Word) :=
  let ab := s.cr (crAB0 + j)
  if bad then some (tcANVIL, anvilInfo j 3 off)
  else if s.partOf s.tile.ep ≠ some (abOwner ab) then some (tcANVIL, anvilInfo j 1 off)
  else if misaligned then some (tcANVIL, anvilInfo j 2 off)
  else if abSize ab * 65536 < off + n then some (tcANVIL, anvilInfo j 0 off)
  else none

/-- Sets the retention state of region `j` of the tile in focus. -/
def State.setRetain (s : State) (j : Nat) (r : Retain) : State := s.onTile fun t => t.setRetain j r

/-- An access of region `j`: in retention it starts the exit and waits for it (R435). -/
def State.region (s : State) (j : Nat) (k : State → Out) : Out :=
  match s.tile.retained j with
  | some (.kept _) => .next ((s.setRetain j (.leaving (s.time + 4000))).stallOn .busy)
  | some (.entering u) =>
    if u ≤ s.time then .next ((s.setRetain j (.leaving (s.time + 4000))).stallOn .busy) else .next (s.stallOn .busy)
  | some (.leaving u) => if u ≤ s.time then k (s.setRetain j (.active s.time)) else .next (s.stallOn .busy)
  | _ => k (s.setRetain j (.active s.time))

/-- Anvil bytes that an ANVW is writing are read as free values, and those of a receive or a subscription until its completion has been
observed (R102, R111, R225). -/
def Tile.anvilFree (t : Tile) (cycle a : Nat) : Bool :=
  (t.eng.anvw.any fun j => decide (cycle < j.until_) && decide (t.anvilAddr j.acc j.base.toNat ≤ a)
    && decide (a < t.anvilAddr j.acc j.base.toNat + j.bytes)) ||
  t.unsettledAnvil a

/-- A byte of the weight space as an engine reads it. -/
def State.anvilByte (s : State) (a : Nat) : Byte :=
  if s.tile.anvilFree s.cycle a then s.freeBits 8 (0x8000000 + a) else Sparse.get 0 s.tile.anvil a

/-- The fields of sb in ANVW and ANVR: region, offset, length (R225). -/
def anvReg (y : Word) : Nat := (y.extractLsb' 32 3).toNat
def anvOff (y : Word) : Nat := (y.extractLsb' 0 22).toNat
def anvLen (y : Word) : Nat := (y.extractLsb' 35 29).toNat
def anvBad (y : Word) : Bool := decide (y.extractLsb' 22 10 ≠ 0)

/-- ANVW: L bytes into region j; AGENj rises when the engine's busy time ends (R225). -/
def execAnvw (a b : BitVec 5) (s : State) : Out :=
  let x := s.opS 0 a
  let y := s.opS 1 b
  let j := anvReg y.val
  let n := anvLen y.val
  s.confirmed <| s.mslot <| s.region j fun s => s.checked
    { names := [.s a.toNat, .s b.toNat], ops := [x, y],
      first := firstOf [resCheck a.toNat x 0, resCheck b.toNat y 3, s.anvilCheck j (anvOff y.val) n (anvBad y.val) false], mem := [(x.val, n)] }
    fun t =>
      let l := (List.range n).map fun i => s.ldByte (x.val + BitVec.ofNat 64 i).toNat
      let busy := (n + 255) / 256 + 4
      (t.onTile fun u =>
        let u := u.latchRace s.fresh s.cycle (u.anvilAddr j (anvOff y.val)) n
        { u with
          anvil := putBytes u.anvil (u.anvilAddr j (anvOff y.val)) l
          poison := (u.poison.filter fun p => !p.coveredAnvil (u.anvilAddr j (anvOff y.val)) n) ++
            (s.movePoison x.val (BitVec.ofNat 64 (u.anvilAddr j (anvOff y.val))) n).map Poison.anvil
          eng := { u.eng with
            anvw := u.eng.anvw ++ [⟨j, BitVec.ofNat 64 (anvOff y.val), 0, 1, n, s.cycle + busy, []⟩] } }).useStore busy
/-- ANVR: L bytes of region j into the tile store (R225). -/
def execAnvr (a b : BitVec 5) (s : State) : Out :=
  let x := s.opS 0 a
  let y := s.opS 1 b
  let j := anvReg y.val
  let n := anvLen y.val
  let from_ := s.tile.anvilAddr j (anvOff y.val)
  s.confirmed <| s.mslot <| s.region j fun s => s.checked
    { names := [.s a.toNat, .s b.toNat], ops := [x, y],
      first := firstOf [resCheck a.toNat x 0, resCheck b.toNat y 3, s.anvilCheck j (anvOff y.val) n (anvBad y.val) false], mem := [(x.val, n)] }
    fun t => ((t.blockWrite x.val n fun i => s.anvilByte (from_ + i)).onTile fun u =>
      u.poisonWords (s.tile.poison.flatMap fun p =>
        match p with
        | .anvil w => movedWords from_ x.val.toNat n w
        | _ => [])).useStore ((n + 255) / 256 + 4)
/-- ANVW_COMPLETE: the ANVWs whose engine time has ended complete, and the generation of each one's region rises (R156, R225). -/
def execAnvwComplete (s : State) : Out :=
  let due := s.tile.eng.anvw.filter fun j => decide (j.until_ ≤ s.cycle)
  .next (s.onTile fun t =>
    (due.foldl (fun t j => t.bumpAgen j.acc)
      { t with eng := { t.eng with anvw := t.eng.anvw.filter fun j => decide (s.cycle < j.until_) } }))

end Sys2Proof.Machine
end

