-- ==== Sys2Proof/Machine/Transcend.lean ====
section
/-!
DEFINITION. The correctly rounded functions of R233. A result that is not exact is computed to 700 fraction bits and rounded with
the rest taken as sticky. Results of `VEXP2`, `VLOG2`, `VTANH` and `VSIGM` are irrational except where they are returned exactly,
and no FP32 argument brings one within 2^-460 of a rounding boundary (log 20), so the rounding is that of the exact value.
-/
namespace Sys2Proof.Machine

/-- Fraction bits of the fixed-point values. -/
def fxBits : Nat := 700

/-- Terms 1/((2k + 1) z^(2k + 1)) of atanh for z = num/den with z² = p at `fxBits` bits: `t` is the present power of z. -/
def atanhGo (p : Nat) : Nat → Nat → Nat → Nat
  | 0, _, _ => 0
  | n + 1, k, t => t / (2 * k + 1) + atanhGo p n (k + 1) (t * p / 2 ^ fxBits)

/-- atanh of a fixed-point number up to 1/3. -/
def fxAtanh (z : Nat) : Nat := atanhGo (z * z / 2 ^ fxBits) 230 0 z

/-- ln 2. -/
def fxLn2 : Nat := 2 * fxAtanh (2 ^ fxBits / 3)

/-- Terms of the exponential series: `t` is the present term. -/
def expGo (r : Nat) : Nat → Nat → Nat → Nat
  | 0, _, _ => 0
  | n + 1, k, t => t + expGo r n (k + 1) (t * r / 2 ^ fxBits / (k + 1))

/-- e^r of a fixed-point number up to 1. -/
def fxExp (r : Nat) : Nat := expGo r 160 0 (2 ^ fxBits)

/-- e^−x for a fixed-point x. -/
def fxExpNeg (x : Nat) : Nat := let k := x / fxLn2 + 1; fxExp (k * fxLn2 - x) / 2 ^ k

/-- A magnitude in units of 2^-149 as a fixed-point number; from 2^10 on every function here has reached its limit. -/
def fxOf (m : Nat) : Nat := min m (2 ^ 159) * 2 ^ (fxBits - 149)

/-- ln(1 + n/d) of a fraction below 1. -/
def fxLn1 (n d : Nat) : Nat := 2 * fxAtanh (n * 2 ^ fxBits / (2 * d + n))

/-- VRCP: 1 / x (R233). -/
def fpRcp (rm : Nat) (a : W32) : W32 × BitVec 6 := fpDiv rm 0x3F800000 a

/-- VRSQ: 1 / √x (R233). -/
def fpRsq (rm : Nat) (a : W32) : W32 × BitVec 6 :=
  match f32 a with
  | .nan => (nan32, 0)
  | .inf n => if n then (nan32, flNV) else (0, 0)
  | .fin n m =>
    if m = 0 then (BitVec.ofNat 32 (Fmt.f32.infCode n), flDZ)
    else if n then (nan32, flNV)
    else
      let q := isqrt (2 ^ 1349 / m)
      pack32 (roundMag .f32 rm false false q (-600) (decide (q * q * m ≠ 2 ^ 1349)))

/-- VEXP2: 2^x; exact for an integer x (R233). -/
def fpExp2 (rm : Nat) (a : W32) : W32 × BitVec 6 :=
  match f32 a with
  | .nan => (nan32, 0)
  | .inf n => if n then (0, 0) else (BitVec.ofNat 32 (Fmt.f32.infCode false), 0)
  | .fin n m =>
    let x := (FVal.fin n m).int
    let i := x / 2 ^ 149
    let f := (x % 2 ^ 149).toNat
    let i' : Int := if i < -1000 then -1000 else if 1000 < i then 1000 else i
    if f = 0 then pack32 (roundMag .f32 rm false false 1 i' false)
    else pack32 (roundMag .f32 rm false false (fxExp (f * 2 ^ (fxBits - 149) * fxLn2 / 2 ^ fxBits)) (i' - fxBits) true)

/-- VLOG2: log2 x; exact for a power of two (R233). -/
def fpLog2 (rm : Nat) (a : W32) : W32 × BitVec 6 :=
  match f32 a with
  | .nan => (nan32, 0)
  | .inf n => if n then (nan32, flNV) else (BitVec.ofNat 32 (Fmt.f32.infCode false), 0)
  | .fin n m =>
    if m = 0 then (BitVec.ofNat 32 (Fmt.f32.infCode true), flDZ)
    else if n then (nan32, flNV)
    else
      let p := 2 ^ (bitLen m - 1)
      let e : Int := (bitLen m : Int) - 150
      if m = p then pack32 (roundInt .f32 rm e 0 false)
      else
        let v : Int := e * 2 ^ fxBits + ((fxLn1 (m - p) p * 2 ^ fxBits / fxLn2 : Nat) : Int)
        if v < 0 then pack32 (roundMag .f32 rm false true (v.natAbs - 1) (-fxBits) true)
        else pack32 (roundMag .f32 rm false false v.natAbs (-fxBits) true)

/-- VTANH: (1 − e^−2|x|) / (1 + e^−2|x|) with the sign of x (R233). -/
def fpTanh (rm : Nat) (a : W32) : W32 × BitVec 6 :=
  match f32 a with
  | .nan => (nan32, 0)
  | .inf n => (BitVec.ofNat 32 (Fmt.f32.sign n 0x3F800000), 0)
  | .fin n m =>
    if m = 0 then (a, 0)
    else
      let e := fxExpNeg (fxOf (2 * m))
      pack32 (roundMag .f32 rm false n ((2 ^ fxBits - 1 - e) * 2 ^ fxBits / (2 ^ fxBits + e)) (-fxBits) true)

/-- VSIGM: 1 / (1 + e^−x) (R233). -/
def fpSigm (rm : Nat) (a : W32) : W32 × BitVec 6 :=
  match f32 a with
  | .nan => (nan32, 0)
  | .inf n => (if n then 0 else 0x3F800000, 0)
  | .fin n m =>
    if m = 0 then (0x3F000000, 0)
    else
      let e := fxExpNeg (fxOf m)
      let q := if n then e * 2 ^ fxBits / (2 ^ fxBits + e) else (2 ^ fxBits - 1) * 2 ^ fxBits / (2 ^ fxBits + e)
      pack32 (roundMag .f32 rm false false q (-fxBits) true)

end Sys2Proof.Machine
end

