-- ==== Sys2Proof/Machine/Vector.lean ====
section
/-!
DEFINITION. The V slot (R228 to R248, R365): 64 lanes under a governing mask. Nothing here checks a residue, and only VPACK4 and
VUNPK4 trap.
-/
namespace Sys2Proof.Machine

/-! ### Lanes and masks (R228 to R230) -/

/-- Whether lane `i` is selected (R229). -/
def sel (mk : Word) (i : Nat) : Bool := mk.getLsbD i

/-- What one lane receives: its value, its residue, its flags. -/
structure LaneOut where
  val   : W32
  res   : BitVec 4
  flags : BitVec 6
  deriving DecidableEq, Repr

/-- A result with the residue of its own value (R230). -/
def LaneOut.of (r : W32 × BitVec 6) : LaneOut := ⟨r.1, resOf r.1.toNat, r.2⟩
def LaneOut.plain (x : W32) : LaneOut := ⟨x, resOf x.toNat, 0⟩

/-- The vector and the flags of 64 lane results. -/
def gather (l : List LaneOut) : VVal × BitVec 6 :=
  (VVal.ofLanes (fun i => (l.getD i ⟨0, 0, 0⟩).val) (fun i => (l.getD i ⟨0, 0, 0⟩).res), l.foldl (fun f o => f ||| o.flags) 0)

/-- Lane results under a mask: an unselected lane keeps its value and its residue and raises nothing (R229). -/
def merged (mk : Word) (old : VVal) (f : Nat → LaneOut) : List LaneOut :=
  (List.range 64).map fun i => if sel mk i then f i else ⟨lane old.bits i, old.laneRes i, 0⟩

/-- The destination is a source where lanes of it are kept (R229). -/
def State.keeps (s : State) (d : BitVec 5) (m : BitVec 3) : List Reg :=
  if s.rdM m = BitVec.allOnes 64 then [] else [.v d.toNat]

/-- An operation that computes the selected lanes of vd (R229). -/
def State.vop (s : State) (d : BitVec 5) (m : BitVec 3) (lat : Nat) (c : Checks) (f : Nat → LaneOut) : Out :=
  s.checked { c with regs := c.regs ++ .m m.toNat :: s.keeps d m } fun t =>
    let r := gather (merged (s.rdM m) (s.rdV d) f)
    t.wrV d r.1 lat r.2

/-- A lane operation of two vectors. -/
def State.vop2 (s : State) (d a b : BitVec 5) (m : BitVec 3) (lat : Nat) (f : W32 → W32 → W32 × BitVec 6) : Out :=
  let x := (s.rdV a).bits
  let y := (s.rdV b).bits
  s.vop d m lat { regs := [.v a.toNat, .v b.toNat] } fun i => LaneOut.of (f (lane x i) (lane y i))

/-- A lane operation of one vector. -/
def State.vop1 (s : State) (d a : BitVec 5) (m : BitVec 3) (lat : Nat) (f : W32 → W32 × BitVec 6) : Out :=
  let x := (s.rdV a).bits
  s.vop d m lat { regs := [.v a.toNat] } fun i => LaneOut.of (f (lane x i))

/-- An integer lane operation without flags. -/
def State.viop (s : State) (d a b : BitVec 5) (m : BitVec 3) (f : W32 → W32 → W32) : Out := s.vop2 d a b m 4 fun x y => (f x y, 0)

/-- VIADD, VISUB and VIMUL form the residue from the operands' residues; 2^32 leaves 1 modulo 15 (R230, R343). -/
def laneAdd (x y : W32) (p q : BitVec 4) : LaneOut :=
  ⟨x + y, BitVec.ofNat 4 ((p.toNat + q.toNat + 15 - (x.toNat + y.toNat) / 2 ^ 32) % 15), 0⟩
def laneSub (x y : W32) (p q : BitVec 4) : LaneOut :=
  ⟨x - y, BitVec.ofNat 4 ((p.toNat + 30 - q.toNat + (if x.toNat < y.toNat then 1 else 0)) % 15), 0⟩
def laneMul (x y : W32) (p q : BitVec 4) : LaneOut :=
  ⟨x * y, BitVec.ofNat 4 ((p.toNat * q.toNat + 15 - x.toNat * y.toNat / 2 ^ 32 % 15) % 15), 0⟩

/-- An integer lane operation that carries residues. -/
def State.vrop (s : State) (d a b : BitVec 5) (m : BitVec 3) (f : W32 → W32 → BitVec 4 → BitVec 4 → LaneOut) : Out :=
  let x := s.rdV a
  let y := s.rdV b
  s.vop d m 4 { regs := [.v a.toNat, .v b.toNat] } fun i => f (lane x.bits i) (lane y.bits i) (x.laneRes i) (y.laneRes i)

/-- The selected lanes of a vector, in rising order. -/
def selected (mk : Word) (v : VBits) : List W32 := ((List.range 64).filter (sel mk)).map (lane v)

/-- A reduction over the selected lanes into fd (R234). -/
def State.vreduce (s : State) (d : BitVec 4) (a : BitVec 5) (m : BitVec 3) (f : List W32 → W32 × BitVec 6) : Out :=
  let r := f (selected (s.rdM m) (s.rdV a).bits)
  s.checked { regs := [.v a.toNat, .m m.toNat] } fun s => s.wrF d r.1 8 r.2

/-! ### R232 to R234 -/

/-- VADD (R232). -/
def execVadd (d a b : BitVec 5) (m : BitVec 3) (s : State) : Out := s.vop2 d a b m 4 (fpAdd s.rm)
/-- VSUB (R232). -/
def execVsub (d a b : BitVec 5) (m : BitVec 3) (s : State) : Out := s.vop2 d a b m 4 (fpSub s.rm)
/-- VMUL (R232). -/
def execVmul (d a b : BitVec 5) (m : BitVec 3) (s : State) : Out := s.vop2 d a b m 4 (fpMul s.rm)
/-- VMIN: least, −0 below +0 (R232). -/
def execVmin (d a b : BitVec 5) (m : BitVec 3) (s : State) : Out := s.vop2 d a b m 4 fun x y => (fpMin x y, 0)
/-- VMAX: greatest, −0 below +0 (R232). -/
def execVmax (d a b : BitVec 5) (m : BitVec 3) (s : State) : Out := s.vop2 d a b m 4 fun x y => (fpMax x y, 0)
/-- VABS: FABS on each lane (R232). -/
def execVabs (d a : BitVec 5) (m : BitVec 3) (s : State) : Out := s.vop1 d a m 4 fun x => (fpAbs x, 0)
/-- VNEG: FNEG on each lane (R232). -/
def execVneg (d a : BitVec 5) (m : BitVec 3) (s : State) : Out := s.vop1 d a m 4 fun x => (fpNeg x, 0)

/-- VFMA and VFMS: ±va × vb + vd with one rounding; vd is a source (R232). -/
def State.vfma (s : State) (d a b : BitVec 5) (m : BitVec 3) (g : FVal → FVal) : Out :=
  let x := (s.rdV a).bits
  let y := (s.rdV b).bits
  let z := (s.rdV d).bits
  s.vop d m 4 { regs := [.v a.toNat, .v b.toNat, .v d.toNat] } fun i =>
    LaneOut.of (fpFma s.rm (g (f32 (lane x i))) (f32 (lane y i)) (f32 (lane z i)))
/-- VFMA (R232). -/
def execVfma (d a b : BitVec 5) (m : BitVec 3) (s : State) : Out := s.vfma d a b m id
/-- VFMS: FFMA with fa negated (R232). -/
def execVfms (d a b : BitVec 5) (m : BitVec 3) (s : State) : Out := s.vfma d a b m FVal.negate

/-- VRCP (R233). -/
def execVrcp (d a : BitVec 5) (m : BitVec 3) (s : State) : Out := s.vop1 d a m 10 (fpRcp s.rm)
/-- VRSQ (R233). -/
def execVrsq (d a : BitVec 5) (m : BitVec 3) (s : State) : Out := s.vop1 d a m 10 (fpRsq s.rm)
/-- VEXP2 (R233). -/
def execVexp2 (d a : BitVec 5) (m : BitVec 3) (s : State) : Out := s.vop1 d a m 10 (fpExp2 s.rm)
/-- VLOG2 (R233). -/
def execVlog2 (d a : BitVec 5) (m : BitVec 3) (s : State) : Out := s.vop1 d a m 10 (fpLog2 s.rm)
/-- VTANH (R233). -/
def execVtanh (d a : BitVec 5) (m : BitVec 3) (s : State) : Out := s.vop1 d a m 10 (fpTanh s.rm)
/-- VSIGM (R233). -/
def execVsigm (d a : BitVec 5) (m : BitVec 3) (s : State) : Out := s.vop1 d a m 10 (fpSigm s.rm)
/-- VSQRT (R233). -/
def execVsqrt (d a : BitVec 5) (m : BitVec 3) (s : State) : Out := s.vop1 d a m 10 (fpSqrt s.rm)

/-- The sum of R234: exact, rounded once under RM; an exact zero is +0 when every lane is +0, −0 when every lane is −0, and else
−0 only under RM = 2. -/
def vsum (rm : Nat) (l : List W32) : W32 × BitVec 6 :=
  let acc := l.foldl (fun a x => a.add 0 (f32 x)) SumAcc.empty
  if acc.nan || acc.pinf || acc.ninf || acc.sum ≠ 0 then pack32 (acc.round .f32 rm 0)
  else if l.all (fun x => x == 0) then (0, 0)
  else pack32 (roundInt .f32 rm 0 0 (acc.allNegZero || rm == 2))

/-- VSUM (R234). -/
def execVsum (d : BitVec 4) (a : BitVec 5) (m : BitVec 3) (s : State) : Out := s.vreduce d a m (vsum s.rm)
/-- VRMAX: −inf when no lane is selected (R234). -/
def execVrmax (d : BitVec 4) (a : BitVec 5) (m : BitVec 3) (s : State) : Out := s.vreduce d a m fun l => (l.foldl fpMax 0xFF800000, 0)
/-- VRMIN: +inf when no lane is selected (R234). -/
def execVrmin (d : BitVec 4) (a : BitVec 5) (m : BitVec 3) (s : State) : Out := s.vreduce d a m fun l => (l.foldl fpMin 0x7F800000, 0)

/-! ### R235 to R237 -/

/-- VIADD (R235). -/
def execViadd (d a b : BitVec 5) (m : BitVec 3) (s : State) : Out := s.vrop d a b m laneAdd
/-- VISUB (R235). -/
def execVisub (d a b : BitVec 5) (m : BitVec 3) (s : State) : Out := s.vrop d a b m laneSub
/-- VIMUL (R235). -/
def execVimul (d a b : BitVec 5) (m : BitVec 3) (s : State) : Out := s.vrop d a b m laneMul
/-- VAND (R235). -/
def execVand (d a b : BitVec 5) (m : BitVec 3) (s : State) : Out := s.viop d a b m fun x y => x &&& y
/-- VOR (R235). -/
def execVor (d a b : BitVec 5) (m : BitVec 3) (s : State) : Out := s.viop d a b m fun x y => x ||| y
/-- VXOR (R235). -/
def execVxor (d a b : BitVec 5) (m : BitVec 3) (s : State) : Out := s.viop d a b m fun x y => x ^^^ y
/-- VSHL by vb[4:0] (R235). -/
def execVshl (d a b : BitVec 5) (m : BitVec 3) (s : State) : Out := s.viop d a b m fun x y => x <<< (y.toNat % 32)
/-- VSHR by vb[4:0], zero fill (R235). -/
def execVshr (d a b : BitVec 5) (m : BitVec 3) (s : State) : Out := s.viop d a b m fun x y => x >>> (y.toNat % 32)
/-- VSRA by vb[4:0], sign fill (R235). -/
def execVsra (d a b : BitVec 5) (m : BitVec 3) (s : State) : Out := s.viop d a b m fun x y => x.sshiftRight (y.toNat % 32)
/-- VIMIN, signed (R235). -/
def execVimin (d a b : BitVec 5) (m : BitVec 3) (s : State) : Out := s.viop d a b m fun x y => if x.slt y then x else y
/-- VIMAX, signed (R235). -/
def execVimax (d a b : BitVec 5) (m : BitVec 3) (s : State) : Out := s.viop d a b m fun x y => if x.slt y then y else x

/-- VCMP's conditions: feq 0, fne 1, flt 2, fle 3, ieq 4, ine 5, ilt 6, ige 7, iltz 8, igez 9 (R236). -/
def laneCond (c : Nat) (x y : W32) : Bool :=
  if c < 4 then fpCmp c x y
  else
    match c with
    | 4 => x == y
    | 5 => x != y
    | 6 => x.slt y
    | 7 => !x.slt y
    | 8 => x.ult y
    | _ => !x.ult y

/-- A mask from a predicate on lane numbers. -/
def maskOf (f : Nat → Bool) : Word := BitVec.ofNat 64 (packFields 1 (fun i => if f i then 1 else 0) 64)

/-- VCMP: bit `i` is the condition on selected lanes and 0 on the others (R236). -/
def execVcmp (k : BitVec 3) (a b : BitVec 5) (m : BitVec 3) (c : BitVec 8) (s : State) : Out :=
  let x := (s.rdV a).bits
  let y := (s.rdV b).bits
  let mk := s.rdM m
  s.checked { regs := [.v a.toNat, .v b.toNat, .m m.toNat] } fun s =>
    s.wrM k (maskOf fun i => sel mk i && laneCond c.toNat (lane x i) (lane y i)) 4

/-- VSEL writes every lane: that of va where mk is 1, else that of vb (R237). -/
def execVsel (d a b : BitVec 5) (k : BitVec 3) (s : State) : Out :=
  let x := (s.rdV a).bits
  let y := (s.rdV b).bits
  let mk := s.rdM k
  s.checked { regs := [.v a.toNat, .v b.toNat, .m k.toNat] } fun s =>
    s.wrV d (VVal.ofBits (ofLanes fun i => if sel mk i then lane x i else lane y i)) 4

/-! ### Conversions (R238) -/

/-- Element `i` of `w` bits of a packed register (R228). -/
def element (w : Nat) (v : VBits) (i : Nat) : Nat := v.toNat / 2 ^ (w * i) % 2 ^ w

/-- Writes the selected elements of `w` bits; every other bit keeps its value, and a lane with no selected element its residue
(R229, R230, R238). -/
def packElements (w : Nat) (mk : Word) (old : VVal) (f : Nat → Nat) : VVal :=
  let low := packFields w (fun i => if sel mk i then f i else element w old.bits i) 64
  let per := 32 / w
  let bits := ofLanes fun n => if n < 64 / per then BitVec.ofNat 32 (low / 2 ^ (32 * n)) else lane old.bits n
  VVal.ofLanes (lane bits) fun n =>
    if n < 64 / per && (List.range per).any (fun j => sel mk (per * n + j)) then resOf (lane bits n).toNat else old.laneRes n

/-- A narrowing conversion: packed elements of a format. -/
def State.vnarrow (s : State) (d a : BitVec 5) (m : BitVec 3) (f : Fmt) : Out :=
  let x := (s.rdV a).bits
  let mk := s.rdM m
  let old := s.rdV d
  s.checked { regs := [.v a.toNat, .m m.toNat, .v d.toNat] } fun t =>
    let l := (List.range 64).map fun i => if sel mk i then narrow f s.rm s.sat8 (f32 (lane x i)) else (0, 0)
    t.wrV d (packElements f.width mk old fun i => (l.getD i (0, 0)).1) 6 (l.foldl (fun g r => g ||| r.2) 0)

/-- A widening conversion: exact (R75). -/
def State.vwiden (s : State) (d a : BitVec 5) (m : BitVec 3) (f : Fmt) : Out :=
  let x := (s.rdV a).bits
  s.vop d m 6 { regs := [.v a.toNat] } fun i => LaneOut.plain (widen f (element f.width x i))

/-- VCVT f2bf (R238). -/
def execVcvtF2bf (d a : BitVec 5) (m : BitVec 3) (s : State) : Out := s.vnarrow d a m .bf16
/-- VCVT bf2f (R238). -/
def execVcvtBf2f (d a : BitVec 5) (m : BitVec 3) (s : State) : Out := s.vwiden d a m .bf16
/-- VCVT f2h (R238). -/
def execVcvtF2h (d a : BitVec 5) (m : BitVec 3) (s : State) : Out := s.vnarrow d a m .f16
/-- VCVT h2f (R238). -/
def execVcvtH2f (d a : BitVec 5) (m : BitVec 3) (s : State) : Out := s.vwiden d a m .f16
/-- VCVT f2e4 (R238). -/
def execVcvtF2e4 (d a : BitVec 5) (m : BitVec 3) (s : State) : Out := s.vnarrow d a m .e4m3
/-- VCVT e42f (R238). -/
def execVcvtE42f (d a : BitVec 5) (m : BitVec 3) (s : State) : Out := s.vwiden d a m .e4m3
/-- VCVT f2e5 (R238). -/
def execVcvtF2e5 (d a : BitVec 5) (m : BitVec 3) (s : State) : Out := s.vnarrow d a m .e5m2
/-- VCVT e52f (R238). -/
def execVcvtE52f (d a : BitVec 5) (m : BitVec 3) (s : State) : Out := s.vwiden d a m .e5m2
/-- VCVT f2i (R238). -/
def execVcvtF2i (d a : BitVec 5) (m : BitVec 3) (s : State) : Out := s.vop1 d a m 6 fun x =>
  let r := fpToInt s.rm (-2 ^ 31) (2 ^ 31 - 1) (f32 x)
  (BitVec.ofInt 32 r.1, r.2)
/-- VCVT i2f (R238). -/
def execVcvtI2f (d a : BitVec 5) (m : BitVec 3) (s : State) : Out := s.vop1 d a m 6 fun x => intToFp s.rm x.toInt

/-! ### R239 to R242 -/

/-- VBMAX: the greatest magnitude among the selected lanes of the lane's block (R242). -/
def execVbmax (d a : BitVec 5) (m : BitVec 3) (s : State) : Out :=
  let x := (s.rdV a).bits
  let mk := s.rdM m
  let top (b : Nat) : W32 :=
    (((List.range 32).map (32 * b + ·)).filter (sel mk)).foldl (fun v i => fpMax v (fpAbs (lane x i))) 0
  s.vop d m 8 { regs := [.v a.toNat] } fun i => LaneOut.plain (top (i / 32))

/-- The sidecar of block `b` in vb (R239). -/
def sidecar (v : VBits) (b : Nat) : Word := v.extractLsb' (64 * b) 64
def scaleOf (sc : Word) : W32 := sc.extractLsb' 0 32
def extraOf (sc : Word) : Nat := (sc.extractLsb' 32 8).toNat

/-- TINFO of SCALE (R336): index, block along K, source, the offending word. -/
def scaleInfo (index block source : Nat) (w : W32) : Word :=
  BitVec.ofNat 64 (index % 64 + block % 4 * 2 ^ 6 + source * 2 ^ 8 + w.toNat * 2 ^ 32)

/-- The first invalid sidecar of VPACK4 and VUNPK4 (R365). -/
def sidecarCheck (v : VBits) : Option (Nat × Word) :=
  ((List.range 2).find? fun b => !sidecarOk (sidecar v b)).map fun b => (tcSCALE, scaleInfo 0 b 3 (scaleOf (sidecar v b)))

/-- VPACK4 (R240). -/
def execVpack4 (d a b : BitVec 5) (s : State) : Out :=
  let x := (s.rdV a).bits
  let y := (s.rdV b).bits
  s.checked { regs := [.v a.toNat, .v b.toNat], first := sidecarCheck y } fun s =>
    let l := (List.range 64).map fun i => packE2m1 (lane x i) (scaleOf (sidecar y (i / 32))) (extraOf (sidecar y (i / 32)))
    s.wrV d (VVal.ofBits (BitVec.ofNat 2048 (packFields 4 (fun i => (l.getD i (0, 0)).1) 64))) 6 (l.foldl (fun g r => g ||| r.2) 0)

/-- SCALE × the decoded code, rounded once to nearest even (R241). -/
def unpackE2m1 (sc : Word) (code : Nat) : W32 × BitVec 6 :=
  match e2m1 (extraOf sc) code, f32 (scaleOf sc) with
  | .fin n m, .fin _ k => pack32 (roundMag .f32 0 false n (m * k) (-298) false)
  | _, _ => (nan32, 0)

/-- VUNPK4 (R241). -/
def execVunpk4 (d a b : BitVec 5) (s : State) : Out :=
  let x := (s.rdV a).bits
  let y := (s.rdV b).bits
  s.checked { regs := [.v a.toNat, .v b.toNat], first := sidecarCheck y } fun s =>
    let r := gather ((List.range 64).map fun i => LaneOut.of (unpackE2m1 (sidecar y (i / 32)) (element 4 x i)))
    s.wrV d r.1 6 r.2

/-! ### Moves (R243, R244) -/

/-- VBCAST (R243). -/
def execVbcast (d a : BitVec 5) (m : BitVec 3) (s : State) : Out :=
  let x := s.opS 0 a
  s.vop d m 4 { names := [.s a.toNat], ops := [x] } fun _ => LaneOut.plain (x.val.extractLsb' 0 32)
/-- VBCASTF (R243). -/
def execVbcastf (d : BitVec 5) (f : BitVec 4) (m : BitVec 3) (s : State) : Out :=
  let x := s.opF 0 f
  s.vop d m 4 { names := [.f f.toNat], ops := [SVal.ofF x] } fun _ => LaneOut.plain x
/-- VSHUF: lane vb[5:0] of va (R243). -/
def execVshuf (d a b : BitVec 5) (m : BitVec 3) (s : State) : Out :=
  let x := (s.rdV a).bits
  let y := (s.rdV b).bits
  s.vop d m 4 { regs := [.v a.toNat, .v b.toNat] } fun i => LaneOut.plain (lane x ((lane y i).toNat % 64))
/-- VSLIDE: lane i + n of va followed by vb (R243). -/
def execVslide (d a b : BitVec 5) (m : BitVec 3) (n : BitVec 6) (s : State) : Out :=
  let x := (s.rdV a).bits
  let y := (s.rdV b).bits
  s.vop d m 4 { regs := [.v a.toNat, .v b.toNat] } fun i =>
    LaneOut.plain (if i + n.toNat ≤ 63 then lane x (i + n.toNat) else lane y (i + n.toNat - 64))
/-- VLANE (R243). -/
def execVlane (d : BitVec 5) (m : BitVec 3) (s : State) : Out := s.vop d m 4 {} fun i => LaneOut.plain (BitVec.ofNat 32 i)
/-- VGETS: the lane with its residue (R230, R244). -/
def execVgets (d a : BitVec 5) (n : BitVec 6) (s : State) : Out :=
  let x := s.rdV a
  s.checked { regs := [.v a.toNat] } fun s => s.wrS d ⟨(lane x.bits n.toNat).zeroExtend 64, x.laneRes n.toNat⟩ 4
/-- VPUTS: one lane; every other one unchanged (R244). -/
def execVputs (d a : BitVec 5) (n : BitVec 6) (s : State) : Out :=
  let x := s.opS 0 a
  let old := s.rdV d
  s.checked { names := [.s a.toNat], ops := [x], regs := [.v d.toNat] } fun s =>
    s.wrV d (gather (merged (maskOf (· == n.toNat)) old fun _ => LaneOut.plain (x.val.extractLsb' 0 32))).1 4

/-! ### Masks (R245) -/

/-- VMOVM mk, sa (R245). -/
def execVmovmToMask (k : BitVec 3) (a : BitVec 5) (s : State) : Out :=
  let x := s.opS 0 a
  s.checked { names := [.s a.toNat], ops := [x] } fun s => s.wrM k x.val 4
/-- A mask operation. -/
def State.mop (s : State) (k i j : BitVec 3) (f : Word → Word → Word) : Out :=
  let v := f (s.rdM i) (s.rdM j)
  s.checked { regs := [.m i.toNat, .m j.toNat] } fun s => s.wrM k v 4
/-- VMAND (R245). -/
def execVmand (k i j : BitVec 3) (s : State) : Out := s.mop k i j (· &&& ·)
/-- VMOR (R245). -/
def execVmor (k i j : BitVec 3) (s : State) : Out := s.mop k i j (· ||| ·)
/-- VMNOT (R245). -/
def execVmnot (k i : BitVec 3) (s : State) : Out := s.mop k i i fun x _ => ~~~x
/-- VMOVM sd, mi: a fresh residue (R245). -/
def execVmovmToScalar (d : BitVec 5) (i : BitVec 3) (s : State) : Out :=
  let x := s.rdM i
  s.checked { regs := [.m i.toNat] } fun s => s.wrS d (SVal.of x) 4

/-! ### Exact accumulation (R246 to R248) -/

/-- Contributes the selected lanes, each read by `g` (R78, R246). -/
def State.contributeXA (s : State) (d : BitVec 1) (a : BitVec 5) (m : BitVec 3) (g : W32 → FVal) : Out :=
  let x := (s.rdV a).bits
  let mk := s.rdM m
  s.checked { regs := [.v a.toNat, .m m.toNat, .xa d.toNat] } fun s =>
    s.wrXA d 6 (sel mk) fun i acc => acc.contribute (g (lane x i))
/-- VXAC f32 (R246). -/
def execVxacF32 (d : BitVec 1) (a : BitVec 5) (m : BitVec 3) (s : State) : Out := s.contributeXA d a m f32
/-- VXAC bf16: bits 31:16 ignored (R246). -/
def execVxacBf16 (d : BitVec 1) (a : BitVec 5) (m : BitVec 3) (s : State) : Out :=
  s.contributeXA d a m fun x => Fmt.bf16.decode (x.toNat % 65536)
/-- VXRD f32 (R79, R247). -/
def execVxrdF32 (d : BitVec 5) (a : BitVec 1) (m : BitVec 3) (s : State) : Out :=
  s.vop d m 8 { regs := [.xa a.toNat] } fun i => LaneOut.of (pack32 ((s.rdXA a i).read .f32))
/-- VXRD bf16 (R79, R247). -/
def execVxrdBf16 (d : BitVec 5) (a : BitVec 1) (m : BitVec 3) (s : State) : Out :=
  s.vop d m 8 { regs := [.xa a.toNat] } fun i => LaneOut.of (pack32 ((s.rdXA a i).read .bf16))
/-- VXCLR (R247). -/
def execVxclr (d : BitVec 1) (m : BitVec 3) (s : State) : Out :=
  let mk := s.rdM m
  s.checked { regs := .m m.toNat :: if mk = BitVec.allOnes 64 then [] else [.xa d.toNat] } fun s =>
    s.wrXA d 4 (sel mk) fun _ _ => XA.clear

end Sys2Proof.Machine
end

