-- ==== Sys2Proof/Machine/Belief.lean ====
section
/-!
DEFINITION. The belief unit of the G slot (R275 to R288, R369). Every result is rounded once to nearest even; no FPFLAGS bit is set.
-/
namespace Sys2Proof.Machine

/-- Elements of a block. -/
def Belief.lamAt (b : Belief) (i j : Nat) : W32 := lane b.lam (8 * i + j)
def Belief.etaAt (b : Belief) (i : Nat) : W32 := b.eta.extractLsb' (32 * i) 32

/-- Whether an FP32 pattern is infinite or NaN. -/
def notFinite (x : W32) : Bool := decide ((x.toNat / 2 ^ 23) % 256 = 255)

/-- A block of dimension `dim`: elements beyond it are +0, and NF is computed from the others (R275). -/
def Belief.make (dim : Nat) (l : Nat → Nat → W32) (h : Nat → W32) (rg inv : Bool) : Belief :=
  { lam := ofLanes fun n => if n / 8 < dim && n % 8 < dim then l (n / 8) (n % 8) else 0
    eta := BitVec.ofNat 256 (packFields 32 (fun i => if i < dim then (h i).toNat else 0) 8)
    dim
    nf := (List.range dim).any fun i => notFinite (h i) || (List.range dim).any fun j => notFinite (l i j)
    rg, inv }

/-- A block whose elements, dimension and flags are free; elements beyond the dimension are +0, and NF follows from the others (R182,
R275). -/
def State.freeB (s : State) (site : Nat) : Belief :=
  Belief.make (1 + (s.freeBits 3 (site + 2)).toNat) (fun i j => lane (s.freeBits 2048 site) (8 * i + j))
    (fun i => (s.freeBits 256 (site + 1)).extractLsb' (32 * i) 32) ((s.freeBits 1 (site + 4)) == 1) ((s.freeBits 1 (site + 5)) == 1)

/-- Block `n`: a replay reads it from the register, as blocks are not captured (R288). -/
def State.rdB (s : State) (n : BitVec 4) : Belief :=
  if s.flying (.b n.toNat) then s.freeB (0x5200000 + 16 * n.toNat) else s.tile.thr.regs.getB n.toNat

/-- Writes a block with bound `lat` (R185). -/
def State.wrB (s : State) (n : BitVec 4) (b : Belief) (lat : Nat) : State :=
  let b' := if s.clash (.b n.toNat) then s.freeB (0x5300000 + 16 * n.toNat) else b
  ((s.onRegs fun r => r.setB n.toNat b').clean (.b n.toNat)).land (.b n.toNat) lat 0

/-! ### Images (R276, R280) -/

/-- Whether a 320-byte image is invalid (R276). -/
def imageInvalid (l : List Byte) : Bool :=
  let dim := (l.getD 288 0).toNat
  let flags := (l.getD 289 0).toNat
  decide (dim = 0) || decide (8 < dim) || decide (4 ≤ flags) || ((l.drop 290).take 30).any (· != 0)

/-- The block of an image (R280). -/
def Belief.ofImage (m : List Byte) : Belief :=
  let w (o : Nat) : W32 := BitVec.ofNat 32 (ofLE ((m.drop o).take 4))
  let dim := if imageInvalid m then 8 else (m.getD 288 0).toNat
  Belief.make dim (fun i j => w (32 * i + 4 * j)) (fun i => w (256 + 4 * i)) ((m.getD 289 0).getLsbD 1) (imageInvalid m)

/-- The image of a block (R276). -/
def Belief.image (b : Belief) : List Byte :=
  toLE 256 b.lam.toNat ++ toLE 32 b.eta.toNat ++ [BitVec.ofNat 8 b.dim,
    BitVec.ofNat 8 ((if b.nf then 1 else 0) + (if b.rg then 2 else 0) + (if b.inv then 4 else 0))] ++ List.replicate 30 0

/-- BLD (R280). -/
def execBld (d : BitVec 4) (a : BitVec 5) (o : BitVec 16) (s : State) : Out :=
  let x := s.opS 0 a
  let addr := x.val + o.signExtend 64
  s.mslot <| s.checked
    { names := [.s a.toNat], ops := [x], first := resCheck a.toNat x 0, mem := [(addr, 320)], reads := [(addr, 320)] } fun t =>
    t.wrB d (Belief.ofImage (s.ldBytes addr 320)) 4
/-- BST, a store (R280). -/
def execBst (d : BitVec 4) (a : BitVec 5) (o : BitVec 16) (s : State) : Out :=
  let x := s.opS 0 a
  let addr := x.val + o.signExtend 64
  let b := s.rdB d
  s.mslot <| s.storeRoom <| s.checked
    { names := [.s a.toNat], ops := [x], regs := [.b d.toNat], first := resCheck a.toNat x 0, mem := [(addr, 320)] } fun s =>
    s.store addr b.image
/-- BZERO (R275). -/
def execBzero (d : BitVec 4) (s : State) : Out := s.checked {} fun s => s.wrB d Belief.zero 1

/-! ### Combining (R281, R282) -/

/-- An elementwise operation of two blocks (R281). -/
def Belief.zip (f : W32 → W32 → W32) (a b : Belief) : Belief :=
  Belief.make (max a.dim b.dim) (fun i j => f (a.lamAt i j) (b.lamAt i j)) (fun i => f (a.etaAt i) (b.etaAt i)) (a.rg || b.rg) (a.inv || b.inv)

/-- A block operation of two blocks. -/
def State.bop (s : State) (d a b : BitVec 4) (f : Belief → Belief → Belief) : Out :=
  let x := s.rdB a
  let y := s.rdB b
  s.checked { regs := [.b a.toNat, .b b.toNat] } fun s => s.wrB d (f x y) 4
/-- BADD (R281). -/
def execBadd (d a b : BitVec 4) (s : State) : Out := s.bop d a b (Belief.zip fun x y => (fpAdd 0 x y).1)
/-- BSUB (R281). -/
def execBsub (d a b : BitVec 4) (s : State) : Out := s.bop d a b (Belief.zip fun x y => (fpSub 0 x y).1)

/-- BPERM's selector of a position: the source index unless absent (R282). -/
def selector (y : Word) (dim t : Nat) : Option Nat :=
  let n := (y.extractLsb' (4 * t) 4).toNat
  if 8 ≤ n || dim ≤ n % 8 then none else some (n % 8)

/-- BPERM (R282). -/
def Belief.permute (b : Belief) (y : Word) : Belief :=
  Belief.make ((y.extractLsb' 32 3).toNat + 1)
    (fun t u => match selector y b.dim t, selector y b.dim u with | some i, some j => b.lamAt i j | _, _ => 0)
    (fun t => match selector y b.dim t with | some i => b.etaAt i | none => 0) b.rg b.inv
def execBperm (d a : BitVec 4) (b : BitVec 5) (s : State) : Out :=
  let x := s.rdB a
  let y := s.opS 0 b
  s.checked { names := [.s b.toNat], ops := [y], regs := [.b a.toNat] } fun s => s.wrB d (x.permute y.val) 4

/-! ### Elimination (R283, R284) -/

/-- The working values of an elimination: U(i, j) for i ≤ j at index 8i + j, h, the reciprocals by index, the indices still there. -/
structure Elim where
  u    : List W32
  h    : List W32
  r    : List W32
  left : List Nat
  deriving DecidableEq, Repr

def Elim.at (e : Elim) (i j : Nat) : W32 := e.u.getD (8 * min i j + max i j) 0

/-- One elimination step, which reads only values from before it (R283): the failing pivot's KIND and INDEX, or the new values. Where THR is NaN
and the pivot is not, KIND is 0 (log 107). -/
def Elim.step (x : Elim) (thr : W32) (e : Nat) : Except (Nat × Nat) Elim :=
  let piv := x.at e e
  if !fpCmp 2 thr piv then .error (if (f32 piv).isNan then 1 else 0, e)
  else
    let left := x.left.filter (· != e)
    let r := (fpDiv 0 0x3F800000 piv).1
    let l (i : Nat) : W32 := (fpMul 0 (x.at i e) r).1
    let less (old li y : W32) : W32 := (fpFma 0 (f32 li).negate (f32 y) (f32 old)).1
    .ok
      { u := (List.range 64).map fun n =>
          if left.contains (n / 8) && left.contains (n % 8) && n / 8 ≤ n % 8 then less (x.at (n / 8) (n % 8)) (l (n / 8)) (x.at e (n % 8))
          else x.u.getD n 0
        h := (List.range 8).map fun i => if left.contains i then less (x.h.getD i 0) (l i) (x.h.getD e 0) else x.h.getD i 0
        r := x.r.set e r
        left }

/-- The eliminations in the order given. -/
def Elim.run (thr : W32) : List Nat → Elim → Except (Nat × Nat) Elim
  | [], x => .ok x
  | e :: l, x => match x.step thr e with | .ok y => Elim.run thr l y | .error k => .error k

/-- Eliminates the indices of a block that `gone` names, in rising order; a block with INV or NF fails (R283). -/
def Belief.eliminate (b : Belief) (thr : W32) (gone : Nat → Bool) : Except (Nat × Nat) Elim :=
  if b.inv || b.nf then .error (1, 0)
  else
    Elim.run thr ((List.range b.dim).filter gone)
      ⟨(List.range 64).map fun n => lane b.lam n, (List.range 8).map b.etaAt, List.replicate 8 0, List.range b.dim⟩

/-- BMARG's result from the eliminated block (R283). -/
def Elim.marginal (x : Elim) (rg : Bool) : Belief :=
  if x.left.isEmpty then { Belief.zero with rg }
  else Belief.make x.left.length (fun t w => x.at (x.left.getD t 0) (x.left.getD w 0)) (fun t => x.h.getD (x.left.getD t 0) 0) rg false

/-- The sum s of R284 for row `e`, over the indices above it in rising order. -/
def backSum (x : Elim) (mu : List W32) (e : Nat) (js : List Nat) (s : W32) : W32 :=
  js.foldl (fun s j => (fpFma 0 (f32 (x.at e j)).negate (f32 (mu.getD j 0)) (f32 s)).1) s

/-- BMEAN's back substitution, from the last index to the first (R284). -/
def Elim.mean (x : Elim) (n : Nat) : List W32 :=
  (List.range n).reverse.foldl (fun mu e =>
    mu.set e (fpMul 0 (backSum x mu e ((List.range n).filter (e < ·)) (x.h.getD e 0)) (x.r.getD e 0)).1) (List.replicate 8 0)

/-- TINFO of SINGULAR (R288). -/
def singular (k : Nat × Nat) : Nat × Word := (tcSINGULAR, BitVec.ofNat 64 (8 * k.1 + k.2))

/-- An operation by elimination: every test is made at issue, before a register changes (R283, R288). -/
def State.elimOp (s : State) (d a : BitVec 4) (gone : Nat → Bool) (f : Belief → Elim → Belief) : Out :=
  let b := s.rdB a
  match b.eliminate ((s.rdC crBSINGTHR).extractLsb' 0 32) gone with
  | .error k => s.checked { regs := [.b a.toNat], later := some (singular k) } id
  | .ok x => s.checked { regs := [.b a.toNat] } fun s => s.wrB d (f b x) 40
/-- BMARG (R283). -/
def execBmarg (d a : BitVec 4) (k : BitVec 8) (s : State) : Out := s.elimOp d a (fun i => !k.getLsbD i) fun b x => x.marginal b.rg
/-- BMEAN (R284). -/
def execBmean (d a : BitVec 4) (s : State) : Out :=
  s.elimOp d a (fun _ => true) fun b x => Belief.make b.dim b.lamAt (fun i => (x.mean b.dim).getD i 0) b.rg b.inv

/-! ### Damping, residual, regularisation (R285 to R287) -/

/-- RoundNE of a value that is already FP32. -/
def canonical (x : W32) : W32 := if (f32 x).isNan then nan32 else x

/-- One element of BDAMP for a valid β (R285). -/
def dampOne (beta old new : W32) : W32 :=
  match f32 beta, f32 old, f32 new with
  | .fin _ b, .fin so o, .fin sn n =>
    if b = 0 then new
    else if b = 2 ^ 149 then old
    else
      let v : Int := (FVal.fin sn n).int * 2 ^ 149 + b * ((FVal.fin so o).int - (FVal.fin sn n).int)
      (pack32 (roundInt .f32 0 v (-298) (so && sn && o == 0 && n == 0))).1
  | .fin _ b, o, n =>
    if b = 0 then canonical new
    else if b = 2 ^ 149 then canonical old
    else
      match o, n with
      | .inf x, .inf y => if x = y then old else nan32
      | _, _ => nan32
  | _, _, _ => nan32

/-- 0 ≤ β ≤ 1, −0 counted as 0 (R285). -/
def betaOk (b : W32) : Bool :=
  match f32 b with
  | .fin n m => decide (m = 0) || (!n && decide (m ≤ 2 ^ 149))
  | _ => false

/-- BDAMP: bd is the old block (R285). -/
def execBdamp (d a f : BitVec 4) (s : State) : Out :=
  let x := s.opF 0 f
  let old := s.rdB d
  let new := s.rdB a
  s.checked
    { names := [.f f.toNat], ops := [SVal.ofF x], regs := [.b d.toNat, .b a.toNat]
      later := if betaOk x then none else some (tcSCALE, scaleInfo 0 0 4 x) } fun s =>
    s.wrB d (Belief.zip (dampOne x) old new) 6

/-- |a − b| of BRES: a NaN, an infinity, or an exact magnitude (R286). -/
def residual (a b : W32) : FVal :=
  match f32 a, f32 b with
  | .nan, _ => .nan
  | _, .nan => .nan
  | .inf x, .inf y => if x = y then .nan else .inf false
  | .inf _, _ => .inf false
  | _, .inf _ => .inf false
  | .fin s m, .fin t n => .fin false ((FVal.fin s m).int - (FVal.fin t n).int).natAbs

/-- The greater of two residuals, NaN above all. -/
def worse (a b : FVal) : FVal :=
  match a, b with
  | .nan, _ => .nan
  | _, .nan => .nan
  | a, b => if a.cmp b == .lt then b else a

/-- BRES's value (R286). -/
def Belief.residual (a b : Belief) : W32 :=
  let n := max a.dim b.dim
  let l := (List.range n).flatMap fun i =>
    Machine.residual (a.etaAt i) (b.etaAt i) :: (List.range n).map fun j => Machine.residual (a.lamAt i j) (b.lamAt i j)
  match (if a.inv || b.inv then FVal.nan else l.foldl worse (.fin false 0)) with
  | .nan => nan32
  | .inf _ => BitVec.ofNat 32 (Fmt.f32.infCode false)
  | .fin _ m => (pack32 (roundMag .f32 0 false false m (-149) false)).1

/-- BRES sets no flag (R277, R286). -/
def execBres (d a b : BitVec 4) (s : State) : Out :=
  let x := s.rdB a
  let y := s.rdB b
  s.checked { regs := [.b a.toNat, .b b.toNat] } fun s => s.wrF d (x.residual y) 6

/-- BREG (R287). -/
def execBreg (d a f : BitVec 4) (s : State) : Out :=
  let x := s.opF 0 f
  let b := s.rdB a
  s.checked
    { names := [.f f.toNat], ops := [SVal.ofF x], regs := [.b a.toNat]
      later := if notFinite x then some (tcSCALE, scaleInfo 0 0 5 x) else none } fun s =>
    s.wrB d (Belief.make b.dim (fun i j => if i = j then (fpAdd 0 (b.lamAt i j) x).1 else b.lamAt i j) b.etaAt true b.inv) 6

end Sys2Proof.Machine
end

