-- ==== Sys2Proof/WellFormed.lean ====
section
/-!
DEFINITION. Which instructions and events the manual allows: the values of a field that no width bounds (R173, R353), the packet
kind of a packet event (R83), the operation of an APPLY shard (R149), and the ranges of unit numbers (R16, R160, R308).
-/
namespace Sys2Proof

/-- The control-register indices that R173 lists. -/
def crListed (n : Nat) : Bool :=
  decide (n ≤ 0x00B) || (decide (0x010 ≤ n) && decide (n ≤ 0x019)) || (decide (0x020 ≤ n) && decide (n ≤ 0x028)) ||
  (decide (0x030 ≤ n) && decide (n ≤ 0x033)) || (decide (0x040 ≤ n) && decide (n ≤ 0x042)) ||
  (decide (0x050 ≤ n) && decide (n ≤ 0x053)) || (decide (0x060 ≤ n) && decide (n ≤ 0x06F)) || decide (n = 0x071) ||
  (decide (0x080 ≤ n) && decide (n ≤ 0x0C1)) || (decide (0x0D0 ≤ n) && decide (n ≤ 0x0DF))

/-- The well-formed instructions and events. -/
def Instr.wellFormed : Instr → Bool
  | .nop | .br _ | .brp _ _ _ _ _ | .call _ | .callr _ | .jmpr _ | .loop _ _ _ | .loopi _ _ _ | .endT | .trap _ | .tret
  | .waitb _ _ | .arrb _ | .setb _ _ | .waitw | .donew _ | .yield | .sleept _ => true
  | .getc _ i => crListed i.toNat
  | .setc _ i => crListed i.toNat
  | .upoolWrite _ _ | .namedBarrierWrite _ _ | .touchWrite _ _ | .fpflagsClear _ | .oorflagClear _ | .fence | .syncx
  | .branchResolve | .add _ _ _ | .sub _ _ _ | .and _ _ _ | .or _ _ _ | .xor _ _ _ | .shl _ _ _ | .shr _ _ _ | .sra _ _ _
  | .min _ _ _ | .max _ _ _ | .minz _ _ _ | .maxz _ _ _ | .mul _ _ _ | .mulh _ _ _ | .mulhz _ _ _ | .div _ _ _ | .divz _ _ _
  | .rem _ _ _ | .remz _ _ _ | .clz _ _ | .popc _ _ | .andn _ _ _ | .addi _ _ _ | .andi _ _ _ | .ori _ _ _ | .xori _ _ _
  | .shli _ _ _ | .shri _ _ _ | .srai _ _ _ | .movi _ _ | .movhi _ _ _ => true
  | .cmp _ _ _ c => decide (c.toNat ≤ 5)
  | .cmpi _ _ c _ => decide (c.toNat ≤ 5)
  | .sel _ _ _ _ | .bfx _ _ _ _ | .bfxs _ _ _ _ | .bfi _ _ _ _ | .pand _ _ _ | .por _ _ _ | .pxor _ _ _ | .pandn _ _ _
  | .fadd _ _ _ | .fsub _ _ _ | .fmul _ _ _ | .fdiv _ _ _ | .fmin _ _ _ | .fmax _ _ _ | .fsqrt _ _ | .fabs _ _ | .fneg _ _
  | .ffma _ _ _ _ => true
  | .fcmp _ _ _ c => decide (c.toNat ≤ 4)
  | .fcvtF2i _ _ | .fcvtF2iz _ _ | .fcvtI2f _ _ | .fcvtIz2f _ _ | .fcvtF2bf _ _ | .fcvtBf2f _ _ | .fcvtF2h _ _
  | .fcvtH2f _ _ | .movsf _ _ | .movfs _ _ | .fmovi _ _ | .ldb _ _ _ | .ldbz _ _ _ | .ldh _ _ _ | .ldhz _ _ _ | .ldw _ _ _
  | .ldwz _ _ _ | .ldd _ _ _ | .stb _ _ _ | .sth _ _ _ | .stw _ _ _ | .std _ _ _ => true
  | .ldx _ _ _ _ z => decide (z.toNat ≤ 6)
  | .stx _ _ _ _ z => decide (z.toNat ∈ [0, 2, 4, 6])
  | .ldv _ _ _ | .stv _ _ _ | .ldvs _ _ _ | .stvs _ _ _ | .ldvx _ _ _ | .stvx _ _ _ | .ldf _ _ _ | .stf _ _ _ | .anvw _ _
  | .anvwComplete | .anvr _ _ | .fill _ _ | .copy _ _ _ | .ldxa _ _ _ | .stxa _ _ _ | .vadd _ _ _ _ | .vsub _ _ _ _
  | .vmul _ _ _ _ | .vmin _ _ _ _ | .vmax _ _ _ _ | .vabs _ _ _ | .vneg _ _ _ | .vfma _ _ _ _ | .vfms _ _ _ _ | .vrcp _ _ _
  | .vrsq _ _ _ | .vexp2 _ _ _ | .vlog2 _ _ _ | .vtanh _ _ _ | .vsigm _ _ _ | .vsqrt _ _ _ | .viadd _ _ _ _ | .visub _ _ _ _
  | .vimul _ _ _ _ | .vand _ _ _ _ | .vor _ _ _ _ | .vxor _ _ _ _ | .vshl _ _ _ _ | .vshr _ _ _ _ | .vsra _ _ _ _
  | .vimin _ _ _ _ | .vimax _ _ _ _ => true
  | .vcmp _ _ _ _ c => decide (c.toNat ≤ 9)
  | .vsel _ _ _ _ | .vcvtF2bf _ _ _ | .vcvtBf2f _ _ _ | .vcvtF2h _ _ _ | .vcvtH2f _ _ _ | .vcvtF2e4 _ _ _ | .vcvtE42f _ _ _
  | .vcvtF2e5 _ _ _ | .vcvtE52f _ _ _ | .vcvtF2i _ _ _ | .vcvtI2f _ _ _ | .vbmax _ _ _ | .vpack4 _ _ _ | .vunpk4 _ _ _
  | .vsum _ _ _ | .vrmax _ _ _ | .vrmin _ _ _ | .vbcast _ _ _ | .vbcastf _ _ _ | .vshuf _ _ _ _ | .vslide _ _ _ _ _
  | .vmovmToMask _ _ | .vmand _ _ _ | .vmor _ _ _ | .vmnot _ _ | .vmovmToScalar _ _ | .vxacF32 _ _ _ | .vxacBf16 _ _ _
  | .vxrdF32 _ _ _ | .vxrdBf16 _ _ _ | .vxclr _ _ | .vlane _ _ | .vgets _ _ _ | .vputs _ _ _ => true
  | .mldb _ f => decide (f.toNat ≤ 4)
  | .mldbg _ _ f => decide (f.toNat ≤ 4)
  | .mmaBb _ _ _ _ | .mmaHh _ _ _ _ | .mmaEe _ _ _ _ | .mmaEf _ _ _ _ | .mmaFe _ _ _ _ | .mmaFf _ _ _ _ | .mmaEq _ _ _ _
  | .mmaBq _ _ _ _ | .mzero _ | .mrd _ _ _ | .mwr _ _ _ => true
  | .msto _ _ f _ => decide (f.toNat ≤ 2)
  | .mbias _ _ | .send _ _ _ _ | .sendr _ _ _ _ | .sendt _ _ _ _ | .sendv _ _ _ _ | .post _ _ _ _ | .postm _ _ _ _
  | .posta _ _ _ _ | .waitm _ _ | .testm _ _ | .mrec _ _ _ | .cancel _ | .probe _ _ _ _ | .get _ _ _ _ | .put _ _ _ _
  | .getb _ _ _ _ | .putb _ _ _ _ | .gath _ _ _ _ | .scat _ _ _ _ | .apply _ _ _ _ | .cas _ _ _ _ | .publ _ _ _ _
  | .subs _ _ _ _ | .unpub _ | .freeh _ | .bld _ _ _ | .bst _ _ _ | .bzero _ | .badd _ _ _ | .bsub _ _ _ | .bperm _ _ _
  | .bmarg _ _ _ | .bdamp _ _ _ | .bmean _ _ | .bres _ _ _ | .breg _ _ _ | .sig _ _ _ | .scmp _ _ _ | .skset _ _ | .stepa
  | .sigst _ _ | .watchdog => true
  | .eager p => p.hdr.kind == 1
  | .rts p => p.hdr.kind == 2
  | .cts p => p.hdr.kind == 3
  | .data p => p.hdr.kind == 4
  | .ack p => p.hdr.kind == 5
  | .absent p => p.hdr.kind == 6
  | .busy p => p.hdr.kind == 7
  | .retryInterval _ _ => true
  | .release p => p.hdr.kind == 8
  | .revoke p => p.hdr.kind == 12
  | .timedSendRelease _ _ | .escapeChannel _ => true
  | .subscribe p => p.hdr.kind == 9
  | .prune p => p.hdr.kind == 10
  | .contrailRound _ _ => true
  | .cdata p => p.hdr.kind == 11
  | .ucdata p => p.hdr.kind == 13
  | .uetFailure _ _ => true
  | .qget q => decide (q.srv < Config.servers)
  | .qput q => decide (q.srv < Config.servers)
  | .qgetb q => decide (q.srv < Config.servers)
  | .qputb q => decide (q.srv < Config.servers)
  | .qgath q => decide (q.srv < Config.servers)
  | .qscat q => decide (q.srv < Config.servers)
  | .applyAdd32 q => decide (q.srv < Config.servers) && decide (q.aop = 0)
  | .applyAdd64 q => decide (q.srv < Config.servers) && decide (q.aop = 1)
  | .applyAnd64 q => decide (q.srv < Config.servers) && decide (q.aop = 2)
  | .applyOr64 q => decide (q.srv < Config.servers) && decide (q.aop = 3)
  | .applyXor64 q => decide (q.srv < Config.servers) && decide (q.aop = 4)
  | .applySmin64 q => decide (q.srv < Config.servers) && decide (q.aop = 5)
  | .applySmax64 q => decide (q.srv < Config.servers) && decide (q.aop = 6)
  | .applyUmin64 q => decide (q.srv < Config.servers) && decide (q.aop = 7)
  | .applyUmax64 q => decide (q.srv < Config.servers) && decide (q.aop = 8)
  | .applySwap64 q => decide (q.srv < Config.servers) && decide (q.aop = 9)
  | .applyFadd32 q => decide (q.srv < Config.servers) && decide (q.aop = 10)
  | .applyXadd q => decide (q.srv < Config.servers) && decide (q.aop = 11)
  | .applyReserved q => decide (q.srv < Config.servers) && decide (12 ≤ q.aop)
  | .qcas q => decide (q.srv < Config.servers)
  | .fenceProbe srv _ => decide (srv < Config.servers)
  | .sdata r => decide (r.srv < Config.servers)
  | .sdone r => decide (r.srv < Config.servers)
  | .echo _ e => decide (e.srv < Config.servers)
  | .shardTimeout _ _ _ => true
  | .pendlimitExpiry srv _ _ _ => decide (srv < Config.servers)
  | .swapHold srv _ _ _ => decide (srv < Config.servers)
  | .burstRead stack _ _ => decide (stack < 12)
  | .burstWrite stack _ _ _ => decide (stack < 12)
  | .laneSwap stack _ _ => decide (stack < 12)
  | .laneWindowEnd stack _ => decide (stack < 12)
  | .remapEpochEnd stack => decide (stack < 12)
  | .swapDone stack => decide (stack < 12)
  | .retentionEntry _ _ | .retentionScrub _ _ => true
  | .hcontrib c => decide (c.node < 69)
  | .hpart c => decide (c.node < 69)
  | .hresult c => decide (c.node < 69)
  | .haloNodeFailed node => decide (node < 69)
  | .launch _ | .imageHeaderRead _ | .agingStep _ | .drainReservation _ | .placement _ | .imageFetch _ _ | .preemption _
  | .preempted _ | .resume _ | .tileEnd _ | .leaseExpiry _ | .gangFaulted _ | .faultDeliveryTimeout _ | .withdraw _
  | .workItem _ | .itemDelivery _ | .donewAck _ | .twinCompareTimeout _ | .logRecordDelivery _ => true
  | .hostSend fn _ => decide (fn < 64)
  | .hostSendr fn _ => decide (fn < 64)
  | .hostPost fn _ => decide (fn < 64)
  | .hostCancel fn _ => decide (fn < 64)
  | .hostGet fn _ => decide (fn < 64)
  | .hostPut fn _ => decide (fn < 64)
  | .hostDeniedOp fn _ => decide (fn < 64)
  | .completionQueueWrite fn => decide (fn < 64)
  | .sqtailWrite fn _ => decide (fn < 64)
  | .hwctlEnWrite fn _ => decide (fn < 64)
  | .qerrClear fn _ => decide (fn < 64)
  | .cqheadWrite fn _ => decide (fn < 64)
  | .elheadWrite _ | .jheadWrite _ | .pwrlimWrite _ | .alarmctlWrite _ | .alarmstatClear _ => true
  | .remapctlWrite stack _ => decide (stack < 12)
  | .lockedFieldWrite fn _ _ => decide (fn < 64)
  | .hostRegisterWrite fn _ _ _ => decide (fn < 64)
  | .lockInterface fn => decide (fn < 64)
  | .startInterface fn => decide (fn < 64)
  | .stopInterface fn => decide (fn < 64)
  | .getDeviceInterfaceReport fn => decide (fn < 64)
  | .ideIntegrityFailure fn _ => decide (fn < 64)
  | .partitionAssign _ _ | .tilePartitionMove _ _ | .placerParameterSet _ _ _ | .groupDescriptorWrite _ _ _ _ => true
  | .groupEntryWrite _ node _ => decide (node < 69)
  | .contextDescriptorWrite srv _ _ => decide (srv < Config.servers)
  | .pageEntryChange srv _ _ _ _ => decide (srv < Config.servers)
  | .poolRefill srv _ _ => decide (srv < Config.servers)
  | .failPendingShards srv _ => decide (srv < Config.servers)
  | .keySlotLoad _ _ | .keySlotErase _ | .faultrankSet _ _ _ | .pkgmapWrite _ _ => true
  | .tableRebuild stack _ _ => decide (stack < 12)
  | .alarm _ | .d3hotEntry | .timeSync _ | .startUp _ | .reservedEncoding | .resultLanding => true
  | .serverFailed srv => decide (srv < Config.servers)
  | .tileClockLowering | .d0Entry => true
  | .srIovEnable fn _ => decide (fn < 64)

end Sys2Proof
end

