-- ==== Sys2Proof/Decode.lean ====
section
/-!
DEFINITION. From slot words to instructions and back (R177 to R181, R353). A slot's table has one row for each instruction: its
opcode, its function field and value, the bits that must be zero, the bits that name a register beyond its file, and the
instruction that the remaining fields make.
-/
namespace Sys2Proof

/-- One row of a slot table. -/
structure DecodeRow where
  op    : Nat
  fmask : W32
  fval  : W32
  zero  : W32
  file  : W32
  make  : W32 → Instr

/-- The field of `n` bits at bit `lo`. -/
def fld (w : W32) (lo n : Nat) : BitVec n := w.extractLsb' lo n

def cRows0 : List DecodeRow :=
  [⟨0x01, 0, 0, 0x3FF0000, 0, fun w => .br (fld w 0 16)⟩,
   ⟨0x02, 0, 0, 0x780000, 0, fun w => .brp (fld w 25 1) (fld w 24 1) (fld w 23 1) (fld w 16 3) (fld w 0 16)⟩,
   ⟨0x03, 0, 0, 0x3FF0000, 0, fun w => .call (fld w 0 16)⟩,
   ⟨0x04, 0, 0, 0x3E0FFFF, 0, fun w => .callr (fld w 16 5)⟩,
   ⟨0x05, 0, 0, 0x3E0FFFF, 0, fun w => .jmpr (fld w 16 5)⟩,
   ⟨0x06, 0, 0, 0x3800000, 0, fun w => .loop (fld w 21 2) (fld w 16 5) (fld w 0 16)⟩,
   ⟨0x07, 0, 0, 0, 0, fun w => .loopi (fld w 24 2) (fld w 16 8) (fld w 0 16)⟩,
   ⟨0x08, 0, 0, 0x3FFFFFF, 0, fun _ => .endT⟩,
   ⟨0x09, 0, 0, 0x3FF0000, 0, fun w => .trap (fld w 0 16)⟩,
   ⟨0x0A, 0, 0, 0x3FFFFFF, 0, fun _ => .tret⟩,
   ⟨0x0B, 0, 0, 0x3E0FFC0, 0, fun w => .waitb (fld w 16 5) (fld w 0 6)⟩,
   ⟨0x0C, 0, 0, 0x3FFFFC0, 0, fun w => .arrb (fld w 0 6)⟩,
   ⟨0x0D, 0, 0, 0x3E0FFC0, 0, fun w => .setb (fld w 16 5) (fld w 0 6)⟩,
   ⟨0x0E, 0, 0, 0x3FFFFFF, 0, fun _ => .waitw⟩,
   ⟨0x0F, 0, 0, 0x3E0FFFF, 0, fun w => .donew (fld w 16 5)⟩,
   ⟨0x10, 0, 0, 0x3FFFFFF, 0, fun _ => .yield⟩]

def cRows1 : List DecodeRow :=
  [⟨0x11, 0, 0, 0x3E0FFFF, 0, fun w => .sleept (fld w 16 5)⟩,
   ⟨0x12, 0, 0, 0x1FF000, 0, fun w => .getc (fld w 21 5) (fld w 0 12)⟩,
   ⟨0x13, 0, 0, 0x3E0F000, 0, fun w => .setc (fld w 16 5) (fld w 0 12)⟩,
   ⟨0x14, 0, 0, 0x3FFFFFF, 0, fun _ => .fence⟩,
   ⟨0x15, 0, 0, 0x3FFFFFF, 0, fun _ => .syncx⟩]

/-- The C-slot words (R179). -/
def cRows : List DecodeRow := cRows0 ++ cRows1

def iRows0 : List DecodeRow :=
  [⟨0x01, 0x7FF, 0, 0, 0, fun w => .add (fld w 21 5) (fld w 16 5) (fld w 11 5)⟩,
   ⟨0x01, 0x7FF, 0x1, 0, 0, fun w => .sub (fld w 21 5) (fld w 16 5) (fld w 11 5)⟩,
   ⟨0x01, 0x7FF, 0x2, 0, 0, fun w => .and (fld w 21 5) (fld w 16 5) (fld w 11 5)⟩,
   ⟨0x01, 0x7FF, 0x3, 0, 0, fun w => .or (fld w 21 5) (fld w 16 5) (fld w 11 5)⟩,
   ⟨0x01, 0x7FF, 0x4, 0, 0, fun w => .xor (fld w 21 5) (fld w 16 5) (fld w 11 5)⟩,
   ⟨0x01, 0x7FF, 0x5, 0, 0, fun w => .shl (fld w 21 5) (fld w 16 5) (fld w 11 5)⟩,
   ⟨0x01, 0x7FF, 0x6, 0, 0, fun w => .shr (fld w 21 5) (fld w 16 5) (fld w 11 5)⟩,
   ⟨0x01, 0x7FF, 0x7, 0, 0, fun w => .sra (fld w 21 5) (fld w 16 5) (fld w 11 5)⟩,
   ⟨0x01, 0x7FF, 0x8, 0, 0, fun w => .min (fld w 21 5) (fld w 16 5) (fld w 11 5)⟩,
   ⟨0x01, 0x7FF, 0x9, 0, 0, fun w => .max (fld w 21 5) (fld w 16 5) (fld w 11 5)⟩,
   ⟨0x01, 0x7FF, 0xA, 0, 0, fun w => .minz (fld w 21 5) (fld w 16 5) (fld w 11 5)⟩,
   ⟨0x01, 0x7FF, 0xB, 0, 0, fun w => .maxz (fld w 21 5) (fld w 16 5) (fld w 11 5)⟩,
   ⟨0x01, 0x7FF, 0xC, 0, 0, fun w => .mul (fld w 21 5) (fld w 16 5) (fld w 11 5)⟩,
   ⟨0x01, 0x7FF, 0xD, 0, 0, fun w => .mulh (fld w 21 5) (fld w 16 5) (fld w 11 5)⟩,
   ⟨0x01, 0x7FF, 0xE, 0, 0, fun w => .mulhz (fld w 21 5) (fld w 16 5) (fld w 11 5)⟩,
   ⟨0x01, 0x7FF, 0xF, 0, 0, fun w => .div (fld w 21 5) (fld w 16 5) (fld w 11 5)⟩]

def iRows1 : List DecodeRow :=
  [⟨0x01, 0x7FF, 0x10, 0, 0, fun w => .divz (fld w 21 5) (fld w 16 5) (fld w 11 5)⟩,
   ⟨0x01, 0x7FF, 0x11, 0, 0, fun w => .rem (fld w 21 5) (fld w 16 5) (fld w 11 5)⟩,
   ⟨0x01, 0x7FF, 0x12, 0, 0, fun w => .remz (fld w 21 5) (fld w 16 5) (fld w 11 5)⟩,
   ⟨0x01, 0x7FF, 0x13, 0xF800, 0, fun w => .clz (fld w 21 5) (fld w 16 5)⟩,
   ⟨0x01, 0x7FF, 0x14, 0xF800, 0, fun w => .popc (fld w 21 5) (fld w 16 5)⟩,
   ⟨0x01, 0x7FF, 0x15, 0, 0, fun w => .andn (fld w 21 5) (fld w 16 5) (fld w 11 5)⟩,
   ⟨0x02, 0, 0, 0, 0, fun w => .addi (fld w 21 5) (fld w 16 5) (fld w 0 16)⟩,
   ⟨0x03, 0, 0, 0, 0, fun w => .andi (fld w 21 5) (fld w 16 5) (fld w 0 16)⟩,
   ⟨0x04, 0, 0, 0, 0, fun w => .ori (fld w 21 5) (fld w 16 5) (fld w 0 16)⟩,
   ⟨0x05, 0, 0, 0, 0, fun w => .xori (fld w 21 5) (fld w 16 5) (fld w 0 16)⟩,
   ⟨0x06, 0xC000, 0, 0x3FC0, 0, fun w => .shli (fld w 21 5) (fld w 16 5) (fld w 0 6)⟩,
   ⟨0x06, 0xC000, 0x4000, 0x3FC0, 0, fun w => .shri (fld w 21 5) (fld w 16 5) (fld w 0 6)⟩,
   ⟨0x06, 0xC000, 0x8000, 0x3FC0, 0, fun w => .srai (fld w 21 5) (fld w 16 5) (fld w 0 6)⟩,
   ⟨0x07, 0, 0, 0x1F0000, 0, fun w => .movi (fld w 21 5) (fld w 0 16)⟩,
   ⟨0x08, 0, 0, 0x1C0000, 0, fun w => .movhi (fld w 21 5) (fld w 16 2) (fld w 0 16)⟩,
   ⟨0x09, 0, 0, 0x6007F8, 0, fun w => .cmp (fld w 23 3) (fld w 16 5) (fld w 11 5) (fld w 0 3)⟩]

def iRows2 : List DecodeRow :=
  [⟨0x0A, 0, 0, 0x600000, 0, fun w => .cmpi (fld w 23 3) (fld w 16 5) (fld w 13 3) (fld w 0 13)⟩,
   ⟨0x0B, 0, 0, 0x7F8, 0, fun w => .sel (fld w 21 5) (fld w 16 5) (fld w 11 5) (fld w 0 3)⟩,
   ⟨0x0C, 0x1000, 0, 0xE000, 0, fun w => .bfx (fld w 21 5) (fld w 16 5) (fld w 6 6) (fld w 0 6)⟩,
   ⟨0x0C, 0x1000, 0x1000, 0xE000, 0, fun w => .bfxs (fld w 21 5) (fld w 16 5) (fld w 6 6) (fld w 0 6)⟩,
   ⟨0x0D, 0, 0, 0xF000, 0, fun w => .bfi (fld w 21 5) (fld w 16 5) (fld w 6 6) (fld w 0 6)⟩,
   ⟨0x0E, 0x3, 0, 0x78C7FC, 0, fun w => .pand (fld w 23 3) (fld w 16 3) (fld w 11 3)⟩,
   ⟨0x0E, 0x3, 0x1, 0x78C7FC, 0, fun w => .por (fld w 23 3) (fld w 16 3) (fld w 11 3)⟩,
   ⟨0x0E, 0x3, 0x2, 0x78C7FC, 0, fun w => .pxor (fld w 23 3) (fld w 16 3) (fld w 11 3)⟩,
   ⟨0x0E, 0x3, 0x3, 0x78C7FC, 0, fun w => .pandn (fld w 23 3) (fld w 16 3) (fld w 11 3)⟩,
   ⟨0x0F, 0x7FF, 0, 0, 0x2108000, fun w => .fadd (fld w 21 4) (fld w 16 4) (fld w 11 4)⟩,
   ⟨0x0F, 0x7FF, 0x1, 0, 0x2108000, fun w => .fsub (fld w 21 4) (fld w 16 4) (fld w 11 4)⟩,
   ⟨0x0F, 0x7FF, 0x2, 0, 0x2108000, fun w => .fmul (fld w 21 4) (fld w 16 4) (fld w 11 4)⟩,
   ⟨0x0F, 0x7FF, 0x3, 0, 0x2108000, fun w => .fdiv (fld w 21 4) (fld w 16 4) (fld w 11 4)⟩,
   ⟨0x0F, 0x7FF, 0x4, 0, 0x2108000, fun w => .fmin (fld w 21 4) (fld w 16 4) (fld w 11 4)⟩,
   ⟨0x0F, 0x7FF, 0x5, 0, 0x2108000, fun w => .fmax (fld w 21 4) (fld w 16 4) (fld w 11 4)⟩,
   ⟨0x0F, 0x7FF, 0x6, 0xF800, 0x2100000, fun w => .fsqrt (fld w 21 4) (fld w 16 4)⟩]

def iRows3 : List DecodeRow :=
  [⟨0x0F, 0x7FF, 0x7, 0xF800, 0x2100000, fun w => .fabs (fld w 21 4) (fld w 16 4)⟩,
   ⟨0x0F, 0x7FF, 0x8, 0xF800, 0x2100000, fun w => .fneg (fld w 21 4) (fld w 16 4)⟩,
   ⟨0x10, 0, 0, 0x3F, 0x2108400, fun w => .ffma (fld w 21 4) (fld w 16 4) (fld w 11 4) (fld w 6 4)⟩,
   ⟨0x11, 0, 0, 0x6007F8, 0x108000, fun w => .fcmp (fld w 23 3) (fld w 16 4) (fld w 11 4) (fld w 0 3)⟩,
   ⟨0x12, 0x7, 0, 0xFFF8, 0x100000, fun w => .fcvtF2i (fld w 21 5) (fld w 16 4)⟩,
   ⟨0x12, 0x7, 0x1, 0xFFF8, 0x100000, fun w => .fcvtF2iz (fld w 21 5) (fld w 16 4)⟩,
   ⟨0x12, 0x7, 0x2, 0xFFF8, 0x2000000, fun w => .fcvtI2f (fld w 21 4) (fld w 16 5)⟩,
   ⟨0x12, 0x7, 0x3, 0xFFF8, 0x2000000, fun w => .fcvtIz2f (fld w 21 4) (fld w 16 5)⟩,
   ⟨0x12, 0x7, 0x4, 0xFFF8, 0x100000, fun w => .fcvtF2bf (fld w 21 5) (fld w 16 4)⟩,
   ⟨0x12, 0x7, 0x5, 0xFFF8, 0x2000000, fun w => .fcvtBf2f (fld w 21 4) (fld w 16 5)⟩,
   ⟨0x12, 0x7, 0x6, 0xFFF8, 0x100000, fun w => .fcvtF2h (fld w 21 5) (fld w 16 4)⟩,
   ⟨0x12, 0x7, 0x7, 0xFFF8, 0x2000000, fun w => .fcvtH2f (fld w 21 4) (fld w 16 5)⟩,
   ⟨0x13, 0, 0, 0xFFFF, 0x100000, fun w => .movsf (fld w 21 5) (fld w 16 4)⟩,
   ⟨0x14, 0, 0, 0xFFFF, 0x2000000, fun w => .movfs (fld w 21 4) (fld w 16 5)⟩,
   ⟨0x15, 0, 0, 0x1F0000, 0x2000000, fun w => .fmovi (fld w 21 4) (fld w 0 16)⟩]

/-- The I-slot words (R180). -/
def iRows : List DecodeRow := iRows0 ++ iRows1 ++ iRows2 ++ iRows3

def mRows0 : List DecodeRow :=
  [⟨0x01, 0xE000, 0, 0, 0, fun w => .ldb (fld w 21 5) (fld w 16 5) (fld w 0 13)⟩,
   ⟨0x01, 0xE000, 0x2000, 0, 0, fun w => .ldbz (fld w 21 5) (fld w 16 5) (fld w 0 13)⟩,
   ⟨0x01, 0xE000, 0x4000, 0, 0, fun w => .ldh (fld w 21 5) (fld w 16 5) (fld w 0 13)⟩,
   ⟨0x01, 0xE000, 0x6000, 0, 0, fun w => .ldhz (fld w 21 5) (fld w 16 5) (fld w 0 13)⟩,
   ⟨0x01, 0xE000, 0x8000, 0, 0, fun w => .ldw (fld w 21 5) (fld w 16 5) (fld w 0 13)⟩,
   ⟨0x01, 0xE000, 0xA000, 0, 0, fun w => .ldwz (fld w 21 5) (fld w 16 5) (fld w 0 13)⟩,
   ⟨0x01, 0xE000, 0xC000, 0, 0, fun w => .ldd (fld w 21 5) (fld w 16 5) (fld w 0 13)⟩,
   ⟨0x02, 0xC000, 0, 0x2000, 0, fun w => .stb (fld w 21 5) (fld w 16 5) (fld w 0 13)⟩,
   ⟨0x02, 0xC000, 0x4000, 0x2000, 0, fun w => .sth (fld w 21 5) (fld w 16 5) (fld w 0 13)⟩,
   ⟨0x02, 0xC000, 0x8000, 0x2000, 0, fun w => .stw (fld w 21 5) (fld w 16 5) (fld w 0 13)⟩,
   ⟨0x02, 0xC000, 0xC000, 0x2000, 0, fun w => .std (fld w 21 5) (fld w 16 5) (fld w 0 13)⟩,
   ⟨0x03, 0, 0, 0x7F0, 0, fun w => .ldx (fld w 21 5) (fld w 16 5) (fld w 11 5) (fld w 3 1) (fld w 0 3)⟩,
   ⟨0x04, 0, 0, 0x7F0, 0, fun w => .stx (fld w 21 5) (fld w 16 5) (fld w 11 5) (fld w 3 1) (fld w 0 3)⟩,
   ⟨0x05, 0, 0, 0, 0, fun w => .ldv (fld w 21 5) (fld w 16 5) (fld w 0 16)⟩,
   ⟨0x06, 0, 0, 0, 0, fun w => .stv (fld w 21 5) (fld w 16 5) (fld w 0 16)⟩,
   ⟨0x07, 0, 0, 0x7FF, 0, fun w => .ldvs (fld w 21 5) (fld w 16 5) (fld w 11 5)⟩]

def mRows1 : List DecodeRow :=
  [⟨0x08, 0, 0, 0x7FF, 0, fun w => .stvs (fld w 21 5) (fld w 16 5) (fld w 11 5)⟩,
   ⟨0x09, 0, 0, 0x7FF, 0, fun w => .ldvx (fld w 21 5) (fld w 16 5) (fld w 11 5)⟩,
   ⟨0x0A, 0, 0, 0x7FF, 0, fun w => .stvx (fld w 21 5) (fld w 16 5) (fld w 11 5)⟩,
   ⟨0x0B, 0, 0, 0xE000, 0x2000000, fun w => .ldf (fld w 21 4) (fld w 16 5) (fld w 0 13)⟩,
   ⟨0x0C, 0, 0, 0xE000, 0x2000000, fun w => .stf (fld w 21 4) (fld w 16 5) (fld w 0 13)⟩,
   ⟨0x0D, 0, 0, 0x3E007FF, 0, fun w => .anvw (fld w 16 5) (fld w 11 5)⟩,
   ⟨0x0E, 0, 0, 0x3E007FF, 0, fun w => .anvr (fld w 16 5) (fld w 11 5)⟩,
   ⟨0x0F, 0, 0, 0x3E007FF, 0, fun w => .fill (fld w 16 5) (fld w 11 5)⟩,
   ⟨0x10, 0, 0, 0x7FF, 0, fun w => .copy (fld w 21 5) (fld w 16 5) (fld w 11 5)⟩,
   ⟨0x11, 0, 0, 0x3C0E000, 0, fun w => .ldxa (fld w 21 1) (fld w 16 5) (fld w 0 13)⟩,
   ⟨0x12, 0, 0, 0x3C0E000, 0, fun w => .stxa (fld w 21 1) (fld w 16 5) (fld w 0 13)⟩]

/-- The M-slot words (R181). -/
def mRows : List DecodeRow := mRows0 ++ mRows1

def vRows0 : List DecodeRow :=
  [⟨0x01, 0xFF, 0, 0, 0, fun w => .vadd (fld w 21 5) (fld w 16 5) (fld w 11 5) (fld w 8 3)⟩,
   ⟨0x01, 0xFF, 0x1, 0, 0, fun w => .vsub (fld w 21 5) (fld w 16 5) (fld w 11 5) (fld w 8 3)⟩,
   ⟨0x01, 0xFF, 0x2, 0, 0, fun w => .vmul (fld w 21 5) (fld w 16 5) (fld w 11 5) (fld w 8 3)⟩,
   ⟨0x01, 0xFF, 0x3, 0, 0, fun w => .vmin (fld w 21 5) (fld w 16 5) (fld w 11 5) (fld w 8 3)⟩,
   ⟨0x01, 0xFF, 0x4, 0, 0, fun w => .vmax (fld w 21 5) (fld w 16 5) (fld w 11 5) (fld w 8 3)⟩,
   ⟨0x01, 0xFF, 0x5, 0xF800, 0, fun w => .vabs (fld w 21 5) (fld w 16 5) (fld w 8 3)⟩,
   ⟨0x01, 0xFF, 0x6, 0xF800, 0, fun w => .vneg (fld w 21 5) (fld w 16 5) (fld w 8 3)⟩,
   ⟨0x02, 0xFF, 0, 0, 0, fun w => .vfma (fld w 21 5) (fld w 16 5) (fld w 11 5) (fld w 8 3)⟩,
   ⟨0x03, 0xFF, 0, 0, 0, fun w => .vfms (fld w 21 5) (fld w 16 5) (fld w 11 5) (fld w 8 3)⟩,
   ⟨0x04, 0xFF, 0, 0xF800, 0, fun w => .vrcp (fld w 21 5) (fld w 16 5) (fld w 8 3)⟩,
   ⟨0x04, 0xFF, 0x1, 0xF800, 0, fun w => .vrsq (fld w 21 5) (fld w 16 5) (fld w 8 3)⟩,
   ⟨0x04, 0xFF, 0x2, 0xF800, 0, fun w => .vexp2 (fld w 21 5) (fld w 16 5) (fld w 8 3)⟩,
   ⟨0x04, 0xFF, 0x3, 0xF800, 0, fun w => .vlog2 (fld w 21 5) (fld w 16 5) (fld w 8 3)⟩,
   ⟨0x04, 0xFF, 0x4, 0xF800, 0, fun w => .vtanh (fld w 21 5) (fld w 16 5) (fld w 8 3)⟩,
   ⟨0x04, 0xFF, 0x5, 0xF800, 0, fun w => .vsigm (fld w 21 5) (fld w 16 5) (fld w 8 3)⟩,
   ⟨0x04, 0xFF, 0x6, 0xF800, 0, fun w => .vsqrt (fld w 21 5) (fld w 16 5) (fld w 8 3)⟩]

def vRows1 : List DecodeRow :=
  [⟨0x05, 0xFF, 0, 0, 0, fun w => .viadd (fld w 21 5) (fld w 16 5) (fld w 11 5) (fld w 8 3)⟩,
   ⟨0x05, 0xFF, 0x1, 0, 0, fun w => .visub (fld w 21 5) (fld w 16 5) (fld w 11 5) (fld w 8 3)⟩,
   ⟨0x05, 0xFF, 0x2, 0, 0, fun w => .vimul (fld w 21 5) (fld w 16 5) (fld w 11 5) (fld w 8 3)⟩,
   ⟨0x05, 0xFF, 0x3, 0, 0, fun w => .vand (fld w 21 5) (fld w 16 5) (fld w 11 5) (fld w 8 3)⟩,
   ⟨0x05, 0xFF, 0x4, 0, 0, fun w => .vor (fld w 21 5) (fld w 16 5) (fld w 11 5) (fld w 8 3)⟩,
   ⟨0x05, 0xFF, 0x5, 0, 0, fun w => .vxor (fld w 21 5) (fld w 16 5) (fld w 11 5) (fld w 8 3)⟩,
   ⟨0x05, 0xFF, 0x6, 0, 0, fun w => .vshl (fld w 21 5) (fld w 16 5) (fld w 11 5) (fld w 8 3)⟩,
   ⟨0x05, 0xFF, 0x7, 0, 0, fun w => .vshr (fld w 21 5) (fld w 16 5) (fld w 11 5) (fld w 8 3)⟩,
   ⟨0x05, 0xFF, 0x8, 0, 0, fun w => .vsra (fld w 21 5) (fld w 16 5) (fld w 11 5) (fld w 8 3)⟩,
   ⟨0x05, 0xFF, 0x9, 0, 0, fun w => .vimin (fld w 21 5) (fld w 16 5) (fld w 11 5) (fld w 8 3)⟩,
   ⟨0x05, 0xFF, 0xA, 0, 0, fun w => .vimax (fld w 21 5) (fld w 16 5) (fld w 11 5) (fld w 8 3)⟩,
   ⟨0x06, 0, 0, 0x3000000, 0, fun w => .vcmp (fld w 21 3) (fld w 16 5) (fld w 11 5) (fld w 8 3) (fld w 0 8)⟩,
   ⟨0x07, 0, 0, 0xFF, 0, fun w => .vsel (fld w 21 5) (fld w 16 5) (fld w 11 5) (fld w 8 3)⟩,
   ⟨0x08, 0xFF, 0, 0xF800, 0, fun w => .vcvtF2bf (fld w 21 5) (fld w 16 5) (fld w 8 3)⟩,
   ⟨0x08, 0xFF, 0x1, 0xF800, 0, fun w => .vcvtBf2f (fld w 21 5) (fld w 16 5) (fld w 8 3)⟩,
   ⟨0x08, 0xFF, 0x2, 0xF800, 0, fun w => .vcvtF2h (fld w 21 5) (fld w 16 5) (fld w 8 3)⟩]

def vRows2 : List DecodeRow :=
  [⟨0x08, 0xFF, 0x3, 0xF800, 0, fun w => .vcvtH2f (fld w 21 5) (fld w 16 5) (fld w 8 3)⟩,
   ⟨0x08, 0xFF, 0x4, 0xF800, 0, fun w => .vcvtF2e4 (fld w 21 5) (fld w 16 5) (fld w 8 3)⟩,
   ⟨0x08, 0xFF, 0x5, 0xF800, 0, fun w => .vcvtE42f (fld w 21 5) (fld w 16 5) (fld w 8 3)⟩,
   ⟨0x08, 0xFF, 0x6, 0xF800, 0, fun w => .vcvtF2e5 (fld w 21 5) (fld w 16 5) (fld w 8 3)⟩,
   ⟨0x08, 0xFF, 0x7, 0xF800, 0, fun w => .vcvtE52f (fld w 21 5) (fld w 16 5) (fld w 8 3)⟩,
   ⟨0x08, 0xFF, 0x8, 0xF800, 0, fun w => .vcvtF2i (fld w 21 5) (fld w 16 5) (fld w 8 3)⟩,
   ⟨0x08, 0xFF, 0x9, 0xF800, 0, fun w => .vcvtI2f (fld w 21 5) (fld w 16 5) (fld w 8 3)⟩,
   ⟨0x09, 0, 0, 0xF8FF, 0, fun w => .vbmax (fld w 21 5) (fld w 16 5) (fld w 8 3)⟩,
   ⟨0x0A, 0, 0, 0x7FF, 0, fun w => .vpack4 (fld w 21 5) (fld w 16 5) (fld w 11 5)⟩,
   ⟨0x0B, 0, 0, 0x7FF, 0, fun w => .vunpk4 (fld w 21 5) (fld w 16 5) (fld w 11 5)⟩,
   ⟨0x0C, 0xFF, 0, 0xF800, 0x2000000, fun w => .vsum (fld w 21 4) (fld w 16 5) (fld w 8 3)⟩,
   ⟨0x0C, 0xFF, 0x1, 0xF800, 0x2000000, fun w => .vrmax (fld w 21 4) (fld w 16 5) (fld w 8 3)⟩,
   ⟨0x0C, 0xFF, 0x2, 0xF800, 0x2000000, fun w => .vrmin (fld w 21 4) (fld w 16 5) (fld w 8 3)⟩,
   ⟨0x0D, 0xFF, 0, 0xF800, 0, fun w => .vbcast (fld w 21 5) (fld w 16 5) (fld w 8 3)⟩,
   ⟨0x0D, 0xFF, 0x1, 0xF800, 0x100000, fun w => .vbcastf (fld w 21 5) (fld w 16 4) (fld w 8 3)⟩,
   ⟨0x0E, 0xFF, 0, 0, 0, fun w => .vshuf (fld w 21 5) (fld w 16 5) (fld w 11 5) (fld w 8 3)⟩]

def vRows3 : List DecodeRow :=
  [⟨0x0F, 0, 0, 0xC0, 0, fun w => .vslide (fld w 21 5) (fld w 16 5) (fld w 11 5) (fld w 8 3) (fld w 0 6)⟩,
   ⟨0x10, 0xFF, 0, 0x300FF00, 0, fun w => .vmovmToMask (fld w 21 3) (fld w 16 5)⟩,
   ⟨0x10, 0xFF, 0x1, 0x318C700, 0, fun w => .vmand (fld w 21 3) (fld w 16 3) (fld w 11 3)⟩,
   ⟨0x10, 0xFF, 0x2, 0x318C700, 0, fun w => .vmor (fld w 21 3) (fld w 16 3) (fld w 11 3)⟩,
   ⟨0x10, 0xFF, 0x3, 0x318FF00, 0, fun w => .vmnot (fld w 21 3) (fld w 16 3)⟩,
   ⟨0x10, 0xFF, 0x4, 0x18FF00, 0, fun w => .vmovmToScalar (fld w 21 5) (fld w 16 3)⟩,
   ⟨0x11, 0xFF, 0, 0x3C0F800, 0, fun w => .vxacF32 (fld w 21 1) (fld w 16 5) (fld w 8 3)⟩,
   ⟨0x11, 0xFF, 0x1, 0x3C0F800, 0, fun w => .vxacBf16 (fld w 21 1) (fld w 16 5) (fld w 8 3)⟩,
   ⟨0x12, 0xFF, 0, 0x1EF800, 0, fun w => .vxrdF32 (fld w 21 5) (fld w 16 1) (fld w 8 3)⟩,
   ⟨0x12, 0xFF, 0x1, 0x1EF800, 0, fun w => .vxrdBf16 (fld w 21 5) (fld w 16 1) (fld w 8 3)⟩,
   ⟨0x12, 0xFF, 0x2, 0x3DFF800, 0, fun w => .vxclr (fld w 21 1) (fld w 8 3)⟩,
   ⟨0x13, 0xFF, 0, 0x1FF800, 0, fun w => .vlane (fld w 21 5) (fld w 8 3)⟩,
   ⟨0x14, 0x40, 0, 0xFF80, 0, fun w => .vgets (fld w 21 5) (fld w 16 5) (fld w 0 6)⟩,
   ⟨0x14, 0x40, 0x40, 0xFF80, 0, fun w => .vputs (fld w 21 5) (fld w 16 5) (fld w 0 6)⟩]

/-- The V-slot words (R181). -/
def vRows : List DecodeRow := vRows0 ++ vRows1 ++ vRows2 ++ vRows3

/-- The X-slot words (R181). -/
def xRows : List DecodeRow :=
  [⟨0x01, 0x1, 0, 0x3E0FFF0, 0, fun w => .mldb (fld w 16 5) (fld w 1 3)⟩,
   ⟨0x01, 0x1, 0x1, 0x3E007F0, 0, fun w => .mldbg (fld w 16 5) (fld w 11 5) (fld w 1 3)⟩,
   ⟨0x02, 0, 0, 0x380003F, 0, fun w => .mmaBb (fld w 21 2) (fld w 16 5) (fld w 11 5) (fld w 6 5)⟩,
   ⟨0x03, 0, 0, 0x380003F, 0, fun w => .mmaHh (fld w 21 2) (fld w 16 5) (fld w 11 5) (fld w 6 5)⟩,
   ⟨0x04, 0, 0, 0x380003F, 0, fun w => .mmaEe (fld w 21 2) (fld w 16 5) (fld w 11 5) (fld w 6 5)⟩,
   ⟨0x05, 0, 0, 0x380003F, 0, fun w => .mmaEf (fld w 21 2) (fld w 16 5) (fld w 11 5) (fld w 6 5)⟩,
   ⟨0x06, 0, 0, 0x380003F, 0, fun w => .mmaFe (fld w 21 2) (fld w 16 5) (fld w 11 5) (fld w 6 5)⟩,
   ⟨0x07, 0, 0, 0x380003F, 0, fun w => .mmaFf (fld w 21 2) (fld w 16 5) (fld w 11 5) (fld w 6 5)⟩,
   ⟨0x08, 0, 0, 0x380003F, 0, fun w => .mmaEq (fld w 21 2) (fld w 16 5) (fld w 11 5) (fld w 6 5)⟩,
   ⟨0x09, 0, 0, 0x380003F, 0, fun w => .mmaBq (fld w 21 2) (fld w 16 5) (fld w 11 5) (fld w 6 5)⟩,
   ⟨0x0A, 0, 0, 0x39FFFFF, 0, fun w => .mzero (fld w 21 2)⟩,
   ⟨0x0B, 0, 0, 0xFFFC, 0, fun w => .mrd (fld w 21 5) (fld w 16 5) (fld w 0 2)⟩,
   ⟨0x0C, 0, 0, 0x3E007FC, 0, fun w => .mwr (fld w 16 5) (fld w 11 5) (fld w 0 2)⟩,
   ⟨0x0D, 0, 0, 0x3E007F0, 0, fun w => .msto (fld w 16 5) (fld w 11 5) (fld w 2 2) (fld w 0 2)⟩,
   ⟨0x0E, 0, 0, 0x3FF07FC, 0, fun w => .mbias (fld w 11 5) (fld w 0 2)⟩]

def nRows0 : List DecodeRow :=
  [⟨0x01, 0, 0, 0x3F, 0x2000000, fun w => .send (fld w 21 4) (fld w 16 5) (fld w 11 5) (fld w 6 5)⟩,
   ⟨0x02, 0, 0, 0x3F, 0x2000000, fun w => .sendr (fld w 21 4) (fld w 16 5) (fld w 11 5) (fld w 6 5)⟩,
   ⟨0x03, 0, 0, 0x3F, 0x2000000, fun w => .sendt (fld w 21 4) (fld w 16 5) (fld w 11 5) (fld w 6 5)⟩,
   ⟨0x04, 0, 0, 0x3F, 0x2000000, fun w => .sendv (fld w 21 4) (fld w 16 5) (fld w 11 5) (fld w 6 5)⟩,
   ⟨0x05, 0, 0, 0x3F, 0x2000000, fun w => .post (fld w 21 4) (fld w 16 5) (fld w 11 5) (fld w 6 5)⟩,
   ⟨0x06, 0, 0, 0x3F, 0x2000000, fun w => .postm (fld w 21 4) (fld w 16 5) (fld w 11 5) (fld w 6 5)⟩,
   ⟨0x07, 0, 0, 0x3F, 0x2000000, fun w => .posta (fld w 21 4) (fld w 16 5) (fld w 11 5) (fld w 6 5)⟩,
   ⟨0x08, 0, 0, 0x1FFFF8, 0x2000000, fun w => .waitm (fld w 21 4) (fld w 0 3)⟩,
   ⟨0x09, 0, 0, 0x1FFFF8, 0x2000000, fun w => .testm (fld w 21 4) (fld w 0 3)⟩,
   ⟨0x0A, 0, 0, 0xFFFC, 0x100000, fun w => .mrec (fld w 21 5) (fld w 16 4) (fld w 0 2)⟩,
   ⟨0x0B, 0, 0, 0x1FFFFF, 0x2000000, fun w => .cancel (fld w 21 4)⟩,
   ⟨0x0C, 0, 0, 0x7F8, 0, fun w => .probe (fld w 21 5) (fld w 16 5) (fld w 11 5) (fld w 0 3)⟩,
   ⟨0x0D, 0, 0, 0x3F, 0x2000000, fun w => .get (fld w 21 4) (fld w 16 5) (fld w 11 5) (fld w 6 5)⟩,
   ⟨0x0E, 0, 0, 0x3F, 0x2000000, fun w => .put (fld w 21 4) (fld w 16 5) (fld w 11 5) (fld w 6 5)⟩,
   ⟨0x0F, 0, 0, 0x3F, 0x2000000, fun w => .getb (fld w 21 4) (fld w 16 5) (fld w 11 5) (fld w 6 5)⟩,
   ⟨0x10, 0, 0, 0x3F, 0x2000000, fun w => .putb (fld w 21 4) (fld w 16 5) (fld w 11 5) (fld w 6 5)⟩]

def nRows1 : List DecodeRow :=
  [⟨0x11, 0, 0, 0x3F, 0x2000000, fun w => .gath (fld w 21 4) (fld w 16 5) (fld w 11 5) (fld w 6 5)⟩,
   ⟨0x12, 0, 0, 0x3F, 0x2000000, fun w => .scat (fld w 21 4) (fld w 16 5) (fld w 11 5) (fld w 6 5)⟩,
   ⟨0x13, 0, 0, 0x3F, 0x2000000, fun w => .apply (fld w 21 4) (fld w 16 5) (fld w 11 5) (fld w 6 5)⟩,
   ⟨0x14, 0, 0, 0x3F, 0x2000000, fun w => .cas (fld w 21 4) (fld w 16 5) (fld w 11 5) (fld w 6 5)⟩,
   ⟨0x15, 0, 0, 0x3F, 0x2000000, fun w => .publ (fld w 21 4) (fld w 16 5) (fld w 11 5) (fld w 6 5)⟩,
   ⟨0x16, 0, 0, 0x3F, 0x2000000, fun w => .subs (fld w 21 4) (fld w 16 5) (fld w 11 5) (fld w 6 5)⟩,
   ⟨0x17, 0, 0, 0x1FFFFF, 0x2000000, fun w => .unpub (fld w 21 4)⟩,
   ⟨0x18, 0, 0, 0x1FFFFF, 0x2000000, fun w => .freeh (fld w 21 4)⟩]

/-- The N-slot words (R181). -/
def nRows : List DecodeRow := nRows0 ++ nRows1

/-- The G-slot words (R181). -/
def gRows : List DecodeRow :=
  [⟨0x01, 0, 0, 0, 0x2000000, fun w => .bld (fld w 21 4) (fld w 16 5) (fld w 0 16)⟩,
   ⟨0x02, 0, 0, 0, 0x2000000, fun w => .bst (fld w 21 4) (fld w 16 5) (fld w 0 16)⟩,
   ⟨0x03, 0, 0, 0x1FFFFF, 0x2000000, fun w => .bzero (fld w 21 4)⟩,
   ⟨0x04, 0, 0, 0x7FF, 0x2108000, fun w => .badd (fld w 21 4) (fld w 16 4) (fld w 11 4)⟩,
   ⟨0x05, 0, 0, 0x7FF, 0x2108000, fun w => .bsub (fld w 21 4) (fld w 16 4) (fld w 11 4)⟩,
   ⟨0x06, 0, 0, 0x7FF, 0x2100000, fun w => .bperm (fld w 21 4) (fld w 16 4) (fld w 11 5)⟩,
   ⟨0x07, 0, 0, 0xFF00, 0x2100000, fun w => .bmarg (fld w 21 4) (fld w 16 4) (fld w 0 8)⟩,
   ⟨0x08, 0, 0, 0x7FF, 0x2108000, fun w => .bdamp (fld w 21 4) (fld w 16 4) (fld w 11 4)⟩,
   ⟨0x09, 0, 0, 0xFFFF, 0x2100000, fun w => .bmean (fld w 21 4) (fld w 16 4)⟩,
   ⟨0x0A, 0, 0, 0x7FF, 0x2108000, fun w => .bres (fld w 21 4) (fld w 16 4) (fld w 11 4)⟩,
   ⟨0x0B, 0, 0, 0x7FF, 0x2108000, fun w => .breg (fld w 21 4) (fld w 16 4) (fld w 11 4)⟩,
   ⟨0x0C, 0, 0, 0x38007FF, 0, fun w => .sig (fld w 21 2) (fld w 16 5) (fld w 11 5)⟩,
   ⟨0x0D, 0, 0, 0x31CE7FF, 0, fun w => .scmp (fld w 21 3) (fld w 16 2) (fld w 11 2)⟩,
   ⟨0x0E, 0, 0, 0x3E0FFF8, 0, fun w => .skset (fld w 16 5) (fld w 0 3)⟩,
   ⟨0x0F, 0, 0, 0x3FFFFFF, 0, fun _ => .stepa⟩,
   ⟨0x10, 0, 0, 0x380FFFF, 0, fun w => .sigst (fld w 21 2) (fld w 16 5)⟩]

/-- The table of slot `k`: 0 C, 1 and 2 I, 3 M, 4 V, 5 X, 6 N, 7 G (R21). -/
def slotRows (k : Nat) : List DecodeRow :=
  match k with
  | 0 => cRows
  | 1 => iRows
  | 2 => iRows
  | 3 => mRows
  | 4 => vRows
  | 5 => xRows
  | 6 => nRows
  | _ => gRows

/-- The rows of slot `k` that have the opcode of `w`. -/
def opRows (k : Nat) (w : W32) : List DecodeRow := (slotRows k).filter fun r => r.op == (fld w 26 6).toNat

/-- The row of slot `k` whose opcode and function value `w` has. -/
def findRow (k : Nat) (w : W32) : Option DecodeRow := (opRows k w).find? fun r => w &&& r.fmask == r.fval

/-- Decodes the word of slot `k`, or gives the reason of R353 for which it is reserved: 0 opcode, 1 function or kind value,
2 must-be-zero field, 3 register beyond its file; the lowest that applies (R354). -/
def decodeSlot (k : Nat) (w : W32) : Except Nat Instr :=
  if fld w 26 6 = 0 then (if w = 0 then .ok .nop else .error 2)
  else if (opRows k w).isEmpty then .error 0
  else match findRow k w with
    | none => .error 1
    | some r =>
      if (r.make w).wellFormed = false then .error 1
      else if w &&& r.zero ≠ 0 then .error 2
      else if w &&& r.file ≠ 0 then .error 3
      else .ok (r.make w)

/-- The slot that an instruction belongs to, slot 1 for the I slots; none for a step that has no word. -/
def slotOf : Instr → Option Nat
  | .nop | .br _ | .brp _ _ _ _ _ | .call _ | .callr _ | .jmpr _ | .loop _ _ _ | .loopi _ _ _ | .endT | .trap _ | .tret
  | .waitb _ _ | .arrb _ | .setb _ _ | .waitw | .donew _ | .yield | .sleept _ | .getc _ _ | .setc _ _ => some 0
  | .upoolWrite _ _ | .namedBarrierWrite _ _ | .touchWrite _ _ | .fpflagsClear _ | .oorflagClear _ => none
  | .fence | .syncx => some 0
  | .branchResolve => none
  | .add _ _ _ | .sub _ _ _ | .and _ _ _ | .or _ _ _ | .xor _ _ _ | .shl _ _ _ | .shr _ _ _ | .sra _ _ _ | .min _ _ _
  | .max _ _ _ | .minz _ _ _ | .maxz _ _ _ | .mul _ _ _ | .mulh _ _ _ | .mulhz _ _ _ | .div _ _ _ | .divz _ _ _ | .rem _ _ _
  | .remz _ _ _ | .clz _ _ | .popc _ _ | .andn _ _ _ | .addi _ _ _ | .andi _ _ _ | .ori _ _ _ | .xori _ _ _ | .shli _ _ _
  | .shri _ _ _ | .srai _ _ _ | .movi _ _ | .movhi _ _ _ | .cmp _ _ _ _ | .cmpi _ _ _ _ | .sel _ _ _ _ | .bfx _ _ _ _
  | .bfxs _ _ _ _ | .bfi _ _ _ _ | .pand _ _ _ | .por _ _ _ | .pxor _ _ _ | .pandn _ _ _ | .fadd _ _ _ | .fsub _ _ _
  | .fmul _ _ _ | .fdiv _ _ _ | .fmin _ _ _ | .fmax _ _ _ | .fsqrt _ _ | .fabs _ _ | .fneg _ _ | .ffma _ _ _ _
  | .fcmp _ _ _ _ | .fcvtF2i _ _ | .fcvtF2iz _ _ | .fcvtI2f _ _ | .fcvtIz2f _ _ | .fcvtF2bf _ _ | .fcvtBf2f _ _
  | .fcvtF2h _ _ | .fcvtH2f _ _ | .movsf _ _ | .movfs _ _ | .fmovi _ _ => some 1
  | .ldb _ _ _ | .ldbz _ _ _ | .ldh _ _ _ | .ldhz _ _ _ | .ldw _ _ _ | .ldwz _ _ _ | .ldd _ _ _ | .stb _ _ _ | .sth _ _ _
  | .stw _ _ _ | .std _ _ _ | .ldx _ _ _ _ _ | .stx _ _ _ _ _ | .ldv _ _ _ | .stv _ _ _ | .ldvs _ _ _ | .stvs _ _ _
  | .ldvx _ _ _ | .stvx _ _ _ | .ldf _ _ _ | .stf _ _ _ | .anvw _ _ => some 3
  | .anvwComplete => none
  | .anvr _ _ | .fill _ _ | .copy _ _ _ | .ldxa _ _ _ | .stxa _ _ _ => some 3
  | .vadd _ _ _ _ | .vsub _ _ _ _ | .vmul _ _ _ _ | .vmin _ _ _ _ | .vmax _ _ _ _ | .vabs _ _ _ | .vneg _ _ _
  | .vfma _ _ _ _ | .vfms _ _ _ _ | .vrcp _ _ _ | .vrsq _ _ _ | .vexp2 _ _ _ | .vlog2 _ _ _ | .vtanh _ _ _ | .vsigm _ _ _
  | .vsqrt _ _ _ | .viadd _ _ _ _ | .visub _ _ _ _ | .vimul _ _ _ _ | .vand _ _ _ _ | .vor _ _ _ _ | .vxor _ _ _ _
  | .vshl _ _ _ _ | .vshr _ _ _ _ | .vsra _ _ _ _ | .vimin _ _ _ _ | .vimax _ _ _ _ | .vcmp _ _ _ _ _ | .vsel _ _ _ _
  | .vcvtF2bf _ _ _ | .vcvtBf2f _ _ _ | .vcvtF2h _ _ _ | .vcvtH2f _ _ _ | .vcvtF2e4 _ _ _ | .vcvtE42f _ _ _
  | .vcvtF2e5 _ _ _ | .vcvtE52f _ _ _ | .vcvtF2i _ _ _ | .vcvtI2f _ _ _ | .vbmax _ _ _ | .vpack4 _ _ _ | .vunpk4 _ _ _
  | .vsum _ _ _ | .vrmax _ _ _ | .vrmin _ _ _ | .vbcast _ _ _ | .vbcastf _ _ _ | .vshuf _ _ _ _ | .vslide _ _ _ _ _
  | .vmovmToMask _ _ | .vmand _ _ _ | .vmor _ _ _ | .vmnot _ _ | .vmovmToScalar _ _ | .vxacF32 _ _ _ | .vxacBf16 _ _ _
  | .vxrdF32 _ _ _ | .vxrdBf16 _ _ _ | .vxclr _ _ | .vlane _ _ | .vgets _ _ _ | .vputs _ _ _ => some 4
  | .mldb _ _ | .mldbg _ _ _ | .mmaBb _ _ _ _ | .mmaHh _ _ _ _ | .mmaEe _ _ _ _ | .mmaEf _ _ _ _ | .mmaFe _ _ _ _
  | .mmaFf _ _ _ _ | .mmaEq _ _ _ _ | .mmaBq _ _ _ _ | .mzero _ | .mrd _ _ _ | .mwr _ _ _ | .msto _ _ _ _ | .mbias _ _ => some 5
  | .send _ _ _ _ | .sendr _ _ _ _ | .sendt _ _ _ _ | .sendv _ _ _ _ | .post _ _ _ _ | .postm _ _ _ _ | .posta _ _ _ _
  | .waitm _ _ | .testm _ _ | .mrec _ _ _ | .cancel _ | .probe _ _ _ _ | .get _ _ _ _ | .put _ _ _ _ | .getb _ _ _ _
  | .putb _ _ _ _ | .gath _ _ _ _ | .scat _ _ _ _ | .apply _ _ _ _ | .cas _ _ _ _ | .publ _ _ _ _ | .subs _ _ _ _ | .unpub _
  | .freeh _ => some 6
  | .bld _ _ _ | .bst _ _ _ | .bzero _ | .badd _ _ _ | .bsub _ _ _ | .bperm _ _ _ | .bmarg _ _ _ | .bdamp _ _ _ | .bmean _ _
  | .bres _ _ _ | .breg _ _ _ | .sig _ _ _ | .scmp _ _ _ | .skset _ _ | .stepa | .sigst _ _ => some 7
  | .watchdog | .eager _ | .rts _ | .cts _ | .data _ | .ack _ | .absent _ | .busy _ | .retryInterval _ _ | .release _
  | .revoke _ | .timedSendRelease _ _ | .escapeChannel _ | .subscribe _ | .prune _ | .contrailRound _ _ | .cdata _
  | .ucdata _ | .uetFailure _ _ | .qget _ | .qput _ | .qgetb _ | .qputb _ | .qgath _ | .qscat _ | .applyAdd32 _
  | .applyAdd64 _ | .applyAnd64 _ | .applyOr64 _ | .applyXor64 _ | .applySmin64 _ | .applySmax64 _ | .applyUmin64 _
  | .applyUmax64 _ | .applySwap64 _ | .applyFadd32 _ | .applyXadd _ | .applyReserved _ | .qcas _ | .fenceProbe _ _
  | .sdata _ | .sdone _ | .echo _ _ | .shardTimeout _ _ _ | .pendlimitExpiry _ _ _ _ | .swapHold _ _ _ _ | .burstRead _ _ _
  | .burstWrite _ _ _ _ | .laneSwap _ _ _ | .laneWindowEnd _ _ | .remapEpochEnd _ | .swapDone _ | .retentionEntry _ _
  | .retentionScrub _ _ | .hcontrib _ | .hpart _ | .hresult _ | .haloNodeFailed _ | .launch _ | .imageHeaderRead _
  | .agingStep _ | .drainReservation _ | .placement _ | .imageFetch _ _ | .preemption _ | .preempted _ | .resume _
  | .tileEnd _ | .leaseExpiry _ | .gangFaulted _ | .faultDeliveryTimeout _ | .withdraw _ | .workItem _ | .itemDelivery _
  | .donewAck _ | .twinCompareTimeout _ | .logRecordDelivery _ | .hostSend _ _ | .hostSendr _ _ | .hostPost _ _
  | .hostCancel _ _ | .hostGet _ _ | .hostPut _ _ | .hostDeniedOp _ _ | .completionQueueWrite _ | .sqtailWrite _ _
  | .hwctlEnWrite _ _ | .qerrClear _ _ | .cqheadWrite _ _ | .elheadWrite _ | .jheadWrite _ | .pwrlimWrite _
  | .alarmctlWrite _ | .alarmstatClear _ | .remapctlWrite _ _ | .lockedFieldWrite _ _ _ | .hostRegisterWrite _ _ _ _
  | .lockInterface _ | .startInterface _ | .stopInterface _ | .getDeviceInterfaceReport _ | .ideIntegrityFailure _ _
  | .partitionAssign _ _ | .tilePartitionMove _ _ | .placerParameterSet _ _ _ | .groupDescriptorWrite _ _ _ _
  | .groupEntryWrite _ _ _ | .contextDescriptorWrite _ _ _ | .pageEntryChange _ _ _ _ _ | .poolRefill _ _ _
  | .failPendingShards _ _ | .keySlotLoad _ _ | .keySlotErase _ | .faultrankSet _ _ _ | .pkgmapWrite _ _
  | .tableRebuild _ _ _ | .alarm _ | .d3hotEntry | .timeSync _ | .startUp _ | .reservedEncoding | .resultLanding
  | .serverFailed _ | .tileClockLowering | .d0Entry | .srIovEnable _ _ => none

/-- The word of an instruction, from the layouts of R178 to R181; none for a step that has no word. -/
def encode : Instr → Option W32
  | .nop => some (0x00#6 ++ 0x0#26)
  | .br t => some (0x01#6 ++ 0x0#10 ++ t)
  | .brp s n h k t => some (0x02#6 ++ s ++ n ++ h ++ 0x0#4 ++ k ++ t)
  | .call t => some (0x03#6 ++ 0x0#10 ++ t)
  | .callr a => some (0x04#6 ++ 0x0#5 ++ a ++ 0x0#16)
  | .jmpr a => some (0x05#6 ++ 0x0#5 ++ a ++ 0x0#16)
  | .loop k a t => some (0x06#6 ++ 0x0#3 ++ k ++ a ++ t)
  | .loopi k n t => some (0x07#6 ++ k ++ n ++ t)
  | .endT => some (0x08#6 ++ 0x0#26)
  | .trap n => some (0x09#6 ++ 0x0#10 ++ n)
  | .tret => some (0x0A#6 ++ 0x0#26)
  | .waitb a k => some (0x0B#6 ++ 0x0#5 ++ a ++ 0x0#10 ++ k)
  | .arrb k => some (0x0C#6 ++ 0x0#20 ++ k)
  | .setb a k => some (0x0D#6 ++ 0x0#5 ++ a ++ 0x0#10 ++ k)
  | .waitw => some (0x0E#6 ++ 0x0#26)
  | .donew a => some (0x0F#6 ++ 0x0#5 ++ a ++ 0x0#16)
  | .yield => some (0x10#6 ++ 0x0#26)
  | .sleept a => some (0x11#6 ++ 0x0#5 ++ a ++ 0x0#16)
  | .getc d i => some (0x12#6 ++ d ++ 0x0#9 ++ i)
  | .setc a i => some (0x13#6 ++ 0x0#5 ++ a ++ 0x0#4 ++ i)
  | .upoolWrite _ _ | .namedBarrierWrite _ _ | .touchWrite _ _ | .fpflagsClear _ | .oorflagClear _ => none
  | .fence => some (0x14#6 ++ 0x0#26)
  | .syncx => some (0x15#6 ++ 0x0#26)
  | .branchResolve => none
  | .add d a b => some (0x01#6 ++ d ++ a ++ b ++ 0x0#11)
  | .sub d a b => some (0x01#6 ++ d ++ a ++ b ++ 0x1#11)
  | .and d a b => some (0x01#6 ++ d ++ a ++ b ++ 0x2#11)
  | .or d a b => some (0x01#6 ++ d ++ a ++ b ++ 0x3#11)
  | .xor d a b => some (0x01#6 ++ d ++ a ++ b ++ 0x4#11)
  | .shl d a b => some (0x01#6 ++ d ++ a ++ b ++ 0x5#11)
  | .shr d a b => some (0x01#6 ++ d ++ a ++ b ++ 0x6#11)
  | .sra d a b => some (0x01#6 ++ d ++ a ++ b ++ 0x7#11)
  | .min d a b => some (0x01#6 ++ d ++ a ++ b ++ 0x8#11)
  | .max d a b => some (0x01#6 ++ d ++ a ++ b ++ 0x9#11)
  | .minz d a b => some (0x01#6 ++ d ++ a ++ b ++ 0xA#11)
  | .maxz d a b => some (0x01#6 ++ d ++ a ++ b ++ 0xB#11)
  | .mul d a b => some (0x01#6 ++ d ++ a ++ b ++ 0xC#11)
  | .mulh d a b => some (0x01#6 ++ d ++ a ++ b ++ 0xD#11)
  | .mulhz d a b => some (0x01#6 ++ d ++ a ++ b ++ 0xE#11)
  | .div d a b => some (0x01#6 ++ d ++ a ++ b ++ 0xF#11)
  | .divz d a b => some (0x01#6 ++ d ++ a ++ b ++ 0x10#11)
  | .rem d a b => some (0x01#6 ++ d ++ a ++ b ++ 0x11#11)
  | .remz d a b => some (0x01#6 ++ d ++ a ++ b ++ 0x12#11)
  | .clz d a => some (0x01#6 ++ d ++ a ++ 0x13#16)
  | .popc d a => some (0x01#6 ++ d ++ a ++ 0x14#16)
  | .andn d a b => some (0x01#6 ++ d ++ a ++ b ++ 0x15#11)
  | .addi d a i => some (0x02#6 ++ d ++ a ++ i)
  | .andi d a i => some (0x03#6 ++ d ++ a ++ i)
  | .ori d a i => some (0x04#6 ++ d ++ a ++ i)
  | .xori d a i => some (0x05#6 ++ d ++ a ++ i)
  | .shli d a n => some (0x06#6 ++ d ++ a ++ 0x0#10 ++ n)
  | .shri d a n => some (0x06#6 ++ d ++ a ++ 0x100#10 ++ n)
  | .srai d a n => some (0x06#6 ++ d ++ a ++ 0x200#10 ++ n)
  | .movi d i => some (0x07#6 ++ d ++ 0x0#5 ++ i)
  | .movhi d q i => some (0x08#6 ++ d ++ 0x0#3 ++ q ++ i)
  | .cmp k a b c => some (0x09#6 ++ k ++ 0x0#2 ++ a ++ b ++ 0x0#8 ++ c)
  | .cmpi k a c i => some (0x0A#6 ++ k ++ 0x0#2 ++ a ++ c ++ i)
  | .sel d a b k => some (0x0B#6 ++ d ++ a ++ b ++ 0x0#8 ++ k)
  | .bfx d a p l => some (0x0C#6 ++ d ++ a ++ 0x0#4 ++ p ++ l)
  | .bfxs d a p l => some (0x0C#6 ++ d ++ a ++ 0x1#4 ++ p ++ l)
  | .bfi d a p l => some (0x0D#6 ++ d ++ a ++ 0x0#4 ++ p ++ l)
  | .pand k i j => some (0x0E#6 ++ k ++ 0x0#4 ++ i ++ 0x0#2 ++ j ++ 0x0#11)
  | .por k i j => some (0x0E#6 ++ k ++ 0x0#4 ++ i ++ 0x0#2 ++ j ++ 0x1#11)
  | .pxor k i j => some (0x0E#6 ++ k ++ 0x0#4 ++ i ++ 0x0#2 ++ j ++ 0x2#11)
  | .pandn k i j => some (0x0E#6 ++ k ++ 0x0#4 ++ i ++ 0x0#2 ++ j ++ 0x3#11)
  | .fadd d a b => some (0x0F#6 ++ 0x0#1 ++ d ++ 0x0#1 ++ a ++ 0x0#1 ++ b ++ 0x0#11)
  | .fsub d a b => some (0x0F#6 ++ 0x0#1 ++ d ++ 0x0#1 ++ a ++ 0x0#1 ++ b ++ 0x1#11)
  | .fmul d a b => some (0x0F#6 ++ 0x0#1 ++ d ++ 0x0#1 ++ a ++ 0x0#1 ++ b ++ 0x2#11)
  | .fdiv d a b => some (0x0F#6 ++ 0x0#1 ++ d ++ 0x0#1 ++ a ++ 0x0#1 ++ b ++ 0x3#11)
  | .fmin d a b => some (0x0F#6 ++ 0x0#1 ++ d ++ 0x0#1 ++ a ++ 0x0#1 ++ b ++ 0x4#11)
  | .fmax d a b => some (0x0F#6 ++ 0x0#1 ++ d ++ 0x0#1 ++ a ++ 0x0#1 ++ b ++ 0x5#11)
  | .fsqrt d a => some (0x0F#6 ++ 0x0#1 ++ d ++ 0x0#1 ++ a ++ 0x6#16)
  | .fabs d a => some (0x0F#6 ++ 0x0#1 ++ d ++ 0x0#1 ++ a ++ 0x7#16)
  | .fneg d a => some (0x0F#6 ++ 0x0#1 ++ d ++ 0x0#1 ++ a ++ 0x8#16)
  | .ffma d a b c => some (0x10#6 ++ 0x0#1 ++ d ++ 0x0#1 ++ a ++ 0x0#1 ++ b ++ 0x0#1 ++ c ++ 0x0#6)
  | .fcmp k a b c => some (0x11#6 ++ k ++ 0x0#3 ++ a ++ 0x0#1 ++ b ++ 0x0#8 ++ c)
  | .fcvtF2i d a => some (0x12#6 ++ d ++ 0x0#1 ++ a ++ 0x0#16)
  | .fcvtF2iz d a => some (0x12#6 ++ d ++ 0x0#1 ++ a ++ 0x1#16)
  | .fcvtI2f d a => some (0x12#6 ++ 0x0#1 ++ d ++ a ++ 0x2#16)
  | .fcvtIz2f d a => some (0x12#6 ++ 0x0#1 ++ d ++ a ++ 0x3#16)
  | .fcvtF2bf d a => some (0x12#6 ++ d ++ 0x0#1 ++ a ++ 0x4#16)
  | .fcvtBf2f d a => some (0x12#6 ++ 0x0#1 ++ d ++ a ++ 0x5#16)
  | .fcvtF2h d a => some (0x12#6 ++ d ++ 0x0#1 ++ a ++ 0x6#16)
  | .fcvtH2f d a => some (0x12#6 ++ 0x0#1 ++ d ++ a ++ 0x7#16)
  | .movsf d a => some (0x13#6 ++ d ++ 0x0#1 ++ a ++ 0x0#16)
  | .movfs d a => some (0x14#6 ++ 0x0#1 ++ d ++ a ++ 0x0#16)
  | .fmovi d i => some (0x15#6 ++ 0x0#1 ++ d ++ 0x0#5 ++ i)
  | .ldb d a o => some (0x01#6 ++ d ++ a ++ 0x0#3 ++ o)
  | .ldbz d a o => some (0x01#6 ++ d ++ a ++ 0x1#3 ++ o)
  | .ldh d a o => some (0x01#6 ++ d ++ a ++ 0x2#3 ++ o)
  | .ldhz d a o => some (0x01#6 ++ d ++ a ++ 0x3#3 ++ o)
  | .ldw d a o => some (0x01#6 ++ d ++ a ++ 0x4#3 ++ o)
  | .ldwz d a o => some (0x01#6 ++ d ++ a ++ 0x5#3 ++ o)
  | .ldd d a o => some (0x01#6 ++ d ++ a ++ 0x6#3 ++ o)
  | .stb d a o => some (0x02#6 ++ d ++ a ++ 0x0#3 ++ o)
  | .sth d a o => some (0x02#6 ++ d ++ a ++ 0x2#3 ++ o)
  | .stw d a o => some (0x02#6 ++ d ++ a ++ 0x4#3 ++ o)
  | .std d a o => some (0x02#6 ++ d ++ a ++ 0x6#3 ++ o)
  | .ldx d a b c z => some (0x03#6 ++ d ++ a ++ b ++ 0x0#7 ++ c ++ z)
  | .stx d a b c z => some (0x04#6 ++ d ++ a ++ b ++ 0x0#7 ++ c ++ z)
  | .ldv d a i => some (0x05#6 ++ d ++ a ++ i)
  | .stv d a i => some (0x06#6 ++ d ++ a ++ i)
  | .ldvs d a b => some (0x07#6 ++ d ++ a ++ b ++ 0x0#11)
  | .stvs d a b => some (0x08#6 ++ d ++ a ++ b ++ 0x0#11)
  | .ldvx d a b => some (0x09#6 ++ d ++ a ++ b ++ 0x0#11)
  | .stvx d a b => some (0x0A#6 ++ d ++ a ++ b ++ 0x0#11)
  | .ldf d a o => some (0x0B#6 ++ 0x0#1 ++ d ++ a ++ 0x0#3 ++ o)
  | .stf d a o => some (0x0C#6 ++ 0x0#1 ++ d ++ a ++ 0x0#3 ++ o)
  | .anvw a b => some (0x0D#6 ++ 0x0#5 ++ a ++ b ++ 0x0#11)
  | .anvwComplete => none
  | .anvr a b => some (0x0E#6 ++ 0x0#5 ++ a ++ b ++ 0x0#11)
  | .fill a b => some (0x0F#6 ++ 0x0#5 ++ a ++ b ++ 0x0#11)
  | .copy d a b => some (0x10#6 ++ d ++ a ++ b ++ 0x0#11)
  | .ldxa d a o => some (0x11#6 ++ 0x0#4 ++ d ++ a ++ 0x0#3 ++ o)
  | .stxa d a o => some (0x12#6 ++ 0x0#4 ++ d ++ a ++ 0x0#3 ++ o)
  | .vadd d a b m => some (0x01#6 ++ d ++ a ++ b ++ m ++ 0x0#8)
  | .vsub d a b m => some (0x01#6 ++ d ++ a ++ b ++ m ++ 0x1#8)
  | .vmul d a b m => some (0x01#6 ++ d ++ a ++ b ++ m ++ 0x2#8)
  | .vmin d a b m => some (0x01#6 ++ d ++ a ++ b ++ m ++ 0x3#8)
  | .vmax d a b m => some (0x01#6 ++ d ++ a ++ b ++ m ++ 0x4#8)
  | .vabs d a m => some (0x01#6 ++ d ++ a ++ 0x0#5 ++ m ++ 0x5#8)
  | .vneg d a m => some (0x01#6 ++ d ++ a ++ 0x0#5 ++ m ++ 0x6#8)
  | .vfma d a b m => some (0x02#6 ++ d ++ a ++ b ++ m ++ 0x0#8)
  | .vfms d a b m => some (0x03#6 ++ d ++ a ++ b ++ m ++ 0x0#8)
  | .vrcp d a m => some (0x04#6 ++ d ++ a ++ 0x0#5 ++ m ++ 0x0#8)
  | .vrsq d a m => some (0x04#6 ++ d ++ a ++ 0x0#5 ++ m ++ 0x1#8)
  | .vexp2 d a m => some (0x04#6 ++ d ++ a ++ 0x0#5 ++ m ++ 0x2#8)
  | .vlog2 d a m => some (0x04#6 ++ d ++ a ++ 0x0#5 ++ m ++ 0x3#8)
  | .vtanh d a m => some (0x04#6 ++ d ++ a ++ 0x0#5 ++ m ++ 0x4#8)
  | .vsigm d a m => some (0x04#6 ++ d ++ a ++ 0x0#5 ++ m ++ 0x5#8)
  | .vsqrt d a m => some (0x04#6 ++ d ++ a ++ 0x0#5 ++ m ++ 0x6#8)
  | .viadd d a b m => some (0x05#6 ++ d ++ a ++ b ++ m ++ 0x0#8)
  | .visub d a b m => some (0x05#6 ++ d ++ a ++ b ++ m ++ 0x1#8)
  | .vimul d a b m => some (0x05#6 ++ d ++ a ++ b ++ m ++ 0x2#8)
  | .vand d a b m => some (0x05#6 ++ d ++ a ++ b ++ m ++ 0x3#8)
  | .vor d a b m => some (0x05#6 ++ d ++ a ++ b ++ m ++ 0x4#8)
  | .vxor d a b m => some (0x05#6 ++ d ++ a ++ b ++ m ++ 0x5#8)
  | .vshl d a b m => some (0x05#6 ++ d ++ a ++ b ++ m ++ 0x6#8)
  | .vshr d a b m => some (0x05#6 ++ d ++ a ++ b ++ m ++ 0x7#8)
  | .vsra d a b m => some (0x05#6 ++ d ++ a ++ b ++ m ++ 0x8#8)
  | .vimin d a b m => some (0x05#6 ++ d ++ a ++ b ++ m ++ 0x9#8)
  | .vimax d a b m => some (0x05#6 ++ d ++ a ++ b ++ m ++ 0xA#8)
  | .vcmp k a b m c => some (0x06#6 ++ 0x0#2 ++ k ++ a ++ b ++ m ++ c)
  | .vsel d a b k => some (0x07#6 ++ d ++ a ++ b ++ k ++ 0x0#8)
  | .vcvtF2bf d a m => some (0x08#6 ++ d ++ a ++ 0x0#5 ++ m ++ 0x0#8)
  | .vcvtBf2f d a m => some (0x08#6 ++ d ++ a ++ 0x0#5 ++ m ++ 0x1#8)
  | .vcvtF2h d a m => some (0x08#6 ++ d ++ a ++ 0x0#5 ++ m ++ 0x2#8)
  | .vcvtH2f d a m => some (0x08#6 ++ d ++ a ++ 0x0#5 ++ m ++ 0x3#8)
  | .vcvtF2e4 d a m => some (0x08#6 ++ d ++ a ++ 0x0#5 ++ m ++ 0x4#8)
  | .vcvtE42f d a m => some (0x08#6 ++ d ++ a ++ 0x0#5 ++ m ++ 0x5#8)
  | .vcvtF2e5 d a m => some (0x08#6 ++ d ++ a ++ 0x0#5 ++ m ++ 0x6#8)
  | .vcvtE52f d a m => some (0x08#6 ++ d ++ a ++ 0x0#5 ++ m ++ 0x7#8)
  | .vcvtF2i d a m => some (0x08#6 ++ d ++ a ++ 0x0#5 ++ m ++ 0x8#8)
  | .vcvtI2f d a m => some (0x08#6 ++ d ++ a ++ 0x0#5 ++ m ++ 0x9#8)
  | .vbmax d a m => some (0x09#6 ++ d ++ a ++ 0x0#5 ++ m ++ 0x0#8)
  | .vpack4 d a b => some (0x0A#6 ++ d ++ a ++ b ++ 0x0#11)
  | .vunpk4 d a b => some (0x0B#6 ++ d ++ a ++ b ++ 0x0#11)
  | .vsum d a m => some (0x0C#6 ++ 0x0#1 ++ d ++ a ++ 0x0#5 ++ m ++ 0x0#8)
  | .vrmax d a m => some (0x0C#6 ++ 0x0#1 ++ d ++ a ++ 0x0#5 ++ m ++ 0x1#8)
  | .vrmin d a m => some (0x0C#6 ++ 0x0#1 ++ d ++ a ++ 0x0#5 ++ m ++ 0x2#8)
  | .vbcast d a m => some (0x0D#6 ++ d ++ a ++ 0x0#5 ++ m ++ 0x0#8)
  | .vbcastf d f m => some (0x0D#6 ++ d ++ 0x0#1 ++ f ++ 0x0#5 ++ m ++ 0x1#8)
  | .vshuf d a b m => some (0x0E#6 ++ d ++ a ++ b ++ m ++ 0x0#8)
  | .vslide d a b m n => some (0x0F#6 ++ d ++ a ++ b ++ m ++ 0x0#2 ++ n)
  | .vmovmToMask k a => some (0x10#6 ++ 0x0#2 ++ k ++ a ++ 0x0#16)
  | .vmand k i j => some (0x10#6 ++ 0x0#2 ++ k ++ 0x0#2 ++ i ++ 0x0#2 ++ j ++ 0x1#11)
  | .vmor k i j => some (0x10#6 ++ 0x0#2 ++ k ++ 0x0#2 ++ i ++ 0x0#2 ++ j ++ 0x2#11)
  | .vmnot k i => some (0x10#6 ++ 0x0#2 ++ k ++ 0x0#2 ++ i ++ 0x3#16)
  | .vmovmToScalar d i => some (0x10#6 ++ d ++ 0x0#2 ++ i ++ 0x4#16)
  | .vxacF32 d a m => some (0x11#6 ++ 0x0#4 ++ d ++ a ++ 0x0#5 ++ m ++ 0x0#8)
  | .vxacBf16 d a m => some (0x11#6 ++ 0x0#4 ++ d ++ a ++ 0x0#5 ++ m ++ 0x1#8)
  | .vxrdF32 d a m => some (0x12#6 ++ d ++ 0x0#4 ++ a ++ 0x0#5 ++ m ++ 0x0#8)
  | .vxrdBf16 d a m => some (0x12#6 ++ d ++ 0x0#4 ++ a ++ 0x0#5 ++ m ++ 0x1#8)
  | .vxclr d m => some (0x12#6 ++ 0x0#4 ++ d ++ 0x0#10 ++ m ++ 0x2#8)
  | .vlane d m => some (0x13#6 ++ d ++ 0x0#10 ++ m ++ 0x0#8)
  | .vgets d a n => some (0x14#6 ++ d ++ a ++ 0x0#10 ++ n)
  | .vputs d a n => some (0x14#6 ++ d ++ a ++ 0x1#10 ++ n)
  | .mldb a f => some (0x01#6 ++ 0x0#5 ++ a ++ 0x0#12 ++ f ++ 0x0#1)
  | .mldbg a b f => some (0x01#6 ++ 0x0#5 ++ a ++ b ++ 0x0#7 ++ f ++ 0x1#1)
  | .mmaBb k a b c => some (0x02#6 ++ 0x0#3 ++ k ++ a ++ b ++ c ++ 0x0#6)
  | .mmaHh k a b c => some (0x03#6 ++ 0x0#3 ++ k ++ a ++ b ++ c ++ 0x0#6)
  | .mmaEe k a b c => some (0x04#6 ++ 0x0#3 ++ k ++ a ++ b ++ c ++ 0x0#6)
  | .mmaEf k a b c => some (0x05#6 ++ 0x0#3 ++ k ++ a ++ b ++ c ++ 0x0#6)
  | .mmaFe k a b c => some (0x06#6 ++ 0x0#3 ++ k ++ a ++ b ++ c ++ 0x0#6)
  | .mmaFf k a b c => some (0x07#6 ++ 0x0#3 ++ k ++ a ++ b ++ c ++ 0x0#6)
  | .mmaEq k a b c => some (0x08#6 ++ 0x0#3 ++ k ++ a ++ b ++ c ++ 0x0#6)
  | .mmaBq k a b c => some (0x09#6 ++ 0x0#3 ++ k ++ a ++ b ++ c ++ 0x0#6)
  | .mzero k => some (0x0A#6 ++ 0x0#3 ++ k ++ 0x0#21)
  | .mrd d a k => some (0x0B#6 ++ d ++ a ++ 0x0#14 ++ k)
  | .mwr a b k => some (0x0C#6 ++ 0x0#5 ++ a ++ b ++ 0x0#9 ++ k)
  | .msto a b f k => some (0x0D#6 ++ 0x0#5 ++ a ++ b ++ 0x0#7 ++ f ++ k)
  | .mbias b k => some (0x0E#6 ++ 0x0#10 ++ b ++ 0x0#9 ++ k)
  | .send d a b c => some (0x01#6 ++ 0x0#1 ++ d ++ a ++ b ++ c ++ 0x0#6)
  | .sendr d a b c => some (0x02#6 ++ 0x0#1 ++ d ++ a ++ b ++ c ++ 0x0#6)
  | .sendt d a b c => some (0x03#6 ++ 0x0#1 ++ d ++ a ++ b ++ c ++ 0x0#6)
  | .sendv d a b c => some (0x04#6 ++ 0x0#1 ++ d ++ a ++ b ++ c ++ 0x0#6)
  | .post d a b c => some (0x05#6 ++ 0x0#1 ++ d ++ a ++ b ++ c ++ 0x0#6)
  | .postm d a b c => some (0x06#6 ++ 0x0#1 ++ d ++ a ++ b ++ c ++ 0x0#6)
  | .posta d a b c => some (0x07#6 ++ 0x0#1 ++ d ++ a ++ b ++ c ++ 0x0#6)
  | .waitm k j => some (0x08#6 ++ 0x0#1 ++ k ++ 0x0#18 ++ j)
  | .testm k j => some (0x09#6 ++ 0x0#1 ++ k ++ 0x0#18 ++ j)
  | .mrec d k w => some (0x0A#6 ++ d ++ 0x0#1 ++ k ++ 0x0#14 ++ w)
  | .cancel k => some (0x0B#6 ++ 0x0#1 ++ k ++ 0x0#21)
  | .probe d a b j => some (0x0C#6 ++ d ++ a ++ b ++ 0x0#8 ++ j)
  | .get d a b c => some (0x0D#6 ++ 0x0#1 ++ d ++ a ++ b ++ c ++ 0x0#6)
  | .put d a b c => some (0x0E#6 ++ 0x0#1 ++ d ++ a ++ b ++ c ++ 0x0#6)
  | .getb d a b c => some (0x0F#6 ++ 0x0#1 ++ d ++ a ++ b ++ c ++ 0x0#6)
  | .putb d a b c => some (0x10#6 ++ 0x0#1 ++ d ++ a ++ b ++ c ++ 0x0#6)
  | .gath d a b c => some (0x11#6 ++ 0x0#1 ++ d ++ a ++ b ++ c ++ 0x0#6)
  | .scat d a b c => some (0x12#6 ++ 0x0#1 ++ d ++ a ++ b ++ c ++ 0x0#6)
  | .apply d a b c => some (0x13#6 ++ 0x0#1 ++ d ++ a ++ b ++ c ++ 0x0#6)
  | .cas d a b c => some (0x14#6 ++ 0x0#1 ++ d ++ a ++ b ++ c ++ 0x0#6)
  | .publ d a b c => some (0x15#6 ++ 0x0#1 ++ d ++ a ++ b ++ c ++ 0x0#6)
  | .subs d a b c => some (0x16#6 ++ 0x0#1 ++ d ++ a ++ b ++ c ++ 0x0#6)
  | .unpub k => some (0x17#6 ++ 0x0#1 ++ k ++ 0x0#21)
  | .freeh k => some (0x18#6 ++ 0x0#1 ++ k ++ 0x0#21)
  | .bld d a o => some (0x01#6 ++ 0x0#1 ++ d ++ a ++ o)
  | .bst d a o => some (0x02#6 ++ 0x0#1 ++ d ++ a ++ o)
  | .bzero d => some (0x03#6 ++ 0x0#1 ++ d ++ 0x0#21)
  | .badd d a b => some (0x04#6 ++ 0x0#1 ++ d ++ 0x0#1 ++ a ++ 0x0#1 ++ b ++ 0x0#11)
  | .bsub d a b => some (0x05#6 ++ 0x0#1 ++ d ++ 0x0#1 ++ a ++ 0x0#1 ++ b ++ 0x0#11)
  | .bperm d a b => some (0x06#6 ++ 0x0#1 ++ d ++ 0x0#1 ++ a ++ b ++ 0x0#11)
  | .bmarg d a k => some (0x07#6 ++ 0x0#1 ++ d ++ 0x0#1 ++ a ++ 0x0#8 ++ k)
  | .bdamp d a f => some (0x08#6 ++ 0x0#1 ++ d ++ 0x0#1 ++ a ++ 0x0#1 ++ f ++ 0x0#11)
  | .bmean d a => some (0x09#6 ++ 0x0#1 ++ d ++ 0x0#1 ++ a ++ 0x0#16)
  | .bres d a b => some (0x0A#6 ++ 0x0#1 ++ d ++ 0x0#1 ++ a ++ 0x0#1 ++ b ++ 0x0#11)
  | .breg d a f => some (0x0B#6 ++ 0x0#1 ++ d ++ 0x0#1 ++ a ++ 0x0#1 ++ f ++ 0x0#11)
  | .sig d a b => some (0x0C#6 ++ 0x0#3 ++ d ++ a ++ b ++ 0x0#11)
  | .scmp k i j => some (0x0D#6 ++ 0x0#2 ++ k ++ 0x0#3 ++ i ++ 0x0#3 ++ j ++ 0x0#11)
  | .skset a k => some (0x0E#6 ++ 0x0#5 ++ a ++ 0x0#13 ++ k)
  | .stepa => some (0x0F#6 ++ 0x0#26)
  | .sigst d a => some (0x10#6 ++ 0x0#3 ++ d ++ a ++ 0x0#16)
  | .watchdog | .eager _ | .rts _ | .cts _ | .data _ | .ack _ | .absent _ | .busy _ | .retryInterval _ _ | .release _
  | .revoke _ | .timedSendRelease _ _ | .escapeChannel _ | .subscribe _ | .prune _ | .contrailRound _ _ | .cdata _
  | .ucdata _ | .uetFailure _ _ | .qget _ | .qput _ | .qgetb _ | .qputb _ | .qgath _ | .qscat _ | .applyAdd32 _
  | .applyAdd64 _ | .applyAnd64 _ | .applyOr64 _ | .applyXor64 _ | .applySmin64 _ | .applySmax64 _ | .applyUmin64 _
  | .applyUmax64 _ | .applySwap64 _ | .applyFadd32 _ | .applyXadd _ | .applyReserved _ | .qcas _ | .fenceProbe _ _
  | .sdata _ | .sdone _ | .echo _ _ | .shardTimeout _ _ _ | .pendlimitExpiry _ _ _ _ | .swapHold _ _ _ _ | .burstRead _ _ _
  | .burstWrite _ _ _ _ | .laneSwap _ _ _ | .laneWindowEnd _ _ | .remapEpochEnd _ | .swapDone _ | .retentionEntry _ _
  | .retentionScrub _ _ | .hcontrib _ | .hpart _ | .hresult _ | .haloNodeFailed _ | .launch _ | .imageHeaderRead _
  | .agingStep _ | .drainReservation _ | .placement _ | .imageFetch _ _ | .preemption _ | .preempted _ | .resume _
  | .tileEnd _ | .leaseExpiry _ | .gangFaulted _ | .faultDeliveryTimeout _ | .withdraw _ | .workItem _ | .itemDelivery _
  | .donewAck _ | .twinCompareTimeout _ | .logRecordDelivery _ | .hostSend _ _ | .hostSendr _ _ | .hostPost _ _
  | .hostCancel _ _ | .hostGet _ _ | .hostPut _ _ | .hostDeniedOp _ _ | .completionQueueWrite _ | .sqtailWrite _ _
  | .hwctlEnWrite _ _ | .qerrClear _ _ | .cqheadWrite _ _ | .elheadWrite _ | .jheadWrite _ | .pwrlimWrite _
  | .alarmctlWrite _ | .alarmstatClear _ | .remapctlWrite _ _ | .lockedFieldWrite _ _ _ | .hostRegisterWrite _ _ _ _
  | .lockInterface _ | .startInterface _ | .stopInterface _ | .getDeviceInterfaceReport _ | .ideIntegrityFailure _ _
  | .partitionAssign _ _ | .tilePartitionMove _ _ | .placerParameterSet _ _ _ | .groupDescriptorWrite _ _ _ _
  | .groupEntryWrite _ _ _ | .contextDescriptorWrite _ _ _ | .pageEntryChange _ _ _ _ _ | .poolRefill _ _ _
  | .failPendingShards _ _ | .keySlotLoad _ _ | .keySlotErase _ | .faultrankSet _ _ _ | .pkgmapWrite _ _
  | .tableRebuild _ _ _ | .alarm _ | .d3hotEntry | .timeSync _ | .startUp _ | .reservedEncoding | .resultLanding
  | .serverFailed _ | .tileClockLowering | .d0Entry | .srIovEnable _ _ => none

/-- The number of bits that a row fixes, the opcode's six included. -/
def DecodeRow.fixedBits (r : DecodeRow) : Nat :=
  (List.range 26).foldl (fun n i => if (r.fmask ||| r.zero ||| r.file).getLsbD i then n + 1 else n) 6

/-- How well slot `k` reads a word that stands alone: a word whose fields are all zero first, then more fixed bits; 0 where the
slot does not decode it. -/
def slotScore (k : Nat) (w : W32) : Nat :=
  match decodeSlot k w with
  | .error _ => 0
  | .ok _ =>
    match findRow k w with
    | none => if k = 0 then 200 else 0
    | some r => r.fixedBits + (if w.extractLsb' 0 26 &&& ~~~((r.fmask ||| r.zero ||| r.file).extractLsb' 0 26) = 0 then 100 else 0)

/-- The slot in which a word that stands alone is read: the one with the greatest score, the first in the order V, I, C, M, X,
N, G at a tie. A word means something only in a slot, so this choice is the model's own (log 5). -/
def tableSlot (w : W32) : Nat :=
  ([4, 1, 0, 3, 5, 6, 7].foldl (fun (b : Nat × Nat) k => if b.2 < slotScore k w then (k, slotScore k w) else b) (0, 0)).1

/-- The instruction read from an opcode-table word (log 5). -/
def decodeTableWord (nbits w : Nat) : Option Instr :=
  if nbits ≤ 32 then
    match decodeSlot (tableSlot (BitVec.ofNat 32 w)) (BitVec.ofNat 32 w) with
    | .ok i => some i
    | .error _ => none
  else none

end Sys2Proof
end

