-- ==== Sys2Proof/Machine/Fetch.lean ====
section
/-!
DEFINITION. Fetching and decoding a bundle (R176, R177, R193, R353, R354).
-/
namespace Sys2Proof.Machine

/-- The 32-bit word at an instruction address; fetch wraps at the end of the store (R176). -/
def Tile.fetchWord (t : Tile) (a : Nat) : W32 :=
  let b (i : Nat) : Byte := Sparse.get 0 t.imem ((a + i) % Config.imemBytes)
  b 3 ++ b 2 ++ b 1 ++ b 0

/-- SLOTFORM bit 0: packed (R173). -/
def Tile.packed (t : Tile) : Bool := (t.cr crSLOTFORM).getLsbD 0

/-- A fetched bundle: position, slot and word of every word that is there, the header, and the successor (R193). -/
structure Bundle where
  words  : List (Nat × Nat × W32)
  header : W32
  succ   : Nat
  deriving DecidableEq, Repr

/-- The slots that a packed header names. -/
def slotsOf (h : W32) : List Nat := (List.range 8).filter fun k => h.getLsbD k

/-- The bundle at an address in the form of the image (R176, R355). -/
def Tile.bundleAt (t : Tile) (a : Nat) : Bundle :=
  if t.packed then
    let h := t.fetchWord a
    let ks := slotsOf h
    ⟨ks.zipIdx.map fun k => (k.2 + 1, k.1, t.fetchWord (a + 4 * (k.2 + 1))), h, (a + 4 * (1 + ks.length)) % Config.imemBytes⟩
  else ⟨(List.range 8).map fun k => (k, k, t.fetchWord (a + 4 * k)), 0, (a + 32) % Config.imemBytes⟩

/-- A reserved word: position, slot, word, reason. -/
structure Reserved where
  pos    : Nat
  slot   : Nat
  word   : W32
  reason : Nat
  deriving DecidableEq, Repr

/-- The decoded slots of a bundle; a word that is zero is no operation. -/
def Bundle.instrs (b : Bundle) : List (Nat × Instr) :=
  b.words.filterMap fun (w : Nat × Nat × W32) =>
    if w.2.2 == (0 : W32) then none
    else match decodeSlot w.2.1 w.2.2 with
      | .ok i => some (w.2.1, i)
      | .error _ => none

/-- The reserved words of a bundle in the order of position, the packed header first (R353, R354). -/
def Bundle.reserved (b : Bundle) : List Reserved :=
  (if b.header.extractLsb' 8 24 ≠ 0 then [⟨0, 0, b.header, 4⟩] else []) ++
  b.words.filterMap fun (w : Nat × Nat × W32) =>
    if w.2.2 == (0 : W32) then none
    else match decodeSlot w.2.1 w.2.2 with
      | .ok _ => none
      | .error r => some ⟨w.1, w.2.1, w.2.2, r⟩

/-- The slots whose words are not zero, as a mask (R334). -/
def Bundle.mask (b : Bundle) : Nat := b.words.foldl (fun m w => if w.2.2 = 0 then m else m ||| 2 ^ w.2.1) 0

/-- TINFO of RESERVED_ENCODING (R336). -/
def Reserved.info (r : Reserved) : Word := BitVec.ofNat 64 (r.word.toNat + r.pos * 2 ^ 32 + r.reason * 2 ^ 36)

/-- Takes RESERVED_ENCODING for a bundle whose reserved words are `r :: rs` (R354). -/
def State.reservedBundle (s : State) (b : Bundle) (r : Reserved) (rs : List Reserved) : State :=
  (s.onIss fun i => { i with slot := r.slot, addr := s.tile.thr.pc, succ := b.succ, loops := true, jump := none, src := none }).reservedTrap
    r.slot (!rs.isEmpty) r.info b.mask

/-- The address of the word at a position of a bundle (R176). -/
def wordAt (a pos : Nat) : Nat := (a + 4 * pos) % Config.imemBytes

/-- Whether the instruction word at an address is poisoned: poison is held by the byte address of an aligned word (R347). -/
def Tile.imemBad (t : Tile) (a : Nat) : Bool := t.poison.any fun p => match p with | .imem w => decide (w / 4 = a / 4) | _ => false

/-- The lowest poisoned word of those that a bundle at `a` fetches, the packed header among them (R347). -/
def Tile.imemUe (t : Tile) (a : Nat) (b : Bundle) : Option Nat :=
  ((if t.packed then [wordAt a 0] else []) ++ b.words.map fun w => wordAt a w.1).foldl
    (fun m x => if t.imemBad x then minOpt m (some x) else m) none

/-- What can be read of a bundle at `a`: nothing behind a poisoned packed header, and no poisoned word. -/
def Tile.readable (t : Tile) (a : Nat) (b : Bundle) : Bundle :=
  if t.packed && t.imemBad (wordAt a 0) then { b with header := 0, words := [] }
  else { b with words := b.words.filter fun w => !t.imemBad (wordAt a w.1) }

/-- RESERVED_ENCODING: the bundle at the program counter holds a reserved word, so none of its slots executes (R177, R331). -/
def execReservedEncoding (s : State) : Out :=
  let b := s.tile.bundleAt s.tile.thr.pc
  match b.reserved with
  | [] => .next s
  | r :: rs => .next (s.reservedBundle b r rs)

end Sys2Proof.Machine
end

