-- ==== Sys2Proof/Machine/Net.lean ====
section
/-!
DEFINITION. Sending and receiving (R82 to R104, R370 to R382): how a message leaves an interface, how one that arrives is matched,
delivered, refused or kept, and how both ends complete. A packet is handled when its header is presented to the matching engine.
-/
namespace Sys2Proof.Machine

/-! ### Parameters and destinations -/

/-- A parameter of a partition: 0 AGESTEP, 1 AGELIMIT, 2 HORIZON, 3 MAXPEND, 4 ABSLIMIT, 5 SHARDTO, 6 RETRYMAX, 7 RETIDLE; times in
microseconds (R34, R372, R434, R435). -/
def paramDefault (q : Nat) : Nat :=
  match q with
  | 0 => 1000 | 1 => 10000 | 2 => 1000000 | 3 => 4096 | 4 => 100000 | 5 => 500 | 6 => 8 | _ => 1000

def State.param (s : State) (part : Option Nat) (q : Nat) : Nat :=
  match part with
  | some p => Sparse.get (paramDefault q) (Sparse.get Part.zero s.parts p).params q
  | none => paramDefault q

/-- The partition of an interface. -/
def State.keyPart (s : State) (key : Nat) : Option Nat :=
  if isTile key then s.partOf key else if isHost key then (s.getFn (key - 0x500)).part else none

/-- Tile-clock cycles in a number of nanoseconds (R27, R317). -/
def State.cyclesOf (s : State) (ns : Nat) : Nat := (ns * s.mgmt.clock + 9) / 10

/-- The trailing tile of a pair: nothing of its own leaves it (R388, R431). -/
def State.trailing (s : State) (key : Nat) : Bool :=
  isTile key && (match (s.getTile key).twin with | some w => !w.lead | none => false)

/-- The endpoint of a trailing tile is hidden, also while its gang loads or is suspended: TILEID names the leading tile there (R428). -/
def Tile.hidden (t : Tile) : Bool :=
  let other (r : Regs) : Bool := (r.getC crTILEID).toNat != t.ep
  if t.gang ≠ 0 then other t.thr.regs else t.shadow.elim false fun c => other c.thr.regs

/-- Why a tile refuses what arrives: 0 while stopped, stopping or loading, 7 when parked or without a gang, and at the hidden
endpoint of a trailing tile (R370, R428). -/
def Tile.refusal (t : Tile) : Option Nat := if t.hidden || t.twin.elim false (fun w => !w.lead) then some 7 else go
where
  go : Option Nat :=
    match t.run with
    | .running => none
    | .ended => none
    | .loading => some 0
    | .stopping => some 0
    | .stopped => some 0
    | .idle => if t.shadow.isSome then some 0 else some 7
    | .parked => some 7
    | .removed => some 7

/-- Why an interface refuses (R308, R370). -/
def State.refusal (s : State) (key : Nat) : Option Nat :=
  if isTile key then (s.getTile key).refusal
  else if isHost key then
    (let f := s.getFn (key - 0x500)
     if f.enabled && f.part.isSome then none else some 7)
  else none

/-- The completion queue of a function has no room (R311). -/
def HostFn.cqFull (f : HostFn) : Bool := decide (f.cqSize.toNat ≤ (f.cqTail + 2 ^ 32 - f.cqHead) % 2 ^ 32)

/-- A completion of a host function waits for room: its receives push back as a full interface does (R311). -/
def State.hostBlocked (s : State) (key : Nat) : Bool :=
  isHost key && (let f := s.getFn (key - 0x500); !f.ni.waitCq.isEmpty && f.cqFull)

/-- The send or subscription of an interface that a packet to or from `peer` with `xid` names. -/
def Ni.named (n : Ni) (peer : Rank) (xid : W32) : Option Ent := n.ents.find? fun e => e.rank == peer && e.xid == xid && e.phase != .done

/-- A packet leaves an interface: over the torus to its destination, or to the port towards another package (R91, R313, R314). Where that
package has no port any more, what the packet is for completes UNREACHABLE. -/
def State.emit (s : State) (key : Nat) (p : Packet) : State :=
  if s.trailing key then s
  else
    match s.endpointOf p.hdr.dest p.hdr.src with
    | some dst => s.inject (.packet p) (rankEp (s.niRank key)) dst
    | none =>
      match (s.getNi key).named p.hdr.dest p.hdr.xid with
      | some e =>
        if [0x01, 0x02, 0x04, 0x08, 0x09].contains p.hdr.kind.toNat then
          s.modNi key fun n => { n with instant := n.instant ++ [(e.id, stUNREACHABLE.toNat, s.cycle + 1)] }
        else s
      | none => s

/-- The code with which a send completes in the step after issue, and whether a record is made (R163, R264, R374). A server takes no
messages (log 70). -/
def State.sendFate (s : State) (r : Rank) : Option (BitVec 8 × Bool) :=
  let ep := rankEp r
  if (decide (0x400 ≤ ep) && decide (ep < Config.placerEp)) || (decide (Config.haloEp < ep) && decide (ep < 0x500)) || decide (0x540 ≤ ep) then
    some (stUNREACHABLE, false)
  else if !s.ownPkg r then
    if ep = Config.haloEp then some (stDENIED, false)
    else if (Sparse.get 0 s.mgmt.pkgmap (rankPkg r)).extractLsb' 0 16 = 0 then some (stUNREACHABLE, true)
    else none
  else if ep < 0x400 then (if s.mgmt.harvest.contains ep then some (stUNREACHABLE, true) else none)
  else none

/-- The class of the unit that an interface belongs to (R325). -/
def niClass (key : Nat) : Nat :=
  if 0x1000 ≤ key then 0x08 else if isHost key then 0x0B else if key = Config.placerEp then 0x09
  else if key = Config.dispatcherEp then 0x0A else if key = Config.mgmtEp then 0x0D else 0x02

/-- A record of an interface about one of its requests (R325, R326). -/
def State.logNi (s : State) (key : Nat) (status : BitVec 8) (addr : Nat) (d0 : Word) : State :=
  s.log (niClass key) 1 status.toNat (rankEp (s.niRank key)) ((s.keyPart key).getD 0xFFFF)
    (if isTile key then (((s.getTile key).cr crACTX).extractLsb' 0 16).toNat else 0xFFFF) addr
    (if isTile key then (s.getTile key).gang else 0) d0 0

/-- A message or round that ends POISONED makes a record at the interface (R326). -/
def State.tellPoisoned (s : State) (key : Nat) (status : BitVec 8) (peer : Rank) : State :=
  if status == stPOISONED && (isTile key || isHost key) then s.logNi key stPOISONED 0 (peer.zeroExtend 64) else s

/-! ### Sending -/

/-- The counter key of a pair of rank and group (R91). -/
def seqKey (r : Rank) (g : BitVec 16) : Nat := r.toNat * 65536 + g.toNat

/-- HFLAGS of a packet (R82). -/
def hfTIMED : BitVec 8 := 1
def hfRELPEND : BitVec 8 := 2
def hfCONVERTED : BitVec 8 := 4
def hfLAST : BitVec 8 := 8

/-- HFLAGS of the first packet of an entry. -/
def Ent.hflags (e : Ent) : BitVec 8 :=
  (if e.timed then hfTIMED else 0) ||| (if e.kind == .sendr then hfRELPEND else 0)

/-- Bytes of a halo element by ITYPE or OTYPE (R163). -/
def haloSize (t : Nat) : Nat := match t with | 0 => 4 | 1 => 2 | 2 => 64 | _ => 8

/-- A send to the halo endpoint: it goes over the tile's own halo link (R163). -/
def State.haloSend (s : State) (key : Nat) (e : Ent) : Bool := isTile key && e.rank == s.rankOf Config.haloEp

/-- Bytes of a chunk of a contribution: 32 elements of the group (R167). -/
def State.haloChunk (s : State) (key : Nat) (e : Ent) : Nat :=
  match (Sparse.get HNode.empty s.halo (key / 16)).entries.find? fun g => g.valid && g.group == e.group with
  | some g => 32 * haloSize g.ityp
  | none => 2048

/-- Chunks of a contribution that have left and that its row node has not combined (R163). -/
def State.uncombined (s : State) (key : Nat) (e : Ent) : Nat :=
  let mine (src : Rank) (xid : Nat) : Bool := src == s.niRank key && xid == e.xid.toNat
  let flying := (s.torus.filter fun t => match t.ev with | .hcontrib c => mine c.src c.xid | _ => false).length
  (Sparse.get HNode.empty s.halo (key / 16)).rounds.foldl (fun n r =>
    if r.group == e.group && r.from_.any fun f => mine f.2.1 f.2.2.2.1 then n + (r.ins.filter fun x => x.child == key % 16).length else n) flying

/-- Whether an earlier contribution to the same group may still have to go again, or has not begun: the row node has not accepted its first chunk.
Later ones wait behind it (R164, R371). -/
def State.behindContribution (s : State) (key : Nat) (e : Ent) : Bool :=
  let own := s.niRank key
  let flying (x : Ent) : Bool := s.torus.any fun t => match t.ev with
    | .hcontrib c => c.src == own && c.xid == x.xid.toNat && c.chunk == 0
    | .packet p => p.hdr.kind == 0x07 && p.hdr.dest == own && p.hdr.xid == x.xid
    | _ => false
  (s.getNi key).ents.any fun x => decide (x.id < e.id) && x.kind.isSend && s.haloSend key x && x.group == e.group &&
    ((x.phase == .queued && x.seq.isSome) || (x.phase == .awaitAck && (x.chunks == 0 || flying x)))

/-- A contribution whose next chunk may leave under the row node's credit (R163; log 83). -/
def State.mayContribute (s : State) (key : Nat) (e : Ent) : Bool :=
  e.kind.isSend && e.phase == .awaitAck && s.haloSend key e && (decide (e.sent < e.len) || e.chunks == 0) &&
    decide (s.uncombined key e < Config.haloCredit) && !(e.chunks == 0 && s.behindContribution key e)

/-- The next chunk of a contribution goes over the tile's halo link (R160, R163, R167). -/
def State.contribute (s : State) (key : Nat) (e : Ent) : State :=
  let len := min (s.haloChunk key e) (e.len - e.sent)
  let b := s.readBuf key e e.sent len
  let c : HChunk := ⟨key / 16, key % 16, s.niRank key, e.group, e.tag, e.xid.toNat, e.seq.getD 0, e.len, 0, e.chunks, b.1, e.kind == .sendr,
    e.late || e.poison || e.part != 0⟩
  (s.modEnt key e.id fun x => { x with sent := x.sent + len, chunks := x.chunks + 1 }).inject (.hcontrib c) key Config.haloEp

/-- The first packet of a send leaves: it takes its SEQ (R91), and goes whole or by rendezvous (R93, R96). A packet that has left
once keeps its SEQ and its choice (R92, R371). A contribution begins; its chunks follow over the halo link (R163). -/
def State.leave (s : State) (key : Nat) (e : Ent) : State :=
  let k := seqKey e.rank e.group
  let ni := s.getNi key
  let seq := e.seq.getD (Sparse.get 0 ni.seqOut k)
  let s1 := if e.seq.isSome then s else s.modNi key fun n => { n with seqOut := Sparse.set 0 n.seqOut k (seq + 1) }
  let e1 := { e with seq := some seq }
  let own := s.niRank key
  let off : W32 := if e.timed then (e.tsend.getD 0).extractLsb' 0 32 else 0
  if s.haloSend key e then
    let bad := (s.readBuf key e 0 e.len).2
    s1.modEnt key e.id fun x => { x with seq := some seq, phase := .awaitAck, sent := 0, chunks := 0, poison := x.poison || bad }
  else
    let small := decide (e.len ≤ (s.groupDesc key e.group.toNat).1) || e.kind == .sendv || e.kind == .donew || e.len == 0
    let eager := if e.seq.isSome then e.rcd.flags &&& recRdv == 0 else small
    if eager then
      let b := s.readBuf key e 0 e.len
      (s1.modEnt key e.id fun x => { x with seq := some seq, phase := .awaitAck, poison := x.poison || b.2 }).emit key
        (e1.packet own 0x01 (e.hflags ||| hfLAST) off b.1 (e.poison || b.2))
    else
      (s1.modEnt key e.id fun x =>
        { x with seq := some seq, phase := .awaitCts, rcd := { x.rcd with flags := x.rcd.flags ||| recRdv, tstamp := s.stamp } }).emit key
        (e1.packet own 0x02 e.hflags off [] false)

/-- Whether the first packet of a send may leave: sends to a rank wait behind an earlier one that has still to leave, for the first time or again
(R91, R95, R371, R388). -/
def Ni.leaves (n : Ni) (e : Ent) : Bool :=
  e.kind.isSend && e.phase == .queued && !e.pairWait && e.retryAt.isNone &&
    !(n.ents.any fun x => decide (x.id < e.id) && x.kind.isSend && x.rank == e.rank && x.phase == .queued)

/-- One chunk of a rendezvous: 2,048 bytes, LAST in the final one (R84, R96); one after a chunk that the comparator found to differ goes
without content (R389; log 82). -/
def State.sendChunk (s : State) (key : Nat) (e : Ent) : State :=
  let n := min Config.chunkBytes (e.granted - e.sent)
  let last := decide (e.granted ≤ e.sent + n)
  let b := if e.part = 0 then s.readBuf key e e.sent n else ([], true)
  (s.modEnt key e.id fun x =>
    { x with
      sent := x.sent + n
      chunks := x.chunks + 1
      phase := if last then .awaitLast else .sending
      poison := x.poison || b.2 }).emit key
    (e.packet (s.niRank key) 0x04 (if last then hfLAST else 0) (BitVec.ofNat 32 e.sent) b.1 (e.poison || b.2))

/-- A rendezvous whose next chunk may leave; a streamed halo result waits for its bytes (R165). -/
def Ent.chunkReady (e : Ent) : Bool :=
  e.kind.isSend && e.phase == .sending && e.retryAt.isNone &&
    (match e.buf with
     | .bytes l => decide (e.sent + min Config.chunkBytes (e.granted - e.sent) ≤ l.length)
     | .store _ _ => true | .anvil _ _ => true | .host _ => true | .image _ _ => true | .header _ => true)

/-- The send's data is acknowledged: it completes, or a SENDR waits for the acknowledgement of its RELEASE (R97, R99, R104, R424). -/
def State.dataDone (s : State) (key id dlen : Nat) : State :=
  match s.ent key id with
  | none => s
  | some e =>
    let poisoned := e.poison || e.relEarly == some 2
    let status := if poisoned then stPOISONED else if dlen < e.len then stTRUNC else if e.late then stLATE else stOK
    let f (r : Rec) : Rec := { r with status, dlen, flen := e.len, progress := e.chunks, tstamp := s.stamp }
    if e.kind == .sendr && e.rel != 3 then
      s.modEnt key id fun x => { x with phase := .relWait, rcd := { f x.rcd with status := if dlen < e.len then stTRUNC else stOK } }
    else (s.tellPoisoned key status e.rank).complete key id f

/-- The RELEASE of a SENDR is acknowledged (R99, R382). -/
def State.releaseDone (s : State) (key id : Nat) : State :=
  match s.ent key id with
  | none => s
  | some e =>
    if e.phase == .relWait then
      let status := if e.poison || e.relEarly == some 2 then stPOISONED else e.rcd.status
      (s.tellPoisoned key status e.rank).complete key id fun r => { r with status }
    else s.modEnt key id fun x => { x with rel := 3 }

/-- A shard of an earlier request that a SENDR still waits for (R103, R381): not performed and not failed. -/
def Ni.watchOpen (n : Ni) (w : Nat × Nat) : Option Bool :=
  match n.ent w.1 with
  | none => none
  | some e => ((e.shards.find? fun x => x.shard.no == w.2 && x.code.isNone).map fun x => x.pending)

/-- Sends the RELEASEs that are due: the clearing one once every earlier shard has been performed, a fenced one when only pending
shards are left, a poisoned one when one of those has failed (R103, R381, R382). -/
def State.releases (s : State) (key : Nat) : State :=
  (s.getNi key).ents.foldl (fun st e =>
    if e.kind != .sendr || e.phase == .done || e.phase == .closing || e.phase == .queued || e.phase == .held || 2 ≤ e.rel then st
    else
      let open_ := e.watch.filterMap fun w => (st.getNi key).watchOpen w
      if open_.isEmpty then
        (st.modEnt key e.id fun x => { x with rel := 2, watch := [] }).emit key
          (e.releasePacket (s.niRank key) (if e.relEarly == some 2 then 2 else 0))
      else if e.rel = 0 && open_.all (fun b => b) then
        (st.modEnt key e.id fun x =>
          { x with rel := 1, watch := x.watch.filter fun w => ((st.getNi key).watchOpen w).isSome }).emit key
          (e.releasePacket (s.niRank key) 1)
      else st) s

/-! ### The unexpected store -/

/-- Units of a payload (R94). -/
def unitsOf (n : Nat) : Nat := (n + 63) / 64

/-- The pool's size in units: a tile's UPOOL; the other interfaces keep no payloads. -/
def State.poolUnits (s : State) (key : Nat) : Nat :=
  if isTile key then ((s.getTile key).cr (crUPOOLB + 1)).toNat / 64 else 0

def Ni.usedUnits (n : Ni) : List Nat := (n.unexp.flatMap fun u => u.units) ++ n.ents.flatMap fun e => e.units

/-- The lowest free units of a pool (R94); which ones is the device's own choice. -/
def State.allot (s : State) (key n : Nat) : Option (List Nat) :=
  let used := (s.getNi key).usedUnits
  let free := (List.range (s.poolUnits key)).filter fun u => !used.contains u
  if n ≤ free.length then some (free.take n) else none

/-- Address of a byte of a payload kept in units. -/
def unitAddr (base : Nat) (us : List Nat) (i : Nat) : Nat := base + 64 * us.getD (i / 64) 0 + i % 64

/-- Writes a payload into its units, at the trailing tile too (R94, R429). -/
def State.writeUnits (s : State) (key : Nat) (us : List Nat) (l : List Byte) : State :=
  let base := ((s.getTile key).cr crUPOOLB).toNat
  us.zipIdx.foldl (fun st u => st.recvBytes key (.store (base + 64 * u.1) (s.getTile key).ranges) 0 ((l.drop (64 * u.2)).take 64)) s

/-- Reads a payload back from its units as they stand (R94, R418). -/
def State.readUnits (s : State) (key : Nat) (us : List Nat) (n : Nat) : List Byte :=
  let t := s.getTile key
  let base := (t.cr crUPOOLB).toNat
  (List.range n).map fun i => Sparse.get 0 t.mem (unitAddr base us i)

/-- Whether a word of a payload kept in units is poisoned (R347). -/
def State.unitsPoisoned (s : State) (key : Nat) (us : List Nat) (n : Nat) : Bool :=
  let t := s.getTile key
  let base := (t.cr crUPOOLB).toNat
  t.poison.any fun p => match p with
    | .store w => us.zipIdx.any fun u => overlap (base + 64 * u.1) (min 64 (n - 64 * u.2)) (8 * w) 8
    | _ => false

/-- A stored message as it leaves the pool: its payload, and whether it is poisoned. -/
def State.fromPool (s : State) (key : Nat) (u : Unexp) : Unexp :=
  { u with pay := s.readUnits key u.units u.hdr.len, poison := u.poison || s.unitsPoisoned key u.units u.hdr.len }

/-- Keeps a header, with units for an eager payload when the pool has room; without room the message is converted (R91, R94, R95). The
payload is written with the last flit. -/
def State.keep (s : State) (key : Nat) (h : Header) (pay : Option (List Byte × Bool)) (waits skew : Bool) : State :=
  let add (us : List Nat) (conv whole : Bool) : State :=
    s.modNi key fun n =>
      { n with unexp := n.unexp ++ [⟨h, us, conv, waits, n.arrivals, false, skew, whole, []⟩], arrivals := n.arrivals + 1 }
  match pay with
  | none => add [] (h.kind != 0x02) true
  | some (l, _) =>
    match s.allot key (unitsOf l.length) with
    | some us => add us false false
    | none => add [] true true

/-! ### Matching -/

/-- Whether a posted receive fits a message (R87). -/
def Ent.fits (e : Ent) (h : Header) : Bool :=
  e.group == h.group && (e.any || e.rank == h.src) && ((h.tag ^^^ e.tag) &&& ~~~e.mask) == 0

/-- A mailbox that still matches: neither cancelled nor denied (R100, R101, R261). -/
def Ent.liveBox (e : Ent) : Bool := e.kind == .postm && e.phase != .done && e.phase != .closing && !e.closing
/-- A receive that still matches: not matched yet, or a mailbox (R88, R100). -/
def Ent.open_ (e : Ent) : Bool := ((e.kind == .post || e.kind == .posta) && e.phase == .posted) || e.liveBox

/-- The granted length (R96, R102). -/
def State.grant (s : State) (key : Nat) (e : Ent) (n : Nat) : Nat :=
  match e.buf with
  | .anvil j o => min (min n e.len) (abSize ((s.getTile key).cr (crAB0 + j)) * 65536 - o)
  | _ => min n e.len

/-- The record that a delivery leaves (R97, R100, R110, R377). -/
def Ent.received (e : Ent) (h : Header) (relPoison : Bool) : Rec :=
  { e.rcd with
    status := if e.poison || relPoison then stPOISONED else if e.granted < h.len then stTRUNC else stOK
    flags := (if e.kind == .postm then (if e.phase == .relHeld then recHeld else 0) else e.rcd.flags &&& recHeld) |||
      (if h.kind = 0x02 || h.hflags &&& hfCONVERTED != 0 then recRdv else 0) |||
      (if h.hflags &&& hfCONVERTED != 0 then recConv else 0) ||| (if e.skew then recSkew else 0)
    group := h.group
    source := h.src
    tag := h.tag
    dlen := e.granted - e.part
    flen := h.len
    progress := e.chunks }

/-- A delivery into a mailbox: into the buffer while armed, into the hold copy while held (R100), which a leading tile forwards to its twin
(R429). -/
def State.boxDelivery (s : State) (key : Nat) (e : Ent) (h : Header) (relPoison : Bool) : State :=
  let l := (List.range e.granted).map fun i => Sparse.get 0 e.stage i
  let ovr := if (if e.mheld then e.hold.isSome else e.rcd.flags &&& recFresh != 0) then recOver else 0
  let r0 := e.received h relPoison
  let r := { r0 with progress := (e.rcd.progress + 1) % 65536, tstamp := s.stamp, flags := r0.flags ||| recFresh ||| ovr }
  let idle (x : Ent) : Ent := { x with phase := .posted, hdr := none, stage := [], poison := false, relEarly := none }
  let s1 := if e.mheld then
      let s0 := match s.mateOf key e with
        | some (w, f) => if w.lead then s.modEnt w.partner f.id fun x => { x with hold := some (l, r) } else s
        | none => s
      s0.modEnt key e.id fun x =>
        { idle x with
          hold := some (l, r)
          rcd := { x.rcd with progress := r.progress, tstamp := s.stamp, flags := x.rcd.flags ||| recFresh ||| ovr } }
    else (s.recvBytes key e.buf 0 l).modEnt key e.id fun x => { idle x with rcd := r, observed := false, counted := false }
  match e.nb with
  | some k => if isTile key then s1.modTile key fun t => t.bump s.cycle k e.id else s1
  | none => s1

/-- A cancelled mailbox whose deliveries have settled: a hold copy goes into the buffer, and it ends CANCELLED (R101); its record keeps the other
fields of the last delivery (log 103). -/
def State.boxEnd (s : State) (key id : Nat) : State :=
  match s.ent key id with
  | none => s
  | some e =>
    let s1 := match e.hold with
      | some (l, _) => s.recvBytes key e.buf 0 l
      | none => s
    (s1.modEnt key id fun x => { x with hold := none, units := [] }).complete key id fun r =>
      { (match e.hold with | some (_, q) => q | none => r) with status := stCANCELLED }

/-- Whether a receive that could be marked DONE has to wait for one that the interface matched before it: of two eager messages of one source in
one group (R122). -/
def Ni.outOfTurn (n : Ni) (e : Ent) : Bool :=
  e.matched != 0 && n.ents.any fun x => x.matched != 0 && decide (x.matched < e.matched) && x.peer == e.peer &&
    (x.hdr.map fun h => h.group) == (e.hdr.map fun h => h.group) && (x.phase == .landing || x.phase == .relHeld || x.phase == .turn)

/-- The bytes of one delivery have landed: it ends, unless it still waits for a RELEASE (R103, R381) or for its turn (R122). -/
def State.landOne (s : State) (key id : Nat) : State :=
  match s.ent key id with
  | none => s
  | some e =>
    match e.hdr with
    | none => s
    | some h =>
      let final := e.relEarly == some 0 || e.relEarly == some 2
      if h.hflags &&& hfRELPEND != 0 && !final then
        s.modEnt key id fun x =>
          { x with phase := .relHeld
                   rcd := if x.kind == .postm then x.rcd else { x.rcd with flags := x.rcd.flags ||| recHeld, tstamp := s.stamp } }
      else if (s.getNi key).outOfTurn e then s.modEnt key id fun x => { x with phase := .turn }
      else
        let r := e.received h (e.relEarly == some 2)
        let s1 := s.tellPoisoned key r.status h.src
        if e.kind == .postm then s1.boxDelivery key e h (e.relEarly == some 2) else s1.complete key id fun _ => r

/-- The bytes of a delivery have landed; receives that have waited for it follow in matching order (R122). -/
def State.landed (s : State) (key id : Nat) : State :=
  let s1 := s.landOne key id
  let waiting := (s1.getNi key).ents.filter fun e => e.phase == .turn && e.id != id
  (sortBy (fun e : Ent => e.matched) waiting).foldl (fun st e => st.landOne key e.id) s1

/-- Sends a CTS (R96). -/
def State.sendCts (s : State) (key id : Nat) : State :=
  match s.ent key id with
  | none => s
  | some e =>
    match e.hdr with
    | none => s
    | some h =>
      let p := answer h 0x03 e.granted
      (s.modEnt key id fun x => { x with cts := true }).emit key
        { p with hdr := { p.hdr with hflags := h.hflags &&& hfCONVERTED } }

/-- What an ACK answers, in OFFSET bits 31:24: a message, a RELEASE, a message that is denied, or a REVOKE (log 14). -/
def ackMessage : Nat := 0x80
def ackRelease : Nat := 0x40
def ackDenied : Nat := 0xC0
def ackRevoke : Nat := 0

/-- An acknowledgement: of a message with the delivered length, of a RELEASE, or of a REVOKE with a count (R96, R99, R379, R382). -/
def ackPacket (h : Header) (code n : Nat) : Packet := answer h 0x05 (code * 2 ^ 24 + n % 2 ^ 24)

/-- The eager payload of the message that a receive has taken: it lands, is acknowledged, and the delivery ends (R97, R100); a region in
retention is waited for (R435). -/
def State.eagerIn (s : State) (key id : Nat) (l : List Byte) (bad : Bool) : State :=
  match s.ent key id with
  | none => s
  | some e =>
    match e.hdr with
    | none => s
    | some h =>
      let data := l.take e.granted
      let s1 := s.modEnt key id fun x => { x with poison := bad, stage := if x.kind == .postm then putBytes [] 0 data else [] }
      let s2 := if e.kind == .postm then s1 else s1.recvBytes key e.buf 0 data
      s.whenAwake key e.buf (State.waitLanding key (.eager id l bad)) ((s2.emit key (ackPacket h ackMessage e.granted)).landed key id)

/-- A receive takes a message (R88, R96, R97, R100, R102): a POST's record shows the match (R265). The payload of an eager message lands when
it has come whole; for an RTS the CTS begins, unless a revoke of the same message is still being answered (R379). -/
def State.take (s : State) (key id : Nat) (h : Header) (pay : Option (List Byte × Bool)) (arrival : Nat) (skew whole : Bool) : State :=
  match s.ent key id with
  | none => s
  | some e =>
    let g := s.grant key e h.len
    let ni := s.getNi key
    let early := (ni.relLog.find? fun r => r.1 == h.src && r.2.1 == h.xid).map fun r => r.2.2
    let s0 := s.modNi key fun n => { n with relLog := n.relLog.filter fun r => !(r.1 == h.src && r.2.1 == h.xid) }
    let base (x : Ent) (phase : Phase) : Ent :=
      { x with hdr := some h, peer := h.src, peerXid := h.xid, granted := g, sent := 0, chunks := 0, part := 0, full := h.len, cts := false, beat := false,
               relEarly := early, arrival, stage := [], skew, phase, poison := false,
               rcd := if x.kind == .postm then x.rcd else { x.rcd with source := h.src, tag := h.tag, group := h.group, tstamp := s.stamp } }
    match pay with
    | some (l, bad) =>
      let s1 := (s0.modNi key fun n => { n with matchNo := n.matchNo + 1 }).modEnt key id fun x =>
        { base x .landing with matched := if x.kind == .postm then 0 else ni.matchNo + 1 }
      if whole then s1.eagerIn key id l bad else s1
    | none =>
      if g = 0 then
        let p := answer h 0x03 0
        ((s0.modEnt key id fun x => base x .landing).emit key { p with hdr := { p.hdr with hflags := h.hflags &&& hfCONVERTED } }).landed key id
      else
        let s1 := s0.modEnt key id fun x => base x .granted
        if ni.revoked.any fun r => r.1 == h.src && r.2.1 == h.xid then s1 else s1.sendCts key id

/-- A receive takes a stored message: the header of a rendezvous or converted one, or a payload as far as it has come. -/
def State.takeStored (s : State) (key id : Nat) (u : Unexp) : State :=
  if u.hdr.kind = 0x02 || u.conv then
    s.take key id { u.hdr with hflags := u.hdr.hflags ||| (if u.conv then hfCONVERTED else 0) } none u.arrival u.skew true
  else s.take key id u.hdr (some (u.pay, u.poison)) u.arrival u.skew u.whole

/-- A receive takes a message from the unexpected store, whose units and place are freed (R89, R94). -/
def State.takeKept (s : State) (key id : Nat) (u : Unexp) : State :=
  (s.modNi key fun n => { n with unexp := n.unexp.filter fun x => x.arrival != u.arrival }).takeStored key id (s.fromPool key u)

/-- The unexpected messages that a receive may be compared with, in arrival order: not those held for a predecessor (R89, R91). -/
def Ni.offered (n : Ni) : List Unexp := n.unexp.filter fun u => !u.waits

/-- A mailbox takes the messages that it has matched, one after another (R100). -/
def State.boxTake (s : State) (key id : Nat) : Nat → State
  | 0 => s
  | fuel + 1 =>
    match s.ent key id with
    | none => s
    | some e =>
      if e.kind == .postm && e.phase == .posted then
        match e.boxq with
        | u :: rest => ((s.modEnt key id fun x => { x with boxq := rest }).takeStored key id u).boxTake key id fuel
        | [] => s
      else s

/-- A mailbox goes on after a delivery; a cancelled one ends when nothing is left to land (R100, R101). -/
def State.boxGo (s : State) (key id : Nat) : State :=
  match s.ent key id with
  | none => s
  | some e =>
    if e.kind != .postm then s
    else
      let s1 := s.boxTake key id e.boxq.length
      match s1.ent key id with
      | none => s1
      | some x => if x.closing && x.phase == .posted && x.boxq.isEmpty then s1.boxEnd key id else s1

/-- A new POST or POSTA takes the first unexpected message that fits, a POSTM every one (R89, R100). -/
def State.postSearch (s : State) (key id : Nat) : State :=
  match s.ent key id with
  | none => s
  | some e =>
    let n := s.getNi key
    if e.kind == .postm then
      let mine := (n.offered.filter fun u => e.fits u.hdr).map fun u => { s.fromPool key u with units := [] }
      ((s.modNi key fun n => { n with unexp := n.unexp.filter fun u => u.waits || !e.fits u.hdr }).modEnt key id fun x =>
        { x with boxq := mine }).boxGo key id
    else
      match n.offered.find? fun u => e.fits u.hdr with
      | some u => s.takeKept key id u
      | none => s

/-- Sends ABSENT (0x06) or BUSY (0x07) with a reason (R370). -/
def State.refuse (s : State) (key : Nat) (h : Header) (kind : BitVec 8) (reason : Nat) : State := s.emit key (answer h kind reason)

/-- Whether the unexpected-header store is full (R85, R95). -/
def Ni.storeFull (n : Ni) : Bool := decide (Config.headerStore ≤ n.unexp.length)

/-- The header is compared with the posted receives in posting order; the first that fits takes it (R88). `none`: it fits none, or
a mailbox that is still busy with an earlier message. -/
def Ni.matching (n : Ni) (h : Header) : Option Ent := n.ents.find? fun e => e.open_ && e.fits h

/-- A held header takes its place in the store behind those that were compared before it (R91). -/
def Ni.renumber (n : Ni) (u : Unexp) : Ni :=
  { n with
    unexp := (n.unexp.filter fun x => x.arrival != u.arrival) ++ [{ u with waits := false, arrival := n.arrivals }]
    arrivals := n.arrivals + 1 }

/-- A mailbox that is busy with an earlier message holds a message that it has matched; this takes no place in the store (R95, R100). -/
def State.boxHold (s : State) (key id : Nat) (u : Unexp) : State := s.modEnt key id fun x => { x with boxq := x.boxq ++ [u] }

/-- Headers whose predecessor has now come are compared in turn (R91). -/
def State.catchUp (s : State) (key k : Nat) : Nat → State
  | 0 => s
  | fuel + 1 =>
    let n := s.getNi key
    let want := Sparse.get 0 n.seqIn k
    match n.unexp.find? fun u => u.waits && seqKey u.hdr.src u.hdr.group == k && u.hdr.seq == want with
    | none => s
    | some u =>
      let s1 := s.modNi key fun n => { (n.renumber u) with seqIn := Sparse.set 0 n.seqIn k (want + 1) }
      let v := { u with waits := false, arrival := n.arrivals }
      let s2 : State := match n.matching u.hdr with
        | some e =>
          if e.phase == .posted then s1.takeKept key e.id v
          else
            (s1.modNi key fun n => { n with unexp := n.unexp.filter fun x => x.arrival != v.arrival }).boxHold key e.id
              { s1.fromPool key v with units := [] }
        | none => s1
      s2.catchUp key k fuel

/-- Fuel for `catchUp`: each turn consumes a header. -/
def State.caughtUp (s : State) (key k : Nat) : State := s.catchUp key k ((s.getNi key).unexp.length + 1)

/-- SKEW of a timed message as it is accepted (R104, R423). -/
def State.skewed (s : State) (key : Nat) (h : Header) : Bool :=
  let slotw := (s.groupDesc key h.group.toNat).2
  let d := (s.stamp - h.offset).toInt
  h.hflags &&& hfTIMED != 0 && slotw != 0 && decide (slotw < d.natAbs)

/-- The header of an EAGER or RTS packet at an interface that takes it (R88, R91, R94, R95): held for a predecessor, matched, kept or
refused with BUSY. Every message that is accepted has its place in arrival order (R380). -/
def State.arrive (s : State) (key : Nat) (p : Packet) : State :=
  let h := p.hdr
  let skew := s.skewed key h
  let pay : Option (List Byte × Bool) := if h.kind = 0x02 then none else some (p.payload, p.poison)
  let k := seqKey h.src h.group
  let n := s.getNi key
  let want := Sparse.get 0 n.seqIn k
  if h.seq != want then (if n.storeFull then s.refuse key h 0x07 0 else s.keep key h pay true skew)
  else
    let accept (st : State) : State := st.modNi key fun n => { n with seqIn := Sparse.set 0 n.seqIn k (want + 1) }
    let number (st : State) : State := st.modNi key fun n => { n with arrivals := n.arrivals + 1 }
    match n.matching h with
    | some e =>
      if e.phase == .posted then ((number (accept s)).take key e.id h pay n.arrivals skew false).caughtUp key k
      else ((number (accept s)).boxHold key e.id ⟨h, [], false, false, n.arrivals, false, skew, pay.isNone, []⟩).caughtUp key k
    | none => if n.storeFull then s.refuse key h 0x07 0 else ((accept s).keep key h pay false skew).caughtUp key k

/-- The last flit of an EAGER packet has come: the payload lands in the buffer of the receive that took the message, in the pool, or with
the mailbox that waits for it; nothing of a message that was refused or converted is left. -/
def State.arriveWhole (s : State) (key : Nat) (p : Packet) : State :=
  let me (h : Header) : Bool := h.kind == 0x01 && h.src == p.hdr.src && h.xid == p.hdr.xid
  let n := s.getNi key
  match n.ents.find? fun e => e.kind.isRecv && e.phase == .landing && (e.hdr.map me).getD false with
  | some e => (s.eagerIn key e.id p.payload p.poison).boxGo key e.id
  | none =>
    match n.unexp.find? fun u => me u.hdr && !u.whole with
    | some u =>
      (s.modNi key fun n => { n with unexp := n.unexp.map fun x =>
        if x.arrival = u.arrival then { x with whole := true, poison := p.poison } else x }).writeUnits key u.units p.payload
    | none =>
      let fill (u : Unexp) : Unexp := if me u.hdr && !u.whole then { u with whole := true, poison := p.poison, pay := p.payload } else u
      s.modNi key fun n => { n with ents := n.ents.map fun e => { e with boxq := e.boxq.map fill } }

/-- The first retry interval (R371), in nanoseconds. -/
def firstInterval : Nat := 2000

/-! ### Cancelling -/

/-- The CTS of a receive on the torus. -/
def State.isCts (s : State) (key : Nat) (e : Ent) (t : Transit) : Bool :=
  match t.ev with
  | .packet p => p.hdr.kind == 0x03 && p.hdr.src == s.niRank key && p.hdr.dest == e.peer && p.hdr.xid == e.peerXid
  | _ => false

/-- A packet whose header flit is not in its first router yet. -/
def Transit.inside (t : Transit) (cycle : Nat) : Bool :=
  t.legs.all fun g => g.router == t.first && g.gone == 0 && (g.flits.any fun f => decide (cycle < f.1)) ||
    g.inp == 0xFFFF && (g.ready.any fun r => decide (cycle + 2 < r))

/-- Takes a CTS that has not left back from the torus (R442). -/
def State.withdrawCts (s : State) (key : Nat) (e : Ent) : State := { s with torus := s.torus.filter fun t => !s.isCts key e t }

/-- The message of a cancelled transfer returns to the unexpected store at its place, and a RELEASE that came with it waits again (R98, R380). It
returns to a full store too (log 102). -/
def Ni.returned (n : Ni) (u : Unexp) : Ni :=
  { n with unexp := (n.unexp.filter fun x => x.arrival < u.arrival) ++ [u] ++ n.unexp.filter fun x => !decide (x.arrival < u.arrival) }
def State.returnRts (s : State) (key : Nat) (e : Ent) : State :=
  match e.hdr with
  | none => s
  | some h =>
    s.modNi key fun n =>
      { (n.returned ⟨h, [], h.hflags &&& hfCONVERTED != 0, false, e.arrival, false, e.skew, true, []⟩) with
        relLog := match e.relEarly with | some k => n.relLog ++ [(e.peer, e.peerXid, k)] | none => n.relLog }

/-- What a cancel does with the delivery under way: withdrawn, revoked, or too late (R378, R379). The answer says whether the
message returned to the store. -/
def State.cancelTransfer (s : State) (key : Nat) (e : Ent) : State × Bool :=
  if e.phase != .granted then (s, false)
  else if !e.cts then (s.returnRts key e, true)
  else if (s.torus.any fun t => s.isCts key e t && t.inside s.cycle) then ((s.withdrawCts key e).returnRts key e, true)
  else if e.beat then (s, false)
  else
    match e.hdr with
    | none => (s, false)
    | some h =>
      (((s.returnRts key e).modNi key fun n => { n with revoked := n.revoked ++ [(e.peer, e.peerXid, none, 0)] }).emit key
        (answer h 0x0C 0), true)

/-- The messages that wait for a cancelled mailbox: eager ones still land, the others return to the store (R101). -/
def State.returnBoxed (s : State) (key : Nat) (e : Ent) : State :=
  let back (u : Unexp) : Bool := u.hdr.kind == 0x02 || u.conv
  (s.modNi key fun n => (e.boxq.filter back).foldl Ni.returned n).modEnt key e.id fun x => { x with boxq := x.boxq.filter fun u => !back u }

/-- The record of a cancelled receive (R378). -/
def Ent.cancelledRec (e : Ent) (r : Rec) : Rec :=
  { r with status := stCANCELLED, flags := 0, source := if e.any then 0xFFFFFFFF else e.rank, tag := e.tag, dlen := 0, flen := 0, progress := 0 }

/-- PRUNE of a subscription (R105). -/
def State.prune (s : State) (key : Nat) (e : Ent) : State := s.emit key (e.packet (s.niRank key) 0x0A 0 0 [] false)

/-- CANCEL of an entry (R98, R101, R269, R378); nothing for a send, a request, a PUBL or a completed entry. -/
def State.cancel (s : State) (key id : Nat) : State :=
  match s.ent key id with
  | none => s
  | some e =>
    if !e.kind.isRecv || e.phase == .done || s.trailing key then s
    else if e.kind == .subs then
      (if e.phase == .posted then (s.prune key e).complete key id e.cancelledRec else s)
    else if e.kind == .postm then
      let r := (s.returnBoxed key e).cancelTransfer key e
      (r.1.modEnt key id fun x =>
        { x with closing := true, phase := if r.2 then .posted else x.phase, hdr := if r.2 then none else x.hdr
                 stage := if r.2 then [] else x.stage }).boxGo key id
    else if e.phase == .posted then s.complete key id e.cancelledRec
    else
      let r := s.cancelTransfer key e
      if r.2 then r.1.complete key id e.cancelledRec else s

/-- Detaches an entry: it frees itself on completion; a mailbox is cancelled, and a contrail closed, as by CANCEL (R86, R270). -/
def State.detach (s : State) (key id : Nat) : State :=
  match s.ent key id with
  | none => s
  | some e =>
    if e.phase == .done then s.dropEnt key id
    else
      let s1 := s.modEnt key id fun x => { x with detached := true }
      if e.kind == .postm then s1.cancel key id
      else if e.kind == .publ then s1.modEnt key id fun x => { x with closing := true }
      else s1

/-! ### Answers that a sender receives -/

/-- No packet of a send leaves any more: its DATA and RELEASE that have not begun injecting, or that have been refused and wait (R375). -/
def State.dropPackets (s : State) (key : Nat) (e : Ent) : State :=
  let own := s.niRank key
  let mine (p : Packet) : Bool := (p.hdr.kind == 0x04 || p.hdr.kind == 0x08) && p.hdr.src == own && p.hdr.dest == e.rank && p.hdr.xid == e.xid
  let is (v : Ev) : Bool := (v.inner?.map mine).getD false
  ({ s with
    torus := s.torus.filter fun t => !(is t.ev && (t.injected == 0 || (match t.ev with | .refused _ _ => true | _ => false)))
    sched := s.sched.filter fun x => !is x.2 }).modNi key fun n => { n with waiting := n.waiting.filter fun w => w.1 != e.id }

/-- A send that is over completes with a status and the bytes delivered (R372, R374, R375). -/
def State.failSend (s : State) (key : Nat) (e : Ent) (status : BitVec 8) (dlen : Nat) : State :=
  (s.dropPackets key e).completeWith key e.id status dlen e.len

end Sys2Proof.Machine
end

