-- ==== Sys2Proof/Machine/Requests.lean ====
section
/-!
DEFINITION. Server requests at the issuing interface (R134 to R138, R271, R320, R383 to R385, R391, R401, R405): how a request is cut
into shards, sent, repeated and completed. A shard names its server by its number k; the endpoint is 0x400 + k.
-/
namespace Sys2Proof.Machine

/-- The home server of a virtual address (R134). -/
def homeOf (va : Nat) : Nat := ((va / 2 ^ 16) ^^^ (va / 2 ^ 28)) % 192

/-- A byte range cut at page ends, modulo 2^48; `fuel` bounds the pages. -/
def pagePieces : Nat → Nat → Nat → Nat → List Piece
  | 0, _, _, _ => []
  | fuel + 1, pos, va, len =>
    if len = 0 then []
    else
      let n := min len (65536 - va % 65536)
      ⟨pos, va, n⟩ :: pagePieces fuel (pos + n) ((va + n) % 2 ^ 48) (len - n)

/-- The pieces of `len` bytes at `va` that stand at `pos` of the buffer. -/
def rangePieces (pos va len : Nat) : List Piece := pagePieces (len / 65536 + 2) pos va len

/-- Home servers in the order in which their first byte appears (R135). -/
def homesOf (ps : List Piece) : List Nat :=
  ps.foldl (fun l p => let h := homeOf p.va; if l.contains h then l else l ++ [h]) []

/-- Bytes of a list of pieces. -/
def piecesLen (ps : List Piece) : Nat := ps.foldl (fun n p => n + p.len) 0

/-- The element order of a box: rows of E0 × ES contiguous bytes, then i1, i2 and i3 (R147). -/
def boxPieces (base es e0 e1 e2 e3 : Nat) (s1 s2 s3 : Int) : List Piece :=
  (List.range (e1 * e2 * e3)).flatMap fun r =>
    let i1 := r % e1
    let i2 := r / e1 % e2
    let i3 := r / e1 / e2
    let va := ((base : Int) + i1 * s1 + i2 * s2 + i3 * s3) % 2 ^ 48
    rangePieces (r * (es * e0)) va.toNat (es * e0)

/-- The element order of a gather or scatter (R148). -/
def listPieces (base es : Nat) (idx : List Nat) : List Piece :=
  idx.zipIdx.flatMap fun x => rangePieces (x.2 * es) ((base + x.1 * es) % 2 ^ 48) es

/-- The request kinds of a shard: 0 GET, 1 PUT, 2 GETB, 3 PUTB, 4 GATH, 5 SCAT, 6 APPLY, 7 CAS. -/
def EKind.shardKind : EKind → Nat
  | .get => 0 | .put => 1 | .getb => 2 | .putb => 3 | .gath => 4 | .scat => 5 | .apply => 6 | _ => 7

/-- Whether a shard kind writes (R400). -/
def writesKind (k : Nat) : Bool := k == 1 || k == 3 || 5 ≤ k

/-- The bytes of a shard, cut out of the request's data by its pieces; APPLY and CAS carry their operands whole. -/
def shardData (kind : Nat) (ps : List Piece) (data : List Byte) : List Byte :=
  if 6 ≤ kind then data else ps.flatMap fun p => (data.drop p.pos).take p.len

/-- The poisoned bytes of a request that concern a shard: of its pieces, or its operands (R396). -/
def shardPoison (kind : Nat) (ps : List Piece) (bad : List (Nat × Nat)) : List (Nat × Nat) :=
  if 6 ≤ kind then bad else bad.filter fun b => ps.any fun p => decide (p.pos < b.1 + b.2) && decide (b.1 < p.pos + p.len)

/-- The shards of a request, numbered from 0 (R135); `bad` are the poisoned bytes of its buffer. -/
def shardsOf (issuer : Rank) (xid actx : Nat) (group : BitVec 16) (kind : Nat) (ps : List Piece) (data : List Byte) (aop : Nat)
    (notify : Option (Rank × W32)) (bad : List (Nat × Nat)) : List Shard :=
  (homesOf ps).zipIdx.map fun h =>
    let mine := ps.filter fun p => homeOf p.va == h.1
    ⟨issuer, h.1, xid, h.2, actx, group, mine, if writesKind kind then shardData kind mine data else [], aop, notify, none, 1, false,
     shardPoison kind mine bad⟩

/-- The part of a list of pieces from byte `off` on, of at most `n` bytes. -/
def slicePieces : List Piece → Nat → Nat → List Piece
  | [], _, _ => []
  | p :: l, off, n =>
    if n = 0 then []
    else if p.len ≤ off then slicePieces l (off - p.len) n
    else
      let k := min (p.len - off) n
      ⟨p.pos + off, p.va + off, k⟩ :: slicePieces l 0 (n - k)

/-- What one packet of a shard carries: its server, the addresses and the bytes from `off` on (R119, R137). -/
def shardSlice (q : Shard) (off : Nat) : Nat × List Piece × List Byte :=
  (q.srv, slicePieces q.pieces off Config.chunkBytes, (q.data.drop off).take Config.chunkBytes)

/-- TOUCH bit of a server (R126). -/
def Tile.touch (t : Tile) (srv : Nat) : Tile := t.setCr (crTOUCH0 + srv / 64) ((t.cr (crTOUCH0 + srv / 64)) ||| (1 <<< (srv % 64)))

/-- SHARDTO of an interface in nanoseconds (R372). -/
def State.shardTo (s : State) (key : Nat) : Nat := 1000 * s.param (s.keyPart key) 5

/-! ### Twin pairs: what the comparator tells (R388, R389, R432) -/

/-- TINFO of TWIN_MISMATCH (R432). -/
def twinInfo (n : Nat) (trail : Bool) (field kind : Nat) : Word :=
  BitVec.ofNat 64 (n % 2 ^ 32 * 2 ^ 32 + (if trail then 128 else 0) + field * 16 + kind)

/-- A tile of a pair is to trap at its next boundary (R389). -/
def State.twinFlag (s : State) (ep : Nat) (info : Word) : State :=
  s.modTile ep fun t => { t with twin := t.twin.map fun v => { v with mismatch := some info } }

/-- Both tiles of a pair are to trap for a difference in a later chunk of a request (R389). -/
def State.twinLater (s : State) (lead trail ordn : Nat) : State :=
  (s.twinFlag lead (twinInfo ordn false 4 4)).twinFlag trail (twinInfo ordn true 4 4)

/-- The request of a pair whose later packet differs: what is left of it goes poisoned, from byte `off` of shard `no` on (R389). -/
def Ent.spoil (e : Ent) (no off : Nat) : Ent :=
  let spans (q : Shard) (n : Nat) : List (Nat × Nat) := (slicePieces q.pieces n (piecesLen q.pieces)).map fun p => (p.pos, p.len)
  { e with
    poison := true
    shards := e.shards.map fun x =>
      if x.shard.no = no then { x with shard := { x.shard with poisoned := x.shard.poisoned ++ spans x.shard off } }
      else if e.unsent.contains x.shard.no && x.code.isNone then { x with shard := { x.shard with poisoned := x.shard.poisoned ++ spans x.shard 0 } }
      else x }

/-- A packet of a pair's PUT, PUTB or SCAT is to leave: one after the first in which the two interfaces differ spoils the rest (R388, R389). -/
def State.comparePart (s : State) (key : Nat) (e : Ent) (x : ShardSt) : State :=
  let first := e.part == 0 && e.shards.all fun y => y.code.isSome || (e.unsent.contains y.shard.no && y.attempts == 1)
  if e.poison || first || x.attempts != 1 || !writesKind e.kind.shardKind || 6 ≤ e.kind.shardKind then s
  else
    match s.mateOf key e with
    | none => s
    | some (w, f) =>
      if (f.shards.find? fun y => y.shard.no == x.shard.no).map (fun y => shardSlice y.shard e.part) == some (shardSlice x.shard e.part) then s
      else (s.modEnt key e.id fun y => y.spoil x.shard.no e.part).twinLater key w.partner e.ordn

/-! ### Leaving -/

/-- The next packet of a request leaves: up to 2 KiB of a shard's bytes (R119, R137). The step that sends a request's first shard to a
server marks it in TOUCH (R126), and a shard's timer starts with its last packet (R385). -/
def State.sendPart (s : State) (key : Nat) (e : Ent) : State :=
  match e.unsent with
  | [] => s
  | no :: rest =>
    let open_ (x : ShardSt) : Bool := x.shard.no == no && x.code.isNone
    match e.shards.find? open_ with
    | none => s.modEnt key e.id fun x => { x with unsent := rest, part := 0 }
    | some x =>
      let s0 := s.comparePart key e x
      let q := ((s0.ent key e.id).bind fun y => y.shards.find? open_).elim x.shard fun y => y.shard
      let kind := e.kind.shardKind
      let src := rankEp (s.niRank key)
      let s1 := if isTile key && e.part == 0 && x.attempts == 1 then s0.modTile key fun t => t.touch q.srv else s0
      if e.part + 2048 < q.data.length then
        (s1.modEnt key e.id fun y => { y with part := y.part + 2048 }).inject (.shardPart kind q) src (0x400 + q.srv)
      else
        (s1.modEnt key e.id fun y =>
          { y with
            unsent := rest, part := 0
            shards := y.shards.map fun z => if z.shard.no = no then { z with due := s.time + s.shardTo key } else z }).inject
          (.shard kind q) src (0x400 + q.srv)

/-- Whether a shard of a request for server `k` has still to leave whole. -/
def Ent.owes (e : Ent) (k : Nat) : Bool :=
  e.kind.isReq && e.shards.any fun x => x.shard.srv == k && x.code.isNone && (e.pairWait || e.unsent.contains x.shard.no)

/-- Whether the next packet of a request may leave: shards for one server keep the order in which the requests were issued (R125, R132). -/
def Ni.asks (n : Ni) (e : Ent) : Bool :=
  e.kind.isReq && !e.pairWait &&
    match e.unsent with
    | [] => false
    | no :: _ =>
      match e.shards.find? fun x => x.shard.no == no with
      | some x => !(n.ents.any fun y => decide (y.id < e.id) && y.owes x.shard.srv)
      | none => true

/-- The turn of a round-robin: the entry after the one that was served last, or the first (R119). -/
def roundRobin (last : Nat) (l : List Ent) : Option Ent :=
  match l.find? fun e => decide (last < e.id) with
  | some e => some e
  | none => l.head?

/-- Serves an entry: the first packet of a send, or a packet of a request. -/
def State.serveFirst (s : State) (key : Nat) (e : Ent) : State :=
  let s1 := s.modNi key fun n => { n with last := e.id }
  if e.kind.isReq then s1.sendPart key e else s1.leave key e

/-- Whether an entry's way out is taken: a tile or a service injects one packet at a time, a row node one into each halo link (R119). -/
def State.wayBusy (s : State) (key : Nat) (e : Ent) : Bool :=
  if 0x1000 ≤ key then s.linkBusy Config.haloEp (rankEp e.rank) else s.injecting (rankEp (s.niRank key))

/-- An interface begins what it may: contributions, and, where it is injecting nothing, the next first packet or request packet of the
round-robin (R119). Rounds and chunks take their turns when a cycle's packets have been presented (Cycle.lean). -/
def State.pump (s : State) (key : Nat) : State :=
  if s.trailing key then s
  else
    let s1 := (s.getNi key).ents.foldl (fun st e => if (st.getNi key).leaves e && st.haloSend key e then st.leave key e else st) s
    let n := s1.getNi key
    match roundRobin n.last (n.ents.filter fun e => (n.leaves e || n.asks e) && !s1.wayBusy key e) with
    | some e => s1.serveFirst key e
    | none => s1

/-- The status of a request whose shards all have an outcome (R320, R391). -/
def requestStatus (l : List ShardSt) : BitVec 8 :=
  let done := l.filter fun x => x.performed
  if done.length = l.length then
    (match l.find? fun x => x.code != some 0 && x.code != some 1 with
     | some x => BitVec.ofNat 8 (x.code.getD 0)
     | none => if l.any fun x => x.code == some 1 then stCORRECTED else stOK)
  else if done.isEmpty then
    (match l.find? fun x => x.code != some 0 && x.code != some 1 with
     | some x => BitVec.ofNat 8 (x.code.getD 0)
     | none => stOK)
  else stPARTIAL

/-- PROGRESS, SHARDS and DLEN of the shards performed so far (R109, R271). -/
def shardRec (l : List ShardSt) (r : Rec) : Rec :=
  let done := l.filter fun x => x.performed
  { r with
    progress := done.length
    shards := done.foldl (fun w x => w ||| (1 <<< x.shard.no)) 0
    dlen := done.foldl (fun n x => n + piecesLen x.shard.pieces) 0 }

/-- The partition of a shard's requester; the placer acts for the launch whose header it reads (R40, R400). -/
def State.issuerPart (s : State) (q : Shard) : Option Nat :=
  let ep := rankEp q.issuer
  if ep = Config.placerEp then
    ((s.getNi ep).ents.find? fun e => e.xid.toNat == q.xid).bind fun e =>
      (s.launches.find? fun l => l.n == e.cookie.toNat - 1).map fun l => l.lrec.part
  else s.keyPart ep

/-- A record of an interface about one of its shards (R325, R326). -/
def State.logShard (s : State) (key : Nat) (q : Shard) (sev code : Nat) : State :=
  s.log (niClass key) sev code (rankEp (s.niRank key)) ((s.issuerPart q).getD 0xFFFF) q.actx ((q.pieces.head?.map fun p => p.va).getD 0)
    (if isTile key then (s.getTile key).gang else 0) (BitVec.ofNat 64 (q.no + (s.rankOf (0x400 + q.srv)).toNat * 2 ^ 32)) 0

/-- Codes of a shard that make a record at the interface (R326, R330); the server logs its own. -/
def niLogged (code : Nat) : Bool := code == 0x0C || code == 0x07

/-- A shard has its outcome: its code, and whether it was performed. The request completes with the last one; SENDRs that waited for
it go on (R137, R320, R381). -/
def State.settle (s : State) (key id no code : Nat) (performed : Bool) : State :=
  match s.ent key id with
  | none => s
  | some e =>
    match (if e.phase == .done then none else e.shards.find? fun x => x.shard.no == no && x.code.isNone) with
    | none => s
    | some sh =>
      let l := e.shards.map fun x => if x.shard.no = no then { x with code := some code, performed, due := 0, pending := false } else x
      let failed := !performed || code == 0x06
      let s0 := if niLogged code then s.logShard key sh.shard 1 code else s
      let s1 := s0.modNi key fun n =>
        let n1 := n.modEnt id fun x => { x with shards := l, rcd := { shardRec l x.rcd with tstamp := s.stamp } }
        { n1 with ents := n1.ents.map fun x =>
            if x.kind == .sendr && x.rel < 2 && sh.pending && failed && x.watch.contains (id, no) then { x with relEarly := some 2 } else x }
      let s2 := if l.all fun x => x.code.isSome then
          s1.complete key id fun r => { shardRec l r with status := requestStatus l }
        else s1
      s2.releases key

/-- Sends a shard again, its attempt counted (R383); `stamp` is what a re-read names (R384). -/
def State.resend (s : State) (key id : Nat) (x : ShardSt) (stamp : Option Nat) : State :=
  let q := { x.shard with attempt := x.attempts + 1, rereq := stamp, damaged := false }
  (s.modEnt key id fun e =>
    { e with
      unsent := e.unsent.filter (· != q.no) ++ [q.no]
      part := if e.unsent.head? = some q.no then 0 else e.part
      shards := e.shards.map fun y => if y.shard.no = q.no then { y with attempts := x.attempts + 1, due := 0, shard := q, data := [], spoiled := false, lost := x.lost } else y }).pump key

/-- A context with waiting shards joins a server's ring; a visit begins with a deficit of 4,096 bytes more (R151). -/
def Server.join (v : Server) (actx : Nat) : Server :=
  if v.ring.contains actx then v
  else if v.ring.isEmpty then { v with ring := [actx], deficit := Sparse.set 0 v.deficit actx (Sparse.get 0 v.deficit actx + 4096) }
  else { v with ring := v.ring ++ [actx] }

/-- Every interface that may hold requests: tiles, host functions and the placer. -/
def State.requestKeys (s : State) : List Nat :=
  s.tile.ep :: (s.others.map fun t => t.ep) ++ (s.fns.map fun f => 0x500 + f.1) ++ [Config.placerEp]

/-- What a server's record of performed shards holds of a shard (R384, R385). -/
def Server.recorded (v : Server) (issuer : Rank) (xid no : Nat) : Option Reply :=
  (v.log.find? fun x => x.1 == issuer && x.2.1 == xid && x.2.2.1 == no).map fun x => x.2.2.2.1

/-- The outstanding shards of an interface's own requests that `f` names: a trailing tile's have the outcomes of its leading tile's (R388). -/
def State.openShards (s : State) (key : Nat) (f : ShardSt → Bool) : List (Ent × ShardSt) :=
  if s.trailing key then []
  else (s.getNi key).ents.flatMap fun e => if e.phase == .done then [] else (e.shards.filter fun x => x.code.isNone && f x).map fun x => (e, x)

/-- A server goes out of service: every outstanding shard to it ends TIMEOUT, performed where the server's record can be read and names it, also
in suspended contexts; the interfaces learn the mask; a record is made (R385, R405). -/
def State.serverOut (s : State) (srv : Nat) : State :=
  if s.mgmt.outMask.contains srv then s
  else
    let v := Sparse.get Server.empty s.srv srv
    let s0 := { s with
      srv := Sparse.set Server.empty s.srv srv { v with out := true, queue := [], walks := [], pending := [], held := [] }
      mgmt := { s.mgmt with outMask := s.mgmt.outMask ++ [srv] }
      torus := s.torus.filter fun t => match t.ev with | .shard _ q => q.srv != srv | .shardPart _ q => q.srv != srv | .fenceProbe k _ _ => k != srv | _ => true }
    let found (x : ShardSt) : Option Reply := if x.pending || v.unread then none else v.recorded x.shard.issuer x.shard.xid x.shard.no
    let end_ (key : Nat) (st : State) : State :=
      (st.openShards key fun x => x.shard.srv == srv).foldl
        (fun st p => match found p.2 with
          | some r => (r.chunks.foldl (fun st c => st.recvBytes key p.1.buf c.1 c.2) st).settle key p.1.id p.2.shard.no 0x0C true
          | none => st.settle key p.1.id p.2.shard.no 0x0C false) st
    let s1 := s.requestKeys.foldl (fun st key => (end_ key st).inShadow key (end_ key)) s0
    let unprobe (key : Nat) (st : State) : State := st.modNi key fun n => { n with echoes := n.echoes.filter fun k => k.1 != srv }
    let s2 := s.requestKeys.foldl (fun st key => (unprobe key st).inShadow key (unprobe key)) s1
    s2.log 0x03 1 0x0207 (0x400 + srv) 0xFFFF 0xFFFF 0 0 ((s.rankOf (0x400 + srv)).zeroExtend 64) 0

/-- Gives a request its shards and sends them (R135 to R137); a shard of a server out of service fails UNREACHABLE in the step after
issue (R405). -/
def State.issueShards (s : State) (key id : Nat) (qs : List Shard) : State :=
  let out (q : Shard) : Bool := s.mgmt.outMask.contains q.srv
  let st (q : Shard) : ShardSt := ⟨q, 1, 0, false, false, none, [], false, false⟩
  (s.modEnt key id fun e =>
    { e with shards := qs.map st, phase := .shards, unsent := (qs.filter fun q => !out q).map fun q => q.no }).pump key

/-- The shards of servers out of service fail in the step after issue (R405). -/
def State.settleOut (s : State) (key : Nat) : State :=
  (s.openShards key fun x => s.mgmt.outMask.contains x.shard.srv).foldl (fun st p => st.settle key p.1.id p.2.shard.no 0x07 false) s

end Sys2Proof.Machine
end

