-- ==== Sys2Proof/Machine/Operands.lean ====
section
/-!
DEFINITION. The packed operands of the N slot (R183, R184, R260, R271, R272) and the limits that complete a request DENIED (R261,
R367). The V-, X- and G-slot operands are read where they are used; the scalar readers stand in Base.
-/
namespace Sys2Proof.Machine

/-- The request flags of sb (R260). -/
structure ReqFlags where
  nb    : Nat
  nbe   : Bool
  any   : Bool
  dg    : Bool
  ntf   : Bool
  anv   : Bool
  extra : Bool
  group : BitVec 16
  deriving DecidableEq, Repr

/-- sb with a DG flag resolved: bits 47:32 hold GROUP and bit 55 is clear. A residue that does not fit the register's value does not fit
the resolved one either (R335, R343). -/
def resolveDg (y : SVal) (group : Word) : SVal :=
  if y.val.getLsbD 55 then
    let v := (y.val &&& ~~~(0x0080FFFF00000000 : Word)) ||| ((group &&& 0xFFFF) <<< 32)
    ⟨v, if y.ok then resOf v.toNat else resOf v.toNat + (y.res - resOf y.val.toNat)⟩
  else y

def reqFlags (y : Word) : ReqFlags :=
  ⟨(y.extractLsb' 58 6).toNat, y.getLsbD 57, y.getLsbD 56, y.getLsbD 55, y.getLsbD 54, y.getLsbD 53,
   decide (y.extractLsb' 48 5 ≠ 0), y.extractLsb' 32 16⟩

/-- Whether the flags break a limit (R260, R367). -/
def ReqFlags.bad (f : ReqFlags) (any ntf anv : Bool) : Bool :=
  f.extra || (!f.nbe && f.nb != 0) || (f.any && !any) || (f.ntf && !ntf) || (f.anv && !anv)

/-- The barrier that a request bumps. -/
def ReqFlags.barrier (f : ReqFlags) : Option Nat := if f.nbe then some f.nb else none

def loWord (x : Word) : W32 := x.extractLsb' 0 32
def hiWord (x : Word) : W32 := x.extractLsb' 32 32

/-- The longest message (R82). -/
def maxLen : Nat := 16777215

/-- The anvil address of R183: region, offset, and whether another bit is set. -/
structure AnvilAddr where
  region : Nat
  off    : Nat
  bad    : Bool
  deriving DecidableEq, Repr

def anvilOperand (x : Word) : AnvilAddr :=
  ⟨(x.extractLsb' 32 3).toNat, (x.extractLsb' 0 22).toNat, decide ((x &&& 0xFFFFFFF8FFC00000) ≠ 0)⟩

/-- A box as its descriptor gives it (R147, R272). -/
structure Box where
  base   : Nat
  es     : Nat
  e0     : Nat
  e1     : Nat
  e2     : Nat
  e3     : Nat
  s1     : Int
  s2     : Int
  s3     : Int
  zeros  : Bool
  deriving DecidableEq, Repr

/-- Reads a descriptor's 48 bytes. -/
def readBox (l : List Byte) : Box :=
  let n (o k : Nat) : Nat := ofLE ((l.drop o).take k)
  let sgn (o : Nat) : Int := (BitVec.ofNat 64 (n o 8)).toInt
  ⟨n 0 6, n 8 4, n 16 2, n 18 2, n 20 2, n 22 2, sgn 24, sgn 32, sgn 40, n 6 2 == 0 && n 12 4 == 0⟩

def Box.empty (b : Box) : Bool := b.e0 == 0 || b.e1 == 0 || b.e2 == 0 || b.e3 == 0
def Box.bytes (b : Box) : Nat := b.es * b.e0 * b.e1 * b.e2 * b.e3

/-- A stride in the signed 48-bit range (R147). -/
def strideOk (x : Int) : Bool := decide (-(2 ^ 47 : Int) ≤ x) && decide (x ≤ 2 ^ 47 - 1)

/-- Whether a box with every extent positive keeps the limits of R272. -/
def Box.ok (b : Box) : Bool :=
  b.zeros && decide (1 ≤ b.es) && decide (b.es ≤ 65536) && strideOk b.s1 && strideOk b.s2 && strideOk b.s3 && decide (b.bytes ≤ 1048576)

def Box.pieces (b : Box) : List Piece := boxPieces b.base b.es b.e0 b.e1 b.e2 b.e3 b.s1 b.s2 b.s3

/-- Width of an APPLY operand; 0 for a reserved OP (R149). -/
def applyWidth (op : Nat) : Nat :=
  match op with
  | 0 => 4 | 1 => 8 | 2 => 8 | 3 => 8 | 4 => 8 | 5 => 8 | 6 => 8 | 7 => 8 | 8 => 8 | 9 => 8 | 10 => 4 | 11 => 64 | _ => 0

/-- Element size of an ES code (R271). -/
def esBytes (c : Nat) : Nat := 4 * 2 ^ c

/-- A rank that may receive a notify: a tile or host function of the own package (R140). -/
def State.notifyOk (s : State) (r : Rank) : Bool :=
  s.ownPkg r && (decide (rankEp r < 0x400) || (decide (0x500 ≤ rankEp r) && decide (rankEp r < 0x540)))

end Sys2Proof.Machine
end

