-- ==== Sys2Proof/Machine/Twins.lean ====
section
/-!
DEFINITION. Twin pairs (R388, R389, R427 to R432): the receive-value queue, which stands at the trailing tile, and the comparison of
requests. A leading tile's request leaves once its partner has issued the same one.
-/
namespace Sys2Proof.Machine

/-- The pair of the tile in focus in normal mode; in handler mode a tile reads its own state (R431). -/
def State.pairOf (s : State) : Option Twin := if s.hm then none else s.tile.twin

/-- The leading tile's view: its partner's queue has no room (R430). -/
def State.queueFull (s : State) : Bool :=
  match s.pairOf with
  | some w => w.lead && (match (s.getTile w.partner).twin with | some v => decide (512 ≤ v.queue.length) | none => false)
  | none => false

/-- Changes the receive-value queue of a trailing tile. -/
def State.modQueue (s : State) (trail : Nat) (f : List (List Word) → List (List Word)) : State :=
  s.modTile trail fun t => { t with twin := t.twin.map fun v => { v with queue := f v.queue } }

/-- Queues an entry at the trailing tile. -/
def State.queueEntry (s : State) (ws : List Word) : State :=
  match s.pairOf with
  | some w => if w.lead then s.modQueue w.partner fun q => q ++ [ws] else s
  | none => s

/-- Queues the result of an asynchronous read (R430), under the slot that has read: one bundle may read in several slots. -/
def State.queueResult (s : State) (ws : List Word) : State := s.queueEntry (BitVec.ofNat 64 s.tile.iss.slot :: ws)

/-- The result that the queue holds for the slot in issue, and the queue without it. -/
def State.queued (s : State) (w : Twin) : Option (List Word × List (List Word)) :=
  let mine (e : List Word) : Bool := e.head? == some (BitVec.ofNat 64 s.tile.iss.slot)
  (w.queue.find? mine).map fun e => (e.drop 1, w.queue.eraseP mine)

/-- An asynchronous read: a leading tile takes its own result and queues it, a trailing tile takes the queue's, unless it stalls (R430). `own` is
the operation on a tile's own state; `from_` the operation with a queued result. -/
def State.asyncRead (s : State) (own : State → Out) (from_ : List Word → State → Out) : Out :=
  match s.pairOf with
  | none => own s
  | some w =>
    if w.lead then s.stallIf s.queueFull (.full 3) (own s)
    else
      match s.queued w with
      | none => .next (s.stallOn .twin)
      | some (ws, q) =>
        match from_ ws s with
        | .next t => .next (if t.tile.iss.stall.isSome then t else t.modQueue t.tile.ep fun _ => q)
        | o => o

/-- WAITB, FENCE and MLDBG: what is queued begins with the steps that the leading tile's bundle has stalled, and the trailing tile's stalls as many
(R430; log 95). -/
def State.queueStep (s : State) (ws : List Word) : State := s.queueResult (BitVec.ofNat 64 s.tile.thr.waited :: ws)
def State.asyncStep (s : State) (own : State → Out) (from_ : List Word → State → Out) : Out :=
  s.asyncRead own fun ws s => s.stallIf (decide (s.tile.thr.waited < (ws.getD 0 0).toNat)) .twin (from_ (ws.drop 1) s)

/-- What a slot that faults has queued for the trailing tile, or taken from the queue, counts (R430): MLDBG's GENERATION. `p` is the state that the
slot has left, tried alone from `base`. -/
def State.copyQueue (s base p : State) : State :=
  match base.pairOf with
  | none => s
  | some w =>
    let q (x : State) (ep : Nat) : List (List Word) := (x.getTile ep).twin.elim [] fun v => v.queue
    let ep := s.tile.ep
    if w.lead then s.modQueue w.partner fun l => l ++ (q p w.partner).drop (q base w.partner).length
    else s.modQueue ep fun l => (q p ep).foldl (fun m e => m.erase e) (q base ep) |>.foldl (fun m e => m.erase e) l

/-- The partner's request with this tile's next ordinal. -/
def State.partnerReq (s : State) (w : Twin) : Option (Nat × Nat × List Word × Nat × Nat) :=
  match (s.getTile w.partner).twin with
  | some v => v.reqs.find? fun r => r.1 == w.ordinal + 1
  | none => none

/-- The first operand in which two requests differ (R432). -/
def opDiff : Nat → List Word → List Word → Option Nat
  | n, x :: xs, y :: ys => if x = y then opDiff (n + 1) xs ys else some (min n 3)
  | n, [], _ :: _ => some (min n 3)
  | n, _ :: _, [] => some (min n 3)
  | _, [], [] => none

/-- What differs between this request and its partner: 0 the opcode, 1 sa, 2 sb, 3 TSEND or NOTIFY (R388, R432). -/
def State.twinDiff (s : State) (opcode : Nat) (ops : List Word) : Option (Twin × Nat × Nat) :=
  match s.pairOf with
  | none => none
  | some w =>
    match s.partnerReq w with
    | none => none
    | some r => if r.2.1 ≠ opcode then some (w, r.2.2.2.1, 0) else (opDiff 1 ops r.2.2.1).map fun f => (w, r.2.2.2.1, f)

/-- Takes a waiting request off a tile's list. -/
def State.twinTake (s : State) (ep n : Nat) : State :=
  s.modTile ep fun t => { t with twin := t.twin.map fun v => { v with reqs := v.reqs.filter fun r => r.1 != n } }

/-- Sends what an entry sends: the first packet, its shards, or a SUBSCRIBE (R105, R137). -/
def State.launchEnt (s : State) (key id : Nat) : State :=
  match (s.modEnt key id fun e => { e with pairWait := false }).ent key id with
  | none => s
  | some e =>
    let s1 := s.modEnt key id fun e => { e with pairWait := false }
    if e.phase == .done || e.phase == .closing then s1
    else if e.kind.isSend then s1.pump key
    else if e.kind.isReq then
      (s1.modEnt key id fun e =>
        { e with unsent := (e.shards.filter fun x => !(s.mgmt.outMask.contains x.shard.srv || x.code.isSome)).map fun x => x.shard.no }).pump key
    else if e.kind == .subs then s1.emit key (e.packet (s.niRank key) 0x09 0 0 [] false)
    else s1

/-- The payload bytes that the two interfaces of a pair read for one request differ, in the first packet of what goes out in several (R388). -/
def State.payloadDiffers (s : State) (lead id trail tid : Nat) : Bool :=
  match s.ent lead id, s.ent trail tid with
  | some e, some f =>
    if e.kind.isSend then
      (let n := if e.len ≤ (s.groupDesc lead e.group.toNat).1 || e.kind == .sendv || e.kind == .donew then e.len else 0
       decide ((s.readBuf lead e 0 n).1 ≠ (s.readBuf trail f 0 n).1))
    else
      let all (g : Ent) : List (List Piece × List Byte) := g.shards.map fun x =>
        (if g.kind == .scat then [] else x.shard.pieces, if g.kind == .put || g.kind == .putb || g.kind == .scat then [] else x.shard.data)
      let first (g : Ent) : Option (Nat × List Piece × List Byte) := g.shards.head?.map fun x => shardSlice x.shard 0
      all e != all f || first e != first f
  | _, _ => false

/-- Both tiles of a pair are to trap, and both entries end with a status (R389). -/
def State.twinBreak (s : State) (lead id trail tid n field kind : Nat) (status : BitVec 8) : State :=
  ((((s.completeWith lead id status 0 0).completeWith trail tid status 0 0).twinFlag lead (twinInfo n false field kind)).twinFlag trail
    (twinInfo n true field kind))

/-- A compared request is submitted: alone, it leaves at once; in a pair, it waits for its partner or goes with it (R388). -/
def State.submit (s : State) (id opcode : Nat) (ops : List Word) : State :=
  let key := s.tile.ep
  match s.pairOf with
  | none => s.launchEnt key id
  | some w =>
    let n := w.ordinal + 1
    let s1 := (s.onTile fun t => { t with twin := t.twin.map fun v => { v with ordinal := n } }).modEnt key id fun e => { e with ordn := n }
    match s.partnerReq w with
    | none =>
      (s1.onTile fun t => { t with twin := t.twin.map fun v => { v with reqs := v.reqs ++ [(n, opcode, ops, id, 0)] } }).modEnt key id
        fun e => { e with pairWait := true }
    | some r =>
      let lead := if w.lead then key else w.partner
      let lid := if w.lead then id else r.2.2.2.1
      let trail := if w.lead then w.partner else key
      let tid := if w.lead then r.2.2.2.1 else id
      let s2 := s1.twinTake w.partner n
      if s2.payloadDiffers lead lid trail tid then s2.twinBreak lead lid trail tid n 4 3 stCANCELLED
      else s2.launchEnt lead lid

end Sys2Proof.Machine
end

