-- ==== Sys2Proof/Machine/Network.lean ====
section
/-!
DEFINITION. The N slot: sends, receives, waiting, records, server requests and contrails (R259 to R274, R367, R368). An instruction
makes an entry and names it in a handle register; the rest belongs to the interface.
-/
namespace Sys2Proof.Machine

/-- What an N-slot request is made of: its place in the comparison of a pair, whether it names a tile-store buffer (R226), its checks,
whether it breaks a limit (R261), a status that it takes at once, its entry, and what is done once the entry is made. -/
structure Req where
  kind    : EKind
  opcode  : Nat
  store   : Bool := true
  checks  : Checks
  full    : Bool := false
  limit   : Bool := false
  fate    : Option (BitVec 8) := none
  compare : Option (List Word) := none
  entry   : Ent → Ent
  after   : State → Nat → State := fun s _ => s

/-- The subscriptions still open on a contrail that closes complete CANCELLED (R105, R273). -/
def State.endSubscriptions (s : State) (pub : Rank) (tag : W32) (group : BitVec 16) : State :=
  let endAt (key : Nat) (st : State) : State :=
    ((st.getNi key).ents.filter fun e => e.kind == .subs && e.phase == .posted && e.rank == pub && e.tag == tag && e.group == group).foldl
      (fun st e => st.complete key e.id fun r => { r with status := stCANCELLED, dlen := 0, flen := 0 }) st
  s.requestKeys.foldl (fun st key => let s1 := endAt key st; if isTile key then s1.inShadow key (endAt key) else s1) s

/-- A contrail that has ended is forgotten: at the publisher, at the routers, and its open subscriptions are cancelled (R105). -/
def State.endContrail (s : State) (key : Nat) (e : Ent) : State :=
  let s1 := s.modNi key fun n =>
    { n with asked := n.asked.filter fun a => !(a.1 == e.group && a.2 == e.tag)
             alone := n.alone.filter fun o => !(o.2.1 == e.group && o.2.2 == e.tag) }
  { s1.endSubscriptions (s.niRank key) e.tag e.group with
    routers := s1.routers.filterMap fun r =>
      let l := r.2.filter fun c => !(c.pub == s.niRank key && c.tag == e.tag && c.group == e.group)
      if l.isEmpty then none else some (r.1, l)
    spills := s1.spills.filter fun x => !(x.2.1 == s.niRank key && x.2.2.1 == e.group && x.2.2.2.1 == e.tag) }

/-- Closes a contrail now, if no round of it runs (R105, R273): OK, with the buffer's length. -/
def State.closeContrail (s : State) (key id : Nat) : State :=
  match s.ent key id with
  | none => s
  | some e =>
    if e.kind != .publ || e.phase == .done then s
    else if e.phase == .round || e.phase == .awaitLast then s.modEnt key id fun e => { e with closing := true }
    else
      (s.complete key id fun r => { r with status := stOK, dlen := e.len, flen := e.len }).endContrail key e

/-- An entry loses its handle: detached, its contrail closed (log 106), its mailbox cancelled (R86, R270). -/
def State.letGo (s : State) (id : Nat) : State :=
  let key := s.tile.ep
  let s1 := s.detach key id
  if s.trailing key then s1
  else
    match s.ent key id with
    | some e => if e.kind == .publ then s1.closeContrail key id else s1
    | none => s1

/-- Writes a handle register; a live entry that it named becomes detached (R86, R263). -/
def State.nameH (s : State) (d : BitVec 4) (id : Nat) : State :=
  let s1 := match s.tile.thr.regs.getH d.toNat with
    | some x => s.letGo x
    | none => s
  s1.onRegs fun r => r.setH d.toNat (some id)

/-- What the bundle itself has stored: a buffer that one of its requests reads is delivered with any value there (R99), but as it stands where the
step sequencer has written (R418). -/
def State.ownStores (s : State) : List (Nat × Nat) := (s.tile.iss.stored.filter fun w => !w.2.2).map fun w => (w.1, w.2.1)

/-- A trailing tile's new entry whose mate at the leading tile has completed already takes that one's record (R388). -/
def State.mirrorEnded (s : State) (id : Nat) : State :=
  match s.tile.twin, s.ent s.tile.ep id with
  | some w, some e =>
    match (if e.mate = 0 then none else w.ended.find? fun x => x.1 == e.mate) with
    | some x =>
      ((s.onTile fun t => { t with twin := t.twin.map fun v => { v with ended := v.ended.filter fun y => y.1 != e.mate } }).modEnt s.tile.ep id
        fun y => { y with shards := x.2.2 }).markDone s.tile.ep id e x.2.1
    | none => s
  | _, _ => s

/-- Makes the entry of a request (R86, R261): a limit broken, or a trailing tile in handler mode (R431), completes it in the next
step; FLEN then holds a length modulo 2^24 (log 100). -/
def State.makeEntry (s : State) (q : Req) : State × Nat :=
  let key := s.tile.ep
  let n := s.getNi key
  let id := n.nextId
  let made := s.pairOf.elim 0 fun w => w.made + 1
  let e := q.entry { Ent.fresh id q.kind with xid := n.nextXid, dirty := s.ownStores, mate := made }
  let denied := q.limit || (s.trailing key && s.hm)
  let now := if denied then some stDENIED else q.fate
  let count (s : State) : State := if made = 0 then s else s.onTile fun t =>
    { t with twin := t.twin.map fun w => { w with made, ended := w.ended.filter fun x => decide (made ≤ x.1) } }
  let add (e : Ent) (l : List (Nat × Nat × Nat)) (s : State) : State := (count s).modNi key fun n =>
    { n with ents := n.ents ++ [e], nextId := n.nextId + 1, nextXid := n.nextXid + 1, instant := n.instant ++ l }
  match now with
  | some st => (add { e with phase := .closing, len := if denied then e.len % 2 ^ 24 else e.len } [(id, st.toNat, s.cycle + 1)] s, id)
  | none =>
    let s1 := q.after (add e [] s) id
    (match q.compare with | some ops => s1.submit id q.opcode ops | none => s1.mirrorEnded id, id)

/-- Issues an N-slot request: never under speculation, stalled on a busy tile-store engine that its buffer needs and on a full table,
checked, compared in a pair, entered, named (R189, R226, R356). -/
def State.request (s : State) (d : BitVec 4) (q : Req) : Out :=
  s.confirmed <| s.stallIf (q.store && s.storeBusy) .busy <| s.stallIf (q.full || (s.getNi s.tile.ep).full q.kind) (.full q.kind.table) <|
    s.checked q.checks fun s =>
      match (if q.limit then none else q.compare.bind fun ops => s.twinDiff q.opcode ops) with
      | some (w, pid, field) =>
        let n := w.ordinal + 1
        (((s.twinTake w.partner n).completeWith w.partner pid stCANCELLED 0 0).twinFlag w.partner (twinInfo n w.lead field 1)).slotTrap
          tcTWIN (twinInfo n (!w.lead) field 1) q.checks.names q.checks.ops q.checks.third
      | none =>
        let r := s.makeEntry q
        r.1.nameH d r.2

/-- The scalar operands sa, sb (DG resolved) and sc of a request. -/
def State.nOps (s : State) (a b c : BitVec 5) : SVal × SVal × SVal :=
  (s.opS 0 a, resolveDg (s.opS 1 b) (s.rdC crGROUP), s.opS 2 c)

def nNames (a b c : BitVec 5) : List Reg := [.s a.toNat, .s b.toNat, .s c.toNat]

/-! ### Sends (R264) -/

/-- The entry of a send. -/
def sendEntry (rank : Rank) (y : Word) (len : Nat) (buf : Buf) (e : Ent) : Ent :=
  let f := reqFlags y
  { e with
    rank, tag := loWord y, group := f.group, len, buf, nb := f.barrier
    rcd := { Rec.zero with source := rank, tag := loWord y, group := f.group } }

/-- The shards of the tile's earlier requests that have no outcome yet (R103). -/
def Ni.unperformed (n : Ni) : List (Nat × Nat) :=
  n.ents.flatMap fun e => if e.kind.isReq then (e.shards.filter fun x => x.code.isNone).map fun x => (e.id, x.shard.no) else []

/-- SEND, SENDR and SENDT: what differs is `f`, applied to the entry, and the values compared in a pair. -/
def State.sendReq (s : State) (d : BitVec 4) (a b c : BitVec 5) (k : EKind) (opcode : Nat) (third : Option Nat) (extra : List Word)
    (full : Bool) (f : Ent → Ent) : Out :=
  let o := s.nOps a b c
  let len := (hiWord o.1.val).toNat
  let rank := loWord o.1.val
  s.request d
    { kind := k, opcode, full
      checks :=
        { names := nNames a b c, ops := [o.1, o.2.1, o.2.2], third
          first := firstOf [resCheck a.toNat o.1 3, resCheck c.toNat o.2.2 0]
          mem := if len ≤ maxLen then [(o.2.2.val, len)] else [] }
      limit := decide (maxLen < len) || (reqFlags o.2.1.val).bad false false false
      fate := (s.sendFate rank).map (·.1)
      compare := some ([o.1.val, o.2.1.val] ++ extra)
      entry := fun e => f (sendEntry rank o.2.1.val len (.store o.2.2.val.toNat s.tile.ranges) e) }

/-- SEND (R264). -/
def execSend (d : BitVec 4) (a b c : BitVec 5) (s : State) : Out := s.sendReq d a b c .send 0x01 none [] false id
/-- SENDR: it waits for the shards that the tile has outstanding (R103, R264). -/
def execSendr (d : BitVec 4) (a b c : BitVec 5) (s : State) : Out :=
  s.sendReq d a b c .sendr 0x02 none [] false fun e => { e with watch := (s.getNi s.tile.ep).unperformed }
/-- SENDT: held until TSEND, at most sixteen of them; late when TSEND has passed (R104, R264, R422). -/
def execSendt (d : BitVec 4) (a b c : BitVec 5) (s : State) : Out :=
  let t := s.rdC crTSEND
  let early := decide (s.time < t.toNat)
  s.sendReq d a b c .sendt 0x03 (some crTSEND) [t] (early && decide (Config.timedMax ≤ (s.getNi s.tile.ep).heldTimed)) fun e =>
    { e with timed := true, tsend := some t, late := !early, phase := if early then .held else .queued }
/-- SENDV: the 256 bytes of vc, copied at issue; always eager (R93, R264). -/
def execSendv (d : BitVec 4) (a b c : BitVec 5) (s : State) : Out :=
  let x := s.opS 0 a
  let y := resolveDg (s.opS 1 b) (s.rdC crGROUP)
  let v := s.rdV c
  let rank := loWord x.val
  s.request d
    { kind := .sendv, opcode := 0x04, store := false
      checks := { names := [.s a.toNat, .s b.toNat], ops := [x, y], regs := [.v c.toNat] }
      limit := (reqFlags y.val).bad false false false
      fate := (s.sendFate rank).map (·.1)
      compare := some [x.val, y.val]
      entry := sendEntry rank y.val 256 (.bytes (toLE 256 v.bits.toNat)) }

/-! ### Receives (R265) -/

/-- The entry of a receive: source, tag, mask and group are fixed at issue (R87, R90). -/
def recvEntry (x y mask : Word) (buf : Buf) (e : Ent) : Ent :=
  let f := reqFlags y
  { e with
    phase := .posted, rank := loWord x, any := f.any, tag := loWord y, mask := loWord mask, group := f.group
    len := (hiWord x).toNat, buf, nb := f.barrier, rcd := { Rec.zero with group := f.group } }

/-- A new receive looks through the unexpected store; a trailing tile's never does (R89, R429). -/
def State.search (s : State) (id : Nat) : State := if s.trailing s.tile.ep then s else s.postSearch s.tile.ep id

/-- POST (R265). -/
def execPost (d : BitVec 4) (a b c : BitVec 5) (s : State) : Out :=
  let o := s.nOps a b c
  let len := (hiWord o.1.val).toNat
  s.request d
    { kind := .post, opcode := 0x05
      checks :=
        { names := nNames a b c, ops := [o.1, o.2.1, o.2.2], third := some crTAGMASK
          first := firstOf [resCheck a.toNat o.1 3, resCheck c.toNat o.2.2 0]
          mem := if len ≤ maxLen then [(o.2.2.val, len)] else [] }
      limit := decide (maxLen < len) || (reqFlags o.2.1.val).bad true false false
      entry := recvEntry o.1.val o.2.1.val (s.rdC crTAGMASK) (.store o.2.2.val.toNat s.tile.ranges)
      after := fun s id => s.search id }

/-- POSTM: a mailbox of 1 to 2,048 bytes whose hold copy takes pool units (R100, R265). -/
def execPostm (d : BitVec 4) (a b c : BitVec 5) (s : State) : Out :=
  let o := s.nOps a b c
  let len := (hiWord o.1.val).toNat
  let ok := decide (1 ≤ len) && decide (len ≤ 2048)
  let bad := (reqFlags o.2.1.val).bad true false false
  let units := s.allot s.tile.ep (unitsOf len)
  s.request d
    { kind := .postm, opcode := 0x06
      checks :=
        { names := nNames a b c, ops := [o.1, o.2.1, o.2.2], third := some crTAGMASK
          first := firstOf [resCheck a.toNat o.1 3, resCheck c.toNat o.2.2 0]
          mem := if ok then [(o.2.2.val, len)] else [] }
      limit := !ok || units.isNone || bad
      entry := fun e => { recvEntry o.1.val o.2.1.val (s.rdC crTAGMASK) (.store o.2.2.val.toNat s.tile.ranges) e with units := if ok && !bad then units.getD [] else [] }
      after := fun s id => s.search id }

/-- TINFO of ANVIL_RANGE (R336). -/
def nAnvilInfo (x : AnvilAddr) (reason : Nat) : Word := BitVec.ofNat 64 (x.region + reason * 8 + x.off * 2 ^ 32)

/-- The checks of an anvil buffer in the order 3, 1, 0 (R265, R368); `len` bytes must fit where the buffer is read (R273). -/
def State.anvilBuf (s : State) (x : AnvilAddr) (len : Nat) : Option (Nat × Word) :=
  let ab := s.cr (crAB0 + x.region)
  let size := abSize ab * 65536
  if x.bad then some (tcANVIL, nAnvilInfo x 3)
  else if s.partOf s.tile.ep ≠ some (abOwner ab) then some (tcANVIL, nAnvilInfo x 1)
  else if size ≤ x.off || size < x.off + len then some (tcANVIL, nAnvilInfo x 0)
  else none

/-- POSTA (R102, R265). -/
def execPosta (d : BitVec 4) (a b c : BitVec 5) (s : State) : Out :=
  let o := s.nOps a b c
  let len := (hiWord o.1.val).toNat
  let x := anvilOperand o.2.2.val
  s.request d
    { kind := .posta, opcode := 0x07, store := false
      checks :=
        { names := nNames a b c, ops := [o.1, o.2.1, o.2.2], third := some crTAGMASK
          first := firstOf [resCheck a.toNat o.1 3, resCheck c.toNat o.2.2 0, s.anvilBuf x 0] }
      limit := decide (maxLen < len) || (reqFlags o.2.1.val).bad true false false
      entry := recvEntry o.1.val o.2.1.val (s.rdC crTAGMASK) (.anvil x.region x.off)
      after := fun s id => s.search id }

/-! ### Waiting, polling and records (R266 to R270) -/

/-- A use of a handle: a free one traps (R263). -/
def State.handle (s : State) (k : BitVec 4) (f : Nat → State → State) : Out :=
  match s.rdH k with
  | none => .next (s.slotTrap tcHANDLE (k.zeroExtend 64) [] [] none)
  | some id => s.checked { regs := [.h k.toNat] } (f id)

/-- Whether a status is OK or OK_CORRECTED (R267). -/
def okStatus (st : BitVec 8) : Bool := st == stOK || st == stCORRECTED

/-- The record's words as a queued result. -/
def Rec.words (r : Rec) : List Word :=
  [BitVec.ofNat 64 (r.status.toNat + r.flags.toNat * 2 ^ 8 + r.group.toNat * 2 ^ 16 + r.source.toNat * 2 ^ 32),
   BitVec.ofNat 64 (r.tag.toNat + r.dlen % 2 ^ 24 * 2 ^ 32 + r.flen % 2 ^ 8 * 2 ^ 56),
   BitVec.ofNat 64 (r.flen / 2 ^ 8 % 2 ^ 16 + r.progress % 2 ^ 16 * 2 ^ 16 + r.tstamp.toNat * 2 ^ 32),
   r.shards]

/-- The record that four words give. -/
def Rec.ofWords (l : List Word) : Rec :=
  let w (i : Nat) : Word := l.getD i 0
  { status := (w 0).extractLsb' 0 8, flags := (w 0).extractLsb' 8 8, group := (w 0).extractLsb' 16 16, source := (w 0).extractLsb' 32 32
    tag := (w 1).extractLsb' 0 32, dlen := ((w 1).extractLsb' 32 24).toNat
    flen := ((w 1).extractLsb' 56 8).toNat + ((w 2).extractLsb' 0 16).toNat * 256, progress := ((w 2).extractLsb' 16 16).toNat
    tstamp := (w 2).extractLsb' 32 32, shards := w 3 }

/-- MSG_STATUS after the bundle when the observed status is a failure and TVEC.ENMSG is set (R267). -/
def State.msgTrap (s : State) (k : BitVec 4) (st : BitVec 8) : State :=
  if (s.cr crTVEC).getLsbD 62 && !okStatus st then s.lateTrap tcMSG (BitVec.ofNat 64 (st.toNat + k.toNat * 256)) else s

/-- The record of an entry as it stands: a mailbox shows HELD while its delivery waits for a RELEASE (R103, R110). -/
def Ent.record (e : Ent) : Rec :=
  if e.kind == .postm && e.phase == .relHeld then { e.rcd with flags := e.rcd.flags ||| recHeld } else e.rcd

/-- The record of an entry as an observation leaves it. -/
def State.seenRec (s : State) (id : Nat) : Rec :=
  match s.ent s.tile.ep id with
  | some e => e.record
  | none => Rec.zero

/-- An observation's result taken from the queue: the trailing tile's entry takes the record, the bytes of a hold copy that the leading tile has
taken go into the buffer, and the tile acquires it (R100, R121, R430). -/
def State.fromQueue (s : State) (id : Nat) (ws : List Word) : State :=
  let key := s.tile.ep
  match s.ent key id with
  | none => s
  | some e =>
    let l := (ws.drop 4).map fun w => w.extractLsb' 0 8
    let s1 := if l.isEmpty then s else s.writeBuf key e.buf 0 l
    (s1.modEnt key id fun e =>
      { e with rcd := Rec.ofWords ws, observed := true, mheld := e.mheld || e.kind == .postm
               hold := if !l.isEmpty && (e.hold.map fun x => x.1) == some l then none else e.hold }).modNi key fun n => n.acquire e

/-- The bytes of a hold copy that an observation takes into the buffer (R100). -/
def State.holdTaken (s : State) (id : Nat) : List Byte :=
  match s.ent s.tile.ep id with
  | some e => if e.kind == .postm && e.phase != .done && e.mheld then e.hold.elim [] fun h => h.1 else []
  | none => []

/-- Observes an entry, writes pj and queues the result (R267, R430). `wait` tells WAITM's predicate from TESTM's. -/
def State.observation (s : State) (k : BitVec 4) (j : BitVec 3) (id : Nat) (wait : Bool) : State :=
  let held := (s.holdTaken id).map fun b => b.zeroExtend 64
  let s1 := s.observe s.tile.ep id
  let r := s1.seenRec id
  let p := if wait then okStatus r.status else true
  ((s1.wrP j p 1).queueResult ((if p then 1 else 0) :: 1 :: (r.words ++ held))).msgTrap k r.status

/-- WAITM: stalls until the entry is observable (R267). -/
def execWaitm (k : BitVec 4) (j : BitVec 3) (s : State) : Out :=
  s.confirmed <|
  match s.rdH k with
  | none => s.handle k fun _ s => s
  | some id =>
    s.asyncRead
      (fun s =>
        match s.ent s.tile.ep id with
        | some e => s.stallIf (!e.observable) (.waitm k.toNat) (s.handle k fun id s => s.observation k j id true)
        | none => s.handle k fun id s => s.observation k j id true)
      (fun ws s => s.handle k fun id s =>
        let r := Rec.ofWords (ws.drop 2)
        ((s.fromQueue id (ws.drop 2)).wrP j (ws.getD 0 0 != 0) 1).msgTrap k r.status)

/-- TESTM: never stalls; false when nothing can be observed (R267). -/
def execTestm (k : BitVec 4) (j : BitVec 3) (s : State) : Out :=
  s.confirmed <|
  match s.rdH k with
  | none => s.handle k fun _ s => s
  | some _ =>
    s.asyncRead
      (fun s => s.handle k fun id s =>
        match s.ent s.tile.ep id with
        | some e => if e.observable then s.observation k j id false else (s.wrP j false 1).queueResult (0 :: 0 :: e.record.words)
        | none => s.wrP j false 1)
      (fun ws s => s.handle k fun id s =>
        if ws.getD 1 0 = 0 then s.wrP j false 1
        else
          let r := Rec.ofWords (ws.drop 2)
          ((s.fromQueue id (ws.drop 2)).wrP j (ws.getD 0 0 != 0) 1).msgTrap k r.status)

/-- MREC: a word of the record as held at issue; no observation (R268). -/
def execMrec (d : BitVec 5) (k : BitVec 4) (w : BitVec 2) (s : State) : Out :=
  s.confirmed <|
  match s.rdH k with
  | none => s.handle k fun _ s => s
  | some _ =>
    s.asyncRead
      (fun s => s.handle k fun id s =>
        let x := (s.seenRec id).words.getD w.toNat 0
        (s.wrS d (SVal.of x) 2).queueResult [x])
      (fun ws s => s.handle k fun _ s => s.wrS d (SVal.of (ws.getD 0 0)) 2)

/-- CANCEL (R269). -/
def execCancel (k : BitVec 4) (s : State) : Out :=
  s.confirmed <| s.handle k fun id s => s.cancel s.tile.ep id

/-- PROBE: what a POST would find, without taking it (R266). -/
def execProbe (d a b : BitVec 5) (j : BitVec 3) (s : State) : Out :=
  let x := s.opS 0 a
  let y := resolveDg (s.opS 1 b) (s.rdC crGROUP)
  let f := reqFlags y.val
  let c : Checks := { names := [.s a.toNat, .s b.toNat], ops := [x, y], third := some crTAGMASK }
  s.confirmed <| s.asyncRead
    (fun s => s.checked c fun s =>
      let e := recvEntry x.val y.val (s.rdC crTAGMASK) (.bytes []) (Ent.fresh 0 .post)
      let found := if f.bad true false false || f.nbe || f.nb != 0 then none
        else (s.getNi s.tile.ep).offered.find? fun u => e.fits u.hdr
      let v : Word := match found with
        | some u => BitVec.ofNat 64 (u.hdr.src.toNat + u.hdr.len % 2 ^ 24 * 2 ^ 32)
        | none => 0
      ((s.wrS d (SVal.of v) 2).wrP j found.isSome 2).queueResult [v, if found.isSome then 1 else 0])
    (fun ws s => s.checked c fun s => (s.wrS d (SVal.of (ws.getD 0 0)) 2).wrP j (ws.getD 1 0 != 0) 2)

/-- FREEH: frees a completed entry, detaches another; the handle becomes free (R270). -/
def execFreeh (k : BitVec 4) (s : State) : Out :=
  s.confirmed <| s.handle k fun id s => (s.letGo id).onRegs fun r => r.setH k.toNat none

/-! ### Server requests (R271, R272) -/

/-- The entry of a server request: SOURCE is shard 0's server (R271). -/
def reqEntry (y : Word) (len : Nat) (buf : Buf) (ps : List Piece) (s : State) (e : Ent) : Ent :=
  let f := reqFlags y
  let src := match ps with | p :: _ => s.rankOf (0x400 + homeOf p.va) | [] => 0
  { e with group := f.group, len, buf, nb := f.barrier, phase := .shards
           rcd := { Rec.zero with source := src, group := f.group, flen := len } }

/-- Bytes of the tile store that a request reads at issue, and which of them are poisoned (R262, R347, R396). What the thread then writes into the source
of a PUT, PUTB or SCAT is delivered with any value; descriptors, lists and operands count as they stood at issue (R99, R271; log 78). -/
def State.reqBytes (s : State) (a n : Nat) : List Byte × List (Nat × Nat) :=
  let e := { Ent.fresh 0 .put with buf := .store a s.tile.ranges, dirty := s.ownStores }
  ((s.readBuf s.tile.ep e 0 n).1, s.badSpans s.tile.ep e 0 n)

/-- Poisoned operands: the request carries them all as one (R347). -/
def poisonedWhole (n : Nat) (bad : List (Nat × Nat)) : List (Nat × Nat) := if bad.isEmpty then [] else [(0, n)]

/-- Gives an entry its shards; in a pair they leave when the partner has issued (R135, R388). -/
def State.giveShards (s : State) (id kind : Nat) (ps : List Piece) (data : List Byte) (aop : Nat) (notify : Option (Rank × W32))
    (bad : List (Nat × Nat)) : State :=
  let key := s.tile.ep
  match s.ent key id with
  | none => s
  | some e =>
    let qs := shardsOf (s.niRank key) e.xid.toNat ((s.rdC crACTX).extractLsb' 0 16).toNat e.group kind ps data aop notify bad
    s.modEnt key id fun e => { e with shards := qs.map fun q => ⟨q, 1, 0, false, false, none, [], false, false⟩ }

/-- A server request over pieces: a request without bytes is OK in the next step (R136), its record with SOURCE 0 (log 88); one of more than 64
shards is DENIED (R135). -/
def State.serverReq (s : State) (d : BitVec 4) (k : EKind) (opcode : Nat) (checks : Checks) (cmp : List Word) (limit : Bool) (y : Word)
    (len : Nat) (buf : Buf) (ps : List Piece) (data : Unit → List Byte × List (Nat × Nat)) (aop : Nat) (notify : Option (Rank × W32)) : Out :=
  s.request d
    { kind := k, opcode, checks
      limit := limit || decide (64 < (homesOf ps).length)
      fate := if ps.isEmpty then some stOK else none
      compare := some cmp
      entry := reqEntry y len buf ps s
      after := fun s id =>
        let b := data ()
        s.giveShards id k.shardKind ps b.1 aop notify b.2 }

/-- GET and PUT: sa[47:0] and a length of sb (R271, R367, R401). -/
def State.getPut (s : State) (d : BitVec 4) (a b c : BitVec 5) (k : EKind) (opcode : Nat) : Out :=
  let o := s.nOps a b c
  let f := reqFlags o.2.1.val
  let len := (o.2.1.val.extractLsb' 0 21).toNat
  let va := (o.1.val.extractLsb' 0 48).toNat
  let lenOk := decide (o.2.1.val.extractLsb' 21 11 = 0) && decide (len ≤ 1048576)
  let ps := if lenOk then rangePieces 0 va len else []
  let put := k == .put
  let ntf := put && f.ntf
  let nt := s.rdC crNOTIFY
  let limit := !lenOk || decide (o.1.val.extractLsb' 48 16 ≠ 0) || f.bad false put false || decide (2 ^ 48 < va + len) ||
    (ntf && (!s.notifyOk (loWord nt) || decide (1 < (homesOf ps).length)))
  s.serverReq d k opcode
    { names := nNames a b c, ops := [o.1, o.2.1, o.2.2], third := if ntf then some crNOTIFY else none
      first := firstOf [resCheck b.toNat (s.opS 1 b) 3, resCheck c.toNat o.2.2 0]
      mem := if lenOk then [(o.2.2.val, len)] else [] }
    ([o.1.val, o.2.1.val] ++ if ntf then [nt] else []) limit o.2.1.val len (.store o.2.2.val.toNat s.tile.ranges) ps
    (fun _ => if put then s.reqBytes o.2.2.val.toNat len else ([], [])) 0 (if ntf then some (loWord nt, hiWord nt) else none)

/-- GET (R271). -/
def execGet (d : BitVec 4) (a b c : BitVec 5) (s : State) : Out := s.getPut d a b c .get 0x0D
/-- PUT (R140, R271). -/
def execPut (d : BitVec 4) (a b c : BitVec 5) (s : State) : Out := s.getPut d a b c .put 0x0E

/-- GETB and PUTB: sa is the address of a box descriptor, which is read at issue (R271, R272). -/
def State.boxReq (s : State) (d : BitVec 4) (a b c : BitVec 5) (k : EKind) (opcode : Nat) : Out :=
  let o := s.nOps a b c
  let bx := readBox (s.ldBytes o.1.val 48)
  let aligned := decide (o.1.val.extractLsb' 0 3 = 0)
  let good := aligned && (bx.empty || bx.ok)
  let len := if good then (if bx.empty then 0 else bx.bytes) else 0
  let ps := if good && !bx.empty then bx.pieces else []
  s.serverReq d k opcode
    { names := nNames a b c, ops := [o.1, o.2.1, o.2.2]
      first := firstOf [resCheck a.toNat o.1 0, resCheck c.toNat o.2.2 0]
      reads := [(o.1.val, 48)], mem := (o.1.val, 48) :: (if good then [(o.2.2.val, len)] else []) }
    [o.1.val, o.2.1.val] (!good || decide (loWord o.2.1.val ≠ 0) || (reqFlags o.2.1.val).bad false false false)
    o.2.1.val len (.store o.2.2.val.toNat s.tile.ranges) ps (fun _ => if k == .putb then s.reqBytes o.2.2.val.toNat len else ([], [])) 0 none

/-- GETB (R147, R271). -/
def execGetb (d : BitVec 4) (a b c : BitVec 5) (s : State) : Out := s.boxReq d a b c .getb 0x0F
/-- PUTB (R147, R271). -/
def execPutb (d : BitVec 4) (a b c : BitVec 5) (s : State) : Out := s.boxReq d a b c .putb 0x10

/-- GATH and SCAT: a count, an element size and an index list, whose extent the count alone defines (R148, R262, R271). A poisoned index poisons its
element (R347, R396). -/
def State.listReq (s : State) (d : BitVec 4) (a b c : BitVec 5) (k : EKind) (opcode : Nat) : Out :=
  let o := s.nOps a b c
  let y := o.2.1.val
  let n := (y.extractLsb' 0 11).toNat
  let es := (y.extractLsb' 12 3).toNat
  let countOk := decide (1 ≤ n) && decide (n ≤ 1024)
  let good := countOk && decide (es ≠ 7)
  let buf := (loWord o.2.2.val).toNat
  let lst := (hiWord o.2.2.val).toNat
  let len := n * esBytes es
  let words := s.reqBytes lst (4 * n)
  let idx := (List.range n).map fun i => ofLE ((words.1.drop (4 * i)).take 4)
  let ps := if good then listPieces (o.1.val.extractLsb' 0 48).toNat (esBytes es) idx else []
  let limit := !good || y.getLsbD 11 || decide (y.extractLsb' 15 17 ≠ 0) || decide (o.1.val.extractLsb' 48 16 ≠ 0) ||
    (reqFlags y).bad false false false
  s.serverReq d k opcode
    { names := nNames a b c, ops := [o.1, o.2.1, o.2.2]
      first := firstOf [resCheck b.toNat (s.opS 1 b) 3, resCheck c.toNat o.2.2 0]
      mem := (if good then [(BitVec.ofNat 64 buf, len)] else []) ++ (if countOk then [(BitVec.ofNat 64 lst, 4 * n)] else []) }
    [o.1.val, y] limit y len (.store buf s.tile.ranges) ps
    (fun _ =>
      let elems := words.2.flatMap fun x => ((List.range n).filter fun i => decide (x.1 < 4 * i + 4) && decide (4 * i < x.1 + x.2)).map fun i =>
        (i * esBytes es, esBytes es)
      if k == .scat then (let b := s.reqBytes buf len; (b.1, b.2 ++ elems)) else ([], elems)) 0 none

/-- GATH (R148, R271). -/
def execGath (d : BitVec 4) (a b c : BitVec 5) (s : State) : Out := s.listReq d a b c .gath 0x11
/-- SCAT (R148, R271). -/
def execScat (d : BitVec 4) (a b c : BitVec 5) (s : State) : Out := s.listReq d a b c .scat 0x12

/-- APPLY: the server checks OP and alignment (R149, R271). -/
def execApply (d : BitVec 4) (a b c : BitVec 5) (s : State) : Out :=
  let o := s.nOps a b c
  let y := o.2.1.val
  let op := (y.extractLsb' 0 4).toNat
  let w := applyWidth op
  let src := (loWord o.2.2.val).toNat
  let old := (hiWord o.2.2.val).toNat
  let va := (o.1.val.extractLsb' 0 48).toNat
  s.serverReq d .apply 0x13
    { names := nNames a b c, ops := [o.1, o.2.1, o.2.2], first := resCheck c.toNat o.2.2 0
      mem := [(BitVec.ofNat 64 src, w), (BitVec.ofNat 64 old, w)] }
    [o.1.val, y] (decide (y.extractLsb' 4 28 ≠ 0) || decide (o.1.val.extractLsb' 48 16 ≠ 0) || (reqFlags y).bad false false false)
    y w (.store old s.tile.ranges) [⟨0, va, w⟩] (fun _ => let b := s.reqBytes src w; (b.1, poisonedWhole w b.2)) op none

/-- CAS: compare and swap values at sc[31:0], the old value to sc[63:32] (R150, R271). -/
def execCas (d : BitVec 4) (a b c : BitVec 5) (s : State) : Out :=
  let o := s.nOps a b c
  let y := o.2.1.val
  let src := (loWord o.2.2.val).toNat
  let old := (hiWord o.2.2.val).toNat
  let va := (o.1.val.extractLsb' 0 48).toNat
  s.serverReq d .cas 0x14
    { names := nNames a b c, ops := [o.1, o.2.1, o.2.2], first := resCheck c.toNat o.2.2 0
      mem := [(BitVec.ofNat 64 src, 16), (BitVec.ofNat 64 old, 8)] }
    [o.1.val, y] (decide (loWord y ≠ 0) || decide (o.1.val.extractLsb' 48 16 ≠ 0) || (reqFlags y).bad false false false)
    y 8 (.store old s.tile.ranges) [⟨0, va, 8⟩] (fun _ => let b := s.reqBytes src 16; (b.1, poisonedWhole 16 b.2)) 0 none

/-! ### Contrails (R105, R273) -/

/-- The open contrails of an interface. -/
def Ni.contrails (n : Ni) : List Ent := n.ents.filter fun e => e.kind == .publ && e.phase != .done && e.phase != .closing

/-- A contrail whose SUBSCRIBE came before it was opened begins with a round (R105). -/
def State.askAgain (s : State) (key : Nat) (group : BitVec 16) (tag : W32) : State :=
  let own := s.niRank key
  if (Sparse.get [] s.routers (epRouter key)).any fun c => c.pub == own && c.group == group && c.tag == tag then
    s.modNi key fun n => { n with asked := n.asked.filter (· != (group, tag)) ++ [(group, tag)] }
  else s

/-- PUBL: opens a contrail; a ninth, or one already open, is DENIED (R273, R367). -/
def execPubl (d : BitVec 4) (a b c : BitVec 5) (s : State) : Out :=
  let o := s.nOps a b c
  let f := reqFlags o.2.1.val
  let len := (hiWord o.1.val).toNat
  let x := anvilOperand o.2.2.val
  let opened := (s.getNi s.tile.ep).contrails
  let lenOk := decide (len ≤ maxLen)
  let own := s.niRank s.tile.ep
  s.request d
    { kind := .publ, opcode := 0x15, store := !f.anv
      checks :=
        { names := nNames a b c, ops := [o.1, o.2.1, o.2.2]
          first := firstOf [resCheck a.toNat o.1 3, resCheck c.toNat o.2.2 0, if f.anv then s.anvilBuf x len else none]
          mem := if lenOk && !f.anv then [(o.2.2.val, len)] else [] }
      limit := !lenOk || f.bad false false true || decide (8 ≤ opened.length) ||
        (opened.any fun e => e.tag == loWord o.2.1.val && e.group == f.group)
      compare := some [o.1.val, o.2.1.val]
      entry := fun e =>
        { sendEntry own o.2.1.val len (if f.anv then .anvil x.region x.off else .store o.2.2.val.toNat s.tile.ranges) e with phase := .open_ }
      after := fun s _ => s.askAgain s.tile.ep f.group (loWord o.2.1.val) }

/-- SUBS: posts a subscription and sends SUBSCRIBE (R105, R273, R367). -/
def execSubs (d : BitVec 4) (a b c : BitVec 5) (s : State) : Out :=
  let o := s.nOps a b c
  let f := reqFlags o.2.1.val
  let len := (hiWord o.1.val).toNat
  let x := anvilOperand o.2.2.val
  let pub := loWord o.1.val
  let lenOk := decide (len ≤ maxLen)
  s.request d
    { kind := .subs, opcode := 0x16, store := !f.anv
      checks :=
        { names := nNames a b c, ops := [o.1, o.2.1, o.2.2]
          first := firstOf [resCheck a.toNat o.1 3, resCheck c.toNat o.2.2 0, if f.anv then s.anvilBuf x 0 else none]
          mem := if lenOk && !f.anv then [(o.2.2.val, len)] else [] }
      limit := !lenOk || f.bad false false true || !s.ownPkg pub || decide (0x400 ≤ rankEp pub)
      fate := (s.sendFate pub).map (·.1)
      compare := some [o.1.val, o.2.1.val]
      entry := fun e =>
        { sendEntry pub o.2.1.val len (if f.anv then .anvil x.region x.off else .store o.2.2.val.toNat s.tile.ranges) e with phase := .posted } }

/-- UNPUB: closes a contrail after its running round; nothing for another entry (R273). -/
def execUnpub (k : BitVec 4) (s : State) : Out :=
  s.confirmed <| s.handle k fun id s =>
    if s.trailing s.tile.ep then s
    else
      match s.ent s.tile.ep id with
      | some e => if e.kind == .publ && e.phase != .closing then s.closeContrail s.tile.ep id else s
      | none => s

end Sys2Proof.Machine
end

