-- ==== Sys2Proof/Machine/Control.lean ====
section
/-!
DEFINITION. The C slot (R193 to R209, R362) and the steps that belong to it: control-register writes (R360), landing flags (R74),
the end of a speculative path (R189), and the watchdog (R386, R387).
-/
namespace Sys2Proof.Machine

/-- NOP (R177). -/
def execNop (s : State) : Out := .next s

/-! ### Transfers (R194 to R197) -/

/-- A 16-bit target names a bundle (R193). -/
def target (t : BitVec 16) : Nat := 4 * t.toNat

/-- BR (R195). -/
def execBr (t : BitVec 16) (s : State) : Out := .next (s.jumpTo (target t))

/-- Starts a speculative path on the side that HINT names (R189). -/
def State.speculate (s : State) (guess truth : Bool) (k : Nat) (t : Nat) : State :=
  let ready := s.tile.thr.land.foldl (fun c l => if l.dest == .p k then max c l.ready else c) 0
  let path (u : Tile) : Spec :=
    { saved := { u.thr with replay := none }, cleared := [], stores := [], covers := [], nstores := 0, engine := u.eng.store, bundles := 0
      guess, truth, target := t, addr := u.iss.addr, succ := u.iss.succ, ready }
  let s1 := s.onTile fun u => { u with spec := some (path u) }
  if guess then s1.jumpTo t else s1

/-- BRP: S = 0 waits for its predicate, S = 1 speculates on one that has not landed (R189, R195, R333). -/
def execBrp (sp n h : BitVec 1) (k : BitVec 3) (t : BitVec 16) (s : State) : Out :=
  let flying := decide (k ≠ 0) && s.flying (.p k.toNat)
  let taken := (s.source.regs.getP k.toNat) != (n == 1)
  let go : Out := s.checked { regs := [.p k.toNat] } fun s => if taken then s.jumpTo (target t) else s
  if !flying then go
  else if sp = 0 then .next (s.stallOn .pred)
  else if s.tile.iss.entering then go
  else s.confirmed (s.checked { regs := [.p k.toNat] } fun s => s.speculate (h == 1) taken k.toNat (target t))

/-- Writes the link and transfers (R195). -/
def State.link (s : State) (a : Nat) : State := (s.wrS 31 (SVal.of (BitVec.ofNat 64 s.tile.iss.succ)) 1).jumpTo a

/-- CALL (R195). -/
def execCall (t : BitVec 16) (s : State) : Out := .next (s.link (target t))

/-- The target in bits 17:2 of a scalar (R194). -/
def regTarget (x : Word) : Nat := 4 * (x.extractLsb' 2 16).toNat

/-- CALLR: the residue is checked as a transfer address (R194, R195). -/
def execCallr (a : BitVec 5) (s : State) : Out :=
  let x := s.opS 0 a
  s.checked { names := [.s a.toNat], ops := [x], first := resCheck a.toNat x 2 } fun s => s.link (regTarget x.val)
/-- JMPR (R194, R195). -/
def execJmpr (a : BitVec 5) (s : State) : Out :=
  let x := s.opS 0 a
  s.checked { names := [.s a.toNat], ops := [x], first := resCheck a.toNat x 2 } fun s => s.jumpTo (regTarget x.val)

/-- Enters counter `k` with a count, or skips the body when it is zero (R197). -/
def State.enterLoop (s : State) (k : BitVec 2) (count : W32) (last : Nat) : State :=
  if count = 0 then
    (s.onRegs fun r => r.setLC k.toNat { r.getLC k.toNat with active := false }).jumpTo (s.tile.bundleAt last).succ
  else
    s.onThr fun h =>
      { h with
        regs := h.regs.setLC k.toNat ⟨count, s.tile.iss.succ, last, true⟩
        order := k.toNat :: h.order.filter fun j => j != k.toNat }

/-- LOOP: count sa[31:0] (R197). -/
def execLoop (k : BitVec 2) (a : BitVec 5) (t : BitVec 16) (s : State) : Out :=
  let x := s.opS 0 a
  s.checked { names := [.s a.toNat], ops := [x] } fun s => s.enterLoop k (x.val.extractLsb' 0 32) (target t)
/-- LOOPI: the field holds the count less one (R197). -/
def execLoopi (k : BitVec 2) (n : BitVec 8) (t : BitVec 16) (s : State) : Out :=
  .next (s.enterLoop k (BitVec.ofNat 32 (n.toNat + 1)) (target t))

/-! ### Ending, trapping, returning (R198 to R200) -/

/-- Whether an entry of an earlier bundle keeps END waiting (R198): a send, a contrail or a server request. -/
def Ni.busyBefore (n : Ni) (first : Nat) : Bool :=
  n.ents.any fun e => !e.kind.isRecv && e.phase != .done && (decide (first = 0) || decide (e.id < first))

/-- Closes every contrail that the tile holds open (R198). -/
def State.closeContrails (s : State) : State :=
  if s.trailing s.tile.ep then s
  else (s.getNi s.tile.ep).contrails.foldl (fun st e => st.closeContrail s.tile.ep e.id) s

/-- Cancels every open receive (R53, R198). -/
def State.cancelReceives (s : State) : State :=
  ((s.getNi s.tile.ep).ents.filter fun e => e.kind.isRecv && e.phase != .done).foldl (fun st e => st.cancel s.tile.ep e.id) s

/-- END: closes contrails and waits, then issues and starts its third phase (R198), whatever its own bundle traps on (log 104). -/
def execEndT (s : State) : Out :=
  s.confirmed <|
    let s1 := s.closeContrails
    if (s1.getNi s.tile.ep).busyBefore s.tile.iss.first then .next (s1.stallOn .endWait)
    else .next (s1.cancelReceives.onThr fun h => { h with endStep := 3, pend := [] })

/-- TRAP n, after the bundle (R199). -/
def execTrap (n : BitVec 16) (s : State) : Out := s.confirmed (.next (s.lateTrap tcTRAP (n.zeroExtend 64)))

/-- TRET (R200, R337); outside handler mode HANDLER_ONLY. -/
def execTret (s : State) : Out :=
  s.confirmed <|
    if s.hm then .next s.returnFromTrap else .next (s.slotTrap tcHANDLER 0x1000 [] [] none)

/-! ### Named barriers (R201) -/

/-- WAITB: stalls while PHASE is behind sa[7:0], then acquires (R121, R201). -/
def execWaitb (a : BitVec 5) (k : BitVec 6) (s : State) : Out :=
  let x := s.opS 0 a
  let c : Checks := { names := [.s a.toNat], ops := [x] }
  let phase := (s.cr (crNB0 + k.toNat)).extractLsb' 56 8
  let d := (x.val.extractLsb' 0 8 - phase).toNat
  s.confirmed <| s.asyncStep
    (fun s => s.stallIf (decide (1 ≤ d) && decide (d ≤ 128)) (.waitb k.toNat) <|
      s.checked c fun s => (s.onTile fun t => t.acquireNb k.toNat).queueStep [])
    (fun _ s => s.checked c fun s => s.onTile fun t => t.acquireNb k.toNat)
/-- ARRB (R201). -/
def execArrb (k : BitVec 6) (s : State) : Out := s.confirmed (.next (s.onTile fun t => t.bump s.cycle k.toNat 0))
/-- SETB: TARGET from sa[23:0], COUNT 0, before the bumps of its step (R113, R201). -/
def execSetb (a : BitVec 5) (k : BitVec 6) (s : State) : Out :=
  let x := s.opS 0 a
  s.confirmed <| s.checked { names := [.s a.toNat], ops := [x] } fun s => s.onTile fun t =>
    t.writeNb s.cycle k.toNat fun v => (v &&& 0xFF00000000000000) ||| ((x.val.extractLsb' 0 24).zeroExtend 64 <<< 32)

/-! ### Work items, sleeping, yielding (R203 to R206) -/

/-- The launch that a tile's gang is. -/
def State.launchOf (s : State) (gang : Nat) : Option Launch := s.launches.find? fun l => l.n == gang && gang != 0

/-- First stage and count of a STAGEBIND (R35). -/
def LaunchRec.stages (r : LaunchRec) : Nat × Nat := ((r.stage.extractLsb' 0 8).toNat, (r.stage.extractLsb' 8 8).toNat)

/-- Whether the tile's gang binds a stage. -/
def State.bindsStage (s : State) : Bool :=
  match s.launchOf s.tile.gang with
  | some l => l.lrec.stages.2 != 0
  | none => false

/-- Writes s25, s26, s28 and s29 (R203). -/
def State.itemRegs (s : State) (l : List Word) : State :=
  (((s.wrS 25 (SVal.of (l.getD 0 0)) 1).wrS 26 (SVal.of (l.getD 1 0)) 1).wrS 28 (SVal.of (l.getD 2 0)) 1).wrS 29 (SVal.of (l.getD 3 0)) 1

/-- WAITW: all ones at once without a stage or in handler mode, else gated until an item comes (R203, R362). -/
def execWaitw (s : State) : Out :=
  let ones : List Word := List.replicate 4 (BitVec.allOnes 64)
  s.confirmed <| s.asyncRead
    (fun s =>
      if s.hm || !s.bindsStage then .next ((s.itemRegs ones).queueResult ones)
      else if s.tile.item.isEmpty then .next ((s.onTile fun t => { t with waitw := true }).stallOn .gated)
      else .next (((s.itemRegs s.tile.item).queueResult s.tile.item).onTile fun t => { t with waitw := false, item := [] }))
    (fun ws s => .next (s.itemRegs ws))

/-- DONEW: an 8-byte EAGER message with the ticket to the dispatcher, in a detached send entry (R204). -/
def execDonew (a : BitVec 5) (s : State) : Out :=
  let x := s.opS 0 a
  let key := s.tile.ep
  s.confirmed <| s.stallIf ((s.getNi key).full .donew) (.full 0) <| s.checked { names := [.s a.toNat], ops := [x] } fun s =>
    if s.trailing key && s.hm then s
    else
      match s.twinDiff 0x40F [x.val] with
      | some (w, pid, field) =>
        let n := w.ordinal + 1
        (((s.twinTake w.partner n).completeWith w.partner pid stCANCELLED 0 0).twinFlag w.partner (twinInfo n w.lead field 1)).slotTrap
          tcTWIN (twinInfo n (!w.lead) field 1) [.s a.toNat] [x] none
      | none =>
        let r := s.makeEntry
          { kind := .donew, opcode := 0x40F, checks := {}, compare := some [x.val]
            entry := fun e =>
              { e with rank := s.rankOf Config.dispatcherEp, tag := 0xFFFFFFFF, group := 0xFFFF, len := 8, detached := true
                       buf := .bytes (toLE 8 x.val.toNat) } }
        r.1

/-- YIELD: the issue unit is idle in the next step (R206). -/
def execYield (s : State) : Out := s.confirmed (.next (s.onTile fun t => { t with idle := max t.idle (s.cycle + 2) }))

/-- SLEEPT: gated while TIME < sa (R205). -/
def execSleept (a : BitVec 5) (s : State) : Out :=
  let x := s.opS 0 a
  s.confirmed <| s.stallIf (decide (s.time < x.val.toNat)) .gated <| s.checked { names := [.s a.toNat], ops := [x] } fun s => s

/-! ### Control registers (R207, R360) -/

/-- Registers whose reads depend on timing (R430). -/
def asyncCr (i : Nat) : Bool :=
  i == crCYCLE || i == crTIME || i == crWDOG || (crTOUCH0 ≤ i && i < crTOUCH0 + 3) || (crNB0 ≤ i && i < crNB0 + 64) ||
  (crAGEN0 ≤ i && i < crAGEN0 + 8)

/-- The registers that a G-slot operation writes with a bound (R300). -/
def State.crFlying (s : State) (i : Nat) : Bool := s.flying (.cr i)

/-- FPFLAGS while flags are on their way: those bits are free (R74). -/
def State.fpflags (s : State) : Word :=
  let coming : BitVec 6 := s.source.land.foldl (fun f l => if s.cycle < l.ready then f ||| l.flags else f) 0
  let v := s.rdC crFPFLAGS
  v ||| ((coming &&& s.freeBits 6 0x700).zeroExtend 64)

/-- The value that GETC reads (R173, R207): a free one inside STEPA's and SKSET's windows, beside a SETC of the same bundle too (R300; log 109). -/
def State.readC (s : State) (i : Nat) : Word :=
  if i = crCYCLE then BitVec.ofNat 64 s.cycle
  else if i = crTIME then BitVec.ofNat 64 s.time
  else if i = crFPFLAGS then s.fpflags
  else if i = crPAIRMODE then (match s.tile.twin with | some w => if w.lead then 1 else 3 | none => 0)
  else if s.crFlying i then s.freeBits 64 (0x800 + i)
  else if asyncCr i then s.cr i
  else s.rdC i

/-- GETC: bound 2 (R207). On a speculative path a pair's asynchronous read waits (R430). -/
def execGetc (d : BitVec 5) (i : BitVec 12) (s : State) : Out :=
  let n := i.toNat
  let own (s : State) : Out := s.checked { regs := [.cr n] } fun s => s.wrS d (SVal.of (s.readC n)) 2
  if asyncCr n && s.pairOf.isSome then
    s.confirmed <| s.asyncRead
      (fun s => s.checked { regs := [.cr n] } fun s => (s.wrS d (SVal.of (s.readC n)) 2).queueResult [s.readC n])
      (fun ws s => s.checked { regs := [.cr n] } fun s => s.wrS d (SVal.of (ws.getD 0 0)) 2)
  else own s

/-- Replaces the writable bits `mask` of a register, the others staying (R360). -/
def State.maskC (s : State) (i : Nat) (mask v : Word) : State := s.setCr i ((s.cr i &&& ~~~mask) ||| (v &&& mask))

/-- UPOOL base or size: taken only while the pool is empty, 256-byte multiples, ending at or below 0x1F_C000 (R94, R360). -/
def State.writeUpool (s : State) (size : Bool) (v : Word) : State :=
  let base := if size then s.cr crUPOOLB else v
  let len := if size then v else s.cr (crUPOOLB + 1)
  if !(s.getNi s.tile.ep).usedUnits.isEmpty || (s.getNi s.tile.ep).unexp.any (fun u => !u.units.isEmpty) then s
  else if base.toNat % 256 ≠ 0 || len.toNat % 256 ≠ 0 || decide (Config.saveArea < base.toNat + len.toNat) then s
  else s.setCr (if size then crUPOOLB + 1 else crUPOOLB) v

/-- A named barrier: PHASE, TARGET and COUNT replaced, then the bumps of the step (R112, R113). -/
def State.writeBarrier (s : State) (k : Nat) (v : Word) : State := s.onTile fun t => t.writeNb s.cycle k fun _ => v &&& 0xFFFFFFFF00FFFFFF

/-- TOUCH0 to TOUCH2 (R126). -/
def State.writeTouch (s : State) (k : Nat) (v : Word) : State := s.setCr (crTOUCH0 + k) v

/-- Clears sticky flags (R74). -/
def State.clearFp (s : State) (v : Word) : State := s.setCr crFPFLAGS (s.cr crFPFLAGS &&& ~~~(v &&& 0x3F))

/-- Clears OOR after the accesses of the bundle (R344). -/
def State.clearOor (s : State) (v : Word) : State := s.setCr crOORFLAG (s.cr crOORFLAG &&& ~~~(v &&& 1))

/-- Replaces element `n` of a list that has one. -/
def setAt {α : Type} : List α → Nat → α → List α
  | [], _, _ => []
  | _ :: l, 0, x => x :: l
  | y :: l, n + 1, x => y :: setAt l n x

/-- A write of TOPDn replaces the captured value with a zero residue and clears its poison (R335). -/
def Capture.setOp (c : Capture) (n : Nat) (v : Word) : Capture :=
  if n = 3 then
    match c.third with
    | some i => { c with regs := c.regs.setC i v, poison := c.poison.filter fun p => p != .reg (.cr i) }
    | none => c
  else
    { c with
      ops := setAt c.ops n (SVal.of v)
      poison := match c.names[n]? with | some r => c.poison.filter fun p => p != .reg r | none => c.poison }

/-- Writes TOPDn and the reporting slot's capture (R335). -/
def State.writeTopd (s : State) (n : Nat) (v : Word) : State :=
  (s.setCr (crTOPD0 + n) v).onThr fun h =>
    { h with caps := match h.caps with | c :: l => c.setOp n v :: l | [] => [] }

/-- SETC's effect on a register, under that register's own rules (R207, R360). A read-only register stays. -/
def State.writeC (s : State) (i : Nat) (v : Word) : State :=
  if i = crGROUP then s.maskC i 0xFFFF v
  else if i = crTAGMASK then s.maskC i 0xFFFFFFFF v
  else if i = crTSEND || i = crNOTIFY then s.setCr i v
  else if i = crUPOOLB then s.writeUpool false v
  else if i = crUPOOLB + 1 then s.writeUpool true v
  else if i = crTPC then s.maskC i 0x0003FFFC0003FFFC v
  else if i = crTMASK then s.maskC i 0xFFFF v
  else if i = crTVEC then s.maskC i 0xC00000000003FFFC v
  else if crTOPD0 ≤ i && i ≤ crTOPD3 then s.writeTopd (i - crTOPD0) v
  else if i = crOORFLAG then s.clearOor v
  else if i = crFPFLAGS then s.clearFp v
  else if i = crFPMODE then s.maskC i 7 v
  else if crTOUCH0 ≤ i && i < crTOUCH0 + 3 then s.writeTouch (i - crTOUCH0) v
  else if i = crSTEP then s.maskC i 0xFFFFFFFF v
  else if i = crSIGTHR then s.maskC i 0xFFFFFFFFF v
  else if i = crSIGBASE then s.maskC i 0x1FFFC0 v
  else if i = crSKIPLOG then s.maskC i 0xFF001FFF80 v
  else if crSKIPMAP0 ≤ i && i < crSKIPMAP0 + 16 then s.setCr i v
  else if i = crBSINGTHR then s.maskC i 0xFFFFFFFF v
  else if crNB0 ≤ i && i < crNB0 + 64 then s.writeBarrier (i - crNB0) v
  else if i = crWDOG then s.maskC i 0x80000000FFFFFFFF v
  else s

/-- The registers that only handler mode may write (R173). -/
def handlerOnly (i : Nat) : Bool := i == crTPC || i == crTMASK || (crTOPD0 ≤ i && i ≤ crTOPD3)

/-- SETC (R207). -/
def execSetc (a : BitVec 5) (i : BitVec 12) (s : State) : Out :=
  let x := s.opS 0 a
  let n := i.toNat
  s.confirmed <| s.checked
    { names := [.s a.toNat], ops := [x]
      first := if handlerOnly n && !s.hm then some (tcHANDLER, BitVec.ofNat 64 n) else none }
    fun s => (s.writeC n x.val).onTile fun t => { t with poison := t.poison.filter fun p => p != .reg (.cr n) }

/-- UPOOL_WRITE (R94). -/
def execUpoolWrite (size : Bool) (v : Word) (s : State) : Out := .next (s.writeUpool size v)
/-- NAMED_BARRIER_WRITE (R113). -/
def execNamedBarrierWrite (k : BitVec 6) (v : Word) (s : State) : Out := .next (s.writeBarrier k.toNat v)
/-- TOUCH_WRITE: there are three such registers (R126). -/
def execTouchWrite (k : BitVec 2) (v : Word) (s : State) : Out := .next (if k.toNat < 3 then s.writeTouch k.toNat v else s)
/-- FPFLAGS_CLEAR (R74). -/
def execFpflagsClear (v : Word) (s : State) : Out := .next (s.clearFp v)
/-- OORFLAG_CLEAR (R344). -/
def execOorflagClear (v : Word) (s : State) : Out := .next (s.clearOor v)

/-! ### FENCE and SYNCX (R208, R209) -/

/-- The servers whose TOUCH bit is set. -/
def Tile.touched (t : Tile) : List Nat := (List.range 192).filter fun k => (t.cr (crTOUCH0 + k / 64)).getLsbD (k % 64)

/-- Clears the TOUCH bits of servers. -/
def Tile.untouch (t : Tile) (l : List Nat) : Tile :=
  l.foldl (fun t k => t.setCr (crTOUCH0 + k / 64) ((t.cr (crTOUCH0 + k / 64)) &&& ~~~((1 : Word) <<< (k % 64)))) t

/-- Ends a FENCE: the bits it probed are cleared (R127). -/
def State.endFence (s : State) (l : List Nat) : State :=
  ((s.onTile fun t => t.untouch l).modNi s.tile.ep fun n => { n with fence := none }).queueStep []

/-- FENCE: probes the touched servers and waits for every echo; a server out of service is echoed by the NI itself (R127, R405). -/
def State.fenceOwn (s : State) : Out :=
  let key := s.tile.ep
  let n := s.getNi key
  match n.fence with
  | some f => s.stallIf (n.echoes.any fun x => x.2 == f.1) .fence (.next (s.endFence f.2))
  | none =>
    let l := s.tile.touched
    let live := l.filter fun k => !s.mgmt.outMask.contains k
    if n.ents.any fun e => e.kind.isReq && (e.pairWait || !e.unsent.isEmpty) then .next (s.stallOn .fence)
    else if live.isEmpty then .next (s.endFence l)
    else
      let no := s.fresh
      let s1 := live.foldl (fun st k => st.inject (.fenceProbe k (s.niRank key) no) key (0x400 + k)) s
      .next ((s1.modNi key fun n =>
        { n with fence := some (no, l), echoes := n.echoes ++ live.map fun k => (k, no) }).stallOn .fence)

/-- FENCE (R127, R208, R430). -/
def execFence (s : State) : Out :=
  s.confirmed <| s.asyncStep (fun s => s.fenceOwn) (fun _ s => .next (s.onTile fun t => t.untouch t.touched))

/-- SYNCX (R209). -/
def execSyncx (s : State) : Out := s.confirmed (s.stallIf (s.matrixBusy || s.storeBusy) .busy (.next s))

/-! ### Landing, speculation, watchdog -/

/-- RESULT_LANDING: results whose bound has passed land, and their flags are ORed into FPFLAGS (R74, R182): never before the bound (log 77). -/
def State.landResults (s : State) : State :=
  let due := s.tile.thr.land.filter fun l => decide (l.ready ≤ s.cycle)
  let flags : BitVec 6 := due.foldl (fun f l => f ||| l.flags) 0
  let s1 := if flags = 0 then s else s.setCr crFPFLAGS (s.cr crFPFLAGS ||| flags.zeroExtend 64)
  s1.onThr fun h => { h with land := h.land.filter fun l => l.live s.cycle h.land }
def execResultLanding (s : State) : Out := .next s.landResults

/-- The registers that messages change while a path is speculative: they are the tile's, not the path's (R348). -/
def liveCr (i : Nat) : Bool := (crNB0 ≤ i && i < crNB0 + 64) || keptCr i || (crTOUCH0 ≤ i && i < crTOUCH0 + 3)

/-- A thread restored with the tile's own registers as they stand (R189). -/
def Thread.restore (saved now : Thread) : Thread :=
  let cr := (List.range 256).foldl (fun m i => if liveCr i then Sparse.set 0 m i (Sparse.get 0 now.regs.cr i) else m) saved.regs.cr
  { saved with regs := { saved.regs with cr } }

/-- Squashes a speculative path: the thread, the poison marks that the path has cleared and the tile-store engine's busy time are restored, and
it goes on along the correct side (R189, R197, R347). -/
def State.squash (s : State) (p : Spec) : State :=
  let s1 := s.onTile fun t =>
    { t with spec := none, thr := p.saved.restore t.thr, poison := t.poison ++ p.cleared.filter (fun m => !t.poison.contains m)
             idle := max t.idle (p.ready + 3)
             eng := { t.eng with store := p.engine } }
  if p.truth then s1.onThr fun h => { h with pc := p.target }
  else
    let r := loopAct p.addr p.succ s1.tile.thr.order s1.tile.thr.regs
    s1.onThr fun h => { h with regs := r.1, pc := r.2 }

/-- BRANCH_RESOLVE: a correct prediction commits the buffered stores in order; after a wrong one the correct path issues in the third
step after (R189). -/
def State.resolveBranch (s : State) : State :=
  match s.tile.spec with
  | none => s
  | some p =>
    if s.cycle < p.ready then s
    else if p.guess == p.truth then
      p.covers.foldl (fun st rs => st.cover rs)
        (p.stores.foldl (fun st w => st.storeAs w.2.2 (BitVec.ofNat 64 w.1) w.2.1) (s.onTile fun t => { t with spec := none }))
    else s.squash p
def execBranchResolve (s : State) : Out := .next s.resolveBranch

/-- Kind and number of a counted stall (R387). -/
def Stall.watchInfo : Stall → Option (Nat × Nat)
  | .waitm h => some (1, h)
  | .waitb k => some (2, k)
  | .fence => some (3, 0)
  | .mldbg j => some (4, j)
  | .endWait => some (5, 0)
  | .full t => some (6, t)
  | .busy => none
  | .pred => none
  | .spec => none
  | .gated => none
  | .twin => none

/-- TINFO of WATCHDOG (R387). -/
def watchTinfo (elapsed kind n : Nat) : Word := BitVec.ofNat 64 (elapsed % 2 ^ 24 * 2 ^ 32 + n * 16 + kind)

/-- Whether WDOG has expired on the present stall (R386, R387); a trailing tile's does not advance (R430). -/
def State.expired (s : State) : Option (Nat × Nat) :=
  let w := s.cr crWDOG
  let limit := (w.extractLsb' 0 32).toNat
  let elapsed := (w.extractLsb' 32 24).toNat
  match s.tile.iss.stall.bind Stall.watchInfo with
  | none => none
  | some i => if limit ≠ 0 && decide (limit ≤ elapsed) && !s.hm && !s.trailing s.tile.ep then some i else none

/-- Sets ELAPSED. -/
def State.setElapsed (s : State) (n : Nat) : State := s.setCr crWDOG ((s.cr crWDOG &&& 0xFF000000FFFFFFFF) ||| BitVec.ofNat 64 (n % 2 ^ 24 * 2 ^ 32))

/-- The queued WATCHDOG trap of a leading tile, with the number of bundles issued before it (R430). -/
def watchEntry (info : Word) (issued : Nat) : List Word := [9, info, BitVec.ofNat 64 issued]

/-- The entry of WATCHDOG: at the boundary before the bundle that would issue next; in END's third phase after END's bundle, whose END alone
replays (R198, R331, R333, R387). -/
def State.watchTrap (s : State) (info : Word) : State :=
  if s.tile.thr.endStep = 3 then
    (s.onThr fun h => { h with endStep := 0 }).enterTrap tcWATCHDOG 0 true false info [] 1 1 s.tile.thr.pc (s.tile.bundleAt s.tile.thr.pc).succ
  else s.boundaryTrap tcWATCHDOG info

/-- WATCHDOG: a stall that has reached LIMIT traps (R387); a leading tile queues the trap for its twin (R430). -/
def State.watchdog (s : State) : State :=
  match s.expired with
  | none => s
  | some i =>
    let info := watchTinfo ((s.cr crWDOG).extractLsb' 32 24).toNat i.1 i.2
    ((s.setElapsed 0).queueEntry (watchEntry info s.tile.thr.issued)).watchTrap info
def execWatchdog (s : State) : Out := .next s.watchdog

end Sys2Proof.Machine
end

