-- ==== Sys2Proof/Machine/Dram.lean ====
section
/-!
DEFINITION. The base die of a stack (R152, R153, R392 to R399, R406 to R410): bursts and their failures, spare lanes, poison, and the
remapping of channel regions. A burst is named by its physical address over 64, a physical region is 2 MiB, and channel region
c × 1,024 + r is region r of channel c. Bytes stand in `State.dram` at stack × 2^36 + channel region × 2^21 + offset (log 30).
-/
namespace Sys2Proof.Machine

def State.getSrv (s : State) (k : Nat) : Server := Sparse.get Server.empty s.srv k
def State.modSrv (s : State) (k : Nat) (f : Server → Server) : State := { s with srv := Sparse.set Server.empty s.srv k (f (s.getSrv k)) }

def State.getBase (s : State) (stack : Nat) : Base := Sparse.get Base.zero s.base stack
def State.modBase (s : State) (stack : Nat) (f : Base → Base) : State :=
  { s with base := Sparse.set Base.zero s.base stack (f (s.getBase stack)) }

/-! ### Regions (R152, R408) -/

def regionOf (phys : Nat) : Nat := phys / 2 ^ 21 % 32768
/-- The channel region of a physical region (R152). -/
def Base.mapped (b : Base) (region : Nat) : Nat := ((b.table.find? fun x => x.1 == region).map fun x => x.2).getD region
def Base.channel (b : Base) (phys : Nat) : Nat := b.mapped (regionOf phys) / 1024
/-- Where a physical byte of a stack stands. -/
def Base.cell (b : Base) (stack phys : Nat) : Nat := stack * 2 ^ 36 + b.mapped (regionOf phys) * 2 ^ 21 + phys % 2 ^ 21

/-- A record of a base die (R397, R398). -/
def State.logDie (s : State) (stack cls sev code part actx addr : Nat) (d0 d1 : Word) : State :=
  s.log cls sev code (0x400 + 16 * stack) part actx addr 0 d0 d1

/-- Freezes a region: its shards fail, the stack swaps no more, one record is made, and the host is told (R398, R408). -/
def State.freeze (s : State) (stack region : Nat) : State :=
  if (s.getBase stack).frozen.contains region then s
  else
    let s1 := (s.modBase stack fun b => { b with frozen := b.frozen ++ [region] }).logDie stack 0x06 1 0x0203 0xFFFF 0xFFFF 0
      (BitVec.ofNat 64 region) 0
    { s1 with mgmt := { s1.mgmt with msix1 := s1.mgmt.msix1 + 1 } }

/-- Uses a table entry: an uncorrectable copy is rewritten from the other, and two of them freeze the region (R408). -/
def State.useEntry (s : State) (stack region : Nat) : State :=
  let b := s.getBase stack
  let m := b.badMain.contains region
  let c := b.badCopy.contains region
  let fixed (which : Word) : State :=
    (s.modBase stack fun b =>
      { b with badMain := b.badMain.filter (· != region), badCopy := b.badCopy.filter (· != region) }).logDie stack 0x06 0 0x0204 0xFFFF 0xFFFF 0
      (BitVec.ofNat 64 region) which
  if m && c then s.freeze stack region else if m then fixed 0 else if c then fixed 1 else s

/-! ### Lanes (R392, R394, R399) -/

/-- Spares of a channel that are still unused. -/
def Base.spares (b : Base) (ch : Nat) : List Nat := [72, 73].filter fun x => !(b.replaced.any fun r => r.1 / 128 == ch && r.2 == x)
/-- A lane in service: not replaced, and a spare only when it stands for another. -/
def Base.laneLive (b : Base) (ch lane : Nat) : Bool :=
  !(b.replaced.any fun r => r.1 == ch * 128 + lane) && (decide (lane < 72) || b.replaced.any fun r => r.1 / 128 == ch && r.2 == lane)

/-- A lane whose counter has reached three: replaced by the lower spare, or reported once when none is left (R394). `addr` is the
burst's, for the record. -/
def State.swapLane (s : State) (stack ch lane addr : Nat) : State :=
  let b := s.getBase stack
  let key := ch * 128 + lane
  if Sparse.get 0 b.laneErr key < 3 || !b.laneLive ch lane then s
  else
    match b.spares ch with
    | sp :: rest =>
      (s.modBase stack fun b => { b with replaced := b.replaced ++ [(key, sp)], laneErr := Sparse.set 0 b.laneErr key 0 }).logDie stack 0x05 0 0x0201
        0xFFFF 0xFFFF addr (BitVec.ofNat 64 ch) (BitVec.ofNat 64 (lane + sp * 256 + rest.length * 65536))
    | [] =>
      if b.exhausted.contains key then s
      else (s.modBase stack fun b => { b with exhausted := b.exhausted ++ [key] }).logDie stack 0x05 0 0x0202 0xFFFF 0xFFFF addr
        (BitVec.ofNat 64 ch) (BitVec.ofNat 64 lane)
def execLaneSwap (stack ch lane : Nat) (s : State) : Out := .next (s.swapLane stack ch lane 0)

/-- The end of a channel's window of 1,048,576 bursts: its counters are cleared (R394). -/
def State.windowEnd (s : State) (stack ch : Nat) : State :=
  if Sparse.get 0 (s.getBase stack).bursts ch < 1048576 then s
  else s.modBase stack fun b =>
    { b with bursts := Sparse.set 0 b.bursts ch (Sparse.get 0 b.bursts ch - 1048576), laneErr := b.laneErr.filter fun x => x.1 / 128 != ch }
def execLaneWindowEnd (stack ch : Nat) (s : State) : Out := .next (s.windowEnd stack ch)

/-- Counts bursts on a channel. -/
def State.countBursts (s : State) (stack ch n : Nat) : State :=
  (s.modBase stack fun b => { b with bursts := Sparse.set 0 b.bursts ch (Sparse.get 0 b.bursts ch + n) }).windowEnd stack ch

/-! ### Bursts (R393, R395 to R397) -/

/-- DETAIL1 of a burst's record: the requesting rank, 0 for a swap copy. -/
def byWord (by_ : Option Requester) : Word := match by_ with | some q => q.rank.zeroExtend 64 | none => 0
def byPart (by_ : Option Requester) : Nat := match by_ with | some q => q.part | none => 0xFFFF
def byCtx (by_ : Option Requester) : Nat := match by_ with | some q => q.actx | none => 0xFFFF

/-- The next transfer of a burst: the live lanes that fail on it. -/
def Base.failing (b : Base) (ch burst : Nat) : List Nat :=
  match b.xfer.find? fun x => x.1 == burst with
  | some x => (x.2.headD []).filter (b.laneLive ch)
  | none => []
def Base.popTransfer (b : Base) (burst : Nat) : Base :=
  { b with xfer := b.xfer.filterMap fun x => if x.1 = burst then (match x.2.drop 1 with | [] => none | l => some (x.1, l)) else some x }

/-- Up to four transfers; the answer is how many failed, the lowest lane that failed and its counter then. -/
def State.transferGo (s : State) (stack ch burst : Nat) : Nat → Nat → Nat → Nat → State × Nat × Nat × Nat
  | 0, failed, lane, cnt => (s, failed, lane, cnt)
  | n + 1, failed, lane, cnt =>
    let b := s.getBase stack
    match b.failing ch burst with
    | [] => (s.modBase stack fun b => b.popTransfer burst, failed, lane, cnt)
    | l =>
      let s1 := s.modBase stack fun b =>
        l.foldl (fun (b : Base) x => { b with laneErr := Sparse.set 0 b.laneErr (ch * 128 + x) (Sparse.get 0 b.laneErr (ch * 128 + x) + 1) })
          (b.popTransfer burst)
      let low := l.foldl min (l.headD 0)
      let lane' := if failed = 0 then low else min lane low
      let cnt' := if failed = 0 || low < lane || l.contains lane then Sparse.get 0 (s1.getBase stack).laneErr (ch * 128 + lane') else cnt
      (l.foldl (fun st x => st.swapLane stack ch x (burst * 64)) s1).transferGo stack ch burst n (failed + 1) lane' cnt'

/-- The transfers of one burst, with their record (R393, R397): how many failed. -/
def State.transfers (s : State) (stack burst : Nat) (write : Bool) (by_ : Option Requester) : State × Nat :=
  let ch := (s.getBase stack).channel (burst * 64)
  let r := s.transferGo stack ch burst 4 0 0 0
  let d0 := ch + r.2.2.1 * 64 + r.2.1 * 8192 + (if write then 65536 else 0) + r.2.2.2 % 16 * 1048576
  let s1 := if r.2.1 = 0 then r.1
    else r.1.logDie stack 0x05 (if r.2.1 = 4 then 1 else 0) (if r.2.1 = 4 then 0x000A else 0x0001) (byPart by_) (byCtx by_) (burst * 64)
      (BitVec.ofNat 64 d0) (byWord by_)
  (s1, r.2.1)

/-- Whether a burst's content is lost (R395, R396). -/
def Base.isPoisoned (b : Base) (burst : Nat) : Bool := b.poisoned.contains burst || b.poisonList.contains burst
/-- The bad symbols of a burst, each once: a second error in a symbol stays confined to it (R392). -/
def Base.symbols (b : Base) (burst : Nat) : List Nat := (((b.cells.find? fun x => x.1 == burst).map fun x => x.2).getD []).eraseDups
/-- Bursts of which something is known that a fault-free burst has not. -/
def Base.listed (b : Base) : List Nat := b.poisoned ++ b.poisonList ++ b.cells.map (·.1) ++ b.xfer.map (·.1)

/-- Decodes a burst that passed parity after `failed` transfers: 0 OK, 1 corrected, 0x0A uncorrectable (R393, R395). -/
def State.decodeBurst (s : State) (stack burst failed : Nat) (by_ : Option Requester) : State × Nat :=
  let b := s.getBase stack
  let ch := b.channel (burst * 64)
  let syms := b.symbols burst
  let cell (sev code sym : Nat) (st : State) : State :=
    st.logDie stack 0x04 sev code (byPart by_) (byCtx by_) (burst * 64) (BitVec.ofNat 64 (ch + sym * 64)) (byWord by_)
  if b.isPoisoned burst || 1 < syms.length then (cell 1 0x000A 0x7F s, 0x0A)
  else
    match syms with
    | x :: _ => (cell 0 0x0001 x (s.modBase stack fun b => { b with cells := b.cells.filter fun c => c.1 != burst }), 1)
    | [] => (s, if failed = 0 then 0 else 1)

/-- Reads one burst: 0 OK, 1 corrected, 0x0A uncorrectable; one lost in four transfers is not decoded (R393, R395). -/
def State.readBurst (s : State) (stack burst : Nat) (by_ : Option Requester) : State × Nat :=
  let t := s.transfers stack burst false by_
  if t.2 = 4 then (t.1, 0x0A) else t.1.decodeBurst stack burst t.2 by_

/-- Writes one burst, whole or in part, good or poisoned: 0, 1 or 6 (R393, R396). A burst that cannot be written enters the poison
list; a full list freezes its region. -/
def State.writeBurst (s : State) (stack burst : Nat) (whole bad : Bool) (by_ : Option Requester) : State × Nat :=
  let t := s.transfers stack burst true by_
  if t.2 = 4 then
    let b := t.1.getBase stack
    if b.poisonList.contains burst then (t.1, 6)
    else if 256 ≤ b.poisonList.length then (t.1.freeze stack (regionOf (burst * 64)), 6)
    else (t.1.modBase stack fun b => { b with poisonList := b.poisonList ++ [burst] }, 6)
  else
    let s1 := if whole then
        t.1.modBase stack fun b =>
          { b with cells := b.cells.filter (fun c => c.1 != burst), poisoned := b.poisoned.filter (· != burst)
                   poisonList := b.poisonList.filter (· != burst) }
      else t.1
    if bad then (s1.modBase stack fun b => { b with poisoned := b.poisoned.filter (· != burst) ++ [burst] }, 6)
    else (s1, if t.2 = 0 then 0 else 1)

/-- The worseCode of two burst results: 0x0A, then 6, then 1, then 0. -/
def worseCode (a b : Nat) : Nat := max a b

/-- Puts a number into a rising list. -/
def insertBurst (x : Nat) : List Nat → List Nat
  | [] => [x]
  | y :: l => if x < y then x :: y :: l else if x = y then y :: l else y :: insertBurst x l

/-- Of a list, the bursts from `first` on, `n` of them, rising. -/
def burstsIn (l : List Nat) (first n : Nat) : List Nat :=
  (l.filter fun x => decide (first ≤ x) && decide (x < first + n)).foldl (fun l x => insertBurst x l) []

/-- A run of bursts of one region, in order: `f` moves those of `l`, a rising list within the run, under the worst result so far; every burst
is counted after its own transfers, so that a window's last burst still counts in it (R394). -/
def State.runBursts (s : State) (stack first n : Nat) (l : List Nat) (f : State → Nat → Nat → State × Nat) : State × Nat :=
  let ch := (s.getBase stack).channel (first * 64)
  let r := l.foldl (fun (r : State × Nat × Nat) x =>
    let q := f (r.1.countBursts stack ch (x - r.2.1)) r.2.2 x
    (q.1.countBursts stack ch 1, x + 1, worseCode r.2.2 q.2)) (s, first, 0)
  (r.1.countBursts stack ch (first + n - r.2.1), r.2.2)

/-- Reads a run of bursts of one region: those of which nothing is listed are good. -/
def State.readBursts (s : State) (stack first n : Nat) (by_ : Option Requester) : State × Nat :=
  s.runBursts stack first n (burstsIn (s.getBase stack).listed first n) fun st _ x => st.readBurst stack x by_

/-- Writes a run of bursts of one region, whole or in part, those of `bad` poisoned (R396). -/
def State.writeBursts (s : State) (stack first n : Nat) (whole : Bool) (bad : List Nat) (by_ : Option Requester) : State × Nat :=
  s.runBursts stack first n (burstsIn (bad ++ (s.getBase stack).listed) first n) fun st _ x => st.writeBurst stack x whole (bad.contains x) by_

/-- Bytes of a stack. -/
def State.dramBytes (s : State) (stack phys n : Nat) : List Byte :=
  let b := s.getBase stack
  (List.range n).map fun i => Sparse.get 0 s.dram (b.cell stack (phys + i))
/-- Puts bytes into a stack; the range lies in one page, so in one region. -/
def State.putDram (s : State) (stack phys : Nat) (l : List Byte) : State :=
  { s with dram := putBytes s.dram ((s.getBase stack).cell stack phys) l }

/-- BURST_READ: one burst is checked, repeated, decoded, corrected or lost (R393). -/
def execBurstRead (stack addr : Nat) (by_ : Requester) (s : State) : Out :=
  .next (s.readBursts stack (addr / 64) 1 (some by_)).1

/-- BURST_WRITE: a whole burst; a part of one is read first, and an uncorrectable one is not written (R393, R395). -/
def State.burstWrite (s : State) (stack addr : Nat) (data : List Byte) (by_ : Requester) : State :=
  let whole := addr % 64 == 0 && decide (64 ≤ data.length)
  let l := data.take (64 - addr % 64)
  let r := if whole then (s, 0) else s.readBursts stack (addr / 64) 1 (some by_)
  if r.2 = 0x0A then r.1
  else ((r.1.writeBursts stack (addr / 64) 1 whole [] (some by_)).1).putDram stack addr l
def execBurstWrite (stack addr : Nat) (data : List Byte) (by_ : Requester) (s : State) : Out := .next (s.burstWrite stack addr data by_)

/-! ### Remapping (R152, R153, R407 to R410) -/

/-- The physical region that stands in a channel region. -/
def Base.occupant (b : Base) (cr : Nat) : Nat := ((b.table.find? fun x => x.2 == cr).map fun x => x.1).getD cr

/-- The first of a list with the greatest, or the least, value. -/
def pick (better : Nat → Nat → Bool) (f : Nat → Nat) (l : List Nat) : Nat :=
  (l.foldl (fun (b : Option Nat) x => match b with
    | none => some x
    | some y => if better (f x) (f y) then some x else b) none).getD 0

/-- Whether the swap journal has a place beside those of the records that the host has not consumed (R409). -/
def Mgmt.journalRoom (m : Mgmt) : Bool := decide ((m.jTail + 2 ^ 32 - m.jHead) % 2 ^ 32 < 8192)
/-- Whether the journal has a place for one more swap beside those in progress, so that no record displaces another (R409; log 80). -/
def State.journalRoom (s : State) : Bool :=
  decide ((s.mgmt.jTail + 2 ^ 32 - s.mgmt.jHead) % 2 ^ 32 + (s.base.filter fun b => b.2.busy.isSome).length < 8192)

/-- The pair that a stack would exchange: hottest region of the hottest channel, coldest region of the coldest one (R152). A tie goes to the
lower channel, and within a channel to the lower channel region (log 80). -/
def Base.swapPair (b : Base) : Nat × Nat :=
  let chans := List.range 32
  let hot := pick (fun x y => decide (y < x)) (Sparse.get 0 b.chCur) chans
  let cold := pick (fun x y => decide (x < y)) (Sparse.get 0 b.chCur) chans
  let regions (c : Nat) : List Nat := (List.range 1024).map fun r => b.occupant (c * 1024 + r)
  (pick (fun x y => decide (y < x)) (Sparse.get 0 b.regCur) (regions hot), pick (fun x y => decide (x < y)) (Sparse.get 0 b.regCur) (regions cold))

/-- REMAP_EPOCH_END: counts move to LAST, and after three hot epochs a swap starts, if it may (R152, R153, R408, R409). HOTRUN stays three
while the swap runs (R154; log 80). -/
def State.epochEnd (s : State) (stack : Nat) : State :=
  let b := s.getBase stack
  if b.total < 65536 then s
  else
    let top := (List.range 32).foldl (fun m c => max m (Sparse.get 0 b.chCur c)) 0
    let run := if 3 * b.total < 64 * top then min 3 (b.hotRun + 1) else 0
    let rolled (b : Base) : Base := { b with chLast := b.chCur, chCur := [], regCur := [], total := 0, hotRun := run }
    let wanted := decide (run = 3) && b.en && b.busy.isNone && b.frozen.isEmpty
    if wanted && s.journalRoom then
      let s1 := s.modBase stack fun b => { (rolled b) with busy := some b.swapPair }
      { s1 with sched := s.sched ++ [(s.cycle + s.cyclesOf 45000, Ev.swapDone stack)] }
    else if wanted && !s.mgmt.journalRoom && !s.mgmt.jFull then
      let s1 := (s.modBase stack rolled).logDie stack 0x06 0 0x0206 0xFFFF 0xFFFF 0 (BitVec.ofNat 64 stack) 0
      { s1 with mgmt := { s1.mgmt with jFull := true } }
    else s.modBase stack rolled
def execRemapEpochEnd (stack : Nat) (s : State) : Out := .next (s.epochEnd stack)

/-- Counts a request to a region (R152): one for each region that a shard reaches (log 22). The 65,536th ends the epoch; nothing is counted
while a swap runs. -/
def State.countRequest (s : State) (stack region : Nat) : State :=
  if (s.getBase stack).busy.isSome then s
  else
    let s1 := s.modBase stack fun b =>
      let ch := b.mapped region / 1024
      { b with chCur := Sparse.set 0 b.chCur ch (Sparse.get 0 b.chCur ch + 1), regCur := Sparse.set 0 b.regCur region (Sparse.get 0 b.regCur region + 1)
               total := b.total + 1 }
    if (s1.getBase stack).total = 65536 then s1.epochEnd stack else s1

/-! ### The remap block (R154) -/

def Base.remapctl (b : Base) : Word := if b.en then 1 else 0
def Base.remapstat (b : Base) : Word := BitVec.ofNat 64 (b.hotRun * 2 ^ 48 + b.swaps * 2 ^ 16 + if b.busy.isSome then 1 else 0)
def Base.chcnt (b : Base) (c : Nat) : Word := BitVec.ofNat 64 (Sparse.get 0 b.chLast c % 2 ^ 32 * 2 ^ 32 + Sparse.get 0 b.chCur c % 2 ^ 32)

/-- LANESTAT of a channel: the lane replaced last, the swaps made, the spares left (R399). -/
def Base.lanestat (b : Base) (c : Nat) : Word :=
  let made := b.replaced.filter fun x => x.1 / 128 == c
  BitVec.ofNat 64 ((made.getLast?.elim 0xFF fun x => x.1 % 128) * 2 ^ 24 + min 255 made.length * 2 ^ 8 + (b.spares c).length)

/-- What a read of BAR 2 at 0x0010_0000 + 0x1000 k + `a`, or the management controller, finds in the remap block of stack `k`. -/
def State.remapRead (s : State) (k a : Nat) : Option Word :=
  let b := s.getBase k
  if 12 ≤ k then none
  else if a = 0 then some b.remapctl
  else if a = 8 then some b.remapstat
  else if 0x100 ≤ a && a < 0x200 && a % 8 = 0 then some (b.chcnt ((a - 0x100) / 8))
  else if 0x400 ≤ a && a < 0x500 && a % 8 = 0 then some (b.lanestat ((a - 0x400) / 8))
  else none

/-- Where a place of one of two channel regions of a stack goes when they are exchanged; a region holds `size` places. -/
def exchangePlace (size stack ca cb k : Nat) : Nat :=
  let a := stack * 32768 * size + ca * size
  let b := stack * 32768 * size + cb * size
  if a ≤ k && k < a + size then k - a + b else if b ≤ k && k < b + size then k - b + a else k

/-- Exchanges the bytes of two channel regions of a stack. -/
def exchangeCells (m : Memory) (stack ca cb : Nat) : Memory :=
  m.foldl (fun (n : Memory) c => Sparse.set 0 n (exchangePlace (2 ^ 21) stack ca cb c.1) c.2) []

/-! ### What waits behind a shard (R125, R384, R402, R406) -/

/-- Whether an issuer made one shard before another: XIDs rise with the issue, and a request's shards are numbered (R125, R135). -/
def issuedFirst (x y : Nat × Nat) : Bool :=
  if x.1 = y.1 then decide (x.2 < y.2) else decide ((y.1 + 2 ^ 32 - x.1) % 2 ^ 32 < 2 ^ 31)

/-- The shards that hold back the later ones of their issuers at a server: pending, asked for again or lost, or held by a swap. -/
def State.blockers (s : State) (k : Nat) : List (Rank × Nat × Nat) :=
  let v := s.getSrv k
  let name (q : Shard) : Rank × Nat × Nat := (q.issuer, q.xid, q.no)
  (v.pending.map fun x => name x.1.shard) ++ v.resend ++ (((s.getBase (k / 16)).held.filter fun h => h.shard.srv == k).map fun h => name h.shard)

/-- Whether a shard waits behind one that its issuer made before it. -/
def State.isBehind (s : State) (q : Shard) : Bool := (s.blockers q.srv).any fun b => b.1 == q.issuer && issuedFirst b.2 (q.xid, q.no)

/-- Shards go back into a server's queue, each in its place by arrival (R124, R402, R406); one that has been translated joins the round of
its context. -/
def Server.requeue (v : Server) (l : List Waiting) : Server :=
  l.foldl (fun (v : Server) w => if w.ready then v.join w.shard.actx else v) { v with queue := sortBy (fun w : Waiting => w.order) (l ++ v.queue) }

/-- Lets go the shards of an issuer that were held, once none before them holds them (R384, R402). -/
def State.releaseHeld (s : State) (k : Nat) (issuer : Rank) : State :=
  let free := (s.getSrv k).held.filter fun x => x.shard.issuer == issuer && !s.isBehind x.shard
  if free.isEmpty then s else s.modSrv k fun v => { v with held := v.held.filter fun x => !free.contains x }.requeue free

/-- Releases what a swap held, and what waited behind it, in arrival order (R124, R153, R406). The requests are counted from here on, and the hot
epochs too (R152; log 80). -/
def State.releaseSwap (s : State) (stack : Nat) : State :=
  let mine := (s.getBase stack).held
  let s1 := s.modBase stack fun b => { b with held := [], busy := none, chCur := [], regCur := [], total := 0, hotRun := 0 }
  mine.foldl (fun st h => st.releaseHeld h.shard.srv h.shard.issuer)
    (mine.foldl (fun st h => st.modSrv h.shard.srv fun v => v.requeue [h]) s1)

/-- The read phase of a swap over one burst: 0 goes on, 0x0A the burst is lost in transfer; a cell error is staged poisoned (R393, R407). -/
def State.stageBurst (s : State) (stack burst : Nat) : State × Nat :=
  let t := s.transfers stack burst false none
  if t.2 = 4 then (t.1, 0x0A)
  else
    let d := t.1.decodeBurst stack burst t.2 none
    if d.2 = 0x0A then
      (d.1.modBase stack fun b => { b with poisoned := b.poisoned.filter (· != burst) ++ [burst], cells := b.cells.filter fun c => c.1 != burst }, 0)
    else (d.1, 0)

/-- The write phase of a swap over one burst: one lost in four transfers goes into the poison list; 0x0A says that the list is full (R407). -/
def State.unstageBurst (s : State) (stack burst : Nat) : State × Nat :=
  let t := s.transfers stack burst true none
  let b := t.1.getBase stack
  if t.2 ≠ 4 then (t.1, 0)
  else if 256 ≤ b.poisonList.length && !b.poisonList.contains burst then (t.1, 0x0A)
  else (t.1.modBase stack fun b => { b with poisonList := b.poisonList.filter (· != burst) ++ [burst] }, 0)

/-- A phase of a swap over its two physical regions, which ends at the first burst that it cannot get over. -/
def State.swapPhase (s : State) (stack pa pb : Nat) (f : State → Nat → State × Nat) : State × Bool :=
  let n := 32768
  let run (st : State) (p : Nat) : State × Nat :=
    st.runBursts stack (p * n) n (burstsIn (st.getBase stack).listed (p * n) n) fun st bad x => if bad = 0x0A then (st, bad) else f st x
  let r := run s pa
  if r.2 = 0x0A then (r.1, true) else let q := run r.1 pb; (q.1, q.2 == 0x0A)

/-- A swap that stops: SWAP_ABORTED, the held shards go on (R398, R407). -/
def State.swapAborted (s : State) (stack pa pb cause : Nat) : State :=
  (s.modBase stack fun b => { b with hotRun := 0 }).logDie stack 0x06 0 0x0205 0xFFFF 0xFFFF 0 (BitVec.ofNat 64 (pa + pb * 2 ^ 32)) (BitVec.ofNat 64 cause)

/-- The journal record of a swap (R409). -/
def journalRecord (seq stack pa pb ca cb : Nat) : List Byte :=
  toLE 4 seq ++ toLE 1 stack ++ toLE 1 0 ++ toLE 2 pa ++ toLE 2 pb ++ toLE 2 ca ++ toLE 2 cb ++ toLE 2 0

/-- The table entries of the two regions exchanged, in both copies (R153, R407, R408). -/
def Base.exchanged (b : Base) (pa pb : Nat) : Base :=
  let ca := b.mapped pa
  let cb := b.mapped pb
  let other (l : List Nat) : List Nat := l.filter fun r => r != pa && r != pb
  { b with
    table := (b.table.filter fun x => x.1 != pa && x.1 != pb) ++ (if cb = pa then [] else [(pa, cb)]) ++ (if ca = pb then [] else [(pb, ca)])
    badMain := other b.badMain, badCopy := other b.badCopy }

/-- SWAP_DONE: both entries are used, both regions read and written into each other's place, the table updated, the shards released and the
swap journalled (R153, R407 to R409). -/
def State.swapEnd (s : State) (stack : Nat) : State :=
  match (s.getBase stack).busy with
  | none => s
  | some (pa, pb) =>
    let s0 := (s.useEntry stack pa).useEntry stack pb
    let rd := s0.swapPhase stack pa pb fun st x => st.stageBurst stack x
    let lost := (s0.getBase stack).frozen.contains pa || (s0.getBase stack).frozen.contains pb
    if lost then (s0.swapAborted stack pa pb 1).releaseSwap stack
    else if rd.2 then (rd.1.swapAborted stack pa pb 1).releaseSwap stack
    else
      let b := rd.1.getBase stack
      let ca := b.mapped pa
      let cb := b.mapped pb
      let place (m k : Nat) : Nat := exchangePlace m stack ca cb k
      let moved : State := { rd.1 with dram := exchangeCells rd.1.dram stack ca cb, seals := rd.1.seals.map fun x => (place 32768 x.1, x.2) }
      let wr := (moved.modBase stack fun b => b.exchanged pa pb).swapPhase stack pa pb fun st x => st.unstageBurst stack x
      if wr.2 then
        let undone : State :=
          { wr.1.modBase stack (fun x => { x with table := b.table, badMain := b.badMain, badCopy := b.badCopy }) with
            dram := rd.1.dram, seals := rd.1.seals }
        (((undone.swapAborted stack pa pb 2).freeze stack pa).freeze stack pb).releaseSwap stack
      else
        let s3 := wr.1.modBase stack fun b => { b with swaps := (b.swaps + 1) % 2 ^ 32 }
        let m := s3.mgmt
        let s4 : State := { s3 with mgmt := { m with
          journal := Sparse.set [] m.journal (m.jTail % 8192) (journalRecord m.jTail stack pa pb cb ca), jTail := (m.jTail + 1) % 2 ^ 32 } }
        s4.releaseSwap stack
def execSwapDone (stack : Nat) (s : State) : Out := .next (s.swapEnd stack)

/-- TABLE_REBUILD: both copies of an entry are written, and the freeze ends (R410). -/
def execTableRebuild (stack region chan : Nat) (s : State) : Out :=
  .next (s.modBase stack fun b =>
    { b with
      table := (b.table.filter fun x => x.1 != region % 32768) ++ (if chan % 32768 = region % 32768 then [] else [(region % 32768, chan % 32768)])
      frozen := b.frozen.filter (· != region % 32768), badMain := b.badMain.filter (· != region % 32768)
      badCopy := b.badCopy.filter (· != region % 32768) })

end Sys2Proof.Machine
end

