-- ==== Sys2Proof/Machine/Services.lean ====
section
/-!
DEFINITION. What the placer, the stage dispatcher and the management controller send and answer (R39, R42, R328), and what they ask
of a gang's tiles.
-/
namespace Sys2Proof.Machine

/-- Sends bytes from a service or a halo row node as a message; its entry frees itself (R42, R328). -/
def State.serviceSend (s : State) (key : Nat) (rank : Rank) (tag : W32) (group : BitVec 16) (l : List Byte) (cookie : Word) : State :=
  let n := s.getNi key
  let e : Ent :=
    { Ent.fresh n.nextId .send with
      rank, tag, group, len := l.length, buf := .bytes l, detached := true, xid := n.nextXid, cookie
      rcd := { Rec.zero with source := rank, tag, group } }
  let s1 := s.modNi key fun n => { n with ents := n.ents ++ [e], nextId := n.nextId + 1, nextXid := n.nextXid + 1 }
  match s.sendFate rank with
  | some f => s1.modNi key fun n => { n with instant := n.instant ++ [(e.id, f.1.toNat, s.cycle + 1)] }
  | none => s1.pump key

/-- Acknowledges an EAGER message whole, and grants nothing to an RTS (R39, R96). -/
def State.acknowledge (s : State) (key : Nat) (h : Header) (n : Nat) : State :=
  if h.kind = 0x02 then s.emit key (answer h 0x03 0) else s.emit key (ackPacket h ackMessage n)

/-- An acknowledgement that refuses a message: the send completes DENIED (R55, R163). -/
def State.denyMessage (s : State) (key : Nat) (h : Header) : State := s.emit key (ackPacket h ackDenied 0)

/-- A launch by its number. -/
def State.launchNo (s : State) (n : Nat) : Option Launch := s.launches.find? fun l => l.n == n
def State.modLaunch (s : State) (n : Nat) (f : Launch → Launch) : State :=
  { s with launches := s.launches.map fun l => if l.n = n then f l else l }

/-- Whether a launch's gang stands on tiles (R46, R51). -/
def LState.onTiles : LState → Bool
  | .loading | .placed | .stopping | .suspended | .resuming | .quitting _ _ | .faulting => true
  | .queued | .header | .waiting | .eligible | .ended _ => false

/-- Not accepted yet (R43, R44). -/
def LState.unchecked : LState → Bool
  | .queued | .header => true
  | .waiting | .eligible | .loading | .placed | .stopping | .suspended | .resuming | .quitting _ _ | .faulting | .ended _ => false

def LState.isEnded : LState → Bool
  | .ended _ => true
  | .queued | .header | .waiting | .eligible | .loading | .placed | .stopping | .suspended | .resuming | .quitting _ _ | .faulting => false

/-- Whether the members of a gang are stopping for its end (R53). -/
def Launch.quits (l : Launch) : Bool :=
  match l.st with
  | .quitting _ _ => true
  | .queued | .header | .waiting | .eligible | .loading | .placed | .stopping | .suspended | .resuming | .faulting | .ended _ => false

/-- FLAGS of a launch record (R35). -/
def LaunchRec.restartable (r : LaunchRec) : Bool := r.flags.getLsbD 0
def LaunchRec.scatter (r : LaunchRec) : Bool := r.flags.getLsbD 1
def LaunchRec.isTwin (r : LaunchRec) : Bool := r.flags.getLsbD 2
def LaunchRec.resident (r : LaunchRec) : Bool := r.flags.getLsbD 3

/-- The tiles of a gang, trailing ones included (R37). -/
def Launch.allTiles (l : Launch) : List Nat := if l.lrec.isTwin then l.tiles.flatMap fun e => [e, e + 1] else l.tiles

/-- Whether a launch binds a stage (R55): while its gang has tiles, from its loading to its end (log 76). -/
def Launch.binds (l : Launch) (stage : Nat) : Bool :=
  let b := ((l.lrec.stage.extractLsb' 0 8).toNat, (l.lrec.stage.extractLsb' 8 8).toNat)
  l.st.onTiles && decide (b.1 ≤ stage) && decide (stage < b.1 + b.2)

end Sys2Proof.Machine
end

