-- ==== Sys2Proof/Machine/Stage.lean ====
section
/-!
DEFINITION. The stage dispatcher (R55 to R59, R204, R434). A delivery takes place in one step: the tile that waits in WAITW has its
item at once (log 25).
-/
namespace Sys2Proof.Machine

/-- A producer of this package whose partition is the stage's, or the management controller (R55). -/
def State.mayEnqueue (s : State) (src : Rank) (stage : Nat) : Bool :=
  if !s.ownPkg src then false
  else if rankEp src = Config.mgmtEp then true
  else
    match Sparse.get none s.stgPart stage with
    | none => false
    | some p => s.keyPart (rankEp src) == some p

/-- An item of a stage is forgotten at delivery unless a restartable gang binds the stage (R59): one such gang is enough (log 76). -/
def State.stageRestartable (s : State) (stage : Nat) : Bool := s.launches.any fun l => l.binds stage && l.lrec.restartable

/-- WORK_ITEM: refused DENIED, refused BUSY, or queued behind the stage's items (R55, R56). Only queued items take places (log 76). -/
def State.workItem (s : State) (p : Packet) : State :=
  let h := p.hdr
  let stage := h.tag.toNat
  let key := Config.dispatcherEp
  if h.len ≠ 16 || h.kind = 0x02 || 256 ≤ stage || !s.mayEnqueue h.src stage || !(s.launches.any fun l => l.binds stage) then
    s.denyMessage key h
  else if 16384 ≤ (s.disp.queues.filter fun i => i.stage == stage).length || 65536 ≤ s.disp.queues.length then s.refuse key h 0x07 0
  else
    let i : Item := { stage, data := p.payload.take 16, order := s.disp.orders, count := 0, first := 0 }
    ({ s with disp := { s.disp with queues := s.disp.queues ++ [i], orders := s.disp.orders + 1 } }).acknowledge key h 16
def execWorkItem (p : Packet) (s : State) : Out := .next (s.workItem p)

/-- The ticket of a dispatch (R58). -/
def ticketOf (seq stage : Nat) : Word := BitVec.ofNat 64 (seq % 2 ^ 32 + stage % 256 * 2 ^ 32)

/-- DONEW_ACK: forgets the item whose ticket is logged as delivered to the sending tile (R59, R204). -/
def State.donewAck (s : State) (p : Packet) : State :=
  let t := BitVec.ofNat 64 (ofBytes (p.payload.take 8))
  let hit (x : Logged) : Bool := s.ownPkg p.hdr.src && x.tile == rankEp p.hdr.src && ticketOf x.seq x.item.stage == t
  ({ s with disp := { s.disp with logged := s.disp.logged.filter fun x => !(hit x && s.stageRestartable x.item.stage) } }).acknowledge
    Config.dispatcherEp p.hdr 8
def execDonewAck (p : Packet) (s : State) : Out := .next (s.donewAck p)

/-- Whether a packet to the dispatcher is an acknowledgement and no item: an EAGER one of 8 bytes with the tag and group of DONEW (R204). -/
def isDonew (h : Header) : Bool := h.kind == 0x01 && h.len == 8 && h.tag == 0xFFFFFFFF && h.group == 0xFFFF

/-! ### Delivery (R57, R58) -/

/-- Place of a tile in the order that a stage serves: launch number, then member order (R57). -/
def serveKey (n member : Nat) : Nat := n * 2 ^ 16 + member

/-- The tiles that wait in WAITW, each with its launch and its place. -/
def State.waiters (s : State) : List (Nat × Launch × Nat) :=
  s.launches.flatMap fun l =>
    if l.st == .placed then
      (l.tiles.zipIdx.filter fun t => let u := s.getTile t.1; u.waitw && u.run == .running && u.item.isEmpty).map fun t => (t.1, l, serveKey l.n t.2)
    else []

/-- The oldest item at the head of a stage that a launch binds (R57). -/
def State.headFor (s : State) (l : Launch) : Option Item :=
  let heads := s.disp.queues.foldl (fun (hs : List Item) i => if hs.any fun j => j.stage == i.stage then hs else hs ++ [i]) []
  (heads.filter fun i => l.binds i.stage).foldl (fun (b : Option Item) i =>
    match b with
    | none => some i
    | some j => if i.order < j.order then some i else b) none

/-- The tile that is served next: the oldest item that any waiting tile can take goes to the tile that follows, in its stage's order,
the one served last (R57). -/
def State.nextServed (s : State) : Option Nat :=
  let ws := s.waiters
  let best := ws.foldl (fun (b : Option Item) w =>
    match b, s.headFor w.2.1 with
    | none, i => i
    | some j, some i => if i.order < j.order then some i else b
    | some j, none => some j) none
  match best with
  | none => none
  | some i =>
    let mine := ws.filter fun w => w.2.1.binds i.stage
    let last := Sparse.get 0 s.disp.served i.stage
    let least (l : List (Nat × Launch × Nat)) : Option (Nat × Launch × Nat) :=
      l.foldl (fun b w => match b with | none => some w | some v => if w.2.2 < v.2.2 then some w else b) none
    match least (mine.filter fun w => last < w.2.2) with
    | some w => some w.1
    | none => (least mine).map (·.1)

/-- ITEM_DELIVERY: the tile takes the oldest item it may, with the dispatch's ticket; s25, s26, s28 and s29 come with WAITW (R58). -/
def State.deliverItem (s : State) (ep : Nat) : State :=
  match s.waiters.find? fun w => w.1 == ep with
  | none => s
  | some w =>
    match s.headFor w.2.1 with
    | none => s
    | some i =>
      let seq := s.disp.seq
      let i' : Item := { i with count := i.count + 1, first := if i.count = 0 then s.disp.orders else i.first }
      let word (o : Nat) : Word := BitVec.ofNat 64 (ofBytes ((i.data.drop o).take 8))
      let s1 := s.modTile ep fun t => { t with item := [BitVec.ofNat 64 i.stage, ticketOf seq i.stage, word 0, word 8] }
      { s1 with disp := { s.disp with
          queues := s.disp.queues.filter fun x => x != i
          logged := if s.stageRestartable i.stage then s.disp.logged ++ [⟨i', ep, w.2.1.n, seq⟩] else s.disp.logged
          seq := (seq + 1) % 2 ^ 32
          orders := s.disp.orders + 1
          served := Sparse.set 0 s.disp.served i.stage w.2.2 } }
def execItemDelivery (ep : Nat) (s : State) : Out := .next (s.deliverItem ep)

end Sys2Proof.Machine
end

