-- ==== Sys2Proof/Machine/Placer.lean ====
section
/-!
DEFINITION. The placer (R34 to R54, R324, R350 to R352, R425, R426): launch records, images, placement, pre-emption and the ends of
gangs. Its work is done between cycles, in the order in which it reaches the placer (R44); how long it takes is the model's choice.
-/
namespace Sys2Proof.Machine

/-! ### Launch records (R35 to R39) -/

/-- A field of `n` bytes. -/
def field (l : List Byte) (o n : Nat) : Nat := ofBytes ((l.drop o).take n)

def LaunchRec.ofBytes (l : List Byte) : LaunchRec :=
  { image := field l 0 6, imglen := field l 8 4, actx := field l 0xC 2, part := field l 0xE 1 % 64, prio := field l 0xF 1 % 8
    levels := (List.range 4).map fun i => BitVec.ofNat 32 (field l (0x10 + 4 * i) 4)
    lease := field l 0x20 4, flags := BitVec.ofNat 16 (field l 0x24 2), stage := BitVec.ofNat 16 (field l 0x26 2)
    preds := ((List.range 4).map fun i => field l (0x28 + 4 * i) 4).filter (· != 0), argva := BitVec.ofNat 64 (field l 0x38 6) }

/-- KIND and EXTENT of a level (R36). -/
def levelKind (w : W32) : Nat := w.toNat / 2 ^ 28
def levelExtent (w : W32) : Nat := w.toNat % 2 ^ 28

/-- The extent a KIND admits (R36). -/
def extentOk (w : W32) : Bool :=
  let e := levelExtent w
  match levelKind w with
  | 0 => e == 0
  | 1 => 1 ≤ e
  | 2 => 1 ≤ e && e ≤ 32
  | 3 => 1 ≤ e && e ≤ 32
  | 4 => 1 ≤ e && e ≤ 4
  | _ => true

/-- The product of the extents of the levels of one KIND. -/
def extentOf (k : Nat) (ls : List W32) : Nat := ls.foldl (fun p w => if levelKind w = k then p * levelExtent w else p) 1

/-- A gang's shape: columns, rows, dies, and tiles per member along the row (R37). -/
structure Shape where
  x    : Nat
  y    : Nat
  d    : Nat
  step : Nat
  deriving DecidableEq, Repr

def LaunchRec.shape (r : LaunchRec) : Shape :=
  ⟨extentOf 2 r.levels, extentOf 3 r.levels, extentOf 4 r.levels, if r.isTwin then 2 else 1⟩

def Shape.valid (h : Shape) : Bool :=
  decide (h.x ≤ 32) && decide (h.y ≤ 32) && (h.d == 1 || (decide (h.x ≤ 16) && decide (h.y ≤ 16))) &&
  (h.step == 1 || (if h.d = 1 then decide (h.x ≤ 16) else decide (h.x ≤ 8)))

def Shape.members (h : Shape) : Nat := h.x * h.y * h.d

/-- The tiles of a partition. -/
def State.tilesOf (s : State) (part : Nat) : List Nat := (s.owner.filter fun o => o.2 == some part).map (·.1)

/-- A rank that may launch into a partition (R39). -/
def State.mayLaunch (s : State) (src : Rank) (part : Nat) : Bool :=
  s.ownPkg src && (rankEp src == Config.mgmtEp || s.keyPart (rankEp src) == some part)

/-- A predecessor is a launch of the same partition; one whose record has been discarded counts (R43); after the numbers have begun anew,
every number has been given. -/
def State.predOk (s : State) (part k : Nat) : Bool :=
  match s.launchNo k with
  | some l => l.lrec.part == part
  | none => decide (k < s.nextLaunch)

/-- The zero fields of a record (R35). -/
def zerosOk (l : List Byte) : Bool :=
  field l 6 2 == 0 && field l 0xE 1 / 64 == 0 && field l 0xF 1 / 8 == 0 && field l 0x24 2 / 16 == 0 && field l 0x3E 2 == 0

/-- Launches of a partition that are accepted and not ended (R34). -/
def State.pendingOf (s : State) (part : Nat) : Nat :=
  (s.launches.filter fun l => l.lrec.part == part && !l.st.unchecked && !l.st.isEnded).length

/-- The rejection reason of a record, if any (R39, R42). -/
def State.rejection (s : State) (src : Rank) (len : Nat) (l : List Byte) : Option Nat :=
  let r := LaunchRec.ofBytes l
  let kinds := r.levels.map levelKind
  let first := (r.stage.extractLsb' 0 8).toNat
  let count := (r.stage.extractLsb' 8 8).toNat
  if len ≠ 64 then some 1
  else if !zerosOk l || r.image % 64 ≠ 0 || kinds.any (4 < ·) || 1 < (kinds.filter (· == 4)).length then some 2
  else if !(r.levels.all extentOk) || !r.shape.valid then some 3
  else if (s.tilesOf r.part).length < r.shape.members * r.shape.step then some 4
  else if r.lease = 0 && !r.resident then some 5
  else if !(r.preds.all (s.predOk r.part)) then some 6
  else if 16 < count || 256 < first + count || !((List.range count).all fun i => Sparse.get none s.stgPart (first + i) == some r.part) then some 7
  else if !s.mayLaunch src r.part then some 8
  else if s.param (some r.part) 3 ≤ s.pendingOf r.part then some 9
  else none

/-! ### Events (R42) -/

/-- The 32 bytes of an event message. -/
def eventBytes (n ev reason tile time : Nat) : List Byte :=
  toLE 4 n ++ toLE 1 ev ++ toLE 1 reason ++ toLE 2 0 ++ toLE 4 tile ++ toLE 4 0 ++ toLE 8 time ++ toLE 8 0

def State.report (s : State) (l : Launch) (n ev reason tile : Nat) : State :=
  s.serviceSend Config.placerEp l.launcher l.tag l.group (eventBytes n ev reason tile s.time) 0

/-- The placer looks at a partition again in the next cycle. -/
def State.kick (s : State) (part : Nat) : State := { s with sched := s.sched ++ [(s.cycle + 1, .placement part)] }

/-! ### Launching (R39, R40, R43, R44) -/

/-- Reads an image header under the record's context (R40). -/
def State.readHeader (s : State) (ticket : Nat) (r : LaunchRec) : State :=
  let key := Config.placerEp
  let n := s.getNi key
  let e : Ent :=
    { Ent.fresh n.nextId .get with len := 64, buf := .header ticket, xid := n.nextXid, cookie := BitVec.ofNat 64 (ticket + 1) }
  let s1 := s.modNi key fun n => { n with ents := n.ents ++ [e], nextId := n.nextId + 1, nextXid := n.nextXid + 1 }
  s1.issueShards key e.id (shardsOf (s.rankOf key) e.xid.toNat r.actx 0 0 (rangePieces 0 r.image 64) [] 0 none [])

/-- The oldest record that waits is checked: it is rejected, and the next one's turn comes, or its image header is read (R39, R40, R44).
The fuel is the number of launches. -/
def State.checkRecords (s : State) : Nat → State
  | 0 => s
  | fuel + 1 =>
    if s.launches.any fun l => l.st == .header then s
    else
      match s.launches.find? fun l => l.st == .queued with
      | none => s
      | some l =>
        match s.rejection l.launcher l.header.length l.header with
        | some reason => (({ s with launches := s.launches.filter fun x => x.n != l.n }).report l 0 4 reason 0).checkRecords fuel
        | none => (s.modLaunch l.n fun x => { x with st := .header, header := [] }).readHeader l.n l.lrec

/-- LAUNCH: a record waits its turn, then it is rejected or its image header is read (R39, R40, R44). A record that came as an RTS has no
bytes (R39). -/
def State.launchMessage (s : State) (p : Packet) : State :=
  let h := p.hdr
  let s1 := s.acknowledge Config.placerEp h h.len
  let raw := if h.kind = 0x02 then [] else p.payload
  let l : Launch :=
    { n := 2 ^ 32 + s.accepts, launcher := h.src, tag := h.tag, group := h.group, lrec := LaunchRec.ofBytes raw, st := .queued, since := 0, boost := 0
      header := raw, tiles := [], fetched := [], placedAt := 0, suspAt := 0, suspended := 0, parkedBy := none, recordAt := none
      accepted := s.accepts, by_ := 0, halt := false }
  { s1 with launches := s1.launches ++ [l], accepts := s1.accepts + 1 }.checkRecords (s1.launches.length + 1)
def execLaunch (p : Packet) (s : State) : Out := .next (s.launchMessage p)

/-- Fields of an image header (R40). -/
def hdrForm (h : List Byte) : Nat := field h 4 1
def hdrIlen (h : List Byte) : Nat := field h 8 4
def hdrDlen (h : List Byte) : Nat := field h 0xC 4
def hdrDaddr (h : List Byte) : Nat := field h 0x10 4
def hdrEntry (h : List Byte) : Nat := field h 0x14 4
def hdrHandler (h : List Byte) : Nat := field h 0x18 4

/-- Whether an image header is valid for a record (R40). -/
def headerOk (h : List Byte) (imglen : Nat) : Bool :=
  field h 0 4 == 0x584E4D41 && decide (hdrForm h ≤ 1) && field h 5 3 == 0 && ((h.drop 0x1C).take 36).all (· == 0) &&
  hdrIlen h % 4 == 0 && decide (hdrIlen h ≤ 262144) && imglen == 64 + hdrIlen h + hdrDlen h && hdrDaddr h % 256 == 0 &&
  decide (hdrDaddr h + hdrDlen h ≤ 0x1F0000) && hdrEntry h % 4 == 0 && decide (hdrEntry h < hdrIlen h) &&
  (hdrHandler h == 0 || (hdrHandler h % 4 == 0 && decide (hdrHandler h < hdrIlen h)))

/-! ### Where a gang can stand (R46, R47) -/

/-- The leading tiles of a rectangle in member order; `at_` gives the endpoint at a row and a column. -/
def rectangle (at_ : Nat → Nat → Nat) (row col : Nat) (h : Shape) : List Nat :=
  (List.range h.y).flatMap fun i => (List.range h.x).map fun j => at_ (row + i) (col + h.step * j)

/-- All tiles of leading tiles. -/
def withTrailing (h : Shape) (l : List Nat) : List Nat := if h.step = 2 then l.flatMap fun e => [e, e + 1] else l

/-- The rectangles of a side of `n`, lowest row and then lowest column first, that `ok` accepts; pairs begin at even columns. -/
def rectangles (n : Nat) (at_ : Nat → Nat → Nat) (h : Shape) (ok : List Nat → Bool) : List (List Nat) :=
  (List.range (n + 1 - h.y)).flatMap fun row =>
    (((List.range (n + 1 - h.step * h.x)).filter fun c => c % h.step == 0).map fun col => rectangle at_ row col h).filter ok

/-- The rectangles on die `d` (R46). -/
def dieRectangles (d : Nat) (h : Shape) (ok : List Nat → Bool) : List (List Nat) :=
  if h.y ≤ 16 && h.step * h.x ≤ 16 then rectangles 16 (mkRouter d) h ok else []

/-- The rectangles in the package plane (R46). -/
def planeRectangles (h : Shape) (ok : List Nat → Bool) : List (List Nat) :=
  if h.y ≤ 32 && h.step * h.x ≤ 32 then rectangles 32 ofPlane h ok else []

/-- The lowest free tiles, in pairs for a twin gang (R46). -/
def scattered (h : Shape) (free : Nat → Bool) : Option (List Nat) :=
  let l := (List.range 1024).filter fun e => if h.step = 2 then e % 2 == 0 && free e && free (e + 1) else free e
  if h.members ≤ l.length then some (l.take h.members) else none

/-- The search of R46 over free tiles: the leading tiles in member order. -/
def searchTiles (h : Shape) (scatter : Bool) (free : Nat → Bool) : Option (List Nat) :=
  let ok (l : List Nat) : Bool := (withTrailing h l).all free
  let rect : Option (List Nat) :=
    if h.d = 1 then
      match (List.range 4).findSome? fun d => (dieRectangles d h ok).head? with
      | some l => some l
      | none => (planeRectangles h ok).head?
    else
      let l := (List.range 4).filterMap fun d => (dieRectangles d h ok).head?
      if h.d ≤ l.length then some (l.take h.d).flatten else none
  match rect with
  | some l => some l
  | none => if scatter then scattered h free else none

/-- A tile of a partition that the harvest map leaves in (R26, R46). -/
def State.usable (s : State) (part ep : Nat) : Bool :=
  s.partOf ep == some part && !s.mgmt.harvest.contains ep && (s.getTile ep).run != .removed && !(Sparse.get Part.zero s.parts part).halted

/-- Whether a gang is suspended for a launch, which alone may use its tiles (R51). -/
def State.suspendedFor (s : State) (n gang : Nat) : Bool :=
  match s.launchNo gang with
  | some g => g.st == .suspended && g.by_ == n
  | none => false

/-- A tile that is free for a launch (R46, R51): an ended member of a gang that is suspended for it leaves its tile free (R52). A launch that
has pre-empted ignores reservations (R426). -/
def State.freeFor (s : State) (l : Launch) (ep : Nat) : Bool :=
  let t := s.getTile ep
  s.usable l.lrec.part ep && (t.gang == 0 || (t.run == .ended && s.suspendedFor l.n t.gang)) &&
    (match t.shadow with
     | none => true
     | some c => (s.launchNo c.gang).isNone || s.suspendedFor l.n c.gang) &&
    (match (Sparse.get Part.zero s.parts l.lrec.part).reserve with
     | some r => r.1 == l.n || !r.2.contains ep || s.launches.any fun g => s.suspendedFor l.n g.n
     | none => true)

def State.placeFor (s : State) (l : Launch) : Option (List Nat) := searchTiles l.lrec.shape l.lrec.scatter (s.freeFor l)

/-- The gangs that occupy any of the tiles, suspended ones among them. -/
def State.occupants (s : State) (tiles : List Nat) : List Nat :=
  (s.launches.filter fun g => g.st.onTiles && g.allTiles.any tiles.contains).map fun g => g.n

/-- Positions in search order, one for each set of occupants: the leading tiles and the gangs there (R47). Positions with equal
occupants are equal for every choice but the order, so the first of them stands for all. -/
def firstOfEach (l : List (List Nat × List Nat)) : List (List Nat × List Nat) :=
  l.foldl (fun acc p => if acc.any fun q => q.2 == p.2 then acc else acc ++ [p]) []

/-- Subsets of `k` of the dies in increasing order. -/
def dieSets : Nat → List Nat → List (List Nat)
  | 0, _ => [[]]
  | _ + 1, [] => []
  | k + 1, d :: l => (dieSets k l).map (d :: ·) ++ dieSets (k + 1) l

def union (a b : List Nat) : List Nat := a ++ b.filter fun x => !a.contains x

def State.positions (s : State) (l : Launch) : List (List Nat × List Nat) :=
  let h := l.lrec.shape
  let ok (x : List Nat) : Bool := (withTrailing h x).all (s.usable l.lrec.part)
  let occ (x : List Nat) : List Nat × List Nat := (x, s.occupants (withTrailing h x))
  if h.d = 1 then firstOfEach (((List.range 4).flatMap (dieRectangles · h ok) ++ planeRectangles h ok).map occ)
  else
    let per := (List.range 4).map fun d => firstOfEach ((dieRectangles d h ok).map occ)
    (dieSets h.d [0, 1, 2, 3]).flatMap fun ds =>
      ds.foldl (fun acc d => acc.flatMap fun a => (per.getD d []).map fun p => (a.1 ++ p.1, union a.2 p.2)) [([], [])]

/-- Whether any placement exists with every occupant ignored (R425). -/
def State.placeable (s : State) (l : Launch) : Bool := (searchTiles l.lrec.shape l.lrec.scatter (s.usable l.lrec.part)).isSome

/-! ### Ends (R53, R54, R324, R419) -/

/-- A tile keeps its interface's counters when its entries cease to exist (log 6). -/
def Ni.emptied (n : Ni) : Ni := { Ni.empty with seqOut := n.seqOut, seqIn := n.seqIn, nextId := n.nextId, nextXid := n.nextXid }

/-- The router entries of a tile's own contrails go with its entries. -/
def State.dropContrails (s : State) (ep : Nat) : State :=
  { s with routers := s.routers.filterMap fun r =>
      let l := r.2.filter fun c => c.pub != s.rankOf ep
      if l.isEmpty then none else some (r.1, l) }

/-- A tile leaves gang `n`, placed or suspended on it (R53); one of a halted partition stays parked (R439). The items that the gang held there
return (R59). -/
def State.freeTile (s : State) (n ep : Nat) : State :=
  let t := s.getTile ep
  let halted := match s.partOf ep with
    | some p => (Sparse.get Part.zero s.parts p).halted
    | none => false
  let s0 := s.returnItems [ep] n
  let s1 := if t.gang = n then
      (s0.dropContrails ep).modTile ep fun t =>
        { t with run := if t.run = .removed then .removed else if halted then .parked else .idle, gang := 0, ni := t.ni.emptied, waitw := false
                 item := [], twin := none, spec := none, thr := { t.thr with land := [], endStep := 0 } }
    else s0
  if (t.shadow.map fun c => c.gang) = some n then s1.modTile ep fun t => { t with shadow := none } else s1

/-- A partial or result chunk on a link of the tree, of such a group. -/
def Ev.inTree (p : BitVec 16 → Bool) : Ev → Bool
  | .hpart c => p c.group
  | .hresult c => p c.group
  | _ => false

/-- The rounds and held contributions of groups are discarded at every node, and their numbering begins anew (R164, R419, R420). -/
def State.restartRounds (s : State) (p : BitVec 16 → Bool) : State :=
  { s with
    sched := s.sched.filter fun x => !x.2.inTree p
    halo := s.halo.map fun (n : Nat × HNode) =>
      (n.1, { n.2 with
        rounds := n.2.rounds.filter fun r => !p r.group
        down := n.2.down.filter fun c => !p c.group
        first := n.2.first.filter fun f => !p (BitVec.ofNat 16 (f.1 / 16)) }) }

/-- A group's unfinished rounds are discarded once no member tile holds a gang (R419). -/
def State.sweepHalo (s : State) : State :=
  let busy (ep : Nat) : Bool := let t := s.getTile ep; t.gang != 0 || t.shadow.isSome
  let groups := s.halo.flatMap fun n => n.2.entries.map fun e => e.group
  let live (g : BitVec 16) : Bool :=
    s.halo.any fun n => decide (n.1 < 64) && n.2.entries.any fun e =>
      e.group == g && (List.range 16).any fun i => e.child.getLsbD i && busy (n.1 * 16 + i)
  let dead := groups.filter fun g => !live g
  if dead.isEmpty then s else s.restartRounds fun g => dead.contains g

/-- Records of launches that ended 4,096 acceptances ago are discarded (R43). -/
def State.forget (s : State) : State :=
  let later (l : Launch) : List Launch := s.launches.filter fun x => x.lrec.part == l.lrec.part && !x.st.unchecked && decide (l.accepted < x.accepted)
  { s with launches := s.launches.filter fun l => !(l.st.isEnded && decide (4096 ≤ (later l).length)) }

/-- Ends one launch: its tiles are freed, the items that they hold returning together, and its final event sent (R42, R53, R59, R434). -/
def State.endOne (s : State) (n ev reason tile : Nat) : State :=
  match s.launchNo n with
  | none => s
  | some l =>
    if l.st.isEnded || l.st.unchecked then s
    else
      let s1 := l.allTiles.foldl (fun st ep => st.freeTile n ep) (s.returnItems l.allTiles n)
      let p := Sparse.get Part.zero s1.parts l.lrec.part
      let s2 := match p.reserve with
        | some r => if r.1 = n then { s1 with parts := Sparse.set Part.zero s1.parts l.lrec.part { p with reserve := none } } else s1
        | none => s1
      ((s2.modLaunch n fun l => { l with st := .ended ev, tiles := [] }).report l n ev reason tile).kick l.lrec.part

/-- How a predecessor stands: ended with ENDED, ended otherwise, or not ended. -/
def State.predState (s : State) (k : Nat) : Option Bool :=
  match s.launchNo k with
  | none => some true
  | some l => match l.st with
    | .ended ev => some (ev == 3)
    | _ => none

/-- Waiting launches whose predecessors have ended become eligible, or end with DEP_FAILED, or UNPLACEABLE when no place exists
(R44, R425). The fuel is the number of launches. -/
def State.settleWaiting (s : State) : Nat → State
  | 0 => s
  | fuel + 1 =>
    match s.launches.find? fun l => l.st == .waiting && (l.lrec.preds.any fun k => s.predState k == some false) with
    | some l => (s.endOne l.n 8 0 0).settleWaiting fuel
    | none =>
      match s.launches.find? fun l => l.st == .waiting && l.lrec.preds.all fun k => s.predState k == some true with
      | none => s
      | some l =>
        if s.placeable l then ((s.modLaunch l.n fun l => { l with st := .eligible, since := s.time }).kick l.lrec.part).settleWaiting fuel
        else (s.endOne l.n 5 3 0).settleWaiting fuel

/-- Ends a launch and settles what waited for it. -/
def State.endLaunch (s : State) (n ev reason tile : Nat) : State :=
  let s1 := (s.endOne n ev reason tile).sweepHalo
  s1.settleWaiting s1.launches.length

/-- The number of the launch that is accepted as the `k`-th: 1 to 0xFFFF_FFFF, then again from 1 (R43). -/
def launchNumber (k : Nat) : Nat := (k - 1) % 0xFFFFFFFF + 1

/-- IMAGE_HEADER_READ: the launch is accepted and numbered, or rejected with reason 0x0A (R40, R43). -/
def execImageHeaderRead (n : Nat) (s : State) : Out :=
  match s.launchNo n with
  | none => .next s
  | some l =>
    let key := Config.placerEp
    match (s.getNi key).ents.find? fun e => e.cookie.toNat == n + 1 with
    | none => .next s
    | some e =>
      if l.st != .header || e.phase != .done then .next s
      else
        let s1 := s.dropEnt key e.id
        if (e.rcd.status == stOK || e.rcd.status == stCORRECTED) && headerOk l.header l.lrec.imglen then
          let k := launchNumber s1.nextLaunch
          let s2 := { s1 with launches := s1.launches.filter fun x => !(x.st.isEnded && x.n == k) }.modLaunch n fun l =>
            { l with n := k, st := .waiting, accepted := s1.accepts }
          let s3 := { s2 with nextLaunch := s2.nextLaunch + 1, accepts := s2.accepts + 1 }
          let s4 := (s3.report l k 1 0 0).forget
          let s5 := s4.settleWaiting s4.launches.length
          .next (s5.checkRecords s5.launches.length)
        else
          .next ((({ s1 with launches := s1.launches.filter fun x => x.n != n }).report l 0 4 10 0).checkRecords s1.launches.length)

/-- A tile stops at its boundary: its speculative path is squashed, its WAITW waits no longer (R49). -/
def State.stopTile (s : State) (ep : Nat) : State :=
  let back := s.tile.ep
  let s1 := s.focus ep
  let s2 := match s1.tile.spec with
    | some p => s1.squash p
    | none => s1
  (s2.onTile fun t => { t with run := if t.run = .running then .stopping else t.run, waitw := false }).focus back

/-- An eager message whose header an interface has taken and whose last flit has not come, or a write that waits for its region (R49, R435). -/
def Ni.half (n : Ni) : Bool :=
  !n.late.isEmpty || (n.unexp.any fun u => !u.whole) || n.ents.any fun e =>
    (e.boxq.any fun u => !u.whole) || (e.kind.isRecv && e.phase == .landing && (e.hdr.map fun h => h.kind) == some 0x01)

/-- A stopped tile on which everything in flight has landed and whose interface is quiet: what it had begun to send has left, and the eager
messages that it has taken are whole (R49, steps 2 and 3; log 26). -/
def State.quiet (s : State) (ep : Nat) : Bool :=
  let t := s.getTile ep
  t.run != .running && decide (t.drained s.cycle ≤ s.cycle) && !t.ni.half && !s.torus.any fun x => x.src == ep && decide (x.injected < x.size)

/-- Every tile of a gang that the gang stands on is quiet. -/
def State.allQuiet (s : State) (l : Launch) : Bool := l.allTiles.all fun ep => (s.getTile ep).gang != l.n || s.quiet ep

/-- A gang whose members have stopped and are quiet ends; FAULTED names the first parked member, but a halted partition's names none (R53,
R42, R439). -/
def State.quitEnd (s : State) (n : Nat) : State :=
  match s.launchNo n with
  | none => s
  | some l =>
    match l.st with
    | .quitting ev reason =>
      if s.allQuiet l then s.endLaunch n ev reason (if ev = 7 && !l.halt then (l.parkedBy.elim 0 fun p => p.1) else 0) else s
    | _ => s

/-- Ends a launch as a lease expiry does: its running members stop first, as in steps 1 to 3 of R49 (R53, R54, R324). -/
def State.quit (s : State) (n ev reason : Nat) : State :=
  match s.launchNo n with
  | none => s
  | some l =>
    match l.st with
    | .placed | .stopping | .faulting =>
      ((l.allTiles.foldl (fun st e => if (st.getTile e).gang = n then st.stopTile e else st) s).modLaunch n fun x =>
        { x with st := .quitting ev reason }).quitEnd n
    | .quitting _ _ | .ended _ | .queued | .header => s
    | .waiting | .eligible | .loading | .suspended | .resuming => s.endLaunch n ev reason 0

/-- WITHDRAW: handled as a lease expiry, wherever the launch stands (R54). -/
def execWithdraw (n : Nat) (s : State) : Out := .next (s.quit n 6 0)

/-- Whether a placed gang's lease has run out (R35, R50): of a gang that is being pre-empted, only after it has been resumed (log 101). -/
def State.leaseOver (s : State) (l : Launch) : Bool :=
  l.st == .placed && l.lrec.lease != 0 && decide (l.placedAt + 1000 * l.lrec.lease + l.suspended ≤ s.time)

/-- LEASE_EXPIRY: every member stops, and when all have, the gang ends (R53). -/
def execLeaseExpiry (n : Nat) (s : State) : Out :=
  match s.launchNo n with
  | some l => .next (if s.leaseOver l then s.quit n 6 0 else s.quitEnd n)
  | none => .next s

/-- TILE_END: a tile whose END has taken effect; the gang ends with its last member (R53). -/
def State.tileEnded (s : State) (ep : Nat) : State :=
  let s1 := s.modTile ep fun t => if t.run = .running && t.thr.endStep = 3 then { t with run := .ended, thr := { t.thr with endStep := 0 } } else t
  match s1.launchOf (s1.getTile ep).gang with
  | none => s1
  | some l =>
    if l.st.onTiles && l.allTiles.all fun e => (s1.getTile e).run == .ended && (s1.getTile e).gang == l.n then s1.endLaunch l.n 3 0 0 else s1
def execTileEnd (ep : Nat) (s : State) : Out := .next (s.tileEnded ep)

/-- GANG_FAULTED: the parking record has been delivered, or its delivery has failed; every member stops, and the gang ends (R53, R324). -/
def execGangFaulted (n : Nat) (s : State) : Out :=
  match s.launchNo n with
  | some l =>
    .next (match l.parkedBy with
      | some p => if l.quits then s.quitEnd n else s.quit n 7 (if l.halt then 0 else p.2)
      | none => s)
  | none => .next s

/-- FAULT_DELIVERY_TIMEOUT: 10 ms after its message was issued, an undelivered parking record counts as failed (R324). -/
def State.recordLate (s : State) (l : Launch) : Bool :=
  (l.st == .placed || l.st == .faulting) && (match l.recordAt with | some t => decide (t + 10000000 ≤ s.time) | none => false)
def execFaultDeliveryTimeout (n : Nat) (s : State) : Out :=
  match s.launchNo n with
  | some l =>
    .next (match l.parkedBy with
      | some p => if s.recordLate l then s.quit n 7 (if l.halt then 0 else p.2) else s
      | none => s)
  | none => .next s

/-! ### Placing (R38, R41, R45, R46) -/

/-- Effective priority (R45). -/
def Launch.effective (l : Launch) : Nat := min 7 (l.lrec.prio + l.boost)

/-- AGING_STEP: each AGESTEP of waiting raises the effective priority by one (R45). -/
def State.agingDue (s : State) (l : Launch) : Bool :=
  l.st == .eligible && decide (l.effective < 7) && decide ((l.boost + 1) * (1000 * s.param (some l.lrec.part) 0) ≤ s.time - l.since)
def execAgingStep (n : Nat) (s : State) : Out :=
  match s.launchNo n with
  | some l => .next (if s.agingDue l then (s.modLaunch n fun l => { l with boost := l.boost + 1 }).kick l.lrec.part else s)
  | none => .next s

/-- The eligible launches of a partition in the order in which the placer considers them (R45). -/
def State.queueOf (s : State) (part : Nat) : List Launch :=
  sortBy (fun l : Launch => (7 - l.effective) * 2 ^ 64 + l.accepted) (s.launches.filter fun l => l.st == .eligible && l.lrec.part == part)

/-- COORDi of a member (R38). -/
def coordOf (levels : List W32) (i cx cy cd : Nat) : Nat :=
  let w := levels.getD i 0
  let inner (k : Nat) : Nat := extentOf k (levels.drop (i + 1))
  match levelKind w with
  | 2 => cx / inner 2 % levelExtent w
  | 3 => cy / inner 3 % levelExtent w
  | 4 => cd
  | _ => 0

/-- Control registers of a member at placement (R38, R41); AGEN and AB keep their values. `ep` is the leading tile. -/
def memberCr (l : Launch) (rank : Rank) (ep idx : Nat) (old : List (Nat × Word)) : List (Nat × Word) :=
  let h := l.lrec.shape
  let cx := idx % h.x
  let cy := idx / h.x % h.y
  let cd := idx / (h.x * h.y)
  let put (m : List (Nat × Word)) (i v : Nat) : List (Nat × Word) := Sparse.set 0 m i (BitVec.ofNat 64 v)
  let m0 := old.filter fun x => keptCr x.1
  let m1 := (List.range 4).foldl (fun m i => put (put m (crCOORD0 + i) (coordOf l.lrec.levels i cx cy cd)) (crEXTENT0 + i)
    (levelExtent (l.lrec.levels.getD i 0))) m0
  [(crTILEID, ep), (crRANK, rank.toNat), (crGANGID, l.n), (crGANGSZ, h.members), (crACTX, l.lrec.actx), (crSLOTFORM, hdrForm l.header),
   (crTVEC, hdrHandler l.header), (crUPOOLB, 0x1F0000), (crUPOOLB + 1, 0xC000)].foldl (fun m x => put m x.1 x.2) m1

/-- What a context's shadow store keeps of an ended member whose tile the pre-empting gang takes: that it has ended (R52; log 73). -/
def Context.ended (t : Tile) : Context := ⟨t.thr.cleared, [], [], t.ni.emptied, none, [], t.twin, t.gang, .ended, []⟩

/-- A tile that begins loading for a gang: stores and registers as R41 sets them, its image to come. -/
def Tile.place (t : Tile) (l : Launch) (rank : Rank) (lead idx : Nat) (groups : List (Nat × (Nat × Nat))) : Tile :=
  let regs : Regs := { Regs.zero with
    s := Sparse.set SVal.zero (Sparse.set SVal.zero [] 1 (SVal.of l.lrec.argva)) 2 (SVal.of (BitVec.ofNat 64 idx))
    cr := memberCr l rank lead idx t.thr.regs.cr }
  { t with
    shadow := if t.gang = 0 then t.shadow else some (Context.ended t)
    run := .loading, gang := l.n, thr := { t.thr.cleared with regs, pc := hdrEntry l.header }, iss := Issue.none, spec := none, idle := 0
    waitw := false, item := [], imem := [], mem := [], latch := none, twin := none
    poison := t.poison.filter fun p => match p with | .anvil _ => true | _ => false
    ni := { t.ni.emptied with groups } }

/-- A tile's interface fetches the image body into its stores (R40). -/
def State.fetchImage (s : State) (l : Launch) (ep : Nat) : State :=
  let len := hdrIlen l.header + hdrDlen l.header
  let n := s.getNi ep
  let e : Ent := { Ent.fresh 0 .get with len, buf := .image (hdrIlen l.header) (hdrDaddr l.header), xid := n.nextXid }
  (s.modNi ep fun n => { n with ents := n.ents ++ [e], nextXid := n.nextXid + 1 }).issueShards ep 0
    (shardsOf (s.rankOf ep) e.xid.toNat l.lrec.actx 0 0 (rangePieces 0 ((l.lrec.image + 64) % 2 ^ 48) len) [] 0 none [])

/-- Takes tiles for a launch and loads them (R41, R46); a drain reservation of it is cleared (R47). -/
def State.placeOn (s : State) (l : Launch) (leads : List Nat) : State :=
  let p := Sparse.get Part.zero s.parts l.lrec.part
  let l' : Launch := { l with st := .loading, tiles := leads, fetched := [] }
  let tiles := leads.zipIdx.flatMap fun e => if l.lrec.isTwin then [(e.1, e.1, e.2), (e.1 + 1, e.1, e.2)] else [(e.1, e.1, e.2)]
  let s1 := tiles.foldl (fun st x => st.modTile x.1 fun t => t.place l' (s.rankOf x.2.1) x.2.1 x.2.2 p.groups) s
  let s2 := s1.modLaunch l.n fun _ => l'
  let s3 := match p.reserve with
    | some r => if r.1 = l.n then { s2 with parts := Sparse.set Part.zero s2.parts l.lrec.part { p with reserve := none } } else s2
    | none => s2
  tiles.foldl (fun st x => st.fetchImage l' x.1) s3

/-- IMAGE_FETCH: when every tile's fetch is done, the gang starts, or ends FAULTED for the lowest tile whose fetch failed (R40, R42). -/
def State.imageFetched (s : State) (n ep : Nat) : State :=
  match s.launchNo n, s.ent ep 0 with
  | some l, some e =>
    if l.st != .loading || e.phase != .done || (s.getTile ep).gang != n then s
    else
      let good (x : Nat) : Option Bool := (s.ent x 0).bind fun e =>
        if e.phase == .done then some (e.rcd.status == stOK || e.rcd.status == stCORRECTED) else none
      let all := l.allTiles
      if !(all.all fun x => (good x).isSome) then s.modLaunch n fun l => { l with fetched := union l.fetched [ep] }
      else
        match sortBy id (all.filter fun x => good x == some false) with
        | bad :: _ => s.endLaunch n 7 0 bad
        | [] =>
          let start (t : Tile) : Tile :=
            let lead := t.cr crTILEID
            let t1 := (List.range 3).foldl (fun t i => t.setCr (crTOUCH0 + i) 0) t
            { t1 with
              run := .running
              last := s.time
              ni := { t1.ni with ents := [] }
              twin := if l.lrec.isTwin then
                  some ⟨lead.toNat == t.ep, if lead.toNat = t.ep then t.ep + 1 else t.ep - 1, [], [], 0, none, 0, []⟩
                else none }
          let s1 := all.foldl (fun st x => st.modTile x start) s
          (s1.modLaunch n fun l => { l with st := .placed, placedAt := s.time, fetched := [] }).report l n 2 0 ((sortBy id l.tiles).headD 0)
  | _, _ => s
def execImageFetch (n ep : Nat) (s : State) : Out := .next (s.imageFetched n ep)

/-! ### Pre-emption (R48 to R52) -/

/-- The gangs that a launch may stop for a position: every occupant placed, of lower priority, with no context in any shadow store and no parked
member (R48, R351). -/
def State.mayStop (s : State) (l : Launch) (gangs : List Nat) : Bool :=
  gangs.all fun g => match s.launchNo g with
    | some x => x.st == .placed && x.parkedBy.isNone && decide (x.lrec.prio < l.lrec.prio) && x.allTiles.all fun e => (s.getTile e).shadow.isNone
    | none => false

/-- The position that a launch takes by pre-emption: lowest highest priority, fewest occupant tiles, earliest (R48). -/
def State.victims (s : State) (l : Launch) : Option (List Nat) :=
  let prio (g : Nat) : Nat := (s.launchNo g).elim 0 fun x => x.lrec.prio
  let tiles (g : Nat) : Nat := (s.launchNo g).elim 0 fun x => x.allTiles.length
  let cands := (s.positions l).filter fun p => !p.2.isEmpty && s.mayStop l p.2 &&
    (withTrailing l.lrec.shape p.1).all fun e => (s.getTile e).shadow.isNone
  let cost (p : List Nat × List Nat) : Nat := p.2.foldl (fun m g => max m (prio g)) 0 * 2 ^ 32 + p.2.foldl (fun n g => n + tiles g) 0
  (cands.foldl (fun (b : Option (List Nat × List Nat)) p =>
    match b with
    | none => some p
    | some q => if cost p < cost q then some p else b) none).map (·.2)

/-- Cycles from the last stop to the end of a context exchange: 20 µs, the bound of R18 and R49, drain and dump included (log 26). -/
def State.exchangeTime (s : State) : Nat := s.cyclesOf 20000

/-- PREEMPTION: every tile of every occupant stops, and its exchange begins (R48, R49). -/
def execPreemption (n : Nat) (s : State) : Out :=
  match s.launchNo n with
  | none => .next s
  | some l =>
    if l.st != .eligible || (s.placeFor l).isSome then .next s
    else
      match s.victims l with
      | none => .next s
      | some gs =>
        .next (gs.foldl (fun st g =>
          match st.launchNo g with
          | none => st
          | some x =>
            let st1 := x.allTiles.foldl (fun st e => st.stopTile e) st
            let st2 := st1.modLaunch g fun x => { x with st := .stopping, by_ := n }
            { st2 with sched := st2.sched ++ [(st.cycle + st.exchangeTime, .preempted g)] }) s)

/-- The part of the context save area that the device writes: 0x1F_C000 to 0x1F_EFFF (R340). -/
def dumpBase : Nat := 0x1FC000
def dumpBytes : Nat := 0x3000
def inDump (word : Nat) : Bool := decide (dumpBase ≤ 8 * word) && decide (8 * word < dumpBase + dumpBytes)

/-- The register dump is written: what the program finds there is unspecified from then on (R49, R340; log 74). -/
def Ni.dumped (n : Ni) : Ni :=
  { n with ghosts := (n.ghosts.filter fun g => g.id != 0) ++ [{ id := 0, nb := none, region := none, addr := dumpBase, len := dumpBytes, counted := false, raised := false }] }

/-- A tile's context goes to the shadow store, and the tile is empty (R49). The dump's words are written whole, which clears their poison. A
member that has ended is not exchanged (R52). -/
def Tile.suspend (t : Tile) : Tile :=
  if t.run = .ended then t
  else
    let c : Context :=
      { thr := t.thr, mem := t.mem, imem := t.imem, ni := t.ni.dumped, latch := t.latch, twin := t.twin, gang := t.gang, run := .running, item := t.item
        poison := t.poison.filter fun p => match p with | .anvil _ => false | .store w => !inDump w | _ => true }
    { t with
      shadow := some c, run := .idle, gang := 0, thr := t.thr.cleared, mem := [], imem := [], ni := t.ni.emptied, latch := none, twin := none
      item := [], poison := t.poison.filter fun p => match p with | .anvil _ => true | _ => false }

/-- A word of the register dump or of an engine's shadow copy that cannot be corrected, as STORE_UE reports it (R347, R352). Other poison moves
with its word. -/
def Poison.saved : Poison → Option Word
  | .store w => if inDump w then some (ueInfo 0 0 (8 * w)) else none
  | .reg r => some (ueInfo r.ueCode.1 0 r.ueCode.2)
  | .row k i => some (ueInfo 6 0 (64 * k + i))
  | .anvil _ => none
  | .imem _ => none
  | .capture => none

/-- A suspended context comes back; AGEN and AB are the tile's, and a timed send whose time has passed is late (R33, R51, R422). Shard timers begin
anew, since the replies have been refused meanwhile (R373, R385), and a FENCE probes again, since its bundle issues again (R49). -/
def Tile.restore (t : Tile) (time shardTo : Nat) : Tile :=
  match t.shadow with
  | none => t
  | some c =>
    let cr := (c.thr.regs.cr.filter fun x => !keptCr x.1)
    let cr' := (t.thr.regs.cr.filter fun x => keptCr x.1).foldl (fun m x => Sparse.set 0 m x.1 x.2) cr
    let late (e : Ent) : Ent :=
      if e.phase == .held && e.timed && decide ((e.tsend.getD 0).toNat ≤ time) then { e with late := true } else e
    let restart (e : Ent) : Ent := { e with shards := e.shards.map fun x => if x.due = 0 then x else { x with due := time + shardTo } }
    { t with
      shadow := none, run := c.run, gang := c.gang, thr := { c.thr with regs := { c.thr.regs with cr := cr' } }, mem := c.mem, imem := c.imem
      latch := c.latch, twin := c.twin, item := c.item, poison := t.poison ++ c.poison, last := time
      ni := { c.ni with seqOut := t.ni.seqOut, seqIn := t.ni.seqIn, nextId := max t.ni.nextId c.ni.nextId
                        nextXid := t.ni.nextXid, ents := c.ni.ents.map fun e => restart (late e), fence := none, echoes := [] } }

/-- PREEMPTED: the exchange is complete (R49); a parked member has abandoned it (R351), and a gang all of whose members have ended is
not suspended (R52). A tile that is not quiet yet holds it up. -/
def execPreempted (n : Nat) (s : State) : Out :=
  match s.launchNo n with
  | none => .next s
  | some l =>
    if l.st != .stopping then .next s
    else if l.allTiles.all fun e => (s.getTile e).run == .ended then .next (s.endLaunch n 3 0 0)
    else if l.allTiles.any fun e => (s.getTile e).run != .ended && !s.quiet e then
      .next { s with sched := s.sched ++ [(s.cycle + 1, .preempted n)] }
    else
      let s1 := l.allTiles.foldl (fun st e => st.modTile e Tile.suspend) s
      .next (((s1.modLaunch n fun l => { l with st := .suspended, suspAt := s.time }).report l n 9 0 0).kick l.lrec.part)

/-- Whether a suspended gang may come back: nothing is placed on its tiles, and what pre-empted it no longer waits (R51). -/
def State.mayResume (s : State) (l : Launch) : Bool :=
  l.st == .suspended && (l.allTiles.all fun e => (s.getTile e).gang == 0 || (s.getTile e).gang == l.n) &&
    (match s.launchNo l.by_ with | some p => p.st != .eligible | none => true)

/-- A tile is parked with STORE_UE in an exchange: its context comes back first where the shadow store holds it (R352). -/
def State.parkExchange (s : State) (n ep : Nat) (info : Word) : State :=
  let s1 := if ((s.getTile ep).shadow.map fun c => c.gang) = some n && (s.getTile ep).gang = 0 then s.modTile ep fun t => t.restore s.time (s.shardTo ep) else s
  (s1.modTile ep fun t => (t.setCr crTCAUSE (tcauseWord tcUE 0 false false)).setCr crTINFO info).park ep

/-- The words of a gang's dumps and shadow copies that cannot be corrected: tile and TINFO (R352). -/
def State.badCopies (s : State) (l : Launch) : List (Nat × Word) :=
  l.allTiles.filterMap fun e => match (s.getTile e).shadow with
    | some c => if c.gang = l.n then (c.poison.findSome? Poison.saved).map fun i => (e, i) else none
    | none => none

/-- An exchange path that fails parks its tile, and the gang that is being exchanged ends FAULTED (R352). What TINFO holds the manual does
not say. -/
def State.pathFailed (s : State) (ep : Nat) : State :=
  let t := s.getTile ep
  let gangs := t.gang :: (t.shadow.elim [] fun c => [c.gang])
  match s.launches.find? fun l => gangs.contains l.n && l.allTiles.contains ep &&
      ((l.st == .stopping && t.gang == l.n && t.run != .ended) || (l.st == .resuming && t.gang == 0)) with
  | some l => s.parkExchange l.n ep (Config.free 64 s.fresh ep)
  | none => s

/-- RESUME: the exchange in reverse has run, and the gang goes on where it stopped (R51). A tile whose dump or shadow copy cannot be corrected is
parked instead, and the gang ends FAULTED without RESUMED (R352). -/
def execResume (n : Nat) (s : State) : Out :=
  match s.launchNo n with
  | none => .next s
  | some l =>
    if l.st != .resuming then .next s
    else if !(s.badCopies l).isEmpty then .next ((s.badCopies l).foldl (fun st x => st.parkExchange n x.1 x.2) s)
    else
      let s1 := l.allTiles.foldl (fun st e => (st.modTile e fun t => t.restore s.time (s.shardTo e)).pump e) s
      .next ((s1.modLaunch n fun l =>
        { l with st := .placed, suspended := l.suspended + (s.time - l.suspAt), by_ := 0 }).report l n 10 0 0)

/-! ### Drain reservations (R47, R425, R426) -/

/-- A gang's end by declared lease; none for an unbounded one (R47). A gang that is still loading has no PLACED time: its lease counts from the
present TIME (log 76). -/
def State.declaredEnd (s : State) (g : Nat) : Option Nat :=
  match s.launchNo g with
  | none => some 0
  | some l =>
    if l.lrec.lease = 0 then none
    else
      some ((if l.st == .loading then s.time else l.placedAt) + 1000 * l.lrec.lease + l.suspended +
        (if l.st == .suspended || l.st == .resuming then s.time - l.suspAt else 0))

/-- Whether a gang has pre-empted another that has not come back. -/
def State.preempts (s : State) (g : Nat) : Bool :=
  s.launches.any fun x => x.by_ == g && g != 0 && (x.st == .stopping || x.st == .suspended || x.st == .resuming)

/-- The free time of a set of occupants; none is infinity (R47). Where gangs of the set have pre-empted others, the time of the others is raised by
their leases (R426; log 96). -/
def State.freeTime (s : State) (gangs : List Nat) : Option Nat :=
  let latest (f : Nat → Option Nat) (l : List Nat) : Option Nat :=
    l.foldl (fun b g => match b, f g with | some x, some y => some (max x y) | _, _ => none) (some 0)
  let pre := gangs.filter s.preempts
  let lease (g : Nat) : Nat := (s.launchNo g).elim 0 fun l => 1000 * l.lrec.lease
  let since (g : Nat) : Nat := (s.launchNo g).elim 0 fun l => if l.st == .suspended || l.st == .resuming then s.time - l.suspAt else 0
  let before (g : Nat) : Option Nat := (s.declaredEnd g).map fun x => x - since g
  let others := gangs.filter fun g => !s.preempts g
  match latest s.declaredEnd gangs, latest before others with
  | some x, some y => some (if pre.isEmpty || others.isEmpty then x else max x (y + pre.foldl (fun n g => n + lease g) 0))
  | _, _ => none

/-- The position with the earliest free time, the earliest in search order on a tie. -/
def State.bestPosition (s : State) (l : Launch) : Option (List Nat × Option Nat) :=
  (s.positions l).foldl (fun (b : Option (List Nat × Option Nat)) p =>
    let t := s.freeTime p.2
    match b with
    | none => some (p.1, t)
    | some q => match t, q.2 with
      | some x, some y => if x < y then some (p.1, t) else b
      | some _, none => some (p.1, t)
      | none, _ => b) none

/-- Makes or moves the reservation of a launch, or ends it UNPLACEABLE (R47, R425, R426). -/
def State.reserveFor (s : State) (l : Launch) : State :=
  match s.bestPosition l with
  | none => s
  | some (_, none) => s.endLaunch l.n 5 2 0
  | some (leads, some t) =>
    if s.time + 1000 * s.param (some l.lrec.part) 2 < t then s.endLaunch l.n 5 1 0
    else
      let p := Sparse.get Part.zero s.parts l.lrec.part
      { s with parts := Sparse.set Part.zero s.parts l.lrec.part { p with reserve := some (l.n, withTrailing l.lrec.shape leads) } }

/-- The launch whose reservation is due: the oldest eligible one, waiting longer than AGELIMIT and still not fitting (R47). -/
def State.drainDue (s : State) (part : Nat) : Option Launch :=
  if (Sparse.get Part.zero s.parts part).reserve.isSome then none
  else
    match sortBy (fun l : Launch => l.accepted) (s.launches.filter fun l => l.st == .eligible && l.lrec.part == part) with
    | [] => none
    | l :: _ => if 1000 * s.param (some part) 1 < s.time - l.since && (s.placeFor l).isNone && (s.bestPosition l).isSome then some l else none

/-- DRAIN_RESERVATION: a new one, or the present one's free times recomputed (R47, R426). -/
def State.drain (s : State) (part : Nat) : State :=
  match (Sparse.get Part.zero s.parts part).reserve with
  | some r => (match s.launchNo r.1 with | some l => if l.st == .eligible then s.reserveFor l else s | none => s)
  | none => (match s.drainDue part with | some l => s.reserveFor l | none => s)
def execDrainReservation (part : Nat) (s : State) : Out := .next (s.drain part)

/-- PLACEMENT: a suspended gang whose tiles are clear is resumed ahead of everything; else the first waiting launch that fits is placed;
else the first that can pre-empts (R45 to R48, R51). -/
def State.placement (s : State) (part : Nat) : State :=
  match s.launches.find? fun l => l.lrec.part == part && s.mayResume l with
  | some l =>
    ({ (s.modLaunch l.n fun l => { l with st := .resuming }) with sched := s.sched ++ [(s.cycle + s.exchangeTime, Ev.resume l.n)] }).kick part
  | none =>
    match (s.queueOf part).findSome? fun l => (s.placeFor l).map fun p => (l, p) with
    | some x => ((s.placeOn x.1 x.2).drain part).kick part
    | none =>
      if s.launches.any fun l => l.lrec.part == part && l.st == .stopping then s.drain part
      else
        match (s.queueOf part).find? fun l => (s.victims l).isSome with
        | some l => { s.drain part with sched := s.sched ++ [(s.cycle + 1, Ev.preemption l.n)] }
        | none => s.drain part
def execPlacement (part : Nat) (s : State) : Out := .next (s.placement part)

end Sys2Proof.Machine
end

