-- ==== Sys2Proof/Machine/Halo.lean ====
section
/-!
DEFINITION. The halo tree (R160 to R168, R170, R419 to R421): contributions at a row node, partial results on their way up, results on
their way down and out to the members, and what a failed node does. Nodes 0–63 are row nodes, 64–67 die nodes and 68 the root.
-/
namespace Sys2Proof.Machine

/-! ### Nodes, entries and rounds -/

/-- The valid entry of a group at a node. -/
def HNode.entry (h : HNode) (g : BitVec 16) : Option GEntry := h.entries.find? fun e => e.group == g && e.valid

/-- The rank of a node's interface among the interfaces. -/
def nodeKey (n : Nat) : Nat := 0x1000 + n

/-- The node above, and the place of a node among that one's children (R160). -/
def nodeParent (n : Nat) : Nat := if n < 64 then 64 + n / 16 else 68
def nodePlace (n : Nat) : Nat := if n < 64 then n % 16 else n - 64
/-- The node below at a child's place. -/
def nodeChild (n i : Nat) : Nat := if n = 68 then 64 + i else (n - 64) * 16 + i
/-- Cycles of the link above a node (R160). -/
def linkDelay (n : Nat) : Nat := if n < 64 then 4 else 6

/-- Bytes of a contribution and of a result (R163, R168). -/
def GEntry.inLen (e : GEntry) : Nat := (e.nelem + 1) * haloSize e.ityp
def GEntry.outLen (e : GEntry) : Nat := (e.nelem + 1) * haloSize e.otyp
/-- Chunks of a round (R167). -/
def GEntry.chunks (e : GEntry) : Nat := (e.nelem + 32) / 32
/-- A streamed group (R165). -/
def GEntry.streamed (e : GEntry) : Bool := decide (262144 < e.outLen)
/-- Bytes of the result store that a round takes at a row node (R164, R165). -/
def GEntry.room (e : GEntry) : Nat := if e.streamed then 65536 else e.outLen

def HRound.fresh (g : BitVec 16) (r : Nat) : HRound := ⟨g, r, [], [], 0, [], false, []⟩
def HNode.round (h : HNode) (g : BitVec 16) (r : Nat) : HRound :=
  (h.rounds.find? fun x => x.group == g && x.round == r).getD (HRound.fresh g r)
def HNode.setRound (h : HNode) (x : HRound) : HNode :=
  { h with rounds := (h.rounds.filter fun y => !(y.group == x.group && y.round == x.round)) ++ [x] }

/-- The result messages of a round that some member has not taken yet. -/
def State.resultEnts (s : State) (node : Nat) (g : BitVec 16) (r : Nat) : List Ent :=
  (s.getNi (nodeKey node)).ents.filter fun e => e.group == g && e.cookie == BitVec.ofNat 64 r && e.phase != .done

/-- A row node frees a round's store once every member has taken its result (R168). -/
def State.freeRounds (s : State) (node : Nat) : State :=
  s.modNode node fun h => { h with rounds := h.rounds.filter fun r => !(r.sent && (s.resultEnts node r.group r.round).isEmpty) }

/-! ### Combining (R162, R167) -/

/-- Elements of `n` bytes each. -/
def elements (n : Nat) (l : List Byte) : List Nat := (List.range (l.length / n)).map fun i => ofBytes ((l.drop (n * i)).take n)

/-- An element of a contribution as the tree carries it: XSUM groups carry wire elements (R160). -/
def carryIn (op ityp x : Nat) : Nat :=
  if op ≠ 0 then x
  else match ityp with
    | 0 => (XA.clear.contribute (Fmt.f32.decode x)).wire.toNat
    | 1 => (XA.clear.contribute (Fmt.bf16.decode x)).wire.toNat
    | _ => (XA.ofWire (BitVec.ofNat 512 x)).wire.toNat

/-- Bytes of an element in the tree. -/
def treeSize (e : GEntry) : Nat := if e.op = 0 then 64 else haloSize e.ityp

/-- Two elements under an operator other than XSUM (R162). -/
def combineTwo (op a b : Nat) : Nat :=
  let x : Word := BitVec.ofNat 64 a
  let y : Word := BitVec.ofNat 64 b
  match op with
  | 1 => (x + y).toNat
  | 2 => (if x.slt y then x else y).toNat
  | 3 => (if x.slt y then y else x).toNat
  | 4 => min a b
  | 5 => max a b
  | 6 => (x &&& y).toNat
  | 7 => (x ||| y).toNat
  | 8 => (x ^^^ y).toNat
  | 9 => (fpMin (BitVec.ofNat 32 a) (BitVec.ofNat 32 b)).toNat
  | _ => (fpMax (BitVec.ofNat 32 a) (BitVec.ofNat 32 b)).toNat

/-- The combination of one element over a node's children (R78, R162). -/
def combineAll (op : Nat) : List Nat → Nat
  | [] => 0
  | x :: l =>
    if op = 0 then ((x :: l).foldl (fun (a : XA) w => a.combine (XA.ofWire (BitVec.ofNat 512 w))) XA.clear).wire.toNat
    else if 9 ≤ op then l.foldl (combineTwo op) (combineTwo op x x)
    else l.foldl (combineTwo op) x

/-- The result element: an exact sum is rounded once (R79, R162). -/
def resultOf (op otyp x : Nat) : Nat :=
  if op ≠ 0 then x
  else match otyp with
    | 0 => ((XA.ofWire (BitVec.ofNat 512 x)).read .f32).1
    | 1 => ((XA.ofWire (BitVec.ofNat 512 x)).read .bf16).1
    | _ => x

/-- One chunk folded over its children. -/
def foldChunk (e : GEntry) (row : Bool) (ins : List (List Byte)) : List Nat :=
  let size := if row then haloSize e.ityp else treeSize e
  let els := ins.map fun l => (elements size l).map fun x => if row then carryIn e.op e.ityp x else x
  (List.range ((els.headD []).length)).map fun i => combineAll e.op (els.map fun l => l.getD i 0)

/-- Cycles that `n` bytes take on a link (R160). -/
def linkCycles (n : Nat) : Nat := max 1 ((n + 63) / 64)

/-- A chunk on the link up from a node, which it takes from cycle `at_` on (R160). -/
def State.sendUp (s : State) (node at_ : Nat) (c : HChunk) : State :=
  let start := max at_ (s.getNode node).upAt
  let w := linkCycles c.data.length
  { (s.modNode node fun h => { h with upAt := start + w }) with sched := s.sched ++ [(start + w - 1 + linkDelay node, .hpart c)] }

/-- A result chunk on the links down from a node to every child of its group (R160, R167). -/
def State.sendDown (s : State) (node at_ : Nat) (e : GEntry) (c : HChunk) : State :=
  let start := max at_ (s.getNode node).downAt
  let w := linkCycles c.data.length
  let kids := (List.range 16).filter fun i => e.child.getLsbD i
  { (s.modNode node fun h => { h with downAt := start + w }) with
    sched := s.sched ++ kids.map fun i =>
      (start + w - 1 + linkDelay (nodeChild node i), Ev.hresult { c with node := nodeChild node i, child := i }) }

/-- What goes on to the parent, or down from the top. -/
def State.passOn (s : State) (node : Nat) (e : GEntry) (round chunk : Nat) (els : List Nat) : State :=
  if e.parent then
    s.sendUp node (s.cycle + 2)
      ⟨nodeParent node, nodePlace node, 0, e.group, 0, 0, 0, 0, round, chunk, els.flatMap (toBytes (treeSize e)), false, false⟩
  else
    s.sendDown node (s.cycle + 2) e
      ⟨node, 0, 0, e.group, 0, 0, 0, 0, round, chunk, els.flatMap fun x => toBytes (haloSize e.otyp) (resultOf e.op e.otyp x), false, false⟩

/-- Whether a node has room for another result chunk of a group (R165; log 83). -/
def State.roomBelow (s : State) (node : Nat) (g : BitVec 16) : Bool :=
  let flying := (s.sched.filter fun x => match x.2 with | .hresult c => c.node == node && c.group == g | _ => false).length
  decide (((s.getNode node).down.filter fun c => c.group == g).length + flying < Config.haloCredit)

/-- Whether the node above has room for another partial chunk of a group from this one (R165; log 83). -/
def State.roomAbove (s : State) (node : Nat) (g : BitVec 16) : Bool :=
  let up := nodeParent node
  let flying := (s.sched.filter fun x => match x.2 with | .hpart c => c.node == up && c.child == nodePlace node && c.group == g | _ => false).length
  let standing := (s.getNode up).rounds.foldl (fun n r =>
    if r.group = g then n + (r.ins.filter fun x => x.child == nodePlace node).length else n) 0
  decide (standing + flying < Config.haloCredit)

/-- Whether what a node would send on has room where it goes (R165). -/
def State.roomFor (s : State) (node : Nat) (e : GEntry) : Bool :=
  if e.parent then s.roomAbove node e.group
  else (List.range 16).all fun i => !e.child.getLsbD i || s.roomBelow (nodeChild node i) e.group

/-- The round of a group that a node works on: the lowest that it has not folded whole (R167). -/
def HNode.current (h : HNode) (e : GEntry) : Option HRound :=
  (h.rounds.filter fun r => r.group == e.group && decide (r.folded < e.chunks)).foldl (fun (b : Option HRound) r =>
    match b with
    | none => some r
    | some q => if r.round < q.round then some r else b) none

/-- The part of a round's next chunk that has come from a child; a SENDR's contribution is held until its release (R164, R167). -/
def HRound.part (r : HRound) (i : Nat) : Option (List Byte) :=
  if r.from_.any fun f => f.1 == i && f.2.2.2.2.2 then none
  else (r.ins.find? fun x => x.child == i && x.chunk == r.folded).map fun x => x.data

/-- The next chunk that a node may fold for a group: every child's part is there, and the result has room (R165, R167). -/
def State.foldable (s : State) (node : Nat) (e : GEntry) : Option HRound :=
  match (s.getNode node).current e with
  | none => none
  | some r => if ((List.range 16).all fun i => !e.child.getLsbD i || (r.part i).isSome) && s.roomFor node e then some r else none

/-- Folds the next chunk of a round (R167). A round that has no more chunks to fold is over, except at a row node, which still takes its
result. -/
def State.fold (s : State) (node : Nat) (e : GEntry) (r : HRound) : State :=
  let els := foldChunk e (decide (node < 64)) (((List.range 16).filter fun i => e.child.getLsbD i).filterMap r.part)
  let r1 := { r with folded := r.folded + 1, ins := r.ins.filter fun x => x.chunk != r.folded }
  let spent := decide (64 ≤ node) && decide (e.chunks ≤ r1.folded)
  let s1 := s.modNode node fun h =>
    { (if spent then { h with rounds := h.rounds.filter fun y => !(y.group == r.group && y.round == r.round) } else h.setRound r1) with
      foldAt := s.cycle + 2 }
  s1.passOn node e r.round r.folded els

/-- The combining unit of a node, when it is free, takes up a chunk of one of its groups, those that it has served last after the others
(R160, R167). -/
def State.foldNode (s : State) (node : Nat) : State :=
  let h := s.getNode node
  if s.cycle < h.foldAt then s
  else
    match h.rounds.findSome? fun x => (h.entry x.group).bind fun e => (s.foldable node e).map fun r => (e, r) with
    | some (e, r) => s.fold node e r
    | none => s

/-! ### Contributions (R163, R164) -/

/-- The packet that a contribution's chunk stands for, to be answered. -/
def HChunk.header (s : State) (c : HChunk) : Header :=
  ⟨s.rankOf Config.haloEp, c.src, c.tag, c.group, BitVec.ofNat 8 (Ev.hcontrib c).kind, 0, c.len, c.seq, 0, BitVec.ofNat 32 c.xid⟩

/-- A first chunk finds its round full, or no room for a new one (R164): a round is unfinished until every member has taken its result (R421;
log 97). -/
def State.roundFull (s : State) (node : Nat) (e : GEntry) (k : Nat) : Bool :=
  let h := s.getNode node
  if h.rounds.any fun r => r.group == e.group && r.round == k then false
  else
    decide (2 ≤ (h.rounds.filter fun r => r.group == e.group).length) ||
    decide (524288 < (h.rounds.foldl (fun n r => n + ((h.entry r.group).elim 0 GEntry.room)) 0) + e.room)

/-- A contribution's chunk enters its round, unless that chunk of the round has been folded with what a parked member had sent (log 94); the last
one is acknowledged (R163). -/
def State.takeChunk (s : State) (e : GEntry) (c : HChunk) (r : HRound) : State :=
  let r1 := { r with
    ins := if c.chunk < r.folded then r.ins else r.ins ++ [⟨c.child, c.chunk, c.data⟩]
    from_ := r.from_.map fun f => if f.1 = c.child then (f.1, f.2.1, f.2.2.1, f.2.2.2.1, c.chunk + 1, f.2.2.2.2.2) else f }
  let s1 := s.modNode c.node fun h => h.setRound r1
  let s2 := if c.chunk + 1 = e.chunks then s1.emit (nodeKey c.node) (ackPacket (HChunk.header s c) ackMessage e.inLen) else s1
  s2.foldNode c.node

/-- A chunk of a contribution that does not count is left out; the last one is acknowledged (R330, R419). -/
def State.voidChunk (s : State) (e : GEntry) (c : HChunk) : State :=
  if c.chunk + 1 = e.chunks then
    (s.modNode c.node fun h => { h with voided := h.voided.filter fun v => !(v.1 == c.src && v.2 == c.xid) }).emit (nodeKey c.node)
      (ackPacket (HChunk.header s c) ackMessage e.inLen)
  else s

/-- HCONTRIB: denied, refused with BUSY, or accepted into the member's next round (R163, R164). One that is not to be counted, or that a poisoned
RELEASE has discarded, is acknowledged and left out (R330, R419; log 85). -/
def State.contribution (s0 : State) (c : HChunk) : State :=
  let s := s0.freeRounds c.node
  let key := nodeKey c.node
  let h := s.getNode c.node
  let hd := HChunk.header s c
  match h.entry c.group with
  | none => s.denyMessage key hd
  | some e =>
    if !e.child.getLsbD c.child || c.len ≠ e.inLen || !s.ownPkg c.src then s.denyMessage key hd
    else if c.void || h.voided.contains (c.src, c.xid) then s.voidChunk e c
    else
      match h.rounds.find? fun r => r.group == c.group && r.from_.any fun f => f.2.1 == c.src && f.2.2.2.1 == c.xid with
      | some r => if r.from_.any fun f => f.1 == c.child && f.2.2.2.2.1 == c.chunk then s.takeChunk e c r else s
      | none =>
        let place := c.group.toNat * 16 + c.child
        let k := Sparse.get 0 h.first place + 1
        if c.chunk ≠ 0 then s
        else if s.roundFull c.node e k then s.refuse key hd 0x07 0
        else
          let early := (s.getNi key).relLog.find? fun x => x.1 == c.src && x.2.1 == BitVec.ofNat 32 c.xid
          let s1 := s.modNi key fun n => { n with relLog := n.relLog.filter fun x => !(x.1 == c.src && x.2.1 == BitVec.ofNat 32 c.xid) }
          match early.map fun x => x.2.2 with
          | some 2 => (s1.modNode c.node fun h => { h with voided := h.voided ++ [(c.src, c.xid)] }).voidChunk e c
          | k0 =>
            let r := h.round c.group k
            let r1 := { r with from_ := r.from_ ++ [(c.child, c.src, c.tag, c.xid, 0, c.fenced && k0 != some 0)] }
            (s1.modNode c.node fun h => { h with first := Sparse.set 0 h.first place k }).takeChunk e c r1
def execHcontrib (c : HChunk) (s : State) : Out := .next (s.contribution c)

/-- HPART: a child's partial chunk at its parent (R167). -/
def execHpart (c : HChunk) (s : State) : Out :=
  let h := s.getNode c.node
  match h.entry c.group with
  | none => .next s
  | some _ =>
    let r := h.round c.group c.round
    .next ((s.modNode c.node fun h => h.setRound { r with ins := r.ins ++ [⟨c.child, c.chunk, c.data⟩] }).foldNode c.node)

/-- A RELEASE for a contribution: the clearing one lets it be combined, a poisoned one discards it, and its chunks that are still to come; both are
acknowledged (R128, R164, R381, R382, R419). -/
def State.haloRelease (s : State) (key : Nat) (h : Header) : State :=
  let node := key - 0x1000
  let kind := h.offset.toNat % 256
  if kind = 1 then s
  else
    let s0 := s.emit key (ackPacket h ackRelease 0)
    match (s.getNode node).rounds.find? fun r => r.group == h.group && r.from_.any fun f => f.2.1 == h.src && f.2.2.2.1 == h.xid.toNat with
    | none => s0.modNi key fun n => { n with relLog := n.relLog.filter (fun x => !(x.1 == h.src && x.2.1 == h.xid)) ++ [(h.src, h.xid, kind)] }
    | some r =>
      let hit (f : Nat × Rank × W32 × Nat × Nat × Bool) : Bool := f.2.1 == h.src && f.2.2.2.1 == h.xid.toNat
      if kind = 2 then
        match r.from_.find? hit with
        | none => s0
        | some f =>
          let whole := ((s.getNode node).entry h.group).elim true fun e => decide (e.chunks ≤ f.2.2.2.2.1)
          let s1 := if whole then s0 else s0.modNode node fun n => { n with voided := n.voided ++ [(h.src, h.xid.toNat)] }
          (s1.dropContribution node f.1 h.group r.round).foldNode node
      else
        (s0.modNode node fun n => n.setRound
          { r with from_ := r.from_.map fun f => if hit f then (f.1, f.2.1, f.2.2.1, f.2.2.2.1, f.2.2.2.2.1, false) else f }).foldNode node

/-! ### Results (R165, R167, R168) -/

/-- A result chunk's bytes go behind those that the members' messages already hold (R165). -/
def Ent.extend (e : Ent) (l : List Byte) : Ent := { e with buf := match e.buf with | .bytes x => .bytes (x ++ l) | b => b }

/-- Bytes of a streamed result that the window holds: those that some member has still to take (R165). -/
def State.windowed (s : State) (node : Nat) (g : BitVec 16) (r : Nat) (have_ : Nat) : Nat :=
  (s.resultEnts node g r).foldl (fun m e =>
    let done := if e.granted != 0 && decide (e.granted ≤ e.took) then have_ else e.took
    max m (have_ - done)) 0

/-- Opens a message of a round's result to each member (R168). -/
def State.openResults (s : State) (node : Nat) (e : GEntry) (r : HRound) (l : List Byte) : State :=
  r.from_.foldl (fun st f =>
    let key := nodeKey node
    let n := st.getNi key
    let x : Ent :=
      { Ent.fresh n.nextId .send with
        rank := f.2.1, tag := f.2.2.1, group := e.group, len := e.outLen, buf := .bytes l, detached := true, xid := n.nextXid
        cookie := BitVec.ofNat 64 r.round, rcd := { Rec.zero with source := f.2.1, tag := f.2.2.1, group := e.group } }
    st.modNi key fun n => { n with ents := n.ents ++ [x], nextId := n.nextId + 1, nextXid := n.nextXid + 1 }) s

/-- A row node takes a result chunk, and delivers the result when it has every chunk; a streamed one goes out from its first chunk on
(R165, R168). -/
def State.takeResult (s : State) (e : GEntry) (c : HChunk) : State :=
  let r := (s.getNode c.node).round c.group c.round
  let key := nodeKey c.node
  let all := decide (r.result.length + 1 = e.chunks)
  let r1 := { r with result := r.result ++ [(c.chunk, if e.streamed then [] else c.data)], sent := all }
  let s1 := s.modNode c.node fun h => h.setRound r1
  if e.streamed then
    (if r.result.isEmpty then (s1.openResults c.node e r1 c.data).pump key
     else s1.modNi key fun n => { n with ents := n.ents.map fun x =>
       if x.group == c.group && x.cookie == BitVec.ofNat 64 c.round then x.extend c.data else x })
  else if all then (s1.openResults c.node e r1 (r1.result.flatMap fun x => x.2)).pump key
  else s1

/-- Whether a node may take the first result chunk that waits there: a row node's window has room, or every child of another node has (R165,
R167). -/
def State.mayPass (s : State) (e : GEntry) (c : HChunk) : Bool :=
  if 64 ≤ c.node then (List.range 16).all fun i => !e.child.getLsbD i || s.roomBelow (nodeChild c.node i) c.group
  else !e.streamed || decide (s.windowed c.node c.group c.round (c.chunk * 32 * haloSize e.otyp) + c.data.length ≤ 65536)

/-- The first result chunks that wait at a node, of each group, go on where they have room: taken by a row node, passed down by another
(R165, R167). -/
def State.passNode (s : State) (node : Nat) : Nat → State
  | 0 => s
  | fuel + 1 =>
    let h := s.getNode node
    let first (c : HChunk) : Bool := (h.down.find? fun d => d.group == c.group) == some c
    match h.down.findSome? fun c => if first c then (match h.entry c.group with
        | some e => if s.mayPass e c then some (c, some e) else none
        | none => some (c, none)) else none with
    | none => s
    | some (c, e) =>
      let s1 := s.modNode node fun h => { h with down := h.down.erase c }
      let s2 := match e with
        | none => s1
        | some e => if 64 ≤ node then s1.sendDown node s.cycle e c else s1.takeResult e c
      s2.passNode node fuel

/-- HRESULT: the chunk joins those that wait at the node (R165, R167, R168). -/
def State.resultChunk (s : State) (c : HChunk) : State :=
  match (s.getNode c.node).entry c.group with
  | none => s
  | some _ => (s.modNode c.node fun h => { h with down := h.down ++ [c] }).passNode c.node ((s.getNode c.node).down.length + 1)
def execHresult (c : HChunk) (s : State) : Out := .next (s.resultChunk c)

/-- What a node does by itself in a cycle: rounds that everyone has taken are freed, results that had no room go on, and the combining unit takes
up a chunk (R160, R165, R167, R168). -/
def State.serveNode (s : State) (node : Nat) : State :=
  let s1 := if node < 64 then s.freeRounds node else s
  (s1.passNode node (s1.getNode node).down.length).foldNode node

/-! ### Failed nodes (R420, R421) -/

/-- The level of a node in its record, with its die and row above (R420). -/
def nodeDetail (n : Nat) : Word := BitVec.ofNat 64 (if n < 64 then 1 + n * 4 else if n < 68 then 2 + (n - 64) * 16 * 4 else 3)

/-- What an interface holds of a rendezvous from `own` whose data has not come: its header, kept or waiting for a mailbox, or a receive that has
taken it. -/
def Ni.awaits (n : Ni) (own : Rank) (xid : W32) : Bool :=
  let kept (u : Unexp) : Bool := u.hdr.src == own && u.hdr.xid == xid && (u.hdr.kind == 0x02 || u.conv)
  n.unexp.any kept || n.ents.any fun x =>
    x.boxq.any kept || (x.kind.isRecv && x.phase == .granted && x.peer == own && x.peerXid == xid && x.hdr.isSome)

/-- An interface forgets a message that its sender has withdrawn; a receive that had taken it is posted as before. -/
def Ni.withoutMessage (n : Ni) (own : Rank) (xid : W32) : Ni :=
  let other (u : Unexp) : Bool := !(u.hdr.src == own && u.hdr.xid == xid)
  { n with
    unexp := n.unexp.filter other
    ents := n.ents.map fun x =>
      let y := { x with boxq := x.boxq.filter other }
      if x.kind.isRecv && x.phase == .granted && x.peer == own && x.peerXid == xid && x.hdr.isSome then
        { y with phase := .posted, hdr := none, granted := 0, sent := 0, chunks := 0, cts := false, beat := false, stage := [] }
      else y }

/-- Whether a member has still to take a result message: its interface has not accepted the first packet, or the data has not come (R168, R420). -/
def State.resultOpen (s : State) (node : Nat) (e : Ent) : Bool :=
  let own := s.niRank (nodeKey node)
  let t := s.getTile (rankEp e.rank)
  let want := Sparse.get 0 t.ni.seqIn (seqKey own e.group)
  !(e.seq.elim false fun q => (q - want).msb) || t.ni.awaits own e.xid || t.shadow.elim false fun c => c.ni.awaits own e.xid

/-- Whether a member has not taken the result of a round; `streamed` results are opened with their first chunk (R165, R420). -/
def State.untaken (s : State) (node : Nat) (streamed : Bool) (r : HRound) (rank : Rank) (tag : W32) : Bool :=
  match (s.resultEnts node r.group r.round).find? fun e => e.rank == rank && e.tag == tag with
  | some e => s.resultOpen node e
  | none => !(r.sent || (streamed && !r.result.isEmpty))

/-- A zero-length message of an aborted round to one member, which replaces a result that it has not taken: that one's packets and its header are
withdrawn, and its SEQ is used again (R420; log 98). -/
def State.abortMember (s : State) (node : Nat) (streamed : Bool) (r : HRound) (rank : Rank) (tag : W32) : State :=
  if !s.untaken node streamed r rank tag then s
  else
    let key := nodeKey node
    let own := s.niRank key
    let ep := rankEp rank
    let old (st : State) : State :=
      match (st.resultEnts node r.group r.round).find? fun e => e.rank == rank && e.tag == tag with
      | none => st
      | some e =>
        let is (v : Ev) : Bool := (v.inner?.map fun p => p.hdr.src == own && p.hdr.dest == rank && p.hdr.xid == e.xid).getD false
        let clear (st : State) : State := st.modNi ep fun n => n.withoutMessage own e.xid
        let st1 := { (st.dropEnt key e.id) with torus := st.torus.filter fun t => !is t.ev, sched := st.sched.filter fun x => !is x.2 }
        ((st1.modNi key fun n => { n with waiting := n.waiting.filter fun w => w.1 != e.id }) |> clear).inShadow ep clear
    let s1 := old s
    let n := s1.getNi key
    let x : Ent :=
      { Ent.fresh n.nextId .send with
        rank, tag, group := r.group, detached := true, xid := n.nextXid, rcd := { Rec.zero with source := rank, tag, group := r.group } }
    let waits := n.ents.any fun e => e.rank == rank && e.group == r.group && e.phase == .queued && e.len == 0 && e.buf == .bytes []
    let k := seqKey rank r.group
    let want := Sparse.get 0 (s1.getTile ep).ni.seqIn (seqKey own r.group)
    (s1.modNi key fun n =>
      { n with
        ents := n.ents ++ [x], nextId := n.nextId + 1, nextXid := n.nextXid + 1
        seqOut := if waits then n.seqOut else Sparse.set 0 n.seqOut k want }).pump key

/-- A group with an entry in the failed node: its entries are invalidated everywhere, a record is made, and the members of its aborted
rounds are told in round order (R420). -/
def State.abortGroup (s : State) (g : BitVec 16) (part : Nat) : State :=
  let rounds := (List.range 64).flatMap fun n => ((s.getNode n).rounds.filter fun r => r.group == g).map fun r => (n, r)
  let streamed (n : Nat) : Bool := ((s.getNode n).entry g).elim false GEntry.streamed
  let open_ := rounds.filter fun x => !x.2.sent || x.2.from_.any fun f => s.untaken x.1 (streamed x.1) x.2 f.2.1 f.2.2.1
  let lowest := open_.foldl (fun m x => if m = 0 then x.2.round else min m x.2.round) 0
  let clear (h : HNode) : HNode := { h with entries := h.entries.map fun (e : GEntry) => if e.group = g then { e with valid := false } else e }
  let s1 := ({ s with halo := s.halo.map fun (n : Nat × HNode) => (n.1, clear n.2) }).restartRounds fun x => x == g
  let s2 := s1.log 0x08 1 0x020A Config.haloEp part 0xFFFF 0 0 (g.zeroExtend 64) (BitVec.ofNat 64 lowest)
  (sortBy (fun x : Nat × HRound => x.2.round) open_).foldl (fun st x =>
    x.2.from_.foldl (fun st f => st.abortMember x.1 (streamed x.1) x.2 f.2.1 f.2.2.1) st) s2

/-- HALO_NODE_FAILED (R420). -/
def State.nodeFailed (s : State) (node : Nat) : State :=
  if 69 ≤ node || (s.getNode node).failed then s
  else
    let gs := ((s.getNode node).entries.filter fun e => e.valid).map fun e => (e.group, e.part)
    let s1 := (s.modNode node fun h => { h with failed := true }).log 0x08 1 0x0209 Config.haloEp 0xFFFF 0xFFFF 0 0 (nodeDetail node) 0
    gs.foldl (fun st g => st.abortGroup g.1 g.2) s1
def execHaloNodeFailed (node : Nat) (s : State) : Out := .next (s.nodeFailed node)

end Sys2Proof.Machine
end

