-- ==== Sys2Proof/Machine/Servers.lean ====
section
/-!
DEFINITION. The memory servers (R123 to R129, R134 to R151, R383 to R385, R391, R400 to R406): the order in which a server takes its
shards, translation and its checks, copy-on-write, the requests themselves, and what a shard's result does at the interface that issued
it.
-/
namespace Sys2Proof.Machine

/-! ### Translation (R141 to R144, R400) -/

def pageOf (va : Nat) : Nat := va / 65536 % 2 ^ 32

/-- A context without a descriptor: of no partition (64), with the default PENDLIMIT of 100 ms (R141, R400). -/
def noCtx : CtxDesc := ⟨false, 64, 0, 0, [], false, 100000⟩

/-- A page entry's fields (R142). -/
def peValid (e : Word) : Bool := e.getLsbD 63
def peSro (e : Word) : Bool := e.getLsbD 62
def peCow (e : Word) : Bool := e.getLsbD 61
def peKey (e : Word) : Nat := (e.extractLsb' 44 14).toNat
def peFrame (e : Word) : Nat := (e.extractLsb' 0 20).toNat
def mkPage (frame key : Nat) : Word := BitVec.ofNat 64 (2 ^ 63 + key % 2 ^ 14 * 2 ^ 44 + frame % 2 ^ 20)

/-- The three-level walk of a stack's page tables: the place of the level-3 entry, and the entry (R142). -/
def State.walk (s : State) (stack root pn : Nat) : Option (Nat × Word) :=
  let at_ (a : Nat) : Word := Sparse.get 0 s.tables (stack * 2 ^ 36 + a)
  let table (e : Word) : Nat := (e.extractLsb' 14 22).toNat * 2 ^ 14
  let e1 := at_ (root + 8 * (pn / 2 ^ 22 % 1024))
  if !peValid e1 then none
  else
    let e2 := at_ (table e1 + 8 * (pn / 2 ^ 11 % 2048))
    if !peValid e2 then none
    else
      let a := table e2 + 8 * (pn % 2048)
      if peValid (at_ a) then some (a, at_ a) else none

/-- A server's cached copy of a page entry (R143). -/
def Server.cached (v : Server) (actx pn : Nat) : Option Word := (v.tlb.find? fun t => t.1 == actx && t.2.1 == pn).map fun t => t.2.2

/-- The entry that a walk finds now, which the server caches; a full cache loses the entry that came into it first (R143; log 79). -/
def State.translate (s : State) (k actx pn : Nat) : State × Option Word :=
  match s.walk (k / 16) (Sparse.get noCtx (s.getSrv k).ctx actx).root pn with
  | none => (s, none)
  | some w => (s.modSrv k fun v => { v with tlb := ((actx, pn, w.2) :: v.tlb).take 8192 }, some w.2)

/-- The pages of a shard, in the order of their first byte. -/
def shardPages (q : Shard) : List Nat := q.pieces.foldl (fun l p => let n := pageOf p.va; if l.contains n then l else l ++ [n]) []

/-- What the checks of R400 decide: perform under these entries, or a result, with the address and cause of its record. -/
inductive Verdict where
  | ok (pages : List (Nat × Word))
  | fail (code va cause : Nat)
  deriving DecidableEq, Repr

/-- The first byte's address of a shard. -/
def shardVa (q : Shard) : Nat := (q.pieces.head?.map fun p => p.va).getD 0

/-- Orders 0 to 2 of R400, which need no translation: the failure with its code. What is outstanding of a halted partition's contexts fails
REVOKED (R403). -/
def State.formFail (s : State) (kind : Nat) (q : Shard) : Option Nat :=
  let width := if kind = 6 then applyWidth q.aop else 8
  let d := Sparse.get noCtx (s.getSrv q.srv).ctx q.actx
  if decide (6 ≤ kind) && (decide (width = 0) || decide (shardVa q % width ≠ 0)) then some 0x09
  else if !d.valid then some (if (Sparse.get Part.zero s.parts d.part).halted then 0x0D else 0x08)
  else if s.issuerPart q ≠ some d.part then some 0x09
  else none

/-- The checks of a translated shard, in the order of R400; `again` says that a pending shard is translated once more (R402). -/
def State.verdict (s : State) (w : Waiting) (again : Bool) : Verdict :=
  let q := w.shard
  match s.formFail w.kind q with
  | some code => .fail code (shardVa q) 0
  | none =>
    let d := Sparse.get noCtx (s.getSrv q.srv).ctx q.actx
    let write := writesKind w.kind
    let pages := (shardPages q).map fun pn => (pn, ((w.pages.find? fun p => p.1 == pn).map fun p => p.2).getD none)
    let pend : Nat := if d.pend && !again then 0x80 else 0x08
    let at_ (f : Nat × Option Word → Bool) : Option Nat := (pages.find? f).map fun p => p.1 * 65536
    let on (f : Word → Bool) : Option Nat := at_ fun p => (p.2.map f).getD false
    let cow (e : Word) : Bool := write && peCow e
    let slots (e : Word) : List Nat := if cow e then [peKey e, d.ckey] else [peKey e]
    match at_ fun p => p.2.isNone with
    | some a => .fail (if write then pend else 0x08) a 1
    | none =>
      match on fun e => write && peSro e && !peCow e with
      | some a => .fail 0x08 a 0
      | none =>
        match on fun e => (slots e).any fun k => (Sparse.get none s.keys k).isSome && Sparse.get none s.keys k != some d.part with
        | some a => .fail 0x08 a 0
        | none =>
          match on fun e => (slots e).any fun k => (Sparse.get none s.keys k).isNone with
          | some a => .fail 0x0D a 0
          | none =>
            let copies := pages.filter fun p => (p.2.map cow).getD false
            match (copies.drop d.pool.length).head? with
            | some p => .fail pend (p.1 * 65536) 2
            | none => .ok (pages.map fun p => (p.1, p.2.getD 0))

/-! ### Translation in flight (R143) -/

/-- A shard has what it needs of a page. -/
def Waiting.with_ (w : Waiting) (actx pn : Nat) (e : Option Word) : Waiting :=
  if w.shard.actx = actx && (shardPages w.shard).contains pn && !w.ready && !(w.pages.any fun p => p.1 == pn) then
    { w with pages := w.pages ++ [(pn, e)] }
  else w

/-- The walks whose time has come end: every shard that waits for the page has its entry, or finds it unmapped. -/
def State.endWalks (s : State) (k : Nat) : State :=
  let due := (s.getSrv k).walks.filter fun x => decide (x.2.2 ≤ s.cycle)
  due.foldl (fun st x =>
    let t := st.translate k x.1 x.2.1
    t.1.modSrv k fun v => { v with queue := v.queue.map fun w => w.with_ x.1 x.2.1 t.2 })
    (s.modSrv k fun v => { v with walks := v.walks.filter fun x => decide (s.cycle < x.2.2) })

/-- One shard of the queue goes on with its translation, unless an earlier one of its issuer has not been translated: cached entries are
taken, and walks start while fewer than 32 run. A shard that fails its form, context or partition needs none. -/
def State.translateOne (s : State) (k : Nat) (w0 : Waiting) : State :=
  let v := s.getSrv k
  match v.queue.find? fun x => x.order == w0.order with
  | none => s
  | some w =>
    if w.ready || v.queue.any fun x => x.shard.issuer == w.shard.issuer && decide (x.order < w.order) && !x.ready then s
    else
      let needs := if (s.formFail w.kind w.shard).isSome then [] else (shardPages w.shard).filter fun pn => !w.pages.any fun p => p.1 == pn
      let w1 := needs.foldl (fun (w : Waiting) pn => match v.cached w.shard.actx pn with | some e => w.with_ w.shard.actx pn (some e) | none => w) w
      let rest := needs.filter fun pn => (v.cached w.shard.actx pn).isNone
      let walks := rest.foldl (fun (l : List (Nat × Nat × Nat)) pn =>
        if l.any (fun x => x.1 == w.shard.actx && x.2.1 == pn) || 32 ≤ l.length then l else l ++ [(w.shard.actx, pn, s.cycle + v.walk)]) v.walks
      let w2 := { w1 with ready := rest.isEmpty }
      let v1 := { v with walks, queue := v.queue.map fun x => if x.order = w.order then w2 else x }
      s.modSrv k fun _ => if w2.ready then v1.join w.shard.actx else v1

/-- Translation at a server, in arrival order (R143). -/
def State.translateAll (s : State) (k : Nat) : State :=
  let s1 := s.endWalks k
  (s1.getSrv k).queue.foldl (fun st w => st.translateOne k w) s1

/-- A pending shard is translated again at once, under the entries as they stand (R402). -/
def State.retranslated (s : State) (w : Waiting) : State × Waiting :=
  let r := (shardPages w.shard).foldl (fun (r : State × List (Nat × Option Word)) pn =>
    match (r.1.getSrv w.shard.srv).cached w.shard.actx pn with
    | some e => (r.1, r.2 ++ [(pn, some e)])
    | none => let t := r.1.translate w.shard.srv w.shard.actx pn; (t.1, r.2 ++ [(pn, t.2)])) (s, [])
  (r.1, { w with pages := r.2 })

/-! ### Keys (R144) -/

/-- The key that a slot holds now: the slot and how often it has been loaded. -/
def State.keyOf (s : State) (slot : Nat) : Nat := slot * 2 ^ 32 + Sparse.get 0 s.keyGen slot

/-- Where a burst stands in the stacks, and its tweak: its own address, before the indirection (R144, R152). -/
def State.sealPlace (s : State) (stack burst : Nat) : Nat := (s.getBase stack).cell stack (burst * 64) / 64
def tweakOf (stack burst : Nat) : Nat := stack * 2 ^ 30 + burst

/-- The key and the tweak under which the burst at a place was last written; none for one that nothing has written. -/
def State.sealOf (s : State) (place : Nat) : Option (Nat × Nat) :=
  (s.seals.find? fun x => decide (x.1 ≤ place) && decide (place < x.1 + x.2.1)).map fun x => (x.2.2.1, x.2.2.2 + (place - x.1))

/-- Bursts of one region are now written under a key. -/
def State.seal (s : State) (stack first n key : Nat) : State :=
  let a := s.sealPlace stack first
  { s with seals := (a, n, key, tweakOf stack first) :: s.seals.filter fun x => !(decide (a ≤ x.1) && decide (x.1 + x.2.1 ≤ a + n)) }

/-- Whether a burst reads as it was written: under the same key and the same tweak. -/
def State.opens (s : State) (stack burst key : Nat) : Bool :=
  match s.sealOf (s.sealPlace stack burst) with
  | some x => x == (key, tweakOf stack burst)
  | none => true

/-- Whether every one of `n` bursts of a region reads as it was written, seen at the seals themselves. -/
def State.opensRun (s : State) (stack first n key : Nat) : Bool :=
  let a := s.sealPlace stack first
  (s.seals.filter fun x => decide (x.1 < a + n) && decide (a < x.1 + x.2.1)).all fun x =>
    x.2.2.1 == key && x.2.2.2 + a == tweakOf stack first + x.1

/-- Bytes of a stack as they are read under a key: what was written under another key or tweak reads as anything (log 30). -/
def State.plainBytes (s : State) (stack key phys n : Nat) : List Byte :=
  if s.opensRun stack (phys / 64) ((phys + n + 63) / 64 - phys / 64) key then s.dramBytes stack phys n
  else (s.dramBytes stack phys n).zipIdx.map fun b =>
    if s.opens stack ((phys + b.2) / 64) key then b.1 else Config.free 8 s.fresh (0x3000000000000 + stack * 2 ^ 36 + phys + b.2)

/-- Writes bytes under a key. A burst is read and written whole, so what another key had left of one that is written in part becomes anything. -/
def State.putPlain (s : State) (stack key phys : Nat) (l : List Byte) : State :=
  let first := phys / 64
  let n := (phys + l.length + 63) / 64 - first
  let spoilt := [first, first + n - 1].filter fun b => !s.opens stack b key
  let s1 := spoilt.foldl (fun st b => st.putDram stack (b * 64) (s.plainBytes stack key (b * 64) 64)) s
  (s1.putDram stack phys l).seal stack first n key

/-! ### Performing (R123, R138, R139, R145, R147 to R150, R395, R404) -/

/-- Physical address of a byte under the shard's entries. -/
def physOf (pages : List (Nat × Word)) (va : Nat) : Nat :=
  (((pages.find? fun p => p.1 == pageOf va).map fun p => peFrame p.2).getD 0) * 65536 + va % 65536

/-- A waiting shard that was translated before a copy goes on under the copy's entry (R145). -/
def Waiting.moved (w : Waiting) (k actx pn : Nat) (e : Word) : Waiting :=
  if w.shard.srv = k && w.shard.actx = actx then { w with pages := w.pages.map fun p => if p.1 = pn then (pn, some e) else p } else w

/-- Replaces the entry of a page in the tables and drops the cached copy; requests that wait find the new entry (R145). -/
def State.setPage (s : State) (k actx root pn : Nat) (e : Word) : State :=
  match s.walk (k / 16) root pn with
  | none => s
  | some w =>
    (({ s with tables := Sparse.set 0 s.tables (k / 16 * 2 ^ 36 + w.1) e }).modSrv k fun v =>
      { v with tlb := v.tlb.filter fun t => !(t.1 == actx && t.2.1 == pn), queue := v.queue.map fun (x : Waiting) => x.moved k actx pn e }).modBase (k / 16) fun b =>
      { b with held := b.held.map fun (x : Waiting) => x.moved k actx pn e }

/-- Copies one page into the pool's first frame, under CKEY (R145); the code is 0x0A when the old page cannot be read. -/
def State.copyPage (s : State) (k actx : Nat) (d : CtxDesc) (by_ : Option Requester) (p : Nat × Word) : State × Nat × Word :=
  let stack := k / 16
  let old := peFrame p.2 * 65536
  let r := s.readBursts stack (old / 64) 1024 by_
  if r.2 = 0x0A then (r.1, 0x0A, p.2)
  else
    let frame := ((Sparse.get d (s.getSrv k).ctx actx).pool.headD 0)
    let w := r.1.writeBursts stack (frame * 1024) 1024 true [] by_
    let b := w.1.getBase stack
    let src := b.cell stack old
    let dst := b.cell stack (frame * 65536)
    let moved := (w.1.dram.filter fun c => decide (src ≤ c.1) && decide (c.1 < src + 65536)).foldl
      (fun (m : Memory) c => Sparse.set 0 m (c.1 - src + dst) c.2) (w.1.dram.filter fun c => !(decide (dst ≤ c.1) && decide (c.1 < dst + 65536)))
    let e := mkPage frame d.ckey
    -- what the old page's key does not open is copied as it reads
    let shut := if w.1.opensRun stack (old / 64) 1024 (w.1.keyOf (peKey p.2)) then []
      else (List.range 1024).filter fun i => !w.1.opens stack (old / 64 + i) (w.1.keyOf (peKey p.2))
    let copied := shut.foldl (fun st i =>
      st.putDram stack (frame * 65536 + 64 * i) (w.1.plainBytes stack (w.1.keyOf (peKey p.2)) (old + 64 * i) 64)) { w.1 with dram := moved }
    let s1 := (copied.seal stack (frame * 1024) 1024 (w.1.keyOf d.ckey)).setPage k actx d.root p.1 e
    (s1.modSrv k fun v =>
      { v with ctx := Sparse.set noCtx v.ctx actx { (Sparse.get d v.ctx actx) with pool := (Sparse.get d v.ctx actx).pool.drop 1 } },
      worseCode r.2 w.2, e)

/-- Copies every copy-on-write page of a write shard. -/
def State.copyPages (s : State) (k actx : Nat) (d : CtxDesc) (by_ : Option Requester) (pages : List (Nat × Word)) :
    State × Nat × List (Nat × Word) :=
  pages.foldl (fun (r : State × Nat × List (Nat × Word)) p =>
    if r.2.1 = 0x0A then r
    else if peCow p.2 then
      (let c := r.1.copyPage k actx d by_ p
       (c.1, worseCode r.2.1 c.2.1, r.2.2 ++ [(p.1, c.2.2)]))
    else (r.1, r.2.1, r.2.2 ++ [p])) (s, 0, [])

/-- The bursts that a range of physical bytes touches: the first, and how many. -/
def burstSpan (phys n : Nat) : Nat × Nat := (phys / 64, (phys + n + 63) / 64 - phys / 64)

/-- Reads the pieces of a shard (R395). -/
def State.readPieces (s : State) (stack : Nat) (by_ : Option Requester) (l : List (Nat × Nat)) : State × Nat :=
  l.foldl (fun (r : State × Nat) p =>
    let sp := burstSpan p.1 p.2
    let q := r.1.readBursts stack sp.1 sp.2 by_
    (q.1, worseCode r.2 q.2)) (s, 0)

/-- Whether the ranges cover a burst whole. -/
def coversBurst (l : List (Nat × Nat)) (b : Nat) : Bool :=
  (List.range 64).all fun i => l.any fun p => decide (p.1 ≤ b * 64 + i) && decide (b * 64 + i < p.1 + p.2)

/-- The bursts that a shard writes poisoned: those with a byte whose last write, in element order, comes from a poisoned byte of the source (R139,
R396). A range is its physical address, its length and its place in the buffer. -/
def spoiltBursts (l : List (Nat × Nat × Nat)) (bad : List (Nat × Nat)) : List Nat :=
  let hit (at_ : Nat) : Bool := bad.any fun b => decide (b.1 ≤ at_) && decide (at_ < b.1 + b.2)
  let last (x : Nat) : Bool := (l.reverse.find? fun p => decide (p.1 ≤ x) && decide (x < p.1 + p.2.1)).elim false fun p => hit (p.2.2 + (x - p.1))
  let near : List Nat := l.flatMap fun p => bad.flatMap fun b =>
    let lo := Nat.max p.2.2 b.1
    let hi := Nat.min (p.2.2 + p.2.1) (b.1 + b.2)
    if lo < hi then (let sp := burstSpan (p.1 + (lo - p.2.2)) (hi - lo); (List.range sp.2).map (sp.1 + ·)) else []
  near.eraseDups.filter fun b => (List.range 64).any fun i => last (b * 64 + i)

/-- Writes the ranges of a shard, each under its page's key: parts of bursts are read first, and the shard writes nothing when one of them
cannot be (R139, R395); a later range of the element order wins, and the bursts of `bad` are written poisoned (R396). -/
def State.writePieces (s : State) (stack : Nat) (by_ : Option Requester) (bad : List Nat) (l : List (Nat × Nat)) (data : List (Nat × List Byte)) : State × Nat :=
  let bursts := (l.flatMap fun p => let sp := burstSpan p.1 p.2; [sp.1, sp.1 + sp.2 - 1]).foldl (fun (m : List Nat) b => if m.contains b then m else m ++ [b]) []
  let part := bursts.filter fun b => !coversBurst l b
  let rd := part.foldl (fun (r : State × Nat) b => let q := r.1.readBursts stack b 1 by_; (q.1, worseCode r.2 q.2)) (s, 0)
  if rd.2 = 0x0A then rd
  else
    let whole (p : Nat × Nat) : Nat × Nat := ((p.1 + 63) / 64, (p.1 + p.2) / 64 - (p.1 + 63) / 64)
    let w1 := l.foldl (fun (r : State × Nat) p =>
      let q := r.1.writeBursts stack (whole p).1 (whole p).2 true bad by_
      (q.1, worseCode r.2 q.2)) rd
    let w2 := (bursts.filter fun b => !(l.any fun p => decide ((whole p).1 ≤ b) && decide (b < (whole p).1 + (whole p).2))).foldl
      (fun (r : State × Nat) b =>
        let q := r.1.writeBursts stack b 1 (coversBurst l b) bad by_
        (q.1, worseCode r.2 q.2)) w1
    ((l.zip data).foldl (fun st x => st.putPlain stack x.2.1 x.1.1 x.2.2) w2.1, w2.2)

/-- APPLY on an operand of its width (R149). -/
def applyOp (op : Nat) (old arg : Nat) : Nat :=
  let x : Word := BitVec.ofNat 64 old
  let y : Word := BitVec.ofNat 64 arg
  match op with
  | 0 => (old + arg) % 2 ^ 32
  | 1 => (x + y).toNat
  | 2 => (x &&& y).toNat
  | 3 => (x ||| y).toNat
  | 4 => (x ^^^ y).toNat
  | 5 => (if x.slt y then x else y).toNat
  | 6 => (if x.slt y then y else x).toNat
  | 7 => min old arg
  | 8 => max old arg
  | 9 => y.toNat
  | 10 => (fpAdd 0 (BitVec.ofNat 32 old) (BitVec.ofNat 32 arg)).1.toNat
  | _ => ((XA.ofWire (BitVec.ofNat 512 old)).combine (XA.ofWire (BitVec.ofNat 512 arg))).wire.toNat

/-- Cuts reply bytes into pieces of at most 2,048 bytes (R137). -/
def replyChunks : Nat → Nat → List Byte → List (Nat × List Byte)
  | 0, _, _ => []
  | n + 1, pos, l => if l.isEmpty then [] else (pos, l.take 2048) :: replyChunks n (pos + 2048) (l.drop 2048)

/-- Performs a shard under its entries: the result and the bytes that it returns. A failure leaves memory, tables and pools as they
were (R139, R404); poisoned indexes of a gather and poisoned operands make the result POISONED (R347). -/
def State.performOn (s : State) (kind : Nat) (q : Shard) (pages : List (Nat × Word)) : State × Nat × List (Nat × List Byte) :=
  let k := q.srv
  let stack := k / 16
  let d := Sparse.get noCtx (s.getSrv k).ctx q.actx
  let by_ : Option Requester := some ⟨q.issuer, d.part, q.actx⟩
  let undo (t : State) : State := { t with dram := s.dram, seals := s.seals, tables := s.tables, srv := s.srv }
  let spoilt (r : Nat) : Nat := if q.poisoned.isEmpty then r else worseCode r 6
  let keyAt (pages : List (Nat × Word)) (va : Nat) : Nat := s.keyOf (((pages.find? fun p => p.1 == pageOf va).map fun p => peKey p.2).getD 0)
  if !writesKind kind then
    let l := q.pieces.map fun p => (physOf pages p.va, p.len)
    let r := s.readPieces stack by_ l
    if r.2 = 0x0A then (r.1, 0x0A, [])
    else (r.1, spoilt r.2, q.pieces.flatMap fun p => replyChunks (p.len / 2048 + 1) p.pos (r.1.plainBytes stack (keyAt pages p.va) (physOf pages p.va) p.len))
  else
    let c := s.copyPages k q.actx d by_ pages
    if c.2.1 = 0x0A then (undo c.1, 0x0A, [])
    else if kind < 6 then
      let l := q.pieces.map fun p => (physOf c.2.2 p.va, p.len)
      let data := (q.pieces.foldl (fun (r : List (List Byte) × List Byte) p => (r.1 ++ [r.2.take p.len], r.2.drop p.len)) ([], q.data)).1
      let w := c.1.writePieces stack by_ (spoiltBursts (q.pieces.map fun p => (physOf c.2.2 p.va, p.len, p.pos)) q.poisoned) l ((q.pieces.map fun p => keyAt c.2.2 p.va).zip data)
      if w.2 = 0x0A then (undo w.1, 0x0A, []) else (w.1, worseCode c.2.1 w.2, [])
    else
      let n := if kind = 6 then applyWidth q.aop else 8
      let phys := physOf c.2.2 (shardVa q)
      let r := c.1.readPieces stack by_ [(phys, n)]
      if r.2 = 0x0A then (undo r.1, 0x0A, [])
      else
        let key := keyAt c.2.2 (shardVa q)
        let old := r.1.plainBytes stack key phys n
        let new : Option (List Byte) :=
          if kind = 6 then some (toBytes n (applyOp q.aop (ofBytes old) (ofBytes (q.data.take n))))
          else if old = q.data.take 8 then some ((q.data.drop 8).take 8) else none
        match new with
        | none => (r.1, spoilt (worseCode c.2.1 r.2), [(0, old)])
        | some l =>
          let w := r.1.writeBursts stack (phys / 64) 1 (decide (n = 64)) (if q.poisoned.isEmpty then [] else [phys / 64]) by_
          (w.1.putPlain stack key phys l, worseCode c.2.1 (worseCode r.2 w.2), [(0, old)])

/-! ### Answers (R137, R140, R384, R391) -/

/-- Fills packets of 2,048 bytes densely with the pieces of a gather, in element order; `room` is what the first still takes (R146). -/
def densePackets : Nat → Nat → List (Nat × List Byte) → List (List (Nat × List Byte))
  | 0, _, _ => []
  | _, _, [] => []
  | n + 1, room, c :: l =>
    if c.2.isEmpty then densePackets n room l
    else if room = 0 then [] :: densePackets n 2048 (c :: l)
    else
      let part := (c.1, c.2.take room)
      let rest := if c.2.length ≤ room then l else (c.1 + room, c.2.drop room) :: l
      match densePackets n (room - part.2.length) rest with
      | [] => [[part]]
      | p :: ps => (part :: p) :: ps

/-- The SDATA packets of a shard's result: a gathering kind packs its elements densely, the others keep each range's own packets (R137, R146). -/
def dataPackets (kind : Nat) (l : List (Nat × List Byte)) : List (List (Nat × List Byte)) :=
  if kind = 2 || kind = 4 then (densePackets (4 * l.length + 1024) 2048 l).filter fun p => !p.isEmpty else l.map fun c => [c]

/-- Sends a shard's SDATA and SDONE. -/
def State.answerShard (s : State) (kind : Nat) (r : Reply) : State :=
  let ep := 0x400 + r.srv
  let s1 := (dataPackets kind r.chunks).foldl (fun st c => st.inject (.sdata { r with chunks := c } firstInterval) ep (rankEp r.dest)) s
  s1.inject (.sdone { r with chunks := [] } firstInterval) ep (rankEp r.dest)

def shardReply (q : Shard) (result bytes stamp : Nat) (chunks : List (Nat × List Byte)) : Reply :=
  ⟨q.issuer, q.srv, q.xid, q.no, result, bytes, chunks, stamp, false⟩

/-- Whether a shard of an issuer has still to be performed at a server: waiting, pending, held, asked for again, or held by a swap. -/
def State.owes (s : State) (k : Nat) (issuer : Rank) : Bool :=
  let v := s.getSrv k
  v.queue.any (fun x => x.shard.issuer == issuer) || v.pending.any (fun x => x.1.shard.issuer == issuer) || v.held.any (fun x => x.shard.issuer == issuer) ||
    v.resend.any (fun x => x.1 == issuer) || (s.getBase (k / 16)).held.any (fun h => h.shard.srv == k && h.shard.issuer == issuer)

/-- Echoes the probes that wait for nothing any more (R127). -/
def State.echoes (s : State) (k : Nat) : State :=
  let v := s.getSrv k
  let due := v.fences.filter fun i => !s.owes k i.1
  due.foldl (fun st i => st.inject (.echo (rankEp i.1) k i.2 firstInterval) (0x400 + k) (rankEp i.1))
    (s.modSrv k fun v => { v with fences := v.fences.filter fun i => s.owes k i.1 })

/-- A record of a server (R326, R398, R400). -/
def State.logSrv (s : State) (q : Shard) (code va : Nat) (d0 : Word) : State :=
  s.log 0x03 1 code (0x400 + q.srv) ((s.issuerPart q).getD 0xFFFF) q.actx va 0 d0 (BitVec.ofNat 64 q.xid)
def State.shardWord (s : State) (q : Shard) : Word := BitVec.ofNat 64 (q.no + (s.rankOf (0x400 + q.srv)).toNat * 2 ^ 32)

/-- Whether a reply to a shard is still on its way: a stopped tile refuses it and it is sent again (R373). -/
def State.replying (s : State) (issuer : Rank) (xid no : Nat) : Bool :=
  let is (e : Ev) : Bool := match e with
    | .sdata r _ => r.dest == issuer && r.xid == xid && r.no == no
    | .sdone r _ => r.dest == issuer && r.xid == xid && r.no == no
    | _ => false
  s.torus.any (fun t => is t.ev) || s.sched.any fun x => is x.2

/-- Whether the issuer of a shard still waits for its result. -/
def State.wants (s : State) (issuer : Rank) (xid no : Nat) : Bool :=
  let is (n : Ni) : Bool := n.ents.any fun e =>
    e.kind.isReq && e.phase != .done && e.xid.toNat == xid && e.shards.any fun x => x.shard.no == no && x.code.isNone
  let ep := rankEp issuer
  is (s.getNi ep) || (isTile ep && (match (s.getTile ep).shadow with | some c => is c.ni | none => false))

/-- A shard has its final result: answered, remembered if performed, its notify sent, what waited behind it let go (R140, R384). The record
of performed shards keeps one for 4 × SHARDTO, and for as long as its issuer may ask for it again (log 32). -/
def State.finish (s : State) (kind : Nat) (q : Shard) (result : Nat) (chunks : List (Nat × List Byte)) : State :=
  let k := q.srv
  let ok := result == 0 || result == 1 || result == 6
  let stamp := (s.getSrv k).stamp + 1
  let rep := shardReply q result (if ok then piecesLen q.pieces else 0) stamp chunks
  let keep := 4000 * s.param (s.issuerPart q) 5
  let s1 := s.modSrv k fun v =>
    { v with
      stamp
      wrote := if ok && writesKind kind then (v.wrote.filter fun w => !(w.1 == q.actx && (shardPages q).contains w.2.1)) ++ (shardPages q).map fun p => (q.actx, p, stamp) else v.wrote
      log := (v.log.filter fun x => decide (s.time ≤ x.2.2.2.2 + keep) || s.replying x.1 x.2.1 x.2.2.1 || s.wants x.1 x.2.1 x.2.2.1) ++ (if ok then [(q.issuer, q.xid, q.no, rep, s.time)] else [])
      resend := v.resend.filter fun x => !(x.1 == q.issuer && x.2.1 == q.xid && x.2.2 == q.no) }
  let s1 := if result = 6 && !q.poisoned.isEmpty then s1.logSrv q 6 (shardVa q) (s1.shardWord q) else s1
  let s2 := s1.answerShard kind rep
  let s3 := match q.notify with
    | some n => if ok then s2.serviceSend (0x400 + k) n.1 n.2 q.group [] 0 else s2
    | none => s2
  (s3.releaseHeld k q.issuer).echoes k

/-- A shard that is not performed (R391, R400). -/
def State.failShard (s : State) (kind : Nat) (q : Shard) (code va : Nat) : State :=
  let s1 := if code = 0x08 || code = 0x0D then s.logSrv q code va (s.shardWord q) else s
  s1.finish kind q code []

/-- Holds a shard and lets the issuer know every 20 µs (R391, R402, R406; log 31). -/
def State.holdLater (s : State) (q : Shard) : State :=
  { s with sched := s.sched ++ [(s.cycle + s.cyclesOf 20000, .swapHold q.srv q.issuer q.xid q.no)] }

/-- The checks of a shard and, if they hold, its performance (R400, R402, R406, R408). -/
def State.performShard (s : State) (w : Waiting) (again : Bool) : State :=
  let q := w.shard
  let kind := w.kind
  match s.verdict w again with
  | .fail code a cause =>
    if code = 0x80 then
      if 64 ≤ (s.getSrv q.srv).pending.length then s.failShard kind q 0x08 a
      else
        let d := Sparse.get noCtx (s.getSrv q.srv).ctx q.actx
        let s1 := (s.modSrv q.srv fun v => { v with pending := v.pending ++ [(w, s.time, pageOf a, cause)] }).logSrv q 0x0208 a (BitVec.ofNat 64 cause)
        let s2 := s1.answerShard kind (shardReply q 0x80 0 0 [])
        { s2 with sched := s2.sched ++ [(s2.cycle + s2.cyclesOf (1000 * d.pendLimit), .pendlimitExpiry q.srv q.issuer q.xid q.no)] }
    else s.failShard kind q code a
  | .ok pages =>
    let stack := q.srv / 16
    let frames := pages.map (fun p => peFrame p.2) ++
      (if writesKind kind then
        ((Sparse.get noCtx (s.getSrv q.srv).ctx q.actx).pool.take (pages.filter fun p => peCow p.2).length)
       else [])
    let regions := frames.foldl (fun (l : List Nat) f => let r := f / 32 % 32768; if l.contains r then l else l ++ [r]) []
    let swapped := match (s.getBase stack).busy with
      | some b => regions.any fun r => r == b.1 || r == b.2
      | none => false
    if swapped then (s.modBase stack fun b => { b with held := b.held ++ [w] }).holdLater q
    else
      let s1 := regions.foldl (fun st r => (st.useEntry stack r).countRequest stack r) s
      if regions.any fun r => (s1.getBase stack).frozen.contains r then
        (s1.logSrv q 0x0A (shardVa q) (s1.shardWord q)).failShard kind q 0x0A (shardVa q)
      else
        let r := s1.performOn kind q pages
        r.1.finish kind q r.2.1 r.2.2

/-- A write to a page of a read has been performed since the stamp that its re-request names (R384). -/
def Server.overwritten (v : Server) (q : Shard) : Bool :=
  match q.rereq with
  | some stamp => v.wrote.any fun w => w.1 == q.actx && (shardPages q).contains w.2.1 && decide (stamp < w.2.2)
  | none => false

/-- A server takes one shard (R383, R384, R402, R406): one whose CRC fails is asked for again, one that stands here is left, one that waits behind
an earlier one of its issuer is held, one that has been performed is answered from the record, and any other is performed. -/
def State.takeShard (s : State) (w : Waiting) : State :=
  let q := w.shard
  let kind := w.kind
  let k := q.srv
  let v := s.getSrv k
  let me (i : Rank) (x n : Nat) : Bool := i == q.issuer && x == q.xid && n == q.no
  let mine (x : Shard) : Bool := me x.issuer x.xid x.no
  let known := v.log.find? fun x => me x.1 x.2.1 x.2.2.1
  let here := v.pending.any (fun x => mine x.1.shard) || v.held.any (fun x => mine x.shard) ||
    (s.getBase (k / 16)).held.any (fun h => h.shard.srv == k && mine h.shard)
  let asked := v.resend.any fun x => me x.1 x.2.1 x.2.2
  if q.damaged then
    (if known.isSome || here || asked then s else s.modSrv k fun v => { v with resend := v.resend ++ [(q.issuer, q.xid, q.no)] }).answerShard kind
      (shardReply q 0x82 0 0 [])
  else
    match known with
    | some x =>
      (match q.rereq with
       | none => s.answerShard kind { x.2.2.2.1 with damaged := false }
       | some _ =>
         if writesKind kind then s.answerShard kind { x.2.2.2.1 with damaged := false }
         else if v.overwritten q then (s.logSrv q 0x0A (shardVa q) (s.shardWord q)).answerShard kind (shardReply q 0x0A 0 0 [])
         else s.performShard w false)
    | none =>
      if here then s
      else if s.isBehind q then (s.modSrv k fun v => { v with held := v.held ++ [{ w with pages := [], ready := false }] }).holdLater q
      else if !writesKind kind && v.overwritten q then (s.logSrv q 0x0A (shardVa q) (s.shardWord q)).finish kind q 0x0A []
      else s.performShard w false

/-! ### Pending shards that fail (R402, R403) -/

/-- Fails the pending shards of a server that `f` selects (R402, R403). -/
def State.failPending (s : State) (k code : Nat) (f : Shard → Bool) : State :=
  let l := (s.getSrv k).pending.filter fun x => f x.1.shard
  l.foldl (fun st x =>
    (st.modSrv k fun v => { v with pending := v.pending.filter fun y => y != x }).failShard x.1.kind x.1.shard code (shardVa x.1.shard)) s

/-- The pending shards that `f` selects and that have been pending for PENDLIMIT, as it stands now, fail FAULT (R402). -/
def State.expireSome (s : State) (k : Nat) (f : Shard → Bool) : State :=
  let limit (q : Shard) : Nat := 1000 * (Sparse.get noCtx (s.getSrv k).ctx q.actx).pendLimit
  let due := (s.getSrv k).pending.filter fun x => f x.1.shard && decide (x.2.1 + limit x.1.shard ≤ s.time)
  if due.isEmpty then s else s.failPending k 0x08 fun q => due.any fun x => x.1.shard == q
def State.expire (s : State) (k : Nat) : State := s.expireSome k fun _ => true

/-! ### The order of service (R151) -/

/-- The visit to the head of the ring ends with an empty queue: its deficit is zero, and the next visit begins (R151). -/
def Server.dropHead (v : Server) : Server :=
  match v.ring with
  | [] => v
  | c :: rest =>
    let w := { v with ring := rest, deficit := Sparse.set 0 v.deficit c 0 }
    match rest with
    | d :: _ => { w with deficit := Sparse.set 0 w.deficit d (Sparse.get 0 w.deficit d + 4096) }
    | [] => w

/-- The next translated shard under deficit round-robin, with fuel for the visits. -/
def Server.choose (v : Server) : Nat → Option Waiting × Server
  | 0 => (none, v)
  | n + 1 =>
    match v.ring with
    | [] => (none, v)
    | c :: rest =>
      match v.queue.find? fun x => x.ready && x.shard.actx == c with
      | none => v.dropHead.choose n
      | some x =>
        let size := piecesLen x.shard.pieces
        let have_ := Sparse.get 0 v.deficit c
        if size ≤ have_ then
          let w := { v with queue := v.queue.erase x, deficit := Sparse.set 0 v.deficit c (have_ - size) }
          (some x, if w.queue.any fun y => y.ready && y.shard.actx == c then w else w.dropHead)
        else
          let ring := rest ++ [c]
          let d := ring.headD c
          { v with ring, deficit := Sparse.set 0 v.deficit d (Sparse.get 0 v.deficit d + 4096) }.choose n

/-- A shard that was asked for again or lost, and whose issuer has given it up since, holds nothing back any more (R384). -/
def State.forgetAsked (s : State) (k : Nat) : State :=
  let gone := (s.getSrv k).resend.filter fun x => !s.wants x.1 x.2.1 x.2.2
  gone.foldl (fun st x => st.releaseHeld k x.1) (s.modSrv k fun v => { v with resend := v.resend.filter fun x => !gone.contains x })

/-- A server that is free takes its next shard (R151); it is busy for the time its bytes take at 192 GB/s. In
D3hot the stacks only refresh themselves (R317). -/
def State.serve (s0 : State) (k : Nat) : State :=
  if (s0.getSrv k).out || s0.mgmt.d3hot then s0
  else
    let s := ((s0.expire k).forgetAsked k).translateAll k
    let v := s.getSrv k
    if s.cycle < v.busy then s
    else
      match v.choose (300 * (v.ring.length + 1)) with
      | (none, w) => s.modSrv k fun _ => w
      | (some x, w) =>
        let s1 := (s.modSrv k fun _ => { w with busy := s.cycle + 1 + piecesLen x.shard.pieces / 107 }).takeShard x
        s1.echoes k

/-- A shard reaches its server, is translated, and is taken when its turn comes (R123, R124, R143, R151); one of which an earlier packet was lost
or damaged fails its CRC (R383). -/
def State.arriveShard (s : State) (kind : Nat) (q : Shard) : State :=
  if (s.getSrv q.srv).out || 192 ≤ q.srv then s
  else
    let me := (q.issuer, q.xid, q.no)
    let q' := if (s.getSrv q.srv).broken.contains me then { q with damaged := true } else q
    (s.modSrv q.srv fun v =>
      { v with
        broken := v.broken.filter (· != me)
        queue := v.queue ++ [⟨kind, q', v.arrivals, [], false⟩]
        arrivals := v.arrivals + 1 }).serve q.srv

/-- QGET (R138). -/
def execQget (q : Shard) (s : State) : Out := .next (s.arriveShard 0 q)
/-- QPUT (R138, R140). -/
def execQput (q : Shard) (s : State) : Out := .next (s.arriveShard 1 q)
/-- QGETB (R147). -/
def execQgetb (q : Shard) (s : State) : Out := .next (s.arriveShard 2 q)
/-- QPUTB (R147). -/
def execQputb (q : Shard) (s : State) : Out := .next (s.arriveShard 3 q)
/-- QGATH (R148). -/
def execQgath (q : Shard) (s : State) : Out := .next (s.arriveShard 4 q)
/-- QSCAT (R148). -/
def execQscat (q : Shard) (s : State) : Out := .next (s.arriveShard 5 q)
/-- APPLY with an operation (R149). -/
def State.arriveApply (s : State) (op : Nat) (q : Shard) : State := s.arriveShard 6 { q with aop := op }
def execApplyAdd32 (q : Shard) (s : State) : Out := .next (s.arriveApply 0 q)
def execApplyAdd64 (q : Shard) (s : State) : Out := .next (s.arriveApply 1 q)
def execApplyAnd64 (q : Shard) (s : State) : Out := .next (s.arriveApply 2 q)
def execApplyOr64 (q : Shard) (s : State) : Out := .next (s.arriveApply 3 q)
def execApplyXor64 (q : Shard) (s : State) : Out := .next (s.arriveApply 4 q)
def execApplySmin64 (q : Shard) (s : State) : Out := .next (s.arriveApply 5 q)
def execApplySmax64 (q : Shard) (s : State) : Out := .next (s.arriveApply 6 q)
def execApplyUmin64 (q : Shard) (s : State) : Out := .next (s.arriveApply 7 q)
def execApplyUmax64 (q : Shard) (s : State) : Out := .next (s.arriveApply 8 q)
def execApplySwap64 (q : Shard) (s : State) : Out := .next (s.arriveApply 9 q)
def execApplyFadd32 (q : Shard) (s : State) : Out := .next (s.arriveApply 10 q)
def execApplyXadd (q : Shard) (s : State) : Out := .next (s.arriveApply 11 q)
/-- A reserved operation is answered DENIED and changes nothing (R149, R400). -/
def execApplyReserved (q : Shard) (s : State) : Out := .next (s.arriveApply (12 + q.aop % 4) q)
/-- QCAS (R150). -/
def execQcas (q : Shard) (s : State) : Out := .next (s.arriveShard 7 q)

/-- FENCE_PROBE: echoed once every earlier request of the tile has been performed or has failed (R127, R402). -/
def execFenceProbe (srv : Nat) (probe : Probe) (s : State) : Out :=
  .next (if (s.getSrv srv).out then s else (s.modSrv srv fun v => { v with fences := v.fences ++ [(probe.issuer, probe.no)] }).echoes srv)

/-! ### Pending and held shards (R402, R406) -/

/-- Translates pending shards again, in arrival order, this time without pending (R402): those that `f` selects by their shard, page and cause. -/
def State.retranslate (s : State) (k : Nat) (f : Shard → Nat → Nat → Bool) : State :=
  let l := (s.getSrv k).pending.filter fun x => f x.1.shard x.2.2.1 x.2.2.2
  l.foldl (fun st x =>
    let t := (st.modSrv k fun v => { v with pending := v.pending.filter fun y => y != x }).retranslated x.1
    ((t.1.performShard t.2 true).releaseHeld k x.1.shard.issuer).echoes k) s

/-- PENDLIMIT_EXPIRY (R402). -/
def State.pendExpired (s : State) (srv : Nat) (issuer : Rank) (xid no : Nat) : State :=
  s.expireSome srv fun q => q.issuer == issuer && q.xid == xid && q.no == no
def execPendlimitExpiry (srv : Nat) (issuer : Rank) (xid no : Nat) (s : State) : Out := .next (s.pendExpired srv issuer xid no)

/-- SWAP_HOLD: a shard that is still held is answered HOLD, and again 20 µs later (R406). -/
def State.stillHeld (s : State) (srv : Nat) (issuer : Rank) (xid no : Nat) : State :=
  let me (q : Shard) : Bool := q.srv == srv && q.issuer == issuer && q.xid == xid && q.no == no
  match ((s.getSrv srv).held ++ (s.getBase (srv / 16)).held).find? fun x => me x.shard with
  | some x => (s.answerShard x.kind (shardReply x.shard 0x81 0 0 [])).holdLater x.shard
  | none => s
def execSwapHold (srv : Nat) (issuer : Rank) (xid no : Nat) (s : State) : Out := .next (s.stillHeld srv issuer xid no)

/-! ### Results at the interface (R137, R320, R383 to R385, R391) -/

/-- A shard is nowhere any more at its server nor on its way to it. -/
def State.dropShard (s : State) (q : Shard) : State :=
  let mine (x : Shard) : Bool := x.issuer == q.issuer && x.srv == q.srv && x.xid == q.xid && x.no == q.no
  let s1 := s.modSrv q.srv fun v =>
    { v with
      queue := v.queue.filter fun w => !mine w.shard
      held := v.held.filter fun w => !mine w.shard
      pending := v.pending.filter fun w => !mine w.1.shard
      resend := v.resend.filter fun r => !(r.1 == q.issuer && r.2.1 == q.xid && r.2.2 == q.no) }
  let s2 := s1.modBase (q.srv / 16) fun b => { b with held := b.held.filter fun w => !mine w.shard }
  { s2 with torus := s2.torus.filter fun t => match t.ev with | .shard _ x => !mine x | .shardPart _ x => !mine x | _ => true }

/-- The interface gives a shard up after its fourth failed attempt: what has not been performed is not performed any more, and what waits behind it
is let go (R384, R385). A write that the server has performed, and of which only the answers were damaged, is reported performed (R330; log 32). -/
def State.abandon (s : State) (key : Nat) (e : Ent) (x : ShardSt) : State :=
  let q := x.shard
  let done := if writesKind e.kind.shardKind then (s.getSrv q.srv).recorded q.issuer q.xid q.no else none
  let s1 := (((s.dropShard q).releaseHeld q.srv q.issuer).echoes q.srv)
  match done with
  | some r => (r.chunks.foldl (fun st c => st.recvBytes key e.buf c.1 c.2) s1).settle key e.id q.no 0x0A true
  | none => s1.settle key e.id q.no 0x0A false

/-- A CRC failure, with its record: re-requested at once, given up after four attempts (R326, R383, R385; log 17). -/
def State.crcFailed (s : State) (key : Nat) (e : Ent) (x : ShardSt) (stamp : Option Nat) : State :=
  if x.attempts < 4 then (s.logShard key x.shard 1 0x0001).resend key e.id x stamp else (s.logShard key x.shard 1 0x000A).abandon key e x

/-- The entry and shard that a reply names. -/
def Ni.shardOf (n : Ni) (r : Reply) : Option (Ent × ShardSt) :=
  match n.ents.find? fun e => e.kind.isReq && e.xid.toNat == r.xid && e.phase != .done with
  | none => none
  | some e => (e.shards.find? fun x => x.shard.no == r.no && x.shard.srv == r.srv && x.code.isNone).map fun x => (e, x)

/-- Whether an interface refuses a reply for now: stopped, or its entry stands in a suspended context (R49, R373). -/
def State.replyHeld (s : State) (key : Nat) (r : Reply) : Bool :=
  if !isTile key then false
  else
    let t := s.getTile key
    t.refusal == some 0 || t.run == .loading && (s.ent key 0).isNone ||
      ((t.ni.shardOf r).isNone && (match t.shadow with | some c => (c.ni.shardOf r).isSome | none => false))

/-- The interface's key of a reply; a tile that loads takes the replies of its image fetch (R40). -/
def State.replyStop (s : State) (key : Nat) (r : Reply) : Bool :=
  s.replyHeld key r && !(isTile key && (s.getTile key).run == .loading && (s.getNi key).ents.any fun e => e.id == 0 && e.xid.toNat == r.xid)

/-- Sends a refused reply again later (R371, R373). -/
def State.replyLater (s : State) (ev : Nat → Ev) (interval : Nat) : State :=
  { s with sched := s.sched ++ [(s.cycle + s.cyclesOf interval, ev (min (2 * interval) 256000))] }

/-- SDATA: the bytes wait for the SDONE, since a shard that is not performed leaves none in the buffer (R137, R391); a damaged packet spoils the
CRC of that SDONE (R383). -/
def State.dataReply (s : State) (r : Reply) (interval : Nat) : State :=
  let key := rankEp r.dest
  if s.replyStop key r then s.replyLater (.sdata r) interval
  else
    match (s.getNi key).shardOf r with
    | none => s
    | some x =>
      s.modEnt key x.1.id fun e => { e with shards := e.shards.map fun y =>
        if y.shard.no = x.2.shard.no then
          { y with
            spoiled := y.spoiled || r.damaged
            data := if r.damaged then y.data else (y.data.filter fun c => !r.chunks.any fun d => d.1 == c.1) ++ r.chunks }
        else y }

/-- Whether everything that an SDONE's CRC covers has come whole (R383): for a shard that returns bytes, all that it performed. -/
def ShardSt.whole (x : ShardSt) (kind : Nat) (r : Reply) : Bool :=
  !r.damaged && !x.spoiled && (!(r.result == 0 || r.result == 1 || r.result == 6) || (writesKind kind && kind < 6) ||
    (x.data.foldl (fun n c => n + c.2.length) 0) == r.bytes)
def execSdata (r : Reply) (s : State) : Out := .next (s.dataReply r firstInterval)

/-- SDONE (R391); a shard performed after an attempt without an answer makes a record of a corrected failure (R326). -/
def State.doneReply (s : State) (r : Reply) (interval : Nat) : State :=
  let key := rankEp r.dest
  let early := s.sched.any fun e => match e.2 with | .sdata q _ => q.dest == r.dest && q.xid == r.xid && q.no == r.no | _ => false
  if s.replyStop key r || early then s.replyLater (.sdone r) interval
  else
    match (s.getNi key).shardOf r with
    | none => s
    | some (e, x) =>
      let put (f : ShardSt → ShardSt) : State :=
        s.modEnt key e.id fun e => { e with shards := e.shards.map fun y => if y.shard.no = x.shard.no then f y else y }
      if !x.whole e.kind.shardKind r then s.crcFailed key e x (if writesKind e.kind.shardKind then none else some r.stamp)
      else if r.result = 0x80 then (put fun y => { y with due := 0, pending := true }).releases key
      else if r.result = 0x81 then put fun y => { y with due := s.time + s.shardTo key }
      else if r.result = 0x82 then s.crcFailed key e x none
      else
        let ok := r.result == 0 || r.result == 1 || r.result == 6
        let s1 := if ok then x.data.foldl (fun st c => st.recvBytes key e.buf c.1 c.2) s else s
        let s2 := if ok && x.lost then s1.logShard key x.shard 0 0x0001 else s1
        s2.settle key e.id r.no (if r.result = 0 && 1 < x.attempts then 1 else r.result) ok
def execSdone (r : Reply) (s : State) : Out := .next (s.doneReply r firstInterval)

/-- ECHO (R127): counts at the interface that probed. A stopped tile refuses it, and so does a tile where the probing gang is suspended while
another runs (R49, R373); an echo that nothing waits for is discarded. -/
def State.echoed (s : State) (ep srv no interval : Nat) : State :=
  let t := s.getTile ep
  let away := !(s.getNi ep).echoes.contains (srv, no) && (match t.shadow with | some c => c.ni.echoes.contains (srv, no) | none => false)
  if isTile ep && (t.refusal == some 0 || away) then s.replyLater (.echo ep srv no) interval
  else s.modNi ep fun n => { n with echoes := n.echoes.erase (srv, no) }
def execEcho (ep : Nat) (echo : ProbeEcho) (s : State) : Out := .next (s.echoed ep echo.srv echo.no firstInterval)

/-- SHARD_TIMEOUT: SHARDTO has passed without an answer; the fourth time takes the server out of service (R383, R385, R405). -/
def State.shardLate (s : State) (ep xid no : Nat) : State :=
  match (s.getNi ep).ents.find? fun e => e.kind.isReq && e.xid.toNat == xid && e.phase != .done with
  | none => s
  | some e =>
    match e.shards.find? fun x => x.shard.no == no && x.code.isNone && x.due != 0 && decide (x.due ≤ s.time) with
    | none => s
    | some x => if x.attempts < 4 then s.resend ep e.id { x with lost := true } none else s.serverOut x.shard.srv
def execShardTimeout (ep xid no : Nat) (s : State) : Out := .next (s.shardLate ep xid no)

/-- SERVER_FAILED (R405). -/
def execServerFailed (srv : Nat) (s : State) : Out := .next (if srv < 192 then s.serverOut srv else s)

end Sys2Proof.Machine
end

