-- ==== Sys2Proof/Machine/Packets.lean ====
section
/-!
DEFINITION. What each packet does when its header is presented to the interface that it is for (R83, R88, R96 to R108, R370 to R382),
contrails in the routers, retries, and the release of timed sends. Refused packets other than EAGER and RTS are sent again after
their retry interval (R371, R373).
-/
namespace Sys2Proof.Machine

/-! ### Refusals (R370, R373) -/

/-- Whether an interface holds the entry, or the message, that a packet names. -/
def Ni.holds (n : Ni) (h : Header) : Bool :=
  let revoked : Bool := n.revoked.any fun r => r.1 == h.src && r.2.1 == h.xid
  match h.kind.toNat with
  | 0x04 => revoked || n.ents.any fun e => e.kind.isRecv && e.peer == h.src && e.peerXid == h.xid && e.phase != .done && e.hdr.isSome
  | 0x08 => n.ents.any (fun e => e.kind.isRecv && e.peer == h.src && e.peerXid == h.xid && e.phase != .done && e.hdr.isSome) ||
      n.unexp.any fun u => u.hdr.src == h.src && u.hdr.xid == h.xid
  | 0x0B | 0x0D => n.ents.any fun e => e.kind == .subs && e.phase == .landing && e.rank == h.src && e.tag == h.tag && e.group == h.group
  | 0x09 | 0x0A => n.contrails.any fun e => e.tag == h.tag && e.group == h.group
  | _ => revoked || (n.named h.src h.xid).isSome

/-- A packet for an entry of a suspended context while another gang has the tile (R49). -/
def State.forShadow (s : State) (key : Nat) (h : Header) : Bool :=
  isTile key && (match (s.getTile key).shadow with | some c => c.ni.holds h && !(s.getNi key).holds h | none => false)

/-- Kinds that a refusal with reason 0x07 answers (R374, R375). -/
def answered (kind : Nat) : Bool := kind == 0x04 || kind == 0x08 || kind == 0x09

/-- A refusal with reason 0 of a packet other than EAGER and RTS: the ABSENT goes back to its sender (R370, R373). -/
def State.refuseLater (s : State) (p : Packet) (interval : Nat) : State :=
  if s.ownPkg p.hdr.src then s.inject (.refused p interval) (rankEp p.hdr.dest) (rankEp p.hdr.src)
  else s.emit (niKey p.hdr.dest p.hdr.src) (answer p.hdr 0x06 0)

/-- The sender holds a refused packet for the retry interval and then sends it again (R371, R373). -/
def State.refusedBack (s : State) (p : Packet) (interval : Nat) : State :=
  { s with sched := s.sched ++
      [(s.cycle + s.cyclesOf interval, .send (rankEp p.hdr.src) (rankEp p.hdr.dest) (.again p (min (2 * interval) 256000)))] }

/-- A packet leaves an interface, for the first time or again after `i` nanoseconds; its way is chosen anew, and where there is none, what it
is for completes UNREACHABLE (R314). -/
def State.goOut (s : State) (key : Nat) (p : Packet) (i : Option Nat) : State :=
  match i, s.endpointOf p.hdr.dest p.hdr.src with
  | some i, some dst => s.inject (.again p i) (rankEp p.hdr.src) dst
  | _, _ => s.emit key p

/-- The packets that take turns in the round-robin when they go again: DATA, CDATA and UCDATA (R119). -/
def takesTurns (kind : Nat) : Bool := kind == 0x04 || kind == 0x0B || kind == 0x0D

/-- The send or contrail on whose behalf DATA, a RELEASE, CDATA or UCDATA is sent. -/
def Ni.senderOf (n : Ni) (p : Packet) : Option Ent :=
  if p.hdr.kind = 0x04 || p.hdr.kind = 0x08 then n.named p.hdr.dest p.hdr.xid
  else n.contrails.find? fun e => e.tag == p.hdr.tag && e.group == p.hdr.group

/-- A refused packet whose interval is over: DATA and the chunks of a round wait for their turn (R119), the others leave. A stopped tile sends
nothing, nor does one for a gang that is suspended; what a parked tile had to send is abandoned, but not the RELEASE that the management controller
sends for it (R49, R322, R382). DATA, a chunk or a RELEASE whose entry has ended is dropped, while what another gang owed goes on (R373). -/
def State.sendAgain (s : State) (src dst : Nat) (e : Ev) : State :=
  match e with
  | .again p i =>
    let key := niKey p.hdr.src p.hdr.dest
    let t := s.getTile src
    let later : State := { s with sched := s.sched ++ [(s.cycle + s.cyclesOf firstInterval, .send src dst e)] }
    let forParked := p.hdr.kind == 0x08 && p.hdr.offset.toNat % 256 == 2
    let saved := isTile src && (t.shadow.elim false fun c => (c.ni.senderOf p).isSome)
    let bound := takesTurns p.hdr.kind.toNat || (p.hdr.kind == 0x08 && !forParked)
    if isTile src && t.refusal == some 0 then later
    else if isTile src && t.run == .parked then
      (match s.endpointOf p.hdr.dest p.hdr.src with
       | some dst => if forParked then s.inject e Config.mgmtEp dst else s
       | none => s)
    else if bound then
      match (s.getNi key).senderOf p with
      | some x => if takesTurns p.hdr.kind.toNat then s.modNi key fun n => { n with waiting := n.waiting ++ [(x.id, p, some i)] } else s.goOut key p (some i)
      | none => if saved then later else s
    else s.goOut key p (some i)
  | _ => s

/-- Why a packet other than EAGER and RTS is not taken by the interface it is for. -/
def State.barred (s : State) (p : Packet) : Option Nat :=
  let key := niKey p.hdr.dest p.hdr.src
  if s.forShadow key p.hdr then some 0 else s.refusal key

/-- A packet other than EAGER and RTS meets the interface it is for: `f` takes it, unless it is refused. -/
def State.gate (s : State) (p : Packet) (interval : Nat) (f : Nat → State) : State :=
  if !s.ownPkg p.hdr.dest then s
  else
    let key := niKey p.hdr.dest p.hdr.src
    match s.barred p with
    | none => f key
    | some 0 => s.refuseLater p interval
    | some n => if answered p.hdr.kind.toNat then s.emit key (answer p.hdr 0x06 n) else s

/-! ### Messages (R88, R96) -/

/-- The header of an EAGER or RTS packet at a tile's or host function's matching engine, which may refuse (R88, R370). -/
def State.messageHead (s : State) (p : Packet) : State :=
  let ep := rankEp p.hdr.dest
  if !s.ownPkg p.hdr.dest || !(isTile ep || isHost ep) then s
  else
    match s.refusal ep with
    | some r => s.refuse ep p.hdr 0x06 r
    | none => if s.hostBlocked ep then s.refuse ep p.hdr 0x07 0 else s.arrive ep p

/-- The whole of an EAGER or RTS packet: a payload lands, and a service takes its message (R39, R55, R163); the management controller takes any
and does nothing with it (log 105). -/
def State.messageTail (s : State) (p : Packet) : State :=
  let h := p.hdr
  let ep := rankEp h.dest
  if !s.ownPkg h.dest then s
  else
    let key := niKey h.dest h.src
    if ep = Config.placerEp then s.launchMessage p
    else if ep = Config.dispatcherEp then (if isDonew h then s.donewAck p else s.workItem p)
    else if ep = Config.mgmtEp then s.acknowledge key h h.len
    else if ep = Config.haloEp then s.denyMessage key h
    else if (isTile ep || isHost ep) && h.kind == 0x01 then s.arriveWhole ep p
    else s

/-- EAGER and RTS. -/
def State.message (s : State) (p : Packet) : State := (s.messageHead p).messageTail p

def withKind (p : Packet) (k : BitVec 8) : Packet := { p with hdr := { p.hdr with kind := k } }

/-- EAGER (R88, R91, R94, R95). -/
def execEager (p : Packet) (s : State) : Out := .next (s.message (withKind p 0x01))
/-- RTS (R96). -/
def execRts (p : Packet) (s : State) : Out := .next (s.message (withKind p 0x02))

/-- CTS: with a grant of 0 the send completes, else its DATA starts from offset 0 (R96, R97, R379). -/
def State.granted (s : State) (key : Nat) (h : Header) : State :=
  match (s.getNi key).named h.src h.xid with
  | none => s
  | some e =>
    if !e.kind.isSend || !(e.phase == .awaitCts || e.phase == .awaitAck) then s
    else
      let g := h.offset.toNat
      let conv : BitVec 8 := if h.hflags &&& hfCONVERTED != 0 then recRdv ||| recConv else 0
      let s1 := s.modEnt key e.id fun x => { x with rcd := { x.rcd with flags := x.rcd.flags ||| conv, tstamp := if conv = 0 then x.rcd.tstamp else s.stamp }, granted := g, sent := 0, chunks := 0, took := 0 }
      if g = 0 then s1.dataDone key e.id 0
      else s1.modEnt key e.id fun x => { x with phase := .sending }
def execCts (p : Packet) (s : State) : Out :=
  let q := withKind p 0x03
  .next (s.gate q firstInterval fun key => s.granted key q.hdr)

/-- A DATA packet of a revoked grant is discarded; when all that the sender's ACK counted have come, a deferred CTS leaves (R379). -/
def State.revokedOne (s : State) (key : Nat) (src : Rank) (xid : W32) (count : Option Nat) (data : Nat) : State :=
  let s1 := s.modNi key fun n => { n with revoked := n.revoked.map fun r =>
    if r.1 = src && r.2.1 = xid then (r.1, r.2.1, (match count with | some c => some c | none => r.2.2.1), r.2.2.2 + data) else r }
  match (s1.getNi key).revoked.find? fun r => r.1 == src && r.2.1 == xid with
  | some (_, _, some c, d) =>
    if c ≤ d then
      let s2 := s1.modNi key fun n => { n with revoked := n.revoked.filter fun r => !(r.1 == src && r.2.1 == xid) }
      (match (s2.getNi key).ents.find? fun e => e.kind.isRecv && e.phase == .granted && !e.cts && e.peer == src && e.peerXid == xid with
       | some e => s2.sendCts key e.id
       | none => s2)
    else s1
  | _ => s1

/-- The receive that DATA or a RELEASE of a message is for. -/
def Ni.receiving (n : Ni) (h : Header) : Option Ent :=
  n.ents.find? fun e => e.kind.isRecv && e.kind != .subs && e.peer == h.src && e.peerXid == h.xid && e.hdr.isSome &&
    (e.phase == .granted || e.phase == .landing || e.phase == .relHeld)

/-- The header of a DATA packet: a beat has come under the grant (R98, R378). -/
def State.dataBeat (s : State) (p : Packet) : State :=
  let h := p.hdr
  let key := niKey h.dest h.src
  if !s.ownPkg h.dest || (s.barred p).isSome || (s.getNi key).revoked.any (fun r => r.1 == h.src && r.2.1 == h.xid) then s
  else
    match (s.getNi key).receiving h with
    | some e => s.modEnt key e.id fun x => { x with beat := true }
    | none => s

/-- The sender comes to know what of its DATA has been accepted, should the rest be refused (R375; log 72). -/
def State.noteTook (s : State) (h : Header) (n : Nat) : State :=
  if !s.ownPkg h.src then s
  else
    let key := niKey h.src h.dest
    match (s.getNi key).named h.dest h.xid with
    | some e => s.modEnt key e.id fun x => { x with took := x.took + n }
    | none => s

/-- DATA: a chunk lands at its offset; after the last byte granted, the ACK leaves and the receive completes (R96, R97, R100, R348). A region in
retention is waited for (R435). -/
def State.dataChunk (s : State) (key : Nat) (p : Packet) : State :=
  let h := p.hdr
  if (s.getNi key).revoked.any fun r => r.1 == h.src && r.2.1 == h.xid then s.revokedOne key h.src h.xid none 1
  else
    match (s.getNi key).receiving h with
    | none => s
    | some e =>
      if e.phase != .granted then s
      else
        let off := h.offset.toNat
        let l := p.payload.take (e.granted - off)
        let lost := if p.poison && p.payload.isEmpty then min Config.chunkBytes (e.granted - off) else 0
        let s1 := (if e.kind == .postm then s else s.recvBytes key e.buf off l).noteTook h l.length
        let s2 := s1.modEnt key e.id fun x =>
          { x with
            sent := x.sent + l.length + lost, chunks := x.chunks + 1, part := x.part + lost, poison := x.poison || p.poison
            stage := if x.kind == .postm then putBytes x.stage off l else x.stage }
        let s3 :=
          if e.granted ≤ e.sent + l.length + lost then
            match e.hdr with
            | some h0 =>
              (((s2.modEnt key e.id fun x => { x with phase := .landing }).emit key (ackPacket h0 ackMessage (e.granted - e.part - lost))).landed key e.id).boxGo
                key e.id
            | none => s2
          else s2
        s.whenAwake key e.buf (State.waitLanding key (.chunk e.id p)) s3
def execData (p : Packet) (s : State) : Out :=
  let q := withKind p 0x04
  .next ((s.dataBeat q).gate q firstInterval fun key => (s.dataBeat q).dataChunk key q)

/-- ACK: of a message, of a RELEASE, or of a REVOKE (R96, R99, R163, R379, R382). -/
def State.ackArrived (s : State) (key : Nat) (h : Header) : State :=
  let code := h.offset.toNat / 2 ^ 24
  let n := h.offset.toNat % 2 ^ 24
  if code = ackRevoke then s.revokedOne key h.src h.xid (some n) 0
  else
    match (s.getNi key).named h.src h.xid with
    | none => s
    | some e =>
      if !e.kind.isSend then s
      else if code = ackRelease then s.releaseDone key e.id
      else if code = ackDenied then s.failSend key e stDENIED 0
      else s.dataDone key e.id n
def execAck (p : Packet) (s : State) : Out :=
  let q := withKind p 0x05
  .next (s.gate q firstInterval fun key => s.ackArrived key q.hdr)

/-! ### Refusals at the sender (R370 to R375) -/

/-- A refused first packet waits for its retry interval, which doubles up to 256 µs (R371). -/
def State.awaitRetry (s : State) (key : Nat) (e : Ent) : State :=
  let i := if e.interval = 0 then firstInterval else min (2 * e.interval) 256000
  s.modEnt key e.id fun x => { x with phase := .queued, retryAt := some (s.time + i), interval := i }

/-- Whether a request's failure makes a record: not that of a service, nor one that a parked tile's record tells of (R374). -/
def State.tells (s : State) (key : Nat) (peer : Rank) : Bool :=
  (isTile key || isHost key) && !(s.ownPkg peer && isTile (rankEp peer) && (s.getTile (rankEp peer)).run == .parked)

/-- Completes a send or subscription UNREACHABLE (R374, R375). -/
def State.unreachable (s : State) (key : Nat) (e : Ent) (dlen : Nat) : State :=
  let s1 := if s.tells key e.rank then s.logNi key stUNREACHABLE 0 (e.rank.zeroExtend 64) else s
  if e.kind == .subs then s1.completeWith key e.id stUNREACHABLE 0 e.len
  else s1.failSend key e stUNREACHABLE dlen

/-- The bytes that a destination had accepted when it refused: none of a first packet, all of them when only a RELEASE is left; what
another package has accepted its transport knows (R374, R375; log 72). -/
def State.accepted (s : State) (e : Ent) : Nat :=
  if e.phase == .awaitAck || e.phase == .awaitCts then 0
  else if e.phase == .relWait then e.rcd.dlen
  else if s.ownPkg e.rank then e.took
  else (Config.free 24 s.fresh e.xid.toNat).toNat % (e.sent + 1)

/-- A packet after the first that another package has refused is sent again: the latest of the message (R373; log 72). -/
def State.resendFar (s : State) (h : Header) : State :=
  match s.uet.reverse.find? fun m => m.packet.hdr.src == h.dest && m.packet.hdr.dest == h.src && m.packet.hdr.xid == h.xid &&
      [0x03, 0x04, 0x05, 0x08, 0x09, 0x0A, 0x0B, 0x0C, 0x0D].contains m.packet.hdr.kind.toNat with
  | some m =>
    { s with sched := s.sched ++
        [(s.cycle + s.cyclesOf firstInterval, .send (rankEp h.dest) (0x2000 + m.port) (.again m.packet firstInterval))] }
  | none => s

/-- ABSENT: reason 0x00 is retried, a message until ABSLIMIT, a halo result without limit; reason 0x07 ends the request (R370 to R375). -/
def State.absentArrived (s : State) (key : Nat) (h : Header) : State :=
  match (s.getNi key).named h.src h.xid with
  | none => if s.ownPkg h.src then s else s.resendFar h
  | some e =>
    if h.offset.extractLsb' 0 8 = 7 then s.unreachable key e (s.accepted e)
    else if !(e.phase == .awaitAck || e.phase == .awaitCts) then (if s.ownPkg h.src then s else s.resendFar h)
    else
      let first := e.absFrom.getD s.time
      if e.absFrom.isSome && decide (first + 1000 * s.param (s.keyPart key) 4 ≤ s.time) && decide (key < 0x1000) then
        (s.logNi key stABSENT 0 (e.rank.zeroExtend 64)).failSend key e stABSENT 0
      else (s.modEnt key e.id fun x => { x with absFrom := some first }).awaitRetry key e
def execAbsent (p : Packet) (s : State) : Out :=
  let q := withKind p 0x06
  .next (s.gate q firstInterval fun key => s.absentArrived key q.hdr)

/-- BUSY: retried without limit (R370, R371). -/
def State.busyArrived (s : State) (key : Nat) (h : Header) : State :=
  match (s.getNi key).named h.src h.xid with
  | some e => if e.phase == .awaitAck || e.phase == .awaitCts then s.awaitRetry key e else s
  | none => s
def execBusy (p : Packet) (s : State) : Out :=
  let q := withKind p 0x07
  .next (s.gate q firstInterval fun key => s.busyArrived key q.hdr)

/-- RETRY_INTERVAL: a refused message whose interval has ended leaves again (R371). -/
def State.retryDue (s : State) (ep xid : Nat) : State :=
  match (s.getNi ep).ents.find? fun e => e.kind.isSend && e.xid.toNat == xid && e.phase == .queued && e.retryAt.isSome with
  | some e => if (e.retryAt.getD 0) ≤ s.time then (s.modEnt ep e.id fun x => { x with retryAt := none }).pump ep else s
  | none => s
def execRetryInterval (ep xid : Nat) (s : State) : Out := .next (s.retryDue ep xid)

/-! ### RELEASE and REVOKE (R103, R379, R381, R382) -/

/-- Whether a message of this sequence number has been accepted already (R91). -/
def Ni.accepted (n : Ni) (h : Header) : Bool := (h.seq - Sparse.get 0 n.seqIn (seqKey h.src h.group)).msb

/-- RELEASE: a fenced one is only noted; the clearing and the poisoned one are acknowledged and end the wait. One that comes before its
message is matched waits with it. -/
def State.releaseArrived (s : State) (key : Nat) (h : Header) : State :=
  if 0x1000 ≤ key then s.haloRelease key h
  else
    let kind := h.offset.toNat % 256
    let n := s.getNi key
    let ack (s : State) : State := if kind = 1 then s else s.emit key (ackPacket h ackRelease 0)
    match n.receiving h with
    | some e =>
      let s1 := ack (s.modEnt key e.id fun x => { x with relEarly := some kind })
      (if e.phase == .relHeld then s1.landed key e.id else s1).boxGo key e.id
    | none =>
      let mine (u : Unexp) : Bool := u.hdr.src == h.src && u.hdr.xid == h.xid
      if n.accepted h && !(n.unexp.any mine || n.ents.any fun e => e.boxq.any mine) then s
      else ack (s.modNi key fun n => { n with relLog := n.relLog.filter (fun r => !(r.1 == h.src && r.2.1 == h.xid)) ++ [(h.src, h.xid, kind)] })
def execRelease (p : Packet) (s : State) : Out :=
  let q := withKind p 0x08
  .next (s.gate q firstInterval fun key => s.releaseArrived key q.hdr)

/-- REVOKE: no DATA follows under the grant, whether its injection has not begun or it was refused; the ACK counts what was sent, and the
message waits for a new CTS (R379). A CTS of the grant that has been refused and goes again is void, wherever it stands. -/
def State.revokeArrived (s : State) (key : Nat) (h : Header) : State :=
  match (s.getNi key).named h.src h.xid with
  | none => s
  | some e =>
    let cts (q : Packet) : Bool := q.hdr.kind == 0x03 && q.hdr.src == h.src && q.hdr.dest == h.dest && q.hdr.xid == h.xid
    let data (q : Packet) : Bool := q.hdr.kind == 0x04 && q.hdr.src == h.dest && q.hdr.dest == h.src && q.hdr.xid == h.xid
    let is (f : Packet → Bool) (e : Ev) : Bool := (e.inner?.map f).getD false
    let late (t : Transit) : Bool := match t.ev with | .packet _ => is data t.ev && t.injected == 0 | _ => is data t.ev
    let void (t : Transit) : Bool := match t.ev with | .packet _ => false | _ => is cts t.ev
    let unsent := (s.torus.filter late).length + (s.sched.filter fun x => is data x.2).length +
      ((s.getNi key).waiting.filter fun w => data w.2.1).length
    let s0 := { s with
      sched := s.sched.filter fun x => !is cts x.2 && !is data x.2
      torus := s.torus.filter fun t => !late t && !void t }
    let s1 := s0.modNi key fun n => { n with waiting := n.waiting.filter fun w => !data w.2.1 }
    let n := if e.phase == .sending || e.phase == .awaitLast then e.chunks - unsent else 0
    (s1.modEnt key e.id fun x => { x with phase := .awaitCts, granted := 0, sent := 0, chunks := 0, took := 0 }).emit key
      (ackPacket h ackRevoke n)
def execRevoke (p : Packet) (s : State) : Out :=
  let q := withKind p 0x0C
  .next (s.gate q firstInterval fun key => s.revokeArrived key q.hdr)

/-- TIMED_SEND_RELEASE: a held SENDT leaves when TIME reaches its TSEND (R104, R422). -/
def State.timedDue (s : State) (ep id : Nat) : State :=
  match s.ent ep id with
  | some e =>
    if e.timed && e.phase == .held && decide ((e.tsend.getD 0).toNat ≤ s.time) then
      (s.modEnt ep id fun x => { x with phase := .queued }).pump ep
    else s
  | none => s
def execTimedSendRelease (ep id : Nat) (s : State) : Out := .next (s.timedDue ep id)

/-- UET_FAILURE: the transport gives a request to another package up (R374). -/
def State.transportFailed (s : State) (ep xid : Nat) : State :=
  match (s.getNi ep).ents.find? fun e => e.kind.isSend && e.xid.toNat == xid && e.phase != .done && !s.ownPkg e.rank with
  | some e => s.unreachable ep e 0
  | none => s
def execUetFailure (ep xid : Nat) (s : State) : Out := .next (s.transportFailed ep xid)

/-! ### The escape channel (R107, R117) -/

/-- ESCAPE_CHANNEL: a header that has waited 16 cycles goes on in ESC (R117). -/
def execEscapeChannel (n : Nat) (s : State) : Out := .next { s with torus := escapeNow s.torus n s.cycle }

/-! ### Contrails (R105 to R108, R412) -/

/-- A SUBSCRIBE or PRUNE that has passed the routers of a path: counted at each, from the subscriber on (R106). -/
def State.countPath (s : State) (h : Header) : State × Header :=
  match s.endpointOf h.dest h.src, s.endpointOf h.src h.dest with
  | some pub, some sub => (subscriptionPath pub sub).reverse.foldl (fun r x => r.1.countAt r.2 x.1 x.2) (s, h)
  | _, _ => (s, h)

/-- A SUBSCRIBE at the publisher: it has a round to send, and serves a subscriber that a full router table has cut off alone (R105,
R106). -/
def State.subscribedAt (s : State) (key : Nat) (h : Header) : State :=
  s.modNi key fun n =>
    { n with
      alone := if marked h then n.alone ++ [(h.src, h.group, h.tag)] else n.alone
      asked := n.asked.filter (· != (h.group, h.tag)) ++ [(h.group, h.tag)] }

/-- A PRUNE at the publisher. -/
def State.prunedAt (s : State) (key : Nat) (h : Header) : State :=
  if marked h then s.modNi key fun n => { n with alone := n.alone.erase (h.src, h.group, h.tag) } else s

/-- SUBSCRIBE: counted on its whole way, and taken by the publisher (R105, R106). -/
def State.subscribed (s : State) (key : Nat) (h : Header) : State := let r := s.countPath h; r.1.subscribedAt key r.2
def execSubscribe (p : Packet) (s : State) : Out :=
  let q := withKind p 0x09
  .next (s.gate q firstInterval fun key => if isTile key then s.subscribed key q.hdr else s)

/-- PRUNE: the counts on the same path fall again (R106). -/
def State.pruned (s : State) (key : Nat) (h : Header) : State := let r := s.countPath h; r.1.prunedAt key r.2
def execPrune (p : Packet) (s : State) : Out :=
  let q := withKind p 0x0A
  .next (s.gate q firstInterval fun key => if isTile key then s.pruned key q.hdr else s)

/-- CONTRAIL_ROUND: a subscriber waits and no round runs (R105). -/
def State.startRound (s : State) (ep id : Nat) : State :=
  match s.ent ep id with
  | some e =>
    if e.kind == .publ && e.phase == .open_ && !e.closing && (s.getNi ep).asked.contains (e.group, e.tag) then
      (s.modEnt ep id fun x => { x with phase := .round, sent := 0, late := false }).modNi ep fun n =>
        { n with asked := n.asked.filter (· != (e.group, e.tag)) }
    else s
  | none => s
def execContrailRound (ep id : Nat) (s : State) : Out := .next (s.startRound ep id)

/-- The mark of a chunk whose publisher's generation has changed in its round: bit 31 of XID (R412; log 16). -/
def staleBit : W32 := 0x80000000

/-- One chunk of a round: over the counted ports, and alone to each subscriber without one, whose copies take turns of their own (R105, R106, R119).
A generation that differs from that of the first chunk marks the rest (R412). -/
def State.sendRound (s : State) (key : Nat) (e : Ent) : State :=
  let n := min Config.chunkBytes (e.len - e.sent)
  let last := decide (e.len ≤ e.sent + n)
  let now : Word := match e.buf with | .anvil j _ => (s.getTile key).cr (crAGEN0 + j) | _ => 0
  let gen := if e.sent = 0 then now else e.gen
  let stale := e.late || now != gen
  let b := if e.part = 0 then s.readBuf key e e.sent n else ([], true)
  let own := s.niRank key
  let pkt (kind : BitVec 8) (dest : Rank) : Packet :=
    let p := e.packet own kind (if last then hfLAST else 0) (BitVec.ofNat 32 e.sent) b.1 b.2
    { p with hdr := { p.hdr with dest, xid := if stale then e.xid ||| staleBit else e.xid } }
  let s1 := if s.trailing key then s else s.inject (.packet (pkt 0x0B own)) (rankEp own) 0xFFF
  let copies := ((s.getNi key).alone.filter fun a => a.2.1 == e.group && a.2.2 == e.tag).map fun a => (e.id, pkt 0x0D a.1, none)
  let s2 := if s.trailing key then s1 else s1.modNi key fun n => { n with waiting := n.waiting ++ copies }
  let s3 := match e.buf with | .anvil j _ => s2.modTile key fun t => t.touchRegion s.time j | _ => s2
  s3.modEnt key e.id fun x => { x with sent := x.sent + n, gen, late := stale, phase := if last then .awaitLast else .round }

/-- A round whose next chunk may leave. -/
def Ent.roundReady (e : Ent) : Bool := e.kind == .publ && e.phase == .round

/-- Whether chunks of a contrail are still under way. -/
def State.roundRuns (s : State) (pub : Rank) (e : Ent) : Bool :=
  let mine (p : Packet) : Bool := (p.hdr.kind == 0x0B || p.hdr.kind == 0x0D) && p.hdr.src == pub && p.hdr.group == e.group && p.hdr.tag == e.tag
  let is (e : Ev) : Bool := (e.inner?.map mine).getD false
  let waits (n : Ni) : Bool := n.waiting.any (fun w => mine w.2.1) || n.late.any fun w => match w with | .chunk _ p => mine p | .eager _ _ _ => false
  let at_ (t : Tile) : Bool := waits t.ni || (match t.shadow with | some c => waits c.ni | none => false)
  s.torus.any (fun t => is t.ev) || s.sched.any (fun x => is x.2) || at_ s.tile || s.others.any at_

/-- A round whose chunks have all arrived is over: it counts unless its generation changed, and a contrail that is to close closes
(R105, R273, R412). A contrail whose bytes the comparator found to differ ends POISONED, with a record (R326, R389). -/
def State.endRound (s : State) (key : Nat) (e : Ent) : State :=
  let s1 := if e.late then s.logNi key stGENMISMATCH 0 0 else s
  let s2 := s1.modEnt key e.id fun x =>
    { x with phase := .open_, rcd := if e.late then x.rcd else { x.rcd with progress := (x.rcd.progress + 1) % 65536, tstamp := s.stamp } }
  if e.part ≠ 0 then ((s2.tellPoisoned key stPOISONED 0).complete key e.id fun r => { r with status := stPOISONED, dlen := e.len, flen := e.len }).endContrail key e
  else if e.closing then s2.closeContrail key e.id
  else s2

/-- The first chunk of a round reaches a subscription that waits: it takes this round (R105). -/
def State.joinRound (s : State) (p : Packet) : State :=
  let h := p.hdr
  let key := niKey h.dest h.src
  if !s.ownPkg h.dest || (s.barred p).isSome || h.offset != 0 then s
  else
    ((s.getNi key).ents.filter fun e => e.kind == .subs && e.phase == .posted && e.rank == h.src && e.tag == h.tag && e.group == h.group).foldl
      (fun st e => st.modEnt key e.id fun x =>
        { x with phase := .landing, hdr := some h, granted := s.grant key e h.len, sent := 0, chunks := 0, part := 0, poison := false, late := false }) s

/-- A chunk at a subscription that takes the round: the last byte completes it (R105, R273, R412); a region in retention is waited for (R435). -/
def State.takeCdata (s : State) (key : Nat) (p : Packet) (e : Ent) : State :=
  let h := p.hdr
  if e.phase != .landing || (e.hdr.map fun x => x.kind) != some h.kind then s
  else
    let lost := if p.poison && p.payload.isEmpty then min Config.chunkBytes (h.len - e.sent) else 0
    let sent := e.sent + p.payload.length + lost
    let part := e.part + (if e.granted ≤ h.offset.toNat then 0 else min lost (e.granted - h.offset.toNat))
    let poison := e.poison || p.poison
    let stale := e.late || h.xid &&& staleBit != 0
    let s1 := (s.recvBytes key e.buf h.offset.toNat (p.payload.take (e.granted - h.offset.toNat))).modEnt key e.id fun x =>
      { x with sent, part, chunks := e.chunks + 1, poison, late := stale }
    s.whenAwake key e.buf (State.waitLanding key (.chunk e.id p)) <|
    if sent < h.len then s1
    else
      let status := if stale then stGENMISMATCH else if poison then stPOISONED else if e.granted < h.len then stTRUNC else stOK
      ((s1.tellPoisoned key status e.rank).complete key e.id fun r =>
        { r with status, source := e.rank, tag := e.tag, group := e.group, dlen := e.granted - part, flen := h.len, progress := e.chunks + 1 }).prune key e

/-- CDATA and UCDATA: taken by every subscription that takes the round, else discarded (R105). A chunk that comes behind one that is being
retried is refused with it. -/
def State.cdataChunk (s : State) (key : Nat) (p : Packet) (interval : Nat) : State :=
  let h := p.hdr
  let earlier (q : Packet) : Bool := q.hdr.kind == h.kind && q.hdr.dest == h.dest && q.hdr.src == h.src && q.hdr.tag == h.tag &&
    q.hdr.group == h.group && decide (q.hdr.offset.toNat < h.offset.toNat)
  let waits (e : Ev) : Bool := match e with | .packet _ => false | _ => (e.inner?.map earlier).getD false
  let again (n : Ni) : Bool := n.waiting.any fun w => w.2.2.isSome && earlier w.2.1
  if s.sched.any (fun x => waits x.2) || s.torus.any (fun t => waits t.ev) || again (s.getNi (niKey h.src h.dest)) then s.refuseLater p interval
  else
    ((s.getNi key).ents.filter fun e => e.kind == .subs && e.rank == h.src && e.tag == h.tag && e.group == h.group).foldl
      (fun st e => match st.ent key e.id with | some x => st.takeCdata key p x | none => st) s
def execCdata (p : Packet) (s : State) : Out :=
  let q := withKind p 0x0B
  .next ((s.joinRound q).gate q firstInterval fun key => (s.joinRound q).cdataChunk key q firstInterval)
def execUcdata (p : Packet) (s : State) : Out :=
  let q := withKind p 0x0D
  .next ((s.joinRound q).gate q firstInterval fun key => (s.joinRound q).cdataChunk key q firstInterval)

/-! ### Writes that have waited for retention to end (R435) -/

/-- A write that has waited is tried again; its entry may be gone. -/
def State.landAgain (s : State) (key : Nat) (w : LateWrite) : State :=
  match w with
  | .eager id l bad => match s.ent key id with
    | some e => if e.phase == .landing then s.eagerIn key id l bad else s
    | none => s
  | .chunk id p => match s.ent key id with
    | some e => if e.kind == .subs then s.takeCdata key p e else s.dataChunk key p
    | none => s

/-- The writes of an interface that wait for their regions, in order: those whose region is awake now land. -/
def State.serveLanding (s : State) (key : Nat) : State :=
  (s.getNi key).late.foldl (fun st w => st.landAgain key w) (s.modNi key fun n => { n with late := [] })

/-! ### Presentation (R83, R88, R118) -/

/-- The header of a packet is presented to the interface that it is for. -/
def State.headerIn (s : State) (p : Packet) : State :=
  match p.hdr.kind.toNat with
  | 0x01 => s.messageHead p
  | 0x02 => s.messageHead p
  | 0x04 => s.dataBeat p
  | 0x0B => s.joinRound p
  | 0x0D => s.joinRound p
  | _ => s

/-- The last flit of a packet has come, `interval` being its retry interval: the meaning of its KIND (R83). A SUBSCRIBE or PRUNE has counted on
its way; one of a tile to itself stays in its interface and counts here (R91, R105; log 16). -/
def State.wholeIn (s : State) (p : Packet) (interval : Nat) : State :=
  match p.hdr.kind.toNat with
  | 0x01 => s.messageTail p
  | 0x02 => s.messageTail p
  | 0x03 => s.gate p interval fun key => s.granted key p.hdr
  | 0x04 => s.gate p interval fun key => s.dataChunk key p
  | 0x05 => s.gate p interval fun key => s.ackArrived key p.hdr
  | 0x06 => s.gate p interval fun key => s.absentArrived key p.hdr
  | 0x07 => s.gate p interval fun key => s.busyArrived key p.hdr
  | 0x08 => s.gate p interval fun key => s.releaseArrived key p.hdr
  | 0x09 => s.gate p interval fun key =>
      if !isTile key then s else if p.hdr.src == p.hdr.dest then s.subscribed key p.hdr else s.subscribedAt key p.hdr
  | 0x0A => s.gate p interval fun key =>
      if !isTile key then s else if p.hdr.src == p.hdr.dest then s.pruned key p.hdr else s.prunedAt key p.hdr
  | 0x0B => s.gate p interval fun key => s.cdataChunk key p interval
  | 0x0C => s.gate p interval fun key => s.revokeArrived key p.hdr
  | 0x0D => s.gate p interval fun key => s.cdataChunk key p interval
  | _ => s

end Sys2Proof.Machine
end

