-- ==== Sys2Proof/Machine/Logs.lean ====
section
/-!
DEFINITION. What the management controller does with the error log (R324 to R329), the comparator's time limit of a twin pair (R388,
R389), and the retention of idle anvil regions (R435).
-/
namespace Sys2Proof.Machine

/-! ### Records (R325) -/

/-- The 64 bytes of a log record. -/
def LogRec.bytes (r : LogRec) : List Byte :=
  toLE 4 r.seq ++ toLE 1 r.cls ++ toLE 1 r.sev ++ toLE 2 r.code ++ toLE 4 r.unit.toNat ++ toLE 2 r.part ++ toLE 2 r.actx ++
  toLE 8 r.time ++ toLE 8 r.addr ++ toLE 4 r.count ++ toLE 4 r.gang ++ toLE 8 r.detail0.toNat ++ toLE 8 r.detail1.toNat ++
  toLE 2 r.lost ++ toLE 6 0

/-- The host ring takes a record, unless it is full; a record written fires MSI-X vector 1 when enabled (R329). -/
def Mgmt.ringWrite (m : Mgmt) (r : LogRec) : Mgmt :=
  if (m.elTail + 2 ^ 32 - m.elHead) % 2 ^ 32 < 4096 then
    { m with
      ring := (m.ring.filter fun x => x.1 != m.elTail % 4096) ++ [(m.elTail % 4096, r)]
      elTail := (m.elTail + 1) % 2 ^ 32
      msix1 := if m.elIen then m.msix1 + 1 else m.msix1 }
  else { m with elDrops := min (m.elDrops + 1) 0xFFFFFFFF }

/-- The gang whose end waits for this record: the one that the tile's parking was noted for (R324). -/
def State.awaitedBy (s : State) (r : LogRec) : Option Launch :=
  if r.cls = 0x01 && r.sev = 2 then
    s.launches.find? fun l => !l.st.isEnded && l.recordAt.isNone && (l.parkedBy.map fun p => p.1) == some (rankEp r.unit)
  else none

/-- The message of a record to its partition's fault rank, if it goes to one; a parking record that cannot go ends its gang's wait
(R324, R328). -/
def State.tellFaultRank (s : State) (r : LogRec) : State :=
  let p := Sparse.get Part.zero s.parts r.part
  let goes := decide (r.sev < 3) && decide (r.part < 64) && p.faultRank != 0xFFFFFFFF
  let send (s : State) (cookie : Nat) : State :=
    s.serviceSend Config.mgmtEp p.faultRank (BitVec.ofNat 32 (r.cls + 256 * r.sev)) (BitVec.ofNat 16 p.faultGrp) r.bytes (BitVec.ofNat 64 cookie)
  match s.awaitedBy r with
  | some l =>
    if goes then (send s (l.n + 1)).modLaunch l.n fun l => { l with recordAt := some s.time }
    else { s with sched := s.sched ++ [(s.cycle + 1, Ev.gangFaulted l.n)] }
  | none => if goes then send s 0 else s

/-- LOG_RECORD_DELIVERY: the record at the head of a queue is taken: its LOST counts the records dropped before it, it goes to the
host ring and to the fault rank, and the next one follows (R327 to R329). -/
def State.deliverRecord (s : State) (key : Nat) : State :=
  match s.mgmt.queues.find? fun q => q.key == key with
  | none => s
  | some q =>
    match q.recs with
    | [] => s
    | r0 :: rest =>
      let r := { r0 with lost := q.lost }
      let q' : LogQueue := { q with recs := rest, lost := 0 }
      let s1 := { s with mgmt := ({ s.mgmt with queues := q' :: s.mgmt.queues.filter fun x => x.key != key }).ringWrite r }
      let s2 := s1.tellFaultRank r
      if rest.isEmpty then s2 else { s2 with sched := s2.sched ++ [(s.cycle + 1, Ev.logRecordDelivery key)] }
def execLogRecordDelivery (unit : Nat) (s : State) : Out := .next (s.deliverRecord unit)

/-! ### The comparator's limit (R388, R389) -/

/-- TWIN_COMPARE_TIMEOUT: a request has waited 64 µs for its partner; both tiles trap at their next boundary, and the entry completes
CANCELLED. -/
def State.compareLate (s : State) (ep : Nat) : State :=
  match (s.getTile ep).twin with
  | none => s
  | some w =>
    match w.reqs.find? fun r => decide (64000 ≤ r.2.2.2.2) with
    | none => s
    | some r =>
      ((((s.twinTake ep r.1).completeWith ep r.2.2.2.1 stCANCELLED 0 0).twinFlag ep (twinInfo r.1 (!w.lead) 0 2)).twinFlag w.partner
        (twinInfo r.1 w.lead 0 2))
def execTwinCompareTimeout (ep : Nat) (s : State) : Out := .next (s.compareLate ep)

/-! ### Retention (R435) -/

/-- Whether an 8-byte word of the weight space lies in region `j` of a tile. -/
def Tile.inRegion (t : Tile) (j w : Nat) : Bool :=
  let ab := t.cr (crAB0 + j)
  decide (abBase ab * 65536 ≤ 8 * w) && decide (8 * w < (abBase ab + abSize ab) * 65536)

/-- A record of a tile's weight space: severity 0 for a corrected word, 1 for one that is poisoned (R346, R435). -/
def State.logAnvil (s : State) (ep w : Nat) (poisoned : Bool) : State :=
  s.log 0x0E (if poisoned then 1 else 0) (if poisoned then 0x000A else 0x0001) ep (s.logPart ep) 0xFFFF (8 * w) (s.getTile ep).gang 0 0

/-- Every word of a region is decoded: those with errors that the code corrects are corrected, each with a record. -/
def State.correctRegion (s : State) (ep j : Nat) : State :=
  let t := s.getTile ep
  (t.flaws.filter (t.inRegion j)).foldl (fun st w => st.logAnvil ep w false)
    (s.modTile ep fun t => { t with flaws := t.flaws.filter fun w => !t.inRegion j w })

/-- Every word of a region is encoded anew, on entry and on exit: errors that the code corrects are corrected, words that it cannot correct stay
poisoned, each with a record (R435). -/
def State.recodeRegion (s : State) (ep j : Nat) : State :=
  let t := s.getTile ep
  let bad := t.poison.filterMap fun p => match p with | .anvil w => if t.inRegion j w then some w else none | _ => none
  bad.foldl (fun st w => st.logAnvil ep w true) (s.correctRegion ep j)

/-- An entry into retention is due: RETIDLE without an access (R435). A region that nothing has accessed has been idle since reset. -/
def State.retentionDue (s : State) (ep j : Nat) : Bool :=
  let idle := s.param (s.partOf ep) 7
  idle != 0 && (s.partOf ep).isSome &&
    (match (s.getTile ep).retained j with
     | none => decide (1000 * idle ≤ s.time)
     | some (.active t) => decide (t + 1000 * idle ≤ s.time)
     | some (.leaving t) => decide (t + 1000 * idle ≤ s.time)
     | some (.entering _) => false
     | some (.kept _) => false)

/-- RETENTION_ENTRY: for 6 µs every word is decoded and encoded anew; words that cannot be corrected stay poisoned, with a record. -/
def State.retentionEntry (s : State) (ep j : Nat) : State :=
  if j < 8 && s.retentionDue ep j then
    (s.recodeRegion ep j).modTile ep fun t => t.setRetain j (.entering (s.time + 6000))
  else s
def execRetentionEntry (ep region : Nat) (s : State) : Out := .next (s.retentionEntry ep region)

/-- RETENTION_SCRUB: every 100 ms a region in retention is read and corrected in place. -/
def State.scrubDue (s : State) (ep j : Nat) : Bool :=
  match (s.getTile ep).retained j with
  | some (.kept t) => decide (t + 100000000 ≤ s.time)
  | _ => false
def State.retentionScrub (s : State) (ep j : Nat) : State :=
  if s.scrubDue ep j then (s.correctRegion ep j).modTile ep fun t => t.setRetain j (.kept s.time) else s
def execRetentionScrub (ep region : Nat) (s : State) : Out := .next (s.retentionScrub ep region)

/-- A finished entry leaves the region in retention; an exit decodes every word (R435). -/
def State.retentionStep (s : State) (ep j : Nat) : State :=
  match (s.getTile ep).retained j with
  | some (.entering u) => if u ≤ s.time then s.modTile ep fun t => t.setRetain j (.kept u) else s
  | some (.leaving u) =>
    if u ≤ s.time then (s.recodeRegion ep j).modTile ep fun t => t.setRetain j (.active u) else s
  | _ => s

end Sys2Proof.Machine
end

