-- ==== Sys2Proof/Machine/Tenancy.lean ====
section
/-!
DEFINITION. Partitions as the management controller keeps them (R32 to R34, R155, R372, R403, R434, R435, R439): assigning and moving
tiles, zeroing what a tenant leaves behind, erasing key slots, withdrawing and halting a partition.
-/
namespace Sys2Proof.Machine

def State.getPart (s : State) (p : Nat) : Part := Sparse.get Part.zero s.parts p
def State.modPart (s : State) (p : Nat) (f : Part → Part) : State := { s with parts := Sparse.set Part.zero s.parts p (f (s.getPart p)) }

/-- The functions bound to a partition. -/
def State.fnsOf (s : State) (p : Nat) : List Nat := (s.fns.filter fun f => f.2.part == some p).map fun f => f.1

/-- A locked interface freezes its partition's tiles, key slots and groups (R312). -/
def HostFn.frozen (f : HostFn) : Bool := f.state == .locked || f.state == .run
def State.frozen (s : State) (p : Option Nat) : Bool :=
  match p with
  | none => false
  | some p => (s.fnsOf p).any fun f => (s.getFn f).frozen

/-! ### Tiles (R33, R155) -/

/-- ABj with a new owner (R155). -/
def abOwned (ab : Word) (p : Nat) : Word := BitVec.ofNat 64 (ab.toNat % 2 ^ 32 + p % 64 * 2 ^ 32)

/-- A tile's stores, shadow store and weight regions are zeroed, and AGEN0–AGEN7 reset (R33). -/
def Tile.wiped (t : Tile) : Tile :=
  (List.range 8).foldl (fun t j => t.setCr (crAGEN0 + j) 0)
    { t with mem := [], shadow := none, anvil := [], latch := none, retain := [], flaws := [],
             poison := t.poison.filter fun p => match p with | .store _ => false | .anvil _ => false | _ => true }

/-- A tile that changes partition (R33). -/
def Tile.moved (t : Tile) (p : Nat) : Tile :=
  (List.range 8).foldl (fun t j => t.setCr (crAB0 + j) (abOwned (t.cr (crAB0 + j)) p)) t.wiped

/-- A layout of the eight regions: within the weight space and without overlap (R155). -/
def regionsOk (l : List (Nat × Nat)) : Bool :=
  l.length == 8 && (l.all fun r => decide (r.1 < 64) && decide (r.2 ≤ 64) && decide (r.1 + r.2 ≤ 64)) &&
    (List.range 8).all fun i => (List.range 8).all fun j =>
      i == j || (let a := l.getD i (0, 0); let b := l.getD j (0, 0)
                 a.2 == 0 || b.2 == 0 || decide (a.1 + a.2 ≤ b.1) || decide (b.1 + b.2 ≤ a.1))

/-- BASE and SIZE of the regions (R155). -/
def Tile.layOut (t : Tile) (l : List (Nat × Nat)) : Tile :=
  l.zipIdx.foldl (fun t r =>
    t.setCr (crAB0 + r.2) (BitVec.ofNat 64 (abOwner (t.cr (crAB0 + r.2)) * 2 ^ 32 + r.1.2 * 2 ^ 16 + r.1.1))) t

/-- A tile that holds no gang, nor a suspended one. -/
def Tile.vacant (t : Tile) : Bool := t.gang == 0 && t.shadow.isNone

/-- Moves a tile into another partition, unless it holds a gang or a lock freezes one of the partitions (R32, R33, R312). A tile that is in the
partition already keeps what it holds. -/
def State.moveTile (s : State) (ep p : Nat) : State :=
  if s.partOf ep != some p && ep < 1024 && p < 64 && (s.getTile ep).vacant && !s.frozen (s.partOf ep) && !s.frozen (some p) then
    (({ s with owner := Sparse.set none s.owner ep (some p) }).modTile ep fun t => t.moved p).kick p
  else s

/-! ### Key slots (R144, R402, R403) -/

/-- The key slots that a shard's pages name: KEY of each, and CKEY for a copy (R145, R400). -/
def State.slotsOf (s : State) (kind : Nat) (q : Shard) : List Nat :=
  let d := Sparse.get noCtx (s.getSrv q.srv).ctx q.actx
  (shardPages q).flatMap fun pn =>
    match s.walk (q.srv / 16) d.root pn with
    | some w => if writesKind kind && peCow w.2 then [peKey w.2, d.ckey] else [peKey w.2]
    | none => []

/-- Lets go what waited behind failed shards of a server. -/
def State.letGoAll (s : State) (k : Nat) (issuers : List Rank) : State := (issuers.foldl (fun st i => st.releaseHeld k i) s).echoes k

/-- Fails the pending shards of every server that `f` selects, and lets go what waited behind them (R402, R403). -/
def State.failPendingAll (s : State) (code : Nat) (f : Nat → Shard → Bool) : State :=
  s.srv.foldl (fun (st : State) (v : Nat × Server) =>
    let hit := v.2.pending.filter fun x => f x.1.kind x.1.shard
    let codeOf (q : Shard) : Bool := hit.any fun x => x.1.shard == q
    if hit.isEmpty then st else (st.failPending v.1 code codeOf).letGoAll v.1 (hit.map fun x => x.1.shard.issuer)) s

/-- Erases the key slots that `f` selects at one point in each server's order (R403): pending shards that need one fail REVOKED. -/
def State.eraseSlots (s : State) (f : Nat → Bool) : State :=
  ({ s with keys := s.keys.filter fun k => !f k.1 }).failPendingAll 0x0D fun kind q => (s.slotsOf kind q).any fun k => f k

/-! ### Withdrawing and halting (R54, R317, R403, R434, R439) -/

/-- Every launch of a partition that `f` selects, in order of acceptance. -/
def State.launchesOf (s : State) (p : Nat) : List Nat :=
  (s.launches.filter fun l => l.lrec.part == p && !l.st.isEnded && !l.st.unchecked).map fun l => l.n

/-- The contexts of a partition become invalid at every server, and what is pending there fails REVOKED (R403). -/
def State.dropContexts (s : State) (p : Nat) : State :=
  let s1 := { s with srv := s.srv.map fun (v : Nat × Server) =>
    (v.1, { v.2 with ctx := v.2.ctx.map fun (c : Nat × CtxDesc) => if c.2.part = p then (c.1, { c.2 with valid := false }) else c }) }
  s1.failPendingAll 0x0D fun _ q => (Sparse.get noCtx (s.getSrv q.srv).ctx q.actx).part == p

/-- Halts a partition (R318, R439): every tile is parked, every gang ends FAULTED with REASON 0 and TILE 0, once its parking record has been
delivered where it stands on tiles (R324), and the items of its stages are discarded without a record (R434). -/
def State.haltPartition (s : State) (p : Nat) : State :=
  let s0 := s.modPart p fun x => { x with halted := true }
  let mine (i : Item) : Bool := Sparse.get none s.stgPart i.stage == some p
  let s1 := { s0 with disp := { s0.disp with queues := s0.disp.queues.filter (fun i => !mine i), logged := s0.disp.logged.filter fun x => !mine x.item } }
  let s2 := (s1.tilesOf p).foldl (fun st ep =>
    let t := st.getTile ep
    if t.run = .removed || t.run = .parked then st else st.park ep) s1
  (s2.launchesOf p).foldl (fun st n =>
    match st.launchNo n with
    | none => st
    | some l =>
      let st1 := st.modLaunch n fun l => { l with halt := true }
      if l.parkedBy.isSome then st1 else st1.endLaunch n 7 0 0) s2

/-- What the management controller zeroes after a halt; the partition may then be used again (R439). -/
def State.wipePartition (s : State) (p : Nat) : State :=
  (s.tilesOf p).foldl (fun st ep => st.modTile ep fun t => { t.wiped with run := if t.run = .parked then .idle else t.run })
    (s.modPart p fun x => { x with halted := false })

/-- Withdraws every launch of a partition (R54, R317). -/
def State.withdrawAll (s : State) (p : Nat) : State := (s.launchesOf p).foldl (fun st n => st.quit n 6 0) s

/-- The partitions of a package (R32). -/
def partNumbers : List Nat := List.range 64

end Sys2Proof.Machine
end

