-- ==== Sys2Proof/Machine/Host.lean ====
section
/-!
DEFINITION. The host port (R308 to R312, R317, R329, R361, R409, R436, R438 to R440): descriptors and completions of a host function,
the writes that the host makes to its window and to BAR 2, and the TDISP interface of a function.
-/
namespace Sys2Proof.Machine

def hostKey (fn : Nat) : Nat := 0x500 + fn

/-! ### Descriptors (R310, R311) -/

/-- The descriptor in 64 bytes; its bytes that are to be zero do nothing (log 110). -/
def Descriptor.ofBytes (l : List Byte) : Descriptor :=
  { op := BitVec.ofNat 8 (field l 0 1), actx := BitVec.ofNat 16 (field l 2 2), rank := BitVec.ofNat 32 (field l 4 4)
    tag := BitVec.ofNat 32 (field l 8 4), group := BitVec.ofNat 16 (field l 0xC 2), len := BitVec.ofNat 32 (field l 0x10 4)
    tagmask := BitVec.ofNat 32 (field l 0x14 4), haddr := BitVec.ofNat 64 (field l 0x18 8), va := BitVec.ofNat 64 (field l 0x20 8)
    cookie := BitVec.ofNat 64 (field l 0x28 8) }

/-- Whether a function acts on descriptors at all: its queues are active and its interface is not in ERROR (R309, R439). -/
def HostFn.active (f : HostFn) : Bool := f.en && f.state != .error

/-- The entry that a descriptor makes; it frees itself, since its completion goes to the queue. -/
def hostEntry (d : Descriptor) (id : Nat) (k : EKind) (xid : W32) : Ent :=
  { Ent.fresh id k with
    rank := d.rank, tag := d.tag, group := d.group, len := d.len.toNat, buf := .host d.haddr.toNat, detached := true, xid
    cookie := d.cookie, rcd := { Rec.zero with source := d.rank, tag := d.tag, group := d.group } }

/-- Adds an entry to a function's interface, and `now` to what completes in the next step. -/
def State.addHost (s : State) (fn : Nat) (e : Ent) (now : Option (BitVec 8)) : State :=
  s.modNi (hostKey fn) fun n =>
    { n with
      ents := n.ents ++ [match now with | some _ => { e with phase := .closing } | none => e], nextId := n.nextId + 1, nextXid := n.nextXid + 1
      instant := match now with | some st => n.instant ++ [(e.id, st.toNat, s.cycle + 1)] | none => n.instant }

/-- A descriptor of an active function: one bound to no partition completes it DENIED, another has the effect `f` gives its entry
(R308, R310). -/
def State.descriptor (s : State) (fn : Nat) (d : Descriptor) (k : EKind) (f : Ent → State) : State :=
  let h := s.getFn fn
  if !h.active then s
  else
    let e := hostEntry d h.ni.nextId k h.ni.nextXid
    if h.part.isNone then s.addHost fn e (some stDENIED) else f e

/-- HOST_SEND and HOST_SENDR act as SEND and SENDR (R264, R310). -/
def State.hostSend (s : State) (fn : Nat) (d : Descriptor) (k : EKind) : State :=
  s.descriptor fn d k fun e =>
    let key := hostKey fn
    if maxLen < d.len.toNat then s.addHost fn { e with len := d.len.toNat % 2 ^ 24 } (some stDENIED)
    else
      match s.sendFate d.rank with
      | some f => s.addHost fn e (some f.1)
      | none =>
        ((s.addHost fn { e with watch := if k == .sendr then (s.getNi key).unperformed else [] } none).pump key).releases key
def execHostSend (fn : Nat) (d : Descriptor) (s : State) : Out := .next (s.hostSend fn d .send)
def execHostSendr (fn : Nat) (d : Descriptor) (s : State) : Out := .next (s.hostSend fn d .sendr)

/-- HOST_POST acts as POST; 0xFFFF_FFFF is any source (R265, R310). -/
def State.hostPost (s : State) (fn : Nat) (d : Descriptor) : State :=
  s.descriptor fn d .post fun e =>
    let key := hostKey fn
    if maxLen < d.len.toNat then s.addHost fn { e with len := d.len.toNat % 2 ^ 24 } (some stDENIED)
    else
      (s.addHost fn { e with phase := .posted, any := d.rank == 0xFFFFFFFF, mask := d.tagmask, rcd := { Rec.zero with group := d.group } }
        none).postSearch key e.id
def execHostPost (fn : Nat) (d : Descriptor) (s : State) : Out := .next (s.hostPost fn d)

/-- HOST_CANCEL acts as CANCEL on the POST with the COOKIE in VA; like CANCEL it has no record of its own (R269, R310). -/
def State.hostCancel (s : State) (fn : Nat) (d : Descriptor) : State :=
  s.descriptor fn d .post fun _ =>
    let key := hostKey fn
    match (s.getNi key).ents.find? fun e => e.kind == .post && e.cookie == d.va && e.phase != .done with
    | some e => s.cancel key e.id
    | none => s
def execHostCancel (fn : Nat) (d : Descriptor) (s : State) : Out := .next (s.hostCancel fn d)

/-- HOST_GET and HOST_PUT act as GET and PUT under a context of the function's partition (R271, R310). -/
def State.hostMove (s : State) (fn : Nat) (d : Descriptor) (k : EKind) : State :=
  s.descriptor fn d k fun e =>
    let key := hostKey fn
    let va := d.va.toNat
    let len := d.len.toNat
    let good := decide (len ≤ 1048576) && decide (va < 2 ^ 48) && decide (va + len ≤ 2 ^ 48) && Sparse.get none s.ctxPart d.actx.toNat == (s.getFn fn).part
    let ps := if good then rangePieces 0 va len else []
    let src := match ps with | p :: _ => s.rankOf (0x400 + homeOf p.va) | [] => 0
    let e := { e with rcd := { Rec.zero with source := src, group := d.group, flen := len } }
    if !good || decide (64 < (homesOf ps).length) then s.addHost fn { e with len := len % 2 ^ 24 } (some stDENIED)
    else if ps.isEmpty then s.addHost fn e (some stOK)
    else
      let b := if k == .put then (s.readBuf key e 0 len).1 else []
      (s.addHost fn e none).issueShards key e.id
        (shardsOf (s.niRank key) e.xid.toNat d.actx.toNat d.group k.shardKind ps b 0 none [])
def execHostGet (fn : Nat) (d : Descriptor) (s : State) : Out := .next (s.hostMove fn d .get)
def execHostPut (fn : Nat) (d : Descriptor) (s : State) : Out := .next (s.hostMove fn d .put)

/-- HOST_DENIED_OP: any other OP completes DENIED (R310). -/
def State.hostDenied (s : State) (fn : Nat) (d : Descriptor) : State := s.descriptor fn d .send fun e => s.addHost fn e (some stDENIED)
def execHostDeniedOp (fn : Nat) (d : Descriptor) (s : State) : Out := .next (s.hostDenied fn d)

/-- A descriptor by its OP (R310). -/
def State.runDescriptor (s : State) (fn : Nat) (d : Descriptor) : State :=
  match d.op.toNat with
  | 0x01 => s.hostSend fn d .send
  | 0x02 => s.hostSend fn d .sendr
  | 0x05 => s.hostPost fn d
  | 0x0B => s.hostCancel fn d
  | 0x0D => s.hostMove fn d .get
  | 0x0E => s.hostMove fn d .put
  | _ => s.hostDenied fn d

/-- The table that a descriptor needs has room (R85). -/
def Ni.roomFor (n : Ni) (op : BitVec 8) : Bool :=
  match op.toNat with
  | 0x05 => !n.full .post
  | 0x0D => !n.full .get
  | 0x0E => !n.full .get
  | 0x0B => true
  | _ => !n.full .send

/-- How many descriptors stand between HEAD and TAIL, modulo 2^32. -/
def HostFn.waiting (f : HostFn) : Nat := (f.sqTail + 2 ^ 32 - f.sqHead) % 2 ^ 32

/-- Takes descriptors in ring order while the queue is active and the tables have room; after QERR, only once TAIL has been rewritten (R311). -/
def State.fetchDescriptors (s : State) (fn : Nat) : Nat → State
  | 0 => s
  | fuel + 1 =>
    let f := s.getFn fn
    let n := f.sqSize.toNat
    if !f.active || f.qerr || f.tailDue || f.enOff || f.waiting = 0 || n < f.waiting then s
    else
      let a := f.sqBase.toNat + 64 * (f.sqHead % n)
      let d := Descriptor.ofBytes ((List.range 64).map fun i => Sparse.get 0 s.hostMem (a + i))
      if !f.ni.roomFor d.op then s
      else ((s.modFn fn fun f => { f with sqHead := (f.sqHead + 1) % 2 ^ 32 }).runDescriptor fn d).fetchDescriptors fn fuel

/-- Fetching, with fuel for the largest ring. -/
def State.fetch (s : State) (fn : Nat) : State := s.fetchDescriptors fn 4096

/-! ### Completions (R311) -/

/-- A completion-queue entry: the record, COOKIE and zeros (R310). -/
def cqBytes (r : Rec) (cookie : Word) : List Byte := (r.words.flatMap fun w => toLE 8 w.toNat) ++ toLE 8 cookie.toNat ++ toLE 24 0

/-- COMPLETION_QUEUE_WRITE: the oldest completion is written once the queue has room; MSI-X vector 0 fires when enabled. -/
def State.writeCompletion (s : State) (fn : Nat) : State :=
  let f := s.getFn fn
  match f.ni.waitCq with
  | [] => s
  | c :: rest =>
    if f.cqFull || f.state == .error then s
    else
      let a := f.cqBase.toNat + 64 * (f.cqTail % f.cqSize.toNat)
      let s1 := { s with hostMem := putBytes s.hostMem a (cqBytes c.1 c.2) }
      let s2 := s1.modFn fn fun f =>
        { f with cqTail := (f.cqTail + 1) % 2 ^ 32, msix := if f.ien then f.msix + 1 else f.msix, ni := { f.ni with waitCq := rest } }
      if rest.isEmpty then s2 else { s2 with sched := s2.sched ++ [(s.cycle + 1, .completionQueueWrite fn)] }
def execCompletionQueueWrite (fn : Nat) (s : State) : Out := .next (s.writeCompletion fn)

/-- A write of EN to 0 is applied once every fetched descriptor has completed (R311). -/
def State.settleEn (s : State) (fn : Nat) : State :=
  let f := s.getFn fn
  if f.enOff && f.ni.ents.isEmpty && f.ni.waitCq.isEmpty then s.modFn fn fun f => { f with en := false, enOff := false } else s

/-! ### TDISP (R312, R438 to R440) -/

/-- Entry to ERROR, in the order of R439: EN cleared and everything outstanding abandoned, the partition halted, its key slots erased
and its contexts invalid, one record. -/
def State.tdispError (s : State) (fn : Nat) (addr : Nat) (cause : Word) : State :=
  let f := s.getFn fn
  if f.state == .error then s
  else
    let s1 := s.modFn fn fun f =>
      { f with en := false, enOff := false, state := .error, ni := { f.ni with ents := [], waitCq := [], waiting := [], instant := [], unexp := [] } }
    let s2 := match f.part with
      | some p => ((s1.haltPartition p).eraseSlots fun k => Sparse.get none s.keys k == some p).dropContexts p
      | none => s1
    s2.log 0x0B 3 0x0211 (hostKey fn) (f.part.getD 0xFFFF) 0xFFFF addr 0 cause 0

/-- LOCK_INTERFACE (R312): the interface is the function with its partition. -/
def execLockInterface (fn : Nat) (s : State) : Out :=
  .next (if (s.getFn fn).state == .unlocked && (s.getFn fn).part.isSome then s.modFn fn fun f => { f with state := .locked, locks := f.locks + 1 }
    else s)
/-- START_INTERFACE (R312). -/
def execStartInterface (fn : Nat) (s : State) : Out :=
  .next (if (s.getFn fn).state == .locked then s.modFn fn fun f => { f with state := .run } else s)

/-- A function's window registers at their reset values (R309, R439). -/
def HostFn.resetWindow (f : HostFn) : HostFn :=
  { f with qerr := false, ien := false, en := false, enOff := false, tailDue := false, sqBase := 0, sqSize := 0, sqTail := 0, sqHead := 0, cqBase := 0,
           cqSize := 0, cqHead := 0, cqTail := 0 }

/-- STOP_INTERFACE: to CONFIG_UNLOCKED; from ERROR the partition's state is zeroed and the window returns to reset (R439). -/
def State.stopInterface (s : State) (fn : Nat) : State :=
  let f := s.getFn fn
  if f.state == .error then
    let s1 := match f.part with | some p => s.wipePartition p | none => s
    s1.modFn fn fun f => { f.resetWindow with state := .unlocked }
  else s.modFn fn fun f => { f with state := .unlocked }
def execStopInterface (fn : Nat) (s : State) : Out := .next (s.stopInterface fn)

/-- The device-specific area of the report (R440); a partition's key slots are those assigned to it or loaded for it (R32, R144). -/
def State.reportBytes (s : State) (fn p : Nat) : List Byte :=
  let count (l : List (Nat × Option Nat)) : Nat := (l.filter fun x => x.2 == some p).length
  let slots := (((s.keys ++ s.slotPart).filter fun x => x.2 == some p).map fun x => x.1).eraseDups.length
  toLE 2 1 ++ toLE 1 (p % 64) ++ toLE 1 0 ++ toLE 2 (count s.owner) ++ toLE 2 slots ++ toLE 2 (count s.grpPart) ++
  toLE 2 (count s.ctxPart) ++ toLE 4 (s.getFn fn).locks ++ toLE 16 0

/-- GET_DEVICE_INTERFACE_REPORT: the area, and one MMIO range, BAR 0 with 64 KiB, range 0; the error response, with neither, in CONFIG_UNLOCKED
(R440). -/
def execGetDeviceInterfaceReport (fn : Nat) (s : State) : Out :=
  .next (s.modFn fn fun f =>
    match (if f.state == .unlocked then none else f.part) with
    | some p => { f with report := s.reportBytes fn p, mmio := [(0, 65536, 0)] }
    | none => { f with report := [], mmio := [] })

/-- IDE_INTEGRITY_FAILURE (R312, R439). -/
def execIdeIntegrityFailure (fn off : Nat) (s : State) : Out := .next (s.tdispError fn off 2)

/-! ### The host window (R309, R311, R361, R438) -/

/-- SQSIZE and CQSIZE: powers of 2 from 16 to 4,096; the bases 4 KiB aligned (R361). -/
def ringOk (base size : Word) : Bool :=
  [16, 32, 64, 128, 256, 512, 1024, 2048, 4096].contains size.toNat && base.extractLsb' 0 12 == 0
def HostFn.ringsOk (f : HostFn) : Bool := ringOk f.sqBase f.sqSize && ringOk f.cqBase f.cqSize

/-- A write of HWCTL: IEN, QERR cleared by 1, and EN where it may change (R309, R361, R438). -/
def State.hwctl (s : State) (fn : Nat) (v : Word) : State :=
  let s1 := s.modFn fn fun f => { f with ien := v.getLsbD 1, qerr := f.qerr && !v.getLsbD 2 }
  let f := s1.getFn fn
  let s2 := if f.state == .locked || f.state == .error then s1
    else if v.getLsbD 0 then
      (if f.en then s1.modFn fn fun f => { f with enOff := false }
       else if f.ringsOk then s1.modFn fn fun f => { f with en := true } else s1)
    else if f.en then (s1.modFn fn fun f => { f with enOff := true }).settleEn fn else s1
  s2.fetch fn
def execHwctlEnWrite (fn : Nat) (v : Word) (s : State) : Out := .next (s.hwctl fn v)
/-- QERR_CLEAR: the same register; fetching resumes (R311). -/
def execQerrClear (fn : Nat) (v : Word) (s : State) : Out := .next (s.hwctl fn v)

/-- SQTAIL_WRITE: a tail beyond the ring sets QERR; else the new descriptors are fetched (R311, R361). -/
def State.sqtail (s : State) (fn : Nat) (v : Word) : State :=
  let s1 := s.modFn fn fun f =>
    let g := { f with sqTail := v.toNat % 2 ^ 32 }
    let bad := decide (g.sqSize.toNat < g.waiting)
    { g with qerr := g.qerr || bad, tailDue := bad }
  s1.fetch fn
def execSqtailWrite (fn : Nat) (v : Word) (s : State) : Out := .next (s.sqtail fn v)

/-- CQHEAD_WRITE: a value that leaves more than CQSIZE entries is ignored; completions that waited go on (R311, R361). -/
def State.cqhead (s : State) (fn : Nat) (v : Word) : State :=
  let f := s.getFn fn
  let head := v.toNat % 2 ^ 32
  if f.cqSize.toNat < (f.cqTail + 2 ^ 32 - head) % 2 ^ 32 then s
  else { (s.modFn fn fun f => { f with cqHead := head }) with sched := s.sched ++ [(s.cycle + 1, .completionQueueWrite fn)] }
def execCqheadWrite (fn : Nat) (v : Word) (s : State) : Out := .next (s.cqhead fn v)

/-- A write to a register of the host window: RW-L fields only in CONFIG_UNLOCKED, after lock they move the interface to ERROR; RO
fields and reserved offsets are ignored (R309, R361, R438). An offset beyond the window stands for the address register of a BAR. -/
def State.windowWrite (s : State) (fn off : Nat) (v : Word) : State :=
  let lockedField (g : HostFn → HostFn) : State :=
    match (s.getFn fn).state with
    | .unlocked => s.modFn fn g
    | .locked => s.tdispError fn off 1
    | .run => s.tdispError fn off 1
    | .error => s
  match off with
  | 0x000 => s.hwctl fn v
  | 0x008 => lockedField fun f => { f with sqBase := v }
  | 0x010 => lockedField fun f => { f with sqSize := v }
  | 0x018 => s.sqtail fn v
  | 0x028 => lockedField fun f => { f with cqBase := v }
  | 0x030 => lockedField fun f => { f with cqSize := v }
  | 0x038 => s.cqhead fn v
  | _ => if 0x10000 ≤ off then lockedField id else s
/-- LOCKED_FIELD_WRITE (R438). -/
def execLockedFieldWrite (fn off : Nat) (v : Word) (s : State) : Out := .next (s.windowWrite fn off v)

/-! ### BAR 2 (R317, R329, R361, R409, R436) -/

def State.onMgmt (s : State) (f : Mgmt → Mgmt) : State := { s with mgmt := f s.mgmt }

/-- ELHEAD_WRITE: a value that leaves more than 4,096 records is ignored. -/
def Mgmt.elheadWrite (m : Mgmt) (v : Word) : Mgmt :=
  let h := v.toNat % 2 ^ 32
  if 4096 < (m.elTail + 2 ^ 32 - h) % 2 ^ 32 then m else { m with elHead := h }
def execElheadWrite (v : Word) (s : State) : Out := .next (s.onMgmt fun m => m.elheadWrite v)

/-- JHEAD_WRITE: as ELHEAD; with room in the journal, swapping resumes (R409). -/
def Mgmt.jheadWrite (m : Mgmt) (v : Word) : Mgmt :=
  let h := v.toNat % 2 ^ 32
  if 8192 < (m.jTail + 2 ^ 32 - h) % 2 ^ 32 then m
  else
    let n := { m with jHead := h }
    { n with jFull := n.jFull && !n.journalRoom }
def execJheadWrite (v : Word) (s : State) : Out := .next (s.onMgmt fun m => m.jheadWrite v)

/-- PWRLIM_WRITE: bits 11:0, clamped to 600–2,400 W (R317, R361). -/
def Mgmt.pwrlimWrite (m : Mgmt) (v : Word) : Mgmt := { m with pwrlim := Nat.max 600 (Nat.min 2400 (v.toNat % 4096)) }
def execPwrlimWrite (v : Word) (s : State) : Out := .next (s.onMgmt fun m => m.pwrlimWrite v)

/-- ALARMCTL_WRITE: once LOCK is 1, it stays and POLICY is not lowered (R436). -/
def Mgmt.alarmctlWrite (m : Mgmt) (v : Word) : Mgmt :=
  let p := v.toNat % 4
  { m with policy := if m.alock && decide (p < m.policy) then m.policy else p, alock := m.alock || v.getLsbD 2 }
def execAlarmctlWrite (v : Word) (s : State) : Out := .next (s.onMgmt fun m => m.alarmctlWrite v)

/-- ALARMSTAT_CLEAR: SRC is cleared where the write has ones (R436). -/
def Mgmt.alarmstatClear (m : Mgmt) (v : Word) : Mgmt := { m with asrc := m.asrc &&& ~~~(v.extractLsb' 0 4) }
def execAlarmstatClear (v : Word) (s : State) : Out := .next (s.onMgmt fun m => m.alarmstatClear v)

/-- REMAPCTL_WRITE: EN of a stack (R154). -/
def State.remapctl (s : State) (stack : Nat) (v : Word) : State := if stack < 12 then s.modBase stack fun b => { b with en := v.getLsbD 0 } else s
def execRemapctlWrite (stack : Nat) (v : Word) (s : State) : Out := .next (s.remapctl stack v)

/-- A write to BAR 2, of PF 0 alone: the registers that have RW or W1C fields (R154, R308, R361). -/
def State.bar2Write (s : State) (off : Nat) (v : Word) : State :=
  match off with
  | 0x20 => s.onMgmt fun m => m.pwrlimWrite v
  | 0x38 => s.onMgmt fun m => m.elheadWrite v
  | 0x40 => s.onMgmt fun m => { m with elIen := v.getLsbD 0 }
  | 0x50 => s.onMgmt fun m => m.jheadWrite v
  | 0x60 => s.onMgmt fun m => m.alarmctlWrite v
  | 0x68 => s.onMgmt fun m => m.alarmstatClear v
  | _ => if 0x100000 ≤ off && off % 0x1000 = 0 then s.remapctl ((off - 0x100000) / 0x1000) v else s

/-- HOST_REGISTER_WRITE (R361). -/
def execHostRegisterWrite (fn : Nat) (bar2 : Bool) (off : Nat) (v : Word) (s : State) : Out :=
  .next (if bar2 then (if fn = 0 then s.bar2Write off v else s) else s.windowWrite fn off v)

end Sys2Proof.Machine
end

