-- ==== Sys2Proof/Machine/Manage.lean ====
section
/-!
DEFINITION. The management controller (R26, R32 to R34, R92, R141 to R144, R155, R161, R308, R314 to R317, R328, R372, R402, R403,
R434 to R437): what it sets at the request of system software, start-up, power, time and the security alarm.
-/
namespace Sys2Proof.Machine

/-! ### Partitions (R32 to R34, R155, R312) -/

/-- PARTITION_ASSIGN: a resource goes to a partition; a locked interface freezes tiles, key slots and groups (R312). A key slot that is
assigned holds no key until one is loaded (R144). A layout of regions that
overlap or leave the weight space is not taken; the tile moves all the same (log 87). -/
def State.assign (s : State) (p : Nat) (r : Resource) : State :=
  if 64 ≤ p then s
  else
    match r with
    | .tile ep l =>
      let s1 := s.moveTile ep p
      if s1.partOf ep == some p && regionsOk l && (s1.getTile ep).vacant && !s.frozen (some p) then s1.modTile ep fun t => t.layOut l else s1
    | .ctx a => if a < 65536 then { s with ctxPart := Sparse.set none s.ctxPart a (some p) } else s
    | .key k =>
      if k < 16384 && !s.frozen (some p) && !s.frozen (Sparse.get none s.slotPart k) &&
          ((Sparse.get none s.keys k).isNone || Sparse.get none s.keys k == some p) then
        { s with slotPart := Sparse.set none s.slotPart k (some p) }
      else s
    | .group g =>
      if g < 65536 && !s.frozen (some p) && !s.frozen (Sparse.get none s.grpPart g) then { s with grpPart := Sparse.set none s.grpPart g (some p) }
      else s
    | .stage n => if n < 256 then { s with stgPart := Sparse.set none s.stgPart n (some p) } else s
    | .fn f => if f < 64 && !(s.getFn f).frozen then s.modFn f fun h => { h with part := some p } else s
def execPartitionAssign (part : Nat) (r : Resource) (s : State) : Out := .next (s.assign part r)

/-- TILE_PARTITION_MOVE (R33). -/
def execTilePartitionMove (ep part : Nat) (s : State) : Out := .next (s.moveTile ep part)

/-- The index of a parameter (`paramDefault`), and its range (R34, R372, R434, R435). -/
def paramIndex : Param → Nat
  | .ageStep => 0 | .ageLimit => 1 | .horizon => 2 | .maxPend => 3 | .absLimit => 4 | .shardTo => 5 | .retryMax => 6 | .retIdle => 7
def paramOk (q : Param) (v : Nat) : Bool :=
  let between (a b : Nat) : Bool := decide (a ≤ v) && decide (v ≤ b)
  match q with
  | .ageStep => between 100 100000
  | .ageLimit => between 1000 10000000
  | .horizon => between 1000 100000000
  | .maxPend => between 1 4096
  | .absLimit => between 1000 10000000
  | .shardTo => between 50 100000
  | .retryMax => between 1 255
  | .retIdle => decide (v = 0) || between 10 1000000

/-- Queued items that have had RETRYMAX deliveries are dropped, each with a record (R434). -/
def State.dropSpent (s : State) (p limit : Nat) : State :=
  let spent (i : Item) : Bool := Sparse.get none s.stgPart i.stage == some p && decide (limit ≤ i.count)
  (s.disp.queues.filter spent).foldl (fun st i =>
    st.log 0x0A 1 0x020B Config.dispatcherEp p 0xFFFF i.stage 0 (BitVec.ofNat 64 (ofBytes (i.data.take 8))) (BitVec.ofNat 64 (ofBytes (i.data.drop 8))))
    { s with disp := { s.disp with queues := s.disp.queues.filter fun i => !spent i } }

/-- With RETIDLE 0 the regions in retention leave it (R435). -/
def State.endRetention (s : State) (p : Nat) : State :=
  (s.tilesOf p).foldl (fun st ep => st.modTile ep fun t =>
    (List.range 8).foldl (fun t j => match t.retained j with | some (.kept _) => t.touchRegion s.time j | some (.entering _) => t.touchRegion s.time j | _ => t) t) s

/-- PLACER_PARAMETER_SET: a value out of range is refused (R34, R372, R434, R435). -/
def State.setParam (s : State) (p : Nat) (q : Param) (v : Nat) : State :=
  if 64 ≤ p || !paramOk q v then s
  else
    let i := paramIndex q
    let s1 := s.modPart p fun x => { x with params := Sparse.set (paramDefault i) (x.params.filter fun y => y.1 == i) i v ++ x.params.filter fun y => y.1 != i }
    let s2 := match q with
      | .retryMax => s1.dropSpent p v
      | .retIdle => if v = 0 then s1.endRetention p else s1
      | _ => s1
    s2.kick p
def execPlacerParameterSet (part : Nat) (q : Param) (v : Nat) (s : State) : Out := .next (s.setParam part q v)

/-- GROUP_DESCRIPTOR_WRITE: EAGER 64 to 2,048 in steps of 64, SLOTW up to 65,535, at most 256 descriptors (R92); a locked interface freezes its
partition's groups (R312). -/
def State.groupDescriptor (s : State) (p g eager slotw : Nat) : State :=
  let x := s.getPart p
  let known := x.groups.any fun y => y.1 == g
  if p < 64 && !s.frozen (some p) && Sparse.get none s.grpPart g == some p && 64 ≤ eager && eager ≤ 2048 && eager % 64 = 0 && slotw ≤ 65535 &&
      (known || x.groups.length < 256) then
    s.modPart p fun x => { x with groups := Sparse.set (0, 0) x.groups g (eager, slotw) }
  else s
def execGroupDescriptorWrite (part group eager slotw : Nat) (s : State) : Out := .next (s.groupDescriptor part group eager slotw)

/-! ### Halo group entries (R161, R162) -/

/-- A group entry's fields. -/
def GEntry.ofBits (e : BitVec 128) (part : Nat) : GEntry :=
  { group := e.extractLsb' 112 16, expect := (e.extractLsb' 90 11).toNat, nelem := (e.extractLsb' 74 16).toNat, op := (e.extractLsb' 70 4).toNat
    ityp := (e.extractLsb' 68 2).toNat, otyp := (e.extractLsb' 66 2).toNat, parent := e.getLsbD 65, valid := e.getLsbD 64
    child := e.extractLsb' 0 16, part }

/-- A row of R162. -/
def opRow (op ityp otyp : Nat) : Bool :=
  if op = 0 then decide (ityp ≤ 2) && decide (otyp ≤ 2)
  else if op ≤ 8 then decide (ityp = 3) && decide (otyp = 3)
  else decide (op ≤ 0xA) && decide (ityp = 0) && decide (otyp = 0)

/-- The places that CHILD names. -/
def childrenOf (e : GEntry) : List Nat := (List.range 16).filter fun i => e.child.getLsbD i

/-- The die of a row or die node. -/
def dieOf (node : Nat) : Nat := if node < 64 then node / 16 else node - 64

/-- The conditions of R161 for one entry of a group, `at_` giving the group's entry at every node: EXPECT, the top, and OP with its types. A
group is written from its rows up, so an entry may still lack the one above it. -/
def entryFits (at_ : Nat → Option GEntry) (node : Nat) (e : GEntry) : Bool :=
  let kids := childrenOf e
  let below := kids.map fun i => at_ (nodeChild node i)
  let sum := below.foldl (fun n x => n + (x.elim 0 fun y => y.expect)) 0
  opRow e.op e.ityp e.otyp && decide (1 ≤ e.expect) && decide (e.expect ≤ 1024) &&
    (if node < 64 then e.expect == kids.length && e.parent
     else
       below.all (fun x => (x.map fun y => y.parent) == some true) && e.expect == sum &&
         (if node < 68 then e.parent || (List.range 69).all fun m => (at_ m).isNone || (decide (m < 68) && dieOf m == node - 64)
          else !e.parent && kids.all (fun i => decide (i < 4)) && decide (2 ≤ kids.length)))

/-- Every entry of a group keeps the conditions of R161 once `e` stands at a node, or nothing of the group does there. -/
def State.entryOk (s : State) (node : Nat) (g : BitVec 16) (e : Option GEntry) : Bool :=
  let at_ (m : Nat) : Option GEntry := if m = node then e else (s.getNode m).entry g
  (List.range 69).all fun m => (at_ m).all fun x => entryFits at_ m x

/-- Groups with a valid entry somewhere. -/
def State.liveGroups (s : State) : List (BitVec 16) :=
  s.halo.foldl (fun l n => (n.2.entries.filter fun e => e.valid).foldl (fun l e => if l.contains e.group then l else l ++ [e.group]) l) []

/-- GROUP_ENTRY_WRITE: refused when it breaks a condition, for a group of another partition, at a failed node or under a lock
(R161, R312, R420). The group's rounds begin anew (R164; log 84). -/
def State.groupEntry (s : State) (p node : Nat) (b : BitVec 128) : State :=
  let e := GEntry.ofBits b p
  if 64 ≤ p || 68 < node || s.frozen (some p) || Sparse.get none s.grpPart e.group.toNat != some p || (s.getNode node).failed then s
  else if !s.entryOk node e.group (if e.valid then some e else none) ||
      (e.valid && !s.liveGroups.contains e.group && decide (4096 ≤ s.liveGroups.length)) then s
  else
    (s.modNode node fun h => { h with entries := (h.entries.filter fun x => x.group != e.group) ++ (if e.valid then [e] else []) }).restartRounds
      fun g => g == e.group
def execGroupEntryWrite (part node : Nat) (e : BitVec 128) (s : State) : Out := .next (s.groupEntry part node e)

/-! ### Contexts, pages and keys (R141 to R144, R400 to R403) -/

/-- CONTEXT_DESCRIPTOR_WRITE: PENDLIMIT is 1 ms to 10 s, in microseconds (R141, R400). -/
def State.contextDescriptor (s : State) (k actx : Nat) (d : CtxDesc) : State :=
  if k < 192 && actx < 65536 && d.part < 64 && 1000 ≤ d.pendLimit && d.pendLimit ≤ 10000000 then
    s.modSrv k fun v => { v with ctx := Sparse.set noCtx v.ctx actx d }
  else s
def execContextDescriptorWrite (srv actx : Nat) (d : CtxDesc) (s : State) : Out := .next (s.contextDescriptor srv actx d)

/-- PAGE_ENTRY_CHANGE: the entry is written, the cached copy dropped, and pending shards of the page are translated again (R143,
R402). -/
def State.pageEntry (s : State) (k actx pn addr : Nat) (e : Word) : State :=
  if 192 ≤ k || 2 ^ 36 ≤ addr then s
  else
    let s1 := { s with tables := Sparse.set 0 s.tables (k / 16 * 2 ^ 36 + addr) e }
    (s1.modSrv k fun v => { v with tlb := v.tlb.filter fun t => !(t.1 == actx && t.2.1 == pn) }).retranslate k fun q page _ =>
      q.actx == actx && page == pn
def execPageEntryChange (srv actx pn addr : Nat) (e : Word) (s : State) : Out := .next (s.pageEntry srv actx pn addr e)

/-- POOL_REFILL: frames join the context's pool, which every server has for itself, and the shards that wait for a frame are translated again
(R141, R402; log 86). -/
def State.refill (s : State) (k actx : Nat) (frames : List Nat) : State :=
  if 192 ≤ k then s
  else
    let d := Sparse.get noCtx (s.getSrv k).ctx actx
    (s.modSrv k fun v => { v with ctx := Sparse.set noCtx v.ctx actx { d with pool := d.pool ++ frames } }).retranslate k fun q _ cause =>
      q.actx == actx && cause == 2
def execPoolRefill (srv actx : Nat) (frames : List Nat) (s : State) : Out := .next (s.refill srv actx frames)

/-- FAIL_PENDING_SHARDS: a context's pending shards on a server fail FAULT (R402). -/
def execFailPendingShards (srv actx : Nat) (s : State) : Out :=
  .next (let who := ((s.getSrv srv).pending.filter fun x => x.1.shard.actx == actx).map fun x => x.1.shard.issuer
         (s.failPending srv 0x08 fun q => q.actx == actx).letGoAll srv who)

/-- KEY_SLOT_LOAD: a slot of the partition, or of none, belongs to it until it is erased; it holds another key than before (R32, R144; log 30). -/
def State.loadSlot (s : State) (k p : Nat) : State :=
  let free (own : Option Nat) : Bool := own.isNone || own == some p
  if k < 16384 && p < 64 && free (Sparse.get none s.keys k) && free (Sparse.get none s.slotPart k) && !s.frozen (some p) then
    { s with keys := Sparse.set none s.keys k (some p), keyGen := Sparse.set 0 s.keyGen k (Sparse.get 0 s.keyGen k + 1) }
  else s
def execKeySlotLoad (slot part : Nat) (s : State) : Out := .next (s.loadSlot slot part)

/-- KEY_SLOT_ERASE (R403). -/
def execKeySlotErase (slot : Nat) (s : State) : Out :=
  .next (if s.frozen (Sparse.get none s.keys slot) then s else s.eraseSlots fun k => k == slot)

/-- FAULTRANK_SET (R328). -/
def execFaultrankSet (part : Nat) (rank : Rank) (group : Nat) (s : State) : Out :=
  .next (if part < 64 then s.modPart part fun x => { x with faultRank := rank, faultGrp := group % 65536 } else s)

/-- PKGMAP_WRITE (R314). -/
def execPkgmapWrite (pkg : Nat) (e : Word) (s : State) : Out :=
  .next (if pkg < 1048576 then s.onMgmt fun m => { m with pkgmap := Sparse.set 0 m.pkgmap pkg e } else s)

/-! ### Start-up, time and power (R26, R308, R315 to R317) -/

/-- START_UP: flash copy A, else B, verifies, the harvest map is applied to tiles and servers and the units are released; else the
package stays in recovery with PF 0 alone (R2, R26, R316). A server that the map removes is as one out of service (log 75). -/
def State.startUp (s : State) (f : Flash) : State :=
  if s.mgmt.boot != .reset then s
  else
    let s1 := s.modFn 0 fun h => { h with enabled := true }
    if f.copyA || f.copyB then
      f.harvest.foldl (fun st ep => if ep < 1024 then st.modTile ep fun t => { t with run := .removed } else st)
        ((f.harvest.filter fun ep => decide (0x400 ≤ ep) && decide (ep < 0x4C0)).foldl (fun st ep => st.modSrv (ep - 0x400) fun v => { v with out := true })
          (s1.onMgmt fun m =>
            { m with
              boot := .running, devKey := true, harvest := f.harvest.filter fun ep => decide (ep < 1024)
              outMask := (f.harvest.filter fun ep => decide (0x400 ≤ ep) && decide (ep < 0x4C0)).map fun ep => ep - 0x400 }))
    else s1.onMgmt fun m => { m with boot := .recovery, devKey := true, status := 0xDEAD0001 }
def execStartUp (f : Flash) (s : State) : Out := .next (s.startUp f)

/-- An interface whose times are counted from another TIME: `f` moves a time. -/
def Ni.moveTimes (n : Ni) (f : Nat → Nat) : Ni :=
  { n with ents := n.ents.map fun e =>
      { e with
        retryAt := e.retryAt.map f, absFrom := e.absFrom.map f
        shards := e.shards.map fun x => { x with due := if x.due = 0 then 0 else Nat.max 1 (f x.due) } } }

/-- TIME_SYNC: TIME takes the synchronised value, and TSYNC is set (R315). Intervals that are under way keep their length (log 99). -/
def State.timeSync (s : State) (ns : Nat) : State :=
  let t := ns % 2 ^ 64
  let f (x : Nat) : Nat := x + t - s.time
  let tile (u : Tile) : Tile :=
    { u with last := f u.last, ni := u.ni.moveTimes f, shadow := u.shadow.map fun c => { c with ni := c.ni.moveTimes f } }
  let launch (l : Launch) : Launch :=
    { l with placedAt := f l.placedAt, since := f l.since, suspAt := f l.suspAt, recordAt := l.recordAt.map f }
  { s with
    time := t, frac := 0, tile := tile s.tile, others := s.others.map tile, mgmt := { s.mgmt with tsync := true }
    nis := s.nis.map fun n => (n.1, n.2.moveTimes f)
    fns := s.fns.map fun h => (h.1, { h.2 with ni := h.2.ni.moveTimes f })
    launches := s.launches.map launch
    srv := s.srv.map fun v => (v.1, { v.2 with
      pending := v.2.pending.map fun x => (x.1, f x.2.1, x.2.2), log := v.2.log.map fun x => (x.1, x.2.1, x.2.2.1, x.2.2.2.1, f x.2.2.2.2) }) }
def execTimeSync (ns : Nat) (s : State) : Out := .next (s.timeSync ns)

/-- TILE_CLOCK_LOWERING: one step of 100 MHz (R317). -/
def execTileClockLowering (s : State) : Out := .next (s.onMgmt fun m => { m with clock := Nat.max 1 (m.clock - 1) })

/-- D3HOT_ENTRY: every partition is withdrawn, and the stacks refresh themselves (R317). -/
def execD3hotEntry (s : State) : Out := .next ((partNumbers.foldl (fun st p => st.withdrawAll p) s).onMgmt fun m => { m with d3hot := true })
/-- D0_ENTRY (R317). -/
def execD0Entry (s : State) : Out := .next (s.onMgmt fun m => { m with d3hot := false })

/-- SR_IOV_ENABLE: virtual functions 1 to 63; physical function 0 is always there (R308). -/
def execSrIovEnable (fn : Nat) (on : Bool) (s : State) : Out :=
  .next (if 1 ≤ fn && fn < 64 then s.modFn fn fun f => { f with enabled := on } else s)

/-! ### The security alarm (R436, R437) -/

/-- Every key slot is erased, and every locked or running interface moves to ERROR; that record's cause is not stated (R437, R439). -/
def State.eraseDataKeys (s : State) : State :=
  let s1 := s.eraseSlots fun _ => true
  (s1.fns.filter fun f => f.2.frozen).foldl (fun st f =>
    st.tdispError f.1 (Config.free 64 s.fresh (0xA000000 + f.1)).toNat (Config.free 64 s.fresh (0xA000100 + f.1))) s1

/-- Every tile of the package is parked; the package is halted and shows it (R437). -/
def State.haltPackage (s : State) : State :=
  let s1 := (List.range 1024).foldl (fun st ep =>
    let r := (st.getTile ep).run
    if r = .removed || r = .parked then st else st.park ep) s
  s1.onMgmt fun m => { m with boot := .halted, status := 0xDEAD0002 }

/-- ALARM: a record, and what the standing policy says; a thermal alarm halts the package under any (R437). -/
def State.alarm (s : State) (src : Nat) : State :=
  if 4 ≤ src then s
  else
    let m := s.mgmt
    let s1 := s.onMgmt fun m => { m with acount := min 255 (m.acount + 1), asrc := m.asrc ||| (1 <<< src) }
    let s2 := s1.log 0x0D 4 0x0210 Config.mgmtEp 0xFFFF 0xFFFF 0 0 (1 <<< src) 0
    let s3 := if 1 ≤ m.policy then s2.eraseDataKeys else s2
    let s4 := if 2 ≤ m.policy then s3.onMgmt fun m => { m with devKey := false, ideKeys := false, spdmKeys := false } else s3
    if 2 ≤ m.policy || src = 3 then s4.haltPackage else s4
def execAlarm (src : Nat) (s : State) : Out := .next (s.alarm src)

/-! ### What the host reads (R154, R309, R314, R317, R329, R399, R409, R436) -/

/-- A register of the host window; a reserved offset reads as zero (R309). -/
def HostFn.windowRead (f : HostFn) (off : Nat) : Word :=
  let bit (b : Bool) (n : Nat) : Nat := if b then 2 ^ n else 0
  match off with
  | 0x000 => BitVec.ofNat 64 (bit f.qerr 2 + bit f.ien 1 + bit f.en 0)
  | 0x008 => f.sqBase
  | 0x010 => f.sqSize
  | 0x018 => BitVec.ofNat 64 f.sqTail
  | 0x020 => BitVec.ofNat 64 f.sqHead
  | 0x028 => f.cqBase
  | 0x030 => f.cqSize
  | 0x038 => BitVec.ofNat 64 f.cqHead
  | 0x040 => BitVec.ofNat 64 f.cqTail
  | _ => 0

/-- The registers of the management block (R315, R317, R329, R409, R436). -/
def Mgmt.bar2Read (m : Mgmt) (off : Nat) : Option Word :=
  match off with
  | 0x00 => some m.status
  | 0x10 => some (if m.tsync then 1 else 0)
  | 0x20 => some (BitVec.ofNat 64 m.pwrlim)
  | 0x30 => some (BitVec.ofNat 64 m.elTail)
  | 0x38 => some (BitVec.ofNat 64 m.elHead)
  | 0x40 => some (BitVec.ofNat 64 (m.elDrops * 2 ^ 32 + if m.elIen then 1 else 0))
  | 0x48 => some (BitVec.ofNat 64 m.jTail)
  | 0x50 => some (BitVec.ofNat 64 m.jHead)
  | 0x60 => some (BitVec.ofNat 64 ((if m.alock then 4 else 0) + m.policy))
  | 0x68 => some (BitVec.ofNat 64 (m.acount * 256 + m.asrc.toNat))
  | _ => none

/-- The aligned 8-byte word of BAR 2 at an offset: the management block, the error-log ring, the swap journal, the remap blocks and PKGMAP;
none where the spec places nothing. A place of a ring that nothing has filled reads as zero (log 91). -/
def State.bar2Read (s : State) (off : Nat) : Option Word :=
  let word (l : List Byte) (at_ : Nat) : Word := BitVec.ofNat 64 (ofBytes ((l.drop at_).take 8))
  if off % 8 ≠ 0 then none
  else if off < 0x10000 then s.mgmt.bar2Read off
  else if off < 0x50000 then
    some (((s.mgmt.ring.find? fun x => x.1 == (off - 0x10000) / 64).map fun x => word x.2.bytes (off % 64)).getD 0)
  else if 0x60000 ≤ off && off < 0x80000 then some (word (Sparse.get [] s.mgmt.journal ((off - 0x60000) / 16)) (off % 16))
  else if 0x100000 ≤ off && off < 0x10C000 then s.remapRead ((off - 0x100000) / 0x1000) (off % 0x1000)
  else if 0x800000 ≤ off && off < 0x1000000 then some (Sparse.get 0 s.mgmt.pkgmap ((off - 0x800000) / 8))
  else none

end Sys2Proof.Machine
end

