-- ==== Sys2Proof/Machine/Matrix.lean ====
section
/-!
DEFINITION. The X slot: latching B blocks, matrix multiply, accumulator moves (R249 to R257, R366).
-/
namespace Sys2Proof.Machine

/-- X-slot operations are not executed on a speculative path and stall while the matrix engine is busy (R189, R186). -/
def State.xslot (s : State) (k : Out) : Out := s.confirmed (s.stallIf s.matrixBusy .busy k)

/-- The matrix engine is busy for `n` steps (R186). -/
def State.useMatrix (s : State) (n : Nat) : State := s.onTile fun t => { t with eng := { t.eng with matrix := s.cycle + n } }

/-! ### The B latch (R249 to R251) -/

/-- Bytes of a block: bf16 0, fp16 1, e4m3 2, e5m2 3, e2m1 4 (R250). -/
def blockBytes (fmt : Nat) : Nat :=
  match fmt with
  | 0 => 8448
  | 1 => 8448
  | 2 => 4352
  | 3 => 4352
  | _ => 6144

/-- The first poisoned anvil word of `n` bytes from `a`. -/
def Tile.anvilUe (t : Tile) (a n : Nat) : Option Nat :=
  t.poison.foldl (fun b p => match p with
    | .anvil w => if a < 8 * w + 8 && 8 * w < a + n then minOpt b (some w) else b
    | _ => b) none

/-- Latches the block at a weight-space address (R251, R347). -/
def State.latchBlock (s : State) (fmt a : Nat) : State :=
  let n := blockBytes fmt
  let data := (List.range n).map fun i => s.anvilByte (a + i)
  (s.onTile fun t => { t with latch := some ⟨fmt, data, a, n, s.cycle + 32, t.anvilUe a n⟩ }).useMatrix 32

/-- The checks of an anvil address that a block is latched from (R251, R366). -/
def State.blockCheck (s : State) (x : AnvilAddr) (fmt : Nat) : Option (Nat × Word) :=
  s.anvilCheck x.region x.off (blockBytes fmt) x.bad (decide (x.off % 256 ≠ 0))

/-- MLDB (R251). -/
def execMldb (a : BitVec 5) (f : BitVec 3) (s : State) : Out :=
  let x := s.opS 0 a
  let p := anvilOperand x.val
  s.xslot <| s.region p.region fun s =>
    s.checked { names := [.s a.toNat], ops := [x], first := s.blockCheck p f.toNat } fun s =>
      s.latchBlock f.toNat (s.tile.anvilAddr p.region p.off)

/-- MLDBG: while the generation is behind it stalls, when it has passed it traps, and else it acquires the region's bytes and latches
(R157, R356, R411). Only a latch is an access of the region (R435). A pair's trailing tile takes the generation that the leading tile read (R430). -/
def execMldbg (a b : BitVec 5) (f : BitVec 3) (s : State) : Out :=
  let x := s.opS 0 a
  let y := s.opS 1 b
  let p := anvilOperand x.val
  let go (agen : Word) (queue : State → State) (s : State) : Out :=
    let latches := decide (agen = y.val)
    let op (s : State) : Out :=
      (queue s).checked
        { names := [.s a.toNat, .s b.toNat], ops := [x, y], first := s.blockCheck p f.toNat
          later := if latches then none else some (tcGENERATION, agen) }
        fun s => (s.onTile fun t => t.acquireAnvil p.region).latchBlock f.toNat (s.tile.anvilAddr p.region p.off)
    if latches then s.region p.region op else op s
  s.xslot <| s.asyncStep
    (fun s =>
      let agen := s.cr (crAGEN0 + p.region)
      s.stallIf (agen - y.val).msb (.mldbg p.region) (go agen (fun s => s.queueStep [if agen = y.val then 1 else 0, agen]) s))
    (fun ws s => go (ws.getD 1 0) id s)

/-! ### Matrix multiply (R252, R253) -/

/-- The formats of an MMA: A, and the latch's code of B; E2M1 is decoded by R65. -/
structure MmaForm where
  a    : Fmt
  b    : Nat
  k    : Nat
  row  : Nat
  busy : Nat
  deriving DecidableEq, Repr

/-- The column of R252 named "accumulator readable after". -/
def MmaForm.readable (f : MmaForm) : Nat := f.busy + 16

/-- `n` latched bytes from `off` as a number. -/
def Latch.num (l : Latch) (off n : Nat) : Nat := ofLE ((l.data.drop off).take n)

/-- The column scale of column `n`, or the sidecar of block `b` of column `n` (R250). -/
def Latch.colScale (l : Latch) (n : Nat) : W32 := BitVec.ofNat 32 (l.num ((if l.fmt < 2 then 8192 else 4096) + 4 * n) 4)
def Latch.colSidecar (l : Latch) (n b : Nat) : Word := BitVec.ofNat 64 (l.num (4096 + 8 * (4 * n + b)) 8)

/-- The first invalid scale in the order of R366: row scales, then each column's scale or sidecars. -/
def scaleFault (rows : VBits) (l : Latch) : Option (Nat × Word) :=
  match (List.range 64).find? fun i => !scaleOk (lane rows i) with
  | some i => some (tcSCALE, scaleInfo i 0 0 (lane rows i))
  | none =>
    if l.fmt < 4 then
      ((List.range 64).find? fun n => !scaleOk (l.colScale n)).map fun n => (tcSCALE, scaleInfo n 0 1 (l.colScale n))
    else
      ((List.range 256).find? fun i => !sidecarOk (l.colSidecar (i / 4) (i % 4))).map fun i =>
        (tcSCALE, scaleInfo (i / 4) (i % 4) 2 (scaleOf (l.colSidecar (i / 4) (i % 4))))

/-- The exact product of two values, in units of the product of their units, and whether it is infinity times zero (R70). -/
def mulVal (a b : FVal) : FVal × Bool :=
  match a, b with
  | .nan, _ => (.nan, false)
  | _, .nan => (.nan, false)
  | .inf s, .inf t => (.inf (s != t), false)
  | .inf s, .fin t n => if n = 0 then (.nan, true) else (.inf (s != t), false)
  | .fin s m, .inf t => if m = 0 then (.nan, true) else (.inf (s != t), false)
  | .fin s m, .fin t n => (.fin (s != t) (m * n), false)

/-- A value times a valid scale. -/
def scaled (x : FVal) (sc : W32) : FVal := (mulVal x (f32 sc)).1

/-- Column `n` of the latched block, every element times its scale (R250). -/
def Latch.column (l : Latch) (n : Nat) : List FVal :=
  if l.fmt < 2 then
    let codes := (l.data.drop (128 * n)).take 128
    (List.range 64).map fun k =>
      scaled ((if l.fmt = 0 then Fmt.bf16 else Fmt.f16).decode (ofLE ((codes.drop (2 * k)).take 2))) (l.colScale n)
  else if l.fmt < 4 then
    let sc := l.colScale n
    ((l.data.drop (64 * n)).take 64).map fun c => scaled ((if l.fmt = 2 then Fmt.e4m3 else Fmt.e5m2).decode c.toNat) sc
  else
    let codes := (l.data.drop (64 * n)).take 64
    (List.range 4).flatMap fun b =>
      let sc := l.colSidecar n b
      ((codes.drop (16 * b)).take 16).flatMap fun c =>
        [scaled (e2m1 (extraOf sc) (c.toNat % 16)) (scaleOf sc), scaled (e2m1 (extraOf sc) (c.toNat / 16)) (scaleOf sc)]

/-- SumRound of the products of a row and a column and the previous value, all in units of 2^-596 (R70, R71). -/
def mmaDot (xs ys : List FVal) (prev : W32) : W32 × BitVec 6 :=
  let acc := (xs.zip ys).foldl (fun (a : SumAcc) p =>
    let m := mulVal p.1 p.2
    let a := a.add 0 m.1
    if m.2 then { a with nv := true } else a) (SumAcc.empty.add 447 (f32 prev))
  pack32 (acc.round .f32 0 447)

/-- Row `i` of an MMA: the new row and its flags. -/
def mmaRow (form : MmaForm) (bytes : List Byte) (sc : W32) (cols : List (List FVal)) (prev : VBits) : VBits × BitVec 6 :=
  let w := form.a.width / 8
  let xs := (List.range form.k).map fun k => scaled (form.a.decode (ofLE ((bytes.drop (w * k)).take w))) sc
  let r := cols.zipIdx.map fun c => mmaDot xs c.1 (lane prev c.2)
  (ofLanes fun n => (r.getD n (0, 0)).1, r.foldl (fun f x => f ||| x.2) 0)

/-- Address of row `i`: sa + i × sb modulo 2^64 (R253, R256). -/
def rowAddr (x y : Word) (i : Nat) : Word := x + BitVec.ofNat 64 i * y

/-- The accumulator rows in flight read as free values (R254). -/
def State.rdRow (s : State) (k : BitVec 2) (i : Nat) : VBits :=
  if s.flying (.acc k.toNat) then s.freeBits 2048 (0xA000000 + 64 * k.toNat + i) else s.source.regs.getRow k.toNat i

/-- An MMA's effect: all rows, the flags with the accumulator's landing, and the range whose overwriting races (R253). -/
def State.mma (s : State) (form : MmaForm) (k : BitVec 2) (x y : Word) (rows : VBits) (l : Latch) (src : State) : State :=
  let cols := (List.range 64).map l.column
  let out := (List.range 64).map fun i =>
    mmaRow form (src.ldBytes (rowAddr x y i) form.row) (lane rows i) cols (s.tile.thr.regs.getRow k.toNat i)
  let hurt := (List.range 64).filter fun i => (src.ueMem (rowAddr x y i) form.row).isSome
  let job : Job := ⟨k.toNat, x, y, 64, form.row, s.cycle + form.busy, out.map fun r => r.2⟩
  let running (e : Engine) : Engine := { e with mma := (e.mma.filter fun j => decide (s.cycle < j.until_)) ++ [job] }
  let begun := ((s.onRegs fun r => out.zipIdx.foldl (fun r o => r.setRow k.toNat o.2 o.1.1) r).onTile fun t =>
    { t with poison := t.poison ++ hurt.map (Poison.row k.toNat), eng := running t.eng }).land (.acc k.toNat) form.readable job.raised
  (begun.onTile fun t => t.iss.stored.foldl (fun (t : Tile) w => t.mmaRace s.fresh s.cycle w.1 w.2.1) t).useMatrix form.busy

/-- The reserved-encoding report of an MMA whose latch is empty or of another format (R253, R336, R356). -/
def Bundle.latchFault (b : Bundle) : Reserved :=
  match b.words.find? fun w => w.2.1 == 5 with
  | some w => ⟨w.1, 5, w.2.2, 5⟩
  | none => ⟨0, 5, 0, 5⟩

/-- Whether the latch holds what an MMA needs. -/
def State.latched (s : State) (fmt : Nat) : Bool :=
  match s.tile.latch with
  | some l => l.fmt == fmt
  | none => false

/-- An MMA: the latch is checked before everything else, then the order of R357 (R253). -/
def State.mmaOp (s : State) (form : MmaForm) (k : BitVec 2) (a b c : BitVec 5) : Out :=
  let x := s.opS 0 a
  let y := s.opS 1 b
  let rows := (s.rdV c).bits
  s.xslot <|
    match s.tile.latch with
    | none => .next (s.reservedBundle (s.tile.bundleAt s.tile.iss.addr) (s.tile.bundleAt s.tile.iss.addr).latchFault [])
    | some l =>
      if l.fmt ≠ form.b then
        .next (s.reservedBundle (s.tile.bundleAt s.tile.iss.addr) (s.tile.bundleAt s.tile.iss.addr).latchFault [])
      else
        s.checked
          { names := [.s a.toNat, .s b.toNat], ops := [x, y], regs := [.v c.toNat]
            first := firstOf [l.poison.map fun w => (tcUE, ueInfo 1 0 (8 * w)), resCheck a.toNat x 0, resCheck b.toNat y 1]
            mem := (List.range 64).map fun i => (rowAddr x.val y.val i, form.row)
            later := scaleFault rows l }
          fun t => t.mma form k x.val y.val rows l s

/-- MMA.BB (R252). -/
def execMmaBb (k : BitVec 2) (a b c : BitVec 5) (s : State) : Out := s.mmaOp ⟨.bf16, 0, 64, 128, 128⟩ k a b c
/-- MMA.HH (R252). -/
def execMmaHh (k : BitVec 2) (a b c : BitVec 5) (s : State) : Out := s.mmaOp ⟨.f16, 1, 64, 128, 128⟩ k a b c
/-- MMA.EE (R252). -/
def execMmaEe (k : BitVec 2) (a b c : BitVec 5) (s : State) : Out := s.mmaOp ⟨.e4m3, 2, 64, 64, 64⟩ k a b c
/-- MMA.EF (R252). -/
def execMmaEf (k : BitVec 2) (a b c : BitVec 5) (s : State) : Out := s.mmaOp ⟨.e4m3, 3, 64, 64, 64⟩ k a b c
/-- MMA.FE (R252). -/
def execMmaFe (k : BitVec 2) (a b c : BitVec 5) (s : State) : Out := s.mmaOp ⟨.e5m2, 2, 64, 64, 64⟩ k a b c
/-- MMA.FF (R252). -/
def execMmaFf (k : BitVec 2) (a b c : BitVec 5) (s : State) : Out := s.mmaOp ⟨.e5m2, 3, 64, 64, 64⟩ k a b c
/-- MMA.EQ (R252). -/
def execMmaEq (k : BitVec 2) (a b c : BitVec 5) (s : State) : Out := s.mmaOp ⟨.e4m3, 4, 128, 128, 64⟩ k a b c
/-- MMA.BQ (R252). -/
def execMmaBq (k : BitVec 2) (a b c : BitVec 5) (s : State) : Out := s.mmaOp ⟨.bf16, 4, 128, 256, 128⟩ k a b c

/-! ### Accumulator moves (R255, R256) -/

/-- Clears the poison of accumulator rows that are written whole (R347). -/
def State.cleanRows (s : State) (k : Nat) (f : Nat → Bool) : State :=
  s.onTile fun t => { t with poison := t.poison.filter fun p => match p with | .row c i => !(c == k && f i) | _ => true }

/-- Writes one row value into every row. -/
def State.fillRows (s : State) (k : BitVec 2) (v : VBits) : State :=
  ((s.onRegs fun r => (List.range 64).foldl (fun r i => r.setRow k.toNat i v) r).cleanRows k.toNat fun _ => true).useMatrix 2

/-- STORE_UE of a poisoned row (R347, R366). -/
def State.rowUe (s : State) (k : BitVec 2) (f : Nat → Bool) : Option (Nat × Word) :=
  (s.marks.find? fun p => match p with | .row c i => c == k.toNat && f i | _ => false).map fun p =>
    match p with
    | .row c i => (tcUE, ueInfo 6 i c)
    | _ => (tcUE, ueInfo 6 0 k.toNat)

/-- MZERO (R255). -/
def execMzero (k : BitVec 2) (s : State) : Out := s.xslot (s.checked {} fun s => s.fillRows k 0)
/-- MBIAS: vb's lanes into every row (R255). -/
def execMbias (b : BitVec 5) (k : BitVec 2) (s : State) : Out :=
  let v := (s.rdV b).bits
  s.xslot (s.checked { regs := [.v b.toNat] } fun s => s.fillRows k v)

/-- MRD: the row that sa[5:0] names, captured in the issue step (R255). -/
def execMrd (d a : BitVec 5) (k : BitVec 2) (s : State) : Out :=
  let x := s.opS 0 a
  let i := x.val.toNat % 64
  s.xslot <| s.checked { names := [.s a.toNat], ops := [x], first := firstOf [s.rowUe k (· == i), resCheck a.toNat x 1] } fun t =>
    (t.wrV d (VVal.ofBits (s.rdRow k i)) 8).useMatrix 1
/-- MWR: bits unchanged (R255). -/
def execMwr (a b : BitVec 5) (k : BitVec 2) (s : State) : Out :=
  let x := s.opS 0 a
  let v := (s.rdV b).bits
  let i := x.val.toNat % 64
  s.xslot <| s.checked { names := [.s a.toNat], ops := [x], regs := [.v b.toNat], first := resCheck a.toNat x 1 } fun s =>
    ((s.onRegs fun r => r.setRow k.toNat i v).cleanRows k.toNat (· == i)).useMatrix 1

/-- A row as MSTO stores it: f32 0 copied, bf16 1 and fp16 2 rounded to nearest even (R256). -/
def storedRow (f : Nat) (v : VBits) : List Byte × BitVec 6 :=
  if f = 0 then (toLE 256 v.toNat, 0)
  else
    let l := (List.range 64).map fun n => narrow (if f = 1 then .bf16 else .f16) 0 false (f32 (lane v n))
    (l.flatMap fun r => toLE 2 r.1, l.foldl (fun g r => g ||| r.2) 0)

/-- MSTO: 64 rows at sa + i × sb in rising order; flags are ORed when the store finishes (R256). -/
def execMsto (a b : BitVec 5) (f k : BitVec 2) (s : State) : Out :=
  let x := s.opS 0 a
  let y := s.opS 1 b
  let busy := if f = 0 then 64 else 32
  let n := if f = 0 then 256 else 128
  let rows := (List.range 64).map fun i => storedRow f.toNat (s.rdRow k i)
  s.xslot <| s.checked
    { names := [.s a.toNat, .s b.toNat], ops := [x, y]
      first := firstOf [s.rowUe k (fun _ => true), resCheck a.toNat x 0, resCheck b.toNat y 1]
      mem := (List.range 64).map fun i => (rowAddr x.val y.val i, n) }
    fun t =>
      let t1 := (rows.zipIdx.foldl (fun (t : State) r => t.stBytes (rowAddr x.val y.val r.2) r.1.1) t).cover
        ((List.range 64).map fun i => ((rowAddr x.val y.val i).toNat, n))
      let job : Job := ⟨k.toNat, x.val, y.val, 64, n, s.cycle + busy, []⟩
      let running (e : Engine) : Engine := { e with msto := (e.msto.filter fun j => decide (s.cycle < j.until_)) ++ [job], old := t.tile.mem }
      ((t1.onTile fun u => { u with eng := running u.eng }).land .none busy (rows.foldl (fun g r => g ||| r.2) 0)).useMatrix busy

end Sys2Proof.Machine
end

