-- ==== Sys2Proof/Machine/Scalar.lean ====
section
/-!
DEFINITION. The I slot: integer, predicate and scalar floating-point operations (R210 to R218, R363). They read their operands at
issue, check nothing but poison, and write one register with the latency bound of R185.
-/
namespace Sys2Proof.Machine

/-- An integer operation of two scalars (R210). -/
def State.alu (s : State) (d a b : BitVec 5) (lat : Nat) (f : SVal → SVal → SVal) : Out :=
  let x := s.opS 0 a
  let y := s.opS 1 b
  s.checked { names := [.s a.toNat, .s b.toNat], ops := [x, y] } fun s => s.wrS d (f x y) lat

/-- An integer operation of one scalar. -/
def State.alu1 (s : State) (d a : BitVec 5) (f : SVal → SVal) : Out :=
  let x := s.opS 0 a
  s.checked { names := [.s a.toNat], ops := [x] } fun s => s.wrS d (f x) 1

/-- A result with a zero residue, computed from the values alone (R343). -/
def plain2 (f : Word → Word → Word) (x y : SVal) : SVal := SVal.of (f x.val y.val)
def plain1 (f : Word → Word) (x : SVal) : SVal := SVal.of (f x.val)

/-- An operation that writes a predicate from two scalars (R212). -/
def State.cmpOp (s : State) (k : BitVec 3) (ops : List SVal) (names : List Reg) (v : Bool) : Out :=
  s.checked { names, ops } fun s => s.wrP k v 1

/-- An operation of two f registers with flags (R215). -/
def State.fop (s : State) (d a b : BitVec 4) (lat : Nat) (f : Nat → W32 → W32 → W32 × BitVec 6) : Out :=
  let x := s.opF 0 a
  let y := s.opF 1 b
  let r := f s.rm x y
  s.checked { names := [.f a.toNat, .f b.toNat], ops := [SVal.ofF x, SVal.ofF y] } fun s => s.wrF d r.1 lat r.2

/-- An operation of one f register. -/
def State.fop1 (s : State) (d a : BitVec 4) (lat : Nat) (f : Nat → W32 → W32 × BitVec 6) : Out :=
  let x := s.opF 0 a
  let r := f s.rm x
  s.checked { names := [.f a.toNat], ops := [SVal.ofF x] } fun s => s.wrF d r.1 lat r.2

/-- A conversion of an f register to a scalar (R217). -/
def State.fToS (s : State) (d : BitVec 5) (a : BitVec 4) (f : Nat → W32 → Word × BitVec 6) : Out :=
  let x := s.opF 0 a
  let r := f s.rm x
  s.checked { names := [.f a.toNat], ops := [SVal.ofF x] } fun s => s.wrS d (SVal.of r.1) 4 r.2

/-- A conversion of a scalar to an f register (R217). -/
def State.sToF (s : State) (d : BitVec 4) (a : BitVec 5) (f : Nat → Word → W32 × BitVec 6) : Out :=
  let x := s.opS 0 a
  let r := f s.rm x.val
  s.checked { names := [.s a.toNat], ops := [x] } fun s => s.wrF d r.1 4 r.2

/-- A predicate operation (R214). -/
def State.pop (s : State) (k i j : BitVec 3) (f : Bool → Bool → Bool) : Out :=
  let v := f (s.rdP i) (s.rdP j)
  s.checked { regs := [.p i.toNat, .p j.toNat] } fun s => s.wrP k v 1

/-! ### R210 -/

/-- ADD: (x + y) mod 2^64, its residue from the operands' and the carry (R210, R343). -/
def execAdd (d a b : BitVec 5) (s : State) : Out := s.alu d a b 1 SVal.add
/-- SUB: (x − y) mod 2^64 (R210, R343). -/
def execSub (d a b : BitVec 5) (s : State) : Out := s.alu d a b 1 SVal.sub
/-- AND (R210). -/
def execAnd (d a b : BitVec 5) (s : State) : Out := s.alu d a b 1 (plain2 (· &&& ·))
/-- OR (R210). -/
def execOr (d a b : BitVec 5) (s : State) : Out := s.alu d a b 1 (plain2 (· ||| ·))
/-- XOR (R210). -/
def execXor (d a b : BitVec 5) (s : State) : Out := s.alu d a b 1 (plain2 (· ^^^ ·))
/-- SHL by y[5:0] (R210). -/
def execShl (d a b : BitVec 5) (s : State) : Out := s.alu d a b 1 (plain2 fun x y => x <<< (y.toNat % 64))
/-- SHR by y[5:0], zero fill (R210). -/
def execShr (d a b : BitVec 5) (s : State) : Out := s.alu d a b 1 (plain2 fun x y => x >>> (y.toNat % 64))
/-- SRA by y[5:0], sign fill (R210). -/
def execSra (d a b : BitVec 5) (s : State) : Out := s.alu d a b 1 (plain2 fun x y => x.sshiftRight (y.toNat % 64))
/-- MIN, signed (R210). -/
def execMin (d a b : BitVec 5) (s : State) : Out := s.alu d a b 1 (plain2 fun x y => if x.slt y then x else y)
/-- MAX, signed (R210). -/
def execMax (d a b : BitVec 5) (s : State) : Out := s.alu d a b 1 (plain2 fun x y => if x.slt y then y else x)
/-- MINZ, unsigned (R210). -/
def execMinz (d a b : BitVec 5) (s : State) : Out := s.alu d a b 1 (plain2 fun x y => if x.ult y then x else y)
/-- MAXZ, unsigned (R210). -/
def execMaxz (d a b : BitVec 5) (s : State) : Out := s.alu d a b 1 (plain2 fun x y => if x.ult y then y else x)
/-- MUL: the product mod 2^64 (R210, R343). -/
def execMul (d a b : BitVec 5) (s : State) : Out := s.alu d a b 3 SVal.mul
/-- MULH (R210). -/
def execMulh (d a b : BitVec 5) (s : State) : Out := s.alu d a b 3 (plain2 mulHigh)
/-- MULHZ (R210). -/
def execMulhz (d a b : BitVec 5) (s : State) : Out := s.alu d a b 3 (plain2 mulHighZ)
/-- DIV (R81, R210). -/
def execDiv (d a b : BitVec 5) (s : State) : Out := s.alu d a b 24 (plain2 divS)
/-- DIVZ (R81, R210). -/
def execDivz (d a b : BitVec 5) (s : State) : Out := s.alu d a b 24 (plain2 divU)
/-- REM (R81, R210). -/
def execRem (d a b : BitVec 5) (s : State) : Out := s.alu d a b 24 (plain2 remS)
/-- REMZ (R81, R210). -/
def execRemz (d a b : BitVec 5) (s : State) : Out := s.alu d a b 24 (plain2 remU)
/-- CLZ; 64 for 0 (R210). -/
def execClz (d a : BitVec 5) (s : State) : Out := s.alu1 d a (plain1 fun x => BitVec.ofNat 64 (clz x))
/-- POPC (R210). -/
def execPopc (d a : BitVec 5) (s : State) : Out := s.alu1 d a (plain1 fun x => BitVec.ofNat 64 (popc x))
/-- ANDN: x and not y (R210). -/
def execAndn (d a b : BitVec 5) (s : State) : Out := s.alu d a b 1 (plain2 fun x y => x &&& ~~~y)

/-! ### R211 -/

/-- ADDI: a sign-extended immediate, with ADD's residue rule (R211, R343). -/
def execAddi (d a : BitVec 5) (i : BitVec 16) (s : State) : Out := s.alu1 d a fun x => x.add (SVal.of (i.signExtend 64))
/-- ANDI, zero-extended (R211). -/
def execAndi (d a : BitVec 5) (i : BitVec 16) (s : State) : Out := s.alu1 d a (plain1 fun x => x &&& i.zeroExtend 64)
/-- ORI, zero-extended (R211). -/
def execOri (d a : BitVec 5) (i : BitVec 16) (s : State) : Out := s.alu1 d a (plain1 fun x => x ||| i.zeroExtend 64)
/-- XORI, zero-extended (R211). -/
def execXori (d a : BitVec 5) (i : BitVec 16) (s : State) : Out := s.alu1 d a (plain1 fun x => x ^^^ i.zeroExtend 64)
/-- SHLI (R211). -/
def execShli (d a : BitVec 5) (n : BitVec 6) (s : State) : Out := s.alu1 d a (plain1 fun x => x <<< n.toNat)
/-- SHRI (R211). -/
def execShri (d a : BitVec 5) (n : BitVec 6) (s : State) : Out := s.alu1 d a (plain1 fun x => x >>> n.toNat)
/-- SRAI (R211). -/
def execSrai (d a : BitVec 5) (n : BitVec 6) (s : State) : Out := s.alu1 d a (plain1 fun x => x.sshiftRight n.toNat)
/-- MOVI: the sign-extended immediate (R211). -/
def execMovi (d : BitVec 5) (i : BitVec 16) (s : State) : Out := s.checked {} fun s => s.wrS d (SVal.of (i.signExtend 64)) 1
/-- `x` with bits 16q + 15:16q replaced (R211). -/
def movhi (x : Word) (q : Nat) (i : BitVec 16) : Word :=
  (x &&& ~~~((0xFFFF : Word) <<< (16 * q))) ||| ((i.zeroExtend 64) <<< (16 * q))
/-- MOVHI reads sd as a source (R211). -/
def execMovhi (d : BitVec 5) (q : BitVec 2) (i : BitVec 16) (s : State) : Out := s.alu1 d d (plain1 fun x => movhi x q.toNat i)

/-! ### R212 to R214 -/

/-- CMP (R212). -/
def execCmp (k : BitVec 3) (a b : BitVec 5) (c : BitVec 3) (s : State) : Out :=
  let x := s.opS 0 a
  let y := s.opS 1 b
  s.cmpOp k [x, y] [.s a.toNat, .s b.toNat] (intCond c.toNat x.val y.val)
/-- CMPI's immediate: sign-extended for eq, ne, lt and ge, zero-extended otherwise (R180, R212). -/
def cmpImm (c : BitVec 3) (i : BitVec 13) : Word := if c.toNat < 4 then i.signExtend 64 else i.zeroExtend 64
/-- CMPI (R212). -/
def execCmpi (k : BitVec 3) (a : BitVec 5) (c : BitVec 3) (i : BitVec 13) (s : State) : Out :=
  let x := s.opS 0 a
  s.cmpOp k [x] [.s a.toNat] (intCond c.toNat x.val (cmpImm c i))
/-- SEL: sa if pk, else sb, written with a zero residue (R212, R343). -/
def execSel (d a b : BitVec 5) (k : BitVec 3) (s : State) : Out :=
  let x := s.opS 0 a
  let y := s.opS 1 b
  let v := if s.rdP k then x.val else y.val
  s.checked { names := [.s a.toNat, .s b.toNat], ops := [x, y], regs := [.p k.toNat] } fun s => s.wrS d (SVal.of v) 1
/-- BFX; the field holds len − 1 (R213). -/
def execBfx (d a : BitVec 5) (p l : BitVec 6) (s : State) : Out := s.alu1 d a (plain1 fun x => bfx x p.toNat (l.toNat + 1))
/-- BFXS (R213). -/
def execBfxs (d a : BitVec 5) (p l : BitVec 6) (s : State) : Out := s.alu1 d a (plain1 fun x => bfxs x p.toNat (l.toNat + 1))
/-- BFI reads sd as a source (R213). -/
def execBfi (d a : BitVec 5) (p l : BitVec 6) (s : State) : Out := s.alu d d a 1 (plain2 fun x y => bfi x y p.toNat (l.toNat + 1))
/-- PAND (R214). -/
def execPand (k i j : BitVec 3) (s : State) : Out := s.pop k i j fun x y => x && y
/-- POR (R214). -/
def execPor (k i j : BitVec 3) (s : State) : Out := s.pop k i j fun x y => x || y
/-- PXOR (R214). -/
def execPxor (k i j : BitVec 3) (s : State) : Out := s.pop k i j fun x y => x != y
/-- PANDN: pi and not pj (R214). -/
def execPandn (k i j : BitVec 3) (s : State) : Out := s.pop k i j fun x y => x && !y

/-! ### R215 to R218 -/

/-- FADD (R215). -/
def execFadd (d a b : BitVec 4) (s : State) : Out := s.fop d a b 4 fpAdd
/-- FSUB (R215). -/
def execFsub (d a b : BitVec 4) (s : State) : Out := s.fop d a b 4 fpSub
/-- FMUL (R215). -/
def execFmul (d a b : BitVec 4) (s : State) : Out := s.fop d a b 4 fpMul
/-- FDIV (R215). -/
def execFdiv (d a b : BitVec 4) (s : State) : Out := s.fop d a b 16 fpDiv
/-- FMIN (R215). -/
def execFmin (d a b : BitVec 4) (s : State) : Out := s.fop d a b 4 fun _ x y => (fpMin x y, 0)
/-- FMAX (R215). -/
def execFmax (d a b : BitVec 4) (s : State) : Out := s.fop d a b 4 fun _ x y => (fpMax x y, 0)
/-- FSQRT (R215). -/
def execFsqrt (d a : BitVec 4) (s : State) : Out := s.fop1 d a 16 fpSqrt
/-- FABS (R215). -/
def execFabs (d a : BitVec 4) (s : State) : Out := s.fop1 d a 4 fun _ x => (fpAbs x, 0)
/-- FNEG (R215). -/
def execFneg (d a : BitVec 4) (s : State) : Out := s.fop1 d a 4 fun _ x => (fpNeg x, 0)
/-- FFMA: fa × fb + fc with one rounding (R215). -/
def execFfma (d a b c : BitVec 4) (s : State) : Out :=
  let x := s.opF 0 a
  let y := s.opF 1 b
  let z := s.opF 2 c
  let r := fpFma s.rm (f32 x) (f32 y) (f32 z)
  s.checked { names := [.f a.toNat, .f b.toNat, .f c.toNat], ops := [SVal.ofF x, SVal.ofF y, SVal.ofF z] } fun s => s.wrF d r.1 4 r.2
/-- FCMP sets no flag; bound 4 (R185, R216). -/
def execFcmp (k : BitVec 3) (a b : BitVec 4) (c : BitVec 3) (s : State) : Out :=
  let x := s.opF 0 a
  let y := s.opF 1 b
  s.checked { names := [.f a.toNat, .f b.toNat], ops := [SVal.ofF x, SVal.ofF y] } fun s => s.wrP k (fpCmp c.toNat x y) 4
/-- FCVT f2i (R217). -/
def execFcvtF2i (d : BitVec 5) (a : BitVec 4) (s : State) : Out := s.fToS d a fun rm x =>
  let r := fpToInt rm (-2 ^ 63) (2 ^ 63 - 1) (f32 x)
  (BitVec.ofInt 64 r.1, r.2)
/-- FCVT f2iz (R217). -/
def execFcvtF2iz (d : BitVec 5) (a : BitVec 4) (s : State) : Out := s.fToS d a fun rm x =>
  let r := fpToInt rm 0 (2 ^ 64 - 1) (f32 x)
  (BitVec.ofInt 64 r.1, r.2)
/-- FCVT i2f (R217). -/
def execFcvtI2f (d : BitVec 4) (a : BitVec 5) (s : State) : Out := s.sToF d a fun rm x => intToFp rm x.toInt
/-- FCVT iz2f (R217). -/
def execFcvtIz2f (d : BitVec 4) (a : BitVec 5) (s : State) : Out := s.sToF d a fun rm x => intToFp rm x.toNat
/-- FCVT f2bf; SAT8 has no part in a 16-bit destination (R75, R217). -/
def execFcvtF2bf (d : BitVec 5) (a : BitVec 4) (s : State) : Out := s.fToS d a fun rm x =>
  let r := narrow .bf16 rm false (f32 x)
  (BitVec.ofNat 64 r.1, r.2)
/-- FCVT bf2f: exact, sa[63:16] ignored (R217). -/
def execFcvtBf2f (d : BitVec 4) (a : BitVec 5) (s : State) : Out := s.sToF d a fun _ x => (widen .bf16 (x.toNat % 65536), 0)
/-- FCVT f2h (R75, R217). -/
def execFcvtF2h (d : BitVec 5) (a : BitVec 4) (s : State) : Out := s.fToS d a fun rm x =>
  let r := narrow .f16 rm false (f32 x)
  (BitVec.ofNat 64 r.1, r.2)
/-- FCVT h2f: exact, sa[63:16] ignored (R217). -/
def execFcvtH2f (d : BitVec 4) (a : BitVec 5) (s : State) : Out := s.sToF d a fun _ x => (widen .f16 (x.toNat % 65536), 0)
/-- MOVSF copies the bits; bound 4 (R185, R218). -/
def execMovsf (d : BitVec 5) (a : BitVec 4) (s : State) : Out := s.fToS d a fun _ x => (x.zeroExtend 64, 0)
/-- MOVFS copies sa[31:0]; bound 4 (R185, R218). -/
def execMovfs (d : BitVec 4) (a : BitVec 5) (s : State) : Out := s.sToF d a fun _ x => (x.extractLsb' 0 32, 0)
/-- FMOVI: imm16 × 2^16 (R218). -/
def execFmovi (d : BitVec 4) (i : BitVec 16) (s : State) : Out := s.checked {} fun s => s.wrF d (i ++ (0 : BitVec 16)) 1

end Sys2Proof.Machine
end

