-- ==== Sys2Proof/Machine/Steps.lean ====
section
/-!
DEFINITION. The step sequencer of the G slot (R290 to R302, R369).
-/
namespace Sys2Proof.Machine

/-! ### Signatures (R292, R293) -/

/-- The operand sb of SIG: exponent, format, length (R292). -/
def sigExp (y : Word) : Int := (y.extractLsb' 24 8).toInt
def sigFmt (y : Word) : Nat := (y.extractLsb' 20 3).toNat
def sigLen (y : Word) : Nat := min (y.extractLsb' 0 14).toNat 8192

/-- Element bytes of a format (R292). -/
def sigWidth (f : Nat) : Nat :=
  match f with
  | 0 => 4 | 1 => 2 | 2 => 2 | 3 => 1 | 4 => 1 | 5 => 1 | _ => 4

/-- Bytes that a SIG reads: whole elements, or the 64 bytes of a LOAD (R292). -/
def sigBytes (y : Word) : Nat := if sigFmt y = 7 then 64 else sigLen y / sigWidth (sigFmt y) * sigWidth (sigFmt y)

/-- The value of an element; integers are exact (R292). -/
def sigValue (f x : Nat) : FVal :=
  match f with
  | 0 => Fmt.f32.decode x
  | 1 => Fmt.bf16.decode x
  | 2 => Fmt.f16.decode x
  | 3 => Fmt.e4m3.decode x
  | 4 => Fmt.e5m2.decode x
  | 5 => .fin false (x * 2 ^ 149)
  | _ => .fin (x.testBit 31) ((BitVec.ofNat 32 x).toInt.natAbs * 2 ^ 149)

/-- The quantized element (R292). -/
def quantize (e : Int) (v : FVal) : Int :=
  match v with
  | .nan => 2 ^ 25
  | .inf n => if n then -(2 ^ 24) else 2 ^ 24
  | .fin n m =>
    let q : Int := min ((roundAt 0 n m (e - 149) 0 false).1 : Int) (2 ^ 24 - 1)
    if n then -q else q

/-- The fold h(j) of an element number (R292). -/
def fold4 (j : Nat) : Nat := (j % 16) ^^^ (j / 16 % 16) ^^^ (j / 256 % 16) ^^^ (j / 4096 % 2)

/-- Parity of the common bits of two 4-bit numbers. -/
def odd4 (l h : Nat) : Bool :=
  let x := l &&& h
  (x.testBit 0 != x.testBit 1) != (x.testBit 2 != x.testBit 3)

/-- Splits bytes into elements of `w` bytes; `n` of them. -/
def sigElements (w : Nat) : Nat → List Byte → List Nat
  | 0, _ => []
  | n + 1, l => ofLE (l.take w) :: sigElements w n (l.drop w)

/-- The signature of the bytes that SIG reads (R292). -/
def signature (y : Word) (l : List Byte) : BitVec 512 :=
  if sigFmt y = 7 then BitVec.ofNat 512 (ofLE (l.take 64))
  else
    let w := sigWidth (sigFmt y)
    let qs := (sigElements w (sigLen y / w) l).map fun x => quantize (sigExp y) (sigValue (sigFmt y) x)
    let hs := qs.zipIdx.map fun q => (fold4 q.2, q.1)
    let sums : List Int := (List.range 16).map fun k => hs.foldl (fun (a : Int) h => if odd4 k h.1 then a - h.2 else a + h.2) 0
    BitVec.ofNat 512 (packFields 32 (fun k => ((sums.getD k 0) % 2 ^ 32).toNat) 16)

/-- Lane `l` of a signature. -/
def sigLane (v : BitVec 512) (l : Nat) : W32 := v.extractLsb' (32 * l) 32

/-- The change measure (R293). -/
def changeMeasure (a c : BitVec 512) : Nat := (List.range 16).foldl (fun n l => n + (sigLane a l - sigLane c l).toInt.natAbs) 0

/-- SIG: one step of stall more when its range needs two lines of one bank (R20, R295). -/
def execSig (d : BitVec 2) (a b : BitVec 5) (s : State) : Out :=
  let x := s.opS 0 a
  let y := s.opS 1 b
  let n := sigBytes y.val
  let two := decide (1 ≤ n) && decide (32 ≤ (x.val.toNat + n - 1) / 256 - x.val.toNat / 256)
  s.mslot <|
    if two && !s.tile.thr.sigHeld then .next ((s.onThr fun h => { h with sigHeld := true }).stallOn .busy)
    else s.checked
      { names := [.s a.toNat, .s b.toNat], ops := [x, y], first := firstOf [resCheck a.toNat x 0, resCheck b.toNat y 3]
        mem := [(x.val, n)], reads := [(x.val, n)] } fun t =>
      (t.onThr fun h => { h with sigHeld := false }).wrSig d (signature y.val (s.ldBytes x.val n)) 6

/-- SCMP (R296). -/
def execScmp (k : BitVec 3) (i j : BitVec 2) (s : State) : Out :=
  let step := (s.rdC crSTEP).extractLsb' 0 32
  let thr := ((s.rdC crSIGTHR).extractLsb' 0 36).toNat
  let v := decide (step ≠ 0) && decide (changeMeasure (s.rdSig i) (s.rdSig j) ≤ thr)
  s.checked { regs := [.sig i.toNat, .sig j.toNat] } fun s => s.wrP k v 4

/-! ### The skip map (R297, R299) -/

/-- Writes a control register that GETC sees only after `lat` steps (R300). -/
def State.setCrLate (s : State) (i : Nat) (v : Word) (lat : Nat) : State := (s.setCr i v).land (.cr i) lat 0

/-- SKSET (R297). -/
def execSkset (a : BitVec 5) (k : BitVec 3) (s : State) : Out :=
  let x := s.opS 0 a
  let i := x.val.toNat % 1024
  let v := s.rdP k
  s.checked { names := [.s a.toNat], ops := [x], regs := [.p k.toNat], first := resCheck a.toNat x 1 } fun s =>
    let bit : Word := (1 : Word) <<< (i % 64)
    let old := s.cr (crSKIPMAP0 + i / 64)
    s.setCrLate (crSKIPMAP0 + i / 64) (if v then old ||| bit else old &&& ~~~bit) 1

/-- Ends a step: STEP rises and the skip map is cleared (R299). -/
def State.endStep (s : State) (step : W32) : State :=
  (List.range 16).foldl (fun s i => s.setCrLate (crSKIPMAP0 + i) 0 4) (s.setCrLate crSTEP ((step + 1).zeroExtend 64) 4)

/-- A store of the step sequencer (R298, R299, R418). -/
def State.seqStore (s : State) (a : Word) (l : List Byte) : State := (s.storeAs true a l).countStore

/-- STEPA: with NLOG ≠ 0 the skip map is stored first (R299). -/
def execStepa (s : State) : Out :=
  let step : W32 := (s.rdC crSTEP).extractLsb' 0 32
  let nlog := ((s.cr crSKIPLOG).extractLsb' 32 8).toNat
  let addr := ((s.cr crSKIPLOG) &&& 0x1FFF80) + BitVec.ofNat 64 (128 * (step.toNat % nlog))
  let map := (List.range 16).flatMap fun i => toLE 8 (s.cr (crSKIPMAP0 + i)).toNat
  if nlog = 0 then s.checked {} fun s => s.endStep step
  else s.mslot <| s.storeRoom <| s.checked { mem := [(addr, 128)] } fun s => (s.seqStore addr map).endStep step

/-- SIGST: exchanges a signature register with a step-memory entry (R290, R298). -/
def execSigst (d : BitVec 2) (a : BitVec 5) (s : State) : Out :=
  let x := s.opS 0 a
  let addr := ((s.cr crSIGBASE) &&& 0x1FFFC0) + BitVec.ofNat 64 (64 * (x.val.toNat % 1024))
  let old := s.rdSig d
  s.mslot <| s.storeRoom <| s.checked
    { names := [.s a.toNat], ops := [x], regs := [.sig d.toNat], first := resCheck a.toNat x 1, mem := [(addr, 64)], reads := [(addr, 64)] }
    fun t => (t.seqStore addr (toLE 64 old.toNat)).wrSig d (BitVec.ofNat 512 (ofLE (s.ldBytes addr 64))) 4

end Sys2Proof.Machine
end

