-- ==== Sys2Proof/Machine/Dispatch.lean ====
section
/-!
DEFINITION. One arm for each row of the opcode table: a direct call of the row's meaning.
-/
namespace Sys2Proof.Machine

def exec (i : Instr) (s : State) : Host.Outcome State Fault Refusal :=
  match i with
  | .nop => Sys2Proof.Machine.execNop s
  | .br t => Sys2Proof.Machine.execBr t s
  | .brp sp n h k t => Sys2Proof.Machine.execBrp sp n h k t s
  | .call t => Sys2Proof.Machine.execCall t s
  | .callr a => Sys2Proof.Machine.execCallr a s
  | .jmpr a => Sys2Proof.Machine.execJmpr a s
  | .loop k a t => Sys2Proof.Machine.execLoop k a t s
  | .loopi k n t => Sys2Proof.Machine.execLoopi k n t s
  | .endT => Sys2Proof.Machine.execEndT s
  | .trap n => Sys2Proof.Machine.execTrap n s
  | .tret => Sys2Proof.Machine.execTret s
  | .waitb a k => Sys2Proof.Machine.execWaitb a k s
  | .arrb k => Sys2Proof.Machine.execArrb k s
  | .setb a k => Sys2Proof.Machine.execSetb a k s
  | .waitw => Sys2Proof.Machine.execWaitw s
  | .donew a => Sys2Proof.Machine.execDonew a s
  | .yield => Sys2Proof.Machine.execYield s
  | .sleept a => Sys2Proof.Machine.execSleept a s
  | .getc d im => Sys2Proof.Machine.execGetc d im s
  | .setc a im => Sys2Proof.Machine.execSetc a im s
  | .upoolWrite size v => Sys2Proof.Machine.execUpoolWrite size v s
  | .namedBarrierWrite k v => Sys2Proof.Machine.execNamedBarrierWrite k v s
  | .touchWrite k v => Sys2Proof.Machine.execTouchWrite k v s
  | .fpflagsClear v => Sys2Proof.Machine.execFpflagsClear v s
  | .oorflagClear v => Sys2Proof.Machine.execOorflagClear v s
  | .fence => Sys2Proof.Machine.execFence s
  | .syncx => Sys2Proof.Machine.execSyncx s
  | .branchResolve => Sys2Proof.Machine.execBranchResolve s
  | .add d a b => Sys2Proof.Machine.execAdd d a b s
  | .sub d a b => Sys2Proof.Machine.execSub d a b s
  | .and d a b => Sys2Proof.Machine.execAnd d a b s
  | .or d a b => Sys2Proof.Machine.execOr d a b s
  | .xor d a b => Sys2Proof.Machine.execXor d a b s
  | .shl d a b => Sys2Proof.Machine.execShl d a b s
  | .shr d a b => Sys2Proof.Machine.execShr d a b s
  | .sra d a b => Sys2Proof.Machine.execSra d a b s
  | .min d a b => Sys2Proof.Machine.execMin d a b s
  | .max d a b => Sys2Proof.Machine.execMax d a b s
  | .minz d a b => Sys2Proof.Machine.execMinz d a b s
  | .maxz d a b => Sys2Proof.Machine.execMaxz d a b s
  | .mul d a b => Sys2Proof.Machine.execMul d a b s
  | .mulh d a b => Sys2Proof.Machine.execMulh d a b s
  | .mulhz d a b => Sys2Proof.Machine.execMulhz d a b s
  | .div d a b => Sys2Proof.Machine.execDiv d a b s
  | .divz d a b => Sys2Proof.Machine.execDivz d a b s
  | .rem d a b => Sys2Proof.Machine.execRem d a b s
  | .remz d a b => Sys2Proof.Machine.execRemz d a b s
  | .clz d a => Sys2Proof.Machine.execClz d a s
  | .popc d a => Sys2Proof.Machine.execPopc d a s
  | .andn d a b => Sys2Proof.Machine.execAndn d a b s
  | .addi d a im => Sys2Proof.Machine.execAddi d a im s
  | .andi d a im => Sys2Proof.Machine.execAndi d a im s
  | .ori d a im => Sys2Proof.Machine.execOri d a im s
  | .xori d a im => Sys2Proof.Machine.execXori d a im s
  | .shli d a n => Sys2Proof.Machine.execShli d a n s
  | .shri d a n => Sys2Proof.Machine.execShri d a n s
  | .srai d a n => Sys2Proof.Machine.execSrai d a n s
  | .movi d im => Sys2Proof.Machine.execMovi d im s
  | .movhi d q im => Sys2Proof.Machine.execMovhi d q im s
  | .cmp k a b c => Sys2Proof.Machine.execCmp k a b c s
  | .cmpi k a c im => Sys2Proof.Machine.execCmpi k a c im s
  | .sel d a b k => Sys2Proof.Machine.execSel d a b k s
  | .bfx d a p l => Sys2Proof.Machine.execBfx d a p l s
  | .bfxs d a p l => Sys2Proof.Machine.execBfxs d a p l s
  | .bfi d a p l => Sys2Proof.Machine.execBfi d a p l s
  | .pand k im j => Sys2Proof.Machine.execPand k im j s
  | .por k im j => Sys2Proof.Machine.execPor k im j s
  | .pxor k im j => Sys2Proof.Machine.execPxor k im j s
  | .pandn k im j => Sys2Proof.Machine.execPandn k im j s
  | .fadd d a b => Sys2Proof.Machine.execFadd d a b s
  | .fsub d a b => Sys2Proof.Machine.execFsub d a b s
  | .fmul d a b => Sys2Proof.Machine.execFmul d a b s
  | .fdiv d a b => Sys2Proof.Machine.execFdiv d a b s
  | .fmin d a b => Sys2Proof.Machine.execFmin d a b s
  | .fmax d a b => Sys2Proof.Machine.execFmax d a b s
  | .fsqrt d a => Sys2Proof.Machine.execFsqrt d a s
  | .fabs d a => Sys2Proof.Machine.execFabs d a s
  | .fneg d a => Sys2Proof.Machine.execFneg d a s
  | .ffma d a b c => Sys2Proof.Machine.execFfma d a b c s
  | .fcmp k a b c => Sys2Proof.Machine.execFcmp k a b c s
  | .fcvtF2i d a => Sys2Proof.Machine.execFcvtF2i d a s
  | .fcvtF2iz d a => Sys2Proof.Machine.execFcvtF2iz d a s
  | .fcvtI2f d a => Sys2Proof.Machine.execFcvtI2f d a s
  | .fcvtIz2f d a => Sys2Proof.Machine.execFcvtIz2f d a s
  | .fcvtF2bf d a => Sys2Proof.Machine.execFcvtF2bf d a s
  | .fcvtBf2f d a => Sys2Proof.Machine.execFcvtBf2f d a s
  | .fcvtF2h d a => Sys2Proof.Machine.execFcvtF2h d a s
  | .fcvtH2f d a => Sys2Proof.Machine.execFcvtH2f d a s
  | .movsf d a => Sys2Proof.Machine.execMovsf d a s
  | .movfs d a => Sys2Proof.Machine.execMovfs d a s
  | .fmovi d im => Sys2Proof.Machine.execFmovi d im s
  | .ldb d a o => Sys2Proof.Machine.execLdb d a o s
  | .ldbz d a o => Sys2Proof.Machine.execLdbz d a o s
  | .ldh d a o => Sys2Proof.Machine.execLdh d a o s
  | .ldhz d a o => Sys2Proof.Machine.execLdhz d a o s
  | .ldw d a o => Sys2Proof.Machine.execLdw d a o s
  | .ldwz d a o => Sys2Proof.Machine.execLdwz d a o s
  | .ldd d a o => Sys2Proof.Machine.execLdd d a o s
  | .stb d a o => Sys2Proof.Machine.execStb d a o s
  | .sth d a o => Sys2Proof.Machine.execSth d a o s
  | .stw d a o => Sys2Proof.Machine.execStw d a o s
  | .std d a o => Sys2Proof.Machine.execStd d a o s
  | .ldx d a b c z => Sys2Proof.Machine.execLdx d a b c z s
  | .stx d a b c z => Sys2Proof.Machine.execStx d a b c z s
  | .ldv d a im => Sys2Proof.Machine.execLdv d a im s
  | .stv d a im => Sys2Proof.Machine.execStv d a im s
  | .ldvs d a b => Sys2Proof.Machine.execLdvs d a b s
  | .stvs d a b => Sys2Proof.Machine.execStvs d a b s
  | .ldvx d a b => Sys2Proof.Machine.execLdvx d a b s
  | .stvx d a b => Sys2Proof.Machine.execStvx d a b s
  | .ldf d a o => Sys2Proof.Machine.execLdf d a o s
  | .stf d a o => Sys2Proof.Machine.execStf d a o s
  | .anvw a b => Sys2Proof.Machine.execAnvw a b s
  | .anvwComplete => Sys2Proof.Machine.execAnvwComplete s
  | .anvr a b => Sys2Proof.Machine.execAnvr a b s
  | .fill a b => Sys2Proof.Machine.execFill a b s
  | .copy d a b => Sys2Proof.Machine.execCopy d a b s
  | .ldxa d a o => Sys2Proof.Machine.execLdxa d a o s
  | .stxa d a o => Sys2Proof.Machine.execStxa d a o s
  | .vadd d a b m => Sys2Proof.Machine.execVadd d a b m s
  | .vsub d a b m => Sys2Proof.Machine.execVsub d a b m s
  | .vmul d a b m => Sys2Proof.Machine.execVmul d a b m s
  | .vmin d a b m => Sys2Proof.Machine.execVmin d a b m s
  | .vmax d a b m => Sys2Proof.Machine.execVmax d a b m s
  | .vabs d a m => Sys2Proof.Machine.execVabs d a m s
  | .vneg d a m => Sys2Proof.Machine.execVneg d a m s
  | .vfma d a b m => Sys2Proof.Machine.execVfma d a b m s
  | .vfms d a b m => Sys2Proof.Machine.execVfms d a b m s
  | .vrcp d a m => Sys2Proof.Machine.execVrcp d a m s
  | .vrsq d a m => Sys2Proof.Machine.execVrsq d a m s
  | .vexp2 d a m => Sys2Proof.Machine.execVexp2 d a m s
  | .vlog2 d a m => Sys2Proof.Machine.execVlog2 d a m s
  | .vtanh d a m => Sys2Proof.Machine.execVtanh d a m s
  | .vsigm d a m => Sys2Proof.Machine.execVsigm d a m s
  | .vsqrt d a m => Sys2Proof.Machine.execVsqrt d a m s
  | .viadd d a b m => Sys2Proof.Machine.execViadd d a b m s
  | .visub d a b m => Sys2Proof.Machine.execVisub d a b m s
  | .vimul d a b m => Sys2Proof.Machine.execVimul d a b m s
  | .vand d a b m => Sys2Proof.Machine.execVand d a b m s
  | .vor d a b m => Sys2Proof.Machine.execVor d a b m s
  | .vxor d a b m => Sys2Proof.Machine.execVxor d a b m s
  | .vshl d a b m => Sys2Proof.Machine.execVshl d a b m s
  | .vshr d a b m => Sys2Proof.Machine.execVshr d a b m s
  | .vsra d a b m => Sys2Proof.Machine.execVsra d a b m s
  | .vimin d a b m => Sys2Proof.Machine.execVimin d a b m s
  | .vimax d a b m => Sys2Proof.Machine.execVimax d a b m s
  | .vcmp k a b m c => Sys2Proof.Machine.execVcmp k a b m c s
  | .vsel d a b k => Sys2Proof.Machine.execVsel d a b k s
  | .vcvtF2bf d a m => Sys2Proof.Machine.execVcvtF2bf d a m s
  | .vcvtBf2f d a m => Sys2Proof.Machine.execVcvtBf2f d a m s
  | .vcvtF2h d a m => Sys2Proof.Machine.execVcvtF2h d a m s
  | .vcvtH2f d a m => Sys2Proof.Machine.execVcvtH2f d a m s
  | .vcvtF2e4 d a m => Sys2Proof.Machine.execVcvtF2e4 d a m s
  | .vcvtE42f d a m => Sys2Proof.Machine.execVcvtE42f d a m s
  | .vcvtF2e5 d a m => Sys2Proof.Machine.execVcvtF2e5 d a m s
  | .vcvtE52f d a m => Sys2Proof.Machine.execVcvtE52f d a m s
  | .vcvtF2i d a m => Sys2Proof.Machine.execVcvtF2i d a m s
  | .vcvtI2f d a m => Sys2Proof.Machine.execVcvtI2f d a m s
  | .vbmax d a m => Sys2Proof.Machine.execVbmax d a m s
  | .vpack4 d a b => Sys2Proof.Machine.execVpack4 d a b s
  | .vunpk4 d a b => Sys2Proof.Machine.execVunpk4 d a b s
  | .vsum d a m => Sys2Proof.Machine.execVsum d a m s
  | .vrmax d a m => Sys2Proof.Machine.execVrmax d a m s
  | .vrmin d a m => Sys2Proof.Machine.execVrmin d a m s
  | .vbcast d a m => Sys2Proof.Machine.execVbcast d a m s
  | .vbcastf d f m => Sys2Proof.Machine.execVbcastf d f m s
  | .vshuf d a b m => Sys2Proof.Machine.execVshuf d a b m s
  | .vslide d a b m n => Sys2Proof.Machine.execVslide d a b m n s
  | .vmovmToMask k a => Sys2Proof.Machine.execVmovmToMask k a s
  | .vmand k im j => Sys2Proof.Machine.execVmand k im j s
  | .vmor k im j => Sys2Proof.Machine.execVmor k im j s
  | .vmnot k im => Sys2Proof.Machine.execVmnot k im s
  | .vmovmToScalar d im => Sys2Proof.Machine.execVmovmToScalar d im s
  | .vxacF32 d a m => Sys2Proof.Machine.execVxacF32 d a m s
  | .vxacBf16 d a m => Sys2Proof.Machine.execVxacBf16 d a m s
  | .vxrdF32 d a m => Sys2Proof.Machine.execVxrdF32 d a m s
  | .vxrdBf16 d a m => Sys2Proof.Machine.execVxrdBf16 d a m s
  | .vxclr d m => Sys2Proof.Machine.execVxclr d m s
  | .vlane d m => Sys2Proof.Machine.execVlane d m s
  | .vgets d a n => Sys2Proof.Machine.execVgets d a n s
  | .vputs d a n => Sys2Proof.Machine.execVputs d a n s
  | .mldb a f => Sys2Proof.Machine.execMldb a f s
  | .mldbg a b f => Sys2Proof.Machine.execMldbg a b f s
  | .mmaBb k a b c => Sys2Proof.Machine.execMmaBb k a b c s
  | .mmaHh k a b c => Sys2Proof.Machine.execMmaHh k a b c s
  | .mmaEe k a b c => Sys2Proof.Machine.execMmaEe k a b c s
  | .mmaEf k a b c => Sys2Proof.Machine.execMmaEf k a b c s
  | .mmaFe k a b c => Sys2Proof.Machine.execMmaFe k a b c s
  | .mmaFf k a b c => Sys2Proof.Machine.execMmaFf k a b c s
  | .mmaEq k a b c => Sys2Proof.Machine.execMmaEq k a b c s
  | .mmaBq k a b c => Sys2Proof.Machine.execMmaBq k a b c s
  | .mzero k => Sys2Proof.Machine.execMzero k s
  | .mrd d a k => Sys2Proof.Machine.execMrd d a k s
  | .mwr a b k => Sys2Proof.Machine.execMwr a b k s
  | .msto a b f k => Sys2Proof.Machine.execMsto a b f k s
  | .mbias b k => Sys2Proof.Machine.execMbias b k s
  | .send d a b c => Sys2Proof.Machine.execSend d a b c s
  | .sendr d a b c => Sys2Proof.Machine.execSendr d a b c s
  | .sendt d a b c => Sys2Proof.Machine.execSendt d a b c s
  | .sendv d a b c => Sys2Proof.Machine.execSendv d a b c s
  | .post d a b c => Sys2Proof.Machine.execPost d a b c s
  | .postm d a b c => Sys2Proof.Machine.execPostm d a b c s
  | .posta d a b c => Sys2Proof.Machine.execPosta d a b c s
  | .waitm k j => Sys2Proof.Machine.execWaitm k j s
  | .testm k j => Sys2Proof.Machine.execTestm k j s
  | .mrec d k w => Sys2Proof.Machine.execMrec d k w s
  | .cancel k => Sys2Proof.Machine.execCancel k s
  | .probe d a b j => Sys2Proof.Machine.execProbe d a b j s
  | .get d a b c => Sys2Proof.Machine.execGet d a b c s
  | .put d a b c => Sys2Proof.Machine.execPut d a b c s
  | .getb d a b c => Sys2Proof.Machine.execGetb d a b c s
  | .putb d a b c => Sys2Proof.Machine.execPutb d a b c s
  | .gath d a b c => Sys2Proof.Machine.execGath d a b c s
  | .scat d a b c => Sys2Proof.Machine.execScat d a b c s
  | .apply d a b c => Sys2Proof.Machine.execApply d a b c s
  | .cas d a b c => Sys2Proof.Machine.execCas d a b c s
  | .publ d a b c => Sys2Proof.Machine.execPubl d a b c s
  | .subs d a b c => Sys2Proof.Machine.execSubs d a b c s
  | .unpub k => Sys2Proof.Machine.execUnpub k s
  | .freeh k => Sys2Proof.Machine.execFreeh k s
  | .bld d a o => Sys2Proof.Machine.execBld d a o s
  | .bst d a o => Sys2Proof.Machine.execBst d a o s
  | .bzero d => Sys2Proof.Machine.execBzero d s
  | .badd d a b => Sys2Proof.Machine.execBadd d a b s
  | .bsub d a b => Sys2Proof.Machine.execBsub d a b s
  | .bperm d a b => Sys2Proof.Machine.execBperm d a b s
  | .bmarg d a k => Sys2Proof.Machine.execBmarg d a k s
  | .bdamp d a f => Sys2Proof.Machine.execBdamp d a f s
  | .bmean d a => Sys2Proof.Machine.execBmean d a s
  | .bres d a b => Sys2Proof.Machine.execBres d a b s
  | .breg d a f => Sys2Proof.Machine.execBreg d a f s
  | .sig d a b => Sys2Proof.Machine.execSig d a b s
  | .scmp k im j => Sys2Proof.Machine.execScmp k im j s
  | .skset a k => Sys2Proof.Machine.execSkset a k s
  | .stepa => Sys2Proof.Machine.execStepa s
  | .sigst d a => Sys2Proof.Machine.execSigst d a s
  | .watchdog => Sys2Proof.Machine.execWatchdog s
  | .eager p => Sys2Proof.Machine.execEager p s
  | .rts p => Sys2Proof.Machine.execRts p s
  | .cts p => Sys2Proof.Machine.execCts p s
  | .data p => Sys2Proof.Machine.execData p s
  | .ack p => Sys2Proof.Machine.execAck p s
  | .absent p => Sys2Proof.Machine.execAbsent p s
  | .busy p => Sys2Proof.Machine.execBusy p s
  | .retryInterval ep xid => Sys2Proof.Machine.execRetryInterval ep xid s
  | .release p => Sys2Proof.Machine.execRelease p s
  | .revoke p => Sys2Proof.Machine.execRevoke p s
  | .timedSendRelease ep id => Sys2Proof.Machine.execTimedSendRelease ep id s
  | .escapeChannel n => Sys2Proof.Machine.execEscapeChannel n s
  | .subscribe p => Sys2Proof.Machine.execSubscribe p s
  | .prune p => Sys2Proof.Machine.execPrune p s
  | .contrailRound ep id => Sys2Proof.Machine.execContrailRound ep id s
  | .cdata p => Sys2Proof.Machine.execCdata p s
  | .ucdata p => Sys2Proof.Machine.execUcdata p s
  | .uetFailure ep xid => Sys2Proof.Machine.execUetFailure ep xid s
  | .qget q => Sys2Proof.Machine.execQget q s
  | .qput q => Sys2Proof.Machine.execQput q s
  | .qgetb q => Sys2Proof.Machine.execQgetb q s
  | .qputb q => Sys2Proof.Machine.execQputb q s
  | .qgath q => Sys2Proof.Machine.execQgath q s
  | .qscat q => Sys2Proof.Machine.execQscat q s
  | .applyAdd32 q => Sys2Proof.Machine.execApplyAdd32 q s
  | .applyAdd64 q => Sys2Proof.Machine.execApplyAdd64 q s
  | .applyAnd64 q => Sys2Proof.Machine.execApplyAnd64 q s
  | .applyOr64 q => Sys2Proof.Machine.execApplyOr64 q s
  | .applyXor64 q => Sys2Proof.Machine.execApplyXor64 q s
  | .applySmin64 q => Sys2Proof.Machine.execApplySmin64 q s
  | .applySmax64 q => Sys2Proof.Machine.execApplySmax64 q s
  | .applyUmin64 q => Sys2Proof.Machine.execApplyUmin64 q s
  | .applyUmax64 q => Sys2Proof.Machine.execApplyUmax64 q s
  | .applySwap64 q => Sys2Proof.Machine.execApplySwap64 q s
  | .applyFadd32 q => Sys2Proof.Machine.execApplyFadd32 q s
  | .applyXadd q => Sys2Proof.Machine.execApplyXadd q s
  | .applyReserved q => Sys2Proof.Machine.execApplyReserved q s
  | .qcas q => Sys2Proof.Machine.execQcas q s
  | .fenceProbe srv probe => Sys2Proof.Machine.execFenceProbe srv probe s
  | .sdata r => Sys2Proof.Machine.execSdata r s
  | .sdone r => Sys2Proof.Machine.execSdone r s
  | .echo ep echo => Sys2Proof.Machine.execEcho ep echo s
  | .shardTimeout ep xid no => Sys2Proof.Machine.execShardTimeout ep xid no s
  | .pendlimitExpiry srv issuer xid no => Sys2Proof.Machine.execPendlimitExpiry srv issuer xid no s
  | .swapHold srv issuer xid no => Sys2Proof.Machine.execSwapHold srv issuer xid no s
  | .burstRead stack addr by_ => Sys2Proof.Machine.execBurstRead stack addr by_ s
  | .burstWrite stack addr data by_ => Sys2Proof.Machine.execBurstWrite stack addr data by_ s
  | .laneSwap stack ch lane => Sys2Proof.Machine.execLaneSwap stack ch lane s
  | .laneWindowEnd stack ch => Sys2Proof.Machine.execLaneWindowEnd stack ch s
  | .remapEpochEnd stack => Sys2Proof.Machine.execRemapEpochEnd stack s
  | .swapDone stack => Sys2Proof.Machine.execSwapDone stack s
  | .retentionEntry ep region => Sys2Proof.Machine.execRetentionEntry ep region s
  | .retentionScrub ep region => Sys2Proof.Machine.execRetentionScrub ep region s
  | .hcontrib c => Sys2Proof.Machine.execHcontrib c s
  | .hpart c => Sys2Proof.Machine.execHpart c s
  | .hresult c => Sys2Proof.Machine.execHresult c s
  | .haloNodeFailed node => Sys2Proof.Machine.execHaloNodeFailed node s
  | .launch p => Sys2Proof.Machine.execLaunch p s
  | .imageHeaderRead n => Sys2Proof.Machine.execImageHeaderRead n s
  | .agingStep n => Sys2Proof.Machine.execAgingStep n s
  | .drainReservation part => Sys2Proof.Machine.execDrainReservation part s
  | .placement part => Sys2Proof.Machine.execPlacement part s
  | .imageFetch n ep => Sys2Proof.Machine.execImageFetch n ep s
  | .preemption n => Sys2Proof.Machine.execPreemption n s
  | .preempted n => Sys2Proof.Machine.execPreempted n s
  | .resume n => Sys2Proof.Machine.execResume n s
  | .tileEnd ep => Sys2Proof.Machine.execTileEnd ep s
  | .leaseExpiry n => Sys2Proof.Machine.execLeaseExpiry n s
  | .gangFaulted n => Sys2Proof.Machine.execGangFaulted n s
  | .faultDeliveryTimeout n => Sys2Proof.Machine.execFaultDeliveryTimeout n s
  | .withdraw n => Sys2Proof.Machine.execWithdraw n s
  | .workItem p => Sys2Proof.Machine.execWorkItem p s
  | .itemDelivery ep => Sys2Proof.Machine.execItemDelivery ep s
  | .donewAck p => Sys2Proof.Machine.execDonewAck p s
  | .twinCompareTimeout ep => Sys2Proof.Machine.execTwinCompareTimeout ep s
  | .logRecordDelivery unit => Sys2Proof.Machine.execLogRecordDelivery unit s
  | .hostSend fn d => Sys2Proof.Machine.execHostSend fn d s
  | .hostSendr fn d => Sys2Proof.Machine.execHostSendr fn d s
  | .hostPost fn d => Sys2Proof.Machine.execHostPost fn d s
  | .hostCancel fn d => Sys2Proof.Machine.execHostCancel fn d s
  | .hostGet fn d => Sys2Proof.Machine.execHostGet fn d s
  | .hostPut fn d => Sys2Proof.Machine.execHostPut fn d s
  | .hostDeniedOp fn d => Sys2Proof.Machine.execHostDeniedOp fn d s
  | .completionQueueWrite fn => Sys2Proof.Machine.execCompletionQueueWrite fn s
  | .sqtailWrite fn v => Sys2Proof.Machine.execSqtailWrite fn v s
  | .hwctlEnWrite fn v => Sys2Proof.Machine.execHwctlEnWrite fn v s
  | .qerrClear fn v => Sys2Proof.Machine.execQerrClear fn v s
  | .cqheadWrite fn v => Sys2Proof.Machine.execCqheadWrite fn v s
  | .elheadWrite v => Sys2Proof.Machine.execElheadWrite v s
  | .jheadWrite v => Sys2Proof.Machine.execJheadWrite v s
  | .pwrlimWrite v => Sys2Proof.Machine.execPwrlimWrite v s
  | .alarmctlWrite v => Sys2Proof.Machine.execAlarmctlWrite v s
  | .alarmstatClear v => Sys2Proof.Machine.execAlarmstatClear v s
  | .remapctlWrite stack v => Sys2Proof.Machine.execRemapctlWrite stack v s
  | .lockedFieldWrite fn off v => Sys2Proof.Machine.execLockedFieldWrite fn off v s
  | .hostRegisterWrite fn bar2 off v => Sys2Proof.Machine.execHostRegisterWrite fn bar2 off v s
  | .lockInterface fn => Sys2Proof.Machine.execLockInterface fn s
  | .startInterface fn => Sys2Proof.Machine.execStartInterface fn s
  | .stopInterface fn => Sys2Proof.Machine.execStopInterface fn s
  | .getDeviceInterfaceReport fn => Sys2Proof.Machine.execGetDeviceInterfaceReport fn s
  | .ideIntegrityFailure fn off => Sys2Proof.Machine.execIdeIntegrityFailure fn off s
  | .partitionAssign part r => Sys2Proof.Machine.execPartitionAssign part r s
  | .tilePartitionMove ep part => Sys2Proof.Machine.execTilePartitionMove ep part s
  | .placerParameterSet part q v => Sys2Proof.Machine.execPlacerParameterSet part q v s
  | .groupDescriptorWrite part group eager slotw => Sys2Proof.Machine.execGroupDescriptorWrite part group eager slotw s
  | .groupEntryWrite part node e => Sys2Proof.Machine.execGroupEntryWrite part node e s
  | .contextDescriptorWrite srv actx d => Sys2Proof.Machine.execContextDescriptorWrite srv actx d s
  | .pageEntryChange srv actx pn addr e => Sys2Proof.Machine.execPageEntryChange srv actx pn addr e s
  | .poolRefill srv actx frames => Sys2Proof.Machine.execPoolRefill srv actx frames s
  | .failPendingShards srv actx => Sys2Proof.Machine.execFailPendingShards srv actx s
  | .keySlotLoad slot part => Sys2Proof.Machine.execKeySlotLoad slot part s
  | .keySlotErase slot => Sys2Proof.Machine.execKeySlotErase slot s
  | .faultrankSet part rank group => Sys2Proof.Machine.execFaultrankSet part rank group s
  | .pkgmapWrite pkg e => Sys2Proof.Machine.execPkgmapWrite pkg e s
  | .tableRebuild stack region chan => Sys2Proof.Machine.execTableRebuild stack region chan s
  | .alarm src => Sys2Proof.Machine.execAlarm src s
  | .d3hotEntry => Sys2Proof.Machine.execD3hotEntry s
  | .timeSync ns => Sys2Proof.Machine.execTimeSync ns s
  | .startUp f => Sys2Proof.Machine.execStartUp f s
  | .reservedEncoding => Sys2Proof.Machine.execReservedEncoding s
  | .resultLanding => Sys2Proof.Machine.execResultLanding s
  | .serverFailed srv => Sys2Proof.Machine.execServerFailed srv s
  | .tileClockLowering => Sys2Proof.Machine.execTileClockLowering s
  | .d0Entry => Sys2Proof.Machine.execD0Entry s
  | .srIovEnable fn on => Sys2Proof.Machine.execSrIovEnable fn on s

end Sys2Proof.Machine
end

