-- ==== Sys2Proof/Machine/Issue.lean ====
section
/-!
DEFINITION. One turn of a tile: fetching the bundle at its boundary, or the replay that TRET ordered, and issuing it (R176, R177, R182,
R187 to R189, R193, R197, R198, R331 to R342, R354, R357, R358, R386, R387, R430, R441). A slot is run by `exec`; it reads what stood
at issue and says through `iss` whether it stalls, has trapped, or transfers.
-/
namespace Sys2Proof.Machine

/-- The state in an outcome of a slot; a slot that gave none leaves the state. -/
def outState (o : Out) (s : State) : State :=
  match o with
  | .next t => t
  | .fault _ => s
  | .refused _ => s

/-! ### Running a slot -/

/-- Opens the issue of a bundle: what its slots read is what stands now (R182). -/
def State.openIssue (s : State) (addr succ : Nat) (loops : Bool) : State :=
  s.onTile fun t =>
    { t with iss :=
        { Issue.none with addr, succ, src := some ⟨t.thr.regs, t.seen, t.thr.land, t.eng.matrix, t.eng.store⟩, first := t.ni.nextId, loops, hold := true } }

/-- The captured slot of a replay, unless its RF bit is set (R337). -/
def State.captureOf (s : State) (r : Option Replay) (k : Nat) : Option Capture :=
  match r with
  | none => none
  | some r => if r.rf.getLsbD k then none else s.tile.thr.caps.find? fun c => c.slot == k

/-- Whether a register is a belief block, which is not captured (R288). -/
def Reg.isBlock : Reg → Bool
  | .b _ => true
  | _ => false

/-- The results in flight that a replayed slot reads: those of blocks, and the registers of the capture that were not defined when it was
made; a BRP's predicate has landed (R182, R288, R335). -/
def Capture.flying (c : Capture) (cycle : Nat) (land : List Landing) : List Landing :=
  (land.filter fun l => l.dest.isBlock) ++
    ((c.open_.filter fun r => !r.isBlock && c.slot != 0).map fun r => (⟨r, cycle + 1, 0⟩ : Landing))

/-- Slot `k` is about to run: it reads the bundle's sources, or its capture in a replay (R182, R337). -/
def State.atSlot (s : State) (src : Option Source) (r : Option Replay) (k : Nat) : State :=
  let c := s.captureOf r k
  s.onIss fun i =>
    { i with
      slot := k, stall := none, trapped := none, raised := none, others := []
      src := match c with
        | some c => src.map fun x => { x with regs := c.regs, land := c.flying s.cycle x.land }
        | none => src
      ops := c.map fun c => c.ops
      poison := c.map fun c => c.poison }

/-- Runs slot `k`. -/
def State.runSlot (s : State) (src : Option Source) (r : Option Replay) (ki : Nat × Instr) : State :=
  outState (exec ki.2 (s.atSlot src r ki.1)) s

/-- Which slots run when: a FENCE first, since the requests of its own bundle are not its own (R127); then an MSTO, whose writes race with
the bundle's own loads and stores (R256); then the other slots, the N slot after every slot that may store into a buffer that it reads
(R120), and slot 0 last. Of two stores of one bundle to one byte, those of the M slot and of the G slot, the G slot's stands (log 108). -/
def slotOrder (ki : Nat × Instr) : Nat :=
  match ki.2 with
  | .fence => 0
  | .msto _ _ _ _ => 1
  | _ => if ki.1 = 0 then 10 else if ki.1 = 6 then 9 else ki.1 + 1

/-- Whether an instruction is TRET, which acts once everything else of its bundle has. -/
def isTret (i : Instr) : Bool :=
  match i with
  | .tret => true
  | _ => false

/-- Runs slots one after the other; the answer names the stall that one of them met, if any. -/
def State.runSlots (src : Option Source) (r : Option Replay) : List (Nat × Instr) → State → State × Option Stall
  | [], s => (s, none)
  | ki :: l, s =>
    let t := s.runSlot src r ki
    match t.tile.iss.stall with
    | some w => (t, some w)
    | none => State.runSlots src r l t

/-! ### Stalled bundles (R187, R386, R387) -/

/-- A member of the tile's gang is in handler mode (R386). -/
def State.gangInHandler (s : State) : Bool :=
  match s.launchOf s.tile.gang with
  | some l => l.allTiles.any fun e => (s.getTile e).hm
  | none => false

/-- Counts a turn of a counted stall in ELAPSED, in µs of TIME; it pauses in handler mode, at a trailing tile, and under GRP while a
member of the gang is in handler mode (R341, R386, R387, R430). -/
def State.countStall (s : State) : State :=
  let w := s.cr crWDOG
  if (s.tile.iss.stall.bind Stall.watchInfo).isNone || s.hm || s.trailing s.tile.ep || (w.getLsbD 63 && s.gangInHandler) then s
  else
    let n := s.tile.thr.elapsed + (s.time - s.tile.last)
    (s.onThr fun h => { h with elapsed := n }).setElapsed (Nat.min 0xFFFFFF (n / 1000))

/-- The bundle stalls on `w`: the stall is counted, and the watchdog may expire. -/
def State.stalled (s : State) (w : Stall) : State := ((s.stallOn w).onThr fun h => { h with waited := h.waited + 1 }).countStall.watchdog

/-- The stall that a bundle reports: the lowest slot's that the watchdog counts, or the lowest slot's. -/
def chooseStall (l : List Stall) : Stall := ((l.find? fun w => w.watchInfo.isSome).getD (l.headD .busy))

/-- A bundle of which some slots stall: none takes its effect, but waiting has begun where it has effects of its own (FENCE's probes,
END's closings, also where END itself has nothing to wait for, WAITW's waiting). -/
def State.stalledBundle (s : State) (src : Option Source) (r : Option Replay) (l : List (Nat × Instr)) : State :=
  let t := l.foldl (fun (x : State × List Stall) ki =>
    let u := x.1.runSlot src r ki
    match u.tile.iss.stall with
    | some w => (u, x.2 ++ [w])
    | none => (match ki.2 with | .endT => x.1.closeContrails | _ => x.1, x.2)) (s, [])
  t.1.stalled (chooseStall t.2)

/-! ### Issue (R182, R187, R331, R441) -/

/-- The out-of-range access of slot `k`, which faulted as state `p` shows, is recorded too (R344, R358). -/
def State.copyOor (s : State) (k : Nat) (p : State) : State :=
  match p.tile.iss.oorBy with
  | some (j, x) => if j = k then (s.onIss fun i => { i with slot := k }).recordOor (some x) else s
  | none => s

/-- A bundle that issues has left its stall behind; from the speculating BRP's own bundle on, the path counts its bundles (R189,
R387). -/
def State.closeIssue (s : State) (normal : Bool) : State :=
  let s1 := if (s.cr crWDOG).extractLsb' 32 24 = 0 then s else s.setElapsed 0
  s1.onTile fun t =>
    { t with
      spec := t.spec.map fun p => { p with bundles := p.bundles + 1 }
      thr := { t.thr with elapsed := 0, waited := 0, sigHeld := false, issued := if normal then t.thr.issued + 1 else t.thr.issued } }

/-- Causes that slots of one bundle raise after it: the lower slot's, which is TRAP's, is taken first (R331; log 47). -/
def lateOrder (l : List PendTrap) : List PendTrap := sortBy (fun p => if p.cause = tcTRAP then 0 else 1) l

/-- The bundle has no fault: where it leads, and the traps that come after it (R193, R197, R198, R337, R441). `old` are causes held from
before a replay. -/
def State.leaveBundle (s : State) (r : Option Replay) (old : List PendTrap) : State :=
  let late := lateOrder s.tile.thr.pend
  let n := s.nextAddr false
  let t := n.1.onThr fun h =>
    { h with pc := if h.endStep = 3 then s.tile.iss.addr else n.2, replay := none, pend := if r.isSome || late.isEmpty then old ++ late else late }
  if (r.isSome || !late.isEmpty) && t.tile.thr.endStep != 3 then t.takePending n.2 else t

/-- Issues the slots of a bundle (R187, R331, R358): they are tried; if any stalls, the bundle stalls; those that fault do not execute,
all others do; then the lowest slot that faulted reports. -/
def State.issueSlots (s : State) (r : Option Replay) (b : Bundle) (instrs : List (Nat × Instr)) : State :=
  let src := s.tile.iss.src
  let tried := instrs.map fun ki => (ki, s.runSlot src r ki)
  let stalls := tried.filter fun x => x.2.tile.iss.stall.isSome
  let faults := tried.filter fun x => x.2.tile.iss.trapped == some false
  let ret := instrs.filter fun ki => isTret ki.2
  if !stalls.isEmpty then s.stalledBundle src r instrs
  else if faults.any fun x => (x.2.tile.iss.raised.map fun c => c.1) == some tcRESERVED then
    ((s.onIss fun i => { i with slot := 5 }).reservedTrap 5 false b.latchFault.info b.mask).closeIssue (!s.hm)
  else
    let traps := (tried.any fun x => x.2.tile.iss.trapped.isSome && !isTret x.1.2) || !s.tile.thr.pend.isEmpty
    let rest := (tried.filter fun x => x.2.tile.iss.trapped != some false && !isTret x.1.2).map fun x => x.1
    let old := s.tile.thr.pend
    let kept (st p : State) : State := if (p.tile.iss.raised.map fun c => c.1) == some tcGENERATION then st.copyQueue s p else st
    let s1 := faults.foldl (fun st x => kept (st.copyOor x.1.1 x.2) x.2)
      ((s.onThr fun h => { h with pend := [] }).onIss fun i => { i with entering := traps })
    let ran := State.runSlots src r (sortBy slotOrder rest) s1
    match ran.2 with
    | some w => s.stalled w
    | none =>
      let t := ran.1
      let done := match faults with
        | x :: _ =>
          let c := x.2.tile.iss.raised.getD (0, 0)
          let caps := faults.flatMap fun (y : (Nat × Instr) × State) => y.2.tile.iss.others
          ((t.onThr fun h => { h with pend := old ++ lateOrder h.pend }).onIss fun i => { i with src }).takeFault x.1.1 c.1 c.2 caps
        | [] =>
          match (if t.tile.thr.pend.isEmpty then ret.filter fun ki => !(tried.any fun x => x.1 == ki && x.2.tile.iss.trapped == some false) else []) with
          | ki :: _ =>
            let u := (t.onThr fun h => { h with pend := old }).runSlot src r ki
            if u.tile.iss.trapped.isSome then u
            else u.onThr fun h => { h with pc := u.nextAddr false |>.2 }
          | [] => (t.onIss fun i => { i with src }).leaveBundle r old
      done.closeIssue (!s.hm)

/-! ### What a tile does in its turn -/

/-- A bundle whose words hold an uncorrectable error traps before any of its slots executes: STORE_UE with SLOT 0 and no replay (R347). -/
def State.fetchUe (s : State) (word addr next : Nat) : State :=
  if s.tile.spec.isSome then s.stalled .spec
  else (s.enterTrap tcUE 0 false false (ueInfo 10 0 word) [] 0 0 addr next).closeIssue (!s.hm)

/-- The bundle at the program counter (R176, R177, R347). A reserved word that can be read takes precedence over every other cause
(R331). -/
def State.issueNormal (s : State) : State :=
  let pc := s.tile.thr.pc
  let b := s.tile.bundleAt pc
  match (s.tile.readable pc b).reserved with
  | x :: rs => if s.tile.spec.isSome then s.stalled .spec else (s.reservedBundle b x rs).closeIssue (!s.hm)
  | [] =>
    match s.tile.imemUe pc b with
    | some a => s.fetchUe a pc b.succ
    | none => (s.openIssue pc b.succ true).issueSlots none b b.instrs

/-- The replay that TRET ordered: the slots it names, as they stand at TPC.ADDR; header bits 31:8 are not examined again (R337, R338,
R354). A C word of zero replays as NOP: the loop action was taken at entry (R338, R360). -/
def State.issueReplay (s : State) (r : Replay) : State :=
  let b := s.tile.bundleAt r.addr
  let mine : Bundle := { b with header := b.header &&& 0xFF, words := b.words.filter fun w => r.mask.getLsbD w.2.1 }
  let t := s.openIssue r.addr r.next (mine.words.any fun w => w.2.1 == 0 && w.2.2 != 0)
  match (s.tile.readable r.addr mine).reserved with
  | x :: rs =>
    ((t.onIss fun i => { i with slot := x.slot }).reservedTrap x.slot (!rs.isEmpty) x.info mine.mask).closeIssue (!s.hm)
  | [] =>
    match s.tile.imemUe r.addr mine with
    | some a => s.fetchUe a r.addr r.next
    | none => t.issueSlots (some r) mine mine.instrs

/-- The third phase of END: the tile waits for what END's own bundle began, and then the thread has ended (R198). -/
def State.endPhase (s : State) : State :=
  if s.tile.ni.ents.all fun e => e.phase == .done then s.tileEnded s.tile.ep else s.stalled .endWait

/-- A trap that waits for the tile's next boundary: TWIN_MISMATCH, or the WATCHDOG that the leading tile has queued (R389, R430). A
speculative path is squashed first (R342). -/
def State.boundaryDue (s : State) : Option State :=
  match s.tile.twin with
  | none => none
  | some w =>
    let clear (s : State) : State := match s.tile.spec with | some p => s.squash p | none => s
    match w.mismatch with
    | some info =>
      some (((clear s).onTile fun t => { t with twin := some { w with mismatch := none } }).boundaryTrap tcTWIN info)
    | none =>
      match w.queue with
      | e :: q =>
        if !w.lead && !s.hm && e == watchEntry (e.getD 1 0) s.tile.thr.issued then
          some (((clear s).onTile fun t => { t with twin := some { w with queue := q } }).watchTrap (e.getD 1 0))
        else none
      | [] => none

/-- What the issue unit of the tile in focus does in this cycle. -/
def State.turnBody (s : State) : State :=
  if s.tile.run != .running || s.cycle < s.tile.idle then s
  else
    match s.boundaryDue with
    | some t => t.closeIssue false
    | none =>
      if s.tile.thr.endStep = 3 then s.endPhase
      else if (match s.tile.spec with | some p => decide (9 ≤ p.bundles) | none => false) then s
      else
        match s.tile.thr.replay with
        | some r => s.issueReplay r
        | none => s.issueNormal

/-- The turn of tile `ep`: it comes into focus, issues or stalls, and free values move on. -/
def State.tileTurn (s : State) (ep : Nat) : State :=
  let t := (s.focus ep).turnBody
  { t with fresh := t.fresh + 1 }.modTile ep fun u => { u with last := s.time, iss := Issue.none }

end Sys2Proof.Machine
end

