-- ==== Sys2Proof/Machine/Cycle.lean ====
section
/-!
DEFINITION. A cycle of the package apart from its tiles' turns: what falls due, the clock, the work that each unit begins by itself, and
the inputs from outside (R7, R28, R90, R114 to R118). How long a unit's work takes where the manual gives no time is the model's choice.
-/
namespace Sys2Proof.Machine

/-! ### What falls due -/

/-- The event that a scheduled or travelling step stands for. -/
def State.runEv (s : State) (e : Ev) : State :=
  match e with
  | .packet p => (s.headerIn p).wholeIn p firstInterval
  | .again p i => (s.headerIn p).wholeIn p i
  | .refused p i => s.refusedBack p i
  | .send src dst e => s.sendAgain src dst e
  | .shardPart _ _ => s
  | .shard kind q => s.arriveShard kind q
  | .sdata r i => s.dataReply r i
  | .sdone r i => s.doneReply r i
  | .fenceProbe srv issuer no => outState (execFenceProbe srv ⟨issuer, no⟩ s) s
  | .echo ep srv no i => s.echoed ep srv no i
  | .pendlimitExpiry srv issuer xid no => s.pendExpired srv issuer xid no
  | .swapHold srv issuer xid no => s.stillHeld srv issuer xid no
  | .laneSwap stack ch lane => outState (execLaneSwap stack ch lane s) s
  | .laneWindowEnd stack ch => outState (execLaneWindowEnd stack ch s) s
  | .swapDone stack => s.swapEnd stack
  | .hcontrib c => outState (execHcontrib c s) s
  | .hpart c => outState (execHpart c s) s
  | .hresult c => outState (execHresult c s) s
  | .imageHeaderRead n => outState (execImageHeaderRead n s) s
  | .placement part => s.placement part
  | .imageFetch n ep => s.imageFetched n ep
  | .preemption n => outState (execPreemption n s) s
  | .preempted n => outState (execPreempted n s) s
  | .resume n => outState (execResume n s) s
  | .tileEnd ep => s.tileEnded ep
  | .gangFaulted n => outState (execGangFaulted n s) s
  | .faultDeliveryTimeout n => outState (execFaultDeliveryTimeout n s) s
  | .itemDelivery ep => s.deliverItem ep
  | .logRecordDelivery unit => s.deliverRecord unit
  | .completionQueueWrite fn => s.writeCompletion fn
  | .contrailRound ep id => s.startRound ep id
  | .twinCompareTimeout ep => s.compareLate ep
  | .serverFailed srv => outState (execServerFailed srv s) s

/-- The scheduled events whose cycle has come, in the order in which they were scheduled. -/
def State.runSched (s : State) : State :=
  let due := s.sched.filter fun e => decide (e.1 ≤ s.cycle)
  due.foldl (fun st e => st.runEv e.2) { s with sched := s.sched.filter fun e => decide (s.cycle < e.1) }

/-- A source byte that the thread has written since issue is delivered with any value (R99): the payload of an EAGER or DATA packet, whose
first byte stands at `off` of the buffer of `e`. -/
def State.anyBytes (s : State) (key : Nat) (e : Ent) (off : Nat) (l : List Byte) : List Byte :=
  match e.buf with
  | .store a _ =>
    if e.dirty.isEmpty then l
    else l.zipIdx.map fun b =>
      let x := (a + off + b.2) % 2 ^ 64
      if e.dirty.any fun d => overlap d.1 d.2 x 1 then s.niFree key x else b.1
  | _ => l

/-- What a packet or a write shard delivers, with the source bytes that have been written since issue (R99, R120). -/
def State.freshen (s : State) (ev : Ev) : Ev :=
  let sender (r : Rank) (f : Ent → Bool) : Option (Nat × Ent) :=
    let t := s.getTile (rankEp r)
    if s.ownPkg r && isTile (rankEp r) then
      ((t.ni.ents ++ (t.shadow.elim [] fun c => c.ni.ents)).find? f).map fun e => (rankEp r, e)
    else none
  let packet (p : Packet) : Packet :=
    let off := match p.hdr.kind.toNat with | 0x01 => some 0 | 0x04 => some p.hdr.offset.toNat | _ => none
    match off, sender p.hdr.src fun e => e.kind.isSend && e.rank == p.hdr.dest && e.xid == p.hdr.xid with
    | some o, some x => { p with payload := s.anyBytes x.1 x.2 o p.payload }
    | _, _ => p
  match ev with
  | .packet p => .packet (packet p)
  | .again p i => .again (packet p) i
  | .shard kind q =>
    if kind = 1 || kind = 3 || kind = 5 then
      match sender q.issuer fun e => e.kind.isReq && e.xid.toNat == q.xid with
      | some x =>
        let cut := (q.pieces.foldl (fun (r : List Byte × List Byte) p => (r.1 ++ s.anyBytes x.1 x.2 p.pos (r.2.take p.len), r.2.drop p.len)) ([], q.data)).1
        .shard kind { q with data := cut }
      | none => ev
    else ev
  | _ => ev

/-- A flit that an interface takes: the first of a packet presents its header, the last brings the whole; a copy of CDATA is for the tile at
this router (R83, R88, R106). -/
def State.takeFlit (s : State) (x : Transit × Leg × Nat × Nat) : State :=
  let t := x.1
  let ev : Ev := match s.freshen t.ev with
    | .packet p => if t.multi then .packet { p with hdr := { p.hdr with dest := s.rankOf x.2.1.router } } else .packet p
    | e => e
  let first := x.2.1.taken == 0
  let last := x.2.1.taken + 1 == t.size
  let s1 := match ev with
    | .packet p => if first then s.headerIn p else s
    | .again p _ => if first then s.headerIn p else s
    | _ => s
  if !last then s1
  else
    match ev with
    | .packet p => s1.wholeIn p firstInterval
    | .again p i => s1.wholeIn p i
    | e => s1.runEv e

/-- The packets whose last flit passes an Ethernet port in the cycle: each goes to the transport; CDATA once for every package that holds a
subscriber beyond the port (R106, R313; log 16). -/
def State.departures (s : State) (old new : List Transit) : State :=
  let gone (a b : Option Leg) : List Nat :=
    match a.bind (·.outs), b.bind (·.outs) with
    | some bs, some cs => (bs.zip cs).filterMap fun y => if 8 ≤ y.2.port && y.1.sent < y.2.sent then some y.2.port else none
    | _, _ => []
  (old.zip new).foldl (fun st x =>
    (List.range x.1.legs.length).foldl (fun st g =>
      let a := x.1.legs[g]?
      let b := x.2.legs[g]?
      let whole (p : Nat) : Bool := ((b.bind (·.outs)).getD []).any fun c => c.port == p && c.sent == x.1.size
      ((gone a b).filter whole).foldl (fun st port =>
        match x.1.ev.packet? with
        | none => st
        | some p =>
          if x.1.multi then
            let far := ((st.contrailAt ((a.map fun g => g.router).getD 0) p.hdr.src p.hdr.group p.hdr.tag).elim [] fun c => c.far.filter fun f => f.1 == port)
            let one := far.foldl (fun (l : List Rank) f => if l.any fun r => rankPkg r == rankPkg f.2 then l else l ++ [f.2]) []
            one.foldl (fun st r => st.toUet (port - 8) (st.fabricOf r) { p with hdr := { p.hdr with dest := r } }) st
          else st.toUet (port - 8) x.1.fabric p) st) st) s

/-! ### Interfaces that inject (R119) -/

/-- A chunk of `n` bytes of a pair's request is to leave: the two interfaces' bytes are compared before it does (R388, R389). In the first
chunk a difference cancels both entries; after a later one the chunks go on marked, and both tiles are to trap. -/
def State.compared (s : State) (key : Nat) (e : Ent) (n : Nat) (send : State → Ent → State) : State :=
  match s.mateOf key e with
  | none => send s e
  | some (w, f) =>
    if e.part != 0 || (s.readBuf key e e.sent n).1 == (s.readBuf w.partner f e.sent n).1 then send s e
    else if e.sent = 0 then
      let s1 := s.twinBreak key e.id w.partner f.id e.ordn 4 3 stCANCELLED
      if e.kind == .publ then s1.endContrail key e else s1
    else
      let s1 := s.modEnt key e.id fun x => { x with poison := true, part := 1 }
      send (s1.twinLater key w.partner e.ordn) { e with poison := true, part := 1 }

/-- The next chunk of a rendezvous, compared in a pair (R96, R388, R389). -/
def State.serveChunk (s : State) (key : Nat) (e : Ent) : State :=
  s.compared key e (min Config.chunkBytes (e.granted - e.sent)) fun s e => s.sendChunk key e

/-- The next chunk of a round, compared in a pair (R105, R388, R389); a region in retention is waited for (R435). -/
def State.serveRound (s : State) (key : Nat) (e : Ent) : State :=
  s.whenAwake key e.buf id (s.compared key e (min Config.chunkBytes (e.len - e.sent)) fun s e => s.sendRound key e)

/-- Whether an interface may send: a stopping or parked tile's does not (R49, R322). -/
def State.mute (s : State) (key : Nat) : Bool :=
  s.trailing key || (isTile key && ((s.getTile key).run == .stopping || (s.getTile key).run == .parked))

/-- A tile's halo link carries the next chunk of one of its contributions (R163); in a pair it is compared (R388). -/
def State.serveLink (s : State) (key : Nat) : State :=
  let s := (s.getNi key).ents.foldl (fun st e => if (st.getNi key).leaves e && st.haloSend key e then st.leave key e else st) s
  if !isTile key || s.linkBusy key key then s
  else
    match (s.getNi key).ents.find? fun e => s.mayContribute key e with
    | some e => s.compared key e (min (s.haloChunk key e) (e.len - e.sent)) fun s e => s.contribute key e
    | none => s

/-- The packets of an entry that wait for a turn. -/
def Ni.waitsFor (n : Ni) (e : Ent) : Bool := n.waiting.any fun w => w.1 == e.id

/-- The oldest packet of an entry that waits for a turn leaves (R119). -/
def State.serveWaiting (s : State) (key : Nat) (e : Ent) : State :=
  match (s.getNi key).waiting.find? fun w => w.1 == e.id with
  | none => s
  | some w => (s.modNi key fun n => { n with waiting := n.waiting.erase w, last := e.id }).goOut key w.2.1 w.2.2

/-- What waited for an entry that has ended goes (R373). -/
def Ni.dropWaiting (n : Ni) : Ni :=
  { n with waiting := n.waiting.filter fun w => n.ents.any fun e => e.id == w.1 && e.phase != .done }

/-- An interface that injects nothing serves the next entry of its round-robin: a packet that waits for its turn, a first packet, a request packet,
a chunk or a chunk of a round (R119). -/
def State.serveTurn (s : State) (key : Nat) : State :=
  if s.mute key then s
  else
    let s1 := s.serveLink key
    let s0 := if (s1.getNi key).waiting.isEmpty then s1 else s1.modNi key Ni.dropWaiting
    let n := s0.getNi key
    match roundRobin n.last (n.ents.filter fun e =>
        ((n.leaves e && !s0.haloSend key e) || n.asks e || e.chunkReady || e.roundReady || n.waitsFor e) && !s0.wayBusy key e) with
    | none => s0
    | some e =>
      if n.waitsFor e then s0.serveWaiting key e
      else if e.chunkReady then (s0.modNi key fun n => { n with last := e.id }).serveChunk key e
      else if e.roundReady then (s0.modNi key fun n => { n with last := e.id }).serveRound key e
      else s0.serveFirst key e

/-- The tiles that anything has touched, in no particular order. -/
def State.tileKeys (s : State) : List Nat := s.tile.ep :: s.others.map fun t => t.ep

/-- The interfaces that anything has touched. -/
def State.niKeys (s : State) : List Nat := s.tileKeys ++ (s.fns.map fun f => hostKey f.1) ++ s.nis.map fun n => n.1

/-- A cycle of the torus (R84, R88, R90, R114 to R119, R303, R304): headers that have come are counted and routed, flits cross, interfaces
take what has come for them, and every endpoint injects a flit. -/
def State.runTorus (s : State) : State :=
  let s0 := s.countHeaders
  let old := s0.torus.map s0.routed
  let moved := moveFlits old s.cycle
  let taken := takenFlits old s.cycle
  let s1 := { s0 with torus := sweepTorus (takeFlits moved taken) }
  let s2 := taken.foldl State.takeFlit (s1.departures old moved)
  let s3 := s2.niKeys.foldl State.serveTurn s2
  { s3 with torus := injectFlits s.torus s3.torus s.cycle }

/-! ### The clock (R28, R315, R317) -/

/-- The next cycle: TIME advances by the length of a cycle of the tile clock. -/
def State.tickClock (s : State) : State :=
  { s with
    cycle := s.cycle + 1
    time := (s.time + (s.frac + 10) / s.mgmt.clock) % 2 ^ 64
    frac := (s.frac + 10) % s.mgmt.clock }

/-! ### Units -/

/-- Engine ranges that have been worked off. -/
def Engine.clear (e : Engine) (cycle : Nat) : Engine :=
  let live (j : Job) : Bool := decide (cycle < j.until_)
  { e with mma := e.mma.filter live, msto := e.msto.filter live }

/-- What completes in a tile: results, ANVWs, a speculated branch (R74, R156, R189). -/
def State.serveTile (s : State) (ep : Nat) : State :=
  let s1 := (s.focus ep).landResults
  let s2 := outState (execAnvwComplete s1) s1
  s2.resolveBranch.onTile fun t => { t with eng := t.eng.clear s.cycle }

/-- Retention of a tile's eight regions (R435). -/
def State.serveRetention (s : State) (ep : Nat) : State :=
  (List.range 8).foldl (fun st j =>
    let s1 := st.retentionStep ep j
    let s2 := if s1.retentionDue ep j then s1.retentionEntry ep j else s1
    s2.retentionScrub ep j) s

/-- The requests of a pair that wait for their partners wait longer, except in handler mode (R388). -/
def State.serveTwin (s : State) (ep ns : Nat) : State :=
  match (s.getTile ep).twin with
  | none => s
  | some w =>
    if (s.getTile ep).hm || (s.getTile w.partner).hm then s
    else
      (s.modTile ep fun t => { t with twin := t.twin.map fun v =>
        { v with reqs := v.reqs.map fun r => (r.1, r.2.1, r.2.2.1, r.2.2.2.1, r.2.2.2.2 + ns) } }).compareLate ep

/-- Entries that complete in the step after issue, with a record where the manual asks for one (R261, R374). -/
def State.serveInstants (s : State) (key : Nat) : State :=
  let due := (s.getNi key).instant.filter fun x => decide (x.2.2 ≤ s.cycle)
  due.foldl (fun st x =>
    match st.ent key x.1 with
    | none => st
    | some e =>
      let told := BitVec.ofNat 8 x.2.1 == stUNREACHABLE && e.phase != .done && (st.sendFate e.rank == some (stUNREACHABLE, true)) &&
        (isTile key || isHost key)
      let st1 := if told then st.logNi key stUNREACHABLE 0 (e.rank.zeroExtend 64) else st
      st1.completeWith key x.1 (BitVec.ofNat 8 x.2.1) 0 e.len)
    (s.modNi key fun n => { n with instant := n.instant.filter fun x => decide (s.cycle < x.2.2) })

/-- A contrail: a round starts or ends, or the contrail closes (R105, R273). -/
def State.serveContrail (s : State) (key : Nat) (e : Ent) : State :=
  if e.phase == .open_ then
    (if e.closing then s.closeContrail key e.id else s.startRound key e.id)
  else if e.phase == .awaitLast && !s.roundRuns (s.niRank key) e then s.endRound key e
  else s

/-- One entry of an interface: what is due of it. -/
def State.serveEnt (s : State) (key : Nat) (e : Ent) : State :=
  match e.phase with
  | .held => s.timedDue key e.id
  | .queued => if e.retryAt.isSome then s.retryDue key e.xid.toNat else s
  | .shards => e.shards.foldl (fun st x => if x.code.isNone && x.due != 0 && decide (x.due ≤ s.time) then st.shardLate key e.xid.toNat x.shard.no else st) s
  | _ =>
    if e.kind == .publ then s.serveContrail key e else s

/-- An interface: what is due of its entries; a stopped tile's does nothing but let land what has come (R49). -/
def State.serveNi (s : State) (key : Nat) : State :=
  let s1 := (if (s.getNi key).late.isEmpty then s else s.serveLanding key).serveInstants key
  if isTile key && ((s1.getTile key).run == .stopping || (s1.getTile key).run == .parked) then s1
  else
    let s2 := (s1.getNi key).ents.foldl (fun st e => match st.ent key e.id with | some x => st.serveEnt key x | none => st) (s1.settleOut key)
    s2.releases key

/-- Host functions fetch descriptors, and a disabling takes effect (R311). -/
def State.serveHost (s : State) (fn : Nat) : State := (s.fetch fn).settleEn fn

/-- Launches that age, whose leases run out or whose parking record is late; then drain reservations (R45, R47, R53, R324). -/
def State.servePlacer (s : State) : State :=
  let s1 := s.launches.foldl (fun st l =>
    match st.launchNo l.n with
    | none => st
    | some x =>
      if st.leaseOver x then outState (execLeaseExpiry x.n st) st
      else if x.quits then (if x.parkedBy.isSome then outState (execGangFaulted x.n st) st else outState (execLeaseExpiry x.n st) st)
      else if st.recordLate x then outState (execFaultDeliveryTimeout x.n st) st
      else if st.agingDue x then outState (execAgingStep x.n st) st
      else st) s
  partNumbers.foldl (fun st p => if (st.drainDue p).isSome then st.drain p else st) s1

/-- Items go to the tiles that wait, one after the other (R57). -/
def State.serveStages (s : State) : Nat → State
  | 0 => s
  | n + 1 => match s.nextServed with
    | some ep => (s.deliverItem ep).serveStages n
    | none => s

/-- Everything that units begin by themselves at the start of a cycle; `ns` is the time that the last cycle took. -/
def State.serveUnits (s : State) (ns : Nat) : State :=
  let s1 := s.tileKeys.foldl (fun st ep => ((st.serveTile ep).serveRetention ep).serveTwin ep ns) s
  let s2 := s1.niKeys.foldl (fun st k => st.serveNi k) s1
  let s3 := (s2.fns.map fun f => f.1).foldl (fun st f => st.serveHost f) s2
  let s4 := (s3.srv.filter fun v => !v.2.queue.isEmpty || !v.2.resend.isEmpty || !v.2.pending.isEmpty).foldl (fun st v => st.serve v.1) s3
  let s5 := (s4.halo.map fun h => h.1).foldl (fun st n => st.serveNode n) s4
  let s6 := s5.servePlacer
  s6.serveStages s6.waiters.length

/-- The tiles that take a turn in a cycle, in endpoint order. -/
def State.runners (s : State) : List Nat :=
  sortBy id (((s.tile :: s.others).filter fun t => t.run == .running).map fun t => t.ep)

/-- The end of a cycle and the beginning of the next: what is due, the clock, the units, and the tiles' round. -/
def State.nextCycle (s : State) : State :=
  let s1 := (s.runSched.runTorus).tickClock
  let s2 := s1.serveUnits (s1.time - s.time)
  { s2 with round := s2.runners, fresh := s2.fresh + 1 }

/-- Whether a scheduled event brings a log record to the host. -/
def Ev.isRecord : Ev → Bool
  | .logRecordDelivery _ => true
  | _ => false

/-- A cycle of a halted package: records still reach the host and TIME goes on; tiles, servers and ports have stopped (R437). -/
def State.haltedCycle (s : State) : State :=
  let s1 := ({ s with sched := s.sched.filter fun e => e.2.isRecord }).runSched.tickClock
  { s1 with round := [], fresh := s1.fresh + 1 }

/-! ### Inputs -/

/-- The rows that come from outside the package: host writes, what system software asks of the management controller, sensors and transport
reports. A descriptor comes in no other way than through its ring (R311). -/
def isInput : Instr → Bool
  | .uetFailure _ _ | .haloNodeFailed _ | .serverFailed _ | .withdraw _
  | .sqtailWrite _ _ | .hwctlEnWrite _ _ | .qerrClear _ _ | .cqheadWrite _ _ | .elheadWrite _ | .jheadWrite _ | .pwrlimWrite _
  | .alarmctlWrite _ | .alarmstatClear _ | .remapctlWrite _ _ | .lockedFieldWrite _ _ _ | .hostRegisterWrite _ _ _ _
  | .lockInterface _ | .startInterface _ | .stopInterface _ | .getDeviceInterfaceReport _ | .ideIntegrityFailure _ _
  | .partitionAssign _ _ | .tilePartitionMove _ _ | .placerParameterSet _ _ _ | .groupDescriptorWrite _ _ _ _ | .groupEntryWrite _ _ _
  | .contextDescriptorWrite _ _ _ | .pageEntryChange _ _ _ _ _ | .poolRefill _ _ _ | .failPendingShards _ _ | .keySlotLoad _ _
  | .keySlotErase _ | .faultrankSet _ _ _ | .pkgmapWrite _ _ | .tableRebuild _ _ _ | .alarm _ | .d3hotEntry | .d0Entry | .timeSync _
  | .startUp _ | .tileClockLowering | .srIovEnable _ _ => true
  | _ => false

/-- The rows by which the host writes BAR 2. -/
def isBar2 : Instr → Bool
  | .hostRegisterWrite _ true _ _ | .elheadWrite _ | .jheadWrite _ | .pwrlimWrite _ | .alarmctlWrite _ | .alarmstatClear _
  | .remapctlWrite _ _ => true
  | _ => false

/-- A sensor of the security alarm (R436). -/
def isAlarm : Instr → Bool
  | .alarm _ => true
  | _ => false

/-- An input is taken when it can come from outside. In recovery PF 0 alone is there, and its
BAR 2, and the sensors (R316, R436); so it is of a halted package, where they still count (R437). -/
def State.takes (s : State) (i : Instr) : Bool :=
  match s.mgmt.boot with
  | .recovery => isBar2 i || isAlarm i
  | .halted => isBar2 i || isAlarm i
  | _ => isInput i

/-- Ethernet port `j` brings in a packet of another package: every kind but those of server requests and the halo tree (R313). A SUBSCRIBE
or PRUNE enters at the port over which the contrail leaves or comes (R106; log 16). -/
def State.portIn (s : State) (j : Nat) (p : Packet) : State :=
  if s.ownPkg p.hdr.src || !s.ownPkg p.hdr.dest || !messageKind p.hdr.kind.toNat || 16 ≤ j then s
  else
    let j' := if p.hdr.kind = 0x09 || p.hdr.kind = 0x0A then (s.portFor p.hdr.src p.hdr.dest).getD j else j
    s.inject (.packet p) (0x2000 + j') (if p.hdr.kind = 0x0B then 0xFFF else rankEp p.hdr.dest)

/-- Events that keep their order on their way: those of the halo tree, and those of one interface's retries. -/
def Ev.path : Ev → Nat
  | .hcontrib _ => 1
  | .hpart _ => 1
  | .hresult _ => 1
  | .send _ _ _ => 2
  | .sdata _ _ => 2
  | .sdone _ _ => 2
  | .echo _ _ _ _ => 2
  | .logRecordDelivery _ => 3
  | _ => 0

/-- A scheduled event comes later, and those behind it on its path do. -/
def State.delayEv (s : State) (n c : Nat) : State :=
  match s.sched[n]? with
  | none => s
  | some e =>
    { s with sched := s.sched.zipIdx.map fun x =>
        if x.2 = n || (e.2.path != 0 && x.1.2.path == e.2.path && decide (n ≤ x.2)) then (x.1.1 + c, x.1.2) else x.1 }

/-- A soft error in a register leaves the carried residue (R343). -/
def Regs.flip (r : Regs) (x : Reg) (mask : VBits) : Regs :=
  match x with
  | .s n => let v := r.getS n; r.setS n { v with val := v.val ^^^ mask.extractLsb' 0 64 }
  | .v n => let v := r.getV n; r.setV n { v with bits := v.bits ^^^ mask }
  | .f n => r.setF n (r.getF n ^^^ mask.extractLsb' 0 32)
  | .m n => r.setM n (r.getM n ^^^ mask.extractLsb' 0 64)
  | _ => r

/-- A server holds the later shards of an issuer behind one that was lost on its way, as behind one that it asks for again, so that they keep
their order (R125, R384; log 81); a shard of which an earlier packet is lost or damaged will fail its CRC. -/
def State.noteHarm (s : State) (n : Nat) (lose : Bool) : State :=
  match s.torus[n]?.map (fun (t : Transit) => t.ev) with
  | some (.shard _ q) =>
    let me := (q.issuer, q.xid, q.no)
    if lose && ((s.getSrv q.srv).recorded q.issuer q.xid q.no).isNone then s.modSrv q.srv fun v => { v with resend := v.resend.filter (· != me) ++ [me] }
    else s
  | some (.shardPart _ q) => s.modSrv q.srv fun v => { v with broken := v.broken ++ [(q.issuer, q.xid, q.no)] }
  | _ => s

/-- Loses or damages a server packet; others keep to their links' own repair (R383). -/
def State.harmPacket (s0 : State) (n : Nat) (lose : Bool) : State :=
  let s := s0.noteHarm n lose
  { s with torus := s.torus.zipIdx.filterMap fun x =>
      if x.2 ≠ n then some x.1
      else match x.1.ev with
        | .shard k q => if lose then none else some { x.1 with ev := .shard k { q with damaged := true } }
        | .shardPart k q => if lose then none else some { x.1 with ev := .shardPart k { q with damaged := true } }
        | .sdata r i => if lose then none else some { x.1 with ev := .sdata { r with damaged := true } i }
        | .sdone r i => if lose then none else some { x.1 with ev := .sdone { r with damaged := true } i }
        | _ => some x.1 }

/-- Adds `v` to the list at a key. -/
def addAt {α : Type} (l : List (Nat × List α)) (k : Nat) (v : List α) : List (Nat × List α) :=
  let old := ((l.find? fun x => x.1 == k).map fun x => x.2).getD []
  (l.filter fun x => x.1 != k) ++ [(k, old ++ v)]

/-- A record of a word or register in which a read has found an error that the code corrects (R346). -/
def State.logWord (s : State) (ep gang : Nat) (p : Poison) : State :=
  match p with
  | .anvil w => s.logAnvil ep w false
  | .store w => s.log 0x01 0 0x0001 ep (s.logPart ep) 0xFFFF (8 * w) gang 0 0
  | .imem w => s.log 0x01 0 0x0001 ep (s.logPart ep) 0xFFFF w gang 0 0
  | .reg _ => s.log 0x01 0 0x0001 ep (s.logPart ep) 0xFFFF 0 gang 0 0
  | .row _ _ => s.log 0x01 0 0x0001 ep (s.logPart ep) 0xFFFF 0 gang 0 0
  | .capture => s.log 0x01 0 0x0001 ep (s.logPart ep) 0xFFFF 0 gang 0 0
def State.logSoft (s : State) (ep : Nat) (p : Poison) : State := s.logWord ep (s.getTile ep).gang p

/-- An input other than a row of the table. -/
def State.takeTurn (s : State) (t : Turn) : State :=
  match t with
  | .input _ => s
  | .port j p => if s.mgmt.boot = .running then s.portIn j p else s
  | .delay n c => s.delayEv n c
  | .flip ep r mask => s.modTile ep fun t => { t with thr := { t.thr with regs := t.thr.regs.flip r mask } }
  | .hurt ep p => s.modTile ep fun t => { t with poison := (t.poison.filter fun q => q != p) ++ [p] }
  | .hurtSaved ep p =>
    s.modTile ep fun t => { t with shadow := t.shadow.map fun c => { c with poison := (c.poison.filter fun q => q != p) ++ [p] } }
  | .pathFail ep => s.pathFailed ep
  | .soft ep p => s.logSoft ep p
  | .softSaved ep p => match (s.getTile ep).shadow with
    | some c => s.logWord ep c.gang p
    | none => s
  | .walkTime srv n => if srv < 192 then s.modSrv srv fun v => { v with walk := n } else s
  | .recordLost srv => if srv < 192 then s.modSrv srv fun v => { v with unread := true } else s
  | .flaw ep w =>
    s.modTile ep fun t =>
      let kept := (List.range 8).any fun j => t.inRegion j w && (match t.retained j with | some (.kept _) => true | _ => false)
      if kept then { t with flaws := (t.flaws.filter fun x => x != w) ++ [w] } else t
  | .cell stack burst symbols => s.modBase stack fun b => { b with cells := addAt b.cells burst symbols }
  | .lanes stack burst fails => s.modBase stack fun b => { b with xfer := addAt b.xfer burst fails }
  | .table stack region copy =>
    s.modBase stack fun b =>
      if copy then { b with badCopy := (b.badCopy.filter fun x => x != region) ++ [region] }
      else { b with badMain := (b.badMain.filter fun x => x != region) ++ [region] }
  | .hostMem a data => { s with hostMem := putBytes s.hostMem a data }
  | .drop n => s.harmPacket n true
  | .corrupt n => s.harmPacket n false

end Sys2Proof.Machine
end

