-- ==== Sys2Proof/Machine/Step.lean ====
section
/-!
DEFINITION. One step of the package: start-up, an input from outside, one tile's turn, or the end of a cycle. Nothing else is decided
here.
-/
namespace Sys2Proof.Machine

/-- The next input is taken from the list. -/
def State.popTurn (s : State) (rest : List Turn) : State := { s with turns := rest, fresh := s.fresh + 1 }

/-- A step (R316, R437): after reset start-up runs; in recovery only BAR 2 answers the host; a halted package runs nothing but the
delivery of its records. A running package takes its inputs first, then each tile's turn of this cycle, then the cycle ends. -/
def step (s : State) : Host.Outcome State Fault Refusal :=
  match s.mgmt.boot with
  | .reset => .next (s.startUp s.mgmt.flash)
  | _ =>
    match s.turns with
    | .input i :: rest => if (s.popTurn rest).takes i then exec i (s.popTurn rest) else .next (s.popTurn rest)
    | t :: rest => .next ((s.popTurn rest).takeTurn t)
    | [] =>
      if s.mgmt.boot = .halted then .next s.haltedCycle
      else match s.round with
      | ep :: rest => .next (State.tileTurn { s with round := rest } ep)
      | [] => .next s.nextCycle

/-- Stores bytes in an instruction store from `a` on, wrapping at its end (R176). -/
def putImem (m : Memory) (a : Nat) : List Byte → Memory
  | [] => m
  | b :: l => putImem (Sparse.set 0 m (a % Config.imemBytes) b) (a + 1) l

/-- The eight words of a fixed bundle that holds the word `w` in slot `k` and is empty otherwise (R176). -/
def wordBundle (k : Nat) (w : W32) : List Byte := (List.range 8).flatMap fun j => toLE 4 (if j = k then w.toNat else 0)

/-- `s` with a word as the one instruction of the next bundle of the tile in focus, which takes its turn in the next step: the tile
runs a confirmed path in fixed form in normal order, and no input comes before its turn (log 5). -/
def State.withFetchWord (s : State) (nbits w : Nat) : State :=
  let x : W32 := BitVec.ofNat 32 (w % 2 ^ nbits)
  let t := s.tile.setCr crSLOTFORM 0
  { s with
    turns := []
    round := [s.tile.ep]
    mgmt := { s.mgmt with boot := .running }
    tile :=
      { t with
        run := .running, idle := 0, spec := none, twin := none
        imem := putImem t.imem t.thr.pc (wordBundle (tableSlot x) x)
        poison := t.poison.filter fun p => match p with | .imem _ => false | _ => true
        thr := { t.thr with replay := none, endStep := 0 } } }

end Sys2Proof.Machine
end

