-- ==== Sys2Proof/Safety.lean ====
section
/-!
DEFINITION. The words in which the statements speak of a step: what a slot needs to run, what it gives, and what it leaves. `s` is the
state before and `t` the state after.
-/
namespace Sys2Proof.Safety

open Sys2Proof.Machine

/-! ### Before -/

/-- No mark of poison stands in the tile, or in the capture that a replayed slot reads (R347). -/
def Unpoisoned (s : State) : Prop := s.marks = [] ∧ s.tile.poison = []

/-- The tile in focus runs a confirmed path and stands alone, without a twin. -/
def Confirmed (s : State) : Prop := s.tile.spec = none ∧ s.tile.twin = none

/-! ### After -/

/-- The instruction completes: `exec` answers a next state, and of it `P` holds. -/
def Gives (i : Instr) (s : State) (P : State → Prop) : Prop := ∃ t, exec i s = .next t ∧ P t

/-- The byte at an address of the tile store of the tile in focus. -/
def byteAt (s : State) (a : Nat) : Byte := Sparse.get 0 s.tile.mem a

/-- Every register but those of a list reads as before; so do the loop counters. -/
def RegsExcept (rs : List Reg) (r r' : Regs) : Prop :=
  (∀ n, Reg.s n ∉ rs → r'.getS n = r.getS n) ∧ (∀ n, Reg.f n ∉ rs → r'.getF n = r.getF n) ∧
  (∀ n, Reg.v n ∉ rs → r'.getV n = r.getV n) ∧ (∀ n, Reg.m n ∉ rs → r'.getM n = r.getM n) ∧
  (∀ n, Reg.p n ∉ rs → r'.getP n = r.getP n) ∧ (∀ k i, Reg.acc k ∉ rs → i < 64 → r'.getRow k i = r.getRow k i) ∧
  (∀ k i, Reg.xa k ∉ rs → i < 64 → r'.getXA k i = r.getXA k i) ∧ (∀ n, Reg.b n ∉ rs → r'.getB n = r.getB n) ∧
  (∀ n, Reg.sig n ∉ rs → r'.getSig n = r.getSig n) ∧ (∀ n, Reg.h n ∉ rs → r'.getH n = r.getH n) ∧
  (∀ n, Reg.cr n ∉ rs → r'.getC n = r.getC n) ∧ r'.lc = r.lc

/-- No result that is on its way, and no flag, is lost. -/
def KeepsLandings (s t : State) : Prop :=
  ∀ l ∈ s.tile.thr.land, s.cycle < l.ready ∨ l.flags ≠ 0 → l ∈ t.tile.thr.land

/-- The frame of a slot that writes only registers: registers outside the list, every byte of memory, and all else of the package
but the results on their way are as before. -/
def OnlyRegs (rs : List Reg) (s t : State) : Prop :=
  RegsExcept rs s.tile.thr.regs t.tile.thr.regs ∧ (∀ a, byteAt t a = byteAt s a) ∧ KeepsLandings s t ∧
  t = { s with tile := { s.tile with thr := { s.tile.thr with regs := t.tile.thr.regs, land := t.tile.thr.land } } }

/-- A result with a latency bound is on its way, with the flags that it will raise when it lands (R74, R182, R185). -/
def Lands (s t : State) (r : Reg) (lat : Nat) (flags : BitVec 6) : Prop :=
  ∃ l ∈ t.tile.thr.land, l.dest = r ∧ l.ready = s.cycle + lat ∧ l.flags = flags

/-- Scalar register `d` receives `v`, or nothing when it is s0 (R172). -/
def ToS (s t : State) (d : BitVec 5) (v : Word) (lat : Nat) (flags : BitVec 6) : Prop :=
  (t.tile.thr.regs.getS d.toNat).val = (if d = 0 then 0 else v) ∧ Lands s t (if d = 0 then .none else .s d.toNat) lat flags ∧
  OnlyRegs [.s d.toNat] s t

/-- Register f`d` receives `v`. -/
def ToF (s t : State) (d : BitVec 4) (v : W32) (lat : Nat) (flags : BitVec 6) : Prop :=
  t.tile.thr.regs.getF d.toNat = v ∧ Lands s t (.f d.toNat) lat flags ∧ OnlyRegs [.f d.toNat] s t

/-- Predicate `k` receives `v`, or nothing when it is p0 (R172). -/
def ToP (s t : State) (k : BitVec 3) (v : Bool) (lat : Nat) : Prop :=
  t.tile.thr.regs.getP k.toNat = (if k = 0 then true else v) ∧ (k ≠ 0 → Lands s t (.p k.toNat) lat 0) ∧ OnlyRegs [.p k.toNat] s t

/-- Mask `k` receives `v`, or nothing when it is m0 (R172). -/
def ToM (s t : State) (k : BitVec 3) (v : Word) (lat : Nat) : Prop :=
  t.tile.thr.regs.getM k.toNat = (if k = 0 then BitVec.allOnes 64 else v) ∧ (k ≠ 0 → Lands s t (.m k.toNat) lat 0) ∧
  OnlyRegs [.m k.toNat] s t

/-- Lane `i` of vector register `d` receives `f i`, for each of the 64 lanes. -/
def ToV (s t : State) (d : BitVec 5) (f : Nat → W32) (lat : Nat) (flags : BitVec 6) : Prop :=
  (∀ i < 64, lane (t.tile.thr.regs.getV d.toNat).bits i = f i) ∧ Lands s t (.v d.toNat) lat flags ∧ OnlyRegs [.v d.toNat] s t

/-- Lane `i` carries the residue of its value (R230, R343). -/
def LaneOk (v : VVal) (i : Nat) : Prop := v.laneRes i = resOf (lane v.bits i).toNat

/-- The frame of a slot that uses the matrix engine for `n` steps: registers outside the list, every byte of both memories and the
program counter are as before (R186). -/
def OnlyMatrix (rs : List Reg) (n : Nat) (s t : State) : Prop :=
  RegsExcept rs s.tile.thr.regs t.tile.thr.regs ∧ (∀ a, byteAt t a = byteAt s a) ∧ t.tile.anvil = s.tile.anvil ∧ KeepsLandings s t ∧
  t.tile.thr.pc = s.tile.thr.pc ∧ t.tile.eng.matrix = s.cycle + n

/-- The bundle's transfer to an address: the next bundle stands there; registers outside the list, every byte of memory, and all else but
the results on their way are as before (R195). -/
def Jumps (a : Nat) (rs : List Reg) (s t : State) : Prop :=
  t.tile.thr.pc = a ∧ t.tile.iss.jump = some a ∧ RegsExcept rs s.tile.thr.regs t.tile.thr.regs ∧ (∀ x, byteAt t x = byteAt s x) ∧
  KeepsLandings s t ∧
  t = { s with tile := { s.tile with
    thr := { s.tile.thr with regs := t.tile.thr.regs, land := t.tile.thr.land, pc := a }
    iss := { s.tile.iss with jump := some a } } }

/-- `n` bytes of `v`, lowest first, stand from address `p` on, where they are in range; every other byte, every register and all else of
the thread are as before (R120, R219). -/
def Stores (p : Word) (n v : Nat) (s t : State) : Prop :=
  (∀ i < n, s.tile.inRange (p + BitVec.ofNat 64 i).toNat = true → byteAt t (p + BitVec.ofNat 64 i).toNat = BitVec.ofNat 8 (v / 256 ^ i)) ∧
  (∀ x, ((∀ i < n, x ≠ (p + BitVec.ofNat 64 i).toNat) ∨ s.tile.inRange x = false) → byteAt t x = byteAt s x) ∧
  RegsExcept [] s.tile.thr.regs t.tile.thr.regs ∧
  t = { s with tile := { s.tile with mem := t.tile.mem, ni := { s.tile.ni with ents := t.tile.ni.ents }, iss := t.tile.iss } }

/-! ### Traps at issue -/

/-- A slot alone in its bundle, on a confirmed path outside handler mode with a handler, whose capture has no error: what it finds wrong at
issue is taken as a trap (R331, R347). -/
def TrapReady (s : State) (slot : Nat) : Prop :=
  s.tile.spec = none ∧ s.hm = false ∧ (s.cr 0x023).toNat % 2 ^ 18 ≠ 0 ∧ (s.source.regs.getC 0x020).getLsbD 63 = false ∧
  s.tile.iss.others = [] ∧ s.tile.iss.slot = slot ∧ s.tile.iss.loops = false ∧ Poison.capture ∉ s.tile.poison

/-- The trap of `cause` has been entered at issue with its detail and that slot to replay; every other register and both memories are as
before (R331 to R336). -/
def TrapsAt (cause slot : Nat) (info : Word) (s t : State) : Prop :=
  t.hm = true ∧ (t.cr 0x020).toNat % 256 = cause ∧ (t.cr 0x020).getLsbD 12 = false ∧ t.cr 0x028 = info ∧ (t.cr 0x022).toNat = 2 ^ slot ∧
  t.tile.thr.pc = (s.cr 0x023).toNat % 2 ^ 18 ∧ t.tile.anvil = s.tile.anvil ∧ (∀ x, byteAt t x = byteAt s x) ∧
  RegsExcept [.cr 0x020, .cr 0x021, .cr 0x022, .cr 0x024, .cr 0x025, .cr 0x026, .cr 0x027, .cr 0x028] s.tile.thr.regs t.tile.thr.regs

/-! ### Numbers -/

/-- The real number that a finite code of a format stands for (R62). -/
noncomputable def codeReal (f : Fmt) (c : Nat) : ℝ :=
  let e := c / 2 ^ f.mb % 2 ^ f.eb
  let m := c % 2 ^ f.mb
  (if c / 2 ^ (f.eb + f.mb) % 2 = 1 then -1 else 1) *
    (if e = 0 then m * (2 : ℝ) ^ (1 - f.bias - f.mb : ℤ) else (2 ^ f.mb + m) * (2 : ℝ) ^ (e - f.bias - f.mb : ℤ))

/-- The real number that a decoded value stands for, where it is finite. -/
noncomputable def valReal (x : FVal) : ℝ := x.int * (2 : ℝ) ^ (-149 : ℤ)

/-- A finite FP32 pattern, and the number that it stands for. -/
def FiniteFp (x : W32) : Prop := x.toNat / 2 ^ 23 % 256 ≠ 255
noncomputable def fpReal (x : W32) : ℝ := codeReal .f32 x.toNat

/-- The numbers `m × 2^k` of a significand of `f`, from the exponent `low` on where there is one; and those of them with an even significand. -/
def Grid (f : Fmt) (low : Option ℤ) (r : ℝ) : Prop :=
  ∃ m k : ℤ, |m| < 2 ^ (f.mb + 1) ∧ (∀ l ∈ low, l ≤ k) ∧ r = m * (2 : ℝ) ^ k
def GridEven (f : Fmt) (low : Option ℤ) (r : ℝ) : Prop :=
  ∃ m k : ℤ, |2 * m| < 2 ^ (f.mb + 1) ∧ (∀ l ∈ low, l ≤ k) ∧ r = 2 * m * (2 : ℝ) ^ k

/-- What `v` rounds to among some numbers: the nearest, of two the even one; toward zero; down; up (R73). -/
def RoundsIn (grid even : ℝ → Prop) (rm : Nat) (v r : ℝ) : Prop :=
  grid r ∧ ∀ x, grid x →
    (rm = 0 → |r - v| ≤ |x - v| ∧ (|x - v| = |r - v| → x = r ∨ even r)) ∧
    (rm = 1 → 0 ≤ r * v ∧ |r| ≤ |v| ∧ (0 ≤ x * v → |x| ≤ |v| → |x| ≤ |r|)) ∧
    (rm = 2 → r ≤ v ∧ (x ≤ v → x ≤ r)) ∧
    (rm = 3 → v ≤ r ∧ (v ≤ x → r ≤ x))

/-- `res` is the code and the flags that the exact number `v`, which is not zero, rounds to in `f` under `rm`; `sat` is SAT8 for an 8-bit format.
`r` is the rounding with unlimited exponent above; `w`, with unlimited exponent below as well, says whether a result is tiny (R71, R73 to R75,
R215). -/
def RoundsTo (f : Fmt) (rm : Nat) (sat : Bool) (v : ℝ) (res : Nat × BitVec 6) : Prop :=
  ∃ r w : ℝ, RoundsIn (Grid f (some f.ulp)) (GridEven f (some f.ulp)) rm v r ∧ RoundsIn (Grid f none) (GridEven f none) rm v w ∧
    let sign := if v < 0 then 2 ^ (f.eb + f.mb) else 0
    (|r| ≤ codeReal f f.maxCode → codeReal f res.1 = r ∧ res.1 / 2 ^ (f.eb + f.mb) = sign / 2 ^ (f.eb + f.mb) ∧
      res.2 = if r = v then 0 else if |w| < (2 : ℝ) ^ (1 - f.bias : ℤ) then 0x03 else 0x01) ∧
    (codeReal f f.maxCode < |r| →
      if sat then res = (sign + f.maxCode, 0x25)
      else if rm = 1 ∨ (rm = 2 ∧ 0 < v) ∨ (rm = 3 ∧ v < 0) then res = (sign + f.maxCode, 0x05)
      else res = (if f = .e4m3 then 0x7F else sign + f.maxCode + 1, 0x05))

/-- The same of an FP32 result. -/
def RoundsFp (rm : Nat) (v : ℝ) (res : W32 × BitVec 6) : Prop := RoundsTo .f32 rm false v (res.1.toNat, res.2)

/-! ### The network interface -/

/-- Nothing of the tile's interface waits to leave: it injects no packet, and no send or shard of an entry stands before it (R119, R371). -/
def NothingWaits (s : State) : Prop :=
  s.injecting s.tile.ep = false ∧
    ∀ e ∈ s.tile.ni.ents, e.id ≠ s.tile.ni.nextId ∧ e.phase ≠ .queued ∧ e.unsent = [] ∧ e.pairWait = false

/-- A confirmed path of a tile that stands alone, with no poison, no store in this bundle, no buffer that a message or an engine is still
writing, an idle tile-store engine, and nothing that waits to leave (R111, R226, R371). -/
def NetReady (s : State) : Prop :=
  Unpoisoned s ∧ Confirmed s ∧ s.tile.ep < 0x400 ∧ s.pkg < 2 ^ 20 ∧ s.tile.iss.stored = [] ∧ s.tile.ni.nextId ≠ 0 ∧ s.storeBusy = false ∧
  (∀ x, s.tile.unsettled x = false ∧ s.tile.racing s.cycle x = false) ∧ NothingWaits s

/-- Group, barrier and legality of the request flags of sb (R260). -/
def sbGroup (s : State) (y : Word) : BitVec 16 := BitVec.ofNat 16 (if y.getLsbD 55 then (s.rdC 0x013).toNat else y.toNat / 2 ^ 32)
def sbBarrier (y : Word) : Option Nat := if y.getLsbD 57 then some (y.toNat / 2 ^ 58) else none
def sbLegal (y : Word) (any ntf anv : Bool) : Prop :=
  y.toNat / 2 ^ 48 % 32 = 0 ∧ (y.getLsbD 57 = false → y.toNat / 2 ^ 58 = 0) ∧ (any = false → y.getLsbD 56 = false) ∧
  (ntf = false → y.getLsbD 54 = false) ∧ (anv = false → y.getLsbD 53 = false)

/-- One new entry of the interface, which hd names; every byte, register and entry but those listed is as before (R86, R261, R263). -/
def Enters (k : EKind) (d : BitVec 4) (rs : List Reg) (s t : State) (e : Ent) : Prop :=
  t.tile.ni.ents = s.tile.ni.ents ++ [e] ∧ e.id = s.tile.ni.nextId ∧ e.kind = k ∧ t.tile.thr.regs.getH d.toNat = some e.id ∧
  t.tile.ni.nextId = s.tile.ni.nextId + 1 ∧ RegsExcept (.h d.toNat :: rs) s.tile.thr.regs t.tile.thr.regs ∧
  (∀ x, byteAt t x = byteAt s x) ∧ t.tile.anvil = s.tile.anvil ∧ t.tile.thr.pc = s.tile.thr.pc

/-- An entry has completed: DONE, status, lengths and time of its record (R109, R111). -/
def EntDone (s t : State) (id : Nat) (status : BitVec 8) (dlen flen : Nat) : Prop :=
  ∃ f ∈ t.tile.ni.ents, f.id = id ∧ f.phase = .done ∧ f.rcd.status = status ∧ f.rcd.dlen = dlen ∧ f.rcd.flen = flen ∧
    f.rcd.flags.getLsbD 7 = true ∧ f.rcd.tstamp = BitVec.ofNat 32 s.time

/-- A request that ends at once: the entry is made and named, nothing is sent, posted or performed, and in the next cycle it completes with a
status, DLEN 0 and a length of `n`. -/
def EndsNext (status : Nat) (k : EKind) (d : BitVec 4) (n : Nat) (s t : State) : Prop :=
  ∃ e, Enters k d [] s t e ∧ e.phase = .closing ∧ t.torus = s.torus ∧ t.sched = s.sched ∧ (e.id, status, s.cycle + 1) ∈ t.tile.ni.instant ∧
    (s.tile.ni.instant = [] →
      let u := { t with cycle := s.cycle + 1 }
      EntDone u (u.serveInstants s.tile.ep) e.id (BitVec.ofNat 8 status) 0 n)

/-- A request that breaks a limit is DENIED (R261, R367). -/
def Denied (k : EKind) (d : BitVec 4) (n : Nat) (s t : State) : Prop := EndsNext 0x09 k d n s t

/-- One message more is on the torus. -/
def Sends (s t : State) (P : Packet → Prop) : Prop := ∃ u p, t.torus = s.torus ++ [u] ∧ u.ev = .packet p ∧ P p

/-! ### Messages and events -/

/-- A running tile of the package that stands alone, shows its own TILEID and holds no suspended gang. -/
def TileTakes (s : State) : Prop :=
  s.tile.ep < 0x400 ∧ s.pkg < 2 ^ 20 ∧ s.tile.run = .running ∧ s.tile.twin = none ∧ s.tile.hidden = false ∧ s.tile.shadow = none ∧
  (s.tile.ni.ents.map fun x => x.id).Nodup ∧ (∀ j ∈ s.tile.eng.mma, j.until_ ≤ s.cycle) ∧ ∀ j ∈ s.tile.eng.msto, j.until_ ≤ s.cycle

/-- An entry that bumps no barrier, stays after its completion, and is not poisoned. -/
def Plain (e : Ent) : Prop := e.nb = none ∧ e.detached = false ∧ e.id ≠ 0 ∧ e.poison = false ∧ e.relEarly = none

/-- Every other entry is as before. -/
def OthersKept (s t : State) (id : Nat) : Prop := ∀ x ∈ s.tile.ni.ents, x.id ≠ id → x ∈ t.tile.ni.ents

/-- Only the interface of the tile in focus and the messages on the torus have changed. -/
def OnlyNi (s t : State) : Prop := t = { s with tile := { s.tile with ni := t.tile.ni }, torus := t.torus }

/-- The bytes `l` stand from address `a` on, modulo 2^64, where the ranges `rs` of the buffer hold it; all else but the interface and the
torus is as before (R262). -/
def Landed (rs : List (Nat × Nat)) (a : Nat) (l : List Byte) (s t : State) : Prop :=
  (l.length ≤ 2 ^ 64 → ∀ i < l.length, inRanges rs ((a + i) % 2 ^ 64) = true → byteAt t ((a + i) % 2 ^ 64) = l.getD i 0) ∧
  (∀ x, ((∀ i < l.length, x ≠ (a + i) % 2 ^ 64) ∨ inRanges rs x = false) → byteAt t x = byteAt s x) ∧
  t = { s with tile := { s.tile with ni := t.tile.ni, mem := t.tile.mem, poison := t.tile.poison }, torus := t.torus }

/-- A reply of a server is on its way. -/
def Replies (t : State) (P : Reply → Prop) : Prop := ∃ u ∈ t.torus, ∃ r i, u.ev = .sdone r i ∧ P r
def RepliesData (t : State) (P : Reply → Prop) : Prop := ∃ u ∈ t.torus, ∃ r i, u.ev = .sdata r i ∧ P r

/-- A server that is free and holds nothing back for anyone. -/
def ServerIdle (s : State) (k : Nat) : Prop :=
  let v := s.getSrv k
  let b := s.getBase (k / 16)
  k < 192 ∧ s.mgmt.d3hot = false ∧ v.out = false ∧ v.queue = [] ∧ v.walks = [] ∧ v.broken = [] ∧ v.ring = [] ∧ v.pending = [] ∧ v.held = [] ∧ v.resend = [] ∧ v.fences = [] ∧
  v.busy ≤ s.cycle ∧ b.busy = none ∧ b.held = [] ∧ b.frozen = [] ∧ b.badMain = [] ∧ b.badCopy = [] ∧ b.poisoned = [] ∧ b.poisonList = [] ∧
  b.cells = [] ∧ b.xfer = []

/-- A whole shard of one piece that its server has not performed yet. -/
def FreshShard (s : State) (q : Shard) (va n : Nat) : Prop :=
  q.pieces = [⟨0, va, n⟩] ∧ 0 < n ∧ n ≤ 2048 ∧ va < 2 ^ 48 ∧ va % 65536 + n ≤ 65536 ∧ q.damaged = false ∧ q.poisoned = [] ∧ q.notify = none ∧
  q.rereq = none ∧
  ∀ x ∈ (s.getSrv q.srv).log, ¬(x.1 = q.issuer ∧ x.2.1 = q.xid ∧ x.2.2.1 = q.no)

/-- The checks of R400 let the shard of `n` bytes through under the page entry `e`, which the server has cached and which is neither copied
on a write nor read-only; the bytes have been written under the key that its slot holds, or never (R144). -/
def Admitted (s : State) (q : Shard) (va n : Nat) (e : Word) : Prop :=
  let d := Sparse.get noCtx (s.getSrv q.srv).ctx q.actx
  (∀ i < n, s.opens (q.srv / 16) ((e.toNat % 2 ^ 20 * 65536 + va % 65536 + i) / 64) (s.keyOf (e.toNat / 2 ^ 44 % 2 ^ 14)) = true) ∧
  d.valid = true ∧ s.issuerPart q = some d.part ∧ Sparse.get none s.keys (e.toNat / 2 ^ 44 % 2 ^ 14) = some d.part ∧
  e.getLsbD 61 = false ∧ e.getLsbD 62 = false ∧
  (s.getSrv q.srv).tlb.find? (fun t => t.1 == q.actx && t.2.1 == va / 65536) = some (q.actx, va / 65536, e)

/-- A message goes whole from one rank to another. -/
def Says (t : State) (src dest : Rank) (tag : W32) (group : BitVec 16) (l : List Byte) : Prop :=
  ∃ u ∈ t.torus, ∃ p, u.ev = .packet p ∧ p.hdr.kind = 0x01 ∧ p.hdr.src = src ∧ p.hdr.dest = dest ∧ p.hdr.tag = tag ∧ p.hdr.group = group ∧
    p.payload = l

/-- An interface outside the tiles that holds no entry and injects nothing, in a package without group descriptors; a row node has a link to
each of its tiles. -/
def Quiet (s : State) (key : Nat) : Prop :=
  (s.getNi key).ents = [] ∧ s.grpPart = [] ∧ s.pkg < 2 ^ 20 ∧ (key < 0x1000 → s.injecting key = false)

/-- A message waits in an interface for its turn to leave. -/
def WillSay (t : State) (key : Nat) (dest : Rank) (tag : W32) (group : BitVec 16) (l : List Byte) : Prop :=
  ∃ e ∈ (t.getNi key).ents, e.kind = .send ∧ e.phase = .queued ∧ e.pairWait = false ∧ e.retryAt = none ∧ e.rank = dest ∧ e.tag = tag ∧
    e.group = group ∧ e.buf = .bytes l ∧ e.len = l.length

/-- The tile in focus has nothing in flight, no engine at work, no speculative path, and an interface that neither injects a packet nor takes
an eager message in (R49, steps 2 and 3). -/
def AtRest (s : State) : Prop :=
  s.tile.spec = none ∧ (∀ x ∈ s.tile.thr.land, x.ready ≤ s.cycle) ∧ s.tile.eng.matrix ≤ s.cycle ∧ s.tile.eng.store ≤ s.cycle ∧
  s.tile.ni.half = false ∧ ∀ x ∈ s.torus, x.src = s.tile.ep → x.size ≤ x.injected

/-- A tile of the package that takes part. -/
def Reachable (s : State) (r : Rank) : Prop := s.ownPkg r = true ∧ rankEp r < 0x400 ∧ rankEp r ∉ s.mgmt.harvest

/-- The event message of R42 to a launch's launcher: launch number (0 for a rejected record), event, reason, tile and time. -/
def Event (s t : State) (l : Launch) (n ev reason tile : Nat) : Prop :=
  Says t (s.rankOf 0x4C0) l.launcher l.tag l.group
    (toLE 4 n ++ toLE 1 ev ++ toLE 1 reason ++ toLE 2 0 ++ toLE 4 tile ++ toLE 4 0 ++ toLE 8 s.time ++ toLE 8 0)

/-- The one launch of the package, on the tile in focus alone, its launcher within reach. -/
def OneTileLaunch (s : State) (l : Launch) : Prop :=
  s.launches = [l] ∧ l.n ≠ 0 ∧ l.tiles = [s.tile.ep] ∧ l.lrec.flags.getLsbD 2 = false ∧ s.tile.ep < 0x400 ∧ s.halo = [] ∧ s.parts = [] ∧
  s.disp.logged = [] ∧ Quiet s 0x4C0 ∧ Reachable s l.launcher

/-- Only what the management controller and BAR 2 hold has changed. -/
def OnlyMgmt (s t : State) : Prop := t = { s with mgmt := t.mgmt }

end Sys2Proof.Safety
end

