-- ==== Sys2Proof/Certificates/Slice0/Obligations.lean ====
section
/-!
DEFINITION. The statements for the provers. Each says of every state what an instruction, a step or the decoder does; `s` is the state
before and `t` the state after. The operands of a slot are written as the slot takes them: `s.opS n r` is the scalar operand at place
`n` of the assembly form, which a replay takes from its capture (R335, R337).
-/

open Sys2Proof Sys2Proof.Machine Sys2Proof.Safety

/-! ### The I slot (R210 to R218) -/

/-- R210: the twenty-two integer operations, each with its word, its value, its latency bound and its frame; higher function values are
reserved. A result carries a right residue when the operands do (R343). -/
def Obligations.IntegerArithmetic : Prop :=
  (∀ (d a b : BitVec 5) (s : State), Unpoisoned s → s.clash (.s d.toNat) = false →
    let x := (s.opS 0 a).val
    let y := (s.opS 1 b).val
    let n := y.toNat % 64
    ∀ e ∈ ([(.add d a b, 0x000, 1, BitVec.ofNat 64 (x.toNat + y.toNat)), (.sub d a b, 0x001, 1, BitVec.ofInt 64 (x.toInt - y.toInt)),
        (.and d a b, 0x002, 1, x &&& y), (.or d a b, 0x003, 1, x ||| y), (.xor d a b, 0x004, 1, x ^^^ y), (.andn d a b, 0x015, 1, x &&& ~~~y),
        (.shl d a b, 0x005, 1, BitVec.ofNat 64 (x.toNat * 2 ^ n)), (.shr d a b, 0x006, 1, BitVec.ofNat 64 (x.toNat / 2 ^ n)),
        (.sra d a b, 0x007, 1, BitVec.ofInt 64 (x.toInt / 2 ^ n)),
        (.min d a b, 0x008, 1, BitVec.ofInt 64 (min x.toInt y.toInt)), (.max d a b, 0x009, 1, BitVec.ofInt 64 (max x.toInt y.toInt)),
        (.minz d a b, 0x00A, 1, BitVec.ofNat 64 (min x.toNat y.toNat)), (.maxz d a b, 0x00B, 1, BitVec.ofNat 64 (max x.toNat y.toNat)),
        (.mul d a b, 0x00C, 3, BitVec.ofNat 64 (x.toNat * y.toNat)),
        (.mulh d a b, 0x00D, 3, (x.signExtend 128 * y.signExtend 128).extractLsb' 64 64),
        (.mulhz d a b, 0x00E, 3, (x.zeroExtend 128 * y.zeroExtend 128).extractLsb' 64 64),
        (.div d a b, 0x00F, 24, if y = 0 then BitVec.ofInt 64 (-1) else BitVec.ofInt 64 (x.toInt.tdiv y.toInt)),
        (.divz d a b, 0x010, 24, if y = 0 then BitVec.ofInt 64 (-1) else BitVec.ofNat 64 (x.toNat / y.toNat)),
        (.rem d a b, 0x011, 24, if y = 0 then x else BitVec.ofInt 64 (x.toInt.tmod y.toInt)),
        (.remz d a b, 0x012, 24, if y = 0 then x else BitVec.ofNat 64 (x.toNat % y.toNat)),
        (.clz d a, 0x013, 1, BitVec.ofNat 64 (if x = 0 then 64 else 63 - x.toNat.log2)),
        (.popc d a, 0x014, 1, BitVec.ofNat 64 ((List.range 64).countP fun i => x.getLsbD i))] : List (Instr × Nat × Nat × Word)),
      encode e.1 = some (0x01#6 ++ d ++ a ++ (if 0x013 ≤ e.2.1 ∧ e.2.1 ≤ 0x014 then 0 else b) ++ BitVec.ofNat 11 e.2.1) ∧
      Gives e.1 s fun t => ToS s t d e.2.2.2 e.2.2.1 0 ∧
        (d ≠ 0 → (s.opS 0 a).ok = true → (s.opS 1 b).ok = true → (t.tile.thr.regs.getS d.toNat).ok = true)) ∧
  ∀ (w : W32) (k : Nat), k ∈ [1, 2] → w.toNat / 2 ^ 26 = 0x01 → 0x016 ≤ w.toNat % 2 ^ 11 → decodeSlot k w = .error 1

/-- R211: the immediate forms, each with its word; MOVHI reads its destination. The fourth shift kind is reserved, and fields that name nothing
are zero. -/
def Obligations.IntegerImmediates : Prop :=
  (∀ (d a : BitVec 5) (i : BitVec 16) (n : BitVec 6) (q : BitVec 2) (s : State), Unpoisoned s → s.clash (.s d.toNat) = false →
    let x := (s.opS 0 a).val
    (∀ e ∈ ([(.addi d a i, 0x02#6 ++ d ++ a ++ i, BitVec.ofInt 64 (x.toInt + i.toInt)), (.andi d a i, 0x03#6 ++ d ++ a ++ i, x &&& BitVec.ofNat 64 i.toNat),
        (.ori d a i, 0x04#6 ++ d ++ a ++ i, x ||| BitVec.ofNat 64 i.toNat), (.xori d a i, 0x05#6 ++ d ++ a ++ i, x ^^^ BitVec.ofNat 64 i.toNat),
        (.shli d a n, 0x06#6 ++ d ++ a ++ 0#2 ++ 0#8 ++ n, BitVec.ofNat 64 (x.toNat * 2 ^ n.toNat)),
        (.shri d a n, 0x06#6 ++ d ++ a ++ 1#2 ++ 0#8 ++ n, BitVec.ofNat 64 (x.toNat / 2 ^ n.toNat)),
        (.srai d a n, 0x06#6 ++ d ++ a ++ 2#2 ++ 0#8 ++ n, BitVec.ofInt 64 (x.toInt / 2 ^ n.toNat)),
        (.movi d i, 0x07#6 ++ d ++ 0#5 ++ i, BitVec.ofInt 64 i.toInt)] : List (Instr × W32 × Word)),
      encode e.1 = some e.2.1 ∧ Gives e.1 s fun t => ToS s t d e.2.2 1 0) ∧
    encode (.movhi d q i) = some (0x08#6 ++ d ++ 0#3 ++ q ++ i) ∧
    Gives (.movhi d q i) s fun t => ∃ v : Word, ToS s t d v 1 0 ∧ ∀ j < 64, v.getLsbD j =
      if 16 * q.toNat ≤ j ∧ j < 16 * q.toNat + 16 then i.getLsbD (j - 16 * q.toNat) else (s.opS 0 d).val.getLsbD j) ∧
  ∀ (w : W32) (k : Nat), k ∈ [1, 2] → (w.toNat / 2 ^ 26 = 0x06 → w.toNat / 2 ^ 14 % 4 = 3 → decodeSlot k w = .error 1) ∧
    (w.toNat / 2 ^ 26 = 0x06 → w.toNat / 2 ^ 14 % 4 ≠ 3 → w.toNat / 2 ^ 6 % 2 ^ 8 ≠ 0 → decodeSlot k w = .error 2) ∧
    (w.toNat / 2 ^ 26 = 0x07 → w.toNat / 2 ^ 16 % 2 ^ 5 ≠ 0 → decodeSlot k w = .error 2) ∧
    (w.toNat / 2 ^ 26 = 0x08 → w.toNat / 2 ^ 18 % 2 ^ 3 ≠ 0 → decodeSlot k w = .error 2)

/-- R212: CMP, CMPI and SEL, each with its word, for the six conditions; codes 6 and 7 are reserved, and fields that name nothing are zero. A
write to p0 is discarded. -/
def Obligations.ComparisonsAndSelection : Prop :=
  (∀ (d a b : BitVec 5) (k c : BitVec 3) (i : BitVec 13) (s : State), Unpoisoned s → s.clash (.s d.toNat) = false → s.clash (.p k.toNat) = false →
    let x := (s.opS 0 a).val
    let y := (s.opS 1 b).val
    let cond (z : Int) (w : Nat) : Bool :=
      (c = 0 ∧ x.toInt = z) ∨ (c = 1 ∧ x.toInt ≠ z) ∨ (c = 2 ∧ x.toInt < z) ∨ (c = 3 ∧ z ≤ x.toInt) ∨ (c = 4 ∧ x.toNat < w) ∨
        (c = 5 ∧ w ≤ x.toNat)
    encode (.cmp k a b c) = some (0x09#6 ++ k ++ 0#2 ++ a ++ b ++ 0#8 ++ c) ∧ encode (.cmpi k a c i) = some (0x0A#6 ++ k ++ 0#2 ++ a ++ c ++ i) ∧
    encode (.sel d a b k) = some (0x0B#6 ++ d ++ a ++ b ++ 0#8 ++ k) ∧
    (c.toNat ≤ 5 → (Gives (.cmp k a b c) s fun t => ToP s t k (cond y.toInt y.toNat) 1) ∧
      (Gives (.cmpi k a c i) s fun t => ToP s t k (cond i.toInt i.toNat) 1)) ∧
    (Gives (.sel d a b k) s fun t => ToS s t d (if s.rdP k then x else y) 1 0 ∧ (d ≠ 0 → (t.tile.thr.regs.getS d.toNat).ok = true))) ∧
  ∀ (w : W32) (n : Nat), n ∈ [1, 2] →
    (w.toNat / 2 ^ 26 = 0x09 → 6 ≤ w.toNat % 8 → decodeSlot n w = .error 1) ∧
    (w.toNat / 2 ^ 26 = 0x0A → 6 ≤ w.toNat / 2 ^ 13 % 8 → decodeSlot n w = .error 1) ∧
    (w.toNat / 2 ^ 26 = 0x09 → w.toNat % 8 < 6 → w.toNat / 2 ^ 3 % 2 ^ 8 ≠ 0 ∨ w.toNat / 2 ^ 21 % 4 ≠ 0 → decodeSlot n w = .error 2) ∧
    (w.toNat / 2 ^ 26 = 0x0A → w.toNat / 2 ^ 13 % 8 < 6 → w.toNat / 2 ^ 21 % 4 ≠ 0 → decodeSlot n w = .error 2) ∧
    (w.toNat / 2 ^ 26 = 0x0B → w.toNat / 2 ^ 3 % 2 ^ 8 ≠ 0 → decodeSlot n w = .error 2)

/-- R213, R214: the bit-field and predicate operations, each with its word; fields that name nothing are zero. A write to p0 is discarded
(R172). -/
def Obligations.BitFieldsAndPredicates : Prop :=
  (∀ (d a : BitVec 5) (k i j : BitVec 3) (p l : BitVec 6) (s : State), Unpoisoned s → s.clash (.s d.toNat) = false → s.clash (.p k.toNat) = false →
    let x := (s.opS 0 a).val
    let len := l.toNat + 1
    let width := min len (64 - p.toNat)
    let u := s.rdP i
    let v := s.rdP j
    encode (.bfx d a p l) = some (0x0C#6 ++ d ++ a ++ 0#3 ++ 0#1 ++ p ++ l) ∧ encode (.bfxs d a p l) = some (0x0C#6 ++ d ++ a ++ 0#3 ++ 1#1 ++ p ++ l) ∧
    encode (.bfi d a p l) = some (0x0D#6 ++ d ++ a ++ 0#3 ++ 0#1 ++ p ++ l) ∧
    (Gives (.bfx d a p l) s fun t => ToS s t d (BitVec.ofNat 64 (x.toNat / 2 ^ p.toNat % 2 ^ len)) 1 0) ∧
    (Gives (.bfxs d a p l) s fun t => ToS s t d (BitVec.ofInt 64 (((x.toNat / 2 ^ p.toNat : Nat) : Int).bmod (2 ^ len))) 1 0) ∧
    (Gives (.bfi d a p l) s fun t => ∃ z : Word, ToS s t d z 1 0 ∧ ∀ m < 64, z.getLsbD m =
      if p.toNat ≤ m ∧ m < p.toNat + width then (s.opS 1 a).val.getLsbD (m - p.toNat) else (s.opS 0 d).val.getLsbD m) ∧
    ∀ e ∈ ([(.pand k i j, 0, u && v), (.por k i j, 1, u || v), (.pxor k i j, 2, u ^^ v), (.pandn k i j, 3, u && !v)] : List (Instr × Nat × Bool)),
      encode e.1 = some (0x0E#6 ++ k ++ 0#4 ++ i ++ 0#2 ++ j ++ 0#9 ++ BitVec.ofNat 2 e.2.1) ∧ Gives e.1 s fun t => ToP s t k e.2.2 1) ∧
  ∀ (w : W32) (n : Nat), n ∈ [1, 2] →
    (w.toNat / 2 ^ 26 = 0x0C → w.toNat / 2 ^ 13 % 8 ≠ 0 → decodeSlot n w = .error 2) ∧
    (w.toNat / 2 ^ 26 = 0x0D → w.toNat / 2 ^ 12 % 16 ≠ 0 → decodeSlot n w = .error 2) ∧
    (w.toNat / 2 ^ 26 = 0x0E → w.toNat / 2 ^ 19 % 16 ≠ 0 ∨ w.toNat / 2 ^ 14 % 4 ≠ 0 ∨ w.toNat / 2 ^ 2 % 2 ^ 9 ≠ 0 → decodeSlot n w = .error 2)

/-- R74, R185, R215 to R218: scalar floating point writes one f register, scalar or predicate and sends its flags along; moves copy bits and
raise none. The arithmetic is that of `fpAdd` to `fpSqrt`, of which FloatingPointCorners speaks. -/
def Obligations.ScalarFloatingPoint : Prop :=
  ∀ (d a b c : BitVec 4) (r : BitVec 5) (k e : BitVec 3) (i : BitVec 16) (s : State), Unpoisoned s →
    s.clash (.f d.toNat) = false → s.clash (.s r.toNat) = false → s.clash (.p k.toNat) = false →
    let x := s.opF 0 a
    let y := s.opF 1 b
    let z := s.opF 2 c
    let w := (s.opS 0 r).val
    let v := s.opF 0 a
    (∀ e ∈ ([(.fadd d a b, 4, fpAdd s.rm x y), (.fsub d a b, 4, fpSub s.rm x y), (.fmul d a b, 4, fpMul s.rm x y),
        (.fdiv d a b, 16, fpDiv s.rm x y), (.fsqrt d a, 16, fpSqrt s.rm x), (.ffma d a b c, 4, fpFma s.rm (f32 x) (f32 y) (f32 z)),
        (.fmin d a b, 4, (fpMin x y, 0)), (.fmax d a b, 4, (fpMax x y, 0)), (.fabs d a, 4, (fpAbs x, 0)), (.fneg d a, 4, (fpNeg x, 0)),
        (.fcvtI2f d r, 4, intToFp s.rm w.toInt), (.fcvtIz2f d r, 4, intToFp s.rm w.toNat),
        (.fcvtBf2f d r, 4, (widen .bf16 (w.toNat % 65536), 0)), (.fcvtH2f d r, 4, (widen .f16 (w.toNat % 65536), 0)),
        (.movfs d r, 4, (BitVec.ofNat 32 w.toNat, 0)), (.fmovi d i, 1, (BitVec.ofNat 32 (i.toNat * 65536), 0))] :
        List (Instr × Nat × W32 × BitVec 6)),
      Gives e.1 s fun t => ToF s t d e.2.2.1 e.2.1 e.2.2.2) ∧
    (∀ e ∈ ([(.fcvtF2i r a, (fpToInt s.rm (-2 ^ 63) (2 ^ 63 - 1) (f32 v)).1, (fpToInt s.rm (-2 ^ 63) (2 ^ 63 - 1) (f32 v)).2),
        (.fcvtF2iz r a, (fpToInt s.rm 0 (2 ^ 64 - 1) (f32 v)).1, (fpToInt s.rm 0 (2 ^ 64 - 1) (f32 v)).2),
        (.fcvtF2bf r a, ((narrow .bf16 s.rm false (f32 v)).1 : Int), (narrow .bf16 s.rm false (f32 v)).2),
        (.fcvtF2h r a, ((narrow .f16 s.rm false (f32 v)).1 : Int), (narrow .f16 s.rm false (f32 v)).2),
        (.movsf r a, (v.toNat : Int), 0)] : List (Instr × Int × BitVec 6)),
      Gives e.1 s fun t => ToS s t r (BitVec.ofInt 64 e.2.1) 4 e.2.2) ∧
    Gives (.fcmp k a b e) s fun t => ToP s t k (fpCmp e.toNat x y) 4

/-- R62, R73, R75, R215, R217, R233: the arithmetic on finite operands, for every rounding mode. Sum, difference, product, quotient, square root,
fused product and sum, reciprocal and reciprocal root, the narrowing conversions and those from integers give the exact number rounded once,
with its flags; an exact zero has the sign that IEEE 754 gives; widening and decoding are exact; conversion to an integer clamps with NV.
R233: `VEXP2` of an integer and `VLOG2` of a power of two are exact; `VEXP2`, `VLOG2`, `VTANH` and `VSIGM` have their special results, and the
correctly rounded ones at six arguments each (log 20 says of the others what the model rests on). R63, R64, R215, R216: the corners. NaN operands
give the canonical NaN without a flag; a NaN made from other operands raises NV; a finite value divided by zero raises DZ; an exact zero sum has
the sign of its rounding mode. -/
def Obligations.FloatingPointCorners : Prop :=
  (∀ (rm : Nat) (sat : Bool) (x y z : W32), rm < 4 → FiniteFp x → FiniteFp y → FiniteFp z →
    let a := fpReal x
    let b := fpReal y
    let c := fpReal z
    let neg (z : W32) : Bool := z.getLsbD 31
    let zero (n : Bool) : W32 × BitVec 6 := (if n then 0x80000000 else 0, 0)
    let sum (p q : Bool) : W32 × BitVec 6 := zero (if p = q then p else decide (rm = 2))
    (if a + b = 0 then fpAdd rm x y = sum (neg x) (neg y) else RoundsFp rm (a + b) (fpAdd rm x y)) ∧
    (if a - b = 0 then fpSub rm x y = sum (neg x) (!neg y) else RoundsFp rm (a - b) (fpSub rm x y)) ∧
    (if a * b = 0 then fpMul rm x y = zero (neg x != neg y) else RoundsFp rm (a * b) (fpMul rm x y)) ∧
    (b ≠ 0 → if a = 0 then fpDiv rm x y = zero (neg x != neg y) else RoundsFp rm (a / b) (fpDiv rm x y)) ∧
    (if a * b + c = 0 then fpFma rm (f32 x) (f32 y) (f32 z) = sum (neg x != neg y) (neg z)
     else RoundsFp rm (a * b + c) (fpFma rm (f32 x) (f32 y) (f32 z))) ∧
    (a ≠ 0 → RoundsFp rm (1 / a) (fpRcp rm x)) ∧
    (0 < a → RoundsFp rm (Real.sqrt a) (fpSqrt rm x) ∧ RoundsFp rm (1 / Real.sqrt a) (fpRsq rm x)) ∧
    (∀ f ∈ [Fmt.bf16, .f16, .e5m2, .e4m3], let r := narrow f rm sat (f32 x)
      if a = 0 then r = (if neg x then 2 ^ (f.eb + f.mb) else 0, 0) else RoundsTo f rm (sat && decide (f.eb + f.mb = 7)) a r) ∧
    (∀ n : ℤ, n ≠ 0 → RoundsFp rm n (intToFp rm n)) ∧ intToFp rm 0 = (0, 0) ∧
    (∀ lo hi : ℤ, lo ≤ hi → ∃ n : ℤ, RoundsIn (fun r => ∃ k : ℤ, r = k) (fun r => ∃ k : ℤ, r = 2 * k) rm a n ∧ fpToInt rm lo hi (f32 x) =
      if n < lo then (lo, 0x10) else if hi < n then (hi, 0x10) else (n, if (n : ℝ) = a then 0 else 0x01)) ∧
    (∀ n : ℤ, a = n → RoundsFp rm ((2 : ℝ) ^ n) (fpExp2 rm x)) ∧
    (∀ n : ℤ, a = (2 : ℝ) ^ n → if n = 0 then fpLog2 rm x = (0, 0) else RoundsFp rm n (fpLog2 rm x)) ∧
    (a = 0 → fpRcp rm x = (if neg x then 0xFF800000 else 0x7F800000, 0x08) ∧ fpRsq rm x = (if neg x then 0xFF800000 else 0x7F800000, 0x08) ∧
      fpLog2 rm x = (0xFF800000, 0x08) ∧ fpTanh rm x = (x, 0) ∧ fpSigm rm x = (0x3F000000, 0)) ∧
    (a < 0 → fpRsq rm x = (0x7FC00000, 0x10) ∧ fpLog2 rm x = (0x7FC00000, 0x10))) ∧
  (∀ f ∈ [Fmt.f32, .bf16, .f16, .e5m2, .e4m3], ∀ c < 2 ^ (1 + f.eb + f.mb),
    let m := c % 2 ^ (f.eb + f.mb)
    let n := decide (2 ^ (f.eb + f.mb) ≤ c)
    (m ≤ f.maxCode → (∃ k, f.decode c = .fin n k) ∧ valReal (f.decode c) = codeReal f c ∧ fpReal (widen f c) = codeReal f c ∧
      (widen f c).getLsbD 31 = n) ∧
    (m = f.maxCode + 1 → f ≠ .e4m3 → f.decode c = .inf n ∧ widen f c = if n then 0xFF800000 else 0x7F800000) ∧
    (f.maxCode + 1 < m ∨ (f = .e4m3 ∧ m = 0x7F) → f.decode c = .nan ∧ widen f c = 0x7FC00000)) ∧
  (∀ rm < 4, ∀ n : Bool, ∀ sat : Bool, let i : W32 := if n then 0xFF800000 else 0x7F800000
    fpRcp rm i = (if n then 0x80000000 else 0, 0) ∧ fpRsq rm i = (if n then (0x7FC00000, 0x10) else (0, 0)) ∧
    fpExp2 rm i = (if n then 0 else 0x7F800000, 0) ∧ fpLog2 rm i = (if n then (0x7FC00000, 0x10) else (0x7F800000, 0)) ∧
    fpTanh rm i = (if n then 0xBF800000 else 0x3F800000, 0) ∧ fpSigm rm i = (if n then 0 else 0x3F800000, 0) ∧
    (∀ lo hi : ℤ, fpToInt rm lo hi (f32 i) = (if n then lo else hi, 0x10)) ∧
    narrow .bf16 rm sat (f32 i) = (if n then 0xFF80 else 0x7F80, 0) ∧ narrow .f16 rm sat (f32 i) = (if n then 0xFC00 else 0x7C00, 0) ∧
    narrow .e5m2 rm sat (f32 i) = (if sat then (if n then 0xFB else 0x7B, 0x20) else (if n then 0xFC else 0x7C, 0)) ∧
    narrow .e4m3 rm sat (f32 i) = (if sat then (if n then 0xFE else 0x7E, 0x20) else (0x7F, 0x10))) ∧
  (∀ rm < 4, ∀ x : W32, (f32 x).isNan = true →
    (∀ r ∈ [fpRcp rm x, fpRsq rm x, fpExp2 rm x, fpLog2 rm x, fpTanh rm x, fpSigm rm x], r = (0x7FC00000, 0)) ∧
    (∀ lo hi : ℤ, fpToInt rm lo hi (f32 x) = (0, 0x10)) ∧ ∀ sat : Bool, narrow .bf16 rm sat (f32 x) = (0x7FC0, 0) ∧
      narrow .f16 rm sat (f32 x) = (0x7E00, 0) ∧ narrow .e5m2 rm sat (f32 x) = (0x7E, 0) ∧ narrow .e4m3 rm sat (f32 x) = (0x7F, 0)) ∧
  (∀ e ∈ ([(fpExp2, [(0x3F000000, 0x3FB504F3, 0x3FB504F3, 0x3FB504F4, 1), (0xBF000000, 0x3F3504F3, 0x3F3504F3, 0x3F3504F4, 1),
        (0x3EAAAAAB, 0x3FA14518, 0x3FA14517, 0x3FA14518, 1), (0xC2FD0001, 0x005A825A, 0x005A825A, 0x005A825B, 3),
        (0x42C80001, 0x7180002C, 0x7180002C, 0x7180002D, 1), (0x00000001, 0x3F800000, 0x3F800000, 0x3F800001, 1)]),
      (fpLog2, [(0x40400000, 0x3FCAE00D, 0x3FCAE00D, 0x3FCAE00E, 1), (0x3F7FFFFF, 0xB3B8AA3C, 0xB3B8AA3C, 0xB3B8AA3B, 1),
        (0x3F800001, 0x3438AA3A, 0x3438AA3A, 0x3438AA3B, 1), (0x00000003, 0xC3136A40, 0xC3136A40, 0xC3136A3F, 1),
        (0x7F7FFFFF, 0x43000000, 0x42FFFFFF, 0x43000000, 1), (0x3F3504F3, 0xBF000000, 0xBF000001, 0xBF000000, 1)]),
      (fpTanh, [(0x3F800000, 0x3F42F7D6, 0x3F42F7D5, 0x3F42F7D6, 1), (0xBF000000, 0xBEEC9A9F, 0xBEEC9A9F, 0xBEEC9A9E, 1),
        (0x00000001, 0x00000001, 0x00000000, 0x00000001, 3), (0x39800000, 0x39800000, 0x397FFFFF, 0x39800000, 1),
        (0x41100000, 0x3F7FFFFF, 0x3F7FFFFF, 0x3F800000, 1), (0xC1200000, 0xBF800000, 0xBF800000, 0xBF7FFFFF, 1)]),
      (fpSigm, [(0x3F800000, 0x3F3B26A8, 0x3F3B26A7, 0x3F3B26A8, 1), (0xBF800000, 0x3E89B2B1, 0x3E89B2B0, 0x3E89B2B1, 1),
        (0x00000001, 0x3F000000, 0x3F000000, 0x3F000001, 1), (0xC2AE0000, 0x00B33687, 0x00B33686, 0x00B33687, 1),
        (0x41800000, 0x3F7FFFFE, 0x3F7FFFFE, 0x3F7FFFFF, 1), (0x3C23D70A, 0x3F00A3D7, 0x3F00A3D6, 0x3F00A3D7, 1)])] :
      List ((Nat → W32 → W32 × BitVec 6) × List (W32 × W32 × W32 × W32 × BitVec 6))),
    ∀ v ∈ e.2, e.1 0 v.1 = (v.2.1, v.2.2.2.2) ∧ e.1 2 v.1 = (v.2.2.1, v.2.2.2.2) ∧ e.1 3 v.1 = (v.2.2.2.1, v.2.2.2.2)) ∧
  ∀ (rm : Nat) (x y : W32), rm < 4 →
    let nan (z : W32) : Prop := z.toNat / 2 ^ 23 % 256 = 255 ∧ z.toNat % 2 ^ 23 ≠ 0
    let inf (z : W32) : Prop := z.toNat % 2 ^ 31 = 0x7F800000
    let zero (z : W32) : Prop := z.toNat % 2 ^ 31 = 0
    let neg (z : W32) : Bool := z.getLsbD 31
    (nan x ∨ nan y →
      (∀ r ∈ [fpAdd rm x y, fpSub rm x y, fpMul rm x y, fpDiv rm x y], r = (0x7FC00000, 0)) ∧ fpMin x y = 0x7FC00000 ∧
      fpMax x y = 0x7FC00000 ∧ (∀ e ∈ [0, 2, 3], fpCmp e x y = false) ∧ ∀ e ∈ [1, 4], fpCmp e x y = true) ∧
    (nan x → fpSqrt rm x = (0x7FC00000, 0) ∧ fpAbs x = 0x7FC00000 ∧ fpNeg x = 0x7FC00000) ∧
    (¬nan x → fpAbs x = x &&& 0x7FFFFFFF ∧ fpNeg x = x ^^^ 0x80000000) ∧
    (inf x → inf y → fpDiv rm x y = (0x7FC00000, 0x10) ∧ (neg x ≠ neg y → fpAdd rm x y = (0x7FC00000, 0x10)) ∧
      (neg x = neg y → fpSub rm x y = (0x7FC00000, 0x10) ∧ fpAdd rm x y = (x, 0))) ∧
    (zero x → inf y → fpMul rm x y = (0x7FC00000, 0x10) ∧ fpMul rm y x = (0x7FC00000, 0x10)) ∧
    (zero x → zero y → fpDiv rm x y = (0x7FC00000, 0x10) ∧ fpCmp 0 x y = true) ∧
    (¬nan x → ¬inf x → ¬zero x →
      (zero y → fpDiv rm x y = (if neg x = neg y then 0x7F800000 else 0xFF800000, 0x08)) ∧
      fpAdd rm x (x ^^^ 0x80000000) = (if rm = 2 then 0x80000000 else 0, 0)) ∧
    (zero x → fpSqrt rm x = (x, 0)) ∧ (¬nan x → ¬zero x → neg x = true → fpSqrt rm x = (0x7FC00000, 0x10))

/-! ### The C slot (R193 to R209) -/

/-- R193 to R195, R197: the transfers. NOP does nothing; BR and JMPR write the program counter alone; CALL and CALLR also write the address of
the bundle's successor, with a zero residue, to s31. A register that supplies an address must carry its residue (R194). -/
def Obligations.TransfersWritePcAndLink : Prop :=
  ∀ (g : BitVec 16) (a : BitVec 5) (s : State), Unpoisoned s →
    let dest := 4 * ((s.opS 0 a).val.toNat / 4 % 65536)
    let linked (t : State) : Prop :=
      t.tile.thr.regs.getS 31 = SVal.of (BitVec.ofNat 64 s.tile.iss.succ) ∧ Lands s t (.s 31) 1 0
    exec .nop s = .next s ∧
    (Gives (.br g) s fun t => Jumps (4 * g.toNat) [] s t) ∧
    (s.clash (.s 31) = false → Gives (.call g) s fun t => Jumps (4 * g.toNat) [.s 31] s t ∧ linked t) ∧
    ((s.opS 0 a).ok = true → Gives (.jmpr a) s fun t => Jumps dest [] s t) ∧
    ((s.opS 0 a).ok = true → s.clash (.s 31) = false → Gives (.callr a) s fun t => Jumps dest [.s 31] s t ∧ linked t)

/-- R187, R189, R195: BRP. When its predicate has landed it transfers when pk xor NEG, and else changes nothing; when not, S = 0 stalls the
bundle, and S = 1 on a confirmed path begins a speculative path on the side that HINT names and keeps the thread for a squash. -/
def Obligations.BranchOnPredicate : Prop :=
  ∀ (sp n h : BitVec 1) (k : BitVec 3) (g : BitVec 16) (s : State), Unpoisoned s →
    let flying := k ≠ 0 ∧ s.flying (.p k.toNat) = true
    let taken := s.source.regs.getP k.toNat ≠ decide (n = 1)
    (¬flying → taken → Gives (.brp sp n h k g) s fun t => Jumps (4 * g.toNat) [] s t) ∧
    (¬flying → ¬taken → exec (.brp sp n h k g) s = .next s) ∧
    (flying → sp = 0 → exec (.brp sp n h k g) s = .next (s.stallOn .pred)) ∧
    (flying → sp = 1 → s.tile.iss.entering = false → s.tile.spec = none → Gives (.brp sp n h k g) s fun t =>
      ∃ p, t.tile.spec = some p ∧ p.guess = decide (h = 1) ∧ p.truth = decide taken ∧ p.saved = { s.tile.thr with replay := none } ∧ p.stores = [] ∧
        p.target = 4 * g.toNat ∧ t.tile.thr.pc = (if h = 1 then 4 * g.toNat else s.tile.thr.pc) ∧
        RegsExcept [] s.tile.thr.regs t.tile.thr.regs ∧ (∀ x, byteAt t x = byteAt s x))

/-- R197: LOOP and LOOPI with a count enter the counter, which becomes the most recently entered; with count 0 LOOP makes it inactive and
transfers to the successor of the body's last bundle. No general register changes. A counter entered with count n sends the thread back to
LSTART exactly n − 1 times: after the n-th issue of its last bundle it falls through and is no longer active. -/
def Obligations.HardwareLoops : Prop :=
  (∀ (k : BitVec 2) (a : BitVec 5) (n : BitVec 8) (g : BitVec 16) (s : State), Unpoisoned s →
     let count := (s.opS 0 a).val.toNat % 2 ^ 32
     let entered (m : Nat) (t : State) : Prop :=
       t.tile.thr.regs.getLC k.toNat = ⟨BitVec.ofNat 32 m, s.tile.iss.succ, 4 * g.toNat, true⟩ ∧ t.tile.thr.order.head? = some k.toNat ∧
       (∀ j, j ≠ k.toNat → t.tile.thr.regs.getLC j = s.tile.thr.regs.getLC j) ∧ t.tile.thr.pc = s.tile.thr.pc ∧
       t.tile.iss.jump = s.tile.iss.jump ∧ (∀ j, t.tile.thr.regs.getS j = s.tile.thr.regs.getS j) ∧ ∀ x, byteAt t x = byteAt s x
     (count ≠ 0 → Gives (.loop k a g) s (entered count)) ∧
     (Gives (.loopi k n g) s (entered (n.toNat + 1))) ∧
     (count = 0 → Gives (.loop k a g) s fun t =>
       (t.tile.thr.regs.getLC k.toNat).active = false ∧ t.tile.thr.pc = (s.tile.bundleAt (4 * g.toNat)).succ ∧
       t.tile.iss.jump = some t.tile.thr.pc ∧ (∀ j, j ≠ k.toNat → t.tile.thr.regs.getLC j = s.tile.thr.regs.getLC j) ∧
       (∀ j, t.tile.thr.regs.getS j = s.tile.thr.regs.getS j) ∧ ∀ x, byteAt t x = byteAt s x)) ∧
  (∀ (n : W32) (a succ start k : Nat) (r : Regs), n ≠ 0 → r.getLC k = ⟨n, start, a, true⟩ →
     let pass (x : Regs) : Regs := (loopAct a succ [k] x).1
     (∀ i < n.toNat, (loopAct a succ [k] (pass^[i] r)).2 = if i + 1 < n.toNat then start else succ) ∧
     ((pass^[n.toNat] r).getLC k).active = false ∧ (∀ j, j ≠ k → (pass^[n.toNat] r).getLC j = r.getLC j))

/-- R331 to R336: taking a trap outside handler mode with a handler: TCAUSE, TINFO, TPC, TMASK and TOPD0 to TOPD2 say what happened and where,
handler mode is entered, the next bundle is the handler's, and it issues only after everything in flight has landed. Every other register
and all of memory stay. R322, R341, R347: a trap in handler mode, without a handler, or that meets an error in its own capture parks a tile
that stands alone: it runs no more, and every register, accumulator, exact accumulator, belief block, signature, handle and loop counter is
zero. -/
def Obligations.TakingATrap : Prop :=
  (∀ (s : State) (cause slot : Nat) (late multi : Bool) (tinfo : Word) (caps : List Capture) (mask rf addr next : Nat),
     s.hm = false → (s.cr 0x023).toNat % 2 ^ 18 ≠ 0 → (caps = [] ∨ Poison.capture ∉ s.tile.poison) → cause < 256 → slot < 8 → addr < 2 ^ 18 → next < 2 ^ 18 → mask < 256 → rf < 256 →
     let t := s.enterTrap cause slot late multi tinfo caps mask rf addr next
     let top (n : Nat) : Word := match caps with | c :: _ => (c.ops.getD n SVal.zero).val | [] => 0
     t.hm = true ∧ (t.cr 0x020).toNat % 256 = cause ∧ (t.cr 0x020).toNat / 2 ^ 8 % 8 = slot ∧ (t.cr 0x020).getLsbD 11 = multi ∧
     (t.cr 0x020).getLsbD 12 = late ∧ t.cr 0x028 = tinfo ∧ (t.cr 0x021).toNat = addr + next * 2 ^ 32 ∧
     (t.cr 0x022).toNat = mask + rf * 256 ∧ t.cr 0x024 = top 0 ∧ t.cr 0x025 = top 1 ∧ t.cr 0x026 = top 2 ∧
     t.tile.thr.pc = (s.cr 0x023).toNat % 2 ^ 18 ∧ t.tile.thr.caps = caps ∧ t.tile.run = s.tile.run ∧
     (∀ l ∈ s.tile.thr.land, l.ready < t.tile.idle) ∧ s.tile.eng.matrix < t.tile.idle ∧ s.tile.eng.store < t.tile.idle ∧
     RegsExcept [.cr 0x020, .cr 0x021, .cr 0x022, .cr 0x024, .cr 0x025, .cr 0x026, .cr 0x027, .cr 0x028] s.tile.thr.regs t.tile.thr.regs ∧
     ∀ a, byteAt t a = byteAt s a) ∧
  (∀ (s : State) (cause slot : Nat) (late multi : Bool) (tinfo : Word) (caps : List Capture) (mask rf addr next : Nat),
     s.tile.twin = none → (s.hm = true ∨ (s.cr 0x023).toNat % 2 ^ 18 = 0 ∨ (caps ≠ [] ∧ Poison.capture ∈ s.tile.poison)) →
     let t := (s.enterTrap cause slot late multi tinfo caps mask rf addr next).getTile s.tile.ep
     t.run = .parked ∧ (∀ n, t.thr.regs.getS n = SVal.zero) ∧ (∀ n, t.thr.regs.getF n = 0) ∧ (∀ n, t.thr.regs.getV n = VVal.zero) ∧
     (∀ n, n ≠ 0 → t.thr.regs.getM n = 0 ∧ t.thr.regs.getP n = false) ∧ (∀ k i, t.thr.regs.getRow k i = 0 ∧ t.thr.regs.getXA k i = XA.clear) ∧
     (∀ n, t.thr.regs.getB n = Belief.zero ∧ t.thr.regs.getSig n = 0 ∧ t.thr.regs.getH n = none ∧ t.thr.regs.getLC n = Loop.zero) ∧
     t.thr.order = [] ∧ t.thr.land = [] ∧ t.thr.caps = [] ∧ t.latch = none ∧ t.spec = none ∧ t.waitw = false ∧ t.thr.pc = 0)

/-- R199, R200, R331, R332, R337, R344, R441. TRAP n on a confirmed path: while the bundle still runs, its cause is held behind the bundle with
n as its detail. TRET in handler mode leaves it, the rest of TCAUSE standing: with TMASK.REPLAY zero and no cause held execution continues
at TPC.NEXT; with slots to replay, those slots of the bundle at TPC.ADDR are ordered to issue again first. Outside handler mode TRET, and
SETC of TPC, TMASK or TOPD0 to TOPD3, take HANDLER_ONLY at issue and have none of their effect. -/
def Obligations.TrapAndReturn : Prop :=
  (∀ (n : BitVec 16) (s : State), s.tile.spec = none → s.tile.iss.hold = true → Gives (.trap n) s fun t =>
     t.tile.thr.pend = s.tile.thr.pend ++ [⟨0x0C, n.zeroExtend 64, s.tile.iss.addr⟩] ∧ RegsExcept [] s.tile.thr.regs t.tile.thr.regs ∧
     t.tile.thr.pc = s.tile.thr.pc ∧ ∀ a, byteAt t a = byteAt s a) ∧
  (∀ (s : State), s.tile.spec = none → s.hm = true →
     let addr := (s.cr 0x021).toNat % 2 ^ 18
     let next := (s.cr 0x021).toNat / 2 ^ 32 % 2 ^ 18
     let left (t : State) : Prop :=
       t.hm = false ∧ t.cr 0x020 = s.cr 0x020 &&& 0x7FFFFFFFFFFFFFFF ∧ t.tile.thr.pc = next ∧
       RegsExcept [.cr 0x020] s.tile.thr.regs t.tile.thr.regs ∧ ∀ a, byteAt t a = byteAt s a
     ((s.cr 0x022).toNat % 256 = 0 → s.tile.thr.pend = [] → Gives .tret s fun t => left t ∧ t.tile.thr.replay = s.tile.thr.replay) ∧
     ((s.cr 0x022).toNat % 256 ≠ 0 → Gives .tret s fun t => left t ∧
       t.tile.thr.replay = some ⟨(s.cr 0x022).extractLsb' 0 8, (s.cr 0x022).extractLsb' 8 8, addr, next⟩)) ∧
  (∀ (a : BitVec 5) (i : BitVec 12) (s : State), Unpoisoned s → s.tile.spec = none → s.hm = false → (s.cr 0x023).toNat % 2 ^ 18 ≠ 0 →
     (s.source.regs.getC 0x020).getLsbD 63 = false → s.tile.iss.slot = 0 → s.tile.iss.others = [] →
     let trapped (t : State) : Prop :=
       t.hm = true ∧ (t.cr 0x020).toNat % 256 = 0x02 ∧ (t.cr 0x020).getLsbD 12 = false ∧ t.tile.thr.pc = (s.cr 0x023).toNat % 2 ^ 18 ∧
       (t.cr 0x022).toNat = 1 ∧ ∀ x, byteAt t x = byteAt s x
     (Gives .tret s trapped) ∧
     (i.toNat ∈ [0x021, 0x022, 0x024, 0x025, 0x026, 0x027] → Gives (.setc a i) s fun t => trapped t ∧ (t.cr 0x028).toNat = i.toNat))

/-- R198: END on a confirmed path of a tile whose interface holds no send, contrail or request of an earlier bundle: the thread is in END's
third phase and no held cause remains. With such an entry outstanding the bundle stalls. R204: DONEW on a confirmed path of a tile that
stands alone, with room in its send table and nothing waiting to leave: one new send entry, without a handle, and the EAGER packet with the
eight bytes of the ticket for the dispatcher, with the tag and group of an acknowledgement. No register changes. -/
def Obligations.EndAndDonew : Prop :=
  (∀ (s : State), s.tile.spec = none → s.tile.ep < 0x400 → s.tile.twin = none →
     ((∀ e ∈ s.tile.ni.ents, e.kind.isRecv = true) → Gives .endT s fun t => t.tile.thr.endStep = 3 ∧ t.tile.thr.pend = []) ∧
     (s.tile.ni.ents = [] → Gives .endT s fun t =>
       t = { s with tile := { s.tile with thr := { s.tile.thr with endStep := 3, pend := [] } } }) ∧
     ((∀ e ∈ s.tile.ni.ents, e.kind ≠ .publ) → (∃ e ∈ s.tile.ni.ents, e.kind.isSend = true ∧ e.phase ≠ .done ∧ e.id < s.tile.iss.first) →
       exec .endT s = .next (s.stallOn .endWait))) ∧
  (∀ (a : BitVec 5) (s : State), Unpoisoned s → Confirmed s → s.tile.ep < 0x400 → s.pkg < 2 ^ 20 → s.tile.ni.full .donew = false → NothingWaits s →
     Gives (.donew a) s fun t => RegsExcept [] s.tile.thr.regs t.tile.thr.regs ∧ (∀ x, byteAt t x = byteAt s x) ∧
       (∃ e, t.tile.ni.ents = s.tile.ni.ents ++ [e] ∧ e.id = s.tile.ni.nextId ∧ e.kind = .donew ∧ e.detached = true ∧ e.phase = .awaitAck) ∧
       ∃ u p, t.torus = s.torus ++ [u] ∧ u.ev = .packet p ∧ p.hdr.kind = 0x01 ∧ p.hdr.dest = s.rankOf 0x4C1 ∧ p.hdr.tag = 0xFFFFFFFF ∧
         p.hdr.group = 0xFFFF ∧ p.payload = toLE 8 (s.opS 0 a).val.toNat)

/-- R112, R113: bumps of a named barrier. COUNT rises, saturating; while TARGET is not 0 and COUNT reaches it, COUNT falls by TARGET and PHASE
rises by one modulo 256. R121, R201: WAITB on a confirmed path of a tile that stands alone stalls while PHASE is behind sa[7:0] by 1 to 128,
and else completes and acquires what the barrier has counted; ARRB bumps its barrier; SETB gives a barrier that has not been bumped in this
cycle its TARGET, COUNT 0, its PHASE standing. All bumps of one cycle are added to what the barrier held before them, or was set to in that
cycle, and then phases complete. Other registers and memory stay. -/
def Obligations.NamedBarriers : Prop :=
  (∀ (v : Word) (n : Nat),
     let phase (x : Word) := x.toNat / 2 ^ 56
     let target (x : Word) := x.toNat / 2 ^ 32 % 2 ^ 24
     let count (x : Word) := x.toNat % 2 ^ 24
     let c := min (count v + n) 0xFFFFFF
     let w := nbBump v n
     target w = target v ∧ (target v = 0 → count w = c ∧ phase w = phase v) ∧
     (target v ≠ 0 → count w < target v ∧ ∃ k, c = count w + k * target v ∧ phase w = (phase v + k) % 256)) ∧
  (∀ (a : BitVec 5) (k : BitVec 6) (s : State), Unpoisoned s → Confirmed s →
     let x := (s.opS 0 a).val
     let nb := 0x080 + k.toNat
     let behind := ((x.toNat % 256 : Int) - (s.cr nb).toNat / 2 ^ 56) % 256
     let rest (t : State) : Prop := RegsExcept [.cr nb] s.tile.thr.regs t.tile.thr.regs ∧ ∀ x, byteAt t x = byteAt s x
     (1 ≤ behind → behind ≤ 128 → exec (.waitb a k) s = .next (s.stallOn (.waitb k.toNat))) ∧
     (¬(1 ≤ behind ∧ behind ≤ 128) → Gives (.waitb a k) s fun t => t.cr nb = s.cr nb ∧ rest t ∧
       ∀ e ∈ t.tile.ni.ents, e.nb = some k.toNat → e.counted = true → e.observed = true) ∧
     (let mine := s.tile.ni.bumps.filter fun b => b.1 = k.toNat ∧ b.2.1 = s.cycle
      let set := s.tile.ni.nbSet.find? fun x => x.1 == k.toNat && x.2.1 == s.cycle
      let before := match mine with | [] => (match set with | some x => x.2.2 | none => s.cr nb) | b :: _ => b.2.2.1
      Gives (.arrb k) s fun t => t.cr nb = nbBump before (mine.length + 1) ∧ rest t) ∧
     ((∀ b ∈ s.tile.ni.bumps, b.1 ≠ k.toNat) → (∀ x ∈ s.tile.ni.nbSet, x.1 ≠ k.toNat) → Gives (.setb a k) s fun t =>
       (t.cr nb).toNat = (s.cr nb).toNat / 2 ^ 56 * 2 ^ 56 + x.toNat % 2 ^ 24 * 2 ^ 32 ∧ rest t))

/-- R203 to R206: on a confirmed path of a tile that stands alone. WAITW without a stage gives four registers all ones at once; SLEEPT waits
while TIME is below sa, unsigned, and changes nothing; YIELD only keeps the issue unit idle for one step more. R126, R127, R208, R209: on a
confirmed path of a tile that stands alone. With no TOUCH bit set FENCE completes in one step; with a touched server in service it stalls, having
probed. SYNCX waits for the engines that were busy at issue and changes nothing. The model's own: FENCE waits while a request has still packets to
send, since a shard sets its TOUCH bit when it leaves (log 89, a design choice; R127 names only the servers whose bit is set). -/
def Obligations.WaitingInstructions : Prop :=
  (∀ (a : BitVec 5) (s : State), Unpoisoned s → Confirmed s →
     (s.bindsStage = false → (∀ r, s.clash r = false) → Gives .waitw s fun t =>
       (∀ n ∈ [25, 26, 28, 29], (t.tile.thr.regs.getS n).val = 0xFFFFFFFFFFFFFFFF ∧ (t.tile.thr.regs.getS n).ok = true) ∧
       OnlyRegs [.s 25, .s 26, .s 28, .s 29] s t) ∧
     (s.bindsStage = true → s.hm = false → s.tile.item = [] → Gives .waitw s fun t =>
       t.tile.iss.stall = some .gated ∧ t.tile.waitw = true ∧ t.tile.thr = s.tile.thr) ∧
     (s.time < (s.opS 0 a).val.toNat → exec (.sleept a) s = .next (s.stallOn .gated)) ∧
     ((s.opS 0 a).val.toNat ≤ s.time → exec (.sleept a) s = .next s) ∧
     (Gives .yield s fun t => t = { s with tile := { s.tile with idle := max s.tile.idle (s.cycle + 2) } })) ∧
  (∀ (s : State), Confirmed s → s.tile.ep < 0x400 → s.tile.ni.fence = none →
     let sent (e : Ent) : Prop := e.kind.isReq = false ∨ e.pairWait = false ∧ e.unsent = []
     ((∃ e ∈ s.tile.ni.ents, ¬sent e) → exec .fence s = .next (s.stallOn .fence)) ∧
     ((∀ e ∈ s.tile.ni.ents, sent e) → (∀ k < 3, s.cr (0x040 + k) = 0) → Gives .fence s fun t => t = s) ∧
     ((∀ e ∈ s.tile.ni.ents, sent e) → (∃ k < 192, (s.cr (0x040 + k / 64)).getLsbD (k % 64) = true ∧ k ∉ s.mgmt.outMask) → Gives .fence s fun t =>
       t.tile.iss.stall = some .fence ∧ t.tile.ni.fence.isSome = true ∧ RegsExcept [] s.tile.thr.regs t.tile.thr.regs) ∧
     (s.matrixBusy = false → s.storeBusy = false → exec .syncx s = .next s) ∧
     (s.matrixBusy = true ∨ s.storeBusy = true → exec .syncx s = .next (s.stallOn .busy)))

/-! ### Control registers and the thread's own steps (R173 to R175, R189, R207, R360, R386, R387) -/

/-- R28, R173, R175, R207, R430: GETC of a register with no write on its way gives its value at issue, with a zero residue and a bound of 2:
CYCLE and TIME count, PAIRMODE of a tile without a twin reads 0, and the registers that timing changes are read as they stand. R10, R173,
R174, R207, R360: SETC on a confirmed path replaces the writable bits of a register and leaves its other bits, every other register and
memory; TPC and TMASK are written in handler mode, and so are TOPD0 to TOPD3, which also replace the captured operand with a zero residue
(R335). A register that is read only stays. -/
def Obligations.ControlRegisters : Prop :=
  (∀ (d : BitVec 5) (i : BitVec 12) (s : State), Unpoisoned s → Confirmed s → s.clash (.s d.toNat) = false → s.flying (.cr i.toNat) = false →
     (∀ l ∈ s.source.land, l.ready ≤ s.cycle) →
     let n := i.toNat
     let async := n = 0x0C0 ∨ (0x040 ≤ n ∧ n ≤ 0x042) ∨ (0x080 ≤ n ∧ n ≤ 0x0BF) ∨ (0x0D0 ≤ n ∧ n ≤ 0x0D7)
     ∃ v : Word, (n = 0x010 → v = BitVec.ofNat 64 s.cycle) ∧ (n = 0x011 → v = BitVec.ofNat 64 s.time) ∧ (n = 0x0C1 → v = 0) ∧
       (async → v = s.cr n) ∧ (n ∉ [0x010, 0x011, 0x0C1] → ¬async → v = s.source.regs.getC n) ∧
       Gives (.getc d i) s fun t => ToS s t d v 2 0 ∧ (d ≠ 0 → (t.tile.thr.regs.getS d.toNat).ok = true)) ∧
  (∀ (a : BitVec 5) (i : BitVec 12) (s : State), Unpoisoned s → s.tile.spec = none →
     let n := i.toNat
     let v := (s.opS 0 a).val
     (∀ e ∈ ([(0x013, 0xFFFF), (0x015, 0xFFFFFFFF), (0x016, 0xFFFFFFFFFFFFFFFF), (0x017, 0xFFFFFFFFFFFFFFFF), (0x023, 0xC00000000003FFFC),
         (0x033, 0x7), (0x040, 0xFFFFFFFFFFFFFFFF), (0x041, 0xFFFFFFFFFFFFFFFF), (0x042, 0xFFFFFFFFFFFFFFFF), (0x050, 0xFFFFFFFF),
         (0x051, 0xFFFFFFFFF), (0x052, 0x1FFFC0), (0x053, 0xFF001FFF80), (0x071, 0xFFFFFFFF), (0x0C0, 0x80000000FFFFFFFF)] : List (Nat × Word)),
       n = e.1 → Gives (.setc a i) s fun t => t.cr n = (s.cr n &&& ~~~e.2) ||| (v &&& e.2) ∧ OnlyRegs [.cr n] s t) ∧
     (∀ e ∈ ([(0x021, 0x0003FFFC0003FFFC), (0x022, 0xFFFF)] : List (Nat × Word)),
       n = e.1 → s.hm = true → Gives (.setc a i) s fun t => t.cr n = (s.cr n &&& ~~~e.2) ||| (v &&& e.2) ∧ OnlyRegs [.cr n] s t) ∧
     (∀ j < 4, n = 0x024 + j → s.hm = true → Gives (.setc a i) s fun t => t.cr n = v ∧ RegsExcept [.cr n] s.tile.thr.regs t.tile.thr.regs ∧
       (∀ x, byteAt t x = byteAt s x) ∧ t.tile.thr.pc = s.tile.thr.pc ∧ t.tile.thr.caps.length = s.tile.thr.caps.length ∧
       ∀ c rest, s.tile.thr.caps = c :: rest → ∃ c', t.tile.thr.caps = c' :: rest ∧ c'.slot = c.slot ∧
         (j < 3 → j < c.ops.length → c'.ops[j]? = some (SVal.of v) ∧ ∀ m, m ≠ j → c'.ops[m]? = c.ops[m]?) ∧
         (∀ m, j = 3 → c.third = some m → c'.regs.getC m = v ∧ c'.ops = c.ops)) ∧
     (∀ e ∈ ([(0x031, 1), (0x032, 0x3F)] : List (Nat × Word)),
       n = e.1 → Gives (.setc a i) s fun t => t.cr n = s.cr n &&& ~~~(v &&& e.2) ∧ OnlyRegs [.cr n] s t) ∧
     (0x060 ≤ n → n ≤ 0x06F → Gives (.setc a i) s fun t => t.cr n = v ∧ OnlyRegs [.cr n] s t) ∧
     (n = 0x018 → exec (.setc a i) s = exec (.upoolWrite false v) s) ∧ (n = 0x019 → exec (.setc a i) s = exec (.upoolWrite true v) s) ∧
     (∀ j : BitVec 6, n = 0x080 + j.toNat → exec (.setc a i) s = exec (.namedBarrierWrite j v) s) ∧
     (n ≤ 0x012 ∨ n ∈ [0x014, 0x020, 0x028, 0x030, 0x0C1] ∨ (0x0D0 ≤ n ∧ n ≤ 0x0DF) → exec (.setc a i) s = .next s))

/-- R74, R94, R113, R126, R344: the steps that write a register of the tile by its own rule. UPOOL is taken only while the pool is empty, in
256-byte multiples that end at or below 0x1F_C000; a named barrier that was not bumped in this cycle takes PHASE, TARGET and a COUNT below
TARGET; TOUCH is replaced; a flag is cleared by a one. R74, R182: results whose bound has passed land: their flags, and no others, are ORed
into FPFLAGS, and only results still on their way remain, with earlier ones of an exact accumulator that is still being written (R248). -/
def Obligations.RegisterRulesAndLandings : Prop :=
  (∀ (k : BitVec 2) (j : BitVec 6) (v : Word) (s : State), s.tile.ep < 0x400 →
     let poolEmpty := (s.tile.ni.unexp.all fun u => u.units.isEmpty) ∧ (s.tile.ni.ents.all fun e => e.units.isEmpty)
     let legal (base size : Word) := base.toNat % 256 = 0 ∧ size.toNat % 256 = 0 ∧ base.toNat + size.toNat ≤ 0x1FC000
     (poolEmpty → legal v (s.cr 0x019) → Gives (.upoolWrite false v) s fun t => t.cr 0x018 = v ∧ OnlyRegs [.cr 0x018] s t) ∧
     (poolEmpty → legal (s.cr 0x018) v → Gives (.upoolWrite true v) s fun t => t.cr 0x019 = v ∧ OnlyRegs [.cr 0x019] s t) ∧
     (¬(poolEmpty ∧ legal v (s.cr 0x019)) → exec (.upoolWrite false v) s = .next s) ∧
     (¬(poolEmpty ∧ legal (s.cr 0x018) v) → exec (.upoolWrite true v) s = .next s) ∧
     ((∀ b ∈ s.tile.ni.bumps, b.1 ≠ j.toNat) → v.toNat % 2 ^ 24 < v.toNat / 2 ^ 32 % 2 ^ 24 → Gives (.namedBarrierWrite j v) s fun t =>
       t.cr (0x080 + j.toNat) = v &&& 0xFFFFFFFF00FFFFFF ∧ RegsExcept [.cr (0x080 + j.toNat)] s.tile.thr.regs t.tile.thr.regs ∧
         ∀ a, byteAt t a = byteAt s a) ∧
     (k.toNat < 3 → Gives (.touchWrite k v) s fun t => t.cr (0x040 + k.toNat) = v ∧ OnlyRegs [.cr (0x040 + k.toNat)] s t) ∧
     (Gives (.fpflagsClear v) s fun t => t.cr 0x032 = s.cr 0x032 &&& ~~~(v &&& 0x3F) ∧ OnlyRegs [.cr 0x032] s t) ∧
     (Gives (.oorflagClear v) s fun t => t.cr 0x031 = s.cr 0x031 &&& ~~~(v &&& 1) ∧ OnlyRegs [.cr 0x031] s t)) ∧
  (∀ (s : State), Gives .resultLanding s fun t =>
     (∀ l, l ∈ t.tile.thr.land ↔ l ∈ s.tile.thr.land ∧
       (s.cycle < l.ready ∨ ∃ k, ∃ m ∈ s.tile.thr.land, l.dest = .xa k ∧ m.dest = .xa k ∧ s.cycle < m.ready)) ∧
     (∀ j < 64, (t.cr 0x032).getLsbD j = true ↔
       (s.cr 0x032).getLsbD j = true ∨ ∃ l ∈ s.tile.thr.land, l.ready ≤ s.cycle ∧ l.flags.getLsbD j = true) ∧
     RegsExcept [.cr 0x032] s.tile.thr.regs t.tile.thr.regs ∧ (∀ a, byteAt t a = byteAt s a) ∧ t.tile.thr.pc = s.tile.thr.pc)

/-- R189: the end of a speculative path. Nothing happens while no path runs or its predicate cannot be read. A path that was guessed right and
has stored nothing becomes the thread as it stands. After a wrong guess every scalar, vector and predicate register is as it was at the
branch, memory has none of the path's stores, the tile-store engine is busy for no transfer of the path, the first bundle of the correct path issues no sooner than the third step, and where the
branch is taken it stands at the branch's target. R198, R331, R333, R386, R387: WATCHDOG. Nothing happens without a counted stall, below LIMIT, with
LIMIT 0, or in handler mode. When the stall of a WAITM, WAITB, FENCE, MLDBG, END or full table has reached LIMIT outside handler mode, ELAPSED is
cleared and the tile takes the trap before the stalled bundle, with the stall's kind and number in TINFO; in the third phase of END after
END's bundle, of which END alone is to be replayed. -/
def Obligations.SpeculationAndWatchdog : Prop :=
  (∀ (s : State),
     (s.tile.spec = none → exec .branchResolve s = .next s) ∧
     ∀ p, s.tile.spec = some p →
       (s.cycle < p.ready → exec .branchResolve s = .next s) ∧
       (p.ready ≤ s.cycle → p.guess = p.truth → p.stores = [] → p.covers = [] →
         Gives .branchResolve s fun t => t = { s with tile := { s.tile with spec := none } }) ∧
       (p.ready ≤ s.cycle → p.guess ≠ p.truth → Gives .branchResolve s fun t =>
         t.tile.spec = none ∧ (∀ n, t.tile.thr.regs.getS n = p.saved.regs.getS n) ∧ (∀ n, t.tile.thr.regs.getV n = p.saved.regs.getV n) ∧
         (∀ n, t.tile.thr.regs.getP n = p.saved.regs.getP n) ∧ (∀ a, byteAt t a = byteAt s a) ∧ p.ready + 3 ≤ t.tile.idle ∧
         t.tile.eng.store = p.engine ∧ (p.truth = true → t.tile.thr.pc = p.target))) ∧
  (∀ (s : State), Confirmed s →
     let limit := (s.cr 0x0C0).toNat % 2 ^ 32
     let elapsed := (s.cr 0x0C0).toNat / 2 ^ 32 % 2 ^ 24
     ((s.tile.iss.stall = none ∨ s.tile.iss.stall ∈ ([.busy, .pred, .spec, .gated, .twin] : List Stall).map some) → exec .watchdog s = .next s) ∧
     (limit = 0 ∨ elapsed < limit ∨ s.hm = true → exec .watchdog s = .next s) ∧
     ∀ h < 64, ∀ e ∈ ([(.waitm h, 1, h), (.waitb h, 2, h), (.fence, 3, 0), (.mldbg h, 4, h), (.endWait, 5, 0), (.full h, 6, h)] : List (Stall × Nat × Nat)),
       s.tile.iss.stall = some e.1 → limit ≠ 0 → limit ≤ elapsed → s.hm = false → (s.cr 0x023).toNat % 2 ^ 18 ≠ 0 → s.tile.thr.pc < 2 ^ 18 →
       let taken (next mask : Nat) (t : State) : Prop :=
         t.hm = true ∧ (t.cr 0x020).toNat % 256 = 0x09 ∧ (t.cr 0x020).getLsbD 12 = true ∧
         (t.cr 0x028).toNat = e.2.1 + e.2.2 * 16 + elapsed * 2 ^ 32 ∧ (t.cr 0x021).toNat = s.tile.thr.pc + next * 2 ^ 32 ∧
         (t.cr 0x022).toNat = mask ∧ (t.cr 0x0C0).toNat = limit + (s.cr 0x0C0).toNat / 2 ^ 56 * 2 ^ 56 ∧
         t.tile.thr.pc = (s.cr 0x023).toNat % 2 ^ 18 ∧ t.tile.thr.endStep = (if s.tile.thr.endStep = 3 then 0 else s.tile.thr.endStep) ∧
         RegsExcept [.cr 0x020, .cr 0x021, .cr 0x022, .cr 0x024, .cr 0x025, .cr 0x026, .cr 0x027, .cr 0x028, .cr 0x0C0] s.tile.thr.regs t.tile.thr.regs ∧
         ∀ a, byteAt t a = byteAt s a
       (s.tile.thr.endStep ≠ 3 → s.tile.thr.replay = none → Gives .watchdog s (taken s.tile.thr.pc 0)) ∧
       (s.tile.thr.endStep = 3 → Gives .watchdog s (taken (s.tile.bundleAt s.tile.thr.pc).succ 257)))

/-! ### The M slot (R219 to R226) -/

/-- R344: an access that is not in range is recorded when OORFLAG is clear, and leaves the earlier record of another bundle when it is set; of
the accesses of one bundle the lowest-numbered slot's is recorded. With TVEC.ENOOR set,
LDD traps OUT_OF_RANGE with the address in TINFO, and loads nothing. R194, R336, R343: a register whose carried residue is wrong traps
RESIDUE where it supplies an address, with its number, its use and both residues in TINFO; nothing is loaded. R343: an operation that forms
its residue from its operands' residues carries an error on: when one operand's residue is wrong and the other's is right, the result's
residue is wrong. R283, R285, R287, R288: what the belief operations trap on: a block with INV or NF, and a pivot that is not above the
threshold, SINGULAR; a damping factor outside 0 to 1, or an added diagonal that is not finite, SCALE. No block changes. R263: WAITM, TESTM,
MREC, CANCEL, UNPUB and FREEH on a free handle trap HANDLE_INVALID at issue, with the handle's number, and have none of their effect. R336,
R347: a poisoned register, a poisoned word that LDD reads, and a poisoned latch under an MMA trap STORE_UE with structure and number or
address; writing a whole register or word ends its poison; COPY carries it along, MLDB into the latch and an MMA into its rows. R157, R225, R251,
R366: ANVW, ANVR and MLDB trap ANVIL_RANGE with region, offset and reason; MLDBG whose generation has passed traps GENERATION with it. R69,
R240, R241, R253, R366: VPACK4 and VUNPK4 trap SCALE on the first bad sidecar, an MMA on the first bad row, column or sidecar scale. A trap has none
of its slot's effect. -/
def Obligations.OperandChecksTrap : Prop :=
  (∀ (d a : BitVec 5) (o : BitVec 13) (x : Nat) (s : State),
     (s.recordOor none = s) ∧
     (let u := s.recordOor (some x)
      let recorded : Prop :=
        u.cr 0x031 = 1 ∧ u.cr 0x030 = BitVec.ofNat 64 x ∧ RegsExcept [.cr 0x030, .cr 0x031] s.tile.thr.regs u.tile.thr.regs ∧
          u = { s with tile := { s.tile with
            thr := { s.tile.thr with regs := u.tile.thr.regs }
            iss := { s.tile.iss with oorBy := some (s.tile.iss.slot, x) } } }
      ((s.cr 0x031).getLsbD 0 = false → recorded) ∧
      ((s.cr 0x031).getLsbD 0 = true → (s.tile.iss.oorBy = none → u = s) ∧
        ∀ k y, s.tile.iss.oorBy = some (k, y) → (s.tile.iss.slot < k → recorded) ∧ (k ≤ s.tile.iss.slot → u = s))) ∧
     (Unpoisoned s → s.tile.spec = none → s.hm = false → (s.cr 0x023).toNat % 2 ^ 18 ≠ 0 → s.storeBusy = false →
       (s.opS 0 a).ok = true → s.tile.oor ((s.opS 0 a).val + o.signExtend 64) 8 = some x → (s.cr 0x023).getLsbD 63 = true →
       (s.source.regs.getC 0x020).getLsbD 63 = false → s.tile.iss.others = [] → s.tile.iss.slot = 3 → s.tile.iss.loops = false →
       Gives (.ldd d a o) s fun t => t.hm = true ∧ (t.cr 0x020).toNat % 256 = 0x0A ∧ t.cr 0x028 = BitVec.ofNat 64 x ∧
         (t.cr 0x022).toNat = 8 ∧ t.tile.thr.pc = (s.cr 0x023).toNat % 2 ^ 18 ∧ t.cr 0x024 = (s.opS 0 a).val ∧
         (∀ n, t.tile.thr.regs.getS n = s.tile.thr.regs.getS n) ∧ ∀ b, byteAt t b = byteAt s b)) ∧
  (∀ (d a : BitVec 5) (o : BitVec 13) (s : State), Unpoisoned s → s.tile.spec = none → s.hm = false → (s.cr 0x023).toNat % 2 ^ 18 ≠ 0 →
     s.storeBusy = false → (s.opS 0 a).ok = false → (s.source.regs.getC 0x020).getLsbD 63 = false → s.tile.iss.others = [] →
     s.tile.iss.slot = 3 → s.tile.iss.loops = false →
     Gives (.ldd d a o) s fun t => t.hm = true ∧ (t.cr 0x020).toNat % 256 = 0x03 ∧
       (t.cr 0x028).toNat = a.toNat + (s.opS 0 a).res.toNat * 2 ^ 15 + (s.opS 0 a).val.toNat % 15 * 2 ^ 19 ∧
       (t.cr 0x022).toNat = 8 ∧ (∀ n, t.tile.thr.regs.getS n = s.tile.thr.regs.getS n) ∧ ∀ b, byteAt t b = byteAt s b) ∧
  (∀ (d a b : BitVec 5) (i : BitVec 16) (s : State), Unpoisoned s → s.clash (.s d.toNat) = false → d ≠ 0 →
     (s.opS 0 a).res.toNat < 15 → (s.opS 1 b).res.toNat < 15 →
     (∀ e ∈ ([.add d a b, .sub d a b] : List Instr), (s.opS 0 a).ok ≠ (s.opS 1 b).ok →
       Gives e s fun t => (t.tile.thr.regs.getS d.toNat).ok = false) ∧
     ((s.opS 0 a).ok = false → Gives (.addi d a i) s fun t => (t.tile.thr.regs.getS d.toNat).ok = false)) ∧
  (∀ (d a f : BitVec 4) (k : BitVec 8) (s : State), Unpoisoned s → s.tile.spec = none → s.hm = false → (s.cr 0x023).toNat % 2 ^ 18 ≠ 0 →
     (s.source.regs.getC 0x020).getLsbD 63 = false → s.tile.iss.slot = 7 → s.tile.iss.others = [] → s.tile.iss.loops = false →
     let x := s.rdB a
     let z := s.opF 0 f
     let trapped (cause : Nat) (t : State) : Prop :=
       t.hm = true ∧ (t.cr 0x020).toNat % 256 = cause ∧ (t.cr 0x022).toNat = 0x80 ∧ (t.cr 0x020).getLsbD 12 = false ∧
       t.tile.thr.pc = (s.cr 0x023).toNat % 2 ^ 18 ∧ (∀ n, t.tile.thr.regs.getB n = s.tile.thr.regs.getB n) ∧
       (∀ n, t.tile.thr.regs.getF n = s.tile.thr.regs.getF n) ∧ ∀ p, byteAt t p = byteAt s p
     (x.inv = true ∨ x.nf = true → ∀ i ∈ ([.bmarg d a k, .bmean d a] : List Instr), Gives i s fun t =>
       trapped 0x05 t ∧ (t.cr 0x028).toNat = 8) ∧
     (x.inv = false → x.nf = false → 0 < x.dim → fpCmp 2 (BitVec.ofNat 32 (s.rdC 0x071).toNat) (x.lamAt 0 0) = false →
       (f32 (x.lamAt 0 0)).isNan = false → Gives (.bmean d a) s fun t => trapped 0x05 t ∧ (t.cr 0x028).toNat = 0) ∧
     (betaOk z = false → Gives (.bdamp d a f) s (trapped 0x04)) ∧
     (z.toNat / 2 ^ 23 % 256 = 255 → Gives (.breg d a f) s (trapped 0x04))) ∧
  (∀ (k : BitVec 4) (j : BitVec 3) (d : BitVec 5) (w : BitVec 2) (s : State), Confirmed s → s.rdH k = none → s.hm = false →
     Poison.capture ∉ s.tile.poison →
     (s.cr 0x023).toNat % 2 ^ 18 ≠ 0 → (s.source.regs.getC 0x020).getLsbD 63 = false → s.tile.iss.slot = 6 → s.tile.iss.others = [] →
     s.tile.iss.loops = false →
     ∀ i ∈ ([.waitm k j, .testm k j, .mrec d k w, .cancel k, .unpub k, .freeh k] : List Instr), Gives i s fun t =>
       t.hm = true ∧ (t.cr 0x020).toNat % 256 = 0x0F ∧ (t.cr 0x020).getLsbD 12 = false ∧ (t.cr 0x028).toNat = k.toNat ∧
       (t.cr 0x022).toNat = 0x40 ∧ t.tile.thr.pc = (s.cr 0x023).toNat % 2 ^ 18 ∧ t.tile.ni.ents = s.tile.ni.ents ∧
       (∀ n, t.tile.thr.regs.getS n = s.tile.thr.regs.getS n) ∧ (∀ n, t.tile.thr.regs.getP n = s.tile.thr.regs.getP n) ∧
       (∀ n, t.tile.thr.regs.getH n = s.tile.thr.regs.getH n) ∧ ∀ x, byteAt t x = byteAt s x) ∧
  (∀ (d a b : BitVec 5) (i : BitVec 16) (o : BitVec 13) (w : Nat) (s : State),
     let at_ := (s.opS 0 a).val + o.signExtend 64
     (TrapReady s 1 → Poison.reg (.s a.toNat) ∈ s.marks → Gives (.addi d a i) s (TrapsAt 0x0B 1 (BitVec.ofNat 64 (2 + 256 * a.toNat)) s)) ∧
     (TrapReady s 3 → s.storeBusy = false → s.marks = [] → s.tile.poison = [.store w] → w < 0x40000 →
       at_.toNat < 8 * w + 8 → 8 * w < at_.toNat + 8 → Gives (.ldd d a o) s (TrapsAt 0x0B 3 (BitVec.ofNat 64 (256 * (8 * w))) s)) ∧
     (s.tile.spec = none → s.clash (.s d.toNat) = false → d ≠ 0 → s.marks = [] → Gives (.addi d a i) s fun t => Poison.reg (.s d.toNat) ∉ t.tile.poison) ∧
     (s.tile.spec = none → s.storeBusy = false → s.tile.eng.mma = [] → s.tile.eng.msto = [] → s.marks = [] → (s.opS 0 d).ok = true →
       (s.opS 1 a).ok = true → ((s.opS 1 a).val + o.signExtend 64).toNat = 8 * w → s.tile.oor ((s.opS 1 a).val + o.signExtend 64) 8 = none →
       Gives (.std d a o) s fun t => Poison.store w ∉ t.tile.poison) ∧
     (s.tile.spec = none → s.storeBusy = false → s.tile.eng.mma = [] → s.tile.eng.msto = [] → s.marks = [] → (s.opS 0 d).ok = true →
       (s.opS 1 a).ok = true → (s.opS 2 b).ok = true → (s.opS 2 b).val.toNat % 2 ^ 32 = 8 → (s.opS 1 a).val.toNat = 8 * w →
       (s.opS 0 d).val.toNat % 8 = 0 → s.tile.oor (s.opS 0 d).val 8 = none → s.tile.oor (s.opS 1 a).val 8 = none → Poison.store w ∈ s.tile.poison →
       Gives (.copy d a b) s fun t => Poison.store ((s.opS 0 d).val.toNat / 8) ∈ t.tile.poison)) ∧
  (∀ (a b : BitVec 5) (f : BitVec 3) (s : State), s.marks = [] → (s.opS 0 a).ok = true → (s.opS 1 b).ok = true →
     let x := (s.opS 0 a).val
     let y := (s.opS 1 b).val
     let region (z : Word) := z.toNat / 2 ^ 32 % 8
     let off (z : Word) := z.toNat % 2 ^ 22
     let ab (z : Word) := (s.cr (0x0D8 + region z)).toNat
     let mine (z : Word) : Prop := s.partOf s.tile.ep = some (ab z / 2 ^ 32 % 64)
     let outside (z : Word) (n : Nat) : Prop := ab z / 2 ^ 16 % 128 * 65536 < off z + n
     let range (slot : Nat) (z : Word) (reason : Nat) : State → Prop :=
       TrapsAt 0x06 slot (BitVec.ofNat 64 (region z + reason * 8 + off z * 2 ^ 32)) s
     let zeros := x &&& 0xFFFFFFF8FFC00000 = 0
     let n := [8448, 8448, 4352, 4352, 6144].getD f.toNat 0
     (TrapReady s 3 → s.storeBusy = false → s.tile.retained (region y) = none → ∀ i ∈ ([.anvw a b, .anvr a b] : List Instr),
       (y.toNat / 2 ^ 22 % 2 ^ 10 ≠ 0 → Gives i s (range 3 y 3)) ∧
       (y.toNat / 2 ^ 22 % 2 ^ 10 = 0 → ¬mine y → Gives i s (range 3 y 1)) ∧
       (y.toNat / 2 ^ 22 % 2 ^ 10 = 0 → mine y → outside y (y.toNat / 2 ^ 35) → Gives i s (range 3 y 0))) ∧
     (TrapReady s 5 → s.tile.twin = none → s.matrixBusy = false → f.toNat ≤ 4 → s.tile.retained (region x) = none →
       (¬zeros → Gives (.mldb a f) s (range 5 x 3)) ∧
       (zeros → ¬mine x → Gives (.mldb a f) s (range 5 x 1)) ∧
       (zeros → mine x → off x % 256 ≠ 0 → Gives (.mldb a f) s (range 5 x 2)) ∧
       (zeros → mine x → off x % 256 = 0 → outside x n → Gives (.mldb a f) s (range 5 x 0)) ∧
       (zeros → mine x → off x % 256 = 0 → ¬outside x n →
         (0 < (s.cr (0x0D0 + region x) - y).toInt → Gives (.mldbg a b f) s (TrapsAt 0x07 5 (s.cr (0x0D0 + region x)) s)) ∧
         ∀ w, s.tile.poison = [.anvil w] → ab x % 128 * 65536 + off x < 8 * w + 8 → 8 * w < ab x % 128 * 65536 + off x + n →
           Gives (.mldb a f) s fun t => ∃ l, t.tile.latch = some l ∧ l.poison = some w))) ∧
  (∀ (k : BitVec 2) (d a b c : BitVec 5) (l : Latch) (i : Nat) (s : State), Unpoisoned s → s.matrixBusy = false →
     let rows := (s.rdV c).bits
     let side (j : Nat) : Word := (s.rdV b).bits.extractLsb' (64 * j) 64
     let at_ (j : Nat) : Word := (s.opS 0 a).val + BitVec.ofNat 64 j * (s.opS 1 b).val
     let scale (slot index source : Nat) (z : W32) : State → Prop :=
       TrapsAt 0x04 slot (BitVec.ofNat 64 (index + source * 2 ^ 8 + z.toNat * 2 ^ 32)) s
     let rowsOk := ∀ j < 64, scaleOk (lane rows j) = true
     (TrapReady s 4 → ∀ e ∈ ([.vpack4 d a b, .vunpk4 d a b] : List Instr),
       (sidecarOk (side 0) = false → Gives e s (scale 4 0 3 ((side 0).extractLsb' 0 32))) ∧
       (sidecarOk (side 0) = true → sidecarOk (side 1) = false → Gives e s (scale 4 (1 * 2 ^ 6) 3 ((side 1).extractLsb' 0 32)))) ∧
     (TrapReady s 5 → s.tile.latch = some l → i < 64 →
       ∀ e ∈ ([(.mmaBb k a b c, 0, 128), (.mmaHh k a b c, 1, 128), (.mmaEe k a b c, 2, 64), (.mmaEf k a b c, 3, 64), (.mmaFe k a b c, 2, 64),
         (.mmaFf k a b c, 3, 64), (.mmaEq k a b c, 4, 128), (.mmaBq k a b c, 4, 256)] : List (Instr × Nat × Nat)), l.fmt = e.2.1 →
       (∀ w, l.poison = some w → w < 0x200000 → Gives e.1 s (TrapsAt 0x0B 5 (BitVec.ofNat 64 (1 + 256 * (8 * w))) s)) ∧
       (l.poison = none → (s.opS 0 a).ok = true → (s.opS 1 b).ok = true → (∀ j < 64, s.tile.oor (at_ j) e.2.2 = none) →
         (scaleOk (lane rows i) = false → (∀ j < i, scaleOk (lane rows j) = true) → Gives e.1 s (scale 5 i 0 (lane rows i))) ∧
         (e.2.1 < 4 → rowsOk → scaleOk (l.colScale i) = false → (∀ j < i, scaleOk (l.colScale j) = true) →
           Gives e.1 s (scale 5 i 1 (l.colScale i))) ∧
         (e.2.1 = 4 → rowsOk → ∀ q < 4, sidecarOk (l.colSidecar i q) = false →
           (∀ j < 64, ∀ p < 4, 4 * j + p < 4 * i + q → sidecarOk (l.colSidecar j p) = true) →
           Gives e.1 s (scale 5 (i + q * 2 ^ 6) 2 ((l.colSidecar i q).extractLsb' 0 32)))))) ∧
  (∀ (k : BitVec 2) (a b c : BitVec 5) (l : Latch) (i w : Nat) (s : State), s.marks = [] → s.tile.spec = none → s.matrixBusy = false →
     s.tile.latch = some l → l.fmt = 0 → l.poison = none → s.tile.iss.stored = [] → (s.opS 0 a).ok = true → (s.opS 1 b).ok = true → i < 64 →
     let at_ (j : Nat) : Word := (s.opS 0 a).val + BitVec.ofNat 64 j * (s.opS 1 b).val
     (∀ j < 64, scaleOk (lane (s.rdV c).bits j) = true ∧ scaleOk (l.colScale j) = true ∧ s.tile.oor (at_ j) 128 = none) →
     s.tile.poison = [.store w] → (at_ i).toNat ≤ 8 * w → 8 * w < (at_ i).toNat + 128 →
     Gives (.mmaBb k a b c) s fun t => Poison.row k.toNat i ∈ t.tile.poison)

/-- R219 to R221: the scalar loads. With the address registers' residues right and the engine free, and the access in range or ENOOR clear, the
destination receives the loaded bytes, sign- or zero-extended as the form says, with a bound of 4; out-of-range bytes read as zero and are
recorded. -/
def Obligations.ScalarLoads : Prop :=
  ∀ (d a b : BitVec 5) (e : BitVec 4) (o : BitVec 13) (c : BitVec 1) (z : BitVec 3) (s : State), Unpoisoned s → s.storeBusy = false →
    (s.opS 0 a).ok = true → s.clash (.s d.toNat) = false → s.clash (.f e.toNat) = false →
    let x := (s.opS 0 a).val
    let y := (s.opS 1 b).val
    let raw (p : Word) (n : Nat) : Int := ofLE (s.ldBytes p n)
    let runs (p : Word) (n : Nat) : Prop := s.tile.oor p n = none ∨ (s.cr 0x023).getLsbD 63 = false
    let value (p : Word) (n : Nat) (signed : Bool) : Word := BitVec.ofInt 64 (if signed then (raw p n).bmod (2 ^ (8 * n)) else raw p n)
    let at_ := x + BitVec.ofInt 64 o.toInt
    let width := [1, 1, 2, 2, 4, 4, 8].getD z.toNat 0
    let idx := x + y * BitVec.ofNat 64 (if c = 1 then width else 1)
    (∀ e ∈ ([(.ldb d a o, 1, true), (.ldbz d a o, 1, false), (.ldh d a o, 2, true), (.ldhz d a o, 2, false), (.ldw d a o, 4, true),
        (.ldwz d a o, 4, false), (.ldd d a o, 8, false)] : List (Instr × Nat × Bool)),
      runs at_ e.2.1 → Gives e.1 s fun t => ToS (s.recordOor (s.tile.oor at_ e.2.1)) t d (value at_ e.2.1 e.2.2) 4 0) ∧
    (runs at_ 4 → Gives (.ldf e a o) s fun t => ToF (s.recordOor (s.tile.oor at_ 4)) t e (BitVec.ofInt 32 (raw at_ 4)) 4 0) ∧
    (z.toNat ≤ 6 → (s.opS 1 b).ok = true → runs idx width → Gives (.ldx d a b c z) s fun t =>
      ToS (s.recordOor (s.tile.oor idx width)) t d (value idx width (z.toNat ∈ [0, 2, 4])) 4 0)

/-- R120, R194, R219 to R221: the scalar stores on a confirmed path. Byte i of the data goes to address + i, lowest first; a byte that is out of
range is dropped; every other byte of memory, and every register but the record of the access, stays. -/
def Obligations.ScalarStores : Prop :=
  ∀ (d a b : BitVec 5) (e : BitVec 4) (o : BitVec 13) (c : BitVec 1) (z : BitVec 3) (s : State), Unpoisoned s → s.tile.spec = none →
    s.storeBusy = false → s.tile.eng.mma = [] → s.tile.eng.msto = [] → (s.opS 0 d).ok = true → (s.opS 1 a).ok = true →
    let x := (s.opS 1 a).val
    let y := (s.opS 2 b).val
    let at_ := x + BitVec.ofInt 64 o.toInt
    let width := [1, 1, 2, 2, 4, 4, 8].getD z.toNat 0
    let idx := x + y * BitVec.ofNat 64 (if c = 1 then width else 1)
    let runs (p : Word) (n : Nat) : Prop := s.tile.oor p n = none ∨ (s.cr 0x023).getLsbD 63 = false
    (∀ e ∈ ([(.stb d a o, 1), (.sth d a o, 2), (.stw d a o, 4), (.std d a o, 8)] : List (Instr × Nat)),
      runs at_ e.2 → Gives e.1 s fun t => Stores at_ e.2 (s.opS 0 d).val.toNat (s.recordOor (s.tile.oor at_ e.2)) t) ∧
    (runs at_ 4 → Gives (.stf e a o) s fun t => Stores at_ 4 (s.opF 0 e).toNat (s.recordOor (s.tile.oor at_ 4)) t) ∧
    (z.toNat ∈ [0, 2, 4, 6] → (s.opS 2 b).ok = true → runs idx width → Gives (.stx d a b c z) s fun t =>
      Stores idx width (s.opS 0 d).val.toNat (s.recordOor (s.tile.oor idx width)) t)

/-- R222: the vector loads. Lane i receives the four bytes at A(i), with a zero residue, with the bound of R185. R222: the vector stores on a
confirmed path, in range. Byte j of lane i goes to A(i) + j unless a higher-numbered lane writes the same byte; every other byte of memory,
and every register, stays. -/
def Obligations.VectorLoadsAndStores : Prop :=
  (∀ (d a b : BitVec 5) (i : BitVec 16) (s : State), Unpoisoned s → s.storeBusy = false → (s.opS 0 a).ok = true →
     s.clash (.v d.toNat) = false →
     let x := (s.opS 0 a).val
     let y := (s.opS 1 b).val
     let v := (s.rdV b).bits
     let runs (f : Nat → Word) (t : State → Prop) (e : Instr) : Prop :=
       ((∀ n < 64, s.tile.oor (f n) 4 = none) ∨ (s.cr 0x023).getLsbD 63 = false) → Gives e s t
     let loads (f : Nat → Word) (lat : Nat) (t : State) : Prop :=
       ToV (s.recordOor (s.oorOf ((List.range 64).map fun n => (f n, 4)))) t d (fun n => BitVec.ofNat 32 (ofLE (s.ldBytes (f n) 4))) lat 0 ∧
       (t.tile.thr.regs.getV d.toNat).badLane = none
     let contiguous (n : Nat) : Word := x + BitVec.ofInt 64 i.toInt + BitVec.ofNat 64 (4 * n)
     let stride (n : Nat) : Word := x + BitVec.ofNat 64 n * y
     let gather (n : Nat) : Word := x + BitVec.ofNat 64 (lane v n).toNat
     runs contiguous (loads contiguous 5) (.ldv d a i) ∧
     ((s.opS 1 b).ok = true → runs stride (loads stride 5) (.ldvs d a b)) ∧
     ((s.rdV b).badLane = none → runs gather (loads gather 8) (.ldvx d a b))) ∧
  (∀ (d a b : BitVec 5) (i : BitVec 16) (s : State), Unpoisoned s → s.tile.spec = none → s.storeBusy = false → s.tile.eng.mma = [] →
     s.tile.eng.msto = [] → (s.opS 0 a).ok = true → (s.rdV d).badLane = none →
     let x := (s.opS 0 a).val
     let y := (s.opS 1 b).val
     let v := (s.rdV b).bits
     let stores (f : Nat → Word) (e : Instr) : Prop :=
       (∀ n < 64, s.tile.oor (f n) 4 = none) → Gives e s fun t => RegsExcept [] s.tile.thr.regs t.tile.thr.regs ∧
         t.tile.thr.pc = s.tile.thr.pc ∧
         (∀ p, (∀ n < 64, ∀ j < 4, p ≠ (f n + BitVec.ofNat 64 j).toNat) → byteAt t p = byteAt s p) ∧
         ∀ n < 64, ∀ j < 4, (∀ m < 64, n < m → ∀ k < 4, f m + BitVec.ofNat 64 k ≠ f n + BitVec.ofNat 64 j) →
           byteAt t (f n + BitVec.ofNat 64 j).toNat = BitVec.ofNat 8 ((lane (s.rdV d).bits n).toNat / 256 ^ j)
     stores (fun n => x + BitVec.ofInt 64 i.toInt + BitVec.ofNat 64 (4 * n)) (.stv d a i) ∧
     ((s.opS 1 b).ok = true → stores (fun n => x + BitVec.ofNat 64 n * y) (.stvs d a b)) ∧
     ((s.rdV b).badLane = none → stores (fun n => x + BitVec.ofNat 64 (lane v n).toNat) (.stvx d a b)))

/-- R186, R219, R224: FILL and COPY on a confirmed path. Every in-range byte of the destination is the fill byte, or the byte that the load rule
gives for the source as it stood, so that overlapping ranges copy correctly; all other bytes and all registers stay; the engine is busy for
ceil(L/256) + 4 steps. R80, R186, R223: LDXA and STXA move all 64 exact accumulators as wire elements, and occupy the tile-store engine for
20 steps. -/
def Obligations.BlockMoves : Prop :=
  (∀ (d a b : BitVec 5) (s : State), Unpoisoned s → s.tile.spec = none → s.storeBusy = false → s.tile.eng.mma = [] →
     s.tile.eng.msto = [] →
     let fillTo := (s.opS 0 a).val
     let fillN := (s.opS 1 b).val.toNat % 2 ^ 32
     let copyTo := (s.opS 0 d).val
     let copyFrom := (s.opS 1 a).val
     let copyN := (s.opS 2 b).val.toNat % 2 ^ 32
     let moved (w : Word) (n : Nat) (f : Nat → Byte) (t : State) : Prop :=
       (∀ i < n, (w + BitVec.ofNat 64 i).toNat < 0x200000 → s.tile.inRange (w + BitVec.ofNat 64 i).toNat = true →
         byteAt t (w + BitVec.ofNat 64 i).toNat = f i) ∧
       (∀ x, ((∀ i < n, x ≠ (w + BitVec.ofNat 64 i).toNat) ∨ s.tile.inRange x = false) → byteAt t x = byteAt s x) ∧
       RegsExcept [] s.tile.thr.regs t.tile.thr.regs ∧ t.tile.eng.store = s.cycle + (n + 255) / 256 + 4
     ((s.opS 0 a).ok = true → (s.opS 1 b).ok = true → s.tile.oor fillTo fillN = none →
       Gives (.fill a b) s (moved fillTo fillN fun _ => BitVec.ofNat 8 ((s.opS 1 b).val.toNat / 2 ^ 32))) ∧
     ((s.opS 0 d).ok = true → (s.opS 1 a).ok = true → (s.opS 2 b).ok = true → s.tile.oor copyTo copyN = none →
       s.tile.oor copyFrom copyN = none →
       Gives (.copy d a b) s (moved copyTo copyN fun i => s.ldByte (copyFrom + BitVec.ofNat 64 i).toNat))) ∧
  (∀ (d : BitVec 1) (a : BitVec 5) (o : BitVec 13) (s : State), Unpoisoned s → s.tile.spec = none → s.storeBusy = false →
     s.tile.eng.mma = [] → s.tile.eng.msto = [] → (s.opS 0 a).ok = true → s.flying (.xa d.toNat) = false →
     let p := (s.opS 0 a).val + BitVec.ofInt 64 o.toInt
     s.tile.oor p 4096 = none →
     (Gives (.ldxa d a o) s fun t =>
       (∀ i < 64, t.tile.thr.regs.getXA d.toNat i =
         XA.ofWire (BitVec.ofNat 512 (ofLE (s.ldBytes (p + BitVec.ofNat 64 (64 * i)) 64)))) ∧
       Lands s t (.xa d.toNat) 24 0 ∧ t.tile.eng.store = s.cycle + 20 ∧ RegsExcept [.xa d.toNat] s.tile.thr.regs t.tile.thr.regs ∧
       ∀ x, byteAt t x = byteAt s x) ∧
     (Gives (.stxa d a o) s fun t =>
       (∀ i < 64, ∀ j < 64, byteAt t (p + BitVec.ofNat 64 (64 * i + j)).toNat =
         BitVec.ofNat 8 ((s.source.regs.getXA d.toNat i).wire.toNat / 256 ^ j)) ∧
       (∀ x, (∀ i < 4096, x ≠ (p + BitVec.ofNat 64 i).toNat) → byteAt t x = byteAt s x) ∧ t.tile.eng.store = s.cycle + 20 ∧
       RegsExcept [] s.tile.thr.regs t.tile.thr.regs))

/-- R155, R156, R225: ANVW and ANVR on a confirmed path, where the range lies in a region of the tile's own partition that is not in retention.
ANVW writes the region's bytes and ANVR the tile store's; no generation rises at issue. When the busy time of ANVWs has ended, ANVW_COMPLETE
raises AGENj once for each of them, and nothing else. -/
def Obligations.AnvilMoves : Prop :=
  ∀ (a b : BitVec 5) (s : State), Unpoisoned s →
    let x := (s.opS 0 a).val
    let y := (s.opS 1 b).val
    let j := y.toNat / 2 ^ 32 % 8
    let off := y.toNat % 2 ^ 22
    let n := y.toNat / 2 ^ 35
    let ab := (s.cr (0x0D8 + j)).toNat
    let w := ab % 128 * 65536 + off
    (s.tile.spec = none → s.storeBusy = false → s.tile.eng.mma = [] → s.tile.eng.msto = [] → s.tile.eng.anvw = [] →
      s.tile.ni.ents = [] → s.tile.ni.ghosts = [] → s.tile.latch = none →
      s.tile.retained j = none → (s.opS 0 a).ok = true → (s.opS 1 b).ok = true → y.toNat / 2 ^ 22 % 2 ^ 10 = 0 →
      s.partOf s.tile.ep = some (ab / 2 ^ 32 % 64) → off + n ≤ ab / 2 ^ 16 % 128 * 65536 → s.tile.oor x n = none →
      (Gives (.anvw a b) s fun t =>
        (∀ i < n, Sparse.get 0 t.tile.anvil (w + i) = s.ldByte (x + BitVec.ofNat 64 i).toNat) ∧
        (∀ p, p < w ∨ w + n ≤ p → Sparse.get 0 t.tile.anvil p = Sparse.get 0 s.tile.anvil p) ∧
        RegsExcept [] s.tile.thr.regs t.tile.thr.regs ∧ (∀ p, byteAt t p = byteAt s p) ∧
        t.tile.eng.store = s.cycle + (n + 255) / 256 + 4) ∧
      (Gives (.anvr a b) s fun t =>
        (∀ i < n, (x + BitVec.ofNat 64 i).toNat < 0x200000 → byteAt t (x + BitVec.ofNat 64 i).toNat = Sparse.get 0 s.tile.anvil (w + i)) ∧
        (∀ p, (∀ i < n, p ≠ (x + BitVec.ofNat 64 i).toNat) → byteAt t p = byteAt s p) ∧ t.tile.anvil = s.tile.anvil ∧
        RegsExcept [] s.tile.thr.regs t.tile.thr.regs ∧ t.tile.eng.store = s.cycle + (n + 255) / 256 + 4)) ∧
    (Gives .anvwComplete s fun t =>
      (∀ k < 8, t.cr (0x0D0 + k) =
        s.cr (0x0D0 + k) + BitVec.ofNat 64 (s.tile.eng.anvw.countP fun q => decide (q.until_ ≤ s.cycle) && decide (q.acc = k))) ∧
      (∀ q, q ∈ t.tile.eng.anvw ↔ q ∈ s.tile.eng.anvw ∧ s.cycle < q.until_) ∧ (∀ p, byteAt t p = byteAt s p) ∧
      ((∀ q ∈ s.tile.eng.anvw, q.acc < 8) → ∀ r, (∀ k < 8, r ≠ 0x0D0 + k) → t.cr r = s.cr r))

/-! ### The V slot (R228 to R248) -/

/-- R228 to R230, R232, R233, R235, R238, R241 to R243, R247: the lane operations. A selected lane receives the operation's value and an
unselected lane keeps its own; the flags are those of the selected lanes together. Where the operation's operand lanes carry right residues,
a selected lane's result does. -/
def Obligations.VectorLaneOperations : Prop :=
  ∀ (d a b r : BitVec 5) (e : BitVec 4) (m : BitVec 3) (n : BitVec 6) (k : BitVec 1) (s : State), Unpoisoned s →
    s.clash (.v d.toNat) = false →
    let x (i : Nat) : W32 := lane (s.rdV a).bits i
    let y (i : Nat) : W32 := lane (s.rdV b).bits i
    let z (i : Nat) : W32 := lane (s.rdV d).bits i
    let on (i : Nat) : Bool := (s.rdM m).getLsbD i
    let plain (f : Nat → W32) (i : Nat) : W32 × BitVec 6 := (f i, 0)
    let elem (w i : Nat) : Nat := (s.rdV a).bits.toNat / 2 ^ (w * i) % 2 ^ w
    let sh (i : Nat) : Nat := (y i).toNat % 32
    let top (i : Nat) : W32 := (((List.range 64).filter fun j => j / 32 = i / 32 ∧ on j).map fun j => fpAbs (x j)).foldl fpMax 0
    ∀ f ∈ ([(.vadd d a b m, 4, fun i => fpAdd s.rm (x i) (y i)), (.vsub d a b m, 4, fun i => fpSub s.rm (x i) (y i)),
        (.vmul d a b m, 4, fun i => fpMul s.rm (x i) (y i)), (.vmin d a b m, 4, plain fun i => fpMin (x i) (y i)),
        (.vmax d a b m, 4, plain fun i => fpMax (x i) (y i)), (.vabs d a m, 4, plain fun i => fpAbs (x i)),
        (.vneg d a m, 4, plain fun i => fpNeg (x i)),
        (.vfma d a b m, 4, fun i => fpFma s.rm (f32 (x i)) (f32 (y i)) (f32 (z i))),
        (.vfms d a b m, 4, fun i => fpFma s.rm (f32 (x i)).negate (f32 (y i)) (f32 (z i))),
        (.vrcp d a m, 10, fun i => fpRcp s.rm (x i)), (.vrsq d a m, 10, fun i => fpRsq s.rm (x i)),
        (.vexp2 d a m, 10, fun i => fpExp2 s.rm (x i)), (.vlog2 d a m, 10, fun i => fpLog2 s.rm (x i)),
        (.vtanh d a m, 10, fun i => fpTanh s.rm (x i)), (.vsigm d a m, 10, fun i => fpSigm s.rm (x i)),
        (.vsqrt d a m, 10, fun i => fpSqrt s.rm (x i)),
        (.viadd d a b m, 4, plain fun i => BitVec.ofNat 32 ((x i).toNat + (y i).toNat)),
        (.visub d a b m, 4, plain fun i => BitVec.ofInt 32 ((x i).toInt - (y i).toInt)),
        (.vimul d a b m, 4, plain fun i => BitVec.ofNat 32 ((x i).toNat * (y i).toNat)),
        (.vand d a b m, 4, plain fun i => x i &&& y i), (.vor d a b m, 4, plain fun i => x i ||| y i),
        (.vxor d a b m, 4, plain fun i => x i ^^^ y i),
        (.vshl d a b m, 4, plain fun i => BitVec.ofNat 32 ((x i).toNat * 2 ^ sh i)),
        (.vshr d a b m, 4, plain fun i => BitVec.ofNat 32 ((x i).toNat / 2 ^ sh i)),
        (.vsra d a b m, 4, plain fun i => BitVec.ofInt 32 ((x i).toInt / 2 ^ sh i)),
        (.vimin d a b m, 4, plain fun i => BitVec.ofInt 32 (min (x i).toInt (y i).toInt)),
        (.vimax d a b m, 4, plain fun i => BitVec.ofInt 32 (max (x i).toInt (y i).toInt)),
        (.vcvtBf2f d a m, 6, plain fun i => widen .bf16 (elem 16 i)), (.vcvtH2f d a m, 6, plain fun i => widen .f16 (elem 16 i)),
        (.vcvtE42f d a m, 6, plain fun i => widen .e4m3 (elem 8 i)), (.vcvtE52f d a m, 6, plain fun i => widen .e5m2 (elem 8 i)),
        (.vcvtF2i d a m, 6, fun i => (BitVec.ofInt 32 (fpToInt s.rm (-2 ^ 31) (2 ^ 31 - 1) (f32 (x i))).1,
          (fpToInt s.rm (-2 ^ 31) (2 ^ 31 - 1) (f32 (x i))).2)),
        (.vcvtI2f d a m, 6, fun i => intToFp s.rm (x i).toInt), (.vbmax d a m, 8, plain top),
        (.vbcast d r m, 4, plain fun _ => BitVec.ofNat 32 (s.opS 0 r).val.toNat), (.vbcastf d e m, 4, plain fun _ => s.opF 0 e),
        (.vshuf d a b m, 4, plain fun i => x ((y i).toNat % 64)),
        (.vslide d a b m n, 4, plain fun i => if i + n.toNat ≤ 63 then x (i + n.toNat) else y (i + n.toNat - 64)),
        (.vlane d m, 4, plain fun i => BitVec.ofNat 32 i),
        (.vxrdF32 d k m, 8, fun i => pack32 ((s.rdXA k i).read .f32)),
        (.vxrdBf16 d k m, 8, fun i => pack32 ((s.rdXA k i).read .bf16))] : List (Instr × Nat × (Nat → W32 × BitVec 6))),
      Gives f.1 s fun t => ∃ flags : BitVec 6,
        ToV s t d (fun i => if on i then (f.2.2 i).1 else z i) f.2.1 flags ∧
        (∀ j < 6, flags.getLsbD j = true ↔ ∃ i < 64, on i = true ∧ (f.2.2 i).2.getLsbD j = true) ∧
        ∀ i < 64, (on i = false → (t.tile.thr.regs.getV d.toNat).laneRes i = (s.rdV d).laneRes i) ∧
          (on i = true → LaneOk (s.rdV a) i → LaneOk (s.rdV b) i → LaneOk (t.tile.thr.regs.getV d.toNat) i)

/-- R75, R229, R238, R240: the narrowing conversions and VPACK4 write packed elements, as R228 places them. An unselected element keeps its
bits, as does everything above the 64 elements; VPACK4 writes all 64 codes with a valid sidecar for each block, and zero above them. VUNPK4
widens each code with its block's sidecar. R65, R76, R241: with a valid scale, the code that VPACK4 gives is the one whose value comes nearest to
x / SCALE; between two at equal distance it is even, and a regular one where both are; a quotient beyond the greatest value of its sign, or an
infinite one, takes that value's code with SAT; NaN takes code 0 with NV. VUNPK4 rounds SCALE times the code's value once to nearest even. -/
def Obligations.PackedConversions : Prop :=
  (∀ (x sc : W32) (extra : Nat), scaleOk sc = true → extra < 256 → extra % 128 ≠ 127 →
    let q : ℝ := fpReal x / fpReal sc
    let n : Bool := x.getLsbD 31
    let val (c : Nat) : ℝ := valReal (e2m1 extra c)
    let size (c : Nat) : ℝ := (if n then -1 else 1) * val c
    let r := packE2m1 x sc extra
    let side : Word := BitVec.ofNat 64 (sc.toNat + 2 ^ 32 * extra)
    (∀ c < 16, c ≠ 8 → val c = codeReal ⟨2, 1, 1, false⟩ c ∧ (e2m1 extra c).neg = decide (8 < c)) ∧ e2m1 extra 8 = Fmt.e4m3.decode extra ∧
    ((f32 x).isNan = true → r = (0, 0x10)) ∧
    (∀ c < 16, (∀ j < 16, size j ≤ size c ∧ (c = 8 → j ≠ 8 → val j ≠ val 8)) →
      ((f32 x = .inf n) → r = (c, 0x20)) ∧ (FiniteFp x → size c < |q| → r = (c, 0x25)) ∧
      (FiniteFp x → |q| ≤ size c → r.1 < 16 ∧ r.2 = (if val r.1 = q then 0 else 0x01) ∧
        (val r.1 = 0 → r.1 = if n = true ∧ extra = 0x80 then 8 else 0) ∧
        ∀ j < 16, |val r.1 - q| ≤ |val j - q| ∧ (|val j - q| = |val r.1 - q| → val j ≠ val r.1 → r.1 % 2 = 0) ∧
          (|val j - q| = |val r.1 - q| → val r.1 ≠ 0 → j ≠ 8 → (j % 2 = 0 ∨ val j = val r.1) → r.1 ≠ 8))) ∧
    ∀ c < 16, (val c * fpReal sc ≠ 0 → RoundsFp 0 (val c * fpReal sc) (unpackE2m1 side c)) ∧
      (val c = 0 → unpackE2m1 side c = (if c = 8 ∧ extra = 0x80 then 0x80000000 else 0, 0))) ∧
  ∀ (d a b : BitVec 5) (m : BitVec 3) (s : State), Unpoisoned s → s.clash (.v d.toNat) = false →
    let x (i : Nat) : FVal := f32 (lane (s.rdV a).bits i)
    let elem (w : Nat) (v : VBits) (i : Nat) : Nat := v.toNat / 2 ^ (w * i) % 2 ^ w
    let side (i : Nat) : Word := (s.rdV b).bits.extractLsb' (64 * (i / 32)) 64
    let scale (i : Nat) : W32 := (side i).extractLsb' 0 32
    let extra (i : Nat) : Nat := (side i).toNat / 2 ^ 32 % 256
    (∀ e ∈ ([(.vcvtF2bf d a m, 16, fun i => narrow .bf16 s.rm s.sat8 (x i)), (.vcvtF2h d a m, 16, fun i => narrow .f16 s.rm s.sat8 (x i)),
        (.vcvtF2e4 d a m, 8, fun i => narrow .e4m3 s.rm s.sat8 (x i)), (.vcvtF2e5 d a m, 8, fun i => narrow .e5m2 s.rm s.sat8 (x i))] :
        List (Instr × Nat × (Nat → Nat × BitVec 6))),
      Gives e.1 s fun t => ∃ flags : BitVec 6, Lands s t (.v d.toNat) 6 flags ∧ OnlyRegs [.v d.toNat] s t ∧
        (∀ i < 64, elem e.2.1 (t.tile.thr.regs.getV d.toNat).bits i =
          if (s.rdM m).getLsbD i then (e.2.2 i).1 % 2 ^ e.2.1 else elem e.2.1 (s.rdV d).bits i) ∧
        (∀ j < 2048, 64 * e.2.1 ≤ j → (t.tile.thr.regs.getV d.toNat).bits.getLsbD j = (s.rdV d).bits.getLsbD j) ∧
        ∀ j < 6, flags.getLsbD j = true ↔ ∃ i < 64, (s.rdM m).getLsbD i = true ∧ (e.2.2 i).2.getLsbD j = true) ∧
    ((∀ i < 64, sidecarOk (side i) = true) →
      (Gives (.vpack4 d a b) s fun t => ∃ flags : BitVec 6, Lands s t (.v d.toNat) 6 flags ∧ OnlyRegs [.v d.toNat] s t ∧
        (∀ i < 64, elem 4 (t.tile.thr.regs.getV d.toNat).bits i = (packE2m1 (lane (s.rdV a).bits i) (scale i) (extra i)).1 % 16) ∧
        (t.tile.thr.regs.getV d.toNat).bits.toNat < 2 ^ 256) ∧
      (Gives (.vunpk4 d a b) s fun t => ∃ flags : BitVec 6,
        ToV s t d (fun i => (unpackE2m1 (side i) (elem 4 (s.rdV a).bits i)).1) 6 flags))

/-- R229, R234, R236, R237, R244, R245: comparison and mask operations, selection, the moves of one lane and the reductions. VRMAX of no lane is
−inf and VRMIN of none is +inf. R234: VSUM is the exact sum rounded once under the rounding mode. R246 to R248: VXAC adds each selected lane
exactly and VXCLR clears the selected lanes; the others stay. R78: a contribution counts a NaN or an infinity, and else adds its exact value in
units of 2^-149; neither the order of contributions nor their grouping matters. R79: reading rounds the exact value once to nearest even; a NaN, and
infinities of both signs, give NaN, and infinities of one sign that infinity. -/
def Obligations.MasksReductionsAccumulation : Prop :=
  (∀ (x y z : XA) (a b : FVal) (c : W32), x.zs ≠ 3 → y.zs ≠ 3 →
    x.contribute .nan = { x with nan := true, zs := 2 } ∧
    x.contribute (.inf false) = { x with pinf := BitVec.ofNat 16 (min (x.pinf.toNat + 1) 0xFFFF), zs := 2 } ∧
    x.contribute (.inf true) = { x with ninf := BitVec.ofNat 16 (min (x.ninf.toNat + 1) 0xFFFF), zs := 2 } ∧
    x.contribute (f32 0x80000000) = (if x.zs = 0 then { x with zs := 1 } else x) ∧
    (FiniteFp c → c ≠ 0x80000000 → ∃ n : ℤ, (n : ℝ) = fpReal c * (2 : ℝ) ^ (149 : ℤ) ∧
      x.contribute (f32 c) = { x with n := x.n + BitVec.ofInt 384 n, zs := 2 }) ∧
    (x.contribute a).contribute b = (x.contribute b).contribute a ∧ (x.contribute a).combine y = (x.combine y).contribute a ∧
    x.combine y = y.combine x ∧ (x.combine y).combine z = x.combine (y.combine z) ∧ x.combine XA.clear = x) ∧
  (∀ (x : XA), ∀ f ∈ [Fmt.f32, .bf16], let r := x.read f
    let nan := if f = .f32 then 0x7FC00000 else 0x7FC0
    (x.nan = true → r = (nan, 0)) ∧ (x.nan = false → x.pinf ≠ 0 → x.ninf ≠ 0 → r = (nan, 0x10)) ∧
    (x.nan = false → x.pinf ≠ 0 → x.ninf = 0 → r = (f.maxCode + 1, 0)) ∧
    (x.nan = false → x.pinf = 0 → x.ninf ≠ 0 → r = (2 ^ (f.eb + f.mb) + f.maxCode + 1, 0)) ∧
    (x.nan = false → x.pinf = 0 → x.ninf = 0 → x.n = 0 → r = (if x.zs = 1 then 2 ^ (f.eb + f.mb) else 0, 0)) ∧
    (x.nan = false → x.pinf = 0 → x.ninf = 0 → x.n ≠ 0 → RoundsTo f 0 false (x.n.toInt * (2 : ℝ) ^ (-149 : ℤ)) r)) ∧
  (∀ (rm : Nat) (l : List W32), rm < 4 →
    let nan : Prop := ∃ x ∈ l, f32 x = .nan
    let inf (n : Bool) : Prop := ∃ x ∈ l, f32 x = .inf n
    ((∀ x ∈ l, FiniteFp x) →
      ((l.map fpReal).sum ≠ 0 → RoundsFp rm (l.map fpReal).sum (vsum rm l)) ∧
      ((∀ x ∈ l, x = 0) → vsum rm l = (0, 0)) ∧ (l ≠ [] → (∀ x ∈ l, x = 0x80000000) → vsum rm l = (0x80000000, 0)) ∧
      ((l.map fpReal).sum = 0 → (∃ x ∈ l, x ≠ 0) → (∃ x ∈ l, x ≠ 0x80000000) → vsum rm l = (if rm = 2 then 0x80000000 else 0, 0))) ∧
    (nan → vsum rm l = (0x7FC00000, 0)) ∧ (¬nan → inf true → inf false → vsum rm l = (0x7FC00000, 0x10)) ∧
    ∀ n : Bool, ¬nan → inf n → ¬inf (!n) → vsum rm l = (if n then 0xFF800000 else 0x7F800000, 0)) ∧
  (∀ (d a b : BitVec 5) (e : BitVec 4) (k i j m : BitVec 3) (n : BitVec 6) (c : BitVec 8) (s : State), Unpoisoned s → c.toNat ≤ 9 →
     s.clash (.m k.toNat) = false → s.clash (.v d.toNat) = false → s.clash (.s d.toNat) = false → s.clash (.f e.toNat) = false →
     let x (l : Nat) : W32 := lane (s.rdV a).bits l
     let y (l : Nat) : W32 := lane (s.rdV b).bits l
     let cond (l : Nat) : Bool :=
       if c.toNat < 4 then fpCmp c.toNat (x l) (y l)
       else (c = 4 ∧ x l = y l) ∨ (c = 5 ∧ x l ≠ y l) ∨ (c = 6 ∧ (x l).toInt < (y l).toInt) ∨ (c = 7 ∧ (y l).toInt ≤ (x l).toInt) ∨
         (c = 8 ∧ (x l).toNat < (y l).toNat) ∨ (c = 9 ∧ (y l).toNat ≤ (x l).toNat)
     let chosen : List W32 := ((List.range 64).filter fun l => (s.rdM m).getLsbD l).map x
     (Gives (.vcmp k a b m c) s fun t => ∃ v : Word, ToM s t k v 4 ∧ ∀ l < 64, v.getLsbD l = ((s.rdM m).getLsbD l && cond l)) ∧
     (∀ f ∈ ([(.vmovmToMask k a, (s.opS 0 a).val), (.vmand k i j, s.rdM i &&& s.rdM j), (.vmor k i j, s.rdM i ||| s.rdM j),
         (.vmnot k i, ~~~s.rdM i)] : List (Instr × Word)), Gives f.1 s fun t => ToM s t k f.2 4) ∧
     (Gives (.vmovmToScalar d i) s fun t => ToS s t d (s.rdM i) 4 0) ∧
     (Gives (.vsel d a b k) s fun t => ToV s t d (fun l => if (s.rdM k).getLsbD l then x l else y l) 4 0) ∧
     (Gives (.vgets d a n) s fun t => ToS s t d (BitVec.ofNat 64 (x n.toNat).toNat) 4 0 ∧
       (d ≠ 0 → (t.tile.thr.regs.getS d.toNat).res = (s.rdV a).laneRes n.toNat)) ∧
     (Gives (.vputs d a n) s fun t =>
       ToV s t d (fun l => if l = n.toNat then BitVec.ofNat 32 (s.opS 0 a).val.toNat else lane (s.rdV d).bits l) 4 0) ∧
     (Gives (.vrmax e a m) s fun t => ToF s t e (chosen.foldl fpMax 0xFF800000) 8 0) ∧
     (Gives (.vrmin e a m) s fun t => ToF s t e (chosen.foldl fpMin 0x7F800000) 8 0) ∧
     (Gives (.vsum e a m) s fun t => ToF s t e (vsum s.rm chosen).1 8 (vsum s.rm chosen).2)) ∧
  (∀ (k : BitVec 1) (a : BitVec 5) (m : BitVec 3) (s : State), Unpoisoned s → s.clash (.xa k.toNat) = false →
     let old (i : Nat) : XA := s.tile.thr.regs.getXA k.toNat i
     let x (i : Nat) : W32 := lane (s.rdV a).bits i
     ∀ e ∈ ([(.vxacF32 k a m, 6, fun i => (old i).contribute (f32 (x i))),
         (.vxacBf16 k a m, 6, fun i => (old i).contribute (Fmt.bf16.decode ((x i).toNat % 65536))),
         (.vxclr k m, 4, fun _ => XA.clear)] : List (Instr × Nat × (Nat → XA))),
       Gives e.1 s fun t => (∀ i < 64, t.tile.thr.regs.getXA k.toNat i = if (s.rdM m).getLsbD i then e.2.2 i else old i) ∧
         Lands s t (.xa k.toNat) e.2.1 0 ∧ OnlyRegs [.xa k.toNat] s t)

/-! ### The X slot (R157, R186, R249 to R257) -/

/-- R157, R186, R250, R251: MLDB and MLDBG on a confirmed path of a tile that stands alone, where the block is aligned and lies in a region of
the tile's own partition that is not in retention and that nothing is writing. The latch receives the block's bytes and the engine is busy
for 32 steps. MLDBG stalls while AGENj is behind sb and latches when it is equal. -/
def Obligations.LatchingBlocks : Prop :=
  ∀ (a b : BitVec 5) (f : BitVec 3) (s : State), Unpoisoned s → Confirmed s → f.toNat ≤ 4 → s.matrixBusy = false →
    s.tile.eng.anvw = [] → s.tile.ni.ents = [] → s.tile.ni.ghosts = [] →
    let x := (s.opS 0 a).val
    let j := x.toNat / 2 ^ 32 % 8
    let off := x.toNat % 2 ^ 22
    let n := [8448, 8448, 4352, 4352, 6144].getD f.toNat 0
    let ab := (s.cr (0x0D8 + j)).toNat
    let w := ab % 128 * 65536 + off
    s.tile.retained j = none → x &&& 0xFFFFFFF8FFC00000 = 0 → s.partOf s.tile.ep = some (ab / 2 ^ 32 % 64) → off % 256 = 0 →
    off + n ≤ ab / 2 ^ 16 % 128 * 65536 →
    let latches (t : State) : Prop :=
      t.tile.latch = some ⟨f.toNat, (List.range n).map fun i => Sparse.get 0 s.tile.anvil (w + i), w, n, s.cycle + 32, none⟩ ∧
      OnlyMatrix [] 32 s t
    (Gives (.mldb a f) s latches) ∧
    (s.cr (0x0D0 + j) = (s.opS 1 b).val → Gives (.mldbg a b f) s latches) ∧
    ((s.cr (0x0D0 + j) - (s.opS 1 b).val).toInt < 0 → Gives (.mldbg a b f) s fun t =>
      t.tile.iss.stall = some (.mldbg j) ∧ t.tile.latch = s.tile.latch ∧ t.tile.thr = s.tile.thr ∧ t.tile.eng = s.tile.eng)

/-- R70, R186, R252 to R254: the eight matrix multiplies on a confirmed path, with the block they need in the latch, right residues, the rows of
A in range and every scale valid. Element n of row i becomes the sum, rounded once, of the previous element and the products of row i of A
with column n of the block, each element times its scale; the rows of A are read as they stood at issue. The flags are those of all the sums.
R70, R71: a scaled element is the exact product. The sum of finite products and of a finite previous value is their exact sum rounded once to
nearest even; an exact zero is −0 when every term is −0, and else +0. A NaN among the terms gives NaN, infinity times zero and infinities of
both signs give NaN with NV, and infinities of one sign that infinity. -/
def Obligations.MatrixMultiply : Prop :=
  (∀ (x : FVal) (sc : W32), scaleOk sc = true → FiniteFp sc ∧ 0 < fpReal sc ∧ (x = .nan → scaled x sc = .nan) ∧ (∀ n, x = .inf n → scaled x sc = .inf n) ∧
    ∀ n m, x = .fin n m → ∃ q : Nat, scaled x sc = .fin n q ∧ (q : ℝ) * (2 : ℝ) ^ (-298 : ℤ) = m * (2 : ℝ) ^ (-149 : ℤ) * fpReal sc) ∧
  (∀ (xs ys : List FVal) (prev : W32),
    let ps := xs.zip ys
    let isFin (v : FVal) : Prop := ∃ n m, v = .fin n m
    let isInf (v : FVal) : Prop := ∃ n, v = .inf n
    let zero (v : FVal) : Prop := isFin v ∧ v.int = 0
    let lost (p : FVal × FVal) : Prop := (isInf p.1 ∧ zero p.2) ∨ (zero p.1 ∧ isInf p.2)
    let nan : Prop := (∃ p ∈ ps, p.1 = .nan ∨ p.2 = .nan) ∨ f32 prev = .nan
    let inf (n : Bool) : Prop := (∃ p ∈ ps, (isInf p.1 ∨ isInf p.2) ∧ (p.1.neg != p.2.neg) = n) ∨ f32 prev = .inf n
    let sum : ℝ := (ps.map fun p => (p.1.int * p.2.int : ℝ) * (2 : ℝ) ^ (-596 : ℤ)).sum + fpReal prev
    ((∀ p ∈ ps, isFin p.1 ∧ isFin p.2) → FiniteFp prev →
      (sum ≠ 0 → RoundsFp 0 sum (mmaDot xs ys prev)) ∧
      (sum = 0 → (prev = 0x80000000 ∧ ∀ p ∈ ps, (zero p.1 ∨ zero p.2) ∧ p.1.neg ≠ p.2.neg) → mmaDot xs ys prev = (0x80000000, 0)) ∧
      (sum = 0 → ¬(prev = 0x80000000 ∧ ∀ p ∈ ps, (zero p.1 ∨ zero p.2) ∧ p.1.neg ≠ p.2.neg) → mmaDot xs ys prev = (0, 0))) ∧
    ((∀ p ∈ ps, ¬lost p) → nan → mmaDot xs ys prev = (0x7FC00000, 0)) ∧
    ((∃ p ∈ ps, lost p) → mmaDot xs ys prev = (0x7FC00000, 0x10)) ∧
    ((∀ p ∈ ps, ¬lost p) → ¬nan → inf true → inf false → mmaDot xs ys prev = (0x7FC00000, 0x10)) ∧
    ∀ n : Bool, (∀ p ∈ ps, ¬lost p) → ¬nan → inf n → ¬inf (!n) → mmaDot xs ys prev = (if n then 0xFF800000 else 0x7F800000, 0)) ∧
  ∀ (k : BitVec 2) (a b c : BitVec 5) (l : Latch) (s : State), Unpoisoned s → s.tile.spec = none → s.matrixBusy = false →
    s.tile.latch = some l → l.poison = none → s.tile.iss.stored = [] → (s.opS 0 a).ok = true → (s.opS 1 b).ok = true →
    let rows := (s.rdV c).bits
    let at_ (i : Nat) : Word := (s.opS 0 a).val + BitVec.ofNat 64 i * (s.opS 1 b).val
    (∀ i < 64, scaleOk (lane rows i) = true) → (l.fmt < 4 → ∀ n < 64, scaleOk (l.colScale n) = true) →
    (4 ≤ l.fmt → ∀ n < 64, ∀ q < 4, sidecarOk (l.colSidecar n q) = true) →
    ∀ e ∈ ([(.mmaBb k a b c, .bf16, 0, 64, 128), (.mmaHh k a b c, .f16, 1, 64, 128), (.mmaEe k a b c, .e4m3, 2, 64, 64),
        (.mmaEf k a b c, .e4m3, 3, 64, 64), (.mmaFe k a b c, .e5m2, 2, 64, 64), (.mmaFf k a b c, .e5m2, 3, 64, 64),
        (.mmaEq k a b c, .e4m3, 4, 128, 64), (.mmaBq k a b c, .bf16, 4, 128, 128)] : List (Instr × Fmt × Nat × Nat × Nat)),
      let bytes := e.2.1.width / 8
      l.fmt = e.2.2.1 → (∀ i < 64, s.tile.oor (at_ i) (e.2.2.2.1 * bytes) = none) →
      Gives e.1 s fun t =>
        let elem (i q : Nat) : FVal := e.2.1.decode (ofLE (s.ldBytes (at_ i + BitVec.ofNat 64 (bytes * q)) bytes))
        let row (i : Nat) : List FVal := (List.range e.2.2.2.1).map fun q => scaled (elem i q) (lane rows i)
        (∀ i < 64, ∀ n < 64, lane (t.tile.thr.regs.getRow k.toNat i) n =
          (mmaDot (row i) (l.column n) (lane (s.tile.thr.regs.getRow k.toNat i) n)).1) ∧
        (∃ flags, Lands s t (.acc k.toNat) (e.2.2.2.2 + 16) flags ∧ ∀ j < 6, flags.getLsbD j = true ↔
          ∃ i < 64, ∃ n < 64, (mmaDot (row i) (l.column n) (lane (s.tile.thr.regs.getRow k.toNat i) n)).2.getLsbD j = true) ∧ t.tile.latch = s.tile.latch ∧
        OnlyMatrix [.acc k.toNat] e.2.2.2.2 s t

/-- R186, R254 to R256: the accumulator moves on a confirmed path with an idle engine. MZERO and MBIAS write every row, MWR and MRD the row that
sa[5:0] names; MSTO stores the 64 rows, each element as f32 or narrowed to nearest even, and a byte that two rows write keeps the higher
row's. -/
def Obligations.AccumulatorMoves : Prop :=
  ∀ (k f : BitVec 2) (a b d : BitVec 5) (s : State), Unpoisoned s → s.tile.spec = none → s.matrixBusy = false →
    s.clash (.v d.toNat) = false → s.flying (.acc k.toNat) = false → f.toNat ≤ 2 →
    let x := (s.opS 0 a).val
    let row (i : Nat) : VBits := s.source.regs.getRow k.toNat i
    let filled (v : VBits) (t : State) : Prop :=
      (∀ i < 64, t.tile.thr.regs.getRow k.toNat i = v) ∧ OnlyMatrix [.acc k.toNat] 2 s t
    (Gives (.mzero k) s (filled 0)) ∧
    (Gives (.mbias b k) s (filled (s.rdV b).bits)) ∧
    ((s.opS 0 a).ok = true → Gives (.mrd d a k) s fun t => (t.tile.thr.regs.getV d.toNat).bits = row (x.toNat % 64) ∧
      Lands s t (.v d.toNat) 8 0 ∧ OnlyMatrix [.v d.toNat] 1 s t) ∧
    ((s.opS 0 a).ok = true → Gives (.mwr a b k) s fun t =>
      (∀ i < 64, t.tile.thr.regs.getRow k.toNat i = if i = x.toNat % 64 then (s.rdV b).bits else s.tile.thr.regs.getRow k.toNat i) ∧
      OnlyMatrix [.acc k.toNat] 1 s t) ∧
    let n := if f = 0 then 256 else 128
    let at_ (i : Nat) : Word := x + BitVec.ofNat 64 i * (s.opS 1 b).val
    let stored (i j : Nat) : Byte :=
      if f = 0 then BitVec.ofNat 8 ((row i).toNat / 256 ^ j)
      else BitVec.ofNat 8 ((narrow (if f = 1 then .bf16 else .f16) 0 false (f32 (lane (row i) (j / 2)))).1 / 256 ^ (j % 2))
    ((s.opS 0 a).ok = true → (s.opS 1 b).ok = true → s.tile.eng.mma = [] → s.tile.eng.msto = [] → (∀ i < 64, s.tile.oor (at_ i) n = none) →
      Gives (.msto a b f k) s fun t => RegsExcept [] s.tile.thr.regs t.tile.thr.regs ∧
        t.tile.eng.matrix = s.cycle + (if f = 0 then 64 else 32) ∧
        (∀ i < 64, ∀ j < n, (∀ m < 64, i < m → ∀ q < n, at_ m + BitVec.ofNat 64 q ≠ at_ i + BitVec.ofNat 64 j) →
          byteAt t (at_ i + BitVec.ofNat 64 j).toNat = stored i j) ∧
        ∀ p, (∀ i < 64, ∀ j < n, p ≠ (at_ i + BitVec.ofNat 64 j).toNat) → byteAt t p = byteAt s p)

/-! ### The N slot (R258 to R274) -/

/-- R83, R91 to R93, R96, R104, R261, R264: the sends to a tile of the package that takes part, with right residues, legal flags and the buffer
in range. The entry records its operands; the first packet carries the pair's next SEQ. A message of at most the group's limit, and every
SENDV, goes whole as EAGER, marked LAST; a longer one goes as RTS without bytes. A SENDT whose TSEND has not come is held and sends nothing. R261, R367: a
flag that the instruction does not permit, a reserved one, and a length above 16,777,215 complete the request DENIED in the step after issue with
nothing sent; R264, R374: so does a SEND to a server, to a reserved endpoint or to a harvested tile UNREACHABLE, and one to another package's halo
endpoint DENIED. The model's own: FLEN of a record of too great a length is the length modulo 2^24 (log 100), and a server takes no messages (log
70). -/
def Obligations.SendInstructions : Prop :=
  ∀ (d : BitVec 4) (a b c : BitVec 5) (s : State), NetReady s → s.tile.thr.regs.getH d.toNat = none →
    s.tile.ni.full .send = false →
    let x := (s.opS 0 a).val
    let y := (s.opS 1 b).val
    let p := (s.opS 2 c).val
    let rank : Rank := BitVec.ofNat 32 x.toNat
    let len := x.toNat / 2 ^ 32
    let tag : W32 := BitVec.ofNat 32 y.toNat
    let group := sbGroup s y
    let limit := (Sparse.get (512, 0) s.tile.ni.groups group.toNat).1
    let seq := Sparse.get 0 s.tile.ni.seqOut (rank.toNat * 65536 + group.toNat)
    let data := (List.range len).map fun i => byteAt s (p + BitVec.ofNat 64 i).toNat
    let entered (k : EKind) (n : Nat) (t : State) (ph : Phase) : Prop := ∃ e, Enters k d [] s t e ∧ e.rank = rank ∧ e.tag = tag ∧
      e.group = group ∧ e.len = n ∧ e.nb = sbBarrier y ∧ e.phase = ph ∧ e.rcd.source = rank ∧ e.rcd.tag = tag ∧ e.rcd.group = group
    let goes (kind hf : BitVec 8) (n : Nat) (l : List Byte) (off : W32) (t : State) : Prop :=
      (Sends s t fun q => q.payload = l ∧ q.poison = false ∧ q.hdr.dest = rank ∧ q.hdr.src = s.rankOf s.tile.ep ∧ q.hdr.tag = tag ∧
        q.hdr.group = group ∧ q.hdr.kind = kind ∧ q.hdr.hflags = hf ∧ q.hdr.len = n ∧ q.hdr.seq = seq ∧ q.hdr.offset = off) ∧
      Sparse.get 0 t.tile.ni.seqOut (rank.toNat * 65536 + group.toNat) = seq + 1
    let sent (k : EKind) (hf : BitVec 8) (off : W32) (t : State) : Prop :=
      if len ≤ limit ∨ len = 0 then entered k len t .awaitAck ∧ goes 0x01 (hf ||| 8) len data off t
      else entered k len t .awaitCts ∧ goes 0x02 hf len [] off t
    (s.ownPkg rank = true → rankEp rank < 0x400 → rankEp rank ∉ s.mgmt.harvest → sbLegal y false false false →
      (Gives (.sendv d a b c) s fun t =>
        entered .sendv 256 t .awaitAck ∧ goes 0x01 8 256 (toLE 256 (s.rdV c).bits.toNat) 0 t) ∧
      ((s.opS 0 a).ok = true → (s.opS 2 c).ok = true → len ≤ 16777215 → s.tile.oor p len = none →
        (Gives (.send d a b c) s (sent .send 0 0)) ∧
        (Gives (.sendr d a b c) s (sent .sendr 2 0)) ∧
        ((s.rdC 0x016).toNat ≤ s.time → Gives (.sendt d a b c) s (sent .sendt 1 (BitVec.ofNat 32 (s.rdC 0x016).toNat))) ∧
        (s.time < (s.rdC 0x016).toNat → s.tile.ni.heldTimed < 16 → Gives (.sendt d a b c) s fun t =>
          entered .sendt len t .held ∧ t.torus = s.torus))) ∧
    (sbLegal y false false false → (s.opS 0 a).ok = true → (s.opS 2 c).ok = true → len ≤ 16777215 → s.tile.oor p len = none →
      let ep := rankEp rank
      (ep < 0x400 ∧ s.ownPkg rank = true ∧ ep ∈ s.mgmt.harvest ∨ 0x400 ≤ ep ∧ ep < 0x4C0 ∨ 0x4C4 ≤ ep ∧ ep < 0x500 ∨ 0x540 ≤ ep →
        Gives (.send d a b c) s (EndsNext 0x07 .send d len s)) ∧
      (ep = 0x4C3 → s.ownPkg rank = false → Gives (.send d a b c) s (EndsNext 0x09 .send d len s))) ∧
    (¬sbLegal y false false false → Gives (.sendv d a b c) s (Denied .sendv d 256 s)) ∧
    (¬sbLegal y false false false ∨ 16777215 < len → (s.opS 0 a).ok = true → (s.opS 2 c).ok = true →
      (len ≤ 16777215 → s.tile.oor p len = none) →
      (Gives (.send d a b c) s (Denied .send d (len % 2 ^ 24) s)) ∧ (Gives (.sendr d a b c) s (Denied .sendr d (len % 2 ^ 24) s)) ∧
      (s.tile.ni.heldTimed < 16 → Gives (.sendt d a b c) s (Denied .sendt d (len % 2 ^ 24) s)))

/-- R87, R100, R102, R105, R265, R273: the instructions that post. With right residues, legal flags, the buffer in range (POSTA: its offset in a
region of the tile's partition) and no unexpected message, the new entry records source, tag, mask, group, length and buffer; POSTM takes
pool units for its hold copy. PUBL opens a contrail, and SUBS also sends SUBSCRIBE to the publisher. R261, R367: what breaks a limit completes
DENIED in the step after issue. The model's own: FLEN of such a record is the length modulo 2^24 (log 100). -/
def Obligations.PostingInstructions : Prop :=
  ∀ (d : BitVec 4) (a b c : BitVec 5) (s : State), NetReady s → s.tile.thr.regs.getH d.toNat = none → s.tile.ni.unexp = [] →
    s.tile.ni.full .post = false → s.tile.ni.full .publ = false → (s.opS 0 a).ok = true → (s.opS 2 c).ok = true →
    let x := (s.opS 0 a).val
    let y := (s.opS 1 b).val
    let p := (s.opS 2 c).val
    let len := x.toNat / 2 ^ 32
    let j := p.toNat / 2 ^ 32 % 8
    let off := p.toNat % 2 ^ 22
    let ab := (s.cr (0x0D8 + j)).toNat
    let anvil := p &&& 0xFFFFFFF8FFC00000 = 0 ∧ s.partOf s.tile.ep = some (ab / 2 ^ 32 % 64) ∧ off < ab / 2 ^ 16 % 128 * 65536
    let posted (k : EKind) (buf : Buf) (t : State) (e : Ent) : Prop := Enters k d [] s t e ∧ e.phase = .posted ∧
      e.rank = BitVec.ofNat 32 x.toNat ∧ e.any = y.getLsbD 56 ∧ e.tag = BitVec.ofNat 32 y.toNat ∧
      e.mask = BitVec.ofNat 32 (s.rdC 0x015).toNat ∧ e.group = sbGroup s y ∧ e.nb = sbBarrier y ∧ e.len = len ∧ e.buf = buf ∧
      t.torus = s.torus
    (¬sbLegal y true false false ∨ 16777215 < len → (len ≤ 16777215 → s.tile.oor p len = none) →
      Gives (.post d a b c) s (Denied .post d (len % 2 ^ 24) s)) ∧
    (¬sbLegal y true false false ∨ len = 0 ∨ 2048 < len ∨ s.allot s.tile.ep ((len + 63) / 64) = none →
      (1 ≤ len → len ≤ 2048 → s.tile.oor p len = none) → Gives (.postm d a b c) s (Denied .postm d (len % 2 ^ 24) s)) ∧
    (¬sbLegal y true false false ∨ 16777215 < len → anvil → Gives (.posta d a b c) s (Denied .posta d (len % 2 ^ 24) s)) ∧
    (let fits : Prop := (y.getLsbD 53 = true → anvil ∧ off + len ≤ ab / 2 ^ 16 % 128 * 65536) ∧
       (y.getLsbD 53 = false → len ≤ 16777215 → s.tile.oor p len = none)
     let opened (e : Ent) : Prop := e ∈ s.tile.ni.contrails ∧ e.tag = BitVec.ofNat 32 y.toNat ∧ e.group = sbGroup s y
     (¬sbLegal y false false true ∨ 16777215 < len ∨ 8 ≤ s.tile.ni.contrails.length ∨ (∃ e, opened e) → fits →
       Gives (.publ d a b c) s (Denied .publ d (len % 2 ^ 24) s)) ∧
     (¬sbLegal y false false true ∨ 16777215 < len ∨ s.ownPkg (BitVec.ofNat 32 x.toNat) = false ∨ 0x400 ≤ rankEp (BitVec.ofNat 32 x.toNat) →
       (y.getLsbD 53 = true → anvil) → (y.getLsbD 53 = false → len ≤ 16777215 → s.tile.oor p len = none) →
       Gives (.subs d a b c) s (Denied .subs d (len % 2 ^ 24) s))) ∧
    (sbLegal y true false false → len ≤ 16777215 → s.tile.oor p len = none → Gives (.post d a b c) s fun t =>
      ∃ e, posted .post (.store p.toNat s.tile.ranges) t e) ∧
    (sbLegal y true false false → 1 ≤ len → len ≤ 2048 → s.tile.oor p len = none → s.allot s.tile.ep ((len + 63) / 64) ≠ none →
      Gives (.postm d a b c) s fun t => ∃ e, posted .postm (.store p.toNat s.tile.ranges) t e ∧ e.units.length = (len + 63) / 64 ∧
        ∀ u ∈ e.units, u ∉ s.tile.ni.usedUnits) ∧
    (sbLegal y true false false → len ≤ 16777215 → anvil → Gives (.posta d a b c) s fun t => ∃ e, posted .posta (.anvil j off) t e) ∧
    (sbLegal y false false true → len ≤ 16777215 → (y.getLsbD 53 = true → anvil ∧ off + len ≤ ab / 2 ^ 16 % 128 * 65536) →
      (y.getLsbD 53 = false → s.tile.oor p len = none) →
      let buf := if y.getLsbD 53 then Buf.anvil j off else .store p.toNat s.tile.ranges
      (s.tile.ni.contrails.length < 8 → (∀ e ∈ s.tile.ni.contrails, e.tag ≠ BitVec.ofNat 32 y.toNat ∨ e.group ≠ sbGroup s y) →
        Gives (.publ d a b c) s fun t => ∃ e, Enters .publ d [] s t e ∧ e.phase = .open_ ∧ e.rank = s.rankOf s.tile.ep ∧
          e.tag = BitVec.ofNat 32 y.toNat ∧ e.group = sbGroup s y ∧ e.len = len ∧ e.buf = buf ∧ t.torus = s.torus) ∧
      (s.ownPkg (BitVec.ofNat 32 x.toNat) = true → rankEp (BitVec.ofNat 32 x.toNat) < 0x400 →
        rankEp (BitVec.ofNat 32 x.toNat) ∉ s.mgmt.harvest → Gives (.subs d a b c) s fun t => ∃ e, Enters .subs d [] s t e ∧
          e.phase = .posted ∧ e.rank = BitVec.ofNat 32 x.toNat ∧ e.tag = BitVec.ofNat 32 y.toNat ∧ e.group = sbGroup s y ∧ e.len = len ∧
          e.buf = buf ∧ Sends s t fun q => q.hdr.kind = 0x09 ∧ q.hdr.dest = e.rank ∧ q.hdr.src = s.rankOf s.tile.ep ∧
            q.hdr.tag = e.tag ∧ q.hdr.group = e.group))

/-- R119, R126, R135 to R137, R148 to R150, R271, R272: the server requests on operands within their limits, with every server in service. The
entry holds the shards of the request's pieces; the first packet of the first shard begins to leave, 2 KiB of its bytes or all of them, and sets
its server's TOUCH bit; the other packets wait in order. A writing request carries the bytes of its buffer as they stand at issue. R261, R367:
what breaks a limit completes DENIED in the step after issue, and TOUCH is unchanged; R136: a GET or PUT of no byte completes OK then. The model's own: a shard sets its server's TOUCH bit when its
first packet leaves, so that only the first shard's is set at issue (log 89; the worked example of R272 shows both), and a reserved APPLY has
width 0 (log 33). -/
def Obligations.ServerRequests : Prop :=
  ∀ (d : BitVec 4) (a b c : BitVec 5) (s : State), NetReady s → s.tile.thr.regs.getH d.toNat = none → s.tile.ni.full .get = false →
    s.mgmt.outMask = [] → (s.opS 0 a).ok = true → (s.opS 1 b).ok = true → (s.opS 2 c).ok = true →
    let x := (s.opS 0 a).val
    let y := (s.opS 1 b).val
    let z := (s.opS 2 c).val
    let lo := z.toNat % 2 ^ 32
    let hi := z.toNat / 2 ^ 32
    let va := x.toNat
    let bytes (p : Word) (n : Nat) : List Byte := (List.range n).map fun i => byteAt s (p + BitVec.ofNat 64 i).toNat
    let inside (p : Word) (n : Nat) : Prop := s.tile.oor p n = none
    let shards (kind : Nat) (ps : List Piece) (data : List Byte) (aop : Nat) (nt : Option (Rank × W32)) : List Shard :=
      shardsOf (s.rankOf s.tile.ep) s.tile.ni.nextXid.toNat ((s.rdC 0x012).toNat % 65536) (sbGroup s y) kind ps data aop nt []
    let asked (k : EKind) (len : Nat) (buf : Nat) (kind : Nat) (qs : List Shard) (t : State) : Prop :=
      ∃ e, Enters k d [.cr 0x040, .cr 0x041, .cr 0x042] s t e ∧ e.phase = .shards ∧ e.group = sbGroup s y ∧ e.nb = sbBarrier y ∧
        e.len = len ∧ e.buf = .store buf s.tile.ranges ∧ e.rcd.flen = len ∧ e.shards.map (fun h => h.shard) = qs ∧
        (∀ h ∈ e.shards, h.attempts = 1 ∧ h.code = none) ∧
        ∃ q rest u, qs = q :: rest ∧ t.torus = s.torus ++ [u] ∧ u.src = s.tile.ep ∧ u.dst = 0x400 + q.srv ∧
          (if q.data.length ≤ 2048 then u.ev = .shard kind q ∧ e.unsent = rest.map (fun x => x.no) ∧ e.part = 0
           else u.ev = .shardPart kind q ∧ e.unsent = qs.map (fun x => x.no) ∧ e.part = 2048) ∧
          ∀ n < 192, (t.cr (0x040 + n / 64)).getLsbD (n % 64) = true ↔ (s.cr (0x040 + n / 64)).getLsbD (n % 64) = true ∨ q.srv = n
    let few (ps : List Piece) : Prop := ps ≠ [] ∧ (homesOf ps).length ≤ 64
    let low := y.toNat % 2 ^ 32
    (sbLegal y false true false → 1 ≤ low → low ≤ 1048576 → va + low ≤ 2 ^ 48 → inside z low → few (rangePieces 0 va low) →
      (y.getLsbD 54 = false → Gives (.get d a b c) s (asked .get low z.toNat 0 (shards 0 (rangePieces 0 va low) [] 0 none))) ∧
      (y.getLsbD 54 = false →
        Gives (.put d a b c) s (asked .put low z.toNat 1 (shards 1 (rangePieces 0 va low) (bytes z low) 0 none))) ∧
      (y.getLsbD 54 = true → s.notifyOk (BitVec.ofNat 32 (s.rdC 0x017).toNat) = true → (homesOf (rangePieces 0 va low)).length = 1 →
        Gives (.put d a b c) s (asked .put low z.toNat 1 (shards 1 (rangePieces 0 va low) (bytes z low) 0
          (some (BitVec.ofNat 32 (s.rdC 0x017).toNat, BitVec.ofNat 32 ((s.rdC 0x017).toNat / 2 ^ 32))))))) ∧
    (sbLegal y false false false →
      (low = 0 → x.toNat % 8 = 0 → inside x 48 →
        let bx := readBox (s.ldBytes x 48)
        bx.ok = true → bx.empty = false → inside z bx.bytes → few bx.pieces →
        (Gives (.getb d a b c) s (asked .getb bx.bytes z.toNat 2 (shards 2 bx.pieces [] 0 none))) ∧
        (Gives (.putb d a b c) s (asked .putb bx.bytes z.toNat 3 (shards 3 bx.pieces (bytes z bx.bytes) 0 none)))) ∧
      (va < 2 ^ 48 →
        let n := low % 2 ^ 11
        let es := 4 * 2 ^ (low / 2 ^ 12)
        let ps := listPieces va es ((List.range n).map fun i => ofLE (bytes (BitVec.ofNat 64 (hi + 4 * i)) 4))
        1 ≤ n → n ≤ 1024 → low / 2 ^ 11 % 2 = 0 → low / 2 ^ 12 < 7 → inside (BitVec.ofNat 64 lo) (n * es) →
        inside (BitVec.ofNat 64 hi) (4 * n) → few ps →
        (Gives (.gath d a b c) s (asked .gath (n * es) lo 4 (shards 4 ps [] 0 none))) ∧
        (Gives (.scat d a b c) s (asked .scat (n * es) lo 5 (shards 5 ps (bytes (BitVec.ofNat 64 lo) (n * es)) 0 none)))) ∧
      (va < 2 ^ 48 → low < 16 →
        let w := if low = 0 ∨ low = 10 then 4 else if low = 11 then 64 else if low < 12 then 8 else 0
        inside (BitVec.ofNat 64 lo) w → inside (BitVec.ofNat 64 hi) w →
        Gives (.apply d a b c) s (asked .apply w hi 6 (shards 6 [⟨0, va, w⟩] (bytes (BitVec.ofNat 64 lo) w) low none))) ∧
      (va < 2 ^ 48 → low = 0 → inside (BitVec.ofNat 64 lo) 16 → inside (BitVec.ofNat 64 hi) 8 →
        Gives (.cas d a b c) s (asked .cas 8 hi 7 (shards 7 [⟨0, va, 8⟩] (bytes (BitVec.ofNat 64 lo) 16) 0 none)))) ∧
    (let denied (k : EKind) (t : State) : Prop := ∃ n, Denied k d n s t
     let many (ps : List Piece) : Prop := 64 < (homesOf ps).length
     let notify : Rank := BitVec.ofNat 32 (s.rdC 0x017).toNat
     let long : Prop := 2 ^ 48 ≤ va ∨ 1048576 < low ∨ 2 ^ 48 < va + low ∨ (low ≤ 1048576 ∧ many (rangePieces 0 va low))
     (sbLegal y false false false → va < 2 ^ 48 → low = 0 → inside z 0 →
       (Gives (.get d a b c) s (EndsNext 0x00 .get d 0 s)) ∧ Gives (.put d a b c) s (EndsNext 0x00 .put d 0 s)) ∧
     ((low ≤ 1048576 → inside z low) →
       (¬sbLegal y false false false ∨ long → Gives (.get d a b c) s (denied .get)) ∧
       (¬sbLegal y false true false ∨ long ∨ (y.getLsbD 54 = true ∧ (s.notifyOk notify = false ∨ 1 < (homesOf (rangePieces 0 va low)).length)) →
         Gives (.put d a b c) s (denied .put))) ∧
     (inside x 48 →
       let bx := readBox (s.ldBytes x 48)
       let good : Prop := x.toNat % 8 = 0 ∧ (bx.empty = true ∨ bx.ok = true)
       (good → inside z (if bx.empty then 0 else bx.bytes)) →
       ¬sbLegal y false false false ∨ low ≠ 0 ∨ ¬good ∨ (good ∧ bx.empty = false ∧ many bx.pieces) →
       (Gives (.getb d a b c) s (denied .getb)) ∧ Gives (.putb d a b c) s (denied .putb)) ∧
     (let n := low % 2 ^ 11
      let code := low / 2 ^ 12 % 8
      let counted : Prop := 1 ≤ n ∧ n ≤ 1024
      (counted → inside (BitVec.ofNat 64 hi) (4 * n)) → (counted → code ≠ 7 → inside (BitVec.ofNat 64 lo) (n * (4 * 2 ^ code))) →
      ¬sbLegal y false false false ∨ 2 ^ 48 ≤ va ∨ ¬counted ∨ code = 7 ∨ low / 2 ^ 11 % 2 = 1 ∨ 2 ^ 15 ≤ low ∨
        many (listPieces va (4 * 2 ^ code) ((List.range n).map fun i => ofLE (bytes (BitVec.ofNat 64 (hi + 4 * i)) 4))) →
      (Gives (.gath d a b c) s (denied .gath)) ∧ Gives (.scat d a b c) s (denied .scat)) ∧
     ((∀ w ∈ [0, 4, 8, 64], inside (BitVec.ofNat 64 lo) w ∧ inside (BitVec.ofNat 64 hi) w) →
       ¬sbLegal y false false false ∨ 2 ^ 48 ≤ va ∨ 16 ≤ low → Gives (.apply d a b c) s (denied .apply)) ∧
     (inside (BitVec.ofNat 64 lo) 16 → inside (BitVec.ofNat 64 hi) 8 →
       ¬sbLegal y false false false ∨ 2 ^ 48 ≤ va ∨ low ≠ 0 → Gives (.cas d a b c) s (denied .cas)))

/-- R100, R266 to R270, R273: what is done with an entry that a handle names, on a confirmed path of a tile that stands alone with MSG_STATUS
disabled. WAITM stalls before the entry is done and else observes it and gives the predicate by its status; TESTM never stalls; MREC reads a
word of the record, HELD being set in a mailbox's while its delivery waits for a RELEASE; CANCEL ends an unmatched receive CANCELLED; UNPUB ends an idle contrail OK; FREEH frees a completed entry. PROBE answers
with length and source of the first unexpected message offered that fits. R267, R331, R441: with MSG_STATUS enabled, WAITM and TESTM that observe a
failure raise it after the bundle, with the status and the handle's number in TINFO, their own effects standing. -/
def Obligations.HandleInstructions : Prop :=
  (∀ (k : BitVec 4) (j : BitVec 3) (e : Ent) (s : State), Unpoisoned s → Confirmed s → s.tile.ep < 0x400 → (s.cr 0x023).getLsbD 62 = true →
     s.tile.iss.hold = true → s.clash (.p j.toNat) = false → s.rdH k = some e.id → e.id ≠ 0 → s.tile.ni.ent e.id = some e → e.phase = .done →
     e.kind ≠ .postm → e.rcd.status ≠ 0x00 → e.rcd.status ≠ 0x01 →
     ∀ x ∈ ([(.waitm k j, false), (.testm k j, true)] : List (Instr × Bool)), Gives x.1 s fun t =>
       t.tile.thr.pend = s.tile.thr.pend ++ [⟨0x08, BitVec.ofNat 64 (e.rcd.status.toNat + k.toNat * 256), s.tile.iss.addr⟩] ∧
       t.tile.iss.trapped = some true ∧ t.tile.thr.regs.getP j.toNat = (if j = 0 then true else x.2) ∧
       t.tile.ni.ents = (s.tile.ni.ents.map fun y => if y.id = e.id then { y with observed := true } else y) ∧
       RegsExcept [.p j.toNat] s.tile.thr.regs t.tile.thr.regs ∧ t.tile.thr.pc = s.tile.thr.pc ∧ ∀ x, byteAt t x = byteAt s x) ∧
  ∀ (k : BitVec 4) (j : BitVec 3) (d a b : BitVec 5) (w : BitVec 2) (e : Ent) (s : State), Unpoisoned s → Confirmed s → s.tile.ep < 0x400 →
    (s.cr 0x023).getLsbD 62 = false → s.clash (.p j.toNat) = false → s.clash (.s d.toNat) = false →
    let regs (rs : List Reg) (t : State) : Prop :=
      RegsExcept rs s.tile.thr.regs t.tile.thr.regs ∧ t.tile.iss = s.tile.iss ∧ t.tile.thr.pc = s.tile.thr.pc
    let still (t : State) : Prop := ∀ x, byteAt t x = byteAt s x
    let pred (v : Bool) (t : State) : Prop := t.tile.thr.regs.getP j.toNat = (if j = 0 then true else v)
    (s.rdH k = some e.id → e.id ≠ 0 → s.tile.ni.ent e.id = some e →
      (e.phase = .done → e.kind ≠ .postm →
        (Gives (.waitm k j) s fun t => pred (decide (e.rcd.status = 0x00 ∨ e.rcd.status = 0x01)) t ∧ regs [.p j.toNat] t ∧ still t ∧
          t.tile.ni.ents = s.tile.ni.ents.map fun x => if x.id = e.id then { x with observed := true } else x) ∧
        (Gives (.testm k j) s fun t => pred true t ∧ regs [.p j.toNat] t ∧ still t ∧
          t.tile.ni.ents = s.tile.ni.ents.map fun x => if x.id = e.id then { x with observed := true } else x) ∧
        (Gives (.freeh k) s fun t => t.tile.ni.ents = s.tile.ni.ents.filter (fun x => x.id ≠ e.id) ∧
          t.tile.thr.regs.getH k.toNat = none ∧ regs [.h k.toNat] t ∧ still t)) ∧
      (e.phase ≠ .done → e.kind ≠ .postm →
        exec (.waitm k j) s = .next (s.stallOn (.waitm k.toNat)) ∧
        (Gives (.testm k j) s fun t => pred false t ∧ regs [.p j.toNat] t ∧ still t ∧ t.tile.ni = s.tile.ni)) ∧
      (Gives (.mrec d k w) s fun t => ToS s t d (match w.toNat with
        | 0 => BitVec.ofNat 64 (e.rcd.status.toNat +
            (if e.kind = .postm ∧ e.phase = .relHeld then e.rcd.flags ||| 0x10 else e.rcd.flags).toNat * 2 ^ 8 + e.rcd.group.toNat * 2 ^ 16 + e.rcd.source.toNat * 2 ^ 32)
        | 1 => BitVec.ofNat 64 (e.rcd.tag.toNat + e.rcd.dlen % 2 ^ 24 * 2 ^ 32 + e.rcd.flen % 2 ^ 8 * 2 ^ 56)
        | 2 => BitVec.ofNat 64 (e.rcd.flen / 2 ^ 8 % 2 ^ 16 + e.rcd.progress % 2 ^ 16 * 2 ^ 16 + e.rcd.tstamp.toNat * 2 ^ 32)
        | _ => e.rcd.shards) 2 0) ∧
      (e.phase = .posted → e.kind = .post → e.detached = false → e.nb = none → Gives (.cancel k) s fun t =>
        (∃ f ∈ t.tile.ni.ents, f.id = e.id ∧ f.phase = .done ∧ f.rcd.status = 0x03 ∧ f.rcd.dlen = 0 ∧ f.rcd.flags = 0x80) ∧
        regs [] t ∧ still t ∧ t.torus = s.torus) ∧
      (e.phase = .open_ → e.kind = .publ → e.detached = false → e.nb = none → Gives (.unpub k) s fun t =>
        (∃ f ∈ t.tile.ni.ents, f.id = e.id ∧ f.phase = .done ∧ f.rcd.status = 0x00 ∧ f.rcd.dlen = e.len ∧ f.rcd.flen = e.len) ∧
        t.tile.thr.pc = s.tile.thr.pc)) ∧
    let y := (s.opS 1 b).val
    (sbLegal y true false false → y.getLsbD 57 = false →
      let fits (u : Unexp) : Bool := decide (u.hdr.group = sbGroup s y) && (y.getLsbD 56 || decide (u.hdr.src = BitVec.ofNat 32 (s.opS 0 a).val.toNat)) &&
        decide ((u.hdr.tag ^^^ BitVec.ofNat 32 y.toNat) &&& ~~~(BitVec.ofNat 32 (s.rdC 0x015).toNat) = 0)
      let found := s.tile.ni.offered.find? fits
      Gives (.probe d a b j) s fun t => pred found.isSome t ∧ t.tile.ni = s.tile.ni ∧ regs [.s d.toNat, .p j.toNat] t ∧ still t ∧
        (t.tile.thr.regs.getS d.toNat).val = if d = 0 then 0 else match found with
          | some u => BitVec.ofNat 64 (u.hdr.src.toNat + u.hdr.len % 2 ^ 24 * 2 ^ 32)
          | none => 0)

/-! ### The G slot (R275 to R302) -/

/-- R182, R275, R277, R280 to R288: the belief operations, each on blocks read at issue and with its bound, on operands that pass its checks. An
element outside the result's dimension is +0, and NF says that an element inside it is infinite or NaN. BMARG and BMEAN take their values
from the eliminated block; BLD and BST move the 320 bytes of an image, the tile-store engine being free. -/
def Obligations.BeliefOperations : Prop :=
  ∀ (d a b f : BitVec 4) (r : BitVec 5) (k : BitVec 8) (o : BitVec 16) (s : State), Unpoisoned s → s.clash (.b d.toNat) = false →
    s.clash (.f d.toNat) = false →
    let x := s.rdB a
    let y := s.rdB b
    let old := s.rdB d
    let z := s.opF 0 f
    let into (lat : Nat) (t : State) : Prop := Lands s t (.b d.toNat) lat 0 ∧ OnlyRegs [.b d.toNat] s t
    let infinite (v : W32) : Prop := v.toNat / 2 ^ 23 % 256 = 255
    let made (t : State) (dim : Nat) (l : Nat → Nat → W32) (h : Nat → W32) (rg inv : Bool) : Prop :=
      let v := t.tile.thr.regs.getB d.toNat
      v.dim = dim ∧ v.rg = rg ∧ v.inv = inv ∧ (v.nf = true ↔ ∃ i < dim, infinite (h i) ∨ ∃ j < dim, infinite (l i j)) ∧
      ∀ i < 8, v.etaAt i = (if i < dim then h i else 0) ∧ ∀ j < 8, v.lamAt i j = if i < dim ∧ j < dim then l i j else 0
    let top := max x.dim y.dim
    let pick (i : Nat) : Option Nat :=
      let n := (s.opS 0 r).val.toNat / 16 ^ i % 16
      if n < 8 ∧ n < x.dim then some n else none
    (Gives (.bzero d) s fun t => t.tile.thr.regs.getB d.toNat = ⟨0, 0, 1, false, false, false⟩ ∧ into 1 t) ∧
    (Gives (.badd d a b) s fun t => into 4 t ∧ made t top (fun i j => (fpAdd 0 (x.lamAt i j) (y.lamAt i j)).1)
      (fun i => (fpAdd 0 (x.etaAt i) (y.etaAt i)).1) (x.rg || y.rg) (x.inv || y.inv)) ∧
    (Gives (.bsub d a b) s fun t => into 4 t ∧ made t top (fun i j => (fpSub 0 (x.lamAt i j) (y.lamAt i j)).1)
      (fun i => (fpSub 0 (x.etaAt i) (y.etaAt i)).1) (x.rg || y.rg) (x.inv || y.inv)) ∧
    (Gives (.bperm d a r) s fun t => into 4 t ∧ made t ((s.opS 0 r).val.toNat / 2 ^ 32 % 8 + 1)
      (fun i j => match pick i, pick j with | some p, some q => x.lamAt p q | _, _ => 0)
      (fun i => match pick i with | some p => x.etaAt p | none => 0) x.rg x.inv) ∧
    (∀ e, x.eliminate (BitVec.ofNat 32 (s.rdC 0x071).toNat) (fun i => !k.getLsbD i) = .ok e → e.left ≠ [] →
      Gives (.bmarg d a k) s fun t => into 40 t ∧ made t e.left.length (fun i j => e.at (e.left.getD i 0) (e.left.getD j 0))
        (fun i => e.h.getD (e.left.getD i 0) 0) x.rg false) ∧
    (∀ e, x.eliminate (BitVec.ofNat 32 (s.rdC 0x071).toNat) (fun _ => true) = .ok e →
      Gives (.bmean d a) s fun t => into 40 t ∧ made t x.dim x.lamAt (fun i => (e.mean x.dim).getD i 0) x.rg x.inv) ∧
    (betaOk z = true → Gives (.bdamp d a f) s fun t => into 6 t ∧ made t (max old.dim x.dim)
      (fun i j => dampOne z (old.lamAt i j) (x.lamAt i j)) (fun i => dampOne z (old.etaAt i) (x.etaAt i)) (old.rg || x.rg) (old.inv || x.inv)) ∧
    (¬infinite z → Gives (.breg d a f) s fun t => into 6 t ∧
      made t x.dim (fun i j => if i = j then (fpAdd 0 (x.lamAt i j) z).1 else x.lamAt i j) x.etaAt true x.inv) ∧
    (Gives (.bres d a b) s fun t => ToF s t d (x.residual y) 6 0) ∧
    let p := (s.opS 0 r).val + BitVec.ofInt 64 o.toInt
    (s.storeBusy = false → (s.opS 0 r).ok = true → s.tile.oor p 320 = none →
      (let word (n : Nat) : W32 := BitVec.ofNat 32 (ofLE (s.ldBytes (p + BitVec.ofNat 64 n) 4))
       let byte (n : Nat) : Nat := (s.ldByte (p + BitVec.ofNat 64 n).toNat).toNat
       let bad : Bool := byte 288 = 0 ∨ 8 < byte 288 ∨ 4 ≤ byte 289 ∨ (List.range 30).any fun n => byte (290 + n) ≠ 0
       Gives (.bld d r o) s fun t => into 4 t ∧ made t (if bad then 8 else byte 288) (fun i j => word (32 * i + 4 * j))
         (fun i => word (256 + 4 * i)) (decide (byte 289 / 2 % 2 = 1)) bad) ∧
      (s.tile.spec = none → s.tile.eng.mma = [] → s.tile.eng.msto = [] → Gives (.bst d r o) s fun t =>
        (∀ n < 320, byteAt t (p + BitVec.ofNat 64 n).toNat =
          if n < 256 then BitVec.ofNat 8 (old.lam.toNat / 256 ^ n) else if n < 288 then BitVec.ofNat 8 (old.eta.toNat / 256 ^ (n - 256))
          else if n = 288 then BitVec.ofNat 8 old.dim
          else if n = 289 then BitVec.ofNat 8 (old.nf.toNat + 2 * old.rg.toNat + 4 * old.inv.toNat) else 0) ∧
        (∀ q, (∀ n < 320, q ≠ (p + BitVec.ofNat 64 n).toNat) → byteAt t q = byteAt s q) ∧
        RegsExcept [] s.tile.thr.regs t.tile.thr.regs))

/-- R291 to R300: the step sequencer, the tile-store engine being free and the ranges in range. SIG adds each quantized element to each of 16
lanes with the sign of the parity of lane and folded number; SCMP compares the change measure of R293; SKSET sets one bit of the skip map;
STEPA stores and clears the map and counts the step; SIGST exchanges a register with an entry of the step memory. -/
def Obligations.StepSequencer : Prop :=
  ∀ (d i j : BitVec 2) (a b : BitVec 5) (k : BitVec 3) (s : State), Unpoisoned s → s.tile.spec = none → s.storeBusy = false →
    s.tile.eng.mma = [] → s.tile.eng.msto = [] → s.clash (.sig d.toNat) = false → s.clash (.p k.toNat) = false →
    let x := (s.opS 0 a).val
    let y := (s.opS 1 b).val
    let form := y.toNat / 2 ^ 20 % 8
    let width := [4, 2, 2, 1, 1, 1, 4].getD form 4
    let count := min (y.toNat % 2 ^ 14) 8192 / width
    let q (n : Nat) : Int :=
      quantize (BitVec.ofNat 8 (y.toNat / 2 ^ 24)).toInt (sigValue form (ofLE (s.ldBytes (x + BitVec.ofNat 64 (width * n)) width)))
    let step := (s.rdC 0x050).toNat % 2 ^ 32
    let nlog := (s.cr 0x053).toNat / 2 ^ 32 % 2 ^ 8
    let skip := s.cr 0x053
    let entry := (s.cr 0x052 &&& 0x1FFFC0) + BitVec.ofNat 64 (64 * (x.toNat % 1024))
    let log := (skip &&& 0x1FFF80) + BitVec.ofNat 64 (128 * (step % nlog))
    let sigBits (n : Nat) (v : BitVec 512) : W32 := v.extractLsb' (32 * n) 32
    let ended (t : State) : Prop := (t.cr 0x050).toNat = (step + 1) % 2 ^ 32 ∧ (∀ n < 16, t.cr (0x060 + n) = 0) ∧
      RegsExcept (.cr 0x050 :: (List.range 16).map fun n => .cr (0x060 + n)) s.tile.thr.regs t.tile.thr.regs
    ((s.opS 0 a).ok = true → (s.opS 1 b).ok = true → form ≤ 6 → (x.toNat % 256 + count * width ≤ 8192 ∨ s.tile.thr.sigHeld = true) →
      s.tile.oor x (count * width) = none → Gives (.sig d a b) s fun t =>
        (∀ n < 16, sigBits n (t.tile.thr.regs.getSig d.toNat) =
          BitVec.ofInt 32 ((List.range count).map fun m => if odd4 n (fold4 m) then -q m else q m).sum) ∧
        Lands s t (.sig d.toNat) 6 0 ∧ RegsExcept [.sig d.toNat] s.tile.thr.regs t.tile.thr.regs ∧ ∀ p, byteAt t p = byteAt s p) ∧
    (Gives (.scmp k i j) s fun t => ToP s t k (decide (step ≠ 0) && decide (((List.range 16).map fun n =>
      (sigBits n (s.rdSig i) - sigBits n (s.rdSig j)).toInt.natAbs).sum ≤ (s.rdC 0x051).toNat % 2 ^ 36)) 4) ∧
    ((s.opS 0 a).ok = true → Gives (.skset a k) s fun t =>
      (∀ n < 1024, (t.cr (0x060 + n / 64)).getLsbD (n % 64) =
        if n = x.toNat % 1024 then s.rdP k else (s.cr (0x060 + n / 64)).getLsbD (n % 64)) ∧
      OnlyRegs [.cr (0x060 + x.toNat % 1024 / 64)] s t) ∧
    (nlog = 0 → Gives .stepa s fun t => ended t ∧ ∀ p, byteAt t p = byteAt s p) ∧
    (nlog ≠ 0 → s.tile.oor log 128 = none → Gives .stepa s fun t => ended t ∧
      (∀ n < 16, ∀ m < 8, byteAt t (log + BitVec.ofNat 64 (8 * n + m)).toNat = BitVec.ofNat 8 ((s.cr (0x060 + n)).toNat / 256 ^ m)) ∧
      ∀ p, (∀ n < 128, p ≠ (log + BitVec.ofNat 64 n).toNat) → byteAt t p = byteAt s p) ∧
    ((s.opS 0 a).ok = true → s.tile.oor entry 64 = none → Gives (.sigst d a) s fun t =>
      t.tile.thr.regs.getSig d.toNat = BitVec.ofNat 512 (ofLE (s.ldBytes entry 64)) ∧ Lands s t (.sig d.toNat) 4 0 ∧
      RegsExcept [.sig d.toNat] s.tile.thr.regs t.tile.thr.regs ∧
      (∀ n < 64, byteAt t (entry + BitVec.ofNat 64 n).toNat = BitVec.ofNat 8 ((s.rdSig d).toNat / 256 ^ n)) ∧
      ∀ p, (∀ n < 64, p ≠ (entry + BitVec.ofNat 64 n).toNat) → byteAt t p = byteAt s p)

/-! ### Messages (R82 to R108, R370 to R382) -/

/-- R88, R91, R95 to R97, R265, R370: EAGER and RTS at a tile that takes them and that holds nothing yet of a message with the packet's source
and XID; the packet is neither timed, nor awaits a RELEASE, nor is converted, and no earlier delivery is unfinished but where it is spoken of. A message whose SEQ is the next of its source and group
and which fits a posted POST is delivered: of EAGER the granted bytes land, the POST completes (TRUNC when they are fewer), and an ACK with
the length leaves; RTS is granted by a CTS, and the record shows the match. One that fits none is kept, an EAGER without room in the pool converted; one whose predecessor
is missing is held; with a full store it is answered BUSY. R122: an eager message whose source has an earlier one in the group that is matched and not yet
DONE lands and is acknowledged, and its receive is DONE only after the earlier one's. A tile that stops or loads answers ABSENT with reason 0, a parked one with reason
7, and nothing else happens. The model's own: 0x80 in the top byte of OFFSET marks the ACK of a message (log 14). -/
def Obligations.FirstPacketsArrive : Prop :=
  ∀ (p : Packet) (e : Ent) (rs : List (Nat × Nat)) (a : Nat) (s : State), p.hdr.dest = s.rankOf s.tile.ep → s.ownPkg p.hdr.src = true →
    p.hdr.hflags &&& 7 = 0 →
    (let same (h : Header) : Prop := h.src = p.hdr.src ∧ h.xid = p.hdr.xid
     (∀ x ∈ s.tile.ni.ents, (∀ h, x.hdr = some h → x.phase = .landing → ¬same h) ∧ ∀ u ∈ x.boxq, ¬same u.hdr) ∧
       ∀ u ∈ s.tile.ni.unexp, ¬same u.hdr ∧ u.arrival < s.tile.ni.arrivals) →
    let h := p.hdr
    let key := h.src.toNat * 65536 + h.group.toNat
    let want := Sparse.get 0 s.tile.ni.seqIn key
    let first := s.tile.ni.ents.find? fun x => x.open_ && x.fits h
    let n := min h.len e.len
    let next (t : State) : Prop := Sparse.get 0 t.tile.ni.seqIn key = want + 1
    let answered (kind hf : BitVec 8) (off : Nat) (t : State) : Prop := Sends s t fun q => q.hdr.kind = kind ∧ q.hdr.hflags = hf ∧
      q.hdr.dest = h.src ∧ q.hdr.src = h.dest ∧ q.hdr.xid = h.xid ∧ q.hdr.offset = BitVec.ofNat 32 off
    let kept (waits conv : Bool) (units : Nat) (t : State) : Prop := ∃ u, t.tile.ni.unexp = s.tile.ni.unexp ++ [u] ∧ u.hdr.src = h.src ∧
      u.hdr.tag = h.tag ∧ u.hdr.seq = h.seq ∧ u.waits = waits ∧ u.conv = conv ∧ u.units.length = units
    let refused (kind : BitVec 8) (reason : Nat) : Prop := ∀ i ∈ ([.eager p, .rts p] : List Instr), Gives i s fun t =>
      answered kind 0 reason t ∧ t = { s with torus := t.torus }
    (TileTakes s → p.poison = false → p.payload.length = h.len → s.tile.ni.relLog = [] → s.tile.ni.revoked = [] →
      (∀ u ∈ s.tile.ni.unexp, u.waits = false) → (∀ x ∈ s.tile.ni.ents, x.phase ≠ .turn) →
      (h.seq = want → first = some e → e.kind = .post → e.phase = .posted → e.buf = .store a rs → Plain e →
        (∀ x ∈ s.tile.ni.ents, x.matched ≠ 0 → x.matched ≤ s.tile.ni.matchNo → x.peer = h.src → x.hdr.map (fun q => q.group) = some h.group →
          x.phase = .landing ∨ x.phase = .relHeld → Gives (.eager p) s fun t => Landed rs a (p.payload.take n) s t ∧
            answered 0x05 0 (0x80 * 2 ^ 24 + n % 2 ^ 24) t ∧ next t ∧ OthersKept s t e.id ∧
            ∃ f ∈ t.tile.ni.ents, f.id = e.id ∧ f.phase = .turn ∧ x.matched < f.matched) ∧
        ((∀ x ∈ s.tile.ni.ents, x.peer = h.src → x.phase ≠ .landing ∧ x.phase ≠ .relHeld) → Gives (.eager p) s fun t => EntDone s t e.id (if e.len < h.len then 0x02 else 0x00) n h.len ∧ Landed rs a (p.payload.take n) s t ∧
          answered 0x05 0 (0x80 * 2 ^ 24 + n % 2 ^ 24) t ∧ next t ∧ OthersKept s t e.id) ∧
        (0 < n → Gives (.rts p) s fun t =>
          (∃ f ∈ t.tile.ni.ents, f.id = e.id ∧ f.phase = .granted ∧ f.granted = n ∧ f.peer = h.src ∧ f.peerXid = h.xid ∧
            f.rcd.source = h.src ∧ f.rcd.tag = h.tag) ∧
          answered 0x03 0 n t ∧ next t ∧ OthersKept s t e.id ∧ OnlyNi s t)) ∧
      (h.seq = want → first = none → s.tile.ni.unexp.length < 1024 →
        (Gives (.rts p) s fun t => kept false false 0 t ∧ next t ∧ OnlyNi s t ∧ t.torus = s.torus ∧ t.tile.ni.ents = s.tile.ni.ents) ∧
        (s.allot s.tile.ep ((h.len + 63) / 64) = none → Gives (.eager p) s fun t =>
          kept false true 0 t ∧ next t ∧ OnlyNi s t ∧ t.torus = s.torus ∧ t.tile.ni.ents = s.tile.ni.ents) ∧
        (s.allot s.tile.ep ((h.len + 63) / 64) ≠ none → Gives (.eager p) s fun t => kept false false ((h.len + 63) / 64) t ∧ next t ∧
          t.tile.ni.ents = s.tile.ni.ents ∧ t.torus = s.torus)) ∧
      (h.seq ≠ want → s.tile.ni.unexp.length < 1024 → Gives (.rts p) s fun t =>
        kept true false 0 t ∧ OnlyNi s t ∧ t.torus = s.torus ∧ t.tile.ni.ents = s.tile.ni.ents) ∧
      (h.seq ≠ want ∨ first = none → 1024 ≤ s.tile.ni.unexp.length → refused 0x07 0)) ∧
    (s.tile.ep < 0x400 → s.pkg < 2 ^ 20 → s.tile.twin = none → s.tile.hidden = false →
      (s.tile.run = .stopping ∨ s.tile.run = .stopped ∨ s.tile.run = .loading → refused 0x06 0) ∧ (s.tile.run = .parked → refused 0x06 7))

/-- R96, R97, R99, R163, R379: the rest of a transfer. CTS with a grant starts the DATA of its send from the first byte, and with a grant of 0
completes it; DATA lands at its offset, and the chunk that completes the grant completes the POST and sends the ACK; the ACK completes the
send with the delivered length, and one that denies the message completes it DENIED, and nothing of it leaves any more. REVOKE returns a send to
waiting for a CTS and answers how many chunks have gone: a chunk whose injection has not begun is withdrawn and not counted, and a CTS of the
revoked grant that was refused and goes again is void. The model's own: the top byte of OFFSET tells the
ACKs apart (log 14), and the sender knows of every accepted chunk at once (log 72). -/
def Obligations.TransfersGoOn : Prop :=
  ∀ (p : Packet) (e : Ent) (h0 : Header) (rs : List (Nat × Nat)) (a : Nat) (s : State), TileTakes s → p.hdr.dest = s.rankOf s.tile.ep →
    s.ownPkg p.hdr.src = true → p.poison = false → s.tile.ni.revoked = [] → Plain e →
    let h := p.hdr
    let off := h.offset.toNat
    let changed (s t : State) (P : Ent → Prop) : Prop := (∃ f ∈ t.tile.ni.ents, f.id = e.id ∧ P f) ∧ OthersKept s t e.id
    let asSent (dlen : Nat) : BitVec 8 := if dlen < e.len then 0x02 else if e.late then 0x04 else 0x00
    let mine (u : Ev) : Prop := ∃ q, u.inner? = some q ∧ (q.hdr.kind = 0x04 ∨ q.hdr.kind = 0x08) ∧ q.hdr.src = h.dest ∧ q.hdr.dest = h.src ∧ q.hdr.xid = h.xid
    let stays (u : Transit) : Prop := ¬(mine u.ev ∧ (u.injected = 0 ∨ ∃ q i, u.ev = .refused q i))
    (s.tile.ni.named h.src h.xid = some e → e.kind = .send →
      (e.phase = .awaitCts →
        (0 < off → Gives (.cts p) s fun t => changed s t (fun f => f.phase = .sending ∧ f.granted = off ∧ f.sent = 0 ∧ f.chunks = 0) ∧
          OnlyNi s t ∧ t.torus = s.torus) ∧
        (off = 0 → Gives (.cts p) s fun t => EntDone s t e.id (asSent 0) 0 e.len ∧ OthersKept s t e.id ∧ OnlyNi s t ∧ t.torus = s.torus)) ∧
      (off / 2 ^ 24 = 0x80 → Gives (.ack p) s fun t =>
        EntDone s t e.id (asSent (off % 2 ^ 24)) (off % 2 ^ 24) e.len ∧ OthersKept s t e.id ∧ OnlyNi s t ∧ t.torus = s.torus) ∧
      (off / 2 ^ 24 = 0xC0 → Gives (.ack p) s fun t =>
        EntDone s t e.id 0x09 0 e.len ∧ OthersKept s t e.id ∧ (∀ u, u ∈ t.torus ↔ u ∈ s.torus ∧ stays u) ∧ (∀ x, x ∈ t.sched ↔ x ∈ s.sched ∧ ¬mine x.2) ∧
          (∀ w ∈ t.tile.ni.waiting, w.1 ≠ e.id) ∧ t = { s with tile := { s.tile with ni := t.tile.ni }, torus := t.torus, sched := t.sched }) ∧
      (s.sched = [] → s.tile.ni.waiting = [] →
        let chunks := if e.phase = .sending ∨ e.phase = .awaitLast then e.chunks else 0
        let data (u : Transit) : Prop := ∃ q, u.ev.inner? = some q ∧ q.hdr.kind = 0x04 ∧ q.hdr.src = h.dest ∧ q.hdr.dest = h.src ∧ q.hdr.xid = h.xid
        let revoked (n : Nat) (l : List Transit) (t : State) : Prop :=
          changed s t (fun f => f.phase = .awaitCts ∧ f.granted = 0 ∧ f.sent = 0 ∧ f.chunks = 0) ∧ OnlyNi s t ∧
          ∃ u q, t.torus = l ++ [u] ∧ u.ev = .packet q ∧ q.hdr.kind = 0x05 ∧ q.hdr.dest = h.src ∧ q.hdr.xid = h.xid ∧ q.hdr.hflags = 0 ∧
            q.hdr.offset = BitVec.ofNat 32 (n % 2 ^ 24)
        let grant (u : Transit) : Prop := ∃ q, u.ev.inner? = some q ∧ q.hdr.kind = 0x03 ∧ q.hdr.src = h.src ∧ q.hdr.dest = h.dest ∧ q.hdr.xid = h.xid
        ((∀ u ∈ s.torus, (data u → u.injected ≠ 0 ∧ ∃ q, u.ev = .packet q) ∧ (grant u → ∃ q, u.ev = .packet q)) →
          Gives (.revoke p) s (revoked chunks s.torus)) ∧
        (∀ u, s.torus = [u] → data u → u.injected = 0 → Gives (.revoke p) s (revoked (chunks - 1) [])) ∧
        (∀ u, s.torus = [u] → grant u → (∀ q, u.ev ≠ .packet q) → Gives (.revoke p) s (revoked chunks [])))) ∧
    (s.tile.ni.receiving h = some e → e.kind = .post → e.phase = .granted → e.buf = .store a rs → e.hdr = some h0 → h0.hflags.getLsbD 1 = false →
      s.ownPkg h0.src = true → off + p.payload.length ≤ e.granted → e.matched = 0 → (∀ x ∈ s.tile.ni.ents, x.phase ≠ .turn) →
      let u := s.noteTook h p.payload.length
      (e.sent + p.payload.length < e.granted → Gives (.data p) s fun t => Landed rs (a + off) p.payload u t ∧ t.torus = s.torus ∧
        changed u t fun f => f.phase = .granted ∧ f.sent = e.sent + p.payload.length ∧ f.chunks = e.chunks + 1) ∧
      (e.granted ≤ e.sent + p.payload.length → Gives (.data p) s fun t => Landed rs (a + off) p.payload u t ∧
        EntDone s t e.id (if e.granted < h0.len then 0x02 else 0x00) (e.granted - e.part) h0.len ∧ OthersKept u t e.id ∧
        Sends s t fun q => q.hdr.kind = 0x05 ∧ q.hdr.dest = h0.src ∧ q.hdr.xid = h0.xid ∧ q.hdr.hflags = 0 ∧
          q.hdr.offset = BitVec.ofNat 32 (0x80 * 2 ^ 24 + (e.granted - e.part) % 2 ^ 24)))

/-- R104, R370 to R374, R422: refusals at the sender. ABSENT with reason 0 and BUSY make the message wait for its retry interval, which doubles
up to 256 µs; when it ends the message leaves again with its SEQ, the interface injecting nothing else. A SENDT leaves when TIME reaches its TSEND, with the next SEQ and TIMED.
ABSENT with reason 7 from another package, and a failure of the transport, complete the send UNREACHABLE; a reason-0 refusal at or after ABSLIMIT from
the first one completes it ABSENT. Both make a record, and nothing of the message leaves any more. -/
def Obligations.RefusedAndTimedSends : Prop :=
  ∀ (p : Packet) (e : Ent) (s : State), TileTakes s → p.hdr.dest = s.rankOf s.tile.ep → Plain e → e ∈ s.tile.ni.ents → e.pairWait = false →
    s.injecting s.tile.ep = false → (∀ x ∈ s.tile.ni.ents, x.id ≠ e.id → x.phase ≠ .queued ∧ x.unsent = [] ∧ x.xid ≠ e.xid) →
    let h := p.hdr
    let wait := if e.interval = 0 then 2000 else min (2 * e.interval) 256000
    let waits (t : State) : Prop :=
      (∃ f ∈ t.tile.ni.ents, f.id = e.id ∧ f.phase = .queued ∧ f.retryAt = some (s.time + wait) ∧ f.interval = wait ∧ f.seq = e.seq) ∧
      OthersKept s t e.id ∧ OnlyNi s t ∧ t.torus = s.torus
    let left (rdv : Bool) (seq : W32) (hf : BitVec 8) (off : W32) (t : State) : Prop :=
      (∃ f ∈ t.tile.ni.ents, f.id = e.id ∧ f.phase = (if rdv then .awaitCts else .awaitAck) ∧ f.seq = some seq) ∧ OthersKept s t e.id ∧
      OnlyNi s t ∧ Sends s t fun q => q.hdr.kind = (if rdv then 0x02 else 0x01) ∧ q.hdr.dest = e.rank ∧ q.hdr.src = h.dest ∧
        q.hdr.tag = e.tag ∧ q.hdr.group = e.group ∧ q.hdr.seq = seq ∧ q.hdr.xid = e.xid ∧ q.hdr.len = e.len ∧
        q.hdr.hflags = (if rdv then hf else hf ||| 8) ∧ q.hdr.offset = off
    let here := s.ownPkg e.rank = true ∧ rankEp e.rank < 0x400
    let mine (u : Ev) : Prop := ∃ q, u.inner? = some q ∧ (q.hdr.kind = 0x04 ∨ q.hdr.kind = 0x08) ∧ q.hdr.src = h.dest ∧ q.hdr.dest = e.rank ∧ q.hdr.xid = e.xid
    let failed (status : BitVec 8) (t : State) : Prop := EntDone s t e.id status 0 e.len ∧ OthersKept s t e.id ∧
      (∀ u, u ∈ t.torus ↔ u ∈ s.torus ∧ ¬(mine u.ev ∧ (u.injected = 0 ∨ ∃ q i, u.ev = .refused q i))) ∧
      t = { s with tile := { s.tile with ni := t.tile.ni }, torus := t.torus, sched := t.sched, mgmt := { s.mgmt with queues := t.mgmt.queues } } ∧
      (s.mgmt.queues = [] → ∃ q ∈ t.mgmt.queues, ∃ r ∈ q.recs, r.cls = 0x02 ∧ r.sev = 1 ∧ r.code = status.toNat)
    (e.kind = .send → e.rank = h.src → e.xid = h.xid → e.phase = .awaitAck ∨ e.phase = .awaitCts →
      (Gives (.busy p) s waits) ∧ (h.offset = 0 → e.absFrom = none → Gives (.absent p) s waits) ∧
      (s.ownPkg e.rank = false → ∀ i ∈ ([.uetFailure s.tile.ep e.xid.toNat] ++ (if h.offset = 7 then [.absent p] else []) : List Instr),
        Gives i s (failed 0x07)) ∧
      (h.offset = 0 → ∀ f, e.absFrom = some f →
        (f + 1000 * s.param (s.partOf s.tile.ep) 4 ≤ s.time → Gives (.absent p) s (failed 0x0E)) ∧
        (s.time < f + 1000 * s.param (s.partOf s.tile.ep) 4 → Gives (.absent p) s waits))) ∧
    (e.kind = .send → e.timed = false → here → e.phase = .queued → (∃ at_ ≤ s.time, e.retryAt = some at_) → ∀ q, e.seq = some q →
      Gives (.retryInterval s.tile.ep e.xid.toNat) s (left (e.rcd.flags.getLsbD 5) q 0 0)) ∧
    (e.kind = .sendt → e.timed = true → here → e.phase = .held → e.retryAt = none → e.seq = none → ∀ w, e.tsend = some w → w.toNat ≤ s.time →
      Gives (.timedSendRelease s.tile.ep e.id) s
        (left (decide (e.len ≠ 0 ∧ (Sparse.get (512, 0) s.tile.ni.groups e.group.toNat).1 < e.len))
          (Sparse.get 0 s.tile.ni.seqOut (e.rank.toNat * 65536 + e.group.toNat)) 1 (BitVec.ofNat 32 w.toNat)))

/-- R99, R105, R106, R117, R382: a clearing RELEASE completes the receive that waited for it and is acknowledged. SUBSCRIBE raises, and PRUNE
lowers, the count of the port towards the subscriber at every router of the route, the routers having room; a round starts when a
subscription has come. A round's only chunk lands in a subscription, completes it and prunes it. A header that has waited 16 cycles goes on
in the escape channel, along the escape hop, where that class of the port is free and has a slot; no other packet is touched. The model's own:
0x40 in the top byte of OFFSET marks the ACK of a RELEASE (log 14); bit 0 of SEQ marks a subscription that no router had room for, and bit 31 of
XID a chunk whose generation has changed (log 16). -/
def Obligations.ReleasesAndContrails : Prop :=
  (∀ (p : Packet) (e : Ent) (h0 : Header) (rs : List (Nat × Nat)) (a : Nat) (s : State), TileTakes s → p.hdr.dest = s.rankOf s.tile.ep →
    s.ownPkg p.hdr.src = true → e ∈ s.tile.ni.ents → Plain e →
    let h := p.hdr
    let path := subscriptionPath s.tile.ep (rankEp h.src)
    let count (t : State) (x : Nat × Nat) : Nat :=
      match (Sparse.get [] t.routers x.1).find? fun c => c.is h.dest h.group h.tag with | some c => Sparse.get 0 c.ports x.2 | none => 0
    (s.tile.ni.receiving h = some e → e.kind = .post → e.phase = .relHeld → e.hdr = some h0 → h.offset = 0 →
      (∀ x ∈ s.tile.ni.ents, x.phase ≠ .turn ∧ (x.id ≠ e.id → x.phase ≠ .landing ∧ x.phase ≠ .relHeld)) → Gives (.release p) s fun t =>
      EntDone s t e.id (if e.granted < h0.len then 0x02 else 0x00) (e.granted - e.part) h0.len ∧ OthersKept s t e.id ∧ OnlyNi s t ∧
      Sends s t fun q => q.hdr.kind = 0x05 ∧ q.hdr.dest = h.src ∧ q.hdr.xid = h.xid ∧ q.hdr.hflags = 0 ∧ q.hdr.offset = 0x40000000) ∧
    ((path.map fun x => x.1).Nodup → h.seq.getLsbD 0 = false →
      ((∀ x ∈ path, s.portRoom h.dest h.group h.tag x.1 = true) → Gives (.subscribe p) s fun t =>
        (∀ x ∈ path, count t x = count s x + 1) ∧ (h.group, h.tag) ∈ t.tile.ni.asked ∧ t.tile.ni.alone = s.tile.ni.alone ∧
        t = { s with tile := { s.tile with ni := t.tile.ni }, routers := t.routers }) ∧
      (s.spills = [] → Gives (.prune p) s fun t =>
        (∀ x ∈ path, count t x = count s x - 1) ∧ t = { s with routers := t.routers })) ∧
    (e.kind = .publ → e.phase = .open_ → e.closing = false → (e.group, e.tag) ∈ s.tile.ni.asked →
      Gives (.contrailRound s.tile.ep e.id) s fun t => (∃ f ∈ t.tile.ni.ents, f.id = e.id ∧ f.phase = .round ∧ f.sent = 0) ∧
        (e.group, e.tag) ∉ t.tile.ni.asked ∧ OthersKept s t e.id ∧ OnlyNi s t ∧ t.torus = s.torus) ∧
    (s.tile.ni.ents.filter (fun x => x.kind == .subs && x.rank == h.src && x.tag == h.tag && x.group == h.group) = [e] → e.phase = .posted →
      e.buf = .store a rs → h.offset = 0 → h.xid.getLsbD 31 = false → p.poison = false → p.payload.length = h.len →
      ∀ i ∈ ([.cdata p, .ucdata p] : List Instr), Gives i s fun t => Landed rs a (p.payload.take (min h.len e.len)) s t ∧
        EntDone s t e.id (if e.len < h.len then 0x02 else 0x00) (min h.len e.len) h.len ∧ OthersKept s t e.id ∧
        Sends s t fun q => q.hdr.kind = 0x0A ∧ q.hdr.dest = h.src ∧ q.hdr.tag = h.tag ∧ q.hdr.group = h.group)) ∧
  (∀ (n : Nat) (s : State), Gives (.escapeChannel n) s fun t =>
    t = { s with torus := t.torus } ∧ ∀ m, m ≠ n → t.torus[m]? = s.torus[m]?) ∧
  (∀ (u : Transit) (g : Leg) (b : Branch) (f : Nat × Bool) (l : List (Nat × Bool)) (s : State), s.torus = [u] → u.legs = [g] → g.outs = some [b] →
    g.flits = f :: l → f.1 < s.cycle → g.gone = 0 → b.sent = 0 → 0 < u.size → b.port < 6 → g.cls ≠ 2 → b.cls ≠ 2 → u.fixedRoute = false →
    16 ≤ g.waited →
    let port := portTo g.router (escHop g.router u.last).next
    (slotAt [u] (portNext g.router port) (enters port) 2).isSome = true →
    Gives (.escapeChannel 0) s fun t => t.torus = [{ u with legs := [{ g with outs := some [⟨port, 2, some s.cycle, 0⟩] }] }])

/-! ### The memory servers and the stacks (R123 to R153, R383 to R410) -/

/-- R123, R137 to R139, R148 to R150, R391: a free server takes a shard of one piece that R400 lets through. A reading one returns the bytes
under its page's frame and changes none; a writing one writes its data there; APPLY writes its operation's result and returns the old bytes;
CAS writes the new value when the old one is as expected. Each is answered OK with its length, and no other byte of a stack changes. A
reserved operation of APPLY, which a tile sends with width 0 (log 33), is answered DENIED and changes nothing. The place of a byte in the model's
DRAM is that of log 30. -/
def Obligations.ServersPerformShards : Prop :=
  (∀ (q : Shard) (va : Nat) (s : State), ServerIdle s q.srv → FreshShard s { q with pieces := [⟨0, va, 1⟩] } va 1 → q.pieces = [⟨0, va, 0⟩] →
     Gives (.applyReserved q) s fun t => (Replies t fun r => r.dest = q.issuer ∧ r.srv = q.srv ∧ r.xid = q.xid ∧ r.no = q.no ∧ r.result = 9 ∧ r.bytes = 0) ∧
       t.dram = s.dram ∧ t.tile = s.tile ∧ t.tables = s.tables) ∧
  ∀ (q : Shard) (va n : Nat) (e : Word) (s : State), ServerIdle s q.srv → FreshShard s q va n →
    let place (i : Nat) : Nat := (s.getBase (q.srv / 16)).cell (q.srv / 16) (e.toNat % 2 ^ 20 * 65536 + va % 65536 + i)
    let bytes (t : State) : List Byte := (List.range n).map fun i => Sparse.get 0 t.dram (place i)
    let mine (r : Reply) : Prop := r.dest = q.issuer ∧ r.srv = q.srv ∧ r.xid = q.xid ∧ r.no = q.no
    let answered (t : State) : Prop := (Replies t fun r => mine r ∧ r.result = 0 ∧ r.bytes = n) ∧ t.tile = s.tile ∧ t.tables = s.tables ∧
      ∀ a, (∀ i < n, a ≠ place i) → Sparse.get 0 t.dram a = Sparse.get 0 s.dram a
    let returned (t : State) : Prop := RepliesData t fun r => mine r ∧ r.chunks = [(0, bytes s)]
    let signed (x : Nat) : Int := (BitVec.ofNat 64 x).toInt
    (Admitted s q va n e →
      (∀ i ∈ ([.qget q, .qgetb q, .qgath q] : List Instr), Gives i s fun t => answered t ∧ returned t ∧ t.dram = s.dram) ∧
      (q.data.length = n → ∀ i ∈ ([.qput q, .qputb q, .qscat q] : List Instr), Gives i s fun t => answered t ∧ bytes t = q.data) ∧
      (∀ x ∈ ([(.applyAdd32 q, 4, fun a b => (a + b) % 2 ^ 32), (.applyAdd64 q, 8, fun a b => (a + b) % 2 ^ 64),
          (.applyAnd64 q, 8, fun a b => a &&& b), (.applyOr64 q, 8, fun a b => a ||| b), (.applyXor64 q, 8, fun a b => a ^^^ b),
          (.applySmin64 q, 8, fun a b => if signed a < signed b then a else b),
          (.applySmax64 q, 8, fun a b => if signed a < signed b then b else a),
          (.applyUmin64 q, 8, fun a b => min a b), (.applyUmax64 q, 8, fun a b => max a b), (.applySwap64 q, 8, fun _ b => b),
          (.applyFadd32 q, 4, fun a b => (fpAdd 0 (BitVec.ofNat 32 a) (BitVec.ofNat 32 b)).1.toNat),
          (.applyXadd q, 64, fun a b => ((XA.ofWire (BitVec.ofNat 512 a)).combine (XA.ofWire (BitVec.ofNat 512 b))).wire.toNat)] :
          List (Instr × Nat × (Nat → Nat → Nat))),
        n = x.2.1 → va % n = 0 → q.data.length = n → Gives x.1 s fun t => answered t ∧ returned t ∧
          bytes t = toLE n (x.2.2 (ofLE (bytes s)) (ofLE q.data))) ∧
      (n = 8 → va % 8 = 0 → q.data.length = 16 → Gives (.qcas q) s fun t => answered t ∧ returned t ∧
        bytes t = if bytes s = q.data.take 8 then q.data.drop 8 else bytes s)) ∧
    (Gives (.applyReserved q) s fun t => (Replies t fun r => mine r ∧ r.result = 9 ∧ r.bytes = 0) ∧ t.dram = s.dram ∧ t.tile = s.tile)

/-- R127, R137, R320, R383, R385, R391, R402, R405, R406: what comes back. SDATA waits for its SDONE; SDONE with result OK puts the bytes at their
place and completes a request of one shard, OK_CORRECTED after more than one attempt; a failing result completes it with that code and puts
nothing; PENDING stops the shard's timer and HOLD restarts it; ECHO answers one probe, and a probe is echoed at once by a server that owes its
issuer nothing. A late shard is sent again, up to four times. A pending shard whose limit has passed fails FAULT; a shard still held is
answered HOLD and again after 20 µs; a failed server is out of service. The model's own: HOLD is repeated every 20 µs for every cause (log
31). -/
def Obligations.ShardsAreSettled : Prop :=
  ∀ (r : Reply) (e : Ent) (x : ShardSt) (rs : List (Nat × Nat)) (a pos k no from_ pg why : Nat) (w : Waiting) (l : List Byte) (s : State), TileTakes s →
    let ep := s.tile.ep
    (e ∈ s.tile.ni.ents → (∀ f ∈ s.tile.ni.ents, f.kind ≠ .sendr ∧ (f.id ≠ e.id → f.xid ≠ e.xid)) → Plain e → e.kind.isReq = true → e.phase = .shards →
      e.buf = .store a rs → e.shards = [x] → x.code = none → x.lost = false →
      let now (f : ShardSt → Prop) (t : State) : Prop :=
        (∃ g ∈ t.tile.ni.ents, g.id = e.id ∧ g.phase = .shards ∧ ∃ y, g.shards = [y] ∧ f y) ∧ OthersKept s t e.id
      (r.dest = s.rankOf ep → r.xid = e.xid.toNat → r.no = x.shard.no → r.srv = x.shard.srv →
        (Gives (.sdata r) s fun t => OnlyNi s t ∧ t.torus = s.torus ∧ now (fun y =>
          (r.damaged = false → y.spoiled = x.spoiled ∧ y.data = (x.data.filter fun c => r.chunks.all fun d => d.1 != c.1) ++ r.chunks) ∧
          (r.damaged = true → y.spoiled = true ∧ y.data = x.data)) t) ∧
        (r.damaged = false → x.spoiled = false → (∀ y ∈ s.sched, ∀ v i, y.2 ≠ .sdata v i) →
          let done (status : BitVec 8) (dlen : Nat) (t : State) : Prop :=
            EntDone s t e.id status dlen e.rcd.flen ∧ OthersKept s t e.id ∧ t.torus = s.torus
          (r.result = 0 → x.data = [(pos, l)] → r.bytes = l.length →
            (x.attempts = 1 → Gives (.sdone r) s fun t => done 0x00 (piecesLen x.shard.pieces) t ∧ Landed rs (a + pos) l s t) ∧
            (1 < x.attempts → Gives (.sdone r) s (done 0x01 (piecesLen x.shard.pieces)))) ∧
          (r.result = 0 → x.attempts = 1 → x.data = [] → e.kind ∈ [.put, .putb, .scat] → Gives (.sdone r) s fun t =>
            done 0x00 (piecesLen x.shard.pieces) t ∧ OnlyNi s t) ∧
          (r.result ∈ [0x08, 0x09, 0x0A, 0x0D] → Gives (.sdone r) s fun t => done (BitVec.ofNat 8 r.result) 0 t ∧ OnlyNi s t) ∧
          (r.result = 0x80 → Gives (.sdone r) s fun t => now (fun y => y.pending = true ∧ y.due = 0) t ∧ OnlyNi s t) ∧
          (r.result = 0x81 → Gives (.sdone r) s fun t =>
            now (fun y => y.due = s.time + 1000 * s.param (s.partOf ep) 5 ∧ y.code = none) t ∧ OnlyNi s t))) ∧
      (x.due ≠ 0 → x.due ≤ s.time → 1 ≤ x.attempts → x.attempts < 4 → x.shard.srv < 192 → x.shard.data.length ≤ 2048 →
        s.injecting ep = false → (∀ f ∈ s.tile.ni.ents, f.unsent = [] ∧ f.phase ≠ .queued ∧ f.pairWait = false) → e.part = 0 →
        Gives (.shardTimeout ep e.xid.toNat x.shard.no) s fun t =>
          now (fun y => y.attempts = x.attempts + 1 ∧ y.due = s.time + 1000 * s.param (s.partOf ep) 5) t ∧ OnlyNi s t ∧
          ∃ u, t.torus = s.torus ++ [u] ∧ u.ev = .shard e.kind.shardKind { x.shard with attempt := x.attempts + 1, rereq := none, damaged := false })) ∧
    (Gives (.echo ep ⟨k, no⟩) s fun t => t = { s with tile := { s.tile with ni := { s.tile.ni with echoes := s.tile.ni.echoes.erase (k, no) } } }) ∧
    (ServerIdle s k → Gives (.fenceProbe k ⟨s.rankOf ep, no⟩) s fun t =>
      (∃ u i, t.torus = s.torus ++ [u] ∧ u.ev = .echo ep k no i) ∧ (t.getSrv k).fences = [] ∧ t.tile = s.tile) ∧
    (let q := w.shard
     q.srv = k →
     ((s.getSrv k).pending = [(w, from_, pg, why)] → (s.getSrv k).held = [] → (s.getSrv k).fences = [] →
      from_ + 1000 * (Sparse.get noCtx (s.getSrv k).ctx q.actx).pendLimit ≤ s.time → Gives (.pendlimitExpiry k q.issuer q.xid q.no) s fun t =>
        (t.getSrv k).pending = [] ∧ (Replies t fun v => v.dest = q.issuer ∧ v.xid = q.xid ∧ v.no = q.no ∧ v.result = 8) ∧ t.dram = s.dram) ∧
     ((s.getSrv k).held ++ (s.getBase (k / 16)).held = [w] → Gives (.swapHold k q.issuer q.xid q.no) s fun t =>
      (Replies t fun v => v.dest = q.issuer ∧ v.xid = q.xid ∧ v.no = q.no ∧ v.result = 0x81) ∧ t.srv = s.srv ∧ t.dram = s.dram ∧
      (s.cycle + (20000 * s.mgmt.clock + 9) / 10, Ev.swapHold k q.issuer q.xid q.no) ∈ t.sched)) ∧
    (k < 192 → k ∉ s.mgmt.outMask → s.tile.ni.ents = [] → s.others = [] → s.fns = [] → s.nis = [] → Gives (.serverFailed k) s fun t =>
      t.mgmt.outMask = s.mgmt.outMask ++ [k] ∧ (t.getSrv k).out = true ∧ (t.getSrv k).queue = [] ∧ t.dram = s.dram)

/-- R154, R393 to R396, R399: bursts and lanes. Reading a burst without errors leaves no record; one wrong symbol is corrected in place with a record of
severity 0; two lose the burst with a record of severity 1. Writing a whole burst puts its bytes there and ends its poison. A lane that has
failed three times is replaced by the lower spare, and its channel's LANESTAT shows the lane, one swap and one spare left; a window's end clears
its channel's counters; EN is REMAPCTL's lowest bit. The model's own: how bursts are counted (log 22), and the code of the corrected burst's record (log 17). -/
def Obligations.BurstsAndLanes : Prop :=
  ∀ (stack addr lane x y : Nat) (by_ : Requester) (data : List Byte) (v : Word) (s : State),
    let b := s.getBase stack
    let ch := b.channel addr
    let burst := addr / 64
    let record (t : State) (cls sev code : Nat) : Prop := ∃ q ∈ t.mgmt.queues, ∃ r ∈ q.recs, r.cls = cls ∧ r.sev = sev ∧ r.code = code
    (b.xfer = [] → Sparse.get 0 b.bursts ch + 1 < 1048576 →
      (b.poisoned = [] → b.poisonList = [] → b.cells = [] → Gives (.burstRead stack addr by_) s fun t =>
        t.mgmt = s.mgmt ∧ t.dram = s.dram ∧ t.sched = s.sched ∧ Sparse.get 0 (t.getBase stack).bursts ch = Sparse.get 0 b.bursts ch + 1) ∧
      (b.poisoned = [] → b.poisonList = [] → b.cells = [(burst, [x])] → s.mgmt.queues = [] → Gives (.burstRead stack addr by_) s fun t =>
        (t.getBase stack).cells = [] ∧ t.dram = s.dram ∧ record t 4 0 0x0001) ∧
      (x ≠ y → b.cells = [(burst, [x, y])] → s.mgmt.queues = [] → Gives (.burstRead stack addr by_) s fun t =>
        (t.getBase stack).cells = b.cells ∧ t.dram = s.dram ∧ record t 4 1 0x000A) ∧
      (addr % 64 = 0 → data.length = 64 → Gives (.burstWrite stack addr data by_) s fun t =>
        (∀ i < 64, Sparse.get 0 t.dram (b.cell stack addr + i) = data.getD i 0) ∧
        (∀ a, (a < b.cell stack addr ∨ b.cell stack addr + 64 ≤ a) → Sparse.get 0 t.dram a = Sparse.get 0 s.dram a) ∧
        (t.getBase stack).isPoisoned burst = false ∧ t.mgmt = s.mgmt)) ∧
    (b.replaced = [] → lane < 72 → 3 ≤ Sparse.get 0 b.laneErr (x * 128 + lane) → s.mgmt.queues = [] → Gives (.laneSwap stack x lane) s fun t =>
      (t.getBase stack).replaced = [(x * 128 + lane, 72)] ∧ Sparse.get 0 (t.getBase stack).laneErr (x * 128 + lane) = 0 ∧ t.dram = s.dram ∧
      record t 5 0 0x0201 ∧ (stack < 12 → x < 32 → t.remapRead stack (0x400 + 8 * x) = some (BitVec.ofNat 64 (lane * 2 ^ 24 + 0x101)))) ∧
    (1048576 ≤ Sparse.get 0 b.bursts x → Gives (.laneWindowEnd stack x) s fun t =>
      (∀ n, Sparse.get 0 (t.getBase stack).laneErr n = if n / 128 = x then 0 else Sparse.get 0 b.laneErr n) ∧
      Sparse.get 0 (t.getBase stack).bursts x = Sparse.get 0 b.bursts x - 1048576 ∧ t.dram = s.dram ∧ t.mgmt = s.mgmt) ∧
    (stack < 12 → Gives (.remapctlWrite stack v) s fun t => t = s.modBase stack fun b => { b with en := v.getLsbD 0 })

/-- R152, R153, R407 to R410: remapping. At the end of an epoch the channel counts become the last epoch's and counting starts again; the third
hot one starts a swap when EN is 1, none runs, no region is frozen and the journal has room. When a swap of two regions ends, each stands in
the other's place and the byte at every physical address of the stack is what it was; the swap is journalled. A rebuilt table entry maps its
region to the channel region given, and the region is not frozen. The model's own: the place of a byte in DRAM (log 30), a swap of 45 µs (log
10), the room that swaps in progress take in the journal, and HOTRUN, which stays three until the swap ends and is then zero (log 80). -/
def Obligations.RemappingKeepsBytes : Prop :=
  ∀ (stack pa pb region chan : Nat) (s : State),
    let b := s.getBase stack
    let top := (List.range 32).foldl (fun m c => max m (Sparse.get 0 b.chCur c)) 0
    let rolled (t : State) : Prop := (t.getBase stack).chLast = b.chCur ∧ (t.getBase stack).chCur = [] ∧ (t.getBase stack).regCur = [] ∧
      (t.getBase stack).total = 0 ∧ (t.getBase stack).table = b.table ∧ t.dram = s.dram
    (65536 ≤ b.total → b.en = false → Gives (.remapEpochEnd stack) s fun t => rolled t ∧ t.sched = s.sched) ∧
    (65536 ≤ b.total → b.en = true → b.busy = none → b.frozen = [] → b.hotRun = 2 → 3 * b.total < 64 * top →
      (s.mgmt.jTail + 2 ^ 32 - s.mgmt.jHead) % 2 ^ 32 + (s.base.filter fun x => x.2.busy.isSome).length < 8192 → Gives (.remapEpochEnd stack) s fun t => rolled t ∧
        (t.getBase stack).busy ≠ none ∧ (t.getBase stack).hotRun = 3 ∧
        t.sched = s.sched ++ [(s.cycle + (45000 * s.mgmt.clock + 9) / 10, Ev.swapDone stack)]) ∧
    (b.busy = some (pa, pb) → pa ≠ pb → pa < 32768 → pb < 32768 → b.held = [] → b.poisoned = [] → b.poisonList = [] → b.cells = [] → b.xfer = [] →
      b.frozen = [] → b.badMain = [] → b.badCopy = [] → s.dram.wf = true → (∀ p < 32768, b.mapped p < 32768) → (∀ p < 32768, ∀ p' < 32768, b.mapped p = b.mapped p' → p = p') → Gives (.swapDone stack) s fun t =>
        (t.getBase stack).mapped pa = b.mapped pb ∧ (t.getBase stack).mapped pb = b.mapped pa ∧ (t.getBase stack).busy = none ∧
        (t.getBase stack).hotRun = 0 ∧
        (∀ phys < 2 ^ 36, Sparse.get 0 t.dram ((t.getBase stack).cell stack phys) = Sparse.get 0 s.dram (b.cell stack phys)) ∧
        t.mgmt.jTail = (s.mgmt.jTail + 1) % 2 ^ 32 ∧ t.tile = s.tile) ∧
    (region < 32768 → chan < 32768 → Gives (.tableRebuild stack region chan) s fun t =>
      (t.getBase stack).mapped region = chan ∧ region ∉ (t.getBase stack).frozen ∧ (∀ p < 32768, p ≠ region → (t.getBase stack).mapped p = b.mapped p) ∧
      t = s.modBase stack fun _ => t.getBase stack)

/-! ### The halo tree (R160 to R168, R420) -/

/-- R160 to R164, R167, R168: one chunk on the tree. A contribution of a tile that its group's entry does not name is answered DENIED; one that a
parked sender or a poisoned RELEASE has made void is acknowledged and left out (R330, R419); one that
an entry with this child alone takes, under an integer operation, is acknowledged and goes on to the parent unchanged. At a die node or the
root without a parent, the second of two children's chunks is added to the first and the sum goes down to both. A result at a node above the
rows is passed to every child; at a row node the last chunk becomes the message to the member. A chunk takes a cycle a link for each 64 bytes,
behind what the link carries already. R161, R162, R164, R420: entries of groups. A row node takes the first entry of a group whose EXPECT
counts its children, whose parent bit is set and whose operation and types are a row of R162, for a group of the partition that no lock
freezes; an entry, or its removal by a V of 0, that leaves an entry of the group against the conditions is refused; rounds of the group begin
anew. A failed node makes a record, and every group with an entry in it loses its entries at all nodes. The model's own: the codes of ACKs
(log 14), the room for four chunks on a link (log 83), the conditions of an entry while its group is being written (logs 43, 84), and DETAIL0
(log 23), of which nothing is said. -/
def Obligations.HaloTree : Prop :=
  (∀ (c : HChunk) (e : GEntry) (i : Nat) (d : List Byte) (r : HRound) (s : State), s.pkg < 2 ^ 20 →
     let h := s.getNode c.node
     let answer (off : Nat) (p : Packet) : Prop := p.hdr.kind = 0x05 ∧ p.hdr.hflags = 0 ∧ p.hdr.dest = c.src ∧ p.hdr.xid = BitVec.ofNat 32 c.xid ∧
       p.hdr.offset = BitVec.ofNat 32 off
     let kids := (List.range 16).filter fun x => e.child.getLsbD x
     let w := max 1 ((c.data.length + 63) / 64)
     (c.node < 64 → h.rounds = [] → s.ownPkg c.src = true →
       (h.entry c.group = none → Gives (.hcontrib c) s fun t => Sends s t (answer 0xC0000000) ∧ t.sched = s.sched ∧ t.tile = s.tile) ∧
       (h.entry c.group = some e → kids = [c.child] → e.parent = true → e.group = c.group → 1 ≤ e.op → e.op ≤ 8 → e.ityp = 3 → e.otyp = 3 → e.nelem < 32 →
         c.len = 8 * (e.nelem + 1) → c.data.length = c.len → c.chunk = 0 → c.fenced = false → c.void = false →
         (c.src, c.xid) ∉ h.voided → (s.getNi (0x1000 + c.node)).relLog = [] → h.foldAt ≤ s.cycle → s.roomAbove c.node c.group = true →
         Gives (.hcontrib c) s fun t => Sends s t (answer (0x80000000 + c.len)) ∧ t.tile = s.tile ∧
           t.sched = s.sched ++ [(max (s.cycle + 2) h.upAt + w - 1 + 4, Ev.hpart ⟨64 + c.node / 16, c.node % 16, 0, c.group, 0, 0, 0, 0,
             Sparse.get 0 h.first (c.group.toNat * 16 + c.child) + 1, 0, c.data, false, false⟩)]) ∧
       (h.entry c.group = some e → e.child.getLsbD c.child = true → c.len = (e.nelem + 1) * haloSize e.ityp → e.nelem < 32 → c.chunk = 0 →
         c.void = true ∨ (c.src, c.xid) ∈ h.voided → Gives (.hcontrib c) s fun t => Sends s t (answer (0x80000000 + c.len)) ∧ t.tile = s.tile ∧
           t.sched = s.sched ∧ ∀ x ∈ (t.getNode c.node).rounds, ∀ f ∈ x.from_, f.2.1 ≠ c.src)) ∧
     (64 ≤ c.node → c.node < 69 → (c.node = 68 → ∀ x ∈ kids, x < 4) → h.entry c.group = some e → e.group = c.group →
       (∀ x ∈ kids, s.roomBelow (nodeChild c.node x) c.group = true) →
       (h.down = [] → Gives (.hresult c) s fun t => t = { s with halo := t.halo, sched := t.sched } ∧
         t.sched = s.sched ++ kids.map (fun x => (max s.cycle h.downAt + w - 1 + linkDelay (nodeChild c.node x),
           Ev.hresult { c with node := nodeChild c.node x, child := x })) ∧
         t.getNode c.node = { h with downAt := max s.cycle h.downAt + w } ∧ ∀ m, m ≠ c.node → t.getNode m = s.getNode m) ∧
       (e.parent = false → e.op = 1 → e.ityp = 3 → e.otyp = 3 → e.nelem = 0 → c.chunk = 0 → kids = [i, c.child] ∨ kids = [c.child, i] → i ≠ c.child →
         h.rounds = [⟨c.group, c.round, [⟨i, 0, d⟩], [], 0, [], false, []⟩] → d.length = 8 → c.data.length = 8 → h.foldAt ≤ s.cycle →
         Gives (.hpart c) s fun t => t.sched = s.sched ++ kids.map (fun x => (max (s.cycle + 2) h.downAt + linkDelay (nodeChild c.node x),
           Ev.hresult ⟨nodeChild c.node x, x, 0, c.group, 0, 0, 0, 0, c.round, 0, toLE 8 ((ofLE d + ofLE c.data) % 2 ^ 64), false, false⟩)) ∧
           t.tile = s.tile ∧ t.torus = s.torus)) ∧
     (c.node < 64 → h.entry c.group = some e → e.group = c.group → e.nelem < 32 → (e.nelem + 1) * haloSize e.otyp ≤ 512 → Quiet s (0x1000 + c.node) →
       h.down = [] → h.rounds = [r] → r.group = c.group → r.round = c.round → r.result = [] → (∃ n rank tag xid f, r.from_ = [(n, rank, tag, xid, f)]) →
       c.data.length = (e.nelem + 1) * haloSize e.otyp → Gives (.hresult c) s fun t => ∀ n rank tag xid f, r.from_ = [(n, rank, tag, xid, f)] →
         Reachable s rank → s.linkBusy 0x4C3 (rankEp rank) = false → Says t (s.rankOf 0x4C3) rank tag c.group c.data)) ∧
  (∀ (part node : Nat) (b : BitVec 128) (s : State),
     let e := GEntry.ofBits b part
     let op := b.toNat / 2 ^ 70 % 16
     let ityp := b.toNat / 2 ^ 68 % 4
     let otyp := b.toNat / 2 ^ 66 % 4
     let expect := b.toNat / 2 ^ 90 % 2 ^ 11
     let group : BitVec 16 := BitVec.ofNat 16 (b.toNat / 2 ^ 112)
     let written : Option GEntry := if b.getLsbD 64 then some e else none
     let taken (t : State) : Prop := (t.getNode node).entry group = written ∧ (∀ g, g ≠ group → (t.getNode node).entry g = (s.getNode node).entry g) ∧
       (∀ m, m ≠ node → ∀ g, (t.getNode m).entry g = (s.getNode m).entry g) ∧ (∀ m, ∀ r ∈ (t.getNode m).rounds, r.group ≠ group) ∧
       t = { s with halo := t.halo, sched := s.sched.filter fun x => !x.2.inTree fun g => g == group }
     (part < 64 → node < 69 → s.fns = [] → Sparse.get none s.grpPart group.toNat = some part → (s.getNode node).failed = false →
       (b.getLsbD 64 = false → s.entryOk node group none = true → Gives (.groupEntryWrite part node b) s taken) ∧
       (s.entryOk node group written = false → exec (.groupEntryWrite part node b) s = .next s) ∧
       (node < 64 → b.getLsbD 64 = true → b.getLsbD 65 = true → (op = 0 ∧ ityp ≤ 2 ∧ otyp ≤ 2) ∨ (1 ≤ op ∧ op ≤ 8 ∧ ityp = 3 ∧ otyp = 3) ∨
         (9 ≤ op ∧ op ≤ 10 ∧ ityp = 0 ∧ otyp = 0) → 1 ≤ expect → expect = ((List.range 16).filter fun x => b.getLsbD x).length →
         (∀ m, m ≠ node → (s.getNode m).entry group = none) → s.liveGroups.length < 4096 → Gives (.groupEntryWrite part node b) s fun t =>
           taken t ∧ e.valid = true ∧ e.nelem = b.toNat / 2 ^ 74 % 2 ^ 16 ∧ e.op = op)) ∧
     (node < 69 → (s.getNode node).failed = false → s.mgmt.queues = [] → (∀ m, (s.getNode m).rounds = []) → Gives (.haloNodeFailed node) s fun t =>
       (t.getNode node).failed = true ∧ (∀ g ∈ (s.getNode node).entries, g.valid = true → ∀ m, (t.getNode m).entry g.group = none) ∧
       (∃ q ∈ t.mgmt.queues, ∃ x ∈ q.recs, x.cls = 8 ∧ x.sev = 1 ∧ x.code = 0x0209) ∧ t.tile = s.tile))

/-! ### The placer, the dispatcher and the logs (R35 to R59, R324 to R329, R388, R435) -/

/-- R39 to R41, R44, R45, R47: how a launch comes to run. A record whose length is not 64 is rejected with reason 1; one that nothing rejects
has its image header read. A header that cannot be read is rejected with reason 0x0A; a valid one makes the launch eligible under the next
number. Waiting raises its priority. Placement empties each tile of the gang, with the argument in s1 and its member index in s2; the image
fetched, the gang runs. A launch that has waited too long reserves the tiles of its best position. What the placer sends behind the record's
ACK waits for its turn (R119). The model's own: placement is tried in the next cycle (log 10), and the records are checked one at a time (log
36). -/
def Obligations.LaunchesComeToRun : Prop :=
  ∀ (p : Packet) (l : Launch) (e : Ent) (leads : List Nat) (due part : Nat) (s : State), s.halo = [] → s.parts = [] →
    let now (st : LState) (t : State) : Prop := ∃ x, t.launches = [x] ∧ x.lrec = l.lrec ∧ x.st = st
    let ack (t : State) : Prop := ∃ u ∈ t.torus, ∃ q, u.ev = .packet q ∧ q.hdr.kind = 0x05 ∧ q.hdr.dest = p.hdr.src ∧ q.hdr.xid = p.hdr.xid
    (s.launches = [] → Quiet s 0x4C0 → Reachable s p.hdr.src → p.hdr.kind = 0x01 →
      (p.payload.length ≠ 64 → Gives (.launch p) s fun t => ack t ∧ t.launches = [] ∧ t.tile = s.tile ∧
        WillSay t 0x4C0 p.hdr.src p.hdr.tag p.hdr.group
          (toLE 4 0 ++ toLE 1 4 ++ toLE 1 1 ++ toLE 2 0 ++ toLE 4 0 ++ toLE 4 0 ++ toLE 8 s.time ++ toLE 8 0)) ∧
      (s.rejection p.hdr.src 64 p.payload = none → p.payload.length = 64 → s.mgmt.outMask = [] → Gives (.launch p) s fun t => ack t ∧
        (∃ x, t.launches = [x] ∧ x.st = .header ∧ x.lrec = LaunchRec.ofBytes p.payload ∧ x.launcher = p.hdr.src) ∧
        ∃ f ∈ (t.getNi 0x4C0).ents, f.kind = .get ∧ f.phase = .shards ∧ f.unsent = [0] ∧ f.pairWait = false ∧ ∃ x, f.shards = [x] ∧
          let q := x.shard
          q.no = 0 ∧ q.issuer = s.rankOf 0x4C0 ∧ q.actx = (LaunchRec.ofBytes p.payload).actx ∧
          q.srv = homeOf (LaunchRec.ofBytes p.payload).image ∧ q.pieces = [⟨0, (LaunchRec.ofBytes p.payload).image, 64⟩])) ∧
    (s.launches = [l] → s.grpPart = [] → s.pkg < 2 ^ 20 → s.injecting 0x4C0 = false → Reachable s l.launcher → l.st = .header →
      (s.getNi 0x4C0).ents = [e] → e.cookie.toNat = l.n + 1 → e.phase = .done →
      (e.rcd.status = 0x08 → Gives (.imageHeaderRead l.n) s fun t => t.launches = [] ∧ Event s t l 0 4 10 0) ∧
      (e.rcd.status = 0x00 → headerOk l.header l.lrec.imglen = true → l.lrec.preds = [] → s.placeable l = true →
        let n := (s.nextLaunch - 1) % 0xFFFFFFFF + 1
        Gives (.imageHeaderRead l.n) s fun t => now .eligible t ∧ (∃ x, t.launches = [x] ∧ x.n = n) ∧ t.nextLaunch = s.nextLaunch + 1 ∧
          Event s t l n 1 0 0)) ∧
    (s.launches = [l] → l.st = .eligible → min 7 (l.lrec.prio + l.boost) < 7 →
      (l.boost + 1) * (1000 * s.param (some l.lrec.part) 0) ≤ s.time - l.since → Gives (.agingStep l.n) s fun t =>
        t = { s with launches := [{ l with boost := l.boost + 1 }], sched := s.sched ++ [(s.cycle + 1, .placement l.lrec.part)] }) ∧
    (s.launches = [l] → l.st = .eligible → l.lrec.flags.getLsbD 2 = false → s.placeFor l = some leads → leads.Nodup → (∀ x ∈ leads, x < 0x400) →
      Gives (.placement l.lrec.part) s fun t => now .loading t ∧ ∀ i < leads.length,
        let u := t.getTile (leads.getD i 0)
        u.run = .loading ∧ u.gang = l.n ∧ u.mem = [] ∧ (u.thr.regs.getS 1).val = l.lrec.argva ∧ (u.thr.regs.getS 2).val = BitVec.ofNat 64 i ∧
        (∀ n, n ≠ 1 → n ≠ 2 → u.thr.regs.getS n = SVal.zero) ∧ u.cr 0x002 = BitVec.ofNat 64 l.n ∧ u.thr.pc = field l.header 0x14 4) ∧
    (OneTileLaunch s l → l.st = .loading → s.tile.gang = l.n → s.tile.ni.ents = [e] → e.id = 0 → e.phase = .done → e.rcd.status = 0x00 →
      Gives (.imageFetch l.n s.tile.ep) s fun t => now .placed t ∧ t.tile.run = .running ∧ t.tile.ni.ents = [] ∧ Event s t l l.n 2 0 s.tile.ep) ∧
    (s.launches = [l] → l.lrec.part = part → s.drainDue part = some l → s.bestPosition l = some (leads, some due) →
      due ≤ s.time + 1000 * s.param (some part) 2 → Gives (.drainReservation part) s fun t =>
        (Sparse.get Part.zero t.parts part).reserve = some (l.n, withTrailing l.lrec.shape leads) ∧ t = { s with parts := t.parts })

/-- R42, R48 to R54, R324: how gangs leave their tiles. Withdrawal and a lease that has run out stop the members, and when these have nothing in
flight the launch ends with event 6; its last tile's END ends it with event 3; a parked gang ends likewise with event 7, the cause and the
tile, or neither in a halted partition, once its record has been delivered or 10 ms have passed; its tile is then free. Pre-emption stops the
tiles of its victims; 20 µs later, with nothing in flight, their contexts go to the shadow stores, and come back when they resume, registers
and stores as they were. The model's own: an exchange takes the whole 20 µs (log 26), the dump area is unspecified afterwards (log 74),
placement is tried in the next cycle (log 10), and the instruction store goes with the context (log 59). -/
def Obligations.GangsLeaveTheirTiles : Prop :=
  ∀ (l g : Launch) (c : Context) (cause tile at_ : Nat) (s : State),
    let ended (ev reason tl : Nat) (t : State) : Prop := (∃ x, t.launches = [x] ∧ x.n = l.n ∧ x.st = .ended ev ∧ x.tiles = []) ∧
      Event s t l l.n ev reason tl ∧ t.tile.run = .idle ∧ t.tile.gang = 0 ∧ t.tile.ni.ents = [] ∧ (s.cycle + 1, .placement l.lrec.part) ∈ t.sched
    let now (st : LState) (t : State) : Prop := ∃ x, t.launches = [x] ∧ x.n = l.n ∧ x.st = st
    (OneTileLaunch s l → l.st = .placed → s.tile.gang = l.n → s.tile.run ≠ .removed →
      let expired := l.lrec.lease ≠ 0 ∧ l.placedAt + 1000 * l.lrec.lease + l.suspended ≤ s.time
      (AtRest s → (Gives (.withdraw l.n) s (ended 6 0 0)) ∧ (expired → Gives (.leaseExpiry l.n) s (ended 6 0 0)) ∧
        (l.parkedBy = some (tile, cause) →
          let fault (t : State) : Prop := if l.halt then ended 7 0 0 t else ended 7 cause tile t
          (Gives (.gangFaulted l.n) s fault) ∧
          (l.recordAt = some at_ → at_ + 10000000 ≤ s.time → Gives (.faultDeliveryTimeout l.n) s fault))) ∧
      (s.tile.spec = none → s.tile.run = .running → ¬AtRest s →
        let stops (t : State) : Prop := now (.quitting 6 0) t ∧ t.tile = { s.tile with run := .stopping, waitw := false } ∧ t.torus = s.torus
        (Gives (.withdraw l.n) s stops) ∧ (expired → Gives (.leaseExpiry l.n) s stops)) ∧
      (s.tile.run = .running → s.tile.thr.endStep = 3 → Gives (.tileEnd s.tile.ep) s (ended 3 0 0))) ∧
    (OneTileLaunch s l → l.st = .quitting 6 0 → s.tile.gang = l.n → s.tile.run = .stopping → AtRest s → Gives (.leaseExpiry l.n) s (ended 6 0 0)) ∧
    (s.launchNo l.n = some l → l.st = .eligible → s.placeFor l = none → s.victims l = some [g.n] → s.launchNo g.n = some g → l.n ≠ g.n →
      g.tiles = [s.tile.ep] → g.lrec.flags.getLsbD 2 = false → s.tile.run = .running → s.tile.spec = none → Gives (.preemption l.n) s fun t =>
        t.launchNo g.n = some { g with st := .stopping, by_ := l.n } ∧ t.tile = { s.tile with run := .stopping, waitw := false } ∧
        t.sched = s.sched ++ [(s.cycle + (20000 * s.mgmt.clock + 9) / 10, .preempted g.n)]) ∧
    (OneTileLaunch s l → l.st = .stopping → s.tile.run = .stopping → s.tile.spec = none →
      (¬AtRest s → Gives (.preempted l.n) s fun t => t = { s with sched := s.sched ++ [(s.cycle + 1, .preempted l.n)] }) ∧
      (AtRest s → Gives (.preempted l.n) s fun t => now .suspended t ∧ Event s t l l.n 9 0 0 ∧
        t.tile.run = .idle ∧ t.tile.gang = 0 ∧ t.tile.mem = [] ∧ t.tile.imem = [] ∧ t.tile.anvil = s.tile.anvil ∧
        ∃ x, t.tile.shadow = some x ∧ x.thr = s.tile.thr ∧ x.mem = s.tile.mem ∧ x.imem = s.tile.imem ∧ x.ni = s.tile.ni.dumped ∧
          x.latch = s.tile.latch ∧ x.gang = s.tile.gang ∧ x.run = .running)) ∧
    (OneTileLaunch s l → l.st = .suspended → l.by_ = 0 → s.tile.gang = 0 → Gives (.placement l.lrec.part) s fun t => now .resuming t ∧
      t.tile = s.tile ∧ (s.cycle + (20000 * s.mgmt.clock + 9) / 10, .resume l.n) ∈ t.sched) ∧
    (OneTileLaunch s l → l.st = .resuming → s.tile.shadow = some c → c.twin = none → c.ni.ents = [] → c.poison = [] → Gives (.resume l.n) s fun t => now .placed t ∧
      Event s t l l.n 10 0 0 ∧ t.tile.run = c.run ∧ t.tile.gang = c.gang ∧ t.tile.mem = c.mem ∧ t.tile.imem = c.imem ∧ t.tile.shadow = none ∧
      t.tile.thr.pc = c.thr.pc ∧ t.tile.thr.land = c.thr.land ∧ (∀ n, t.tile.thr.regs.getS n = c.thr.regs.getS n) ∧
      (∀ n, t.tile.thr.regs.getV n = c.thr.regs.getV n) ∧ t.tile.anvil = s.tile.anvil)

/-- R55 to R59, R204: work items. An item for a stage that a launch binds is queued and acknowledged; without a launch that binds it, it is
answered DENIED. A tile that waits takes the oldest item with the dispatch's ticket; under a restartable gang it stays logged until the
acknowledgement with that ticket forgets it. The model's own: a delivery is one step (log 25), the codes of the ACKs (log 14), and a gang binds
its stages while it has tiles (log 76). -/
def Obligations.WorkItems : Prop :=
  ∀ (p : Packet) (l : Launch) (i : Item) (part ep : Nat) (s : State), p.hdr.kind = 0x01 →
    let h := p.hdr
    let stage := h.tag.toNat
    let answered (off : Nat) (t : State) : Prop := Sends s t fun q => q.hdr.kind = 0x05 ∧ q.hdr.hflags = 0 ∧ q.hdr.dest = h.src ∧
      q.hdr.xid = h.xid ∧ q.hdr.offset = BitVec.ofNat 32 off
    let binds (n : Nat) : Prop := l.st = .placed ∧ l.lrec.stage.toNat % 256 ≤ n ∧ n < l.lrec.stage.toNat % 256 + l.lrec.stage.toNat / 256
    let word (o : Nat) : Word := BitVec.ofNat 64 (ofLE ((i.data.drop o).take 8))
    (s.ownPkg h.src = true → rankEp h.src < 0x400 → h.len = 16 → stage < 256 →
      (s.launches = [] → Gives (.workItem p) s fun t => answered 0xC0000000 t ∧ t = { s with torus := t.torus }) ∧
      (Sparse.get none s.stgPart stage = some part → s.partOf (rankEp h.src) = some part → l ∈ s.launches → binds stage →
        s.disp.queues.length < 16384 → Gives (.workItem p) s fun t => answered 0x80000010 t ∧ t.tile = s.tile ∧
          ∃ x, t.disp.queues = s.disp.queues ++ [x] ∧ x.stage = stage ∧ x.data = p.payload.take 16 ∧ x.count = 0)) ∧
    (s.launches = [l] → l.tiles = [ep] → binds i.stage → (s.getTile ep).waitw = true → (s.getTile ep).run = .running → (s.getTile ep).item = [] →
      s.disp.queues = [i] → Gives (.itemDelivery ep) s fun t => t.disp.queues = [] ∧ t.disp.seq = (s.disp.seq + 1) % 2 ^ 32 ∧
        (l.lrec.flags.getLsbD 0 = false → t.disp.logged = s.disp.logged) ∧
        (l.lrec.flags.getLsbD 0 = true → ∃ x, t.disp.logged = s.disp.logged ++ [⟨x, ep, l.n, s.disp.seq⟩] ∧ x.stage = i.stage ∧ x.data = i.data ∧
          x.count = i.count + 1) ∧
        t.getTile ep = { s.getTile ep with
          item := [BitVec.ofNat 64 i.stage, BitVec.ofNat 64 (s.disp.seq % 2 ^ 32 + i.stage % 256 * 2 ^ 32), word 0, word 8] }) ∧
    (s.ownPkg h.src = true → s.disp.logged = [⟨i, rankEp h.src, l.n, part⟩] → l ∈ s.launches → binds i.stage → l.lrec.flags.getLsbD 0 = true →
      p.payload = toLE 8 (part % 2 ^ 32 + i.stage % 256 * 2 ^ 32) → Gives (.donewAck p) s fun t => t.disp.logged = [] ∧ answered 0x80000008 t ∧
        t.tile = s.tile)

/-- R324 to R329, R388, R389, R435: a queued record goes to the host's ring when it has room, with the count of those lost before it, and to its
partition's fault rank. A request that has waited 64 µs for its partner completes CANCELLED, and both tiles trap at their next boundary. An
anvil region without poison or errors that nothing has accessed for RETIDLE enters retention, and is read there every 100 ms. The model's
own: a record's delivery is one step (log 10). -/
def Obligations.RecordsTwinsRetention : Prop :=
  ∀ (key part j t0 : Nat) (q : LogQueue) (r : LogRec) (w : Twin) (id n : Nat) (x : Nat × List Word) (e : Ent) (rank : Rank) (s : State),
    let m := s.mgmt
    (m.queues = [q] → q.key = key → q.recs = [r] → s.launches = [] → (m.elTail + 2 ^ 32 - m.elHead) % 2 ^ 32 < 4096 →
      let taken (t : State) : Prop := (m.elTail % 4096, { r with lost := q.lost }) ∈ t.mgmt.ring ∧ t.mgmt.elTail = (m.elTail + 1) % 2 ^ 32 ∧
        t.mgmt.queues = [{ q with recs := [], lost := 0 }] ∧ t.mgmt.msix1 = (if m.elIen then m.msix1 + 1 else m.msix1) ∧ t.tile = s.tile
      (s.parts = [] → Gives (.logRecordDelivery key) s fun t => taken t ∧ OnlyMgmt s t) ∧
      ((Sparse.get Part.zero s.parts r.part).faultRank = rank → rank ≠ 0xFFFFFFFF → r.part < 64 → r.sev < 3 → Quiet s 0x4C2 → Reachable s rank →
        Gives (.logRecordDelivery key) s fun t => taken t ∧ Says t (s.rankOf 0x4C2) rank (BitVec.ofNat 32 (r.cls + 256 * r.sev))
          (BitVec.ofNat 16 (Sparse.get Part.zero s.parts r.part).faultGrp) ({ r with lost := q.lost } : LogRec).bytes)) ∧
    (s.tile.ep < 0x400 → (s.tile.ni.ents.map fun f => f.id).Nodup → s.tile.twin = some w → w.lead = false → w.partner ≠ s.tile.ep →
      w.reqs = [(n, x.1, x.2, id, t0)] → 64000 ≤ t0 → e ∈ s.tile.ni.ents → e.id = id → e.phase ≠ .done → Plain e →
      Gives (.twinCompareTimeout s.tile.ep) s fun t => EntDone s t id 0x03 0 0 ∧
        t.tile.twin = some { w with reqs := [], mismatch := some (BitVec.ofNat 64 (n % 2 ^ 32 * 2 ^ 32 + 128 + 2)) } ∧
        (t.getTile w.partner).twin = (s.getTile w.partner).twin.map fun v => { v with mismatch := some (BitVec.ofNat 64 (n % 2 ^ 32 * 2 ^ 32 + 2)) }) ∧
    (j < 8 → s.tile.poison = [] → s.tile.flaws = [] →
      let held (v : Retain) (t : State) : Prop := t.tile.retained j = some v ∧ (∀ i, i ≠ j → t.tile.retained i = s.tile.retained i) ∧
        t = { s with tile := { s.tile with retain := t.tile.retain } }
      (s.partOf s.tile.ep = some part → s.param (some part) 7 ≠ 0 → s.tile.retained j = some (.active t0) →
        t0 + 1000 * s.param (some part) 7 ≤ s.time → Gives (.retentionEntry s.tile.ep j) s (held (.entering (s.time + 6000)))) ∧
      (s.tile.retained j = some (.kept t0) → t0 + 100000000 ≤ s.time → Gives (.retentionScrub s.tile.ep j) s (held (.kept s.time))))

/-! ### The host port (R308 to R312, R317, R329, R361, R409, R436, R438 to R440) -/

/-- R309 to R311: descriptors of an active function with a partition, and an idle interface. SEND and SENDR send the bytes at HADDR whole, SENDR
with RELPEND and its RELEASE behind; POST posts a receive into host memory; CANCEL ends the POST that VA names, whose completion is queued;
GET and PUT send the shard of their one page, of which up to 2 KiB go in a packet; another OP completes DENIED in the next step. A completion goes to the ring at TAIL, and MSI-X
vector 0 fires when IEN is 1. The model's own: a completion is written in the cycle after its entry is done (log 10), and CANCEL makes no
completion of its own (log 38). -/
def Obligations.HostDescriptors : Prop :=
  ∀ (fn part : Nat) (d : Descriptor) (e : Ent) (c : Rec × Word) (s : State), fn < 64 →
    let f := s.getFn fn
    let key := 0x500 + fn
    let bytes := (List.range d.len.toNat).map fun i => Sparse.get 0 s.hostMem (d.haddr.toNat + i)
    let entered (t : State) (P : Ent → Prop) : Prop := ∃ x, (t.getFn fn).ni.ents = f.ni.ents ++ [x] ∧ x.group = d.group ∧ x.len = d.len.toNat ∧
      x.cookie = d.cookie ∧ x.rank = d.rank ∧ P x
    (f.en = true → f.state ≠ .error → f.part = some part → s.grpPart = [] → s.pkg < 2 ^ 20 → f.ni.ents = [] →
      (Reachable s d.rank → d.len.toNat ≤ 512 → s.injecting key = false →
        (Gives (.hostSend fn d) s fun t => entered t (fun x => x.kind = .send ∧ x.tag = d.tag ∧ x.phase = .awaitAck) ∧
          Says t (s.rankOf key) d.rank d.tag d.group bytes ∧ t.tile = s.tile ∧ t.hostMem = s.hostMem) ∧
        (Gives (.hostSendr fn d) s fun t => Says t (s.rankOf key) d.rank d.tag d.group bytes ∧ t.tile = s.tile ∧ t.hostMem = s.hostMem ∧
          (∃ u ∈ t.torus, ∃ q, u.ev = .packet q ∧ q.hdr.kind = 0x01 ∧ q.hdr.dest = d.rank ∧ q.hdr.hflags = 0xA) ∧
          ∃ u ∈ t.torus, ∃ q, u.ev = .packet q ∧ q.hdr.kind = 0x08 ∧ q.hdr.dest = d.rank ∧ q.hdr.offset = 0)) ∧
      (d.len.toNat ≤ 16777215 → f.ni.unexp = [] → Gives (.hostPost fn d) s fun t => entered t (fun x => x.kind = .post ∧ x.phase = .posted ∧
        x.tag = d.tag ∧ x.mask = d.tagmask ∧ x.any = decide (d.rank = 0xFFFFFFFF) ∧ x.buf = .host d.haddr.toNat) ∧ t.torus = s.torus ∧
        t.tile = s.tile) ∧
      (Gives (.hostDeniedOp fn d) s fun t => entered t (fun x => x.id = f.ni.nextId) ∧ (f.ni.nextId, 9, s.cycle + 1) ∈ (t.getFn fn).ni.instant ∧
        t.torus = s.torus ∧ t.tile = s.tile) ∧
      (1 ≤ d.len.toNat → d.va.toNat < 2 ^ 48 → d.va.toNat % 65536 + d.len.toNat ≤ 65536 → Sparse.get none s.ctxPart d.actx.toNat = some part →
        s.mgmt.outMask = [] → s.injecting key = false →
        let asked (kind : Nat) (l : List Byte) (t : State) : Prop := entered t (fun x => x.phase = .shards) ∧ t.tile = s.tile ∧
          t.hostMem = s.hostMem ∧ ∃ u q, t.torus = s.torus ++ [u] ∧ u.ev = (if 2048 < l.length then .shardPart kind q else .shard kind q) ∧
          q.srv = homeOf d.va.toNat ∧ q.actx = d.actx.toNat ∧
          q.pieces = [⟨0, d.va.toNat, d.len.toNat⟩] ∧ q.data = l
        (Gives (.hostGet fn d) s (asked 0 [])) ∧ (Gives (.hostPut fn d) s (asked 1 bytes)))) ∧
    (f.en = true → f.state ≠ .error → f.part = some part → f.ni.ents = [e] → e.kind = .post → e.cookie = d.va → e.phase = .posted → e.nb = none →
      e.detached = true → Gives (.hostCancel fn d) s fun t => (t.getFn fn).ni.ents = [] ∧
        (∃ r, (t.getFn fn).ni.waitCq = f.ni.waitCq ++ [(r, d.va)] ∧ r.status = 3 ∧ r.dlen = 0 ∧ r.flags = 0x80) ∧
        (s.cycle + 1, .completionQueueWrite fn) ∈ t.sched ∧ t.tile = s.tile) ∧
    (f.ni.waitCq = [c] → f.state ≠ .error → (f.cqTail + 2 ^ 32 - f.cqHead) % 2 ^ 32 < f.cqSize.toNat → Gives (.completionQueueWrite fn) s fun t =>
      let a := f.cqBase.toNat + 64 * (f.cqTail % f.cqSize.toNat)
      let l := (c.1.words.flatMap fun w => toLE 8 w.toNat) ++ toLE 8 c.2.toNat ++ toLE 24 0
      (∀ i < 64, Sparse.get 0 t.hostMem (a + i) = l.getD i 0) ∧ (∀ x, (x < a ∨ a + 64 ≤ x) → Sparse.get 0 t.hostMem x = Sparse.get 0 s.hostMem x) ∧
      t.getFn fn = { f with cqTail := (f.cqTail + 1) % 2 ^ 32, msix := if f.ien then f.msix + 1 else f.msix, ni := { f.ni with waitCq := [] } } ∧
      t.tile = s.tile ∧ t.torus = s.torus ∧ t.sched = s.sched)

/-- R309, R311, R317, R329, R361, R409, R436, R438: the registers that the host writes. SQTAIL is kept, and QERR set when it lies beyond the
ring, after which no descriptor is fetched before it is written again; HWCTL sets IEN, clears QERR by a one and sets EN when the rings are right; CQHEAD, ELHEAD and JHEAD ignore a value beyond their ring;
PWRLIM is clamped; ALARMCTL keeps LOCK and is not lowered under it; ALARMSTAT is cleared by ones. A locked field is written in
CONFIG_UNLOCKED alone; the same write after the lock moves the interface to ERROR. R312, R439, R440: the TDISP interface of a function. LOCK
leads from CONFIG_UNLOCKED to CONFIG_LOCKED and counts, START from there to RUN, STOP back; the report of a locked interface holds one
MMIO range, BAR 0 with 64 KiB, and its partition and what it has, that of an unlocked one nothing. A broken IDE link leads to ERROR with a record of severity 3, the function's
entries gone. The model's own: POLICY is lowered when its two bits are numerically less (log 41), and a broken link is taken in every state
but ERROR (log 40). -/
def Obligations.HostRegistersAndInterfaces : Prop :=
  (∀ (fn : Nat) (v : Word) (s : State), fn < 64 →
     let f := s.getFn fn
     let m := s.mgmt
     let low := v.toNat % 2 ^ 32
     let becomes (g : HostFn) (t : State) : Prop := t.getFn fn = g ∧ (∀ k, k ≠ fn → t.getFn k = s.getFn k) ∧ t = { s with fns := t.fns }
     let mgmt (n : Mgmt) (t : State) : Prop := t = { s with mgmt := n }
     let both (i : Instr) (off : Nat) (P : State → Prop) : Prop := Gives i s P ∧ Gives (.hostRegisterWrite 0 true off v) s P
     (f.en = false → Gives (.sqtailWrite fn v) s (becomes
       { f with
         sqTail := low
         qerr := f.qerr || decide (f.sqSize.toNat < (low + 2 ^ 32 - f.sqHead) % 2 ^ 32)
         tailDue := decide (f.sqSize.toNat < (low + 2 ^ 32 - f.sqHead) % 2 ^ 32) })) ∧
     (f.tailDue = true → ∀ n, s.fetchDescriptors fn n = s) ∧
     (f.sqTail = f.sqHead → f.sqTail < 2 ^ 32 → f.state = .unlocked ∨ f.state = .run → f.en = false → v.getLsbD 0 = true →
       (∃ i j, 4 ≤ i ∧ i ≤ 12 ∧ 4 ≤ j ∧ j ≤ 12 ∧ f.sqSize = 2 ^ i ∧ f.cqSize = 2 ^ j ∧ f.sqBase.toNat % 4096 = 0 ∧ f.cqBase.toNat % 4096 = 0) →
       ∀ i ∈ ([.hwctlEnWrite fn v, .qerrClear fn v, .hostRegisterWrite fn false 0x000 v] : List Instr), Gives i s (becomes
         { f with en := true, ien := v.getLsbD 1, qerr := f.qerr && !v.getLsbD 2 })) ∧
     ((f.cqTail + 2 ^ 32 - low) % 2 ^ 32 ≤ f.cqSize.toNat → Gives (.cqheadWrite fn v) s fun t => t.getFn fn = { f with cqHead := low } ∧
       t = { s with fns := t.fns, sched := s.sched ++ [(s.cycle + 1, .completionQueueWrite fn)] }) ∧
     (f.cqSize.toNat < (f.cqTail + 2 ^ 32 - low) % 2 ^ 32 → exec (.cqheadWrite fn v) s = .next s) ∧
     (f.state = .unlocked → Gives (.lockedFieldWrite fn 0x008 v) s (becomes { f with sqBase := v })) ∧
     (f.state = .locked ∨ f.state = .run → f.part = none → Gives (.lockedFieldWrite fn 0x008 v) s fun t =>
       (t.getFn fn).state = .error ∧ (t.getFn fn).en = false ∧ (t.getFn fn).sqBase = f.sqBase ∧ (t.getFn fn).ni.ents = [] ∧ t.tile = s.tile) ∧
     both (.pwrlimWrite v) 0x20 (mgmt { m with pwrlim := max 600 (min 2400 (v.toNat % 4096)) }) ∧
     both (.elheadWrite v) 0x38 (mgmt (if 4096 < (m.elTail + 2 ^ 32 - low) % 2 ^ 32 then m else { m with elHead := low })) ∧
     (m.jFull = false → both (.jheadWrite v) 0x50 (mgmt (if 8192 < (m.jTail + 2 ^ 32 - low) % 2 ^ 32 then m else { m with jHead := low }))) ∧
     both (.alarmctlWrite v) 0x60 (mgmt
       { m with policy := if m.alock = true ∧ v.toNat % 4 < m.policy then m.policy else v.toNat % 4, alock := m.alock || v.getLsbD 2 }) ∧
     both (.alarmstatClear v) 0x68 (mgmt { m with asrc := m.asrc &&& ~~~(v.extractLsb' 0 4) })) ∧
  (∀ (fn off part : Nat) (s : State), fn < 64 →
     let f := s.getFn fn
     let becomes (g : HostFn) (t : State) : Prop := t.getFn fn = g ∧ (∀ k, k ≠ fn → t.getFn k = s.getFn k) ∧ t = { s with fns := t.fns }
     let count (l : List (Nat × Option Nat)) : Nat := (l.filter fun x => x.2 == some part).length
     let slots := (((s.keys ++ s.slotPart).filter fun x => x.2 == some part).map fun x => x.1).eraseDups.length
     (f.state = .unlocked → f.part = some part → Gives (.lockInterface fn) s (becomes { f with state := .locked, locks := f.locks + 1 })) ∧
     (f.state ≠ .unlocked → exec (.lockInterface fn) s = .next s) ∧
     (f.state = .locked → Gives (.startInterface fn) s (becomes { f with state := .run })) ∧
     (f.state ≠ .locked → exec (.startInterface fn) s = .next s) ∧
     (f.state ≠ .error → Gives (.stopInterface fn) s (becomes { f with state := .unlocked })) ∧
     (f.state = .error → f.part = none → Gives (.stopInterface fn) s (becomes { f.resetWindow with state := .unlocked })) ∧
     (f.state ≠ .unlocked → f.part = some part → part < 64 → Gives (.getDeviceInterfaceReport fn) s (fun t => ∃ g, becomes g t ∧ g = { f with report := g.report, mmio := [(0, 65536, 0)] } ∧ g.report =
       toLE 2 1 ++ toLE 1 part ++ toLE 1 0 ++ toLE 2 (count s.owner) ++ toLE 2 slots ++ toLE 2 (count s.grpPart) ++
       toLE 2 (count s.ctxPart) ++ toLE 4 f.locks ++ toLE 16 0)) ∧
     (f.state = .unlocked → Gives (.getDeviceInterfaceReport fn) s (becomes { f with report := [], mmio := [] })) ∧
     (f.state ≠ .error → f.part = none → s.mgmt.queues = [] → Gives (.ideIntegrityFailure fn off) s fun t =>
       (t.getFn fn).state = .error ∧ (t.getFn fn).en = false ∧ (t.getFn fn).ni.ents = [] ∧ (t.getFn fn).ni.waitCq = [] ∧ t.tile = s.tile ∧
       ∃ q ∈ t.mgmt.queues, ∃ r ∈ q.recs, r.cls = 0x0B ∧ r.sev = 3 ∧ r.code = 0x0211 ∧ r.addr = off ∧ r.detail0 = 2))

/-! ### The management controller (R26, R32 to R34, R92, R141 to R144, R314 to R317, R328, R402, R403, R434, R437) -/

/-- R32 to R34, R92, R141, R143, R144, R314, R328, R402, R403: what system software has the management controller set. A resource goes to its
partition; a tile that no gang holds and no lock freezes moves with zeroed stores and generations 0, its regions owned by the new partition;
parameters, group descriptors, context descriptors, page entries, pool frames, key slots, fault ranks and package-map entries take the
values given, where the manual admits them. A key slot that is assigned holds no key until one is loaded. Pending shards that wait for a context
fail FAULT when it is told so. The model's own: an occupied tile is not moved (log 39), a descriptor drops no cached translation (log 44), frames
join the pool that the context has at the one server, as every server has its own (log 86), an unloaded slot of a partition may be assigned anew
(log 30), and placement is tried in the next cycle (log 10). -/
def Obligations.PartitionsAndTables : Prop :=
  ∀ (part a g eager slotw k pn addr ep from_ pg why : Nat) (d : CtxDesc) (w : Waiting) (frames : List Nat) (rank : Rank) (e : Word) (s : State),
    part < 64 → s.fns = [] →
    let x := s.getPart part
    let v := s.getSrv k
    let desc := Sparse.get noCtx v.ctx a
    let srv (w : Server) (t : State) : Prop := t.getSrv k = w ∧ (∀ j, j ≠ k → t.getSrv j = s.getSrv j) ∧ t = { s with srv := t.srv, tables := t.tables }
    (a < 65536 → Gives (.partitionAssign part (.ctx a)) s fun t =>
      t = { s with ctxPart := t.ctxPart } ∧ ∀ i, Sparse.get none t.ctxPart i = if i = a then some part else Sparse.get none s.ctxPart i) ∧
    (a < 256 → Gives (.partitionAssign part (.stage a)) s fun t =>
      t = { s with stgPart := t.stgPart } ∧ ∀ i, Sparse.get none t.stgPart i = if i = a then some part else Sparse.get none s.stgPart i) ∧
    (s.tile.ep < 0x400 → s.tile.gang = 0 → s.tile.shadow = none → s.partOf s.tile.ep ≠ some part → Gives (.tilePartitionMove s.tile.ep part) s fun t =>
      t.partOf s.tile.ep = some part ∧ t.tile.mem = [] ∧ t.tile.anvil = [] ∧ t.tile.latch = none ∧ t.tile.shadow = none ∧
      t.tile.imem = s.tile.imem ∧ ∀ j < 8, t.cr (0x0D0 + j) = 0 ∧ (t.cr (0x0D8 + j)).toNat = (s.cr (0x0D8 + j)).toNat % 2 ^ 32 + part * 2 ^ 32) ∧
    (s.tile.ep = ep → s.tile.ep < 0x400 → s.tile.gang ≠ 0 ∨ s.partOf ep = some part → exec (.tilePartitionMove ep part) s = .next s) ∧
    (100 ≤ a → a ≤ 100000 → Gives (.placerParameterSet part .ageStep a) s fun t => t.param (some part) 0 = a ∧
      (∀ i, i ≠ 0 → t.param (some part) i = s.param (some part) i) ∧
      t = { s with parts := t.parts, sched := s.sched ++ [(s.cycle + 1, .placement part)] }) ∧
    (50 ≤ a → a ≤ 100000 → Gives (.placerParameterSet part .shardTo a) s fun t => t.param (some part) 5 = a) ∧
    (Sparse.get none s.grpPart g = some part → 64 ≤ eager → eager ≤ 2048 → eager % 64 = 0 → slotw ≤ 65535 → x.groups.length < 256 →
      Gives (.groupDescriptorWrite part g eager slotw) s fun t => Sparse.get (512, 0) (t.getPart part).groups g = (eager, slotw) ∧
        t = { s with parts := t.parts }) ∧
    (k < 192 → a < 65536 → d.part < 64 → 1000 ≤ d.pendLimit → d.pendLimit ≤ 10000000 → Gives (.contextDescriptorWrite k a d) s
      (srv { v with ctx := Sparse.set noCtx v.ctx a d })) ∧
    (k < 192 → addr < 2 ^ 36 → v.pending = [] → Gives (.pageEntryChange k a pn addr e) s fun t =>
      srv { v with tlb := v.tlb.filter fun y => !(y.1 == a && y.2.1 == pn) } t ∧
      ∀ i, Sparse.get 0 t.tables i = if i = k / 16 * 2 ^ 36 + addr then e else Sparse.get 0 s.tables i) ∧
    (k < 192 → v.pending = [] → Gives (.poolRefill k a frames) s
      (srv { v with ctx := Sparse.set noCtx v.ctx a { desc with pool := desc.pool ++ frames } })) ∧
    (let q := w.shard
     v.pending = [(w, from_, pg, why)] → v.held = [] → v.fences = [] → q.srv = k → q.actx = a → Gives (.failPendingShards k a) s fun t =>
      (t.getSrv k).pending = [] ∧ (Replies t fun r => r.dest = q.issuer ∧ r.xid = q.xid ∧ r.no = q.no ∧ r.result = 8) ∧ t.dram = s.dram) ∧
    (k < 16384 → Sparse.get none s.keys k = none ∨ Sparse.get none s.keys k = some part → Gives (.partitionAssign part (.key k)) s fun t =>
      t = { s with slotPart := t.slotPart } ∧ ∀ i, Sparse.get none t.slotPart i = if i = k then some part else Sparse.get none s.slotPart i) ∧
    (k < 16384 → Sparse.get none s.keys k = none → Sparse.get none s.slotPart k = none ∨ Sparse.get none s.slotPart k = some part →
      Gives (.keySlotLoad k part) s fun t =>
      Sparse.get none t.keys k = some part ∧ (∀ j, j ≠ k → Sparse.get none t.keys j = Sparse.get none s.keys j) ∧ t.keyOf k = s.keyOf k + 1 ∧
      (∀ j, j ≠ k → t.keyOf j = s.keyOf j) ∧ t = { s with keys := t.keys, keyGen := t.keyGen }) ∧
    (s.srv = [] → Gives (.keySlotErase k) s fun t => Sparse.get none t.keys k = none ∧
      (∀ j, j ≠ k → Sparse.get none t.keys j = Sparse.get none s.keys j) ∧ t = { s with keys := t.keys }) ∧
    (Gives (.faultrankSet part rank g) s fun t => t.getPart part = { x with faultRank := rank, faultGrp := g % 65536 } ∧ t = { s with parts := t.parts }) ∧
    (k < 1048576 → Gives (.pkgmapWrite k e) s fun t => t = { s with mgmt := { s.mgmt with pkgmap := t.mgmt.pkgmap } } ∧
      ∀ i, Sparse.get 0 t.mgmt.pkgmap i = if i = k then e else Sparse.get 0 s.mgmt.pkgmap i)

/-- R26, R308, R315 to R317, R437: start-up, time, power and the alarm. Start-up with a copy that verifies releases the units and applies the
harvest map; without one the package stays in recovery and shows 0xDEAD0001. TIME takes a synchronised value. The clock falls by 100 MHz;
D3hot is entered and left; a virtual function is enabled and disabled. An alarm under policy 2 or 3 halts the package, which shows
0xDEAD0002; under policy 1 one that is not thermal erases every key slot and moves the locked and running interfaces to ERROR; under policy 0 it
leaves only its record. A thermal one halts the package under every policy, and the keys follow the policy. The model's own: the clock's floor of
100 MHz (log 42), the alarm's record and parked tiles (log 41), and that a server which the harvest map removes is out of service (log 75). -/
def Obligations.StartUpPowerAlarm : Prop :=
  ∀ (ns fn src : Nat) (on : Bool) (f : HostFn) (s : State),
    let m := s.mgmt
    let logged (t : State) : Prop := ∃ q ∈ t.mgmt.queues, ∃ r ∈ q.recs, r.cls = 0x0D ∧ r.sev = 4 ∧ r.code = 0x0210
    let f0 (t : State) : Prop := (t.getFn 0).enabled = true
    (m.boot = .reset → ∀ b, Gives (.startUp ⟨true, b, []⟩) s fun t => f0 t ∧ t.mgmt = { m with boot := .running, devKey := true, harvest := [], outMask := [] } ∧
      t = { s with fns := t.fns, mgmt := t.mgmt }) ∧
    (m.boot = .reset → Gives (.startUp ⟨false, false, []⟩) s fun t => f0 t ∧
      t.mgmt = { m with boot := .recovery, devKey := true, status := 0xDEAD0001 } ∧ t = { s with fns := t.fns, mgmt := t.mgmt }) ∧
    (m.boot = .reset → s.tile.ep < 1024 → Gives (.startUp ⟨false, true, [s.tile.ep, 0x400 + 5]⟩) s fun t => t.tile.run = .removed ∧
      (t.getSrv 5).out = true ∧ t.mgmt.outMask = [5] ∧ t.mgmt.harvest = [s.tile.ep]) ∧
    (Gives (.timeSync ns) s fun t => t.time = ns % 2 ^ 64 ∧ t.mgmt = { m with tsync := true } ∧ t.tile.thr = s.tile.thr ∧ t.tile.mem = s.tile.mem ∧
      t.cycle = s.cycle) ∧
    (Gives .tileClockLowering s fun t => t = { s with mgmt := { m with clock := max 1 (m.clock - 1) } }) ∧
    (s.launches = [] → Gives .d3hotEntry s fun t => t = { s with mgmt := { m with d3hot := true } }) ∧
    (Gives .d0Entry s fun t => t = { s with mgmt := { m with d3hot := false } }) ∧
    (1 ≤ fn → fn < 64 → Gives (.srIovEnable fn on) s fun t => t.getFn fn = { s.getFn fn with enabled := on } ∧ t = { s with fns := t.fns }) ∧
    (src < 4 → m.queues = [] →
      (m.policy = 0 → src ≠ 3 → Gives (.alarm src) s fun t => t.mgmt.boot = m.boot ∧ t.mgmt.asrc = m.asrc ||| (1 <<< src) ∧
        t.mgmt.acount = min 255 (m.acount + 1) ∧ t.keys = s.keys ∧ t.tile = s.tile ∧ logged t) ∧
      (m.policy = 1 → src ≠ 3 → s.srv = [] → (s.fns = [] ∨ (s.fns = [(fn, f)] ∧ f.part = none)) → Gives (.alarm src) s fun t => t.mgmt.boot = m.boot ∧
        t.keys = [] ∧ t.mgmt.devKey = m.devKey ∧ t.mgmt.ideKeys = m.ideKeys ∧ t.mgmt.spdmKeys = m.spdmKeys ∧ t.tile = s.tile ∧ logged t ∧
        (s.fns ≠ [] → (t.getFn fn).state = if f.state = .locked ∨ f.state = .run then .error else f.state)) ∧
      (m.policy ≤ 1 → src = 3 → s.fns = [] → s.srv = [] → s.others = [] → s.tile.run = .idle → s.tile.twin = none → s.tile.ep < 0x400 → s.tile.ni.ents = [] →
        Gives (.alarm src) s fun t => t.mgmt.boot = .halted ∧ t.mgmt.status = 0xDEAD0002 ∧ t.mgmt.devKey = m.devKey ∧ t.mgmt.ideKeys = m.ideKeys ∧
          t.mgmt.spdmKeys = m.spdmKeys ∧ t.keys = (if m.policy = 0 then s.keys else []) ∧ t.tile.run = .parked) ∧
      (2 ≤ m.policy → s.fns = [] → s.srv = [] → s.others = [] → s.tile.run = .idle → s.tile.twin = none → s.tile.ep < 0x400 → s.tile.ni.ents = [] →
        Gives (.alarm src) s fun t => t.mgmt.boot = .halted ∧ t.mgmt.status = 0xDEAD0002 ∧ t.mgmt.devKey = false ∧ t.mgmt.ideKeys = false ∧
          t.mgmt.spdmKeys = false ∧ t.keys = [] ∧ t.tile.run = .parked))

/-! ### Slot words (R177 to R181, R353, R354) -/

/-- R177 to R181: words written out field by field, each with the slot and the instruction that it stands for; and reserved words with their
reasons. -/
def Obligations.DecodeWords : Prop :=
  (∀ e ∈ ([(0, 0b000111_01_00000010_0000000000010000#32, .loopi 1 2 16), (0, 0b000010_1_1_0_0000_101_0000000000000111#32, .brp 1 1 0 5 7),
      (1, 0b000010_00011_00011_0000000001000000#32, .addi 3 3 64), (2, 0b000001_00111_01000_01001_00000000001#32, .sub 7 8 9),
      (2, 0b001100_00010_00011_000_1_000100_000111#32, .bfxs 2 3 4 7), (3, 0b000001_00100_00011_100_0000000001000#32, .ldw 4 3 8),
      (3, 0b000100_00001_00010_00011_0000000_1_110#32, .stx 1 2 3 1 6), (4, 0b000010_00010_00000_00001_000_00000000#32, .vfma 2 0 1 0),
      (4, 0b010000_00_011_00_101_00_110_000_00000010#32, .vmor 3 5 6), (5, 0b000001_00000_00100_00101_0000000_010_1#32, .mldbg 4 5 2),
      (5, 0b000100_000_10_00001_00010_00011_000000#32, .mmaEe 2 1 2 3), (6, 0b000001_0_0011_00100_00101_00110_000000#32, .send 3 4 5 6),
      (6, 0b001010_01001_0_0011_00000000000000_01#32, .mrec 9 3 1), (7, 0b001011_0_1100_0_1100_0_0110_00000000000#32, .breg 12 12 6),
      (7, 0b001101_00_010_000_01_000_11_00000000000#32, .scmp 2 1 3)] : List (Nat × W32 × Instr)), decodeSlot e.1 e.2.1 = .ok e.2.2) ∧
  ∀ e ∈ ([(0, 0b010110_00000000000000000000000000#32, 0), (0, 0b010010_00001_000000000_000000001100#32, 1),
      (1, 0b000000_00000000000000000000000001#32, 2), (1, 0b001111_1_0001_0_0001_0_0001_00000000000#32, 3),
      (1, 0b001111_1_0001_0_0001_0_0001_11111111111#32, 1), (4, 0b000001_00010_00000_00001_000_00000111#32, 1),
      (5, 0b000001_00000_00100_00101_0000000_010_0#32, 2)] : List (Nat × W32 × Nat)), decodeSlot e.1 e.2.1 = .error e.2.2

/-- R177 to R181: a word made from an instruction decodes to that instruction in its slot, with every operand at every value; an I-slot word
does so in both I slots, and the word of NOP is zero and decodes to NOP in every slot. -/
def Obligations.EncodedWordsDecode : Prop :=
  (∀ (i : Instr) (k : Nat), i.wellFormed = true → slotOf i = some k →
    ∃ w, encode i = some w ∧ decodeSlot k w = .ok i ∧ (k = 1 → decodeSlot 2 w = .ok i)) ∧
  encode .nop = some 0 ∧ ∀ k, decodeSlot k 0 = .ok .nop

/-- R177, R353: a word that a slot accepts is the word of the instruction that it decodes to, so no two words of a slot stand for one
instruction, and every bit that names nothing must be zero; the instruction is well formed. -/
def Obligations.AcceptedWordsEncode : Prop :=
  ∀ (k : Nat) (w : W32) (i : Instr), k < 8 → decodeSlot k w = .ok i → encode i = some w ∧ i.wellFormed = true

/-! ### The step -/

/-- R316, R437: what a step takes. No step stops the machine. The package after reset starts up; of a running one an input that it takes is run,
another is passed over; with no input the next tile of the round takes its turn; with none the cycle ends. A halted package gives no tile a
turn. The order of inputs and turns is the model's own (log 9), as is the list of inputs (logs 46, 52). -/
def Obligations.StepTakesInputsThenTurns : Prop :=
  ∀ (s : State),
    (∃ t, step s = .next t) ∧
    (s.mgmt.boot = .halted → s.turns = [] → step s = .next s.haltedCycle ∧ s.haltedCycle.round = []) ∧
    (s.mgmt.boot = .reset → step s = .next (s.startUp s.mgmt.flash)) ∧
    (s.mgmt.boot = .running →
      (∀ i rest, s.turns = .input i :: rest →
        step s = if (s.popTurn rest).takes i then exec i (s.popTurn rest) else .next (s.popTurn rest)) ∧
      (∀ ep rest, s.turns = [] → s.round = ep :: rest → step s = .next (State.tileTurn { s with round := rest } ep)) ∧
      (s.turns = [] → s.round = [] → step s = .next s.nextCycle))

/-- R176, R182, R187, R193, R331: a step runs the decoded instruction. The next tile of the round runs a confirmed path, and the
bundle at its program counter, in fixed or in packed form, holds one word, in slot `k`, that decodes to `i`. The step is then `exec i` in the state that opens the
bundle's issue, and around it: when `i` has its effect the bundle leads to its successor or where its transfer or a loop says; when it
stalls the bundle stays; when it traps at issue the trap is taken with its cause. The order of turns within a cycle is the model's own (log
9). -/
def Obligations.StepRunsTheDecodedWord : Prop :=
  ∀ (s : State) (ep k succ : Nat) (rest : List Nat) (w h : W32) (i : Instr),
    s.mgmt.boot = .running → s.turns = [] → s.round = ep :: rest →
    let u := ({ s with round := rest }).focus ep
    let pc := u.tile.thr.pc
    u.tile.run = .running → u.tile.idle ≤ s.cycle → u.tile.twin = none → u.tile.spec = none → u.tile.thr.endStep ≠ 3 →
    u.tile.thr.replay = none → u.tile.thr.pend = [] → u.tile.poison = [] → k < 8 → w ≠ 0 → decodeSlot k w = .ok i → isTret i = false →
    let before (j : Nat) : Nat := (List.range j).countP fun m => h.getLsbD m
    (u.tile.packed = false ∧ succ = (pc + 32) % 2 ^ 18 ∧ ∀ j < 8, u.tile.fetchWord (pc + 4 * j) = if j = k then w else 0) ∨
      (u.tile.packed = true ∧ succ = (pc + 4 * (1 + before 8)) % 2 ^ 18 ∧ u.tile.fetchWord pc = h ∧ h.toNat < 2 ^ 8 ∧ h.getLsbD k = true ∧
        ∀ j < 8, h.getLsbD j = true → u.tile.fetchWord (pc + 4 * (1 + before j)) = if j = k then w else 0) →
    let o := u.openIssue pc succ true
    let v := o.atSlot o.tile.iss.src none k
    let ends (t : State) : Prop :=
      step s = .next ({ t with fresh := t.fresh + 1 }.modTile ep fun x => { x with last := s.time, iss := Issue.none })
    ∀ t, exec i v = .next t →
      (t.tile.iss.stall = none → t.tile.iss.trapped = none →
        ends (((t.onIss fun x => { x with src := o.tile.iss.src }).leaveBundle none []).closeIssue (!o.hm))) ∧
      (∀ stall, t.tile.iss.stall = some stall → ends (t.stalled stall)) ∧
      (t.tile.iss.stall = none → t.tile.iss.trapped = some false → (t.tile.iss.raised.map fun c => c.1) ≠ some 0x01 →
        ends ((((((o.onIss fun x => { x with entering := true }).copyOor k t).onIss fun x => { x with src := o.tile.iss.src }).takeFault k
          (t.tile.iss.raised.getD (0, 0)).1 (t.tile.iss.raised.getD (0, 0)).2 t.tile.iss.others)).closeIssue (!o.hm)))

/-- R177, R331, R334, R336, R353, R354: outside handler mode with a handler, on a confirmed path with no loop active, a bundle in fixed form whose
one word is reserved takes RESERVED_ENCODING: TINFO holds the word, its position and the reason, TMASK names its slot for a replay from the
registers, and no slot has executed. A bundle in packed form does so for a header with a nonzero bit in 31:8: slot 0 and position 0 with reason 4,
TMASK naming the slots present whose words are not zero, and the successor that bits 7:0 give. -/
def Obligations.ReservedEncodingTraps : Prop :=
  ∀ (s : State) (w : W32) (k reason : Nat), s.tile.spec = none → s.hm = false → (s.cr 0x023).toNat % 2 ^ 18 ≠ 0 →
    (∀ j, (s.tile.thr.regs.getLC j).active = false) → s.tile.thr.pc < 2 ^ 18 →
    let pc := s.tile.thr.pc
    let traps (slot reason succ : Nat) (t : State) : Prop :=
      t.hm = true ∧ (t.cr 0x020).toNat = 2 ^ 63 + slot * 2 ^ 8 + 0x01 ∧ (t.cr 0x028).toNat = w.toNat + slot * 2 ^ 32 + reason * 2 ^ 36 ∧
      (t.cr 0x021).toNat = pc + succ * 2 ^ 32 ∧ (∀ n < 4, t.cr (0x024 + n) = 0) ∧ t.tile.thr.pc = (s.cr 0x023).toNat % 2 ^ 18 ∧
      RegsExcept [.cr 0x020, .cr 0x021, .cr 0x022, .cr 0x024, .cr 0x025, .cr 0x026, .cr 0x027, .cr 0x028] s.tile.thr.regs t.tile.thr.regs ∧
      ∀ a, byteAt t a = byteAt s a
    let before (j : Nat) : Nat := (List.range j).countP fun m => w.getLsbD m
    let word (j : Nat) : W32 := s.tile.fetchWord (pc + 4 * (1 + before j))
    (s.tile.packed = false → k < 8 → (∀ j < 8, s.tile.fetchWord (pc + 4 * j) = if j = k then w else 0) → decodeSlot k w = .error reason →
      Gives .reservedEncoding s fun t => traps k reason ((pc + 32) % 2 ^ 18) t ∧ (t.cr 0x022).toNat = 2 ^ k * 257) ∧
    (s.tile.packed = true → s.tile.fetchWord pc = w → 2 ^ 8 ≤ w.toNat →
      (∀ j < 8, w.getLsbD j = true → word j ≠ 0 → ∃ i, decodeSlot j (word j) = .ok i) →
      Gives .reservedEncoding s fun t => traps 0 4 ((pc + 4 * (1 + before 8)) % 2 ^ 18) t ∧ (t.cr 0x022).toNat < 2 ^ 16 ∧
        ∀ j < 8, (t.cr 0x022).getLsbD j = decide (w.getLsbD j = true ∧ word j ≠ 0) ∧ (t.cr 0x022).getLsbD (8 + j) = (t.cr 0x022).getLsbD j)

/-- R155, R173: what reset leaves in the control registers whose reset value the spec gives, in every tile; and the model's own choice (logs 1
to 3) for the rest: every other register zero, every byte of the tile store zero, and every memory in its canonical form. R172: s0, m0 and
p0 read as constants in every register file, and writes to them change nothing. -/
def Obligations.ResetAndHardWiredRegisters : Prop :=
  (∀ ep < 0x400,
     let t := State.reset.getTile ep
     let c (i : Nat) : Nat := (t.thr.regs.getC i).toNat
     c 0x018 = 0x1F0000 ∧ c 0x019 = 0xC000 ∧ (∀ j < 8, c (0x0D8 + j) = 8 * 2 ^ 16 + 8 * j) ∧
     (∀ i ∈ [0x010, 0x013, 0x015, 0x016, 0x017, 0x020, 0x021, 0x022, 0x024, 0x025, 0x026, 0x027, 0x028, 0x030, 0x031, 0x032, 0x033, 0x040,
       0x041, 0x042, 0x050, 0x051, 0x052, 0x053, 0x071, 0x0C0, 0x0C1], c i = 0) ∧
     (∀ j < 16, c (0x060 + j) = 0) ∧ (∀ j < 64, c (0x080 + j) = 0) ∧ (∀ j < 8, c (0x0D0 + j) = 0) ∧
     (∀ n, t.thr.regs.getS n = SVal.zero ∧ t.thr.regs.getF n = 0 ∧ t.thr.regs.getV n = VVal.zero ∧ t.thr.regs.getH n = none) ∧
     (∀ a, Sparse.get 0 t.mem a = 0) ∧ t.mem.wf = true ∧ t.imem.wf = true ∧ t.anvil.wf = true ∧ State.reset.dram.wf = true ∧
     State.reset.hostMem.wf = true) ∧
  (∀ (r : Regs), r.getS 0 = SVal.zero ∧ r.getM 0 = BitVec.allOnes 64 ∧ r.getP 0 = true ∧
     (∀ v n, (r.setS 0 v).getS n = r.getS n) ∧ (∀ v n, (r.setM 0 v).getM n = r.getM n) ∧ ∀ v n, (r.setP 0 v).getP n = r.getP n)

/-- R120, R219: the slots of a confirmed path keep the canonical form of the tile store and of the weight space: no address is listed twice,
keys rise, and no listed byte is zero. The words of the I, M, V, X and G slots are meant, outside handler mode with a handler. The form is
the model's own representation of memory (log 2). -/
def Obligations.MemoryKeepsItsForm : Prop :=
  ∀ (i : Instr) (k : Nat) (s t : State), slotOf i = some k → k ∈ [1, 3, 4, 5, 7] → Confirmed s → s.hm = false → (s.cr 0x023).toNat % 2 ^ 18 ≠ 0 →
    (s.source.regs.getC 0x020).getLsbD 63 = false → s.tile.mem.wf = true → s.tile.anvil.wf = true → exec i s = .next t →
    t.tile.mem.wf = true ∧ t.tile.anvil.wf = true
end

