-- ==== Sys2Proof/Laws/Sparse.lean ====
section
/-!
SUPPORT. Finite maps: reading back a write, what a write leaves, and that it keeps the canonical form.
-/
namespace Sys2Proof.Machine.Sparse

variable {α : Type} {d : α}

@[simp] theorem get_nil (k : Nat) : get d [] k = d := rfl

@[simp] theorem get_erase_self (m : List (Nat × α)) (k : Nat) : get d (erase m k) k = d := by
  induction m with
  | nil => rfl
  | cons x m ih =>
    rw [erase]
    split
    · exact ih
    · rw [get, if_neg ‹_›, ih]

theorem get_erase_ne (m : List (Nat × α)) {k i : Nat} (hi : i ≠ k) : get d (erase m k) i = get d m i := by
  induction m with
  | nil => rfl
  | cons x m ih =>
    obtain ⟨j, w⟩ := x
    rw [erase]
    split
    · subst_vars; simp [get, hi, ih]
    · simp only [get, ih]

variable [DecidableEq α]

/-- A write is read back. -/
@[simp] theorem get_set_self (m : List (Nat × α)) (k : Nat) (v : α) : get d (set d m k v) k = v := by
  induction m with
  | nil => rw [set]; split <;> simp [get, *]
  | cons x m ih =>
    obtain ⟨j, w⟩ := x
    rw [set]
    split
    · split
      · subst_vars
        rw [get, if_neg (by omega), get_erase_self]
      · simp [get]
    · split
      · subst_vars
        split <;> simp [get, *]
      · rw [get, if_neg ‹_›, ih]

/-- A write leaves the other keys. -/
theorem get_set_ne (m : List (Nat × α)) {k i : Nat} (v : α) (hi : i ≠ k) : get d (set d m k v) i = get d m i := by
  induction m with
  | nil => rw [set]; split <;> simp [get, hi]
  | cons x m ih =>
    obtain ⟨j, w⟩ := x
    rw [set]
    split
    · split
      · simp only [get, get_erase_ne m hi]
      · simp [get, hi]
    · split
      · subst_vars
        split <;> simp [get, hi, get_erase_ne m hi]
      · simp only [get, ih]

theorem get_set (m : List (Nat × α)) (k i : Nat) (v : α) : get d (set d m k v) i = if i = k then v else get d m i := by
  split
  · subst_vars; simp
  · exact get_set_ne m v ‹_›

theorem above_weaken {lo : Option Nat} {j : Nat} {m : List (Nat × α)} (h : above d (some j) m = true) (hlo : ∀ l, lo = some l → l ≤ j) :
    above d lo m = true := by
  cases m with
  | nil => rfl
  | cons x m =>
    simp only [above, Bool.and_eq_true, decide_eq_true_eq] at h ⊢
    refine ⟨⟨?_, h.1.2⟩, h.2⟩
    cases lo with
    | none => rfl
    | some l => simpa using lt_of_le_of_lt (hlo l rfl) h.1.1

theorem above_erase {lo : Option Nat} {m : List (Nat × α)} (k : Nat) (h : above d lo m = true) : above d lo (erase m k) = true := by
  induction m generalizing lo with
  | nil => rfl
  | cons x m ih =>
    obtain ⟨j, w⟩ := x
    rw [erase]
    have h' := h
    simp only [above, Bool.and_eq_true, decide_eq_true_eq] at h
    split
    · refine above_weaken (ih h.2) fun l hl => ?_
      subst hl
      exact Nat.le_of_lt (by simpa using h.1.1)
    · simp only [above, Bool.and_eq_true, decide_eq_true_eq]
      exact ⟨h.1, ih h.2⟩

theorem above_set {lo : Option Nat} {m : List (Nat × α)} (k : Nat) (v : α) (h : above d lo m = true) (hlo : ∀ l, lo = some l → l < k) :
    above d lo (set d m k v) = true := by
  induction m generalizing lo with
  | nil =>
    rw [set]
    split
    · rfl
    · cases lo with
      | none => simp [above, *]
      | some l => simp [above, *, hlo l rfl]
  | cons x m ih =>
    obtain ⟨j, w⟩ := x
    simp only [above, Bool.and_eq_true, decide_eq_true_eq] at h
    rw [set]
    split
    · split
      · simp only [above, Bool.and_eq_true, decide_eq_true_eq]
        exact ⟨h.1, above_erase k h.2⟩
      · simp only [above, Bool.and_eq_true, decide_eq_true_eq]
        refine ⟨⟨?_, ‹_›⟩, ⟨‹_›, h.1.2⟩, h.2⟩
        cases lo with
        | none => rfl
        | some l => simpa using hlo l rfl
    · split
      · subst_vars
        split
        · exact above_erase _ (above_weaken h.2 fun l hl => Nat.le_of_lt (hlo l hl))
        · simp only [above, Bool.and_eq_true, decide_eq_true_eq]
          exact ⟨⟨h.1.1, ‹_›⟩, h.2⟩
      · simp only [above, Bool.and_eq_true, decide_eq_true_eq]
        exact ⟨h.1, ih h.2 fun l hl => by cases hl; omega⟩

/-- A write keeps the canonical form. -/
theorem wf_set {m : List (Nat × α)} (k : Nat) (v : α) (h : wf d m = true) : wf d (set d m k v) = true :=
  above_set k v h fun _ hl => by cases hl

@[simp] theorem wf_nil : wf d ([] : List (Nat × α)) = true := rfl

end Sys2Proof.Machine.Sparse
end

