-- ==== Sys2Proof/Laws/State.lean ====
section
/-!
SUPPORT. What the updates of the tile in focus change and leave: one lemma for each field and each update, true by `rfl`.
-/
namespace Sys2Proof.Machine

/-! ### `onTile` -/

@[simp] theorem State.onTile_others (s : State) (f : Tile → Tile) : (s.onTile f).others = s.others := rfl
@[simp] theorem State.onTile_round (s : State) (f : Tile → Tile) : (s.onTile f).round = s.round := rfl
@[simp] theorem State.onTile_cycle (s : State) (f : Tile → Tile) : (s.onTile f).cycle = s.cycle := rfl
@[simp] theorem State.onTile_time (s : State) (f : Tile → Tile) : (s.onTile f).time = s.time := rfl
@[simp] theorem State.onTile_frac (s : State) (f : Tile → Tile) : (s.onTile f).frac = s.frac := rfl
@[simp] theorem State.onTile_fresh (s : State) (f : Tile → Tile) : (s.onTile f).fresh = s.fresh := rfl
@[simp] theorem State.onTile_turns (s : State) (f : Tile → Tile) : (s.onTile f).turns = s.turns := rfl
@[simp] theorem State.onTile_sched (s : State) (f : Tile → Tile) : (s.onTile f).sched = s.sched := rfl
@[simp] theorem State.onTile_torus (s : State) (f : Tile → Tile) : (s.onTile f).torus = s.torus := rfl
@[simp] theorem State.onTile_routers (s : State) (f : Tile → Tile) : (s.onTile f).routers = s.routers := rfl
@[simp] theorem State.onTile_spills (s : State) (f : Tile → Tile) : (s.onTile f).spills = s.spills := rfl
@[simp] theorem State.onTile_uet (s : State) (f : Tile → Tile) : (s.onTile f).uet = s.uet := rfl
@[simp] theorem State.onTile_srv (s : State) (f : Tile → Tile) : (s.onTile f).srv = s.srv := rfl
@[simp] theorem State.onTile_base (s : State) (f : Tile → Tile) : (s.onTile f).base = s.base := rfl
@[simp] theorem State.onTile_dram (s : State) (f : Tile → Tile) : (s.onTile f).dram = s.dram := rfl
@[simp] theorem State.onTile_tables (s : State) (f : Tile → Tile) : (s.onTile f).tables = s.tables := rfl
@[simp] theorem State.onTile_keys (s : State) (f : Tile → Tile) : (s.onTile f).keys = s.keys := rfl
@[simp] theorem State.onTile_slotPart (s : State) (f : Tile → Tile) : (s.onTile f).slotPart = s.slotPart := rfl
@[simp] theorem State.onTile_keyGen (s : State) (f : Tile → Tile) : (s.onTile f).keyGen = s.keyGen := rfl
@[simp] theorem State.onTile_seals (s : State) (f : Tile → Tile) : (s.onTile f).seals = s.seals := rfl
@[simp] theorem State.onTile_halo (s : State) (f : Tile → Tile) : (s.onTile f).halo = s.halo := rfl
@[simp] theorem State.onTile_owner (s : State) (f : Tile → Tile) : (s.onTile f).owner = s.owner := rfl
@[simp] theorem State.onTile_ctxPart (s : State) (f : Tile → Tile) : (s.onTile f).ctxPart = s.ctxPart := rfl
@[simp] theorem State.onTile_stgPart (s : State) (f : Tile → Tile) : (s.onTile f).stgPart = s.stgPart := rfl
@[simp] theorem State.onTile_grpPart (s : State) (f : Tile → Tile) : (s.onTile f).grpPart = s.grpPart := rfl
@[simp] theorem State.onTile_parts (s : State) (f : Tile → Tile) : (s.onTile f).parts = s.parts := rfl
@[simp] theorem State.onTile_launches (s : State) (f : Tile → Tile) : (s.onTile f).launches = s.launches := rfl
@[simp] theorem State.onTile_nextLaunch (s : State) (f : Tile → Tile) : (s.onTile f).nextLaunch = s.nextLaunch := rfl
@[simp] theorem State.onTile_accepts (s : State) (f : Tile → Tile) : (s.onTile f).accepts = s.accepts := rfl
@[simp] theorem State.onTile_disp (s : State) (f : Tile → Tile) : (s.onTile f).disp = s.disp := rfl
@[simp] theorem State.onTile_nis (s : State) (f : Tile → Tile) : (s.onTile f).nis = s.nis := rfl
@[simp] theorem State.onTile_fns (s : State) (f : Tile → Tile) : (s.onTile f).fns = s.fns := rfl
@[simp] theorem State.onTile_hostMem (s : State) (f : Tile → Tile) : (s.onTile f).hostMem = s.hostMem := rfl
@[simp] theorem State.onTile_mgmt (s : State) (f : Tile → Tile) : (s.onTile f).mgmt = s.mgmt := rfl
@[simp] theorem State.onTile_pkg (s : State) (f : Tile → Tile) : (s.onTile f).pkg = s.pkg := rfl
@[simp] theorem State.onTile_tile (s : State) (f : Tile → Tile) : (s.onTile f).tile = f s.tile := rfl

/-! ### `onThr` -/

@[simp] theorem State.onThr_others (s : State) (f : Thread → Thread) : (s.onThr f).others = s.others := rfl
@[simp] theorem State.onThr_round (s : State) (f : Thread → Thread) : (s.onThr f).round = s.round := rfl
@[simp] theorem State.onThr_cycle (s : State) (f : Thread → Thread) : (s.onThr f).cycle = s.cycle := rfl
@[simp] theorem State.onThr_time (s : State) (f : Thread → Thread) : (s.onThr f).time = s.time := rfl
@[simp] theorem State.onThr_frac (s : State) (f : Thread → Thread) : (s.onThr f).frac = s.frac := rfl
@[simp] theorem State.onThr_fresh (s : State) (f : Thread → Thread) : (s.onThr f).fresh = s.fresh := rfl
@[simp] theorem State.onThr_turns (s : State) (f : Thread → Thread) : (s.onThr f).turns = s.turns := rfl
@[simp] theorem State.onThr_sched (s : State) (f : Thread → Thread) : (s.onThr f).sched = s.sched := rfl
@[simp] theorem State.onThr_torus (s : State) (f : Thread → Thread) : (s.onThr f).torus = s.torus := rfl
@[simp] theorem State.onThr_routers (s : State) (f : Thread → Thread) : (s.onThr f).routers = s.routers := rfl
@[simp] theorem State.onThr_spills (s : State) (f : Thread → Thread) : (s.onThr f).spills = s.spills := rfl
@[simp] theorem State.onThr_uet (s : State) (f : Thread → Thread) : (s.onThr f).uet = s.uet := rfl
@[simp] theorem State.onThr_srv (s : State) (f : Thread → Thread) : (s.onThr f).srv = s.srv := rfl
@[simp] theorem State.onThr_base (s : State) (f : Thread → Thread) : (s.onThr f).base = s.base := rfl
@[simp] theorem State.onThr_dram (s : State) (f : Thread → Thread) : (s.onThr f).dram = s.dram := rfl
@[simp] theorem State.onThr_tables (s : State) (f : Thread → Thread) : (s.onThr f).tables = s.tables := rfl
@[simp] theorem State.onThr_keys (s : State) (f : Thread → Thread) : (s.onThr f).keys = s.keys := rfl
@[simp] theorem State.onThr_slotPart (s : State) (f : Thread → Thread) : (s.onThr f).slotPart = s.slotPart := rfl
@[simp] theorem State.onThr_keyGen (s : State) (f : Thread → Thread) : (s.onThr f).keyGen = s.keyGen := rfl
@[simp] theorem State.onThr_seals (s : State) (f : Thread → Thread) : (s.onThr f).seals = s.seals := rfl
@[simp] theorem State.onThr_halo (s : State) (f : Thread → Thread) : (s.onThr f).halo = s.halo := rfl
@[simp] theorem State.onThr_owner (s : State) (f : Thread → Thread) : (s.onThr f).owner = s.owner := rfl
@[simp] theorem State.onThr_ctxPart (s : State) (f : Thread → Thread) : (s.onThr f).ctxPart = s.ctxPart := rfl
@[simp] theorem State.onThr_stgPart (s : State) (f : Thread → Thread) : (s.onThr f).stgPart = s.stgPart := rfl
@[simp] theorem State.onThr_grpPart (s : State) (f : Thread → Thread) : (s.onThr f).grpPart = s.grpPart := rfl
@[simp] theorem State.onThr_parts (s : State) (f : Thread → Thread) : (s.onThr f).parts = s.parts := rfl
@[simp] theorem State.onThr_launches (s : State) (f : Thread → Thread) : (s.onThr f).launches = s.launches := rfl
@[simp] theorem State.onThr_nextLaunch (s : State) (f : Thread → Thread) : (s.onThr f).nextLaunch = s.nextLaunch := rfl
@[simp] theorem State.onThr_accepts (s : State) (f : Thread → Thread) : (s.onThr f).accepts = s.accepts := rfl
@[simp] theorem State.onThr_disp (s : State) (f : Thread → Thread) : (s.onThr f).disp = s.disp := rfl
@[simp] theorem State.onThr_nis (s : State) (f : Thread → Thread) : (s.onThr f).nis = s.nis := rfl
@[simp] theorem State.onThr_fns (s : State) (f : Thread → Thread) : (s.onThr f).fns = s.fns := rfl
@[simp] theorem State.onThr_hostMem (s : State) (f : Thread → Thread) : (s.onThr f).hostMem = s.hostMem := rfl
@[simp] theorem State.onThr_mgmt (s : State) (f : Thread → Thread) : (s.onThr f).mgmt = s.mgmt := rfl
@[simp] theorem State.onThr_pkg (s : State) (f : Thread → Thread) : (s.onThr f).pkg = s.pkg := rfl
@[simp] theorem State.onThr_tile_ep (s : State) (f : Thread → Thread) : (s.onThr f).tile.ep = s.tile.ep := rfl
@[simp] theorem State.onThr_tile_run (s : State) (f : Thread → Thread) : (s.onThr f).tile.run = s.tile.run := rfl
@[simp] theorem State.onThr_tile_iss (s : State) (f : Thread → Thread) : (s.onThr f).tile.iss = s.tile.iss := rfl
@[simp] theorem State.onThr_tile_spec (s : State) (f : Thread → Thread) : (s.onThr f).tile.spec = s.tile.spec := rfl
@[simp] theorem State.onThr_tile_idle (s : State) (f : Thread → Thread) : (s.onThr f).tile.idle = s.tile.idle := rfl
@[simp] theorem State.onThr_tile_waitw (s : State) (f : Thread → Thread) : (s.onThr f).tile.waitw = s.tile.waitw := rfl
@[simp] theorem State.onThr_tile_item (s : State) (f : Thread → Thread) : (s.onThr f).tile.item = s.tile.item := rfl
@[simp] theorem State.onThr_tile_last (s : State) (f : Thread → Thread) : (s.onThr f).tile.last = s.tile.last := rfl
@[simp] theorem State.onThr_tile_imem (s : State) (f : Thread → Thread) : (s.onThr f).tile.imem = s.tile.imem := rfl
@[simp] theorem State.onThr_tile_mem (s : State) (f : Thread → Thread) : (s.onThr f).tile.mem = s.tile.mem := rfl
@[simp] theorem State.onThr_tile_anvil (s : State) (f : Thread → Thread) : (s.onThr f).tile.anvil = s.tile.anvil := rfl
@[simp] theorem State.onThr_tile_latch (s : State) (f : Thread → Thread) : (s.onThr f).tile.latch = s.tile.latch := rfl
@[simp] theorem State.onThr_tile_eng (s : State) (f : Thread → Thread) : (s.onThr f).tile.eng = s.tile.eng := rfl
@[simp] theorem State.onThr_tile_poison (s : State) (f : Thread → Thread) : (s.onThr f).tile.poison = s.tile.poison := rfl
@[simp] theorem State.onThr_tile_retain (s : State) (f : Thread → Thread) : (s.onThr f).tile.retain = s.tile.retain := rfl
@[simp] theorem State.onThr_tile_flaws (s : State) (f : Thread → Thread) : (s.onThr f).tile.flaws = s.tile.flaws := rfl
@[simp] theorem State.onThr_tile_ni (s : State) (f : Thread → Thread) : (s.onThr f).tile.ni = s.tile.ni := rfl
@[simp] theorem State.onThr_tile_shadow (s : State) (f : Thread → Thread) : (s.onThr f).tile.shadow = s.tile.shadow := rfl
@[simp] theorem State.onThr_tile_gang (s : State) (f : Thread → Thread) : (s.onThr f).tile.gang = s.tile.gang := rfl
@[simp] theorem State.onThr_tile_twin (s : State) (f : Thread → Thread) : (s.onThr f).tile.twin = s.tile.twin := rfl
@[simp] theorem State.onThr_tile_thr (s : State) (f : Thread → Thread) : (s.onThr f).tile.thr = f s.tile.thr := rfl

/-! ### `onRegs` -/

@[simp] theorem State.onRegs_others (s : State) (f : Regs → Regs) : (s.onRegs f).others = s.others := rfl
@[simp] theorem State.onRegs_round (s : State) (f : Regs → Regs) : (s.onRegs f).round = s.round := rfl
@[simp] theorem State.onRegs_cycle (s : State) (f : Regs → Regs) : (s.onRegs f).cycle = s.cycle := rfl
@[simp] theorem State.onRegs_time (s : State) (f : Regs → Regs) : (s.onRegs f).time = s.time := rfl
@[simp] theorem State.onRegs_frac (s : State) (f : Regs → Regs) : (s.onRegs f).frac = s.frac := rfl
@[simp] theorem State.onRegs_fresh (s : State) (f : Regs → Regs) : (s.onRegs f).fresh = s.fresh := rfl
@[simp] theorem State.onRegs_turns (s : State) (f : Regs → Regs) : (s.onRegs f).turns = s.turns := rfl
@[simp] theorem State.onRegs_sched (s : State) (f : Regs → Regs) : (s.onRegs f).sched = s.sched := rfl
@[simp] theorem State.onRegs_torus (s : State) (f : Regs → Regs) : (s.onRegs f).torus = s.torus := rfl
@[simp] theorem State.onRegs_routers (s : State) (f : Regs → Regs) : (s.onRegs f).routers = s.routers := rfl
@[simp] theorem State.onRegs_spills (s : State) (f : Regs → Regs) : (s.onRegs f).spills = s.spills := rfl
@[simp] theorem State.onRegs_uet (s : State) (f : Regs → Regs) : (s.onRegs f).uet = s.uet := rfl
@[simp] theorem State.onRegs_srv (s : State) (f : Regs → Regs) : (s.onRegs f).srv = s.srv := rfl
@[simp] theorem State.onRegs_base (s : State) (f : Regs → Regs) : (s.onRegs f).base = s.base := rfl
@[simp] theorem State.onRegs_dram (s : State) (f : Regs → Regs) : (s.onRegs f).dram = s.dram := rfl
@[simp] theorem State.onRegs_tables (s : State) (f : Regs → Regs) : (s.onRegs f).tables = s.tables := rfl
@[simp] theorem State.onRegs_keys (s : State) (f : Regs → Regs) : (s.onRegs f).keys = s.keys := rfl
@[simp] theorem State.onRegs_slotPart (s : State) (f : Regs → Regs) : (s.onRegs f).slotPart = s.slotPart := rfl
@[simp] theorem State.onRegs_keyGen (s : State) (f : Regs → Regs) : (s.onRegs f).keyGen = s.keyGen := rfl
@[simp] theorem State.onRegs_seals (s : State) (f : Regs → Regs) : (s.onRegs f).seals = s.seals := rfl
@[simp] theorem State.onRegs_halo (s : State) (f : Regs → Regs) : (s.onRegs f).halo = s.halo := rfl
@[simp] theorem State.onRegs_owner (s : State) (f : Regs → Regs) : (s.onRegs f).owner = s.owner := rfl
@[simp] theorem State.onRegs_ctxPart (s : State) (f : Regs → Regs) : (s.onRegs f).ctxPart = s.ctxPart := rfl
@[simp] theorem State.onRegs_stgPart (s : State) (f : Regs → Regs) : (s.onRegs f).stgPart = s.stgPart := rfl
@[simp] theorem State.onRegs_grpPart (s : State) (f : Regs → Regs) : (s.onRegs f).grpPart = s.grpPart := rfl
@[simp] theorem State.onRegs_parts (s : State) (f : Regs → Regs) : (s.onRegs f).parts = s.parts := rfl
@[simp] theorem State.onRegs_launches (s : State) (f : Regs → Regs) : (s.onRegs f).launches = s.launches := rfl
@[simp] theorem State.onRegs_nextLaunch (s : State) (f : Regs → Regs) : (s.onRegs f).nextLaunch = s.nextLaunch := rfl
@[simp] theorem State.onRegs_accepts (s : State) (f : Regs → Regs) : (s.onRegs f).accepts = s.accepts := rfl
@[simp] theorem State.onRegs_disp (s : State) (f : Regs → Regs) : (s.onRegs f).disp = s.disp := rfl
@[simp] theorem State.onRegs_nis (s : State) (f : Regs → Regs) : (s.onRegs f).nis = s.nis := rfl
@[simp] theorem State.onRegs_fns (s : State) (f : Regs → Regs) : (s.onRegs f).fns = s.fns := rfl
@[simp] theorem State.onRegs_hostMem (s : State) (f : Regs → Regs) : (s.onRegs f).hostMem = s.hostMem := rfl
@[simp] theorem State.onRegs_mgmt (s : State) (f : Regs → Regs) : (s.onRegs f).mgmt = s.mgmt := rfl
@[simp] theorem State.onRegs_pkg (s : State) (f : Regs → Regs) : (s.onRegs f).pkg = s.pkg := rfl
@[simp] theorem State.onRegs_tile_ep (s : State) (f : Regs → Regs) : (s.onRegs f).tile.ep = s.tile.ep := rfl
@[simp] theorem State.onRegs_tile_run (s : State) (f : Regs → Regs) : (s.onRegs f).tile.run = s.tile.run := rfl
@[simp] theorem State.onRegs_tile_iss (s : State) (f : Regs → Regs) : (s.onRegs f).tile.iss = s.tile.iss := rfl
@[simp] theorem State.onRegs_tile_spec (s : State) (f : Regs → Regs) : (s.onRegs f).tile.spec = s.tile.spec := rfl
@[simp] theorem State.onRegs_tile_idle (s : State) (f : Regs → Regs) : (s.onRegs f).tile.idle = s.tile.idle := rfl
@[simp] theorem State.onRegs_tile_waitw (s : State) (f : Regs → Regs) : (s.onRegs f).tile.waitw = s.tile.waitw := rfl
@[simp] theorem State.onRegs_tile_item (s : State) (f : Regs → Regs) : (s.onRegs f).tile.item = s.tile.item := rfl
@[simp] theorem State.onRegs_tile_last (s : State) (f : Regs → Regs) : (s.onRegs f).tile.last = s.tile.last := rfl
@[simp] theorem State.onRegs_tile_imem (s : State) (f : Regs → Regs) : (s.onRegs f).tile.imem = s.tile.imem := rfl
@[simp] theorem State.onRegs_tile_mem (s : State) (f : Regs → Regs) : (s.onRegs f).tile.mem = s.tile.mem := rfl
@[simp] theorem State.onRegs_tile_anvil (s : State) (f : Regs → Regs) : (s.onRegs f).tile.anvil = s.tile.anvil := rfl
@[simp] theorem State.onRegs_tile_latch (s : State) (f : Regs → Regs) : (s.onRegs f).tile.latch = s.tile.latch := rfl
@[simp] theorem State.onRegs_tile_eng (s : State) (f : Regs → Regs) : (s.onRegs f).tile.eng = s.tile.eng := rfl
@[simp] theorem State.onRegs_tile_poison (s : State) (f : Regs → Regs) : (s.onRegs f).tile.poison = s.tile.poison := rfl
@[simp] theorem State.onRegs_tile_retain (s : State) (f : Regs → Regs) : (s.onRegs f).tile.retain = s.tile.retain := rfl
@[simp] theorem State.onRegs_tile_flaws (s : State) (f : Regs → Regs) : (s.onRegs f).tile.flaws = s.tile.flaws := rfl
@[simp] theorem State.onRegs_tile_ni (s : State) (f : Regs → Regs) : (s.onRegs f).tile.ni = s.tile.ni := rfl
@[simp] theorem State.onRegs_tile_shadow (s : State) (f : Regs → Regs) : (s.onRegs f).tile.shadow = s.tile.shadow := rfl
@[simp] theorem State.onRegs_tile_gang (s : State) (f : Regs → Regs) : (s.onRegs f).tile.gang = s.tile.gang := rfl
@[simp] theorem State.onRegs_tile_twin (s : State) (f : Regs → Regs) : (s.onRegs f).tile.twin = s.tile.twin := rfl
@[simp] theorem State.onRegs_thr_order (s : State) (f : Regs → Regs) : (s.onRegs f).tile.thr.order = s.tile.thr.order := rfl
@[simp] theorem State.onRegs_thr_pc (s : State) (f : Regs → Regs) : (s.onRegs f).tile.thr.pc = s.tile.thr.pc := rfl
@[simp] theorem State.onRegs_thr_land (s : State) (f : Regs → Regs) : (s.onRegs f).tile.thr.land = s.tile.thr.land := rfl
@[simp] theorem State.onRegs_thr_caps (s : State) (f : Regs → Regs) : (s.onRegs f).tile.thr.caps = s.tile.thr.caps := rfl
@[simp] theorem State.onRegs_thr_pend (s : State) (f : Regs → Regs) : (s.onRegs f).tile.thr.pend = s.tile.thr.pend := rfl
@[simp] theorem State.onRegs_thr_replay (s : State) (f : Regs → Regs) : (s.onRegs f).tile.thr.replay = s.tile.thr.replay := rfl
@[simp] theorem State.onRegs_thr_endStep (s : State) (f : Regs → Regs) : (s.onRegs f).tile.thr.endStep = s.tile.thr.endStep := rfl
@[simp] theorem State.onRegs_thr_waited (s : State) (f : Regs → Regs) : (s.onRegs f).tile.thr.waited = s.tile.thr.waited := rfl
@[simp] theorem State.onRegs_thr_elapsed (s : State) (f : Regs → Regs) : (s.onRegs f).tile.thr.elapsed = s.tile.thr.elapsed := rfl
@[simp] theorem State.onRegs_thr_sigHeld (s : State) (f : Regs → Regs) : (s.onRegs f).tile.thr.sigHeld = s.tile.thr.sigHeld := rfl
@[simp] theorem State.onRegs_thr_issued (s : State) (f : Regs → Regs) : (s.onRegs f).tile.thr.issued = s.tile.thr.issued := rfl
@[simp] theorem State.onRegs_thr_regs (s : State) (f : Regs → Regs) : (s.onRegs f).tile.thr.regs = f s.tile.thr.regs := rfl

/-! ### `onIss` -/

@[simp] theorem State.onIss_others (s : State) (f : Issue → Issue) : (s.onIss f).others = s.others := rfl
@[simp] theorem State.onIss_round (s : State) (f : Issue → Issue) : (s.onIss f).round = s.round := rfl
@[simp] theorem State.onIss_cycle (s : State) (f : Issue → Issue) : (s.onIss f).cycle = s.cycle := rfl
@[simp] theorem State.onIss_time (s : State) (f : Issue → Issue) : (s.onIss f).time = s.time := rfl
@[simp] theorem State.onIss_frac (s : State) (f : Issue → Issue) : (s.onIss f).frac = s.frac := rfl
@[simp] theorem State.onIss_fresh (s : State) (f : Issue → Issue) : (s.onIss f).fresh = s.fresh := rfl
@[simp] theorem State.onIss_turns (s : State) (f : Issue → Issue) : (s.onIss f).turns = s.turns := rfl
@[simp] theorem State.onIss_sched (s : State) (f : Issue → Issue) : (s.onIss f).sched = s.sched := rfl
@[simp] theorem State.onIss_torus (s : State) (f : Issue → Issue) : (s.onIss f).torus = s.torus := rfl
@[simp] theorem State.onIss_routers (s : State) (f : Issue → Issue) : (s.onIss f).routers = s.routers := rfl
@[simp] theorem State.onIss_spills (s : State) (f : Issue → Issue) : (s.onIss f).spills = s.spills := rfl
@[simp] theorem State.onIss_uet (s : State) (f : Issue → Issue) : (s.onIss f).uet = s.uet := rfl
@[simp] theorem State.onIss_srv (s : State) (f : Issue → Issue) : (s.onIss f).srv = s.srv := rfl
@[simp] theorem State.onIss_base (s : State) (f : Issue → Issue) : (s.onIss f).base = s.base := rfl
@[simp] theorem State.onIss_dram (s : State) (f : Issue → Issue) : (s.onIss f).dram = s.dram := rfl
@[simp] theorem State.onIss_tables (s : State) (f : Issue → Issue) : (s.onIss f).tables = s.tables := rfl
@[simp] theorem State.onIss_keys (s : State) (f : Issue → Issue) : (s.onIss f).keys = s.keys := rfl
@[simp] theorem State.onIss_slotPart (s : State) (f : Issue → Issue) : (s.onIss f).slotPart = s.slotPart := rfl
@[simp] theorem State.onIss_keyGen (s : State) (f : Issue → Issue) : (s.onIss f).keyGen = s.keyGen := rfl
@[simp] theorem State.onIss_seals (s : State) (f : Issue → Issue) : (s.onIss f).seals = s.seals := rfl
@[simp] theorem State.onIss_halo (s : State) (f : Issue → Issue) : (s.onIss f).halo = s.halo := rfl
@[simp] theorem State.onIss_owner (s : State) (f : Issue → Issue) : (s.onIss f).owner = s.owner := rfl
@[simp] theorem State.onIss_ctxPart (s : State) (f : Issue → Issue) : (s.onIss f).ctxPart = s.ctxPart := rfl
@[simp] theorem State.onIss_stgPart (s : State) (f : Issue → Issue) : (s.onIss f).stgPart = s.stgPart := rfl
@[simp] theorem State.onIss_grpPart (s : State) (f : Issue → Issue) : (s.onIss f).grpPart = s.grpPart := rfl
@[simp] theorem State.onIss_parts (s : State) (f : Issue → Issue) : (s.onIss f).parts = s.parts := rfl
@[simp] theorem State.onIss_launches (s : State) (f : Issue → Issue) : (s.onIss f).launches = s.launches := rfl
@[simp] theorem State.onIss_nextLaunch (s : State) (f : Issue → Issue) : (s.onIss f).nextLaunch = s.nextLaunch := rfl
@[simp] theorem State.onIss_accepts (s : State) (f : Issue → Issue) : (s.onIss f).accepts = s.accepts := rfl
@[simp] theorem State.onIss_disp (s : State) (f : Issue → Issue) : (s.onIss f).disp = s.disp := rfl
@[simp] theorem State.onIss_nis (s : State) (f : Issue → Issue) : (s.onIss f).nis = s.nis := rfl
@[simp] theorem State.onIss_fns (s : State) (f : Issue → Issue) : (s.onIss f).fns = s.fns := rfl
@[simp] theorem State.onIss_hostMem (s : State) (f : Issue → Issue) : (s.onIss f).hostMem = s.hostMem := rfl
@[simp] theorem State.onIss_mgmt (s : State) (f : Issue → Issue) : (s.onIss f).mgmt = s.mgmt := rfl
@[simp] theorem State.onIss_pkg (s : State) (f : Issue → Issue) : (s.onIss f).pkg = s.pkg := rfl
@[simp] theorem State.onIss_tile_ep (s : State) (f : Issue → Issue) : (s.onIss f).tile.ep = s.tile.ep := rfl
@[simp] theorem State.onIss_tile_run (s : State) (f : Issue → Issue) : (s.onIss f).tile.run = s.tile.run := rfl
@[simp] theorem State.onIss_tile_thr (s : State) (f : Issue → Issue) : (s.onIss f).tile.thr = s.tile.thr := rfl
@[simp] theorem State.onIss_tile_spec (s : State) (f : Issue → Issue) : (s.onIss f).tile.spec = s.tile.spec := rfl
@[simp] theorem State.onIss_tile_idle (s : State) (f : Issue → Issue) : (s.onIss f).tile.idle = s.tile.idle := rfl
@[simp] theorem State.onIss_tile_waitw (s : State) (f : Issue → Issue) : (s.onIss f).tile.waitw = s.tile.waitw := rfl
@[simp] theorem State.onIss_tile_item (s : State) (f : Issue → Issue) : (s.onIss f).tile.item = s.tile.item := rfl
@[simp] theorem State.onIss_tile_last (s : State) (f : Issue → Issue) : (s.onIss f).tile.last = s.tile.last := rfl
@[simp] theorem State.onIss_tile_imem (s : State) (f : Issue → Issue) : (s.onIss f).tile.imem = s.tile.imem := rfl
@[simp] theorem State.onIss_tile_mem (s : State) (f : Issue → Issue) : (s.onIss f).tile.mem = s.tile.mem := rfl
@[simp] theorem State.onIss_tile_anvil (s : State) (f : Issue → Issue) : (s.onIss f).tile.anvil = s.tile.anvil := rfl
@[simp] theorem State.onIss_tile_latch (s : State) (f : Issue → Issue) : (s.onIss f).tile.latch = s.tile.latch := rfl
@[simp] theorem State.onIss_tile_eng (s : State) (f : Issue → Issue) : (s.onIss f).tile.eng = s.tile.eng := rfl
@[simp] theorem State.onIss_tile_poison (s : State) (f : Issue → Issue) : (s.onIss f).tile.poison = s.tile.poison := rfl
@[simp] theorem State.onIss_tile_retain (s : State) (f : Issue → Issue) : (s.onIss f).tile.retain = s.tile.retain := rfl
@[simp] theorem State.onIss_tile_flaws (s : State) (f : Issue → Issue) : (s.onIss f).tile.flaws = s.tile.flaws := rfl
@[simp] theorem State.onIss_tile_ni (s : State) (f : Issue → Issue) : (s.onIss f).tile.ni = s.tile.ni := rfl
@[simp] theorem State.onIss_tile_shadow (s : State) (f : Issue → Issue) : (s.onIss f).tile.shadow = s.tile.shadow := rfl
@[simp] theorem State.onIss_tile_gang (s : State) (f : Issue → Issue) : (s.onIss f).tile.gang = s.tile.gang := rfl
@[simp] theorem State.onIss_tile_twin (s : State) (f : Issue → Issue) : (s.onIss f).tile.twin = s.tile.twin := rfl
@[simp] theorem State.onIss_tile_iss (s : State) (f : Issue → Issue) : (s.onIss f).tile.iss = f s.tile.iss := rfl

/-! ### `setCr` -/

@[simp] theorem State.setCr_others (s : State) (i : Nat) (v : Word) : (s.setCr i v).others = s.others := rfl
@[simp] theorem State.setCr_round (s : State) (i : Nat) (v : Word) : (s.setCr i v).round = s.round := rfl
@[simp] theorem State.setCr_cycle (s : State) (i : Nat) (v : Word) : (s.setCr i v).cycle = s.cycle := rfl
@[simp] theorem State.setCr_time (s : State) (i : Nat) (v : Word) : (s.setCr i v).time = s.time := rfl
@[simp] theorem State.setCr_frac (s : State) (i : Nat) (v : Word) : (s.setCr i v).frac = s.frac := rfl
@[simp] theorem State.setCr_fresh (s : State) (i : Nat) (v : Word) : (s.setCr i v).fresh = s.fresh := rfl
@[simp] theorem State.setCr_turns (s : State) (i : Nat) (v : Word) : (s.setCr i v).turns = s.turns := rfl
@[simp] theorem State.setCr_sched (s : State) (i : Nat) (v : Word) : (s.setCr i v).sched = s.sched := rfl
@[simp] theorem State.setCr_torus (s : State) (i : Nat) (v : Word) : (s.setCr i v).torus = s.torus := rfl
@[simp] theorem State.setCr_routers (s : State) (i : Nat) (v : Word) : (s.setCr i v).routers = s.routers := rfl
@[simp] theorem State.setCr_spills (s : State) (i : Nat) (v : Word) : (s.setCr i v).spills = s.spills := rfl
@[simp] theorem State.setCr_uet (s : State) (i : Nat) (v : Word) : (s.setCr i v).uet = s.uet := rfl
@[simp] theorem State.setCr_srv (s : State) (i : Nat) (v : Word) : (s.setCr i v).srv = s.srv := rfl
@[simp] theorem State.setCr_base (s : State) (i : Nat) (v : Word) : (s.setCr i v).base = s.base := rfl
@[simp] theorem State.setCr_dram (s : State) (i : Nat) (v : Word) : (s.setCr i v).dram = s.dram := rfl
@[simp] theorem State.setCr_tables (s : State) (i : Nat) (v : Word) : (s.setCr i v).tables = s.tables := rfl
@[simp] theorem State.setCr_keys (s : State) (i : Nat) (v : Word) : (s.setCr i v).keys = s.keys := rfl
@[simp] theorem State.setCr_slotPart (s : State) (i : Nat) (v : Word) : (s.setCr i v).slotPart = s.slotPart := rfl
@[simp] theorem State.setCr_keyGen (s : State) (i : Nat) (v : Word) : (s.setCr i v).keyGen = s.keyGen := rfl
@[simp] theorem State.setCr_seals (s : State) (i : Nat) (v : Word) : (s.setCr i v).seals = s.seals := rfl
@[simp] theorem State.setCr_halo (s : State) (i : Nat) (v : Word) : (s.setCr i v).halo = s.halo := rfl
@[simp] theorem State.setCr_owner (s : State) (i : Nat) (v : Word) : (s.setCr i v).owner = s.owner := rfl
@[simp] theorem State.setCr_ctxPart (s : State) (i : Nat) (v : Word) : (s.setCr i v).ctxPart = s.ctxPart := rfl
@[simp] theorem State.setCr_stgPart (s : State) (i : Nat) (v : Word) : (s.setCr i v).stgPart = s.stgPart := rfl
@[simp] theorem State.setCr_grpPart (s : State) (i : Nat) (v : Word) : (s.setCr i v).grpPart = s.grpPart := rfl
@[simp] theorem State.setCr_parts (s : State) (i : Nat) (v : Word) : (s.setCr i v).parts = s.parts := rfl
@[simp] theorem State.setCr_launches (s : State) (i : Nat) (v : Word) : (s.setCr i v).launches = s.launches := rfl
@[simp] theorem State.setCr_nextLaunch (s : State) (i : Nat) (v : Word) : (s.setCr i v).nextLaunch = s.nextLaunch := rfl
@[simp] theorem State.setCr_accepts (s : State) (i : Nat) (v : Word) : (s.setCr i v).accepts = s.accepts := rfl
@[simp] theorem State.setCr_disp (s : State) (i : Nat) (v : Word) : (s.setCr i v).disp = s.disp := rfl
@[simp] theorem State.setCr_nis (s : State) (i : Nat) (v : Word) : (s.setCr i v).nis = s.nis := rfl
@[simp] theorem State.setCr_fns (s : State) (i : Nat) (v : Word) : (s.setCr i v).fns = s.fns := rfl
@[simp] theorem State.setCr_hostMem (s : State) (i : Nat) (v : Word) : (s.setCr i v).hostMem = s.hostMem := rfl
@[simp] theorem State.setCr_mgmt (s : State) (i : Nat) (v : Word) : (s.setCr i v).mgmt = s.mgmt := rfl
@[simp] theorem State.setCr_pkg (s : State) (i : Nat) (v : Word) : (s.setCr i v).pkg = s.pkg := rfl
@[simp] theorem State.setCr_tile_ep (s : State) (i : Nat) (v : Word) : (s.setCr i v).tile.ep = s.tile.ep := rfl
@[simp] theorem State.setCr_tile_run (s : State) (i : Nat) (v : Word) : (s.setCr i v).tile.run = s.tile.run := rfl
@[simp] theorem State.setCr_tile_iss (s : State) (i : Nat) (v : Word) : (s.setCr i v).tile.iss = s.tile.iss := rfl
@[simp] theorem State.setCr_tile_spec (s : State) (i : Nat) (v : Word) : (s.setCr i v).tile.spec = s.tile.spec := rfl
@[simp] theorem State.setCr_tile_idle (s : State) (i : Nat) (v : Word) : (s.setCr i v).tile.idle = s.tile.idle := rfl
@[simp] theorem State.setCr_tile_waitw (s : State) (i : Nat) (v : Word) : (s.setCr i v).tile.waitw = s.tile.waitw := rfl
@[simp] theorem State.setCr_tile_item (s : State) (i : Nat) (v : Word) : (s.setCr i v).tile.item = s.tile.item := rfl
@[simp] theorem State.setCr_tile_last (s : State) (i : Nat) (v : Word) : (s.setCr i v).tile.last = s.tile.last := rfl
@[simp] theorem State.setCr_tile_imem (s : State) (i : Nat) (v : Word) : (s.setCr i v).tile.imem = s.tile.imem := rfl
@[simp] theorem State.setCr_tile_mem (s : State) (i : Nat) (v : Word) : (s.setCr i v).tile.mem = s.tile.mem := rfl
@[simp] theorem State.setCr_tile_anvil (s : State) (i : Nat) (v : Word) : (s.setCr i v).tile.anvil = s.tile.anvil := rfl
@[simp] theorem State.setCr_tile_latch (s : State) (i : Nat) (v : Word) : (s.setCr i v).tile.latch = s.tile.latch := rfl
@[simp] theorem State.setCr_tile_eng (s : State) (i : Nat) (v : Word) : (s.setCr i v).tile.eng = s.tile.eng := rfl
@[simp] theorem State.setCr_tile_poison (s : State) (i : Nat) (v : Word) : (s.setCr i v).tile.poison = s.tile.poison := rfl
@[simp] theorem State.setCr_tile_retain (s : State) (i : Nat) (v : Word) : (s.setCr i v).tile.retain = s.tile.retain := rfl
@[simp] theorem State.setCr_tile_flaws (s : State) (i : Nat) (v : Word) : (s.setCr i v).tile.flaws = s.tile.flaws := rfl
@[simp] theorem State.setCr_tile_ni (s : State) (i : Nat) (v : Word) : (s.setCr i v).tile.ni = s.tile.ni := rfl
@[simp] theorem State.setCr_tile_shadow (s : State) (i : Nat) (v : Word) : (s.setCr i v).tile.shadow = s.tile.shadow := rfl
@[simp] theorem State.setCr_tile_gang (s : State) (i : Nat) (v : Word) : (s.setCr i v).tile.gang = s.tile.gang := rfl
@[simp] theorem State.setCr_tile_twin (s : State) (i : Nat) (v : Word) : (s.setCr i v).tile.twin = s.tile.twin := rfl
@[simp] theorem State.setCr_thr_order (s : State) (i : Nat) (v : Word) : (s.setCr i v).tile.thr.order = s.tile.thr.order := rfl
@[simp] theorem State.setCr_thr_pc (s : State) (i : Nat) (v : Word) : (s.setCr i v).tile.thr.pc = s.tile.thr.pc := rfl
@[simp] theorem State.setCr_thr_land (s : State) (i : Nat) (v : Word) : (s.setCr i v).tile.thr.land = s.tile.thr.land := rfl
@[simp] theorem State.setCr_thr_caps (s : State) (i : Nat) (v : Word) : (s.setCr i v).tile.thr.caps = s.tile.thr.caps := rfl
@[simp] theorem State.setCr_thr_pend (s : State) (i : Nat) (v : Word) : (s.setCr i v).tile.thr.pend = s.tile.thr.pend := rfl
@[simp] theorem State.setCr_thr_replay (s : State) (i : Nat) (v : Word) : (s.setCr i v).tile.thr.replay = s.tile.thr.replay := rfl
@[simp] theorem State.setCr_thr_endStep (s : State) (i : Nat) (v : Word) : (s.setCr i v).tile.thr.endStep = s.tile.thr.endStep := rfl
@[simp] theorem State.setCr_thr_waited (s : State) (i : Nat) (v : Word) : (s.setCr i v).tile.thr.waited = s.tile.thr.waited := rfl
@[simp] theorem State.setCr_thr_elapsed (s : State) (i : Nat) (v : Word) : (s.setCr i v).tile.thr.elapsed = s.tile.thr.elapsed := rfl
@[simp] theorem State.setCr_thr_sigHeld (s : State) (i : Nat) (v : Word) : (s.setCr i v).tile.thr.sigHeld = s.tile.thr.sigHeld := rfl
@[simp] theorem State.setCr_thr_issued (s : State) (i : Nat) (v : Word) : (s.setCr i v).tile.thr.issued = s.tile.thr.issued := rfl
@[simp] theorem State.setCr_thr_regs (s : State) (i : Nat) (v : Word) : (s.setCr i v).tile.thr.regs = s.tile.thr.regs.setC i v := rfl

/-! ### `land` -/

@[simp] theorem State.land_others (s : State) (r : Reg) (lat : Nat) (g : BitVec 6) : (s.land r lat g).others = s.others := rfl
@[simp] theorem State.land_round (s : State) (r : Reg) (lat : Nat) (g : BitVec 6) : (s.land r lat g).round = s.round := rfl
@[simp] theorem State.land_cycle (s : State) (r : Reg) (lat : Nat) (g : BitVec 6) : (s.land r lat g).cycle = s.cycle := rfl
@[simp] theorem State.land_time (s : State) (r : Reg) (lat : Nat) (g : BitVec 6) : (s.land r lat g).time = s.time := rfl
@[simp] theorem State.land_frac (s : State) (r : Reg) (lat : Nat) (g : BitVec 6) : (s.land r lat g).frac = s.frac := rfl
@[simp] theorem State.land_fresh (s : State) (r : Reg) (lat : Nat) (g : BitVec 6) : (s.land r lat g).fresh = s.fresh := rfl
@[simp] theorem State.land_turns (s : State) (r : Reg) (lat : Nat) (g : BitVec 6) : (s.land r lat g).turns = s.turns := rfl
@[simp] theorem State.land_sched (s : State) (r : Reg) (lat : Nat) (g : BitVec 6) : (s.land r lat g).sched = s.sched := rfl
@[simp] theorem State.land_torus (s : State) (r : Reg) (lat : Nat) (g : BitVec 6) : (s.land r lat g).torus = s.torus := rfl
@[simp] theorem State.land_routers (s : State) (r : Reg) (lat : Nat) (g : BitVec 6) : (s.land r lat g).routers = s.routers := rfl
@[simp] theorem State.land_spills (s : State) (r : Reg) (lat : Nat) (g : BitVec 6) : (s.land r lat g).spills = s.spills := rfl
@[simp] theorem State.land_uet (s : State) (r : Reg) (lat : Nat) (g : BitVec 6) : (s.land r lat g).uet = s.uet := rfl
@[simp] theorem State.land_srv (s : State) (r : Reg) (lat : Nat) (g : BitVec 6) : (s.land r lat g).srv = s.srv := rfl
@[simp] theorem State.land_base (s : State) (r : Reg) (lat : Nat) (g : BitVec 6) : (s.land r lat g).base = s.base := rfl
@[simp] theorem State.land_dram (s : State) (r : Reg) (lat : Nat) (g : BitVec 6) : (s.land r lat g).dram = s.dram := rfl
@[simp] theorem State.land_tables (s : State) (r : Reg) (lat : Nat) (g : BitVec 6) : (s.land r lat g).tables = s.tables := rfl
@[simp] theorem State.land_keys (s : State) (r : Reg) (lat : Nat) (g : BitVec 6) : (s.land r lat g).keys = s.keys := rfl
@[simp] theorem State.land_slotPart (s : State) (r : Reg) (lat : Nat) (g : BitVec 6) : (s.land r lat g).slotPart = s.slotPart := rfl
@[simp] theorem State.land_keyGen (s : State) (r : Reg) (lat : Nat) (g : BitVec 6) : (s.land r lat g).keyGen = s.keyGen := rfl
@[simp] theorem State.land_seals (s : State) (r : Reg) (lat : Nat) (g : BitVec 6) : (s.land r lat g).seals = s.seals := rfl
@[simp] theorem State.land_halo (s : State) (r : Reg) (lat : Nat) (g : BitVec 6) : (s.land r lat g).halo = s.halo := rfl
@[simp] theorem State.land_owner (s : State) (r : Reg) (lat : Nat) (g : BitVec 6) : (s.land r lat g).owner = s.owner := rfl
@[simp] theorem State.land_ctxPart (s : State) (r : Reg) (lat : Nat) (g : BitVec 6) : (s.land r lat g).ctxPart = s.ctxPart := rfl
@[simp] theorem State.land_stgPart (s : State) (r : Reg) (lat : Nat) (g : BitVec 6) : (s.land r lat g).stgPart = s.stgPart := rfl
@[simp] theorem State.land_grpPart (s : State) (r : Reg) (lat : Nat) (g : BitVec 6) : (s.land r lat g).grpPart = s.grpPart := rfl
@[simp] theorem State.land_parts (s : State) (r : Reg) (lat : Nat) (g : BitVec 6) : (s.land r lat g).parts = s.parts := rfl
@[simp] theorem State.land_launches (s : State) (r : Reg) (lat : Nat) (g : BitVec 6) : (s.land r lat g).launches = s.launches := rfl
@[simp] theorem State.land_nextLaunch (s : State) (r : Reg) (lat : Nat) (g : BitVec 6) : (s.land r lat g).nextLaunch = s.nextLaunch := rfl
@[simp] theorem State.land_accepts (s : State) (r : Reg) (lat : Nat) (g : BitVec 6) : (s.land r lat g).accepts = s.accepts := rfl
@[simp] theorem State.land_disp (s : State) (r : Reg) (lat : Nat) (g : BitVec 6) : (s.land r lat g).disp = s.disp := rfl
@[simp] theorem State.land_nis (s : State) (r : Reg) (lat : Nat) (g : BitVec 6) : (s.land r lat g).nis = s.nis := rfl
@[simp] theorem State.land_fns (s : State) (r : Reg) (lat : Nat) (g : BitVec 6) : (s.land r lat g).fns = s.fns := rfl
@[simp] theorem State.land_hostMem (s : State) (r : Reg) (lat : Nat) (g : BitVec 6) : (s.land r lat g).hostMem = s.hostMem := rfl
@[simp] theorem State.land_mgmt (s : State) (r : Reg) (lat : Nat) (g : BitVec 6) : (s.land r lat g).mgmt = s.mgmt := rfl
@[simp] theorem State.land_pkg (s : State) (r : Reg) (lat : Nat) (g : BitVec 6) : (s.land r lat g).pkg = s.pkg := rfl
@[simp] theorem State.land_tile_ep (s : State) (r : Reg) (lat : Nat) (g : BitVec 6) : (s.land r lat g).tile.ep = s.tile.ep := rfl
@[simp] theorem State.land_tile_run (s : State) (r : Reg) (lat : Nat) (g : BitVec 6) : (s.land r lat g).tile.run = s.tile.run := rfl
@[simp] theorem State.land_tile_iss (s : State) (r : Reg) (lat : Nat) (g : BitVec 6) : (s.land r lat g).tile.iss = s.tile.iss := rfl
@[simp] theorem State.land_tile_spec (s : State) (r : Reg) (lat : Nat) (g : BitVec 6) : (s.land r lat g).tile.spec = s.tile.spec := rfl
@[simp] theorem State.land_tile_idle (s : State) (r : Reg) (lat : Nat) (g : BitVec 6) : (s.land r lat g).tile.idle = s.tile.idle := rfl
@[simp] theorem State.land_tile_waitw (s : State) (r : Reg) (lat : Nat) (g : BitVec 6) : (s.land r lat g).tile.waitw = s.tile.waitw := rfl
@[simp] theorem State.land_tile_item (s : State) (r : Reg) (lat : Nat) (g : BitVec 6) : (s.land r lat g).tile.item = s.tile.item := rfl
@[simp] theorem State.land_tile_last (s : State) (r : Reg) (lat : Nat) (g : BitVec 6) : (s.land r lat g).tile.last = s.tile.last := rfl
@[simp] theorem State.land_tile_imem (s : State) (r : Reg) (lat : Nat) (g : BitVec 6) : (s.land r lat g).tile.imem = s.tile.imem := rfl
@[simp] theorem State.land_tile_mem (s : State) (r : Reg) (lat : Nat) (g : BitVec 6) : (s.land r lat g).tile.mem = s.tile.mem := rfl
@[simp] theorem State.land_tile_anvil (s : State) (r : Reg) (lat : Nat) (g : BitVec 6) : (s.land r lat g).tile.anvil = s.tile.anvil := rfl
@[simp] theorem State.land_tile_latch (s : State) (r : Reg) (lat : Nat) (g : BitVec 6) : (s.land r lat g).tile.latch = s.tile.latch := rfl
@[simp] theorem State.land_tile_eng (s : State) (r : Reg) (lat : Nat) (g : BitVec 6) : (s.land r lat g).tile.eng = s.tile.eng := rfl
@[simp] theorem State.land_tile_poison (s : State) (r : Reg) (lat : Nat) (g : BitVec 6) : (s.land r lat g).tile.poison = s.tile.poison := rfl
@[simp] theorem State.land_tile_retain (s : State) (r : Reg) (lat : Nat) (g : BitVec 6) : (s.land r lat g).tile.retain = s.tile.retain := rfl
@[simp] theorem State.land_tile_flaws (s : State) (r : Reg) (lat : Nat) (g : BitVec 6) : (s.land r lat g).tile.flaws = s.tile.flaws := rfl
@[simp] theorem State.land_tile_ni (s : State) (r : Reg) (lat : Nat) (g : BitVec 6) : (s.land r lat g).tile.ni = s.tile.ni := rfl
@[simp] theorem State.land_tile_shadow (s : State) (r : Reg) (lat : Nat) (g : BitVec 6) : (s.land r lat g).tile.shadow = s.tile.shadow := rfl
@[simp] theorem State.land_tile_gang (s : State) (r : Reg) (lat : Nat) (g : BitVec 6) : (s.land r lat g).tile.gang = s.tile.gang := rfl
@[simp] theorem State.land_tile_twin (s : State) (r : Reg) (lat : Nat) (g : BitVec 6) : (s.land r lat g).tile.twin = s.tile.twin := rfl
@[simp] theorem State.land_thr_regs (s : State) (r : Reg) (lat : Nat) (g : BitVec 6) : (s.land r lat g).tile.thr.regs = s.tile.thr.regs := rfl
@[simp] theorem State.land_thr_order (s : State) (r : Reg) (lat : Nat) (g : BitVec 6) : (s.land r lat g).tile.thr.order = s.tile.thr.order := rfl
@[simp] theorem State.land_thr_pc (s : State) (r : Reg) (lat : Nat) (g : BitVec 6) : (s.land r lat g).tile.thr.pc = s.tile.thr.pc := rfl
@[simp] theorem State.land_thr_caps (s : State) (r : Reg) (lat : Nat) (g : BitVec 6) : (s.land r lat g).tile.thr.caps = s.tile.thr.caps := rfl
@[simp] theorem State.land_thr_pend (s : State) (r : Reg) (lat : Nat) (g : BitVec 6) : (s.land r lat g).tile.thr.pend = s.tile.thr.pend := rfl
@[simp] theorem State.land_thr_replay (s : State) (r : Reg) (lat : Nat) (g : BitVec 6) : (s.land r lat g).tile.thr.replay = s.tile.thr.replay := rfl
@[simp] theorem State.land_thr_endStep (s : State) (r : Reg) (lat : Nat) (g : BitVec 6) : (s.land r lat g).tile.thr.endStep = s.tile.thr.endStep := rfl
@[simp] theorem State.land_thr_waited (s : State) (r : Reg) (lat : Nat) (g : BitVec 6) : (s.land r lat g).tile.thr.waited = s.tile.thr.waited := rfl
@[simp] theorem State.land_thr_elapsed (s : State) (r : Reg) (lat : Nat) (g : BitVec 6) : (s.land r lat g).tile.thr.elapsed = s.tile.thr.elapsed := rfl
@[simp] theorem State.land_thr_sigHeld (s : State) (r : Reg) (lat : Nat) (g : BitVec 6) : (s.land r lat g).tile.thr.sigHeld = s.tile.thr.sigHeld := rfl
@[simp] theorem State.land_thr_issued (s : State) (r : Reg) (lat : Nat) (g : BitVec 6) : (s.land r lat g).tile.thr.issued = s.tile.thr.issued := rfl

/-! ### `clean` -/

@[simp] theorem State.clean_others (s : State) (r : Reg) : (s.clean r).others = s.others := rfl
@[simp] theorem State.clean_round (s : State) (r : Reg) : (s.clean r).round = s.round := rfl
@[simp] theorem State.clean_cycle (s : State) (r : Reg) : (s.clean r).cycle = s.cycle := rfl
@[simp] theorem State.clean_time (s : State) (r : Reg) : (s.clean r).time = s.time := rfl
@[simp] theorem State.clean_frac (s : State) (r : Reg) : (s.clean r).frac = s.frac := rfl
@[simp] theorem State.clean_fresh (s : State) (r : Reg) : (s.clean r).fresh = s.fresh := rfl
@[simp] theorem State.clean_turns (s : State) (r : Reg) : (s.clean r).turns = s.turns := rfl
@[simp] theorem State.clean_sched (s : State) (r : Reg) : (s.clean r).sched = s.sched := rfl
@[simp] theorem State.clean_torus (s : State) (r : Reg) : (s.clean r).torus = s.torus := rfl
@[simp] theorem State.clean_routers (s : State) (r : Reg) : (s.clean r).routers = s.routers := rfl
@[simp] theorem State.clean_spills (s : State) (r : Reg) : (s.clean r).spills = s.spills := rfl
@[simp] theorem State.clean_uet (s : State) (r : Reg) : (s.clean r).uet = s.uet := rfl
@[simp] theorem State.clean_srv (s : State) (r : Reg) : (s.clean r).srv = s.srv := rfl
@[simp] theorem State.clean_base (s : State) (r : Reg) : (s.clean r).base = s.base := rfl
@[simp] theorem State.clean_dram (s : State) (r : Reg) : (s.clean r).dram = s.dram := rfl
@[simp] theorem State.clean_tables (s : State) (r : Reg) : (s.clean r).tables = s.tables := rfl
@[simp] theorem State.clean_keys (s : State) (r : Reg) : (s.clean r).keys = s.keys := rfl
@[simp] theorem State.clean_slotPart (s : State) (r : Reg) : (s.clean r).slotPart = s.slotPart := rfl
@[simp] theorem State.clean_keyGen (s : State) (r : Reg) : (s.clean r).keyGen = s.keyGen := rfl
@[simp] theorem State.clean_seals (s : State) (r : Reg) : (s.clean r).seals = s.seals := rfl
@[simp] theorem State.clean_halo (s : State) (r : Reg) : (s.clean r).halo = s.halo := rfl
@[simp] theorem State.clean_owner (s : State) (r : Reg) : (s.clean r).owner = s.owner := rfl
@[simp] theorem State.clean_ctxPart (s : State) (r : Reg) : (s.clean r).ctxPart = s.ctxPart := rfl
@[simp] theorem State.clean_stgPart (s : State) (r : Reg) : (s.clean r).stgPart = s.stgPart := rfl
@[simp] theorem State.clean_grpPart (s : State) (r : Reg) : (s.clean r).grpPart = s.grpPart := rfl
@[simp] theorem State.clean_parts (s : State) (r : Reg) : (s.clean r).parts = s.parts := rfl
@[simp] theorem State.clean_launches (s : State) (r : Reg) : (s.clean r).launches = s.launches := rfl
@[simp] theorem State.clean_nextLaunch (s : State) (r : Reg) : (s.clean r).nextLaunch = s.nextLaunch := rfl
@[simp] theorem State.clean_accepts (s : State) (r : Reg) : (s.clean r).accepts = s.accepts := rfl
@[simp] theorem State.clean_disp (s : State) (r : Reg) : (s.clean r).disp = s.disp := rfl
@[simp] theorem State.clean_nis (s : State) (r : Reg) : (s.clean r).nis = s.nis := rfl
@[simp] theorem State.clean_fns (s : State) (r : Reg) : (s.clean r).fns = s.fns := rfl
@[simp] theorem State.clean_hostMem (s : State) (r : Reg) : (s.clean r).hostMem = s.hostMem := rfl
@[simp] theorem State.clean_mgmt (s : State) (r : Reg) : (s.clean r).mgmt = s.mgmt := rfl
@[simp] theorem State.clean_pkg (s : State) (r : Reg) : (s.clean r).pkg = s.pkg := rfl
@[simp] theorem State.clean_tile_ep (s : State) (r : Reg) : (s.clean r).tile.ep = s.tile.ep := rfl
@[simp] theorem State.clean_tile_run (s : State) (r : Reg) : (s.clean r).tile.run = s.tile.run := rfl
@[simp] theorem State.clean_tile_thr (s : State) (r : Reg) : (s.clean r).tile.thr = s.tile.thr := rfl
@[simp] theorem State.clean_tile_iss (s : State) (r : Reg) : (s.clean r).tile.iss = s.tile.iss := rfl
@[simp] theorem State.clean_tile_idle (s : State) (r : Reg) : (s.clean r).tile.idle = s.tile.idle := rfl
@[simp] theorem State.clean_tile_waitw (s : State) (r : Reg) : (s.clean r).tile.waitw = s.tile.waitw := rfl
@[simp] theorem State.clean_tile_item (s : State) (r : Reg) : (s.clean r).tile.item = s.tile.item := rfl
@[simp] theorem State.clean_tile_last (s : State) (r : Reg) : (s.clean r).tile.last = s.tile.last := rfl
@[simp] theorem State.clean_tile_imem (s : State) (r : Reg) : (s.clean r).tile.imem = s.tile.imem := rfl
@[simp] theorem State.clean_tile_mem (s : State) (r : Reg) : (s.clean r).tile.mem = s.tile.mem := rfl
@[simp] theorem State.clean_tile_anvil (s : State) (r : Reg) : (s.clean r).tile.anvil = s.tile.anvil := rfl
@[simp] theorem State.clean_tile_latch (s : State) (r : Reg) : (s.clean r).tile.latch = s.tile.latch := rfl
@[simp] theorem State.clean_tile_eng (s : State) (r : Reg) : (s.clean r).tile.eng = s.tile.eng := rfl
@[simp] theorem State.clean_tile_retain (s : State) (r : Reg) : (s.clean r).tile.retain = s.tile.retain := rfl
@[simp] theorem State.clean_tile_flaws (s : State) (r : Reg) : (s.clean r).tile.flaws = s.tile.flaws := rfl
@[simp] theorem State.clean_tile_ni (s : State) (r : Reg) : (s.clean r).tile.ni = s.tile.ni := rfl
@[simp] theorem State.clean_tile_shadow (s : State) (r : Reg) : (s.clean r).tile.shadow = s.tile.shadow := rfl
@[simp] theorem State.clean_tile_gang (s : State) (r : Reg) : (s.clean r).tile.gang = s.tile.gang := rfl
@[simp] theorem State.clean_tile_twin (s : State) (r : Reg) : (s.clean r).tile.twin = s.tile.twin := rfl
@[simp] theorem State.clean_poison (s : State) (r : Reg) : (s.clean r).tile.poison = s.tile.poison.filter fun p => p != .reg r := rfl
@[simp] theorem State.clean_spec (s : State) (r : Reg) : (s.clean r).tile.spec =
    s.tile.spec.map fun p => { p with cleared := p.cleared ++ s.tile.poison.filter fun q => q == .reg r } := rfl
theorem State.clean_spec_none (s : State) (r : Reg) (h : s.tile.spec = none) : (s.clean r).tile.spec = none := by simp [h]

/-! ### The writers of register files -/

@[simp] theorem Regs.setF_s (r : Regs) (n : Nat) (x : W32) : (r.setF n x).s = r.s := rfl
@[simp] theorem Regs.setF_v (r : Regs) (n : Nat) (x : W32) : (r.setF n x).v = r.v := rfl
@[simp] theorem Regs.setF_m (r : Regs) (n : Nat) (x : W32) : (r.setF n x).m = r.m := rfl
@[simp] theorem Regs.setF_p (r : Regs) (n : Nat) (x : W32) : (r.setF n x).p = r.p := rfl
@[simp] theorem Regs.setF_acc (r : Regs) (n : Nat) (x : W32) : (r.setF n x).acc = r.acc := rfl
@[simp] theorem Regs.setF_xa (r : Regs) (n : Nat) (x : W32) : (r.setF n x).xa = r.xa := rfl
@[simp] theorem Regs.setF_b (r : Regs) (n : Nat) (x : W32) : (r.setF n x).b = r.b := rfl
@[simp] theorem Regs.setF_sig (r : Regs) (n : Nat) (x : W32) : (r.setF n x).sig = r.sig := rfl
@[simp] theorem Regs.setF_h (r : Regs) (n : Nat) (x : W32) : (r.setF n x).h = r.h := rfl
@[simp] theorem Regs.setF_lc (r : Regs) (n : Nat) (x : W32) : (r.setF n x).lc = r.lc := rfl
@[simp] theorem Regs.setF_cr (r : Regs) (n : Nat) (x : W32) : (r.setF n x).cr = r.cr := rfl
@[simp] theorem Regs.setV_s (r : Regs) (n : Nat) (x : VVal) : (r.setV n x).s = r.s := rfl
@[simp] theorem Regs.setV_f (r : Regs) (n : Nat) (x : VVal) : (r.setV n x).f = r.f := rfl
@[simp] theorem Regs.setV_m (r : Regs) (n : Nat) (x : VVal) : (r.setV n x).m = r.m := rfl
@[simp] theorem Regs.setV_p (r : Regs) (n : Nat) (x : VVal) : (r.setV n x).p = r.p := rfl
@[simp] theorem Regs.setV_acc (r : Regs) (n : Nat) (x : VVal) : (r.setV n x).acc = r.acc := rfl
@[simp] theorem Regs.setV_xa (r : Regs) (n : Nat) (x : VVal) : (r.setV n x).xa = r.xa := rfl
@[simp] theorem Regs.setV_b (r : Regs) (n : Nat) (x : VVal) : (r.setV n x).b = r.b := rfl
@[simp] theorem Regs.setV_sig (r : Regs) (n : Nat) (x : VVal) : (r.setV n x).sig = r.sig := rfl
@[simp] theorem Regs.setV_h (r : Regs) (n : Nat) (x : VVal) : (r.setV n x).h = r.h := rfl
@[simp] theorem Regs.setV_lc (r : Regs) (n : Nat) (x : VVal) : (r.setV n x).lc = r.lc := rfl
@[simp] theorem Regs.setV_cr (r : Regs) (n : Nat) (x : VVal) : (r.setV n x).cr = r.cr := rfl
@[simp] theorem Regs.setRow_s (r : Regs) (k i : Nat) (x : VBits) : (r.setRow k i x).s = r.s := rfl
@[simp] theorem Regs.setRow_f (r : Regs) (k i : Nat) (x : VBits) : (r.setRow k i x).f = r.f := rfl
@[simp] theorem Regs.setRow_v (r : Regs) (k i : Nat) (x : VBits) : (r.setRow k i x).v = r.v := rfl
@[simp] theorem Regs.setRow_m (r : Regs) (k i : Nat) (x : VBits) : (r.setRow k i x).m = r.m := rfl
@[simp] theorem Regs.setRow_p (r : Regs) (k i : Nat) (x : VBits) : (r.setRow k i x).p = r.p := rfl
@[simp] theorem Regs.setRow_xa (r : Regs) (k i : Nat) (x : VBits) : (r.setRow k i x).xa = r.xa := rfl
@[simp] theorem Regs.setRow_b (r : Regs) (k i : Nat) (x : VBits) : (r.setRow k i x).b = r.b := rfl
@[simp] theorem Regs.setRow_sig (r : Regs) (k i : Nat) (x : VBits) : (r.setRow k i x).sig = r.sig := rfl
@[simp] theorem Regs.setRow_h (r : Regs) (k i : Nat) (x : VBits) : (r.setRow k i x).h = r.h := rfl
@[simp] theorem Regs.setRow_lc (r : Regs) (k i : Nat) (x : VBits) : (r.setRow k i x).lc = r.lc := rfl
@[simp] theorem Regs.setRow_cr (r : Regs) (k i : Nat) (x : VBits) : (r.setRow k i x).cr = r.cr := rfl
@[simp] theorem Regs.setXA_s (r : Regs) (k i : Nat) (x : XA) : (r.setXA k i x).s = r.s := rfl
@[simp] theorem Regs.setXA_f (r : Regs) (k i : Nat) (x : XA) : (r.setXA k i x).f = r.f := rfl
@[simp] theorem Regs.setXA_v (r : Regs) (k i : Nat) (x : XA) : (r.setXA k i x).v = r.v := rfl
@[simp] theorem Regs.setXA_m (r : Regs) (k i : Nat) (x : XA) : (r.setXA k i x).m = r.m := rfl
@[simp] theorem Regs.setXA_p (r : Regs) (k i : Nat) (x : XA) : (r.setXA k i x).p = r.p := rfl
@[simp] theorem Regs.setXA_acc (r : Regs) (k i : Nat) (x : XA) : (r.setXA k i x).acc = r.acc := rfl
@[simp] theorem Regs.setXA_b (r : Regs) (k i : Nat) (x : XA) : (r.setXA k i x).b = r.b := rfl
@[simp] theorem Regs.setXA_sig (r : Regs) (k i : Nat) (x : XA) : (r.setXA k i x).sig = r.sig := rfl
@[simp] theorem Regs.setXA_h (r : Regs) (k i : Nat) (x : XA) : (r.setXA k i x).h = r.h := rfl
@[simp] theorem Regs.setXA_lc (r : Regs) (k i : Nat) (x : XA) : (r.setXA k i x).lc = r.lc := rfl
@[simp] theorem Regs.setXA_cr (r : Regs) (k i : Nat) (x : XA) : (r.setXA k i x).cr = r.cr := rfl
@[simp] theorem Regs.setB_s (r : Regs) (n : Nat) (x : Belief) : (r.setB n x).s = r.s := rfl
@[simp] theorem Regs.setB_f (r : Regs) (n : Nat) (x : Belief) : (r.setB n x).f = r.f := rfl
@[simp] theorem Regs.setB_v (r : Regs) (n : Nat) (x : Belief) : (r.setB n x).v = r.v := rfl
@[simp] theorem Regs.setB_m (r : Regs) (n : Nat) (x : Belief) : (r.setB n x).m = r.m := rfl
@[simp] theorem Regs.setB_p (r : Regs) (n : Nat) (x : Belief) : (r.setB n x).p = r.p := rfl
@[simp] theorem Regs.setB_acc (r : Regs) (n : Nat) (x : Belief) : (r.setB n x).acc = r.acc := rfl
@[simp] theorem Regs.setB_xa (r : Regs) (n : Nat) (x : Belief) : (r.setB n x).xa = r.xa := rfl
@[simp] theorem Regs.setB_sig (r : Regs) (n : Nat) (x : Belief) : (r.setB n x).sig = r.sig := rfl
@[simp] theorem Regs.setB_h (r : Regs) (n : Nat) (x : Belief) : (r.setB n x).h = r.h := rfl
@[simp] theorem Regs.setB_lc (r : Regs) (n : Nat) (x : Belief) : (r.setB n x).lc = r.lc := rfl
@[simp] theorem Regs.setB_cr (r : Regs) (n : Nat) (x : Belief) : (r.setB n x).cr = r.cr := rfl
@[simp] theorem Regs.setSig_s (r : Regs) (n : Nat) (x : BitVec 512) : (r.setSig n x).s = r.s := rfl
@[simp] theorem Regs.setSig_f (r : Regs) (n : Nat) (x : BitVec 512) : (r.setSig n x).f = r.f := rfl
@[simp] theorem Regs.setSig_v (r : Regs) (n : Nat) (x : BitVec 512) : (r.setSig n x).v = r.v := rfl
@[simp] theorem Regs.setSig_m (r : Regs) (n : Nat) (x : BitVec 512) : (r.setSig n x).m = r.m := rfl
@[simp] theorem Regs.setSig_p (r : Regs) (n : Nat) (x : BitVec 512) : (r.setSig n x).p = r.p := rfl
@[simp] theorem Regs.setSig_acc (r : Regs) (n : Nat) (x : BitVec 512) : (r.setSig n x).acc = r.acc := rfl
@[simp] theorem Regs.setSig_xa (r : Regs) (n : Nat) (x : BitVec 512) : (r.setSig n x).xa = r.xa := rfl
@[simp] theorem Regs.setSig_b (r : Regs) (n : Nat) (x : BitVec 512) : (r.setSig n x).b = r.b := rfl
@[simp] theorem Regs.setSig_h (r : Regs) (n : Nat) (x : BitVec 512) : (r.setSig n x).h = r.h := rfl
@[simp] theorem Regs.setSig_lc (r : Regs) (n : Nat) (x : BitVec 512) : (r.setSig n x).lc = r.lc := rfl
@[simp] theorem Regs.setSig_cr (r : Regs) (n : Nat) (x : BitVec 512) : (r.setSig n x).cr = r.cr := rfl
@[simp] theorem Regs.setH_s (r : Regs) (n : Nat) (x : Option Nat) : (r.setH n x).s = r.s := rfl
@[simp] theorem Regs.setH_f (r : Regs) (n : Nat) (x : Option Nat) : (r.setH n x).f = r.f := rfl
@[simp] theorem Regs.setH_v (r : Regs) (n : Nat) (x : Option Nat) : (r.setH n x).v = r.v := rfl
@[simp] theorem Regs.setH_m (r : Regs) (n : Nat) (x : Option Nat) : (r.setH n x).m = r.m := rfl
@[simp] theorem Regs.setH_p (r : Regs) (n : Nat) (x : Option Nat) : (r.setH n x).p = r.p := rfl
@[simp] theorem Regs.setH_acc (r : Regs) (n : Nat) (x : Option Nat) : (r.setH n x).acc = r.acc := rfl
@[simp] theorem Regs.setH_xa (r : Regs) (n : Nat) (x : Option Nat) : (r.setH n x).xa = r.xa := rfl
@[simp] theorem Regs.setH_b (r : Regs) (n : Nat) (x : Option Nat) : (r.setH n x).b = r.b := rfl
@[simp] theorem Regs.setH_sig (r : Regs) (n : Nat) (x : Option Nat) : (r.setH n x).sig = r.sig := rfl
@[simp] theorem Regs.setH_lc (r : Regs) (n : Nat) (x : Option Nat) : (r.setH n x).lc = r.lc := rfl
@[simp] theorem Regs.setH_cr (r : Regs) (n : Nat) (x : Option Nat) : (r.setH n x).cr = r.cr := rfl
@[simp] theorem Regs.setLC_s (r : Regs) (n : Nat) (x : Loop) : (r.setLC n x).s = r.s := rfl
@[simp] theorem Regs.setLC_f (r : Regs) (n : Nat) (x : Loop) : (r.setLC n x).f = r.f := rfl
@[simp] theorem Regs.setLC_v (r : Regs) (n : Nat) (x : Loop) : (r.setLC n x).v = r.v := rfl
@[simp] theorem Regs.setLC_m (r : Regs) (n : Nat) (x : Loop) : (r.setLC n x).m = r.m := rfl
@[simp] theorem Regs.setLC_p (r : Regs) (n : Nat) (x : Loop) : (r.setLC n x).p = r.p := rfl
@[simp] theorem Regs.setLC_acc (r : Regs) (n : Nat) (x : Loop) : (r.setLC n x).acc = r.acc := rfl
@[simp] theorem Regs.setLC_xa (r : Regs) (n : Nat) (x : Loop) : (r.setLC n x).xa = r.xa := rfl
@[simp] theorem Regs.setLC_b (r : Regs) (n : Nat) (x : Loop) : (r.setLC n x).b = r.b := rfl
@[simp] theorem Regs.setLC_sig (r : Regs) (n : Nat) (x : Loop) : (r.setLC n x).sig = r.sig := rfl
@[simp] theorem Regs.setLC_h (r : Regs) (n : Nat) (x : Loop) : (r.setLC n x).h = r.h := rfl
@[simp] theorem Regs.setLC_cr (r : Regs) (n : Nat) (x : Loop) : (r.setLC n x).cr = r.cr := rfl
@[simp] theorem Regs.setC_s (r : Regs) (n : Nat) (x : Word) : (r.setC n x).s = r.s := rfl
@[simp] theorem Regs.setC_f (r : Regs) (n : Nat) (x : Word) : (r.setC n x).f = r.f := rfl
@[simp] theorem Regs.setC_v (r : Regs) (n : Nat) (x : Word) : (r.setC n x).v = r.v := rfl
@[simp] theorem Regs.setC_m (r : Regs) (n : Nat) (x : Word) : (r.setC n x).m = r.m := rfl
@[simp] theorem Regs.setC_p (r : Regs) (n : Nat) (x : Word) : (r.setC n x).p = r.p := rfl
@[simp] theorem Regs.setC_acc (r : Regs) (n : Nat) (x : Word) : (r.setC n x).acc = r.acc := rfl
@[simp] theorem Regs.setC_xa (r : Regs) (n : Nat) (x : Word) : (r.setC n x).xa = r.xa := rfl
@[simp] theorem Regs.setC_b (r : Regs) (n : Nat) (x : Word) : (r.setC n x).b = r.b := rfl
@[simp] theorem Regs.setC_sig (r : Regs) (n : Nat) (x : Word) : (r.setC n x).sig = r.sig := rfl
@[simp] theorem Regs.setC_h (r : Regs) (n : Nat) (x : Word) : (r.setC n x).h = r.h := rfl
@[simp] theorem Regs.setC_lc (r : Regs) (n : Nat) (x : Word) : (r.setC n x).lc = r.lc := rfl
@[simp] theorem Regs.setS_f (r : Regs) (n : Nat) (x : SVal) : (r.setS n x).f = r.f := by unfold Regs.setS; split <;> rfl
@[simp] theorem Regs.setS_v (r : Regs) (n : Nat) (x : SVal) : (r.setS n x).v = r.v := by unfold Regs.setS; split <;> rfl
@[simp] theorem Regs.setS_m (r : Regs) (n : Nat) (x : SVal) : (r.setS n x).m = r.m := by unfold Regs.setS; split <;> rfl
@[simp] theorem Regs.setS_p (r : Regs) (n : Nat) (x : SVal) : (r.setS n x).p = r.p := by unfold Regs.setS; split <;> rfl
@[simp] theorem Regs.setS_acc (r : Regs) (n : Nat) (x : SVal) : (r.setS n x).acc = r.acc := by unfold Regs.setS; split <;> rfl
@[simp] theorem Regs.setS_xa (r : Regs) (n : Nat) (x : SVal) : (r.setS n x).xa = r.xa := by unfold Regs.setS; split <;> rfl
@[simp] theorem Regs.setS_b (r : Regs) (n : Nat) (x : SVal) : (r.setS n x).b = r.b := by unfold Regs.setS; split <;> rfl
@[simp] theorem Regs.setS_sig (r : Regs) (n : Nat) (x : SVal) : (r.setS n x).sig = r.sig := by unfold Regs.setS; split <;> rfl
@[simp] theorem Regs.setS_h (r : Regs) (n : Nat) (x : SVal) : (r.setS n x).h = r.h := by unfold Regs.setS; split <;> rfl
@[simp] theorem Regs.setS_lc (r : Regs) (n : Nat) (x : SVal) : (r.setS n x).lc = r.lc := by unfold Regs.setS; split <;> rfl
@[simp] theorem Regs.setS_cr (r : Regs) (n : Nat) (x : SVal) : (r.setS n x).cr = r.cr := by unfold Regs.setS; split <;> rfl
@[simp] theorem Regs.setM_s (r : Regs) (n : Nat) (x : Word) : (r.setM n x).s = r.s := by unfold Regs.setM; split <;> rfl
@[simp] theorem Regs.setM_f (r : Regs) (n : Nat) (x : Word) : (r.setM n x).f = r.f := by unfold Regs.setM; split <;> rfl
@[simp] theorem Regs.setM_v (r : Regs) (n : Nat) (x : Word) : (r.setM n x).v = r.v := by unfold Regs.setM; split <;> rfl
@[simp] theorem Regs.setM_p (r : Regs) (n : Nat) (x : Word) : (r.setM n x).p = r.p := by unfold Regs.setM; split <;> rfl
@[simp] theorem Regs.setM_acc (r : Regs) (n : Nat) (x : Word) : (r.setM n x).acc = r.acc := by unfold Regs.setM; split <;> rfl
@[simp] theorem Regs.setM_xa (r : Regs) (n : Nat) (x : Word) : (r.setM n x).xa = r.xa := by unfold Regs.setM; split <;> rfl
@[simp] theorem Regs.setM_b (r : Regs) (n : Nat) (x : Word) : (r.setM n x).b = r.b := by unfold Regs.setM; split <;> rfl
@[simp] theorem Regs.setM_sig (r : Regs) (n : Nat) (x : Word) : (r.setM n x).sig = r.sig := by unfold Regs.setM; split <;> rfl
@[simp] theorem Regs.setM_h (r : Regs) (n : Nat) (x : Word) : (r.setM n x).h = r.h := by unfold Regs.setM; split <;> rfl
@[simp] theorem Regs.setM_lc (r : Regs) (n : Nat) (x : Word) : (r.setM n x).lc = r.lc := by unfold Regs.setM; split <;> rfl
@[simp] theorem Regs.setM_cr (r : Regs) (n : Nat) (x : Word) : (r.setM n x).cr = r.cr := by unfold Regs.setM; split <;> rfl
@[simp] theorem Regs.setP_s (r : Regs) (n : Nat) (x : Bool) : (r.setP n x).s = r.s := by unfold Regs.setP; split <;> rfl
@[simp] theorem Regs.setP_f (r : Regs) (n : Nat) (x : Bool) : (r.setP n x).f = r.f := by unfold Regs.setP; split <;> rfl
@[simp] theorem Regs.setP_v (r : Regs) (n : Nat) (x : Bool) : (r.setP n x).v = r.v := by unfold Regs.setP; split <;> rfl
@[simp] theorem Regs.setP_m (r : Regs) (n : Nat) (x : Bool) : (r.setP n x).m = r.m := by unfold Regs.setP; split <;> rfl
@[simp] theorem Regs.setP_acc (r : Regs) (n : Nat) (x : Bool) : (r.setP n x).acc = r.acc := by unfold Regs.setP; split <;> rfl
@[simp] theorem Regs.setP_xa (r : Regs) (n : Nat) (x : Bool) : (r.setP n x).xa = r.xa := by unfold Regs.setP; split <;> rfl
@[simp] theorem Regs.setP_b (r : Regs) (n : Nat) (x : Bool) : (r.setP n x).b = r.b := by unfold Regs.setP; split <;> rfl
@[simp] theorem Regs.setP_sig (r : Regs) (n : Nat) (x : Bool) : (r.setP n x).sig = r.sig := by unfold Regs.setP; split <;> rfl
@[simp] theorem Regs.setP_h (r : Regs) (n : Nat) (x : Bool) : (r.setP n x).h = r.h := by unfold Regs.setP; split <;> rfl
@[simp] theorem Regs.setP_lc (r : Regs) (n : Nat) (x : Bool) : (r.setP n x).lc = r.lc := by unfold Regs.setP; split <;> rfl
@[simp] theorem Regs.setP_cr (r : Regs) (n : Nat) (x : Bool) : (r.setP n x).cr = r.cr := by unfold Regs.setP; split <;> rfl

end Sys2Proof.Machine
end

