-- ==== Sys2Proof/Laws/Regs.lean ====
section
/-!
SUPPORT. The register files: what a write gives and what it leaves (R172, R173).
-/
namespace Sys2Proof.Machine

@[simp] theorem Regs.getF_setF (r : Regs) (n : Nat) (x : W32) : (r.setF n x).getF n = x := by simp [Regs.getF, Regs.setF]
theorem Regs.getF_setF_ne (r : Regs) {n i : Nat} (x : W32) (h : i ≠ n) : (r.setF n x).getF i = r.getF i := by simp [Regs.getF, Regs.setF, Sparse.get_set_ne, h]
@[simp] theorem Regs.getV_setV (r : Regs) (n : Nat) (x : VVal) : (r.setV n x).getV n = x := by simp [Regs.getV, Regs.setV]
theorem Regs.getV_setV_ne (r : Regs) {n i : Nat} (x : VVal) (h : i ≠ n) : (r.setV n x).getV i = r.getV i := by simp [Regs.getV, Regs.setV, Sparse.get_set_ne, h]
@[simp] theorem Regs.getB_setB (r : Regs) (n : Nat) (x : Belief) : (r.setB n x).getB n = x := by simp [Regs.getB, Regs.setB]
theorem Regs.getB_setB_ne (r : Regs) {n i : Nat} (x : Belief) (h : i ≠ n) : (r.setB n x).getB i = r.getB i := by simp [Regs.getB, Regs.setB, Sparse.get_set_ne, h]
@[simp] theorem Regs.getSig_setSig (r : Regs) (n : Nat) (x : BitVec 512) : (r.setSig n x).getSig n = x := by simp [Regs.getSig, Regs.setSig]
theorem Regs.getSig_setSig_ne (r : Regs) {n i : Nat} (x : BitVec 512) (h : i ≠ n) : (r.setSig n x).getSig i = r.getSig i := by simp [Regs.getSig, Regs.setSig, Sparse.get_set_ne, h]
@[simp] theorem Regs.getH_setH (r : Regs) (n : Nat) (x : Option Nat) : (r.setH n x).getH n = x := by simp [Regs.getH, Regs.setH]
theorem Regs.getH_setH_ne (r : Regs) {n i : Nat} (x : Option Nat) (h : i ≠ n) : (r.setH n x).getH i = r.getH i := by simp [Regs.getH, Regs.setH, Sparse.get_set_ne, h]
@[simp] theorem Regs.getLC_setLC (r : Regs) (n : Nat) (x : Loop) : (r.setLC n x).getLC n = x := by simp [Regs.getLC, Regs.setLC]
theorem Regs.getLC_setLC_ne (r : Regs) {n i : Nat} (x : Loop) (h : i ≠ n) : (r.setLC n x).getLC i = r.getLC i := by simp [Regs.getLC, Regs.setLC, Sparse.get_set_ne, h]
@[simp] theorem Regs.getC_setC (r : Regs) (n : Nat) (x : Word) : (r.setC n x).getC n = x := by simp [Regs.getC, Regs.setC]
theorem Regs.getC_setC_ne (r : Regs) {n i : Nat} (x : Word) (h : i ≠ n) : (r.setC n x).getC i = r.getC i := by simp [Regs.getC, Regs.setC, Sparse.get_set_ne, h]
@[simp] theorem Regs.getS_zero (r : Regs) : r.getS 0 = SVal.zero := rfl
@[simp] theorem Regs.setS_zero (r : Regs) (x : SVal) : r.setS 0 x = r := rfl
theorem Regs.getS_setS (r : Regs) (n : Nat) (x : SVal) : (r.setS n x).getS n = if n = 0 then SVal.zero else x := by
  by_cases h : n = 0 <;> simp [Regs.getS, Regs.setS, h]
theorem Regs.getS_setS_ne (r : Regs) {n i : Nat} (x : SVal) (h : i ≠ n) : (r.setS n x).getS i = r.getS i := by
  by_cases h0 : n = 0 <;> simp [Regs.getS, Regs.setS, h0, Sparse.get_set_ne, h]
@[simp] theorem Regs.getM_zero (r : Regs) : r.getM 0 = BitVec.allOnes 64 := rfl
@[simp] theorem Regs.setM_zero (r : Regs) (x : Word) : r.setM 0 x = r := rfl
theorem Regs.getM_setM (r : Regs) (n : Nat) (x : Word) : (r.setM n x).getM n = if n = 0 then BitVec.allOnes 64 else x := by
  by_cases h : n = 0 <;> simp [Regs.getM, Regs.setM, h]
theorem Regs.getM_setM_ne (r : Regs) {n i : Nat} (x : Word) (h : i ≠ n) : (r.setM n x).getM i = r.getM i := by
  by_cases h0 : n = 0 <;> simp [Regs.getM, Regs.setM, h0, Sparse.get_set_ne, h]
@[simp] theorem Regs.getP_zero (r : Regs) : r.getP 0 = true := rfl
@[simp] theorem Regs.setP_zero (r : Regs) (x : Bool) : r.setP 0 x = r := rfl
theorem Regs.getP_setP (r : Regs) (n : Nat) (x : Bool) : (r.setP n x).getP n = if n = 0 then true else x := by
  by_cases h : n = 0 <;> simp [Regs.getP, Regs.setP, h]
theorem Regs.getP_setP_ne (r : Regs) {n i : Nat} (x : Bool) (h : i ≠ n) : (r.setP n x).getP i = r.getP i := by
  by_cases h0 : n = 0 <;> simp [Regs.getP, Regs.setP, h0, Sparse.get_set_ne, h]
@[simp] theorem Regs.getRow_setRow (r : Regs) (k i : Nat) (x : VBits) : (r.setRow k i x).getRow k i = x := by simp [Regs.getRow, Regs.setRow]
theorem Regs.getRow_setRow_ne (r : Regs) {k i c j : Nat} (x : VBits) (hi : i < 64) (hj : j < 64) (h : ¬(c = k ∧ j = i)) :
    (r.setRow k i x).getRow c j = r.getRow c j := by
  simp only [Regs.getRow, Regs.setRow]; exact Sparse.get_set_ne _ _ (by omega)
@[simp] theorem Regs.getXA_setXA (r : Regs) (k i : Nat) (x : XA) : (r.setXA k i x).getXA k i = x := by simp [Regs.getXA, Regs.setXA]
theorem Regs.getXA_setXA_ne (r : Regs) {k i c j : Nat} (x : XA) (hi : i < 64) (hj : j < 64) (h : ¬(c = k ∧ j = i)) :
    (r.setXA k i x).getXA c j = r.getXA c j := by
  simp only [Regs.getXA, Regs.setXA]; exact Sparse.get_set_ne _ _ (by omega)

@[simp] theorem Regs.getF_setS (r : Regs) (i : Nat) (n : Nat) (x : SVal) : (r.setS n x).getF i = r.getF i := by simp [Regs.getF]
@[simp] theorem Regs.getV_setS (r : Regs) (i : Nat) (n : Nat) (x : SVal) : (r.setS n x).getV i = r.getV i := by simp [Regs.getV]
@[simp] theorem Regs.getM_setS (r : Regs) (i : Nat) (n : Nat) (x : SVal) : (r.setS n x).getM i = r.getM i := by simp [Regs.getM]
@[simp] theorem Regs.getP_setS (r : Regs) (i : Nat) (n : Nat) (x : SVal) : (r.setS n x).getP i = r.getP i := by simp [Regs.getP]
@[simp] theorem Regs.getB_setS (r : Regs) (i : Nat) (n : Nat) (x : SVal) : (r.setS n x).getB i = r.getB i := by simp [Regs.getB]
@[simp] theorem Regs.getSig_setS (r : Regs) (i : Nat) (n : Nat) (x : SVal) : (r.setS n x).getSig i = r.getSig i := by simp [Regs.getSig]
@[simp] theorem Regs.getH_setS (r : Regs) (i : Nat) (n : Nat) (x : SVal) : (r.setS n x).getH i = r.getH i := by simp [Regs.getH]
@[simp] theorem Regs.getLC_setS (r : Regs) (i : Nat) (n : Nat) (x : SVal) : (r.setS n x).getLC i = r.getLC i := by simp [Regs.getLC]
@[simp] theorem Regs.getC_setS (r : Regs) (i : Nat) (n : Nat) (x : SVal) : (r.setS n x).getC i = r.getC i := by simp [Regs.getC]
@[simp] theorem Regs.getRow_setS (r : Regs) (c i : Nat) (n : Nat) (x : SVal) : (r.setS n x).getRow c i = r.getRow c i := by simp [Regs.getRow]
@[simp] theorem Regs.getXA_setS (r : Regs) (c i : Nat) (n : Nat) (x : SVal) : (r.setS n x).getXA c i = r.getXA c i := by simp [Regs.getXA]
@[simp] theorem Regs.getS_setF (r : Regs) (i : Nat) (n : Nat) (x : W32) : (r.setF n x).getS i = r.getS i := by simp [Regs.getS]
@[simp] theorem Regs.getV_setF (r : Regs) (i : Nat) (n : Nat) (x : W32) : (r.setF n x).getV i = r.getV i := by simp [Regs.getV]
@[simp] theorem Regs.getM_setF (r : Regs) (i : Nat) (n : Nat) (x : W32) : (r.setF n x).getM i = r.getM i := by simp [Regs.getM]
@[simp] theorem Regs.getP_setF (r : Regs) (i : Nat) (n : Nat) (x : W32) : (r.setF n x).getP i = r.getP i := by simp [Regs.getP]
@[simp] theorem Regs.getB_setF (r : Regs) (i : Nat) (n : Nat) (x : W32) : (r.setF n x).getB i = r.getB i := by simp [Regs.getB]
@[simp] theorem Regs.getSig_setF (r : Regs) (i : Nat) (n : Nat) (x : W32) : (r.setF n x).getSig i = r.getSig i := by simp [Regs.getSig]
@[simp] theorem Regs.getH_setF (r : Regs) (i : Nat) (n : Nat) (x : W32) : (r.setF n x).getH i = r.getH i := by simp [Regs.getH]
@[simp] theorem Regs.getLC_setF (r : Regs) (i : Nat) (n : Nat) (x : W32) : (r.setF n x).getLC i = r.getLC i := by simp [Regs.getLC]
@[simp] theorem Regs.getC_setF (r : Regs) (i : Nat) (n : Nat) (x : W32) : (r.setF n x).getC i = r.getC i := by simp [Regs.getC]
@[simp] theorem Regs.getRow_setF (r : Regs) (c i : Nat) (n : Nat) (x : W32) : (r.setF n x).getRow c i = r.getRow c i := by simp [Regs.getRow]
@[simp] theorem Regs.getXA_setF (r : Regs) (c i : Nat) (n : Nat) (x : W32) : (r.setF n x).getXA c i = r.getXA c i := by simp [Regs.getXA]
@[simp] theorem Regs.getS_setV (r : Regs) (i : Nat) (n : Nat) (x : VVal) : (r.setV n x).getS i = r.getS i := by simp [Regs.getS]
@[simp] theorem Regs.getF_setV (r : Regs) (i : Nat) (n : Nat) (x : VVal) : (r.setV n x).getF i = r.getF i := by simp [Regs.getF]
@[simp] theorem Regs.getM_setV (r : Regs) (i : Nat) (n : Nat) (x : VVal) : (r.setV n x).getM i = r.getM i := by simp [Regs.getM]
@[simp] theorem Regs.getP_setV (r : Regs) (i : Nat) (n : Nat) (x : VVal) : (r.setV n x).getP i = r.getP i := by simp [Regs.getP]
@[simp] theorem Regs.getB_setV (r : Regs) (i : Nat) (n : Nat) (x : VVal) : (r.setV n x).getB i = r.getB i := by simp [Regs.getB]
@[simp] theorem Regs.getSig_setV (r : Regs) (i : Nat) (n : Nat) (x : VVal) : (r.setV n x).getSig i = r.getSig i := by simp [Regs.getSig]
@[simp] theorem Regs.getH_setV (r : Regs) (i : Nat) (n : Nat) (x : VVal) : (r.setV n x).getH i = r.getH i := by simp [Regs.getH]
@[simp] theorem Regs.getLC_setV (r : Regs) (i : Nat) (n : Nat) (x : VVal) : (r.setV n x).getLC i = r.getLC i := by simp [Regs.getLC]
@[simp] theorem Regs.getC_setV (r : Regs) (i : Nat) (n : Nat) (x : VVal) : (r.setV n x).getC i = r.getC i := by simp [Regs.getC]
@[simp] theorem Regs.getRow_setV (r : Regs) (c i : Nat) (n : Nat) (x : VVal) : (r.setV n x).getRow c i = r.getRow c i := by simp [Regs.getRow]
@[simp] theorem Regs.getXA_setV (r : Regs) (c i : Nat) (n : Nat) (x : VVal) : (r.setV n x).getXA c i = r.getXA c i := by simp [Regs.getXA]
@[simp] theorem Regs.getS_setM (r : Regs) (i : Nat) (n : Nat) (x : Word) : (r.setM n x).getS i = r.getS i := by simp [Regs.getS]
@[simp] theorem Regs.getF_setM (r : Regs) (i : Nat) (n : Nat) (x : Word) : (r.setM n x).getF i = r.getF i := by simp [Regs.getF]
@[simp] theorem Regs.getV_setM (r : Regs) (i : Nat) (n : Nat) (x : Word) : (r.setM n x).getV i = r.getV i := by simp [Regs.getV]
@[simp] theorem Regs.getP_setM (r : Regs) (i : Nat) (n : Nat) (x : Word) : (r.setM n x).getP i = r.getP i := by simp [Regs.getP]
@[simp] theorem Regs.getB_setM (r : Regs) (i : Nat) (n : Nat) (x : Word) : (r.setM n x).getB i = r.getB i := by simp [Regs.getB]
@[simp] theorem Regs.getSig_setM (r : Regs) (i : Nat) (n : Nat) (x : Word) : (r.setM n x).getSig i = r.getSig i := by simp [Regs.getSig]
@[simp] theorem Regs.getH_setM (r : Regs) (i : Nat) (n : Nat) (x : Word) : (r.setM n x).getH i = r.getH i := by simp [Regs.getH]
@[simp] theorem Regs.getLC_setM (r : Regs) (i : Nat) (n : Nat) (x : Word) : (r.setM n x).getLC i = r.getLC i := by simp [Regs.getLC]
@[simp] theorem Regs.getC_setM (r : Regs) (i : Nat) (n : Nat) (x : Word) : (r.setM n x).getC i = r.getC i := by simp [Regs.getC]
@[simp] theorem Regs.getRow_setM (r : Regs) (c i : Nat) (n : Nat) (x : Word) : (r.setM n x).getRow c i = r.getRow c i := by simp [Regs.getRow]
@[simp] theorem Regs.getXA_setM (r : Regs) (c i : Nat) (n : Nat) (x : Word) : (r.setM n x).getXA c i = r.getXA c i := by simp [Regs.getXA]
@[simp] theorem Regs.getS_setP (r : Regs) (i : Nat) (n : Nat) (x : Bool) : (r.setP n x).getS i = r.getS i := by simp [Regs.getS]
@[simp] theorem Regs.getF_setP (r : Regs) (i : Nat) (n : Nat) (x : Bool) : (r.setP n x).getF i = r.getF i := by simp [Regs.getF]
@[simp] theorem Regs.getV_setP (r : Regs) (i : Nat) (n : Nat) (x : Bool) : (r.setP n x).getV i = r.getV i := by simp [Regs.getV]
@[simp] theorem Regs.getM_setP (r : Regs) (i : Nat) (n : Nat) (x : Bool) : (r.setP n x).getM i = r.getM i := by simp [Regs.getM]
@[simp] theorem Regs.getB_setP (r : Regs) (i : Nat) (n : Nat) (x : Bool) : (r.setP n x).getB i = r.getB i := by simp [Regs.getB]
@[simp] theorem Regs.getSig_setP (r : Regs) (i : Nat) (n : Nat) (x : Bool) : (r.setP n x).getSig i = r.getSig i := by simp [Regs.getSig]
@[simp] theorem Regs.getH_setP (r : Regs) (i : Nat) (n : Nat) (x : Bool) : (r.setP n x).getH i = r.getH i := by simp [Regs.getH]
@[simp] theorem Regs.getLC_setP (r : Regs) (i : Nat) (n : Nat) (x : Bool) : (r.setP n x).getLC i = r.getLC i := by simp [Regs.getLC]
@[simp] theorem Regs.getC_setP (r : Regs) (i : Nat) (n : Nat) (x : Bool) : (r.setP n x).getC i = r.getC i := by simp [Regs.getC]
@[simp] theorem Regs.getRow_setP (r : Regs) (c i : Nat) (n : Nat) (x : Bool) : (r.setP n x).getRow c i = r.getRow c i := by simp [Regs.getRow]
@[simp] theorem Regs.getXA_setP (r : Regs) (c i : Nat) (n : Nat) (x : Bool) : (r.setP n x).getXA c i = r.getXA c i := by simp [Regs.getXA]
@[simp] theorem Regs.getS_setRow (r : Regs) (i : Nat) (k j : Nat) (x : VBits) : (r.setRow k j x).getS i = r.getS i := by simp [Regs.getS]
@[simp] theorem Regs.getF_setRow (r : Regs) (i : Nat) (k j : Nat) (x : VBits) : (r.setRow k j x).getF i = r.getF i := by simp [Regs.getF]
@[simp] theorem Regs.getV_setRow (r : Regs) (i : Nat) (k j : Nat) (x : VBits) : (r.setRow k j x).getV i = r.getV i := by simp [Regs.getV]
@[simp] theorem Regs.getM_setRow (r : Regs) (i : Nat) (k j : Nat) (x : VBits) : (r.setRow k j x).getM i = r.getM i := by simp [Regs.getM]
@[simp] theorem Regs.getP_setRow (r : Regs) (i : Nat) (k j : Nat) (x : VBits) : (r.setRow k j x).getP i = r.getP i := by simp [Regs.getP]
@[simp] theorem Regs.getB_setRow (r : Regs) (i : Nat) (k j : Nat) (x : VBits) : (r.setRow k j x).getB i = r.getB i := by simp [Regs.getB]
@[simp] theorem Regs.getSig_setRow (r : Regs) (i : Nat) (k j : Nat) (x : VBits) : (r.setRow k j x).getSig i = r.getSig i := by simp [Regs.getSig]
@[simp] theorem Regs.getH_setRow (r : Regs) (i : Nat) (k j : Nat) (x : VBits) : (r.setRow k j x).getH i = r.getH i := by simp [Regs.getH]
@[simp] theorem Regs.getLC_setRow (r : Regs) (i : Nat) (k j : Nat) (x : VBits) : (r.setRow k j x).getLC i = r.getLC i := by simp [Regs.getLC]
@[simp] theorem Regs.getC_setRow (r : Regs) (i : Nat) (k j : Nat) (x : VBits) : (r.setRow k j x).getC i = r.getC i := by simp [Regs.getC]
@[simp] theorem Regs.getXA_setRow (r : Regs) (c i : Nat) (k j : Nat) (x : VBits) : (r.setRow k j x).getXA c i = r.getXA c i := by simp [Regs.getXA]
@[simp] theorem Regs.getS_setXA (r : Regs) (i : Nat) (k j : Nat) (x : XA) : (r.setXA k j x).getS i = r.getS i := by simp [Regs.getS]
@[simp] theorem Regs.getF_setXA (r : Regs) (i : Nat) (k j : Nat) (x : XA) : (r.setXA k j x).getF i = r.getF i := by simp [Regs.getF]
@[simp] theorem Regs.getV_setXA (r : Regs) (i : Nat) (k j : Nat) (x : XA) : (r.setXA k j x).getV i = r.getV i := by simp [Regs.getV]
@[simp] theorem Regs.getM_setXA (r : Regs) (i : Nat) (k j : Nat) (x : XA) : (r.setXA k j x).getM i = r.getM i := by simp [Regs.getM]
@[simp] theorem Regs.getP_setXA (r : Regs) (i : Nat) (k j : Nat) (x : XA) : (r.setXA k j x).getP i = r.getP i := by simp [Regs.getP]
@[simp] theorem Regs.getB_setXA (r : Regs) (i : Nat) (k j : Nat) (x : XA) : (r.setXA k j x).getB i = r.getB i := by simp [Regs.getB]
@[simp] theorem Regs.getSig_setXA (r : Regs) (i : Nat) (k j : Nat) (x : XA) : (r.setXA k j x).getSig i = r.getSig i := by simp [Regs.getSig]
@[simp] theorem Regs.getH_setXA (r : Regs) (i : Nat) (k j : Nat) (x : XA) : (r.setXA k j x).getH i = r.getH i := by simp [Regs.getH]
@[simp] theorem Regs.getLC_setXA (r : Regs) (i : Nat) (k j : Nat) (x : XA) : (r.setXA k j x).getLC i = r.getLC i := by simp [Regs.getLC]
@[simp] theorem Regs.getC_setXA (r : Regs) (i : Nat) (k j : Nat) (x : XA) : (r.setXA k j x).getC i = r.getC i := by simp [Regs.getC]
@[simp] theorem Regs.getRow_setXA (r : Regs) (c i : Nat) (k j : Nat) (x : XA) : (r.setXA k j x).getRow c i = r.getRow c i := by simp [Regs.getRow]
@[simp] theorem Regs.getS_setB (r : Regs) (i : Nat) (n : Nat) (x : Belief) : (r.setB n x).getS i = r.getS i := by simp [Regs.getS]
@[simp] theorem Regs.getF_setB (r : Regs) (i : Nat) (n : Nat) (x : Belief) : (r.setB n x).getF i = r.getF i := by simp [Regs.getF]
@[simp] theorem Regs.getV_setB (r : Regs) (i : Nat) (n : Nat) (x : Belief) : (r.setB n x).getV i = r.getV i := by simp [Regs.getV]
@[simp] theorem Regs.getM_setB (r : Regs) (i : Nat) (n : Nat) (x : Belief) : (r.setB n x).getM i = r.getM i := by simp [Regs.getM]
@[simp] theorem Regs.getP_setB (r : Regs) (i : Nat) (n : Nat) (x : Belief) : (r.setB n x).getP i = r.getP i := by simp [Regs.getP]
@[simp] theorem Regs.getSig_setB (r : Regs) (i : Nat) (n : Nat) (x : Belief) : (r.setB n x).getSig i = r.getSig i := by simp [Regs.getSig]
@[simp] theorem Regs.getH_setB (r : Regs) (i : Nat) (n : Nat) (x : Belief) : (r.setB n x).getH i = r.getH i := by simp [Regs.getH]
@[simp] theorem Regs.getLC_setB (r : Regs) (i : Nat) (n : Nat) (x : Belief) : (r.setB n x).getLC i = r.getLC i := by simp [Regs.getLC]
@[simp] theorem Regs.getC_setB (r : Regs) (i : Nat) (n : Nat) (x : Belief) : (r.setB n x).getC i = r.getC i := by simp [Regs.getC]
@[simp] theorem Regs.getRow_setB (r : Regs) (c i : Nat) (n : Nat) (x : Belief) : (r.setB n x).getRow c i = r.getRow c i := by simp [Regs.getRow]
@[simp] theorem Regs.getXA_setB (r : Regs) (c i : Nat) (n : Nat) (x : Belief) : (r.setB n x).getXA c i = r.getXA c i := by simp [Regs.getXA]
@[simp] theorem Regs.getS_setSig (r : Regs) (i : Nat) (n : Nat) (x : BitVec 512) : (r.setSig n x).getS i = r.getS i := by simp [Regs.getS]
@[simp] theorem Regs.getF_setSig (r : Regs) (i : Nat) (n : Nat) (x : BitVec 512) : (r.setSig n x).getF i = r.getF i := by simp [Regs.getF]
@[simp] theorem Regs.getV_setSig (r : Regs) (i : Nat) (n : Nat) (x : BitVec 512) : (r.setSig n x).getV i = r.getV i := by simp [Regs.getV]
@[simp] theorem Regs.getM_setSig (r : Regs) (i : Nat) (n : Nat) (x : BitVec 512) : (r.setSig n x).getM i = r.getM i := by simp [Regs.getM]
@[simp] theorem Regs.getP_setSig (r : Regs) (i : Nat) (n : Nat) (x : BitVec 512) : (r.setSig n x).getP i = r.getP i := by simp [Regs.getP]
@[simp] theorem Regs.getB_setSig (r : Regs) (i : Nat) (n : Nat) (x : BitVec 512) : (r.setSig n x).getB i = r.getB i := by simp [Regs.getB]
@[simp] theorem Regs.getH_setSig (r : Regs) (i : Nat) (n : Nat) (x : BitVec 512) : (r.setSig n x).getH i = r.getH i := by simp [Regs.getH]
@[simp] theorem Regs.getLC_setSig (r : Regs) (i : Nat) (n : Nat) (x : BitVec 512) : (r.setSig n x).getLC i = r.getLC i := by simp [Regs.getLC]
@[simp] theorem Regs.getC_setSig (r : Regs) (i : Nat) (n : Nat) (x : BitVec 512) : (r.setSig n x).getC i = r.getC i := by simp [Regs.getC]
@[simp] theorem Regs.getRow_setSig (r : Regs) (c i : Nat) (n : Nat) (x : BitVec 512) : (r.setSig n x).getRow c i = r.getRow c i := by simp [Regs.getRow]
@[simp] theorem Regs.getXA_setSig (r : Regs) (c i : Nat) (n : Nat) (x : BitVec 512) : (r.setSig n x).getXA c i = r.getXA c i := by simp [Regs.getXA]
@[simp] theorem Regs.getS_setH (r : Regs) (i : Nat) (n : Nat) (x : Option Nat) : (r.setH n x).getS i = r.getS i := by simp [Regs.getS]
@[simp] theorem Regs.getF_setH (r : Regs) (i : Nat) (n : Nat) (x : Option Nat) : (r.setH n x).getF i = r.getF i := by simp [Regs.getF]
@[simp] theorem Regs.getV_setH (r : Regs) (i : Nat) (n : Nat) (x : Option Nat) : (r.setH n x).getV i = r.getV i := by simp [Regs.getV]
@[simp] theorem Regs.getM_setH (r : Regs) (i : Nat) (n : Nat) (x : Option Nat) : (r.setH n x).getM i = r.getM i := by simp [Regs.getM]
@[simp] theorem Regs.getP_setH (r : Regs) (i : Nat) (n : Nat) (x : Option Nat) : (r.setH n x).getP i = r.getP i := by simp [Regs.getP]
@[simp] theorem Regs.getB_setH (r : Regs) (i : Nat) (n : Nat) (x : Option Nat) : (r.setH n x).getB i = r.getB i := by simp [Regs.getB]
@[simp] theorem Regs.getSig_setH (r : Regs) (i : Nat) (n : Nat) (x : Option Nat) : (r.setH n x).getSig i = r.getSig i := by simp [Regs.getSig]
@[simp] theorem Regs.getLC_setH (r : Regs) (i : Nat) (n : Nat) (x : Option Nat) : (r.setH n x).getLC i = r.getLC i := by simp [Regs.getLC]
@[simp] theorem Regs.getC_setH (r : Regs) (i : Nat) (n : Nat) (x : Option Nat) : (r.setH n x).getC i = r.getC i := by simp [Regs.getC]
@[simp] theorem Regs.getRow_setH (r : Regs) (c i : Nat) (n : Nat) (x : Option Nat) : (r.setH n x).getRow c i = r.getRow c i := by simp [Regs.getRow]
@[simp] theorem Regs.getXA_setH (r : Regs) (c i : Nat) (n : Nat) (x : Option Nat) : (r.setH n x).getXA c i = r.getXA c i := by simp [Regs.getXA]
@[simp] theorem Regs.getS_setLC (r : Regs) (i : Nat) (n : Nat) (x : Loop) : (r.setLC n x).getS i = r.getS i := by simp [Regs.getS]
@[simp] theorem Regs.getF_setLC (r : Regs) (i : Nat) (n : Nat) (x : Loop) : (r.setLC n x).getF i = r.getF i := by simp [Regs.getF]
@[simp] theorem Regs.getV_setLC (r : Regs) (i : Nat) (n : Nat) (x : Loop) : (r.setLC n x).getV i = r.getV i := by simp [Regs.getV]
@[simp] theorem Regs.getM_setLC (r : Regs) (i : Nat) (n : Nat) (x : Loop) : (r.setLC n x).getM i = r.getM i := by simp [Regs.getM]
@[simp] theorem Regs.getP_setLC (r : Regs) (i : Nat) (n : Nat) (x : Loop) : (r.setLC n x).getP i = r.getP i := by simp [Regs.getP]
@[simp] theorem Regs.getB_setLC (r : Regs) (i : Nat) (n : Nat) (x : Loop) : (r.setLC n x).getB i = r.getB i := by simp [Regs.getB]
@[simp] theorem Regs.getSig_setLC (r : Regs) (i : Nat) (n : Nat) (x : Loop) : (r.setLC n x).getSig i = r.getSig i := by simp [Regs.getSig]
@[simp] theorem Regs.getH_setLC (r : Regs) (i : Nat) (n : Nat) (x : Loop) : (r.setLC n x).getH i = r.getH i := by simp [Regs.getH]
@[simp] theorem Regs.getC_setLC (r : Regs) (i : Nat) (n : Nat) (x : Loop) : (r.setLC n x).getC i = r.getC i := by simp [Regs.getC]
@[simp] theorem Regs.getRow_setLC (r : Regs) (c i : Nat) (n : Nat) (x : Loop) : (r.setLC n x).getRow c i = r.getRow c i := by simp [Regs.getRow]
@[simp] theorem Regs.getXA_setLC (r : Regs) (c i : Nat) (n : Nat) (x : Loop) : (r.setLC n x).getXA c i = r.getXA c i := by simp [Regs.getXA]
@[simp] theorem Regs.getS_setC (r : Regs) (i : Nat) (n : Nat) (x : Word) : (r.setC n x).getS i = r.getS i := by simp [Regs.getS]
@[simp] theorem Regs.getF_setC (r : Regs) (i : Nat) (n : Nat) (x : Word) : (r.setC n x).getF i = r.getF i := by simp [Regs.getF]
@[simp] theorem Regs.getV_setC (r : Regs) (i : Nat) (n : Nat) (x : Word) : (r.setC n x).getV i = r.getV i := by simp [Regs.getV]
@[simp] theorem Regs.getM_setC (r : Regs) (i : Nat) (n : Nat) (x : Word) : (r.setC n x).getM i = r.getM i := by simp [Regs.getM]
@[simp] theorem Regs.getP_setC (r : Regs) (i : Nat) (n : Nat) (x : Word) : (r.setC n x).getP i = r.getP i := by simp [Regs.getP]
@[simp] theorem Regs.getB_setC (r : Regs) (i : Nat) (n : Nat) (x : Word) : (r.setC n x).getB i = r.getB i := by simp [Regs.getB]
@[simp] theorem Regs.getSig_setC (r : Regs) (i : Nat) (n : Nat) (x : Word) : (r.setC n x).getSig i = r.getSig i := by simp [Regs.getSig]
@[simp] theorem Regs.getH_setC (r : Regs) (i : Nat) (n : Nat) (x : Word) : (r.setC n x).getH i = r.getH i := by simp [Regs.getH]
@[simp] theorem Regs.getLC_setC (r : Regs) (i : Nat) (n : Nat) (x : Word) : (r.setC n x).getLC i = r.getLC i := by simp [Regs.getLC]
@[simp] theorem Regs.getRow_setC (r : Regs) (c i : Nat) (n : Nat) (x : Word) : (r.setC n x).getRow c i = r.getRow c i := by simp [Regs.getRow]
@[simp] theorem Regs.getXA_setC (r : Regs) (c i : Nat) (n : Nat) (x : Word) : (r.setC n x).getXA c i = r.getXA c i := by simp [Regs.getXA]

end Sys2Proof.Machine
end

