-- ==== Sys2Proof/Laws/Ops.lean ====
section
/-!
SUPPORT. What the shared operations of a slot can do: the checks before its effect, and the writing of a register.
-/
namespace Sys2Proof.Machine

open Sys2Proof.Safety

/-! ### Checks -/

theorem State.ueReg_of_unpoisoned {s : State} (h : Unpoisoned s) (rs : List Reg) : s.ueReg rs = none := by
  have : ∀ r, s.marksFor r = [] := by
    intro r
    cases r <;> simp [State.marksFor, h.1, h.2]
  simp [State.ueReg, this]

theorem State.ueMem_of_unpoisoned {s : State} (h : Unpoisoned s) (a : Word) (n : Nat) : s.ueMem a n = none := by
  simp [State.ueMem, h.2]

theorem State.ueOf_of_unpoisoned {s : State} (h : Unpoisoned s) (c : Checks) : s.ueOf c = none := by
  simp only [State.ueOf, State.ueReg_of_unpoisoned h, State.ueMem_of_unpoisoned h]
  induction c.reads with
  | nil => rfl
  | cons x l ih => simpa using ih

@[simp] theorem State.recordOor_none (s : State) : s.recordOor none = s := rfl

/-- A slot whose checks all pass takes its effect. -/
theorem State.checked_pass {s : State} (h : Unpoisoned s) {c : Checks} (eff : State → State) (h1 : c.first = none)
    (h2 : s.oorOf c.mem = none) (h3 : c.later = none) : s.checked c eff = .next (eff s) := by
  unfold State.checked
  simp [State.ueOf_of_unpoisoned h, h1, h2, h3]

/-- A slot that touches no memory and checks nothing but poison. -/
theorem State.checked_plain {s : State} (h : Unpoisoned s) {c : Checks} (eff : State → State) (h1 : c.first = none) (h2 : c.mem = [])
    (h3 : c.later = none) : s.checked c eff = .next (eff s) :=
  State.checked_pass h eff h1 (by rw [h2]; rfl) h3

/-- Whatever its checks find, a slot gives a next state. -/
theorem State.checked_next (s : State) (c : Checks) (eff : State → State) : ∃ t, s.checked c eff = .next t := by
  simp only [State.checked]
  repeat' split
  all_goals exact ⟨_, rfl⟩

@[simp] theorem State.confirmed_of_none {s : State} (h : s.tile.spec = none) (k : Out) : s.confirmed k = k := by
  simp [State.confirmed, h]

@[simp] theorem State.stallIf_false (s : State) (w : Stall) (k : Out) : s.stallIf false w k = k := rfl
@[simp] theorem State.stallIf_true (s : State) (w : Stall) (k : Out) : s.stallIf true w k = .next (s.stallOn w) := rfl

/-! ### Results -/

theorem clean_nil {s : State} (h : s.tile.poison = []) (r : Reg) : s.clean r = s := by
  obtain ⟨t, o⟩ := s
  simp only [State.clean, State.onTile] at h ⊢
  simp [h]
  rw [← h]

theorem RegsExcept.refl (rs : List Reg) (r : Regs) : RegsExcept rs r r := by simp [RegsExcept]

theorem keeps_land (s : State) (r : Reg) (lat : Nat) (g : BitVec 6) : KeepsLandings s (s.land r lat g) := by
  intro l hl hr
  simp only [State.land, State.onThr_tile_thr, List.mem_cons, List.mem_filter]
  exact .inr ⟨hl, by rcases hr with h | h <;> simp_all [Landing.live]⟩

/-- The frame of a write to one register: new register files, and a result on its way. -/
theorem onlyRegs_write {s : State} (hp : s.tile.poison = []) {rs : List Reg} (f : Regs → Regs) (c r : Reg) (lat : Nat) (g : BitVec 6)
    (h : RegsExcept rs s.tile.thr.regs (f s.tile.thr.regs)) : OnlyRegs rs s (((s.onRegs f).clean c).land r lat g) := by
  rw [clean_nil (s := s.onRegs f) (by simpa using hp)]
  exact ⟨h, fun _ => rfl, keeps_land (s.onRegs f) r lat g, rfl⟩

theorem lands_land (s s0 : State) (h : s.cycle = s0.cycle) (r : Reg) (lat : Nat) (g : BitVec 6) : Lands s0 (s.land r lat g) r lat g :=
  ⟨⟨r, s.cycle + lat, g⟩, by simp [State.land], rfl, by simp [h], rfl⟩

theorem State.wrS_spec {s : State} (hp : s.tile.poison = []) {d : BitVec 5} (hc : s.clash (.s d.toNat) = false) (v : SVal) (lat : Nat)
    (g : BitVec 6) : ToS s (s.wrS d v lat g) d v.val lat g ∧ (d ≠ 0 → (s.wrS d v lat g).tile.thr.regs.getS d.toNat = v) := by
  by_cases h0 : d = 0
  · subst h0
    refine ⟨⟨rfl, lands_land s s rfl .none lat g, RegsExcept.refl _ _, fun _ => rfl, keeps_land s _ _ _, rfl⟩, fun h => absurd rfl h⟩
  · have hn : d.toNat ≠ 0 := fun h => h0 (BitVec.eq_of_toNat_eq (by simpa using h))
    simp only [State.wrS, h0, if_false, hc]
    refine ⟨⟨?_, ?_, ?_⟩, fun _ => ?_⟩
    · rw [if_neg h0]; simp [Regs.getS_setS, hn]
    · rw [if_neg h0]; exact lands_land _ s rfl (.s d.toNat) lat g
    · refine onlyRegs_write hp _ _ _ _ _ ?_
      simp +contextual [RegsExcept, Regs.getS_setS_ne]
    · simp [Regs.getS_setS, hn]

theorem State.wrF_spec {s : State} (hp : s.tile.poison = []) {d : BitVec 4} (hc : s.clash (.f d.toNat) = false) (v : W32) (lat : Nat)
    (g : BitVec 6) : ToF s (s.wrF d v lat g) d v lat g := by
  simp only [State.wrF, hc]
  refine ⟨by simp, lands_land _ s rfl _ lat g, onlyRegs_write hp _ _ _ _ _ ?_⟩
  simp +contextual [RegsExcept, Regs.getF_setF_ne]

theorem State.wrP_spec {s : State} (hp : s.tile.poison = []) {k : BitVec 3} (hc : s.clash (.p k.toNat) = false) (v : Bool) (lat : Nat) :
    ToP s (s.wrP k v lat) k v lat := by
  by_cases h0 : k = 0
  · subst h0
    exact ⟨rfl, fun h => absurd rfl h, RegsExcept.refl _ _, fun _ => rfl, fun _ hl _ => hl, rfl⟩
  · have hn : k.toNat ≠ 0 := fun h => h0 (BitVec.eq_of_toNat_eq (by simpa using h))
    simp only [State.wrP, h0, if_false, hc]
    refine ⟨?_, fun _ => lands_land _ s rfl _ lat 0, onlyRegs_write hp _ _ _ _ _ ?_⟩
    · rw [if_neg h0]; simp [Regs.getP_setP, hn]
    · simp +contextual [RegsExcept, Regs.getP_setP_ne]

theorem State.wrM_spec {s : State} (hp : s.tile.poison = []) {k : BitVec 3} (hc : s.clash (.m k.toNat) = false) (v : Word) (lat : Nat) :
    ToM s (s.wrM k v lat) k v lat := by
  by_cases h0 : k = 0
  · subst h0
    exact ⟨rfl, fun h => absurd rfl h, RegsExcept.refl _ _, fun _ => rfl, fun _ hl _ => hl, rfl⟩
  · have hn : k.toNat ≠ 0 := fun h => h0 (BitVec.eq_of_toNat_eq (by simpa using h))
    simp only [State.wrM, h0, if_false, hc]
    refine ⟨?_, fun _ => lands_land _ s rfl _ lat 0, onlyRegs_write hp _ _ _ _ _ ?_⟩
    · rw [if_neg h0]; simp [Regs.getM_setM, hn]
    · simp +contextual [RegsExcept, Regs.getM_setM_ne]

end Sys2Proof.Machine
end

