-- ==== Sys2Proof/Laws/Lanes.lean ====
section
/-!
SUPPORT. Packed fields: each field of a packed register is the one that was packed (R172).
-/
namespace Sys2Proof.Machine

open Sys2Proof.Safety

theorem packFields_lt (w : Nat) (f : Nat → Nat) (n : Nat) : packFields w f n < 2 ^ (w * n) := by
  induction n with
  | zero => simp [packFields]
  | succ n ih =>
    have h1 : f n % 2 ^ w < 2 ^ w := Nat.mod_lt _ (by positivity)
    have h2 : (f n % 2 ^ w + 1) * 2 ^ (w * n) ≤ 2 ^ w * 2 ^ (w * n) := Nat.mul_le_mul_right _ h1
    rw [packFields, Nat.mul_succ, Nat.pow_add, Nat.mul_comm (2 ^ (w * n))]
    rw [Nat.add_mul, Nat.one_mul] at h2
    omega

theorem packFields_div (w : Nat) (f : Nat → Nat) (n i : Nat) (hi : i < n) : packFields w f n / 2 ^ (w * i) % 2 ^ w = f i % 2 ^ w := by
  induction n with
  | zero => omega
  | succ n ih =>
    rw [packFields]
    by_cases h : i = n
    · subst h
      rw [Nat.add_mul_div_right _ _ (by positivity), Nat.div_eq_of_lt (packFields_lt w f i), Nat.zero_add, Nat.mod_mod]
    · obtain ⟨k, rfl⟩ : ∃ k, n = i + 1 + k := ⟨n - i - 1, by omega⟩
      have e : f (i + 1 + k) % 2 ^ w * 2 ^ (w * (i + 1 + k)) = (f (i + 1 + k) % 2 ^ w * 2 ^ (w * k) * 2 ^ w) * 2 ^ (w * i) := by
        rw [show w * (i + 1 + k) = w * k + w + w * i by ring, Nat.pow_add, Nat.pow_add]; ring
      rw [e, Nat.add_mul_div_right _ _ (by positivity), Nat.add_mul_mod_self_right]
      exact ih (by omega)

/-- Lane `i` of a vector made from lanes is that lane (R172). -/
theorem lane_ofLanes (f : Nat → W32) {i : Nat} (hi : i < 64) : lane (ofLanes f) i = f i := by
  apply BitVec.eq_of_toNat_eq
  have hl := packFields_lt 32 (fun i => (f i).toNat) 64
  rw [lane, BitVec.extractLsb'_toNat, ofLanes, BitVec.toNat_ofNat, Nat.mod_eq_of_lt hl, Nat.shiftRight_eq_div_pow,
    packFields_div _ _ _ _ hi, Nat.mod_eq_of_lt (f i).isLt]

theorem laneRes_ofLanes (f : Nat → W32) (r : Nat → BitVec 4) {i : Nat} (hi : i < 64) : (VVal.ofLanes f r).laneRes i = r i := by
  apply BitVec.eq_of_toNat_eq
  have hl := packFields_lt 4 (fun i => (r i).toNat) 64
  rw [VVal.laneRes, BitVec.extractLsb'_toNat, VVal.ofLanes, BitVec.toNat_ofNat, Nat.mod_eq_of_lt hl, Nat.shiftRight_eq_div_pow,
    packFields_div _ _ _ _ hi, Nat.mod_eq_of_lt (r i).isLt]

@[simp] theorem VVal.ofLanes_bits (f : Nat → W32) (r : Nat → BitVec 4) : (VVal.ofLanes f r).bits = Machine.ofLanes f := rfl
@[simp] theorem VVal.ofBits_bits (b : VBits) : (VVal.ofBits b).bits = b := rfl

/-- Bit `i` of a mask made from a predicate. -/
theorem getLsbD_maskOf (f : Nat → Bool) {i : Nat} (hi : i < 64) : (maskOf f).getLsbD i = f i := by
  have hl := packFields_lt 1 (fun i => if f i then 1 else 0) 64
  have hd := packFields_div 1 (fun i => if f i then 1 else 0) 64 i hi
  rw [maskOf, BitVec.getLsbD_ofNat, Nat.testBit_eq_decide_div_mod_eq]
  simp only [Nat.one_mul, Nat.pow_one] at hd
  simp only [hd]
  cases f i <;> simp [hi]

theorem State.wrV_spec {s : State} (hp : s.tile.poison = []) {d : BitVec 5} (hc : s.clash (.v d.toNat) = false) (x : VVal) (lat : Nat)
    (g : BitVec 6) : ToV s (s.wrV d x lat g) d (lane x.bits) lat g ∧ (s.wrV d x lat g).tile.thr.regs.getV d.toNat = x := by
  simp only [State.wrV, hc]
  refine ⟨⟨by simp, lands_land _ s rfl _ lat g, onlyRegs_write hp _ _ _ _ _ ?_⟩, by simp⟩
  simp +contextual [RegsExcept, Regs.getV_setV_ne]

end Sys2Proof.Machine
end

