-- ==== Sys2Proof/Laws/Memory.lean ====
section
/-!
SUPPORT. Every operation on a memory keeps its canonical form, and the memories of the machine after reset have it.
-/
namespace Sys2Proof.Machine

/-! ### Memories -/

namespace Sparse
variable {α : Type} [DecidableEq α] {d : α}

theorem above_filter {lo : Option Nat} {m : List (Nat × α)} (p : Nat × α → Bool) (h : above d lo m = true) : above d lo (m.filter p) = true := by
  induction m generalizing lo with
  | nil => rfl
  | cons x m ih =>
    have h' := h
    simp only [above, Bool.and_eq_true, decide_eq_true_eq] at h'
    rw [List.filter_cons]
    split
    · simp only [above, Bool.and_eq_true, decide_eq_true_eq]
      exact ⟨h'.1, ih h'.2⟩
    · refine above_weaken (ih h'.2) fun l hl => ?_
      subst hl
      exact Nat.le_of_lt (by simpa using h'.1.1)

theorem wf_filter {m : List (Nat × α)} (p : Nat × α → Bool) (h : wf d m = true) : wf d (m.filter p) = true := above_filter p h

/-- A chain of writes keeps the canonical form. -/
theorem wf_foldl {β : Type} (l : List β) (f : List (Nat × α) → β → List (Nat × α)) (hf : ∀ m x, wf d m = true → wf d (f m x) = true)
    {m : List (Nat × α)} (h : wf d m = true) : wf d (l.foldl f m) = true := by
  induction l generalizing m with
  | nil => exact h
  | cons x l ih => exact ih (hf m x h)

end Sparse

theorem putBytes_wf (l : List Byte) {m : Memory} (a : Nat) (h : m.wf = true) : (putBytes m a l).wf = true := by
  induction l generalizing m a with
  | nil => exact h
  | cons b l ih => exact ih (a + 1) (Sparse.wf_set a b h)

/-- What `putBytes` writes, and what it leaves. -/
theorem get_putBytes (l : List Byte) (m : Memory) (a x : Nat) :
    Sparse.get 0 (putBytes m a l) x = if a ≤ x ∧ x < a + l.length then l.getD (x - a) 0 else Sparse.get 0 m x := by
  induction l generalizing m a with
  | nil => simp [putBytes, Nat.not_lt.mpr]
  | cons b l ih =>
    rw [putBytes, ih]
    by_cases h : x = a
    · subst h; simp
    · rw [Sparse.get_set_ne m b h]
      by_cases h' : a ≤ x ∧ x < a + (l.length + 1)
      · have : x - a = (x - (a + 1)) + 1 := by omega
        simp [h', this, show a + 1 ≤ x ∧ x < a + 1 + l.length by omega]
      · rw [if_neg (by omega), if_neg (by simpa using h')]

theorem putImem_wf (l : List Byte) {m : Memory} (a : Nat) (h : m.wf = true) : (putImem m a l).wf = true := by
  induction l generalizing m a with
  | nil => exact h
  | cons b l ih => exact ih (a + 1) (Sparse.wf_set _ b h)

theorem exchangeCells_wf (m : Memory) (stack ca cb : Nat) : (exchangeCells m stack ca cb).wf = true :=
  Sparse.wf_foldl m _ (fun _ _ h => Sparse.wf_set _ _ h) Sparse.wf_nil

theorem Tile.seen_wf (t : Tile) (h : t.mem.wf = true) : t.seen.wf = true := by
  unfold Tile.seen
  split
  · exact h
  · exact Sparse.wf_foldl _ _ (fun _ _ h => putBytes_wf _ _ h) h

/-! ### The memories of the machine -/

/-- The stores of a tile and of the context in its shadow store are in canonical form. -/
def Tile.MemoriesWf (t : Tile) : Prop :=
  t.mem.wf = true ∧ t.imem.wf = true ∧ t.anvil.wf = true ∧ ∀ c, t.shadow = some c → c.mem.wf = true ∧ c.imem.wf = true

/-- All memories of the machine are in canonical form. -/
def State.MemoriesWf (s : State) : Prop :=
  s.dram.wf = true ∧ s.hostMem.wf = true ∧ s.tile.MemoriesWf ∧ ∀ t ∈ s.others, t.MemoriesWf

theorem Tile.reset_wf (ep : Nat) : (Tile.reset ep).MemoriesWf := ⟨rfl, rfl, rfl, fun _ h => nomatch h⟩

/-- The memories after reset have the form. -/
theorem State.reset_wf : State.reset.MemoriesWf := ⟨rfl, rfl, Tile.reset_wf 0, fun _ h => nomatch h⟩

theorem State.getTile_wf {s : State} (h : s.MemoriesWf) (ep : Nat) : (s.getTile ep).MemoriesWf := by
  unfold State.getTile
  split
  · exact h.2.2.1
  · cases hf : s.others.find? fun t => t.ep == ep with
    | none => exact Tile.reset_wf ep
    | some t => exact h.2.2.2 t (List.mem_of_find?_eq_some hf)

theorem mem_insertTile {t x : Tile} {l : List Tile} (h : x ∈ insertTile t l) : x = t ∨ x ∈ l := by
  induction l with
  | nil => simpa [insertTile] using h
  | cons y l ih =>
    unfold insertTile at h
    split at h
    · simpa using h
    · split at h
      · simp only [List.mem_cons] at h ⊢
        tauto
      · simp only [List.mem_cons] at h ⊢
        rcases h with h | h
        · exact .inr (.inl h)
        · rcases ih h with h | h
          · exact .inl h
          · exact .inr (.inr h)

theorem State.setTile_wf {s : State} {t : Tile} (h : s.MemoriesWf) (ht : t.MemoriesWf) : (s.setTile t).MemoriesWf := by
  unfold State.setTile
  split
  · exact ⟨h.1, h.2.1, ht, h.2.2.2⟩
  · refine ⟨h.1, h.2.1, h.2.2.1, fun x hx => ?_⟩
    rcases mem_insertTile hx with rfl | hx
    · exact ht
    · exact h.2.2.2 x hx

theorem State.modTile_wf {s : State} (h : s.MemoriesWf) (ep : Nat) {f : Tile → Tile} (hf : ∀ t, t.MemoriesWf → (f t).MemoriesWf) :
    (s.modTile ep f).MemoriesWf := State.setTile_wf h (hf _ (State.getTile_wf h ep))

theorem State.onTile_wf {s : State} (h : s.MemoriesWf) {f : Tile → Tile} (hf : ∀ t, t.MemoriesWf → (f t).MemoriesWf) :
    (s.onTile f).MemoriesWf := ⟨h.1, h.2.1, hf _ h.2.2.1, h.2.2.2⟩

theorem State.focus_wf {s : State} (h : s.MemoriesWf) (ep : Nat) : (s.focus ep).MemoriesWf := by
  unfold State.focus
  split
  · exact h
  · refine ⟨h.1, h.2.1, State.getTile_wf h ep, fun x hx => ?_⟩
    rcases mem_insertTile hx with rfl | hx
    · exact h.2.2.1
    · exact h.2.2.2 x (List.mem_filter.mp hx).1

/-- The memories of a tile are the same. -/
def Tile.SameMemories (t u : Tile) : Prop := u.mem = t.mem ∧ u.imem = t.imem ∧ u.anvil = t.anvil ∧ u.shadow = t.shadow

theorem foldl_same {α : Type} {f : Tile → α → Tile} (hf : ∀ (t : Tile) x, t.SameMemories (f t x)) (l : List α) (t : Tile) :
    t.SameMemories (l.foldl f t) := by
  induction l generalizing t with
  | nil => exact ⟨rfl, rfl, rfl, rfl⟩
  | cons x l ih =>
    have h1 := hf t x
    have h2 := ih (f t x)
    exact ⟨h2.1.trans h1.1, h2.2.1.trans h1.2.1, h2.2.2.1.trans h1.2.2.1, h2.2.2.2.trans h1.2.2.2⟩

theorem Tile.mmaRace_memories (t : Tile) (fresh cycle a n : Nat) : t.SameMemories (t.mmaRace fresh cycle a n) := by
  refine foldl_same (f := Tile.raceRows fresh cycle a n) (fun u j => ?_) t.eng.mma t
  unfold Tile.raceRows
  dsimp only
  split <;> exact ⟨rfl, rfl, rfl, rfl⟩

theorem Tile.mmaRace_wf {t : Tile} (h : t.MemoriesWf) (fresh cycle a n : Nat) : (t.mmaRace fresh cycle a n).MemoriesWf := by
  obtain ⟨h1, h2, h3, h4⟩ := t.mmaRace_memories fresh cycle a n
  simpa only [Tile.MemoriesWf, h1, h2, h3, h4] using h

/-- What a store races with an MSTO changes no memory by itself. -/
theorem Tile.raceStore_wf {t : Tile} (h : t.MemoriesWf) (fresh cycle a : Nat) (l : List Byte) : (t.raceStore fresh cycle a l).1.MemoriesWf := by
  unfold Tile.raceStore
  split <;> exact h

theorem putRange_wf (rs : List (Nat × Nat)) (l : List Byte) {m : Memory} (a : Word) (h : m.wf = true) : (putRange rs m a l).wf = true := by
  induction l generalizing m a with
  | nil => exact h
  | cons b l ih =>
    refine ih (a + 1) ?_
    split
    · exact Sparse.wf_set _ b h
    · exact h

theorem Tile.latchRace_wf {t : Tile} (h : t.MemoriesWf) (fresh cycle a n : Nat) : (t.latchRace fresh cycle a n).MemoriesWf := by
  unfold Tile.latchRace
  split
  · exact h
  · split <;> exact h

theorem Tile.touchRegion_wf {t : Tile} (h : t.MemoriesWf) (time j : Nat) : (t.touchRegion time j).MemoriesWf := by
  unfold Tile.touchRegion
  split
  · exact h
  · exact h
  · split <;> exact h
  · exact h

/-- A store of the thread keeps the form. -/
theorem State.stBytes_wf {s : State} (h : s.MemoriesWf) (a : Word) (l : List Byte) : (s.stBytes a l).MemoriesWf := by
  refine State.onTile_wf h fun t ht => ?_
  cases hs : t.spec with
  | some p => exact ht
  | none =>
    have hr := Tile.raceStore_wf (Tile.mmaRace_wf ht s.fresh s.cycle a.toNat l.length) s.fresh s.cycle a.toNat l
    exact ⟨putRange_wf _ _ _ hr.1, hr.2.1, hr.2.2.1, hr.2.2.2⟩

/-- What an interface writes keeps the form, wherever its buffer lies. -/
theorem State.writeBuf_wf {s : State} (h : s.MemoriesWf) (key : Nat) (buf : Buf) (off : Nat) (l : List Byte) :
    (s.writeBuf key buf off l).MemoriesWf := by
  cases buf with
  | bytes b => exact h
  | image n a => exact State.modTile_wf h key fun t ht => ⟨putBytes_wf _ _ ht.1, putBytes_wf _ _ ht.2.1, ht.2.2.1, ht.2.2.2⟩
  | header n => exact ⟨h.1, h.2.1, h.2.2.1, h.2.2.2⟩
  | host a => exact ⟨h.1, putBytes_wf _ _ h.2.1, h.2.2.1, h.2.2.2⟩
  | store a rs =>
    refine State.modTile_wf h key fun t ht => ?_
    have hr := Tile.raceStore_wf (Tile.mmaRace_wf ht s.fresh s.cycle ((a + off) % 2 ^ 64) l.length) s.fresh s.cycle ((a + off) % 2 ^ 64) l
    exact ⟨putRange_wf _ _ _ hr.1, hr.2.1, hr.2.2.1, hr.2.2.2⟩
  | anvil j o =>
    refine State.modTile_wf h key fun t ht => ?_
    have hr := Tile.touchRegion_wf (Tile.latchRace_wf ht s.fresh s.cycle (t.anvilAddr j (o + off)) l.length) s.time j
    exact ⟨hr.1, hr.2.1, putBytes_wf _ _ hr.2.2.1, hr.2.2.2⟩

theorem State.putDram_wf {s : State} (h : s.MemoriesWf) (stack phys : Nat) (l : List Byte) : (s.putDram stack phys l).MemoriesWf :=
  ⟨putBytes_wf _ _ h.1, h.2⟩

/-- A context that leaves for the shadow store, or comes back, takes its memories along. -/
theorem Tile.suspend_wf {t : Tile} (h : t.MemoriesWf) : t.suspend.MemoriesWf := by
  unfold Tile.suspend
  split
  · exact h
  · exact ⟨rfl, rfl, h.2.2.1, fun c hc => by cases hc; exact ⟨h.1, h.2.1⟩⟩
theorem Tile.restore_wf {t : Tile} (h : t.MemoriesWf) (time shardTo : Nat) : (t.restore time shardTo).MemoriesWf := by
  unfold Tile.restore
  split
  · exact h
  · exact ⟨(h.2.2.2 _ ‹_›).1, (h.2.2.2 _ ‹_›).2, h.2.2.1, fun _ hc => nomatch hc⟩

end Sys2Proof.Machine
end

