-- ==== Sys2Proof/Laws/Scalar.lean ====
section
/-!
SUPPORT. The I slot: each shape of operation writes its one register and nothing else.
-/
namespace Sys2Proof.Machine

open Sys2Proof.Safety

theorem State.alu_spec {s : State} (hu : Unpoisoned s) {d a b : BitVec 5} (hc : s.clash (.s d.toNat) = false) (lat : Nat)
    (f : SVal → SVal → SVal) :
    ∃ t, s.alu d a b lat f = .next t ∧ ToS s t d (f (s.opS 0 a) (s.opS 1 b)).val lat 0 ∧
      (d ≠ 0 → t.tile.thr.regs.getS d.toNat = f (s.opS 0 a) (s.opS 1 b)) := by
  simp only [State.alu]
  exact ⟨_, State.checked_plain hu _ rfl rfl rfl, State.wrS_spec hu.2 hc _ _ _⟩

theorem State.alu1_spec {s : State} (hu : Unpoisoned s) {d a : BitVec 5} (hc : s.clash (.s d.toNat) = false) (f : SVal → SVal) :
    ∃ t, s.alu1 d a f = .next t ∧ ToS s t d (f (s.opS 0 a)).val 1 0 ∧ (d ≠ 0 → t.tile.thr.regs.getS d.toNat = f (s.opS 0 a)) := by
  simp only [State.alu1]
  exact ⟨_, State.checked_plain hu _ rfl rfl rfl, State.wrS_spec hu.2 hc _ _ _⟩

theorem State.cmpOp_spec {s : State} (hu : Unpoisoned s) {k : BitVec 3} (hc : s.clash (.p k.toNat) = false) (ops : List SVal)
    (names : List Reg) (v : Bool) : ∃ t, s.cmpOp k ops names v = .next t ∧ ToP s t k v 1 := by
  simp only [State.cmpOp]
  exact ⟨_, State.checked_plain hu _ rfl rfl rfl, State.wrP_spec hu.2 hc _ _⟩

theorem State.pop_spec {s : State} (hu : Unpoisoned s) {k i j : BitVec 3} (hc : s.clash (.p k.toNat) = false) (f : Bool → Bool → Bool) :
    ∃ t, s.pop k i j f = .next t ∧ ToP s t k (f (s.rdP i) (s.rdP j)) 1 := by
  simp only [State.pop]
  exact ⟨_, State.checked_plain hu _ rfl rfl rfl, State.wrP_spec hu.2 hc _ _⟩

theorem State.fop_spec {s : State} (hu : Unpoisoned s) {d a b : BitVec 4} (hc : s.clash (.f d.toNat) = false) (lat : Nat)
    (f : Nat → W32 → W32 → W32 × BitVec 6) :
    ∃ t, s.fop d a b lat f = .next t ∧ ToF s t d (f s.rm (s.opF 0 a) (s.opF 1 b)).1 lat (f s.rm (s.opF 0 a) (s.opF 1 b)).2 := by
  simp only [State.fop]
  exact ⟨_, State.checked_plain hu _ rfl rfl rfl, State.wrF_spec hu.2 hc _ _ _⟩

theorem State.fop1_spec {s : State} (hu : Unpoisoned s) {d a : BitVec 4} (hc : s.clash (.f d.toNat) = false) (lat : Nat)
    (f : Nat → W32 → W32 × BitVec 6) :
    ∃ t, s.fop1 d a lat f = .next t ∧ ToF s t d (f s.rm (s.opF 0 a)).1 lat (f s.rm (s.opF 0 a)).2 := by
  simp only [State.fop1]
  exact ⟨_, State.checked_plain hu _ rfl rfl rfl, State.wrF_spec hu.2 hc _ _ _⟩

theorem State.fToS_spec {s : State} (hu : Unpoisoned s) {d : BitVec 5} {a : BitVec 4} (hc : s.clash (.s d.toNat) = false)
    (f : Nat → W32 → Word × BitVec 6) :
    ∃ t, s.fToS d a f = .next t ∧ ToS s t d (f s.rm (s.opF 0 a)).1 4 (f s.rm (s.opF 0 a)).2 := by
  simp only [State.fToS]
  exact ⟨_, State.checked_plain hu _ rfl rfl rfl, (State.wrS_spec hu.2 hc _ _ _).1⟩

theorem State.sToF_spec {s : State} (hu : Unpoisoned s) {d : BitVec 4} {a : BitVec 5} (hc : s.clash (.f d.toNat) = false)
    (f : Nat → Word → W32 × BitVec 6) :
    ∃ t, s.sToF d a f = .next t ∧ ToF s t d (f s.rm (s.opS 0 a).val).1 4 (f s.rm (s.opS 0 a).val).2 := by
  simp only [State.sToF]
  exact ⟨_, State.checked_plain hu _ rfl rfl rfl, State.wrF_spec hu.2 hc _ _ _⟩

end Sys2Proof.Machine
end

