-- ==== Sys2Proof/Tests/Slice0.lean ====
section
/-!
SUPPORT. Tests: ill-formed instructions, words written out from R178 to R181, the manual's worked examples, and states that meet the
hypotheses of the statements. Every expected value comes from the manual: a worked example is named by its chapter, another value by
the rule from which it was worked out by hand.
-/
namespace Sys2Proof.Tests

open Sys2Proof Sys2Proof.Machine Sys2Proof.Safety

set_option maxRecDepth 20000

/-! ### Ill-formed instructions are refused: one for each check of `Instr.wellFormed` -/

/-- R173 (no index 0x00C or 0x070), R212, R217, R219, R227, R234, R250, R256: field values that no row names. -/
theorem test_ill_formed_words :
  ∀ i ∈ ([.getc 1 0x00C, .getc 1 0x01A, .getc 1 0x029, .getc 1 0x034, .getc 1 0x043, .getc 1 0x054, .getc 1 0x070, .getc 1 0x072, .getc 1 0x0C2,
    .getc 1 0x0E0, .setc 1 0x00C, .setc 1 0xFFF, .cmp 1 2 3 6, .cmpi 1 2 7 0, .fcmp 1 2 3 5, .ldx 1 2 3 0 7, .stx 1 2 3 0 1, .stx 1 2 3 0 7,
    .vcmp 1 2 3 0 10, .mldb 1 5, .mldbg 1 2 7, .msto 1 2 3 0] : List Instr), i.wellFormed = false := by decide

def header (kind : BitVec 8) : Header := ⟨0, 5, 7, 0, kind, 0, 64, 0, 0, 9⟩
def packet (kind : BitVec 8) (l : List Byte) : Packet := ⟨header kind, l, false⟩

/-- R83: an event of one packet kind does not take a packet of another. -/
theorem test_ill_formed_packets :
  ∀ i ∈ ([.eager (packet 2 []), .rts (packet 1 []), .cts (packet 4 []), .data (packet 3 []), .ack (packet 6 []), .absent (packet 5 []),
    .busy (packet 8 []), .release (packet 7 []), .revoke (packet 11 []), .subscribe (packet 10 []), .prune (packet 9 []), .cdata (packet 13 []),
    .ucdata (packet 11 [])] : List Instr), i.wellFormed = false := by decide

def shardAt (srv aop : Nat) : Shard := ⟨5, srv, 3, 0, 9, 0, [⟨0, 0x140010, 8⟩], [], aop, none, none, 1, false, []⟩
def replyOf (srv : Nat) : Reply := ⟨0, srv, 3, 0, 0, 8, [], 0, false⟩
def chunkAt (node : Nat) : HChunk := ⟨node, 2, 0x32, 7, 5, 8, 0, 8, 1, 0, [], false, false⟩
def descriptor (op : BitVec 8) (rank : Rank) (len : W32) : Descriptor := ⟨op, 9, rank, 0x77, 0, len, 0, 0x2000, 0x10010, 0xAB⟩

/-- R16, R135, R149: there are 192 servers, and each APPLY event has one operation. -/
theorem test_ill_formed_servers :
  ∀ i ∈ ([.qget (shardAt 192 0), .qput (shardAt 192 0), .qgetb (shardAt 192 0), .qputb (shardAt 192 0), .qgath (shardAt 192 0),
    .qscat (shardAt 192 0), .applyAdd32 (shardAt 0 1), .applyAdd64 (shardAt 0 0), .applyAnd64 (shardAt 0 3), .applyOr64 (shardAt 0 4),
    .applyXor64 (shardAt 0 5), .applySmin64 (shardAt 0 6), .applySmax64 (shardAt 0 7), .applyUmin64 (shardAt 0 8), .applyUmax64 (shardAt 0 9),
    .applySwap64 (shardAt 0 10), .applyFadd32 (shardAt 0 11), .applyXadd (shardAt 0 12), .applyReserved (shardAt 0 11), .qcas (shardAt 192 0),
    .fenceProbe 192 ⟨0, 0⟩, .sdata (replyOf 192), .sdone (replyOf 192), .echo 0 ⟨192, 0⟩, .pendlimitExpiry 192 0 0 0, .swapHold 192 0 0 0, .serverFailed 192,
    .contextDescriptorWrite 192 0 ⟨false, 0, 0, 0, [], false, 0⟩, .pageEntryChange 192 0 0 0 0, .poolRefill 192 0 [],
    .failPendingShards 192 0] : List Instr), i.wellFormed = false := by decide

/-- R16, R160, R308: there are 12 stacks, 69 halo nodes and 64 host functions. -/
theorem test_ill_formed_units :
  ∀ i ∈ ([.burstRead 12 0 ⟨0, 0, 0⟩, .burstWrite 12 0 [] ⟨0, 0, 0⟩, .laneSwap 12 0 0, .laneWindowEnd 12 0, .remapEpochEnd 12, .swapDone 12,
    .remapctlWrite 12 0, .tableRebuild 12 0 0, .hcontrib (chunkAt 69), .hpart (chunkAt 69), .hresult (chunkAt 69), .haloNodeFailed 69,
    .groupEntryWrite 0 69 0, .hostSend 64 (descriptor 0 1 4), .hostSendr 64 (descriptor 1 1 4), .hostPost 64 (descriptor 2 1 4),
    .hostCancel 64 (descriptor 3 1 4), .hostGet 64 (descriptor 4 1 4), .hostPut 64 (descriptor 5 1 4), .hostDeniedOp 64 (descriptor 6 1 4),
    .completionQueueWrite 64, .sqtailWrite 64 0, .hwctlEnWrite 64 0, .qerrClear 64 0, .cqheadWrite 64 0, .lockedFieldWrite 64 0 0,
    .hostRegisterWrite 64 false 0 0, .lockInterface 64, .startInterface 64, .stopInterface 64, .getDeviceInterfaceReport 64,
    .ideIntegrityFailure 64 0, .srIovEnable 64 true] : List Instr), i.wellFormed = false := by decide

/-! ### Words written out bit by bit (R178 to R181): slot 0, slots 1 and 2, slots 3 to 7 -/

theorem test_words_c :
  ∀ e ∈ ([(0b00000000000000000000000000000000#32, .nop), (0b0000010000000000_0001001010000001#32, .br 4737),
    (0b000010_0_1_0_0000_000_0001001011010010#32, .brp 0 1 0 0 4818), (0b0000110000000000_0001001100011011#32, .call 4891),
    (0b00010000000_11111_0000000000000000#32, .callr 31), (0b00010100000_00110_0000000000000000#32, .jmpr 6),
    (0b000110000_01_10010_0001010000000100#32, .loop 1 18 5124), (0b000111_00_00111001_0001010001010001#32, .loopi 0 57 5201),
    (0b00100000000000000000000000000000#32, .endT), (0b0010010000000000_0001010011101001#32, .trap 5353),
    (0b00101000000000000000000000000000#32, .tret), (0b00101100000_10000_0000000000_010101#32, .waitb 16 21),
    (0b00110000000000000000000000_010111#32, .arrb 23), (0b00110100000_11110_0000000000_100011#32, .setb 30 35),
    (0b00111000000000000000000000000000#32, .waitw), (0b00111100000_01100_0000000000000000#32, .donew 12),
    (0b01000000000000000000000000000000#32, .yield), (0b01000100000_11010_0000000000000000#32, .sleept 26),
    (0b010010_00001_000000000_000011000001#32, .getc 1 193), (0b01001100000_01000_0000_000001110001#32, .setc 8 113),
    (0b01010000000000000000000000000000#32, .fence), (0b01010100000000000000000000000000#32, .syncx)] : List (W32 × Instr)), decodeSlot 0 e.1 = .ok e.2 := by decide

theorem test_words_i_1 :
  ∀ e ∈ ([(0b000001_00111_01100_10001_00000000000#32, .add 7 12 17), (0b000001_01110_10011_11000_00000000001#32, .sub 14 19 24),
    (0b000001_10101_11010_11111_00000000010#32, .and 21 26 31), (0b000001_11100_00001_00110_00000000011#32, .or 28 1 6),
    (0b000001_00011_01000_01101_00000000100#32, .xor 3 8 13), (0b000001_01010_01111_10100_00000000101#32, .shl 10 15 20),
    (0b000001_10001_10110_11011_00000000110#32, .shr 17 22 27), (0b000001_11000_11101_00010_00000000111#32, .sra 24 29 2),
    (0b000001_11111_00100_01001_00000001000#32, .min 31 4 9), (0b000001_00110_01011_10000_00000001001#32, .max 6 11 16),
    (0b000001_01101_10010_10111_00000001010#32, .minz 13 18 23), (0b000001_10100_11001_11110_00000001011#32, .maxz 20 25 30),
    (0b000001_11011_00000_00101_00000001100#32, .mul 27 0 5), (0b000001_00010_00111_01100_00000001101#32, .mulh 2 7 12),
    (0b000001_01001_01110_10011_00000001110#32, .mulhz 9 14 19), (0b000001_10000_10101_11010_00000001111#32, .div 16 21 26),
    (0b000001_10111_11100_00001_00000010000#32, .divz 23 28 1), (0b000001_11110_00011_01000_00000010001#32, .rem 30 3 8),
    (0b000001_00101_01010_01111_00000010010#32, .remz 5 10 15), (0b000001_01100_10001_0000000000010011#32, .clz 12 17),
    (0b000001_10011_11000_0000000000010100#32, .popc 19 24), (0b000001_11010_11111_00100_00000010101#32, .andn 26 31 4),
    (0b000010_00001_00110_0010000101000000#32, .addi 1 6 8512), (0b000011_01000_01101_0010000110001101#32, .andi 8 13 8589),
    (0b000100_01111_10100_0010000111011010#32, .ori 15 20 8666), (0b000101_10110_11011_0010001000100111#32, .xori 22 27 8743),
    (0b000110_11101_00010_0000000000_000111#32, .shli 29 2 7), (0b000110_00100_01001_0100000000_001110#32, .shri 4 9 14),
    (0b000110_01011_10000_1000000000_010101#32, .srai 11 16 21), (0b000111_10010_00000_0010001101011010#32, .movi 18 9050),
    (0b001000_11001_000_10_0010001110101000#32, .movhi 25 2 9128), (0b001001_000_00_00101_01010_00000000_100#32, .cmp 0 5 10 4)] : List (W32 × Instr)), decodeSlot 1 e.1 = .ok e.2 := by decide

theorem test_words_i_2 :
  ∀ e ∈ ([(0b001010_111_00_01100_101_0010001000011#32, .cmpi 7 12 5 1091), (0b001011_01110_10011_11000_00000000_101#32, .sel 14 19 24 5),
    (0b001100_10101_11010_0000_111111_000100#32, .bfx 21 26 63 4), (0b001100_11100_00001_0001_000110_001011#32, .bfxs 28 1 6 11),
    (0b001101_00011_01000_0000_001101_010010#32, .bfi 3 8 13 18), (0b001110_010_0000_111_00_100_00000000000#32, .pand 2 7 4),
    (0b001110_001_0000_110_00_011_00000000001#32, .por 1 6 3), (0b001110_000_0000_101_00_010_00000000010#32, .pxor 0 5 2),
    (0b001110_111_0000_100_00_001_00000000011#32, .pandn 7 4 1), (0b0011110_0110_0_1011_0_0000_00000000000#32, .fadd 6 11 0),
    (0b0011110_1101_0_0010_0_0111_00000000001#32, .fsub 13 2 7), (0b0011110_0100_0_1001_0_1110_00000000010#32, .fmul 4 9 14),
    (0b0011110_1011_0_0000_0_0101_00000000011#32, .fdiv 11 0 5), (0b0011110_0010_0_0111_0_1100_00000000100#32, .fmin 2 7 12),
    (0b0011110_1001_0_1110_0_0011_00000000101#32, .fmax 9 14 3), (0b0011110_0000_0_0101_0000000000000110#32, .fsqrt 0 5),
    (0b0011110_0111_0_1100_0000000000000111#32, .fabs 7 12), (0b0011110_1110_0_0011_0000000000001000#32, .fneg 14 3),
    (0b0100000_0101_0_1010_0_1111_0_0100_000000#32, .ffma 5 10 15 4), (0b010001_100_000_0001_0_0110_00000000_011#32, .fcmp 4 1 6 3),
    (0b010010_10011_0_1000_0000000000000000#32, .fcvtF2i 19 8), (0b010010_11010_0_1111_0000000000000001#32, .fcvtF2iz 26 15),
    (0b0100100_0001_00110_0000000000000010#32, .fcvtI2f 1 6), (0b0100100_1000_01101_0000000000000011#32, .fcvtIz2f 8 13),
    (0b010010_01111_0_0100_0000000000000100#32, .fcvtF2bf 15 4), (0b0100100_0110_11011_0000000000000101#32, .fcvtBf2f 6 27),
    (0b010010_11101_0_0010_0000000000000110#32, .fcvtF2h 29 2), (0b0100100_0100_01001_0000000000000111#32, .fcvtH2f 4 9),
    (0b010011_01011_0_0000_0000000000000000#32, .movsf 11 0), (0b0101000_0010_10111_0000000000000000#32, .movfs 2 23),
    (0b0101010_1001_00000_0010110101000111#32, .fmovi 9 11591)] : List (W32 × Instr)), decodeSlot 1 e.1 = .ok e.2 := by decide

theorem test_words_m :
  ∀ e ∈ ([(0b000001_00000_00101_000_0110110010101#32, .ldb 0 5 3477), (0b000001_00111_01100_001_0110111100010#32, .ldbz 7 12 3554),
    (0b000001_01110_10011_010_0111000101111#32, .ldh 14 19 3631), (0b000001_10101_11010_011_0111001111100#32, .ldhz 21 26 3708),
    (0b000001_11100_00001_100_0111011001001#32, .ldw 28 1 3785), (0b000001_00011_01000_101_0111100010110#32, .ldwz 3 8 3862),
    (0b000001_01010_01111_110_0111101100011#32, .ldd 10 15 3939), (0b000010_10001_10110_000_0111110110000#32, .stb 17 22 4016),
    (0b000010_11000_11101_010_0111111111101#32, .sth 24 29 4093), (0b000010_11111_00100_100_1000001001010#32, .stw 31 4 4170),
    (0b000010_00110_01011_110_1000010010111#32, .std 6 11 4247), (0b000011_01101_10010_10111_0000000_1_101#32, .ldx 13 18 23 1 5),
    (0b000100_10100_11001_11110_0000000_0_110#32, .stx 20 25 30 0 6), (0b000101_11011_00000_0011000101111110#32, .ldv 27 0 12670),
    (0b000110_00010_00111_0011000111001011#32, .stv 2 7 12747), (0b000111_01001_01110_10011_00000000000#32, .ldvs 9 14 19),
    (0b001000_10000_10101_11010_00000000000#32, .stvs 16 21 26), (0b001001_10111_11100_00001_00000000000#32, .ldvx 23 28 1),
    (0b001010_11110_00011_01000_00000000000#32, .stvx 30 3 8), (0b0010110_0101_01010_000_1001101001100#32, .ldf 5 10 4940),
    (0b0011000_1100_10001_000_1001110011001#32, .stf 12 17 5017), (0b00110100000_10011_11000_00000000000#32, .anvw 19 24),
    (0b00111000000_00001_00110_00000000000#32, .anvr 1 6), (0b00111100000_01000_01101_00000000000#32, .fill 8 13),
    (0b010000_01111_10100_11001_00000000000#32, .copy 15 20 25), (0b0100010000_1_11011_000_1010101100111#32, .ldxa 1 27 5479),
    (0b0100100000_0_00010_000_1010110110100#32, .stxa 0 2 5556)] : List (W32 × Instr)), decodeSlot 3 e.1 = .ok e.2 := by decide

theorem test_words_v_1 :
  ∀ e ∈ ([(0b000001_00100_01001_01110_011_00000000#32, .vadd 4 9 14 3), (0b000001_01011_10000_10101_010_00000001#32, .vsub 11 16 21 2),
    (0b000001_10010_10111_11100_001_00000010#32, .vmul 18 23 28 1), (0b000001_11001_11110_00011_000_00000011#32, .vmin 25 30 3 0),
    (0b000001_00000_00101_01010_111_00000100#32, .vmax 0 5 10 7), (0b000001_00111_01100_00000_001_00000101#32, .vabs 7 12 1),
    (0b000001_01110_10011_00000_000_00000110#32, .vneg 14 19 0), (0b000010_10101_11010_11111_100_00000000#32, .vfma 21 26 31 4),
    (0b000011_11100_00001_00110_011_00000000#32, .vfms 28 1 6 3), (0b000100_00011_01000_00000_101_00000000#32, .vrcp 3 8 5),
    (0b000100_01010_01111_00000_100_00000001#32, .vrsq 10 15 4), (0b000100_10001_10110_00000_011_00000010#32, .vexp2 17 22 3),
    (0b000100_11000_11101_00000_010_00000011#32, .vlog2 24 29 2), (0b000100_11111_00100_00000_001_00000100#32, .vtanh 31 4 1),
    (0b000100_00110_01011_00000_000_00000101#32, .vsigm 6 11 0), (0b000100_01101_10010_00000_111_00000110#32, .vsqrt 13 18 7),
    (0b000101_10100_11001_11110_011_00000000#32, .viadd 20 25 30 3), (0b000101_11011_00000_00101_010_00000001#32, .visub 27 0 5 2),
    (0b000101_00010_00111_01100_001_00000010#32, .vimul 2 7 12 1), (0b000101_01001_01110_10011_000_00000011#32, .vand 9 14 19 0),
    (0b000101_10000_10101_11010_111_00000100#32, .vor 16 21 26 7), (0b000101_10111_11100_00001_110_00000101#32, .vxor 23 28 1 6),
    (0b000101_11110_00011_01000_101_00000110#32, .vshl 30 3 8 5), (0b000101_00101_01010_01111_100_00000111#32, .vshr 5 10 15 4),
    (0b000101_01100_10001_10110_011_00001000#32, .vsra 12 17 22 3), (0b000101_10011_11000_11101_010_00001001#32, .vimin 19 24 29 2),
    (0b000101_11010_11111_00100_001_00001010#32, .vimax 26 31 4 1), (0b00011000_001_00110_01011_000_00001001#32, .vcmp 1 6 11 0 9),
    (0b000111_01000_01101_10010_111_00000000#32, .vsel 8 13 18 7), (0b001000_01111_10100_00000_001_00000000#32, .vcvtF2bf 15 20 1),
    (0b001000_10110_11011_00000_000_00000001#32, .vcvtBf2f 22 27 0), (0b001000_11101_00010_00000_111_00000010#32, .vcvtF2h 29 2 7)] : List (W32 × Instr)), decodeSlot 4 e.1 = .ok e.2 := by decide

theorem test_words_v_2 :
  ∀ e ∈ ([(0b001000_00100_01001_00000_110_00000011#32, .vcvtH2f 4 9 6), (0b001000_01011_10000_00000_101_00000100#32, .vcvtF2e4 11 16 5),
    (0b001000_10010_10111_00000_100_00000101#32, .vcvtE42f 18 23 4), (0b001000_11001_11110_00000_011_00000110#32, .vcvtF2e5 25 30 3),
    (0b001000_00000_00101_00000_010_00000111#32, .vcvtE52f 0 5 2), (0b001000_00111_01100_00000_001_00001000#32, .vcvtF2i 7 12 1),
    (0b001000_01110_10011_00000_000_00001001#32, .vcvtI2f 14 19 0), (0b001001_10101_11010_00000_111_00000000#32, .vbmax 21 26 7),
    (0b001010_11100_00001_00110_00000000000#32, .vpack4 28 1 6), (0b001011_00011_01000_01101_00000000000#32, .vunpk4 3 8 13),
    (0b0011000_1010_01111_00000_100_00000000#32, .vsum 10 15 4), (0b0011000_0001_10110_00000_011_00000001#32, .vrmax 1 22 3),
    (0b0011000_1000_11101_00000_010_00000010#32, .vrmin 8 29 2), (0b001101_11111_00100_00000_001_00000000#32, .vbcast 31 4 1),
    (0b001101_00110_0_1011_00000_000_00000001#32, .vbcastf 6 11 0), (0b001110_01101_10010_10111_100_00000000#32, .vshuf 13 18 23 4),
    (0b001111_10100_11001_11110_011_00_101000#32, .vslide 20 25 30 3 40), (0b01000000_011_00000_0000000000000000#32, .vmovmToMask 3 0),
    (0b01000000_010_00_111_00_100_00000000001#32, .vmand 2 7 4), (0b01000000_001_00_110_00_011_00000000010#32, .vmor 1 6 3),
    (0b01000000_000_00_101_0000000000000011#32, .vmnot 0 5), (0b010000_10111_00_100_0000000000000100#32, .vmovmToScalar 23 4),
    (0b0100010000_1_00011_00000_000_00000000#32, .vxacF32 1 3 0), (0b0100010000_0_01010_00000_111_00000001#32, .vxacBf16 0 10 7),
    (0b010010_01100_0000_0_00000_110_00000000#32, .vxrdF32 12 0 6), (0b010010_10011_0000_1_00000_101_00000001#32, .vxrdBf16 19 1 5),
    (0b0100100000_1_0000000000_111_00000010#32, .vxclr 1 7), (0b010011_00001_0000000000_110_00000000#32, .vlane 1 6),
    (0b010100_01000_01101_0000000000_110010#32, .vgets 8 13 50), (0b010100_01111_10100_0000000001_111001#32, .vputs 15 20 57)] : List (W32 × Instr)), decodeSlot 4 e.1 = .ok e.2 := by decide

theorem test_words_x :
  ∀ e ∈ ([(0b00000100000_10110_000000000000_100_0#32, .mldb 22 4), (0b00000100000_11101_00010_0000000_011_1#32, .mldbg 29 2 3),
    (0b000010000_00_01001_01110_10011_000000#32, .mmaBb 0 9 14 19), (0b000011000_11_10000_10101_11010_000000#32, .mmaHh 3 16 21 26),
    (0b000100000_10_10111_11100_00001_000000#32, .mmaEe 2 23 28 1), (0b000101000_01_11110_00011_01000_000000#32, .mmaEf 1 30 3 8),
    (0b000110000_00_00101_01010_01111_000000#32, .mmaFe 0 5 10 15), (0b000111000_11_01100_10001_10110_000000#32, .mmaFf 3 12 17 22),
    (0b001000000_10_10011_11000_11101_000000#32, .mmaEq 2 19 24 29), (0b001001000_01_11010_11111_00100_000000#32, .mmaBq 1 26 31 4),
    (0b001010000_00_000000000000000000000#32, .mzero 0), (0b001011_00011_01000_00000000000000_01#32, .mrd 3 8 1),
    (0b00110000000_01010_01111_000000000_00#32, .mwr 10 15 0), (0b00110100000_10001_10110_0000000_10_00#32, .msto 17 22 2 0),
    (0b0011100000000000_11000_000000000_01#32, .mbias 24 1)] : List (W32 × Instr)), decodeSlot 5 e.1 = .ok e.2 := by decide

theorem test_words_n :
  ∀ e ∈ ([(0b0000010_1111_00100_01001_01110_000000#32, .send 15 4 9 14), (0b0000100_0110_01011_10000_10101_000000#32, .sendr 6 11 16 21),
    (0b0000110_1101_10010_10111_11100_000000#32, .sendt 13 18 23 28), (0b0001000_0100_11001_11110_00011_000000#32, .sendv 4 25 30 3),
    (0b0001010_1011_00000_00101_01010_000000#32, .post 11 0 5 10), (0b0001100_0010_00111_01100_10001_000000#32, .postm 2 7 12 17),
    (0b0001110_1001_01110_10011_11000_000000#32, .posta 9 14 19 24), (0b0010000_0000_000000000000000000_101#32, .waitm 0 5),
    (0b0010010_0111_000000000000000000_100#32, .testm 7 4), (0b001010_11110_0_0011_00000000000000_00#32, .mrec 30 3 0),
    (0b0010110_0101_000000000000000000000#32, .cancel 5), (0b001100_01100_10001_10110_00000000_011#32, .probe 12 17 22 3),
    (0b0011010_0011_11000_11101_00010_000000#32, .get 3 24 29 2), (0b0011100_1010_11111_00100_01001_000000#32, .put 10 31 4 9),
    (0b0011110_0001_00110_01011_10000_000000#32, .getb 1 6 11 16), (0b0100000_1000_01101_10010_10111_000000#32, .putb 8 13 18 23),
    (0b0100010_1111_10100_11001_11110_000000#32, .gath 15 20 25 30), (0b0100100_0110_11011_00000_00101_000000#32, .scat 6 27 0 5),
    (0b0100110_1101_00010_00111_01100_000000#32, .apply 13 2 7 12), (0b0101000_0100_01001_01110_10011_000000#32, .cas 4 9 14 19),
    (0b0101010_1011_10000_10101_11010_000000#32, .publ 11 16 21 26), (0b0101100_0010_10111_11100_00001_000000#32, .subs 2 23 28 1),
    (0b0101110_1001_000000000000000000000#32, .unpub 9), (0b0110000_0000_000000000000000000000#32, .freeh 0)] : List (W32 × Instr)), decodeSlot 6 e.1 = .ok e.2 := by decide

theorem test_words_g :
  ∀ e ∈ ([(0b0000010_0111_01100_0101010001100010#32, .bld 7 12 21602), (0b0000100_1110_10011_0101010010101111#32, .bst 14 19 21679),
    (0b0000110_0101_000000000000000000000#32, .bzero 5), (0b0001000_1100_0_0001_0_0110_00000000000#32, .badd 12 1 6),
    (0b0001010_0011_0_1000_0_1101_00000000000#32, .bsub 3 8 13), (0b0001100_1010_0_1111_10100_00000000000#32, .bperm 10 15 20),
    (0b0001110_0001_0_0110_00000000_00111011#32, .bmarg 1 6 59), (0b0010000_1000_0_1101_0_0010_00000000000#32, .bdamp 8 13 2),
    (0b0010010_1111_0_0100_0000000000000000#32, .bmean 15 4), (0b0010100_0110_0_1011_0_0000_00000000000#32, .bres 6 11 0),
    (0b0010110_1101_0_0010_0_0111_00000000000#32, .breg 13 2 7), (0b001100000_00_11001_11110_00000000000#32, .sig 0 25 30),
    (0b00110100_011_000_00_000_01_00000000000#32, .scmp 3 0 1), (0b00111000000_00010_0000000000000_111#32, .skset 2 7),
    (0b00111100000000000000000000000000#32, .stepa), (0b010000000_00_10101_0000000000000000#32, .sigst 0 21)] : List (W32 × Instr)), decodeSlot 7 e.1 = .ok e.2 := by decide

/-! ### A small machine -/

/-- Scalar registers with right residues. -/
def regsOf (l : List (Nat × Word)) : Regs := { Regs.reset 0 with s := l.map fun x => (x.1, SVal.of x.2) }

/-- The one tile of a running package, a gang's thread at 0x40 on it. -/
def machine (l : List (Nat × Word)) : State :=
  { State.reset with
    cycle := 1000, time := 55000
    mgmt := { Mgmt.reset with boot := .running }
    tile := { Tile.reset 0 with
      run := .running, thr := { Thread.reset 0 with regs := regsOf l, pc := 0x40 }, iss := { Issue.none with slot := 3, succ := 0x60 } } }

def withCr (s : State) (l : List (Nat × Word)) : State := l.foldl (fun s x => s.setCr x.1 x.2) s

/-- The state that an instruction answers. -/
def after (i : Instr) (s : State) : State := match exec i s with | .next t => t | _ => s
def sAfter (i : Instr) (s : State) (n : Nat) : Word := ((after i s).tile.thr.regs.getS n).val

/-! ### Worked examples -/

/-- Chapter "Scalar instructions", the example of R210: s4 = −2^63, s5 = −1. -/
theorem test_division_corners :
  let s := machine [(4, 0x8000000000000000), (5, 0xFFFFFFFFFFFFFFFF)]
  sAfter (.div 6 4 5) s 6 = 0x8000000000000000 ∧ sAfter (.rem 6 4 5) s 6 = 0 ∧ sAfter (.divz 6 4 5) s 6 = 0 ∧
  sAfter (.remz 6 4 5) s 6 = 0x8000000000000000 ∧ sAfter (.div 6 4 0) s 6 = 0xFFFFFFFFFFFFFFFF ∧ sAfter (.rem 6 4 0) s 6 = 0x8000000000000000 ∧
  sAfter (.mulh 6 4 5) s 6 = 0 ∧ sAfter (.mulhz 6 4 5) s 6 = 0x7FFFFFFFFFFFFFFF := by decide

/-- R81, R211 to R214 worked by hand: a sum that wraps, shifts by s & 63, an immediate that is sign-extended, one field of MOVHI, a field that
reaches beyond bit 63, and comparisons that differ in signedness. -/
theorem test_integer_results :
  let s := machine [(1, 0xFFFFFFFFFFFFFFFF), (2, 2), (3, 0x41), (4, 0x8000000000000000), (5, 0xF0F0)]
  sAfter (.add 6 1 2) s 6 = 1 ∧ sAfter (.sub 6 2 1) s 6 = 3 ∧ sAfter (.andn 6 1 5) s 6 = 0xFFFFFFFFFFFF0F0F ∧ sAfter (.shl 6 2 3) s 6 = 4 ∧
  sAfter (.shr 6 4 3) s 6 = 0x4000000000000000 ∧ sAfter (.sra 6 4 3) s 6 = 0xC000000000000000 ∧ sAfter (.min 6 1 2) s 6 = 0xFFFFFFFFFFFFFFFF ∧
  sAfter (.minz 6 1 2) s 6 = 2 ∧ sAfter (.max 6 1 2) s 6 = 2 ∧ sAfter (.maxz 6 1 2) s 6 = 0xFFFFFFFFFFFFFFFF ∧
  sAfter (.mul 6 1 1) s 6 = 1 ∧ sAfter (.clz 6 2) s 6 = 62 ∧ sAfter (.clz 6 0) s 6 = 64 ∧ sAfter (.popc 6 5) s 6 = 8 ∧
  sAfter (.addi 6 2 0xFFFD) s 6 = 0xFFFFFFFFFFFFFFFF ∧ sAfter (.andi 6 1 0x8001) s 6 = 0x8001 ∧ sAfter (.ori 6 4 0xFFFF) s 6 = 0x800000000000FFFF ∧
  sAfter (.xori 6 5 0xF000) s 6 = 0xF0 ∧ sAfter (.shli 6 2 63) s 6 = 0 ∧ sAfter (.shri 6 4 63) s 6 = 1 ∧
  sAfter (.srai 6 4 63) s 6 = 0xFFFFFFFFFFFFFFFF ∧ sAfter (.movi 6 0x8000) s 6 = 0xFFFFFFFFFFFF8000 ∧
  sAfter (.movhi 5 2 0x1234) s 5 = 0x12340000F0F0 ∧ sAfter (.bfx 6 5 4 7) s 6 = 0x0F ∧ sAfter (.bfxs 6 5 12 3) s 6 = 0xFFFFFFFFFFFFFFFF ∧
  sAfter (.bfi 5 1 60 15) s 5 = 0xF00000000000F0F0 ∧ sAfter (.sel 6 1 2 0) s 6 = 0xFFFFFFFFFFFFFFFF ∧ sAfter (.sel 6 1 2 1) s 6 = 2 := by decide

/-- R212, R214: signed and unsigned conditions, and a write to p0. -/
theorem test_predicates :
  let s := machine [(1, 0xFFFFFFFFFFFFFFFF), (2, 2)]
  let p (i : Instr) (k : Nat) : Bool := (after i s).tile.thr.regs.getP k
  p (.cmp 1 1 2 2) 1 = true ∧ p (.cmp 1 1 2 4) 1 = false ∧ p (.cmpi 1 1 0 0x1FFF) 1 = true ∧ p (.cmpi 1 1 5 0x1FFF) 1 = true ∧
  p (.cmp 0 1 2 0) 0 = true ∧ p (.pand 1 0 2) 1 = false ∧ p (.por 1 2 0) 1 = true ∧ p (.pxor 1 0 0) 1 = false ∧ p (.pandn 1 0 2) 1 = true := by
  decide

/-- R63 to R65, R74, R76: 1/3 rounds, an overflow gives infinity with OF and NX, 0 · inf and inf − inf are NV, a conversion saturates with NV, and
a tie goes to even. -/
theorem test_floating_point :
  fpAdd 0 0x3F800000 0x3F800000 = (0x40000000, 0) ∧ fpDiv 0 0x3F800000 0x40400000 = (0x3EAAAAAB, 1) ∧
  fpDiv 1 0x3F800000 0x40400000 = (0x3EAAAAAA, 1) ∧ fpAdd 0 0x7F7FFFFF 0x7F7FFFFF = (0x7F800000, 0x05) ∧
  fpMul 0 0 0x7F800000 = (0x7FC00000, 0x10) ∧ fpSub 0 0x7F800000 0x7F800000 = (0x7FC00000, 0x10) ∧ fpSqrt 0 0x40000000 = (0x3FB504F3, 1) ∧
  fpAdd 0 0x4B800000 0x3F800000 = (0x4B800000, 1) ∧ (intToFp 0 16777217).1 = 0x4B800000 ∧
  (fpToInt 0 (-2 ^ 63) (2 ^ 63 - 1) (f32 0x40200000)).1 = 2 ∧ (fpToInt 0 0 (2 ^ 64 - 1) (f32 0xBF800000)).1 = 0 := by decide

/-- Chapter "Number formats", the example of R67 and R76 with SCALE 0.5 and EXTRA 24: code and flags (SAT is bit 5, OF bit 2, NX bit 0). -/
theorem test_packing :
  packE2m1 0x41300000 0x3F000000 0x5C = (8, 0x01) ∧ packE2m1 0x40F00000 0x3F000000 0x5C = (8, 0x01) ∧
  packE2m1 0x3FA00000 0x3F000000 0x5C = (4, 0x01) ∧ (packE2m1 0xBDCCCCCD 0x3F000000 0x5C).1 = 0 ∧
  packE2m1 0x42C80000 0x3F000000 0x5C = (8, 0x25) ∧ (packE2m1 0x405FC000 0x3F800000 0x80).1 = 5 ∧
  (packE2m1 0x40600000 0x3F800000 0x80).1 = 6 ∧ (narrow .bf16 0 false (f32 0x405FC000)).1 = 0x4060 := by decide

/-- Chapter "Number formats", the example of R66: SCALE 0.5 and EXTRA 24. -/
theorem test_unpacking :
  let side : Word := 0x5C3F000000
  (unpackE2m1 side 0xF).1 = 0xC0400000 ∧ (unpackE2m1 side 8).1 = 0x41400000 ∧ (unpackE2m1 side 5).1 = 0x3FC00000 ∧
  (unpackE2m1 side 2).1 = 0x3F000000 := by decide

/-- Chapter "Number formats", the example of R79: 2^24, 1 and −2^24 in any order sum to 1, and bit 149 of N is bit 5 of wire byte 18. -/
theorem test_exact_accumulator :
  let put (x : XA) (w : W32) := x.contribute (f32 w)
  let t := put (put (put XA.clear 0x4B800000) 0x3F800000) 0xCB800000
  t = ⟨2 ^ 149, 0, 0, false, 2⟩ ∧ put (put (put XA.clear 0x4B800000) 0xCB800000) 0x3F800000 = t ∧ pack32 (t.read .f32) = (0x3F800000, 0) ∧
  t.wire = BitVec.ofNat 512 (0x20 * 256 ^ 18 + 0x04 * 256 ^ 0x34) ∧ XA.ofWire t.wire = t := by decide

/-- Chapter "Vector instructions", the example of R238: 1.0, 500.0 and 0.1875 as E4M3, with and without SAT8. -/
theorem test_narrowing :
  narrow .e4m3 0 false (f32 0x3F800000) = (0x38, 0) ∧ narrow .e4m3 0 false (f32 0x43FA0000) = (0x7F, 0x05) ∧
  narrow .e4m3 0 true (f32 0x43FA0000) = (0x7E, 0x25) ∧ narrow .e4m3 0 false (f32 0x3E400000) = (0x24, 0) := by decide

/-! ### Whole steps -/

/-- The machine with words in its instruction store, about to take its turn at address `a`. -/
def turnAt (s : State) (a : Nat) (ws : List W32) : State :=
  { s with
    round := [0]
    tile := { s.tile with imem := putImem [] a (ws.flatMap fun w => toLE 4 w.toNat), thr := { s.tile.thr with pc := a } } }
def stepped (s : State) : State := match step s with | .next t => t | _ => s

/-- Chapter "Bundles, slots and the assembly language", the example of R177: fixed and packed form hold the same instructions. -/
theorem test_bundle_forms :
  let fixed := turnAt (machine []) 0x40 [0, 0x08630040, 0, 0x04838008, 0x08400800, 0, 0, 0]
  let packed := turnAt (withCr (machine []) [(0x014, 1)]) 0x40 [0x0000001A, 0x08630040, 0x04838008, 0x08400800]
  (fixed.tile.bundleAt 0x40).instrs = [(1, .addi 3 3 64), (3, .ldw 4 3 8), (4, .vfma 2 0 1 0)] ∧ (fixed.tile.bundleAt 0x40).succ = 0x60 ∧
  (packed.tile.bundleAt 0x40).instrs = (fixed.tile.bundleAt 0x40).instrs ∧ (packed.tile.bundleAt 0x40).succ = 0x50 ∧
  (fixed.tile.bundleAt 0x40).reserved = [] ∧ (packed.tile.bundleAt 0x40).reserved = [] := by decide

/-- R182, R193: in one step both slots read the registers as they stood at issue, and execution goes on at the successor. -/
theorem test_step_runs_the_bundle :
  let t := stepped (turnAt (machine [(3, 0x100)]) 0x40 [0, 0x08630040, 0, 0x04838008, 0, 0, 0, 0])
  (t.tile.thr.regs.getS 3).val = 0x140 ∧ (t.tile.thr.regs.getS 4).val = 0 ∧ t.tile.thr.pc = 0x60 := by decide

/-- Chapter "Tile traps and replay", the example of R337: an out-of-range load under ENOOR traps while its sibling completes. -/
theorem test_trap_entry :
  let s := withCr (machine [(4, 0x1FBFFC)]) [(0x023, 0x8000000000001000)]
  let t := stepped (turnAt s 0x400 [0, 0x0884F000, 0, 0x04A48008, 0, 0, 0, 0])
  (t.tile.thr.regs.getS 4).val = 0x1FAFFC ∧ (t.tile.thr.regs.getS 5).val = 0 ∧ t.cr 0x020 = 0x800000000000030A ∧ t.cr 0x021 = 0x42000000400 ∧
  t.cr 0x022 = 8 ∧ t.cr 0x024 = 0x1FBFFC ∧ t.cr 0x025 = 0 ∧ t.cr 0x027 = 0 ∧ t.cr 0x028 = 0x1FC004 ∧ t.cr 0x030 = 0x1FC004 ∧
  t.cr 0x031 = 1 ∧ t.tile.thr.pc = 0x1000 := by decide

/-- Chapter "Instruction-by-instruction failure table", the example's first entry: one reserved slot, and no slot executes. -/
theorem test_reserved_word_entry :
  let s := withCr (machine [(4, 0x1FFFF8), (7, 5), (8, 2)]) [(0x014, 1), (0x023, 0x8000000000001000)]
  let t := stepped (turnAt s 0x800 [0x5A, 0x04E74000, 0x04A48008, 0x04400807, 0x20600002])
  t.cr 0x020 = 0x8000000000000401 ∧ t.cr 0x028 = 0x1304400807 ∧ t.cr 0x022 = 0x5A5A ∧ t.cr 0x021 = 0x81400000800 ∧ t.cr 0x024 = 0 ∧
  t.cr 0x031 = 0 ∧ (t.tile.thr.regs.getS 7).val = 5 := by decide

/-- The same example's second entry: slots 1, 3 and 6 replay from the registers, two of them fault, and the lower one reports. -/
theorem test_replay_of_two_faults :
  let s := withCr (machine [(4, 0x1FFFF8), (7, 5), (8, 2)]) [(0x014, 1), (0x023, 0x8000000000001000)]
  let s1 := turnAt s 0x800 [0x5A, 0x04E74000, 0x04A48008, 0x04400807, 0x20600002]
  let t := stepped (s1.onThr fun h => { h with pc := 0x814, replay := some ⟨0x4A, 0x5A, 0x800, 0x814⟩ })
  (t.tile.thr.regs.getS 7).val = 7 ∧ t.cr 0x020 = 0x8000000000000B0A ∧ t.cr 0x028 = 0x200000 ∧ t.cr 0x024 = 0x1FFFF8 ∧ t.cr 0x022 = 0x48 ∧
  t.cr 0x021 = 0x81400000800 ∧ t.cr 0x031 = 1 ∧ t.cr 0x030 = 0x200000 := by decide

/-- R197: a loop counter of 2 goes back once. R195: CALL leaves the address of its successor in s31. -/
theorem test_transfers :
  let s := (machine []).onRegs fun r => r.setLC 1 ⟨2, 0x20, 0x40, true⟩
  (loopAct 0x40 0x60 [1] s.tile.thr.regs).2 = 0x20 ∧ (loopAct 0x40 0x60 [1] (loopAct 0x40 0x60 [1] s.tile.thr.regs).1).2 = 0x60 ∧
  (stepped (turnAt (machine []) 0x40 [0x0C000100, 0, 0, 0, 0, 0, 0, 0])).tile.thr.pc = 0x400 ∧
  ((stepped (turnAt (machine []) 0x40 [0x0C000100, 0, 0, 0, 0, 0, 0, 0])).tile.thr.regs.getS 31).val = 0x60 := by decide

/-! ### Memory, requests and units -/

/-- R219 to R221: bytes lie lowest first, a load extends its sign, and bytes out of range read as zero. -/
theorem test_memory :
  let s := after (.std 2 1 8) (machine [(1, 0x100), (2, 0x8899AABBCCDDEEFF)])
  byteAt s 0x108 = 0xFF ∧ byteAt s 0x10F = 0x88 ∧ byteAt s 0x110 = 0 ∧ sAfter (.ldh 3 1 14) s 3 = 0xFFFFFFFFFFFF8899 ∧
  sAfter (.ldwz 3 1 8) s 3 = 0xCCDDEEFF ∧ sAfter (.ldb 3 1 0x1FFF) s 3 = 0 ∧ sAfter (.ldx 3 1 0 1 6) s 3 = 0 ∧
  s.tile.mem.wf = true ∧ (after (.std 0 1 8) s).tile.mem = [] := by decide

/-- Chapter "Memory servers", the example of R134: the home of VA 0x10_0012_0000 is server 0x92. -/
theorem test_home : homeOf 0x1000120000 = 0x92 ∧ homeOf 0x1000130000 = 0x93 := by decide

/-- Chapter "Introduction", the example of ranks: endpoint 0x259 of package 3. -/
theorem test_rank : { machine [] with pkg := 3 }.rankOf 0x259 = 0x3259 := by decide

/-- Chapter "Network instructions", the example of R272: a GET of 8,192 bytes over two servers, DG clear, bumping NB5. Its first shard leaves and
touches its server; the second waits for its turn (R119, R126). -/
theorem test_get_over_two_servers :
  let t := after (.get 2 4 5 6) (machine [(4, 0x100012F000), (5, 0x1600000900002000), (6, 0x4000)])
  t.cr 0x042 = 0x40000 ∧ (t.tile.ni.ents.map fun e => (e.group, e.nb, e.len, e.buf, e.unsent)) = [(9, some 5, 8192, .store 0x4000 t.tile.ranges, [1])] ∧
  (t.tile.ni.ents.flatMap fun e => e.shards.map fun h => (h.shard.srv, h.shard.no, h.shard.pieces)) =
    [(0x92, 0, [⟨0, 0x100012F000, 4096⟩]), (0x93, 1, [⟨4096, 0x1000130000, 4096⟩])] ∧ t.torus.length = 1 := by decide

/-- Chapter "Control flow and synchronisation", the example of R201: two bumps of NB3 with PHASE 5, TARGET 2 and COUNT 1. -/
theorem test_named_barrier :
  nbBump 0x0500000200000001 2 = 0x0600000200000001 ∧
  (after (.waitb 7 3) (withCr (machine [(7, 6)]) [(0x083, 0x0500000200000001)])).tile.iss.stall = some (.waitb 3) ∧
  (after (.waitb 7 3) (withCr (machine [(7, 5)]) [(0x083, 0x0500000200000001)])).tile.iss.stall = none := by decide

/-- Chapter "Load, store and block moves", the example of R225: 512 bytes keep the engine for 6 steps, and MLDBG waits for generation 8. -/
theorem test_anvil_move :
  let s := { withCr (machine [(4, 0x2000), (5, 0x100300000000), (7, 0x300000000), (8, 8)]) [(0x0D3, 7)] with owner := [(0, some 0)] }
  let t := after (.anvw 4 5) s
  t.tile.eng.store = 1006 ∧ t.cr 0x0D3 = 7 ∧ (after .anvwComplete { t with cycle := 1006 }).cr 0x0D3 = 8 ∧
  (after (.mldbg 7 8 2) t).tile.iss.stall = some (.mldbg 3) ∧ (after (.mldbg 7 8 2) { after .anvwComplete { t with cycle := 1006 } with cycle := 1006 }).tile.iss.stall = none := by
  decide

/-- Chapter "The belief unit", the example of R285: old Λ 0.25 and η 0, new Λ 0.5 and η 1.5, β 0.5. -/
theorem test_damping :
  dampOne 0x3F000000 0x3E800000 0x3F000000 = 0x3EC00000 ∧ dampOne 0x3F000000 0 0x3FC00000 = 0x3F400000 ∧
  dampOne 0x3F800000 0x7F800000 0 = 0x7F800000 := by decide

/-- Chapter "The step sequencer", the example of R293: +3 on element 1 and −3 on element 2 change eight lanes by 6. -/
theorem test_signature :
  let m : Memory := [(0x106, 0x40), (0x107, 0x40), (0x10A, 0x40), (0x10B, 0xC0)]
  let s := machine [(1, 0x100), (2, 0x10), (3, 0x2000)]
  let t := (after (.sig 0 1 2) (s.onTile fun t => { t with mem := m })).tile.thr.regs.getSig 0
  ((List.range 16).map fun n => (t.extractLsb' (32 * n) 32 : W32).toInt) = [0, -6, 6, 0, 0, -6, 6, 0, 0, -6, 6, 0, 0, -6, 6, 0] := by decide

/-- Chapter "The host interface", the example of R309: 17 descriptors do not fit a ring of 16. -/
theorem test_ring_overrun :
  let f : HostFn := { HostFn.zero with sqSize := 16, sqHead := 14, sqTail := 14 }
  ((after (.sqtailWrite 0 31) { machine [] with fns := [(0, f)] }).getFn 0).qerr = true ∧
  ((after (.sqtailWrite 0 30) { machine [] with fns := [(0, f)] }).getFn 0).qerr = false := by decide

/-- Chapter "Number formats", the example of R70: two products of 2^-24 and 1.0 are summed exactly and rounded once. -/
theorem test_matrix_sum :
  let a := scaled (Fmt.e4m3.decode 8) 0x3F800000
  let b := scaled (Fmt.e4m3.decode 8) 0x39800000
  mmaDot [a, a] [b, b] 0x3F800000 = (0x3F800001, 0) := by decide

/-! ### States that meet the hypotheses of the statements, clause by clause -/

/-- A machine whose addresses are in s1 to s3. -/
def base : State := machine [(1, 0x100), (2, 0x40), (3, 0x2340)]
/-- Outside handler mode with a handler at 0x2000, in slot `k` of a bundle without a loop. -/
def handled (k : Nat) : State := (withCr base [(0x023, 0x2000)]).onIss fun i => { i with slot := k }
def inHandler : State := withCr base [(0x020, 0x8000000000000003), (0x021, 0x6000000040), (0x023, 0x2000)]
def inFlight (r : Reg) (s : State) : State := s.onThr fun h => { h with land := [⟨r, s.cycle + 2, 0⟩] }

theorem meets_IntegerArithmetic : (Unpoisoned base ∧ base.clash (.s 31) = false) ∧
    ∀ k ∈ [1, 2], k ∈ [1, 2] ∧ (0x04000016#32).toNat / 2 ^ 26 = 0x01 ∧ 0x016 ≤ (0x04000016#32).toNat % 2 ^ 11 := by
  simp only [Unpoisoned]; decide

theorem meets_IntegerImmediates : (Unpoisoned base ∧ base.clash (.s 31) = false) ∧
    ((0x1800C000#32).toNat / 2 ^ 26 = 0x06 ∧ (0x1800C000#32).toNat / 2 ^ 14 % 4 = 3) ∧
    ((0x18002000#32).toNat / 2 ^ 26 = 0x06 ∧ (0x18002000#32).toNat / 2 ^ 14 % 4 ≠ 3 ∧ (0x18002000#32).toNat / 2 ^ 6 % 2 ^ 8 ≠ 0) ∧
    ((0x1C010000#32).toNat / 2 ^ 26 = 0x07 ∧ (0x1C010000#32).toNat / 2 ^ 16 % 2 ^ 5 ≠ 0) ∧
    ((0x20040000#32).toNat / 2 ^ 26 = 0x08 ∧ (0x20040000#32).toNat / 2 ^ 18 % 2 ^ 3 ≠ 0) := by
  simp only [Unpoisoned]; decide

theorem meets_ComparisonsAndSelection : (Unpoisoned base ∧ base.clash (.s 31) = false ∧ base.clash (.p 7) = false ∧ (5#3).toNat ≤ 5) ∧
    ((0x24000006#32).toNat / 2 ^ 26 = 0x09 ∧ 6 ≤ (0x24000006#32).toNat % 8) ∧
    ((0x2800C000#32).toNat / 2 ^ 26 = 0x0A ∧ 6 ≤ (0x2800C000#32).toNat / 2 ^ 13 % 8) ∧
    ((0x24200005#32).toNat / 2 ^ 26 = 0x09 ∧ (0x24200005#32).toNat % 8 < 6 ∧ (0x24200005#32).toNat / 2 ^ 21 % 4 ≠ 0) ∧
    ((0x2820A000#32).toNat / 2 ^ 26 = 0x0A ∧ (0x2820A000#32).toNat / 2 ^ 13 % 8 < 6 ∧ (0x2820A000#32).toNat / 2 ^ 21 % 4 ≠ 0) ∧
    ((0x2C000008#32).toNat / 2 ^ 26 = 0x0B ∧ (0x2C000008#32).toNat / 2 ^ 3 % 2 ^ 8 ≠ 0) := by
  simp only [Unpoisoned]; decide

theorem meets_BitFieldsAndPredicates : (Unpoisoned base ∧ base.clash (.s 31) = false ∧ base.clash (.p 7) = false) ∧
    ((0x30002000#32).toNat / 2 ^ 26 = 0x0C ∧ (0x30002000#32).toNat / 2 ^ 13 % 8 ≠ 0) ∧
    ((0x34001000#32).toNat / 2 ^ 26 = 0x0D ∧ (0x34001000#32).toNat / 2 ^ 12 % 16 ≠ 0) ∧
    ((0x38000004#32).toNat / 2 ^ 26 = 0x0E ∧ (0x38000004#32).toNat / 2 ^ 2 % 2 ^ 9 ≠ 0) := by
  simp only [Unpoisoned]; decide

theorem meets_ScalarFloatingPoint :
    Unpoisoned base ∧ base.clash (.f 15) = false ∧ base.clash (.s 31) = false ∧ base.clash (.p 7) = false := by
  simp only [Unpoisoned]; decide

/-- NaN, infinities of either sign, zeros of either sign and the least number, with the highest rounding mode. -/
theorem meets_FloatingPointCorners :
    let nan (z : W32) : Prop := z.toNat / 2 ^ 23 % 256 = 255 ∧ z.toNat % 2 ^ 23 ≠ 0
    let inf (z : W32) : Prop := z.toNat % 2 ^ 31 = 0x7F800000
    let zero (z : W32) : Prop := z.toNat % 2 ^ 31 = 0
    let neg (z : W32) : Bool := z.getLsbD 31
    3 < 4 ∧ nan 0x7F800001 ∧ ¬nan 0x7F800000 ∧ (inf 0x7F800000 ∧ inf 0xFF800000 ∧ neg 0x7F800000 ≠ neg 0xFF800000) ∧
    (zero 0 ∧ zero 0x80000000 ∧ inf 0x7F800000) ∧ (¬nan 1 ∧ ¬inf 1 ∧ ¬zero 1) ∧ (¬nan 0x80000001 ∧ ¬zero 0x80000001 ∧ neg 0x80000001 = true) := by
  decide

theorem meets_TransfersWritePcAndLink : Unpoisoned base ∧ base.clash (.s 31) = false ∧ (base.opS 0 31).ok = true := by
  simp only [Unpoisoned]; decide

/-- p0 is true and p1 false; p7 is in flight. -/
theorem meets_BranchOnPredicate :
    let s := inFlight (.p 7) base
    Unpoisoned base ∧ Unpoisoned s ∧
    (base.flying (.p 7) = false ∧ base.source.regs.getP 0 ≠ decide (0#1 = 1) ∧ ¬base.source.regs.getP 1 ≠ decide (0#1 = 1)) ∧
    ((7#3) ≠ 0 ∧ s.flying (.p 7) = true ∧ s.tile.iss.entering = false ∧ s.tile.spec = none) := by
  simp only [Unpoisoned]; decide

theorem meets_HardwareLoops :
    (Unpoisoned base ∧ (base.opS 0 1).val.toNat % 2 ^ 32 ≠ 0 ∧ (base.opS 0 0).val.toNat % 2 ^ 32 = 0) ∧
    ((1#32) ≠ 0 ∧ (Regs.zero.setLC 3 ⟨1, 0, 0, true⟩).getLC 3 = ⟨1, 0, 0, true⟩) ∧
    ((0xFFFFFFFF#32) ≠ 0 ∧ (Regs.zero.setLC 0 ⟨0xFFFFFFFF, 0x20, 0x40, true⟩).getLC 0 = ⟨0xFFFFFFFF, 0x20, 0x40, true⟩) := by
  simp only [Unpoisoned]; decide

theorem meets_TakingATrap :
    ((handled 7).hm = false ∧ ((handled 7).cr 0x023).toNat % 2 ^ 18 ≠ 0 ∧ Poison.capture ∉ (handled 7).tile.poison ∧ 255 < 256 ∧ 7 < 8 ∧
      0x3FFE0 < 2 ^ 18) ∧
    (inHandler.tile.twin = none ∧ inHandler.hm = true) ∧ (base.tile.twin = none ∧ (base.cr 0x023).toNat % 2 ^ 18 = 0) ∧
    (((handled 7).onTile fun t => { t with poison := [.capture] }).tile.poison = [Poison.capture]) := by decide

theorem meets_TrapAndReturn :
    let held := base.onIss fun i => { i with hold := true }
    let slots := withCr inHandler [(0x022, 0x8080)]
    (held.tile.spec = none ∧ held.tile.iss.hold = true) ∧
    (inHandler.tile.spec = none ∧ inHandler.hm = true ∧ (inHandler.cr 0x022).toNat % 256 = 0 ∧ inHandler.tile.thr.pend = []) ∧
    (slots.tile.spec = none ∧ slots.hm = true ∧ (slots.cr 0x022).toNat % 256 ≠ 0) ∧
    (Unpoisoned (handled 0) ∧ (handled 0).tile.spec = none ∧ (handled 0).hm = false ∧ ((handled 0).cr 0x023).toNat % 2 ^ 18 ≠ 0 ∧
      ((handled 0).source.regs.getC 0x020).getLsbD 63 = false ∧ (handled 0).tile.iss.slot = 0 ∧ (handled 0).tile.iss.others = [] ∧
      (0x027#12).toNat ∈ [0x021, 0x022, 0x024, 0x025, 0x026, 0x027]) := by
  simp only [Unpoisoned]; decide

/-- Every address below the reserved area. -/
def inStore : List (Nat × Nat) := [(0, 0x1FC000)]
/-- An entry of an interface. -/
def entry (id : Nat) (kind : EKind) (phase : Phase) : Ent :=
  { Ent.fresh id kind with phase, rank := 5, tag := 7, len := 64, buf := .store 0x110 inStore, xid := 9 }
def withEnts (s : State) (l : List Ent) : State := s.onTile fun t => { t with ni := { t.ni with ents := l, nextId := 60 } }

theorem meets_EndAndDonew :
    let recv := withEnts base [entry 4 .post .posted]
    let send := (withEnts base [entry 8 .send .awaitAck]).onIss fun i => { i with first := 9 }
    (recv.tile.spec = none ∧ recv.tile.ep < 0x400 ∧ recv.tile.twin = none ∧ ∀ e ∈ recv.tile.ni.ents, e.kind.isRecv = true) ∧
    base.tile.ni.ents = [] ∧
    ((∀ e ∈ send.tile.ni.ents, e.kind ≠ .publ) ∧
      ∃ e ∈ send.tile.ni.ents, e.kind.isSend = true ∧ e.phase ≠ .done ∧ e.id < send.tile.iss.first) ∧
    (Unpoisoned recv ∧ Confirmed recv ∧ recv.pkg < 2 ^ 20 ∧ recv.tile.ni.full .donew = false ∧ NothingWaits recv) := by
  simp only [Unpoisoned, Confirmed, NothingWaits]; decide

/-- A barrier with and without a TARGET; PHASE 0 is behind a wait for 1 and for 128, and not behind one for 0 or 129. -/
theorem meets_NamedBarriers :
    let behind (v : Word) : Int := ((v.toNat % 256 : Int) - (base.cr 0x0BF).toNat / 2 ^ 56) % 256
    ((0x0500000200000001#64).toNat / 2 ^ 32 % 2 ^ 24 ≠ 0 ∧ (0x0500000000000001#64).toNat / 2 ^ 32 % 2 ^ 24 = 0) ∧
    (Unpoisoned base ∧ Confirmed base ∧ ∀ b ∈ base.tile.ni.bumps, b.1 ≠ (63#6).toNat) ∧
    (1 ≤ behind 1 ∧ behind 128 ≤ 128 ∧ 1 ≤ behind 128) ∧ ¬(1 ≤ behind 0) ∧ ¬(behind 129 ≤ 128) := by
  simp only [Unpoisoned, Confirmed]; decide

/-- A record of 64 bytes: one tile of partition 0 at priority 3, with a lease of 1000 µs. -/
def recordOf (extent lease stage flags : Nat) : List Byte :=
  toLE 6 0x10000 ++ toLE 2 0 ++ toLE 4 192 ++ toLE 2 9 ++ toLE 1 0 ++ toLE 1 3 ++ toLE 4 (2 * 2 ^ 28 + extent) ++ toLE 12 0 ++ toLE 4 lease ++
  toLE 2 flags ++ toLE 2 stage ++ toLE 16 0 ++ toLE 6 0x123456 ++ toLE 2 0
/-- A valid image header: 128 instruction bytes, entry 0x40. -/
def imageHeader : List Byte := toLE 4 0x584E4D41 ++ toLE 4 0 ++ toLE 4 128 ++ toLE 4 0 ++ toLE 4 0x100 ++ toLE 4 0x40 ++ toLE 40 0
def launchOf (n : Nat) (st : LState) (raw : List Byte) (tiles : List Nat) : Launch :=
  { n, launcher := 1, tag := 0x55, group := 3, lrec := LaunchRec.ofBytes raw, st, since := 1000, boost := 0, header := imageHeader, tiles
    fetched := [], placedAt := 0, suspAt := 0, suspended := 0, parkedBy := none, recordAt := none, accepted := 0, by_ := 0, halt := false }
/-- A package whose first three tiles belong to partition 0, with a launch, the tile in focus running gang `g`. -/
def placed (l : List Launch) (g : Nat) (run : Run) : State :=
  { base with owner := [(0, some 0), (1, some 0), (2, some 0)], time := 20000000000, launches := l, tile := { base.tile with gang := g, run } }

theorem meets_WaitingInstructions :
    let stage := placed [launchOf 1 .placed (recordOf 1 1000 0x0105 0) [0]] 1 .running
    let asleep := machine [(1, 55001), (2, 55000)]
    let touched := withCr base [(0x042, 0x8000000000000000)]
    let busy := base.onTile fun t => { t with eng := { t.eng with store := 1001 } }
    let sending := withEnts touched [{ entry 4 .put .shards with unsent := [0] }]
    let asked := withEnts touched [entry 4 .put .shards, entry 5 .send .queued]
    let sent (e : Ent) : Bool := !e.kind.isReq || !e.pairWait && e.unsent.isEmpty
    (Unpoisoned base ∧ Confirmed base ∧ base.bindsStage = false ∧ base.tile.thr.land = []) ∧
    (Unpoisoned stage ∧ Confirmed stage ∧ stage.bindsStage = true ∧ stage.hm = false ∧ stage.tile.item = []) ∧
    (asleep.time < (asleep.opS 0 1).val.toNat ∧ (asleep.opS 0 2).val.toNat ≤ asleep.time) ∧
    (base.tile.ep < 0x400 ∧ base.tile.ni.fence = none ∧ base.tile.ni.ents = [] ∧ ∀ k < 3, base.cr (0x040 + k) = 0) ∧
    (Confirmed sending ∧ sending.tile.ni.fence = none ∧ sending.tile.ni.ents.all sent = false) ∧
    (Confirmed asked ∧ asked.tile.ni.fence = none ∧ asked.tile.ni.ents.all sent = true ∧ (asked.cr (0x040 + 191 / 64)).getLsbD (191 % 64) = true ∧
      191 ∉ asked.mgmt.outMask) ∧
    (base.matrixBusy = false ∧ base.storeBusy = false) ∧ busy.storeBusy = true := by
  simp only [Unpoisoned, Confirmed]; decide

/-- WAITW's results clash with nothing. -/
theorem meets_WaitingInstructions_clash (r : Reg) : base.clash r = false := rfl

theorem meets_ControlRegisters :
    let crs := base.tile.spec = none
    (Unpoisoned base ∧ Confirmed base ∧ base.clash (.s 31) = false ∧ base.flying (.cr 0x0DF) = false ∧ ∀ l ∈ base.source.land, l.ready ≤ base.cycle) ∧
    (crs ∧ inHandler.tile.spec = none ∧ inHandler.hm = true) ∧ (0x060 ≤ (0x06F#12).toNat ∧ (0x06F#12).toNat ≤ 0x06F) ∧
    (0x0BF#12).toNat = 0x080 + (63#6).toNat ∧ ((0x0D0 ≤ (0x0DF#12).toNat ∧ (0x0DF#12).toNat ≤ 0x0DF) ∧ (0x012#12).toNat ≤ 0x012) := by
  simp only [Unpoisoned, Confirmed]; decide

theorem meets_RegisterRulesAndLandings :
    let s := withCr base [(0x018, 0x100), (0x019, 0x1FBF00)]
    let none_ : Prop := (base.tile.ni.unexp.all fun u => u.units.isEmpty) ∧ (base.tile.ni.ents.all fun e => e.units.isEmpty)
    base.tile.ep < 0x400 ∧ none_ ∧
    ((0x1F0000#64).toNat % 256 = 0 ∧ (base.cr 0x019).toNat % 256 = 0 ∧ (0x1F0000#64).toNat + (base.cr 0x019).toNat ≤ 0x1FC000) ∧
    ((s.cr 0x018).toNat % 256 = 0 ∧ (0x1FBF00#64).toNat % 256 = 0 ∧ (s.cr 0x018).toNat + (0x1FBF00#64).toNat ≤ 0x1FC000) ∧
    ¬((0x1F0100#64).toNat + (base.cr 0x019).toNat ≤ 0x1FC000) ∧
    ((∀ b ∈ base.tile.ni.bumps, b.1 ≠ (63#6).toNat) ∧
      (0x0200000500000004#64).toNat % 2 ^ 24 < (0x0200000500000004#64).toNat / 2 ^ 32 % 2 ^ 24) ∧ (2#2).toNat < 3 := by decide

/-- A path that stands, or falls with and without its branch taken; a WAITM that the watchdog ends. -/
def onPath (guess truth : Bool) (ready : Nat) (s : State) : State :=
  s.onTile fun t => { t with spec := some ⟨t.thr, [], [], [], 0, 0, 1, guess, truth, 0x200, 0x40, 0x60, ready⟩ }

theorem meets_SpeculationAndWatchdog :
    let p (s : State) : Option (Nat × Bool × Bool × Bool) :=
      s.tile.spec.map fun p => (p.ready, p.guess, p.truth, p.stores.isEmpty && p.covers.isEmpty)
    let w := (withCr (handled 6) [(0x0C0, 0x500000005)]).onIss fun i => { i with stall := some (.waitm 15) }
    base.tile.spec = none ∧ (p (onPath true true 1001 base) = some (1001, true, true, true) ∧ base.cycle < 1001) ∧
    p (onPath true true 1000 base) = some (1000, true, true, true) ∧ p (onPath false true 1000 base) = some (1000, false, true, true) ∧
    p (onPath true false 1000 base) = some (1000, true, false, true) ∧
    (Confirmed base ∧ base.tile.iss.stall = none) ∧
    (Confirmed w ∧ w.tile.iss.stall = some (.waitm 15) ∧ (w.cr 0x0C0).toNat % 2 ^ 32 ≠ 0 ∧
      (w.cr 0x0C0).toNat % 2 ^ 32 ≤ (w.cr 0x0C0).toNat / 2 ^ 32 % 2 ^ 24 ∧ w.hm = false ∧ (w.cr 0x023).toNat % 2 ^ 18 ≠ 0 ∧ w.tile.thr.endStep ≠ 3 ∧
      w.tile.thr.replay = none ∧ w.tile.thr.pc < 2 ^ 18) := by
  simp only [Confirmed]; decide

theorem meets_OperandChecksTrap_record :
    let full := withCr base [(0x031, 1)]
    let by_ (k : Nat) := full.onIss fun i => { i with oorBy := some (k, 0x1FC000) }
    (base.cr 0x031).getLsbD 0 = false ∧ ((full.cr 0x031).getLsbD 0 = true ∧ full.tile.iss.oorBy = none) ∧
    ((by_ 4).tile.iss.oorBy = some (4, 0x1FC000) ∧ (by_ 4).tile.iss.slot < 4) ∧ ((by_ 3).tile.iss.oorBy = some (3, 0x1FC000) ∧ 3 ≤ (by_ 3).tile.iss.slot) := by decide
theorem meets_OperandChecksTrap :
    let s := withCr (machine [(1, 0x1FBFF9), (2, 0x1FC000)]) [(0x023, 0x8000000000002000)]
    let wrong := (handled 3).onRegs fun r => r.setS 1 ⟨0x100, 5⟩
    let oneWrong := base.onRegs fun r => r.setS 1 ⟨0x100, 5⟩
    let b := (handled 7).onRegs fun r => ((r.setB 1 ⟨0, 0, 2, false, false, true⟩).setB 2 ⟨0, 0, 2, false, false, false⟩).setF 1 0x7F800000
    (Unpoisoned s ∧ s.tile.spec = none ∧ s.hm = false ∧ (s.cr 0x023).toNat % 2 ^ 18 ≠ 0 ∧ s.storeBusy = false ∧ (s.opS 0 1).ok = true ∧
      s.tile.oor ((s.opS 0 1).val + (0#13).signExtend 64) 8 = some 0x1FC000 ∧ (s.cr 0x023).getLsbD 63 = true ∧
      (s.source.regs.getC 0x020).getLsbD 63 = false ∧ s.tile.iss.others = [] ∧ s.tile.iss.slot = 3 ∧ s.tile.iss.loops = false) ∧
    s.tile.oor ((s.opS 0 2).val + (0#13).signExtend 64) 8 = some 0x1FC000 ∧
    (Unpoisoned wrong ∧ wrong.tile.spec = none ∧ wrong.hm = false ∧ (wrong.cr 0x023).toNat % 2 ^ 18 ≠ 0 ∧ wrong.storeBusy = false ∧
      (wrong.opS 0 1).ok = false ∧ (wrong.source.regs.getC 0x020).getLsbD 63 = false ∧ wrong.tile.iss.others = [] ∧ wrong.tile.iss.slot = 3 ∧
      wrong.tile.iss.loops = false) ∧
    (Unpoisoned oneWrong ∧ oneWrong.clash (.s 31) = false ∧ (oneWrong.opS 0 1).res.toNat < 15 ∧ (oneWrong.opS 1 2).res.toNat < 15 ∧
      (oneWrong.opS 0 1).ok ≠ (oneWrong.opS 1 2).ok) ∧
    (Unpoisoned b ∧ b.tile.spec = none ∧ b.hm = false ∧ b.tile.iss.slot = 7 ∧ b.tile.iss.others = [] ∧ b.tile.iss.loops = false) ∧
    (b.rdB 1).inv = true ∧
    ((b.rdB 2).inv = false ∧ (b.rdB 2).nf = false ∧ 0 < (b.rdB 2).dim ∧
      fpCmp 2 (BitVec.ofNat 32 (b.rdC 0x071).toNat) ((b.rdB 2).lamAt 0 0) = false ∧ (f32 ((b.rdB 2).lamAt 0 0)).isNan = false) ∧
    betaOk (b.opF 0 1) = false ∧ (b.opF 0 1).toNat / 2 ^ 23 % 256 = 255 ∧
    (Confirmed (handled 6) ∧ (handled 6).rdH 15 = none ∧ (handled 6).hm = false ∧ Poison.capture ∉ (handled 6).tile.poison ∧ ((handled 6).cr 0x023).toNat % 2 ^ 18 ≠ 0 ∧
      ((handled 6).source.regs.getC 0x020).getLsbD 63 = false ∧ (handled 6).tile.iss.slot = 6 ∧ (handled 6).tile.iss.others = [] ∧
      (handled 6).tile.iss.loops = false) := by
  simp only [Unpoisoned, Confirmed]; decide

/-- The last bytes in range and the first beyond them, with ENOOR clear; and a range that is whole under ENOOR. -/
theorem meets_ScalarLoads :
    let s := machine [(1, 0x1FBFF8), (2, 0x1FC000)]
    let e := withCr base [(0x023, 0x8000000000002000)]
    (Unpoisoned s ∧ s.storeBusy = false ∧ (s.opS 0 1).ok = true ∧ s.clash (.s 31) = false ∧ s.clash (.f 15) = false) ∧
    s.tile.oor (s.opS 0 1).val 8 = none ∧ (s.tile.oor (s.opS 0 2).val 1 ≠ none ∧ (s.cr 0x023).getLsbD 63 = false) ∧
    (e.tile.oor (e.opS 0 1).val 8 = none ∧ (e.cr 0x023).getLsbD 63 = true) ∧ ((6#3).toNat ≤ 6 ∧ (s.opS 1 2).ok = true) := by
  simp only [Unpoisoned]; decide

theorem meets_ScalarStores :
    let s := machine [(1, 0x1FBFF8), (2, 0x1FC000)]
    (Unpoisoned s ∧ s.tile.spec = none ∧ s.storeBusy = false ∧ s.tile.eng.mma = [] ∧ s.tile.eng.msto = [] ∧ (s.opS 0 31).ok = true ∧
      (s.opS 1 1).ok = true ∧ (s.opS 1 2).ok = true) ∧
    s.tile.oor (s.opS 1 1).val 8 = none ∧ (s.tile.oor (s.opS 1 2).val 1 ≠ none ∧ (s.cr 0x023).getLsbD 63 = false) ∧
    ((6#3).toNat ∈ [0, 2, 4, 6] ∧ (s.opS 2 2).ok = true) := by
  simp only [Unpoisoned]; decide

theorem meets_VectorLoadsAndStores :
    (Unpoisoned base ∧ base.storeBusy = false ∧ (base.opS 0 1).ok = true ∧ base.clash (.v 31) = false ∧ (base.opS 1 2).ok = true ∧
      (base.rdV 2).badLane = none ∧ base.tile.spec = none ∧ base.tile.eng.mma = [] ∧ base.tile.eng.msto = [] ∧ (base.rdV 31).badLane = none) ∧
    (∀ n < 64, base.tile.oor ((base.opS 0 1).val + BitVec.ofInt 64 (0#16).toInt + BitVec.ofNat 64 (4 * n)) 4 = none) ∧
    (∀ n < 64, base.tile.oor ((base.opS 0 1).val + BitVec.ofNat 64 n * (base.opS 1 2).val) 4 = none) ∧
    ∀ n < 64, base.tile.oor ((base.opS 0 1).val + BitVec.ofNat 64 (lane (base.rdV 2).bits n).toNat) 4 = none := by
  simp only [Unpoisoned]; decide

theorem meets_BlockMoves :
    let s := machine [(1, 0x100), (2, 0x1FBF00), (3, 0x1FB000), (4, 0x100)]
    (Unpoisoned s ∧ s.tile.spec = none ∧ s.storeBusy = false ∧ s.tile.eng.mma = [] ∧ s.tile.eng.msto = []) ∧
    ((s.opS 0 2).ok = true ∧ (s.opS 1 4).ok = true ∧ s.tile.oor (s.opS 0 2).val ((s.opS 1 4).val.toNat % 2 ^ 32) = none) ∧
    ((s.opS 2 4).ok = true ∧ (s.opS 1 1).ok = true ∧ s.tile.oor (s.opS 1 1).val ((s.opS 2 4).val.toNat % 2 ^ 32) = none) ∧
    (s.flying (.xa 1) = false ∧ s.tile.oor ((s.opS 0 3).val + BitVec.ofInt 64 (0#13).toInt) 4096 = none) := by
  simp only [Unpoisoned]; decide

/-- The whole of region 0 and 64 bytes at its end. -/
theorem meets_AnvilMoves :
    let s := { machine [(1, 0x100), (2, 64 * 2 ^ 35 + 0x7FFC0)] with owner := [(0, some 0)] }
    let y := (s.opS 1 2).val
    let ab := (s.cr 0x0D8).toNat
    Unpoisoned s ∧ s.tile.spec = none ∧ s.tile.eng = Engine.idle ∧ s.tile.ni.ents = [] ∧ s.tile.latch = none ∧
    s.tile.retained (y.toNat / 2 ^ 32 % 8) = none ∧ (s.opS 0 1).ok = true ∧ (s.opS 1 2).ok = true ∧ y.toNat / 2 ^ 32 % 8 = 0 ∧
    y.toNat / 2 ^ 22 % 2 ^ 10 = 0 ∧ s.partOf s.tile.ep = some (ab / 2 ^ 32 % 64) ∧
    y.toNat % 2 ^ 22 + y.toNat / 2 ^ 35 ≤ ab / 2 ^ 16 % 128 * 65536 ∧ s.tile.oor (s.opS 0 1).val (y.toNat / 2 ^ 35) = none := by
  simp only [Unpoisoned]; decide

/-- The job of an ANVW that has ended. -/
theorem meets_AnvilMoves_complete :
    let s := base.onTile fun t => { t with eng := { t.eng with anvw := [⟨7, 0, 0, 1, 64, 1000, []⟩] } }
    ∀ q ∈ s.tile.eng.anvw, q.acc < 8 ∧ q.until_ ≤ s.cycle := by decide

theorem meets_VectorLaneOperations : Unpoisoned base ∧ base.clash (.v 31) = false ∧ (base.rdM 0).getLsbD 63 = true ∧ (base.rdM 7).getLsbD 63 = false ∧
    LaneOk (base.rdV 31) 63 := by
  simp only [Unpoisoned, LaneOk]; decide

/-- v2 holds a sidecar of scale 1.0 in both blocks. -/
def sidecars : State := base.onRegs fun r => r.setV 2 (VVal.ofBits (0x3F800000 ||| (0x3F800000 <<< 64)))
theorem meets_PackedConversions : Unpoisoned sidecars ∧ sidecars.clash (.v 31) = false ∧
    ∀ i < 64, sidecarOk ((sidecars.rdV 2).bits.extractLsb' (64 * (i / 32)) 64) = true := by
  simp only [Unpoisoned]; decide

theorem meets_MasksReductionsAccumulation : Unpoisoned base ∧ (9#8).toNat ≤ 9 ∧ base.clash (.m 7) = false ∧ base.clash (.v 31) = false ∧
    base.clash (.s 31) = false ∧ base.clash (.f 15) = false ∧ base.clash (.xa 1) = false := by
  simp only [Unpoisoned]; decide

/-- A block that ends with region 0; AGEN0 equal to sb, and behind it. -/
theorem meets_LatchingBlocks :
    let s := { machine [(1, 0x80000 - 8448), (2, 1)] with owner := [(0, some 0)] }
    let x := (s.opS 0 1).val
    let ab := (s.cr 0x0D8).toNat
    Unpoisoned s ∧ Confirmed s ∧ (0#3).toNat ≤ 4 ∧ s.tile.eng = Engine.idle ∧ s.tile.ni.ents = [] ∧ s.tile.retained (x.toNat / 2 ^ 32 % 8) = none ∧
    x &&& 0xFFFFFFF8FFC00000 = 0 ∧ s.partOf s.tile.ep = some (ab / 2 ^ 32 % 64) ∧ x.toNat % 2 ^ 22 % 256 = 0 ∧
    x.toNat % 2 ^ 22 + 8448 ≤ ab / 2 ^ 16 % 128 * 65536 ∧ s.cr 0x0D0 = (s.opS 1 0).val ∧ (s.cr 0x0D0 - (s.opS 1 2).val).toInt < 0 := by
  simp only [Unpoisoned, Confirmed]; decide

/-- A latched block that repeats one scale of 1.0, or one sidecar of scale 1.0. -/
def latchOf (fmt : Nat) : Latch :=
  if fmt < 4 then ⟨fmt, (List.replicate 2112 (toLE 4 0x3F800000)).flatten, 0, 8448, 0, none⟩
  else ⟨fmt, (List.replicate 768 (toLE 8 0x3F800000)).flatten, 0, 6144, 0, none⟩

theorem take_drop_flatten (l : List Byte) (k n : Nat) (h : k < n) :
    (((List.replicate n l).flatten.drop (l.length * k)).take l.length) = l := by
  obtain ⟨m, rfl⟩ := Nat.exists_eq_add_of_lt h
  have e : (List.replicate (k + m + 1) l).flatten = (List.replicate k l).flatten ++ (l ++ (List.replicate m l).flatten) := by
    rw [show k + m + 1 = k + (1 + m) by omega, ← List.replicate_append_replicate, ← List.replicate_append_replicate]; simp
  rw [e, List.drop_append_of_le_length (by simp [Nat.mul_comm])]
  simp [List.drop_of_length_le, Nat.mul_comm]

/-- Row scales 1.0 in v3, rows from 0x100 on. -/
def multiplies (fmt : Nat) : State :=
  (base.onRegs fun r => r.setV 3 (VVal.ofBits (BitVec.ofNat 2048 (packFields 32 (fun _ => 0x3F800000) 64)))).onTile fun t =>
    { t with latch := some (latchOf fmt) }
theorem meets_MatrixMultiply (fmt : Nat) : Unpoisoned (multiplies fmt) ∧ (multiplies fmt).tile.spec = none ∧
    (multiplies fmt).matrixBusy = false ∧ (multiplies fmt).tile.latch = some (latchOf fmt) ∧ (latchOf fmt).poison = none ∧
    (latchOf fmt).fmt = fmt ∧ (multiplies fmt).tile.iss.stored = [] := by
  refine ⟨⟨rfl, rfl⟩, rfl, rfl, rfl, ?_, ?_, rfl⟩ <;> unfold latchOf <;> split <;> rfl
theorem meets_MatrixMultiply_rows : let s := multiplies 0
    (s.opS 0 1).ok = true ∧ (s.opS 1 2).ok = true ∧ (∀ i < 64, scaleOk (lane (s.rdV 3).bits i) = true) ∧
    ∀ i < 64, s.tile.oor ((s.opS 0 1).val + BitVec.ofNat 64 i * (s.opS 1 2).val) 256 = none := by decide
theorem meets_MatrixMultiply_scales :
    (∀ fmt < 4, ∀ n < 64, scaleOk ((latchOf fmt).colScale n) = true) ∧ ∀ n < 64, ∀ q < 4, sidecarOk ((latchOf 4).colSidecar n q) = true := by
  constructor
  · intro fmt hf n hn
    have h (a : Nat) (ha : a + n < 2112) : ((List.replicate 2112 (toLE 4 0x3F800000)).flatten.drop (4 * a + 4 * n)).take 4 = toLE 4 0x3F800000 := by
      have := take_drop_flatten (toLE 4 0x3F800000) (a + n) 2112 ha
      rwa [show (toLE 4 0x3F800000).length = 4 from rfl, Nat.mul_add] at this
    have key : (latchOf fmt).num ((if fmt < 2 then 8192 else 4096) + 4 * n) 4 = ofLE (toLE 4 0x3F800000) := by
      simp only [Latch.num, latchOf, hf, if_true]
      split
      · exact congrArg ofLE (h 2048 (by omega))
      · exact congrArg ofLE (h 1024 (by omega))
    have e : (latchOf fmt).fmt = fmt := by simp [latchOf, hf]
    unfold Latch.colScale; rw [e, key]; decide
  · intro n hn q hq
    have key : (latchOf 4).num (4096 + 8 * (4 * n + q)) 8 = ofLE (toLE 8 0x3F800000) := by
      have := take_drop_flatten (toLE 8 0x3F800000) (512 + (4 * n + q)) 768 (by omega)
      rw [show (toLE 8 0x3F800000).length = 8 from rfl, Nat.mul_add] at this
      exact congrArg ofLE this
    unfold Latch.colSidecar; rw [key]; decide

theorem meets_AccumulatorMoves :
    let s := machine [(1, 0x1F7F00), (2, 0x100)]
    Unpoisoned s ∧ s.tile.spec = none ∧ s.matrixBusy = false ∧ s.clash (.v 31) = false ∧ s.flying (.acc 3) = false ∧ (2#2).toNat ≤ 2 ∧
    (s.opS 0 1).ok = true ∧ (s.opS 1 2).ok = true ∧ s.tile.eng.mma = [] ∧ s.tile.eng.msto = [] ∧
    ∀ i < 64, s.tile.oor ((s.opS 0 1).val + BitVec.ofNat 64 i * (s.opS 1 2).val) 256 = none := by
  simp only [Unpoisoned]; decide

/-- Rank 0x3FF and 64 bytes in s4, flags with barrier 63 in s5, the last 64 bytes in range in s6; a message of the greatest length in s7. -/
def sends : State := machine [(4, 64 * 2 ^ 32 + 0x3FF), (5, 0xFE00000000000007), (6, 0x1FBFC0), (7, 0x1F0000 * 2 ^ 32 + 5)]
theorem meets_SendInstructions : NetReady sends ∧ NetReady (withCr sends [(0x016, 55001)]) :=
  ⟨⟨⟨rfl, rfl⟩, ⟨rfl, rfl⟩, by decide, by decide, rfl, by decide, rfl, fun _ => ⟨rfl, rfl⟩, rfl, fun _ h => nomatch h⟩,
    ⟨⟨rfl, rfl⟩, ⟨rfl, rfl⟩, by decide, by decide, rfl, by decide, rfl, fun _ => ⟨rfl, rfl⟩, rfl, fun _ h => nomatch h⟩⟩
theorem meets_SendInstructions_operands :
    let rank (n : Nat) : Rank := BitVec.ofNat 32 (sends.opS 0 (BitVec.ofNat 5 n)).val.toNat
    let len (n : Nat) : Nat := (sends.opS 0 (BitVec.ofNat 5 n)).val.toNat / 2 ^ 32
    let timed := withCr sends [(0x016, 55001)]
    sends.tile.thr.regs.getH 15 = none ∧ sends.tile.ni.full .send = false ∧ sends.ownPkg (rank 4) = true ∧ rankEp (rank 4) < 0x400 ∧
    rankEp (rank 4) ∉ sends.mgmt.harvest ∧ sbLegal (sends.opS 1 5).val false false false ∧ (sends.opS 0 4).ok = true ∧ (sends.opS 2 6).ok = true ∧
    (len 4 ≤ 512 ∧ sends.tile.oor (sends.opS 2 6).val (len 4) = none) ∧
    (512 < len 7 ∧ len 7 ≤ 16777215 ∧ sends.tile.oor (sends.opS 2 0).val (len 7) = none) ∧
    (sends.rdC 0x016).toNat ≤ sends.time ∧ (timed.time < (timed.rdC 0x016).toNat ∧ timed.tile.ni.heldTimed < 16) := by
  simp only [sbLegal]; decide

/-- ANY with barrier 0 in s5, ANV in s7; the last byte of region 0 in s8. -/
def posts : State :=
  { machine [(4, 2048 * 2 ^ 32 + 5), (5, 0x0300000000000007), (6, 0x100), (7, 0x0020000000000007), (8, 0x7F800), (9, 7)] with
    owner := [(0, some 0)] }
theorem meets_PostingInstructions : NetReady posts :=
  ⟨⟨rfl, rfl⟩, ⟨rfl, rfl⟩, by decide, by decide, rfl, by decide, rfl, fun _ => ⟨rfl, rfl⟩, rfl, fun _ h => nomatch h⟩
theorem meets_PostingInstructions_operands :
    let len := (posts.opS 0 4).val.toNat / 2 ^ 32
    let ab := (posts.cr 0x0D8).toNat
    let off := (posts.opS 2 8).val.toNat % 2 ^ 22
    let rank : Rank := BitVec.ofNat 32 (posts.opS 0 4).val.toNat
    posts.tile.thr.regs.getH 15 = none ∧ posts.tile.ni.unexp = [] ∧ posts.tile.ni.full .post = false ∧ posts.tile.ni.full .publ = false ∧
    (posts.opS 0 4).ok = true ∧ (posts.opS 2 6).ok = true ∧ (posts.opS 2 8).ok = true ∧ sbLegal (posts.opS 1 5).val true false false ∧
    (1 ≤ len ∧ len ≤ 2048 ∧ posts.tile.oor (posts.opS 2 6).val len = none ∧ posts.allot posts.tile.ep ((len + 63) / 64) ≠ none) ∧
    ((posts.opS 2 8).val &&& 0xFFFFFFF8FFC00000 = 0 ∧ (posts.opS 2 8).val.toNat / 2 ^ 32 % 8 = 0 ∧
      posts.partOf posts.tile.ep = some (ab / 2 ^ 32 % 64) ∧ off < ab / 2 ^ 16 % 128 * 65536 ∧ off + len ≤ ab / 2 ^ 16 % 128 * 65536) ∧
    (sbLegal (posts.opS 1 7).val false false true ∧ (posts.opS 1 7).val.getLsbD 53 = true ∧ sbLegal (posts.opS 1 9).val false false true ∧
      (posts.opS 1 9).val.getLsbD 53 = false) ∧
    (posts.tile.ni.contrails.length < 8 ∧ ∀ e ∈ posts.tile.ni.contrails, e.tag ≠ 7 ∨ e.group ≠ 0) ∧
    (posts.ownPkg rank = true ∧ rankEp rank < 0x400 ∧ rankEp rank ∉ posts.mgmt.harvest) := by
  simp only [sbLegal]; decide

/-- The first and the last page of a context, a box, a list of two indices and operands at 0x100 and 0x140. -/
def requests : State :=
  let box : Memory := [(0x3001, 0x10), (0x3008, 16), (0x3010, 4), (0x3012, 2), (0x3014, 1), (0x3016, 1), (0x3018, 64), (0x3021, 1)]
  let s := machine [(4, 0xFFFFFFFFFFFF), (5, 1), (6, 0x100), (7, 0x3000), (8, 0x14000000100), (9, 0x1002), (10, 11), (11, 0x0040000000000010),
    (12, 0x10000), (13, 0)]
  (withCr s [(0x017, 0x1200000003)]).onTile fun t => { t with mem := box }
theorem meets_ServerRequests : NetReady requests :=
  ⟨⟨rfl, rfl⟩, ⟨rfl, rfl⟩, by decide, by decide, rfl, by decide, rfl, fun _ => ⟨rfl, rfl⟩, rfl, fun _ h => nomatch h⟩
theorem meets_ServerRequests_ranges :
    let s := requests
    let few (ps : List Piece) : Prop := ps ≠ [] ∧ (homesOf ps).length ≤ 64
    s.tile.thr.regs.getH 15 = none ∧ s.tile.ni.full .get = false ∧ s.mgmt.outMask = [] ∧ (∀ n < 14, (s.opS 0 (BitVec.ofNat 5 n)).ok = true) ∧
    (sbLegal (s.opS 1 5).val false true false ∧ (s.opS 1 5).val.toNat % 2 ^ 32 = 1 ∧ (s.opS 0 4).val.toNat + 1 ≤ 2 ^ 48 ∧
      s.tile.oor (s.opS 2 6).val 1 = none ∧ few (rangePieces 0 (s.opS 0 4).val.toNat 1) ∧ (s.opS 1 5).val.getLsbD 54 = false) ∧
    (sbLegal (s.opS 1 11).val false true false ∧ (s.opS 1 11).val.getLsbD 54 = true ∧ s.notifyOk (BitVec.ofNat 32 (s.rdC 0x017).toNat) = true ∧
      few (rangePieces 0 (s.opS 0 12).val.toNat 16) ∧ (homesOf (rangePieces 0 (s.opS 0 12).val.toNat 16)).length = 1 ∧
      s.tile.oor (s.opS 2 6).val 16 = none) := by
  simp only [sbLegal]; decide
theorem meets_ServerRequests_boxes_and_lists :
    let s := requests
    let few (ps : List Piece) : Prop := ps ≠ [] ∧ (homesOf ps).length ≤ 64
    let bx := readBox (s.ldBytes 0x3000 48)
    sbLegal 0 false false false ∧ sbLegal (s.opS 1 9).val false false false ∧ sbLegal (s.opS 1 10).val false false false ∧
    ((s.opS 1 13).val.toNat % 2 ^ 32 = 0 ∧ (s.opS 0 7).val.toNat % 8 = 0 ∧ s.tile.oor (s.opS 0 7).val 48 = none ∧ bx.ok = true ∧ bx.empty = false ∧
      s.tile.oor (s.opS 2 6).val bx.bytes = none ∧ few bx.pieces) ∧
    ((s.opS 0 12).val.toNat < 2 ^ 48 ∧ (s.opS 1 9).val.toNat % 2 ^ 32 % 2 ^ 11 = 2 ∧ (s.opS 1 9).val.toNat % 2 ^ 32 / 2 ^ 11 % 2 = 0 ∧
      (s.opS 1 9).val.toNat % 2 ^ 32 / 2 ^ 12 < 7 ∧ s.tile.oor 0x100 (2 * 8) = none ∧ s.tile.oor 0x140 (4 * 2) = none ∧
      few (listPieces (s.opS 0 12).val.toNat 8 ((List.range 2).map fun i => ofLE ((List.range 4).map fun j => byteAt s (0x140 + 4 * i + j))))) ∧
    ((s.opS 1 10).val.toNat % 2 ^ 32 ≤ 11 ∧ s.tile.oor (BitVec.ofNat 64 ((s.opS 2 8).val.toNat % 2 ^ 32)) 64 = none ∧
      s.tile.oor (BitVec.ofNat 64 ((s.opS 2 8).val.toNat / 2 ^ 32)) 64 = none) := by
  simp only [sbLegal]; decide

/-- An entry that is done, one that is not, a posted receive and an open contrail, each named by h15. -/
def handles (e : Ent) : State := (withEnts base [e]).onRegs fun r => r.setH 15 (some e.id)
def sent : Ent := { entry 4 .send .done with rcd := { Rec.zero with status := 1 } }
def namedBy (s : State) (e : Ent) : Prop :=
  Unpoisoned s ∧ Confirmed s ∧ s.tile.ep < 0x400 ∧ (s.cr 0x023).getLsbD 62 = false ∧ s.clash (.p 7) = false ∧
    s.clash (.s 31) = false ∧ s.rdH 15 = some e.id ∧ e.id ≠ 0 ∧ s.tile.ni.ent e.id = some e
theorem namedBy_sent : namedBy (handles sent) sent := by simp only [namedBy, Unpoisoned, Confirmed]; decide
theorem namedBy_shards : namedBy (handles (entry 4 .get .shards)) (entry 4 .get .shards) := by
  simp only [namedBy, Unpoisoned, Confirmed]; decide
theorem namedBy_posted : namedBy (handles (entry 4 .post .posted)) (entry 4 .post .posted) := by
  simp only [namedBy, Unpoisoned, Confirmed]; decide
theorem namedBy_open : namedBy (handles (entry 4 .publ .open_)) (entry 4 .publ .open_) := by
  simp only [namedBy, Unpoisoned, Confirmed]; decide
theorem meets_HandleInstructions :
    (namedBy (handles sent) sent ∧ sent.phase = .done ∧ sent.kind ≠ .postm) ∧ (namedBy (handles (entry 4 .get .shards)) (entry 4 .get .shards) ∧ (entry 4 .get .shards).phase ≠ .done) ∧
    (namedBy (handles (entry 4 .post .posted)) (entry 4 .post .posted) ∧ (entry 4 .post .posted).detached = false ∧ (entry 4 .post .posted).nb = none) ∧
    (namedBy (handles (entry 4 .publ .open_)) (entry 4 .publ .open_) ∧ (entry 4 .publ .open_).detached = false ∧ (entry 4 .publ .open_).nb = none) ∧
    (sbLegal 0x0100000000000007 true false false ∧ (0x0100000000000007#64).getLsbD 57 = false) :=
  ⟨⟨namedBy_sent, by decide, by decide⟩, ⟨namedBy_shards, by decide⟩, ⟨namedBy_posted, rfl, rfl⟩, ⟨namedBy_open, rfl, rfl⟩,
    by simp only [sbLegal]; decide, by decide⟩

/-- b2 is a block of dimension 1 with Λ = 2, b3 of dimension 8 with Λ = identity; f1 is 1.0. -/
def beliefs : State :=
  (machine [(1, 0x1FBEC0)]).onRegs fun r =>
    ((r.setB 2 ⟨0x40000000, 0x3F800000, 1, false, false, false⟩).setB 3
      ⟨BitVec.ofNat 2048 (packFields 32 (fun i => if i % 9 = 0 then 0x3F800000 else 0) 64), 0, 8, false, false, false⟩).setF 1 0x3F800000
/-- How many components an elimination that succeeds leaves. -/
def leftBy (s : State) (b : Nat) (p : Nat → Bool) : Option Nat :=
  match (s.rdB b).eliminate (BitVec.ofNat 32 (s.rdC 0x071).toNat) p with
  | .ok e => some e.left.length
  | .error _ => none
theorem meets_BeliefOperations :
    let s := beliefs
    Unpoisoned s ∧ s.clash (.b 15) = false ∧ s.clash (.f 15) = false ∧
    leftBy s 3 (fun i => !(0x80#8).getLsbD i) = some 1 ∧ leftBy s 2 (fun _ => true) = some 0 ∧ betaOk (s.opF 0 1) = true ∧
    ¬(s.opF 0 1).toNat / 2 ^ 23 % 256 = 255 ∧
    (s.storeBusy = false ∧ (s.opS 0 1).ok = true ∧ s.tile.oor ((s.opS 0 1).val + BitVec.ofInt 64 (0#16).toInt) 320 = none ∧
      s.tile.spec = none ∧ s.tile.eng.mma = [] ∧ s.tile.eng.msto = []) := by
  simp only [Unpoisoned]; decide +kernel

theorem meets_StepSequencer :
    let s := machine [(1, 0x100), (2, 0x600002000), (5, 0x1FBFC0), (6, 0x40)]
    let logs := withCr s [(0x050, 0xFFFFFFFF), (0x052, 0x1000), (0x053, 0x0400002000)]
    (Unpoisoned s ∧ s.tile.spec = none ∧ s.storeBusy = false ∧ s.tile.eng.mma = [] ∧ s.tile.eng.msto = [] ∧ s.clash (.sig 3) = false ∧
      s.clash (.p 7) = false ∧ (s.opS 0 1).ok = true ∧ (s.opS 1 2).ok = true) ∧
    ((s.opS 1 2).val.toNat / 2 ^ 20 % 8 ≤ 6 ∧ (s.opS 0 0).val.toNat % 256 + min ((s.opS 1 2).val.toNat % 2 ^ 14) 8192 ≤ 8192 ∧
      s.tile.oor (s.opS 0 0).val 8192 = none) ∧
    (s.cr 0x053).toNat / 2 ^ 32 % 2 ^ 8 = 0 ∧
    ((logs.cr 0x053).toNat / 2 ^ 32 % 2 ^ 8 ≠ 0 ∧ logs.tile.oor ((logs.cr 0x053 &&& 0x1FFF80) + BitVec.ofNat 64 (128 * (0xFFFFFFFF % 4))) 128 = none) ∧
    logs.tile.oor ((logs.cr 0x052 &&& 0x1FFFC0) + BitVec.ofNat 64 (64 * ((logs.opS 0 5).val.toNat % 1024))) 64 = none := by
  simp only [Unpoisoned]; decide

/-! ### The network -/

def onNi (s : State) (f : Ni → Ni) : State := s.onTile fun t => { t with ni := f t.ni }
/-- A packet of `n` bytes for rank 0, the tile in focus. -/
def arriving (h : Header) (n : Nat) : Packet := ⟨h, List.replicate n 0x5A, false⟩
def posted : Ent := entry 4 .post .posted

theorem meets_FirstPacketsArrive :
    let s := withEnts base [posted]
    let p := arriving (header 1) 64
    let find (s : State) := s.tile.ni.ents.find? fun x => x.open_ && x.fits p.hdr
    let full := onNi base fun n =>
      { n with arrivals := 1, unexp := List.replicate 1024 ⟨{ header 1 with src := 6 }, [], false, false, 0, false, false, true, []⟩ }
    let poor := withCr base [(0x019, 0)]
    let new (s : State) : Bool := (s.tile.ni.ents.all fun x => x.hdr.isNone && x.boxq.isEmpty) &&
      s.tile.ni.unexp.all fun u => u.hdr.src != p.hdr.src && decide (u.arrival < s.tile.ni.arrivals)
    (p.hdr.dest = s.rankOf s.tile.ep ∧ s.ownPkg p.hdr.src = true ∧ p.hdr.hflags &&& 7 = 0 ∧ new s = true ∧ new base = true ∧ new full = true) ∧
    (TileTakes s ∧ p.poison = false ∧ p.payload.length = p.hdr.len ∧ s.tile.ni.relLog = [] ∧ s.tile.ni.revoked = [] ∧
      (∀ u ∈ s.tile.ni.unexp, u.waits = false) ∧ ∀ x ∈ s.tile.ni.ents, x.phase ≠ .turn) ∧
    (p.hdr.seq = Sparse.get 0 s.tile.ni.seqIn (5 * 65536) ∧ find s = some posted ∧ posted.kind = .post ∧ posted.phase = .posted ∧
      posted.buf = .store 0x110 inStore ∧ Plain posted ∧ 0 < min p.hdr.len posted.len) ∧
    (find base = none ∧ base.tile.ni.unexp.length < 1024 ∧ base.allot base.tile.ep 1 ≠ none ∧ poor.allot poor.tile.ep 1 = none) ∧
    ((1#32) ≠ Sparse.get 0 s.tile.ni.seqIn (5 * 65536)) ∧ 1024 ≤ full.tile.ni.unexp.length ∧
    ∀ r ∈ [Run.stopping, .stopped, .loading, .parked], (base.onTile fun t => { t with run := r }).tile.twin = none := by
  simp only [TileTakes, Plain]; decide

def granting : Ent :=
  { posted with phase := .granted, granted := 50, sent := 10, peer := 5, peerXid := 9, hdr := some { header 1 with len := 80 }, full := 80 }
theorem meets_TransfersGoOn :
    let await := entry 8 .send .awaitCts
    let send := withEnts base [await]
    let sending := { entry 8 .send .sending with chunks := 2 }
    let sent := withEnts base [sending, posted]
    let recv := withEnts base [granting]
    let p := arriving { header 3 with xid := 9, offset := 64 } 0
    let chunk : Packet := ⟨{ header 4 with dest := 5, src := 0, xid := 9 }, [], false⟩
    let gone (n : Nat) : Transit := ⟨.packet chunk, 0, 0, 5, 0, 5, 33, n, 990, []⟩
    let data (u : Transit) : Bool := match u.ev.inner? with
      | some q => q.hdr.kind == 4 && q.hdr.src == p.hdr.dest && q.hdr.dest == p.hdr.src && q.hdr.xid == p.hdr.xid | none => false
    (TileTakes send ∧ p.hdr.dest = send.rankOf send.tile.ep ∧ send.ownPkg p.hdr.src = true ∧ p.poison = false ∧ send.tile.ni.revoked = [] ∧
      Plain await ∧ send.sched = []) ∧
    (send.tile.ni.named 5 9 = some await ∧ await.kind = .send ∧ 0 < p.hdr.offset.toNat ∧ (0#32).toNat = 0) ∧
    ((0x80FFFFFF#32).toNat / 2 ^ 24 = 0x80 ∧ (0x80000000#32).toNat / 2 ^ 24 = 0x80 ∧ (0xC0000000#32).toNat / 2 ^ 24 = 0xC0) ∧
    (TileTakes sent ∧ sent.tile.ni.named 5 9 = some sending ∧ Plain sending ∧ data (gone 1) = true ∧ (gone 1).injected ≠ 0 ∧
      data (gone 0) = true ∧ (gone 0).injected = 0) ∧
    (TileTakes recv ∧ recv.tile.ni.receiving (header 4) = some granting ∧ granting.kind = .post ∧ granting.phase = .granted ∧
      granting.buf = .store 0x110 inStore ∧ granting.matched = 0 ∧ (∀ x ∈ recv.tile.ni.ents, x.phase ≠ .turn) ∧ granting.hdr = some { header 1 with len := 80 } ∧ (header 1).hflags.getLsbD 1 = false ∧ Plain granting) ∧
    (granting.sent + 39 < granting.granted ∧ granting.granted ≤ granting.sent + 40 ∧ 10 + 40 ≤ granting.granted) := by
  refine ⟨?_, ?_, ?_, ?_, ?_, ?_⟩ <;> (try simp only [TileTakes, Plain]) <;> decide

def waitingAck : Ent := { entry 8 .send .awaitAck with seq := some 4 }
theorem meets_RefusedAndTimedSends :
    let s := withEnts base [waitingAck, posted]
    let away := { waitingAck with rank := 0x1005 }
    let retry := { waitingAck with phase := .queued, retryAt := some 55000 }
    let timed := { entry 8 .sendt .held with seq := none, timed := true, tsend := some 55000 }
    let p := arriving { header 6 with xid := 9, offset := 0 } 0
    (TileTakes s ∧ p.hdr.dest = s.rankOf s.tile.ep ∧ Plain waitingAck ∧ waitingAck ∈ s.tile.ni.ents ∧ waitingAck.pairWait = false ∧
      s.injecting s.tile.ep = false ∧ (∀ x ∈ s.tile.ni.ents, x.id ≠ waitingAck.id → x.phase ≠ .queued ∧ x.unsent = [] ∧ x.xid ≠ 10)) ∧
    (waitingAck.rank = p.hdr.src ∧ waitingAck.xid = p.hdr.xid ∧ waitingAck.absFrom = none ∧ p.hdr.offset = 0) ∧
    (base.ownPkg away.rank = false ∧ away.phase = .awaitAck) ∧
    (base.ownPkg retry.rank = true ∧ rankEp retry.rank < 0x400 ∧ (∃ at_ ≤ base.time, retry.retryAt = some at_) ∧ retry.seq = some 4 ∧
      TileTakes (withEnts base [retry])) ∧
    (timed.phase = .held ∧ timed.retryAt = none ∧ timed.seq = none ∧ timed.tsend = some 55000 ∧ (55000#64).toNat ≤ base.time ∧ TileTakes (withEnts base [timed])) := by
  refine ⟨⟨by simp only [TileTakes]; decide, by decide, by simp only [Plain]; decide, by decide, by decide, by decide⟩, by decide, by decide,
    ⟨by decide, by decide, ⟨55000, by decide, rfl⟩, rfl, by simp only [TileTakes]; decide⟩, ?_⟩
  simp only [TileTakes]; decide

def held : Ent := { granting with phase := .relHeld, rel := 1, sent := 50 }
def pub : Ent := { entry 11 .publ .open_ with rank := 0 }
def sub : Ent := { entry 12 .subs .posted with buf := .store 0x120 inStore }
theorem meets_ReleasesAndContrails :
    let asked := onNi (withEnts base [pub]) fun n => { n with asked := [(0, 7)] }
    let path := subscriptionPath base.tile.ep 5
    let p := arriving { header 13 with hflags := 8 } 64
    (TileTakes (withEnts base [held]) ∧ (withEnts base [held]).tile.ni.receiving (header 8) = some held ∧ held.kind = .post ∧ Plain held ∧
      (header 8).offset = 0 ∧ base.ownPkg 5 = true ∧ ∀ x ∈ (withEnts base [held]).tile.ni.ents, x.phase ≠ .turn ∧ x.id = held.id) ∧
    ((path.map fun x => x.1).Nodup ∧ (∀ x ∈ path, base.portRoom 0 0 7 x.1 = true) ∧ (header 9).seq.getLsbD 0 = false ∧ base.spills = []) ∧
    (TileTakes asked ∧ pub ∈ asked.tile.ni.ents ∧ pub.closing = false ∧ (pub.group, pub.tag) ∈ asked.tile.ni.asked ∧ Plain pub) ∧
    (TileTakes (withEnts base [sub, posted]) ∧ Plain sub ∧
      (withEnts base [sub, posted]).tile.ni.ents.filter (fun x => x.kind == .subs && x.rank == 5 && x.tag == 7 && x.group == 0) = [sub] ∧
      sub.buf = .store 0x120 inStore ∧ p.hdr.offset = 0 ∧ p.hdr.xid.getLsbD 31 = false ∧ p.payload.length = p.hdr.len) ∧
    (let b : Branch := ⟨2, 0, none, 0⟩
     let g : Leg := ⟨0, 16, 0, false, [(990, false)], 0, some [b], 16, [], 0⟩
     let u : Transit := ⟨.echo 0 1 0 0, 0, 0, 3, 0, 3, 1, 1, 980, [g]⟩
     u.legs = [g] ∧ g.outs = some [b] ∧ 990 < base.cycle ∧ g.gone = 0 ∧ b.sent = 0 ∧ g.cls ≠ 2 ∧ b.cls ≠ 2 ∧ b.port < 6 ∧ 0 < u.size ∧ u.fixedRoute = false ∧ 16 ≤ g.waited ∧
       (slotAt [u] (portNext g.router (portTo g.router (escHop g.router u.last).next)) (enters (portTo g.router (escHop g.router u.last).next)) 2).isSome
         = true) := by
  refine ⟨?_, ?_, ?_, ?_, ?_⟩ <;> (try simp only [TileTakes, Plain]) <;> decide

/-! ### The servers, the stacks and the halo tree -/

def shardOf (srv va n : Nat) (l : List Byte) : Shard := ⟨5, srv, 3, 0, 9, 0, [⟨0, va, n⟩], l, 0, none, none, 1, false, []⟩
/-- A page of partition 2 in frame 7, writable, with key slot 3. -/
def page : Word := 0x0000300000000007
/-- Server 20 has context 9 of partition 2 and its page entry; rank 5 belongs to the partition. -/
def serving (va : Nat) : State :=
  { base with
    owner := [(5, some 2)]
    keys := [(3, some 2)]
    srv := [(20, { Server.empty with ctx := [(9, ⟨true, 2, 3, 0, [], false, 5000⟩)], tlb := [(9, va / 65536, page)] })] }

/-- The last byte of a page of a shard, and a whole shard of 64 bytes. -/
theorem meets_ServersPerformShards :
    let operand := List.replicate 64 (0x5A : Byte)
    (ServerIdle (serving 0x14FFFF) 20 ∧ FreshShard (serving 0x14FFFF) (shardOf 20 0x14FFFF 1 [1]) 0x14FFFF 1 ∧
      Admitted (serving 0x14FFFF) (shardOf 20 0x14FFFF 1 [1]) 0x14FFFF 1 page) ∧
    (ServerIdle (serving 0x140040) 20 ∧ FreshShard (serving 0x140040) (shardOf 20 0x140040 64 operand) 0x140040 64 ∧
      Admitted (serving 0x140040) (shardOf 20 0x140040 64 operand) 0x140040 64 page ∧ 0x140040 % 64 = 0 ∧ operand.length = 64) ∧
    (FreshShard (serving 0x140010) (shardOf 20 0x140010 8 (operand.take 16)) 0x140010 8 ∧
      Admitted (serving 0x140010) (shardOf 20 0x140010 8 (operand.take 16)) 0x140010 8 page ∧ 0x140010 % 8 = 0 ∧ (operand.take 16).length = 16) ∧
    FreshShard (serving 0x140010) (shardOf 20 0x140010 4 (operand.take 4)) 0x140010 4 ∧
    (FreshShard (serving 0x14FFFF) (shardOf 20 0x14FFFF 1 []) 0x14FFFF 1 ∧ (shardOf 20 0x14FFFF 0 []).pieces = [⟨0, 0x14FFFF, 0⟩] ∧
      { shardOf 20 0x14FFFF 0 [] with pieces := [⟨0, 0x14FFFF, 1⟩] } = shardOf 20 0x14FFFF 1 []) := by
  refine ⟨⟨?_, ?_, ?_⟩, ⟨?_, ?_, ?_, by decide⟩, ⟨?_, ?_, by decide⟩, ?_, ?_, rfl, rfl⟩ <;> simp only [ServerIdle, FreshShard, Admitted] <;> decide

def waitingShard : ShardSt := ⟨shardOf 20 0x140010 40 [], 1, 54000, false, false, none, [], false, false⟩
def requester (x : ShardSt) : Ent := { entry 21 .get .shards with xid := 3, buf := .store 0x200 inStore, len := 40, shards := [x] }
theorem meets_ShardsAreSettled :
    let e := requester waitingShard
    let s := withEnts base [e]
    let r : Reply := { dest := 0, srv := 20, xid := 3, no := 0, result := 0, bytes := 2, chunks := [(4, [1, 2])], stamp := 0, damaged := false }
    let full := requester { waitingShard with attempts := 4, data := [(4, [1, 2])] }
    let late := requester { waitingShard with attempts := 3, due := 55000 }
    let q := shardOf 20 0x140010 40 []
    let w : Waiting := ⟨1, q, 6, [], true⟩
    let pend := { base with srv := [(20, { Server.empty with ctx := [(9, ⟨true, 2, 3, 0, [], false, 55⟩)], pending := [(w, 0, 20, 2)] })] }
    let held := { base with srv := [(20, { Server.empty with held := [w] })] }
    (TileTakes s ∧ e ∈ s.tile.ni.ents ∧ (∀ f ∈ s.tile.ni.ents, f.kind ≠ .sendr ∧ (f.id ≠ e.id → f.xid ≠ e.xid)) ∧ Plain e ∧ e.kind.isReq = true ∧
      e.phase = .shards ∧ waitingShard.code = none ∧ waitingShard.lost = false) ∧
    (r.dest = s.rankOf s.tile.ep ∧ r.xid = e.xid.toNat ∧ r.no = waitingShard.shard.no ∧ r.srv = waitingShard.shard.srv ∧ r.damaged = false ∧
      e.buf = .store 0x200 inStore ∧ waitingShard.spoiled = false ∧ s.sched = [] ∧ waitingShard.attempts = 1 ∧ waitingShard.data = []) ∧
    (full.shards.map (fun x => (x.attempts, x.data)) = [(4, [(4, [1, 2])])] ∧ r.result = 0 ∧ r.bytes = [1, 2].length ∧ EKind.put ∈ [EKind.put, .putb, .scat] ∧ full.buf = .store 0x200 inStore) ∧
    (late.shards.length = 1 ∧ (late.shards.all fun x => x.due != 0 && decide (x.due ≤ s.time) && decide (1 ≤ x.attempts ∧ x.attempts < 4) &&
        decide (x.shard.srv < 192) && decide (x.shard.data.length ≤ 2048)) = true ∧
      s.injecting s.tile.ep = false ∧ late.unsent = [] ∧ late.part = 0 ∧ late.pairWait = false) ∧
    ServerIdle base 191 ∧
    ((pend.getSrv 20).pending = [(w, 0, 20, 2)] ∧ (pend.getSrv 20).held = [] ∧ (pend.getSrv 20).fences = [] ∧ q.srv = 20 ∧
      0 + 1000 * (Sparse.get noCtx (pend.getSrv 20).ctx q.actx).pendLimit ≤ pend.time) ∧
    ((held.getSrv 20).held ++ (held.getBase 1).held = [w]) ∧
    (191 < 192 ∧ 191 ∉ base.mgmt.outMask ∧ base.tile.ni.ents = [] ∧ base.others = [] ∧ base.fns = [] ∧ base.nis = []) := by
  refine ⟨?_, ?_, ?_, ?_, ?_, ?_, ?_, ?_⟩ <;> (try simp only [TileTakes, Plain, ServerIdle]) <;> decide

/-- The third stack after a change. -/
def stackOf (f : Base → Base) : State := { base with base := [(2, f Base.zero)] }
theorem meets_BurstsAndLanes :
    let one := stackOf fun b => { b with cells := [(10, [5])] }
    let two := stackOf fun b => { b with cells := [(10, [5, 2])] }
    let lane := stackOf fun b => { b with laneErr := [(5 * 128 + 71, 3)] }
    let window := stackOf fun b => { b with bursts := [(5, 1048576)], laneErr := [(5 * 128 + 3, 4)] }
    let room (s : State) : Nat := Sparse.get 0 (s.getBase 2).bursts ((s.getBase 2).channel 640) + 1
    (((stackOf id).getBase 2).xfer = [] ∧ room (stackOf id) < 1048576 ∧ ((stackOf id).getBase 2).poisoned = [] ∧
      ((stackOf id).getBase 2).poisonList = [] ∧ ((stackOf id).getBase 2).cells = []) ∧
    ((one.getBase 2).cells = [(640 / 64, [5])] ∧ room one < 1048576 ∧ one.mgmt.queues = []) ∧
    ((two.getBase 2).cells = [(640 / 64, [5, 2])] ∧ room two < 1048576 ∧ two.mgmt.queues = []) ∧
    (640 % 64 = 0 ∧ (List.replicate 64 (0x5A : Byte)).length = 64) ∧
    ((lane.getBase 2).replaced = [] ∧ 71 < 72 ∧ 3 ≤ Sparse.get 0 (lane.getBase 2).laneErr (5 * 128 + 71)) ∧
    1048576 ≤ Sparse.get 0 (window.getBase 2).bursts 5 := by decide

/-- R413: after the swap of lane 17 of channel 5 for spare 72, LANESTAT5 of stack 4 reads 0x11000101. -/
theorem test_lanestat :
    let s := State.reset.modBase 4 fun b => { b with laneErr := [(5 * 128 + 17, 3)] }
    (after (.laneSwap 4 5 17) s).bar2Read (0x100000 + 4 * 0x1000 + 0x400 + 8 * 5) = some 0x11000101 ∧
    State.reset.bar2Read 0x60 = some 1 ∧ State.reset.bar2Read 0x20 = some 2400 := by decide

theorem mapped_empty (b : Base) (h : b.table = []) (p : Nat) : b.mapped p = p := by
  simp [Base.mapped, h]
theorem meets_RemappingKeepsBytes :
    let off := stackOf fun b => { b with total := 65536, en := false }
    let hot := stackOf fun b => { b with total := 65536, hotRun := 2, chCur := [(31, 65000)] }
    let swap := stackOf fun b => { b with busy := some (0, 32767) }
    let top := (List.range 32).foldl (fun m c => max m (Sparse.get 0 (hot.getBase 2).chCur c)) 0
    (65536 ≤ (off.getBase 2).total ∧ (off.getBase 2).en = false) ∧
    (65536 ≤ (hot.getBase 2).total ∧ (hot.getBase 2).en = true ∧ (hot.getBase 2).busy = none ∧ (hot.getBase 2).frozen = [] ∧
      (hot.getBase 2).hotRun = 2 ∧ 3 * (hot.getBase 2).total < 64 * top ∧ (hot.mgmt.jTail + 2 ^ 32 - hot.mgmt.jHead) % 2 ^ 32 + (hot.base.filter fun x => x.2.busy.isSome).length < 8192) ∧
    ((swap.getBase 2).busy = some (0, 32767) ∧ (0 : Nat) ≠ 32767 ∧ (swap.getBase 2).held = [] ∧ (swap.getBase 2).poisoned = [] ∧
      (swap.getBase 2).poisonList = [] ∧ (swap.getBase 2).cells = [] ∧ (swap.getBase 2).xfer = [] ∧ (swap.getBase 2).frozen = [] ∧ (swap.getBase 2).badMain = [] ∧
      (swap.getBase 2).badCopy = [] ∧ swap.dram.wf = true ∧
      (∀ p < 32768, (swap.getBase 2).mapped p < 32768) ∧
      ∀ p < 32768, ∀ p' < 32768, (swap.getBase 2).mapped p = (swap.getBase 2).mapped p' → p = p') := by
  refine ⟨by decide, by decide, rfl, by decide, rfl, rfl, rfl, rfl, rfl, rfl, rfl, rfl, rfl, fun p h => ?_, fun p h p' h' e => ?_⟩
  · rw [mapped_empty _ rfl p]; exact h
  · rwa [mapped_empty _ rfl p, mapped_empty _ rfl p'] at e

/-- An entry of group 7 for an integer sum of one element. -/
def sumEntry (child : BitVec 16) (parent : Bool) : GEntry := ⟨7, 1, 0, 1, 3, 3, parent, true, child, 0⟩
def atNode (n : Nat) (e : GEntry) (r : List HRound) : State :=
  { base with halo := [(n, { HNode.empty with entries := [e], rounds := r })] }
theorem meets_HaloTree :
    let c : HChunk := ⟨63, 2, 0x32, 7, 5, 8, 0, 8, 1, 0, toLE 8 1234567, false, false⟩
    let kids (e : GEntry) := (List.range 16).filter fun x => e.child.getLsbD x
    let row := atNode 63 (sumEntry 4 true) []
    let root := atNode 68 (sumEntry 0x0C false) [⟨7, 1, [⟨3, 0, toLE 8 99⟩], [], 0, [], false, []⟩]
    let last := atNode 63 (sumEntry 4 true) [⟨7, 1, [], [(2, 0x32, 5, 8, 1, false)], 0, [], false, []⟩]
    (base.pkg < 2 ^ 20 ∧ (base.getNode 63).rounds = [] ∧ base.ownPkg c.src = true ∧ (base.getNode 63).entry 7 = none) ∧
    ((row.getNode 63).rounds = [] ∧ (row.getNode 63).entry 7 = some (sumEntry 4 true) ∧ kids (sumEntry 4 true) = [2] ∧
      c.len = 8 * ((sumEntry 4 true).nelem + 1) ∧ c.data.length = c.len ∧ (row.getNi (0x1000 + 63)).relLog = [] ∧ c.fenced = false ∧ c.void = false ∧ (c.src, c.xid) ∉ (row.getNode 63).voided ∧
      (row.getNode 63).foldAt ≤ row.cycle ∧ row.roomAbove 63 7 = true) ∧
    ({ c with void := true }.void = true ∧ (sumEntry 4 true).child.getLsbD c.child = true ∧ c.len = ((sumEntry 4 true).nelem + 1) * haloSize 3) ∧
    (64 ≤ 68 ∧ (root.getNode 68).entry 7 = some (sumEntry 0x0C false) ∧ kids (sumEntry 0x0C false) = [2, 3] ∧ (toLE 8 99).length = 8 ∧ (root.getNode 68).foldAt ≤ root.cycle ∧
      (root.getNode 68).down = [] ∧ (∀ x ∈ [2, 3], x < 4 ∧ root.roomBelow (nodeChild 68 x) 7 = true) ∧
      (root.getNode 68).rounds = [⟨7, 1, [⟨3, 0, toLE 8 99⟩], [], 0, [], false, []⟩]) ∧
    ((last.getNode 63).rounds = [⟨7, 1, [], [(2, 0x32, 5, 8, 1, false)], 0, [], false, []⟩] ∧ Quiet last (0x1000 + 63) ∧
      (0 + 1) * haloSize 3 ≤ 512 ∧ c.data.length = (0 + 1) * haloSize 3 ∧ Reachable last 0x32 ∧
      (last.getNode 63).down = [] ∧ last.linkBusy 0x4C3 0x32 = false) := by
  simp only [Quiet, Reachable]; decide

/-- The entry of `sumEntry 4 true` as the management interface writes it, and the fields of R162's first and last rows. -/
theorem meets_HaloTree_entries :
    let b : BitVec 128 := BitVec.ofNat 128 (4 + 2 ^ 64 + 2 ^ 65 + 3 * 2 ^ 66 + 3 * 2 ^ 68 + 2 ^ 70 + 2 ^ 90 + 7 * 2 ^ 112)
    let s := { base with grpPart := [(7, some 63)] }
    let node := atNode 68 (sumEntry 0x0C false) []
    (63 < 64 ∧ s.fns = [] ∧ Sparse.get none s.grpPart (b.toNat / 2 ^ 112) = some 63 ∧ (s.getNode 63).failed = false) ∧
    (s.entryOk 63 7 none = true ∧ (atNode 63 (sumEntry 4 true) []).entryOk 63 7 (some (sumEntry 8 false)) = false) ∧
    ((s.halo = [] ∧ s.liveGroups = []) ∧ (0 : BitVec 128).getLsbD 64 = false ∧ b.getLsbD 64 = true ∧ b.getLsbD 65 = true ∧ b.toNat / 2 ^ 70 % 16 = 1 ∧ b.toNat / 2 ^ 68 % 4 = 3 ∧
      b.toNat / 2 ^ 66 % 4 = 3 ∧ b.toNat / 2 ^ 90 % 2 ^ 11 = ((List.range 16).filter fun x => b.getLsbD x).length ∧ s.liveGroups.length < 4096) ∧
    (68 < 69 ∧ (node.getNode 68).failed = false ∧ node.mgmt.queues = []) := by decide

/-! ### Launches, work items, records and the host -/

def withNi (s : State) (key : Nat) (l : List Ent) : State := { s with nis := [(key, { Ni.empty with ents := l, nextId := 9 })] }
/-- The placer's entry for the image header of a launch whose ticket is 2^32. -/
def headerRead (status : BitVec 8) : Ent :=
  { entry 0 .get .done with rcd := { Rec.zero with status }, cookie := BitVec.ofNat 64 (2 ^ 32 + 1) }
def toUnit (ep src tag : Nat) (l : List Byte) : Packet :=
  ⟨{ header 1 with dest := BitVec.ofNat 32 ep, src := BitVec.ofNat 32 src, tag := BitVec.ofNat 32 tag, group := 3, len := l.length }, l, false⟩
/-- One tile at priority 3, and the triple that waits until the tiles of another gang are free. -/
def lone : List Byte := recordOf 1 1000 0 0
theorem meets_LaunchesComeToRun_records :
    let s := placed [] 0 .idle
    let p := toUnit 0x4C0 1 5 lone
    let h := launchOf (2 ^ 32) .header lone []
    let read (st : BitVec 8) := withNi (placed [h] 0 .idle) 0x4C0 [headerRead st]
    (s.halo = [] ∧ s.parts = [] ∧ s.launches = [] ∧ Quiet s 0x4C0 ∧ Reachable s p.hdr.src ∧ p.hdr.kind = 0x01 ∧ (lone.take 63).length ≠ 64) ∧
    (s.rejection p.hdr.src 64 p.payload = none ∧ p.payload.length = 64 ∧ s.mgmt.outMask = []) ∧
    (∀ st ∈ [0x08#8, 0x00#8], (read st).launches = [h] ∧ (read st).grpPart = [] ∧ (read st).pkg < 2 ^ 20 ∧ Reachable (read st) h.launcher ∧
      (read st).injecting 0x4C0 = false ∧ ((read st).getNi 0x4C0).ents = [headerRead st] ∧ (headerRead st).cookie.toNat = h.n + 1) ∧
    (headerOk h.header h.lrec.imglen = true ∧ h.lrec.preds = [] ∧ (read 0).placeable h = true) := by
  simp only [Quiet, Reachable]; decide
def fetchDone : Ent := { headerRead 0 with cookie := 0 }
theorem meets_LaunchesComeToRun_placement :
    let l := launchOf 1 .eligible lone []
    let old := { launchOf 1 .eligible (recordOf 2 1000 0 0) [] with boost := 3 }
    let big := launchOf 1 .eligible (recordOf 3 1000 0 0) []
    let s := placed [l] 0 .idle
    let busy := placed [big] 7 .running
    let loads := withEnts (placed [launchOf 1 .loading lone [0]] 1 .loading) [fetchDone]
    (min 7 (old.lrec.prio + old.boost) < 7 ∧ (old.boost + 1) * (1000 * s.param (some 0) 0) ≤ s.time - old.since) ∧
    (s.halo = [] ∧ s.parts = [] ∧ l.lrec.flags.getLsbD 2 = false ∧ s.placeFor l = some [0] ∧ [0].Nodup ∧ ∀ x ∈ [0], x < 0x400) ∧
    (OneTileLaunch loads (launchOf 1 .loading lone [0]) ∧ loads.tile.gang = 1 ∧ loads.tile.ni.ents = [fetchDone] ∧
      (launchOf 1 .loading lone [0]).st = .loading) ∧
    (busy.drainDue 0 = some big ∧ busy.bestPosition big = some ([0, 1, 2], some 0) ∧ 0 ≤ busy.time + 1000 * busy.param (some 0) 2) := by
  simp only [OneTileLaunch, Quiet, Reachable]; decide

def running (l : Launch) : State := placed [l] 1 .running
/-- What a suspended gang left in the shadow store. -/
def context : Context :=
  { thr := base.tile.thr, mem := [(5, 1)], imem := [(6, 2)], ni := Ni.empty, latch := none, poison := [], twin := none, gang := 1, run := .running, item := [] }
theorem meets_GangsLeaveTheirTiles :
    let l := launchOf 1 .placed lone [0]
    let s := running l
    let moves := s.onTile fun t => { t with eng := { t.eng with store := 1001 } }
    let ended := s.onThr fun h => { h with endStep := 3 }
    let quits := launchOf 1 (.quitting 6 0) lone [0]
    let faulted := { l with parkedBy := some (5, 9), recordAt := some 1000 }
    let halted := { faulted with halt := true }
    (OneTileLaunch s l ∧ s.tile.gang = l.n ∧ s.tile.run ≠ .removed ∧ s.tile.run = .running ∧ s.tile.spec = none ∧ l.lrec.lease ≠ 0 ∧
      l.placedAt + 1000 * l.lrec.lease + l.suspended ≤ s.time) ∧
    (AtRest s ∧ OneTileLaunch moves l ∧ ¬moves.tile.eng.store ≤ moves.cycle) ∧
    (OneTileLaunch (placed [quits] 1 .stopping) quits ∧ AtRest (placed [quits] 1 .stopping)) ∧
    (OneTileLaunch ended l ∧ ended.tile.run = .running ∧ ended.tile.thr.endStep = 3) ∧
    (OneTileLaunch (placed [faulted] 1 .parked) faulted ∧ AtRest (placed [faulted] 1 .parked) ∧ faulted.parkedBy = some (5, 9) ∧
      faulted.recordAt = some 1000 ∧ faulted.halt = false ∧ 1000 + 10000000 ≤ (placed [faulted] 1 .parked).time) ∧
    (OneTileLaunch (placed [halted] 1 .parked) halted ∧ AtRest (placed [halted] 1 .parked) ∧ halted.halt = true) := by
  refine ⟨?_, ?_, ?_, ?_, ?_, ?_⟩ <;> simp only [OneTileLaunch, Quiet, Reachable, AtRest] <;> decide
theorem meets_GangsLeaveTheirTiles_preemption :
    let g := launchOf 1 .placed lone [0]
    let l := { launchOf 2 .eligible (recordOf 3 1000 0 0) [] with lrec := { LaunchRec.ofBytes (recordOf 3 1000 0 0) with prio := 5 } }
    let s := placed [g, l] 1 .running
    let stopping := placed [launchOf 1 .stopping lone [0]] 1 .stopping
    let flies := stopping.onThr fun h => { h with land := [⟨.s 4, 1002, 0⟩] }
    let suspended := placed [launchOf 1 .suspended lone [0]] 0 .idle
    let resuming := (placed [launchOf 1 .resuming lone [0]] 0 .idle).onTile fun t => { t with shadow := some context }
    (s.launchNo 2 = some l ∧ s.placeFor l = none ∧ s.victims l = some [1] ∧ s.launchNo 1 = some g ∧ l.n ≠ g.n ∧ g.tiles = [s.tile.ep] ∧
      g.lrec.flags.getLsbD 2 = false ∧ s.tile.run = .running ∧ s.tile.spec = none) ∧
    (OneTileLaunch stopping (launchOf 1 .stopping lone [0]) ∧ stopping.tile.run = .stopping ∧ AtRest stopping) ∧
    (OneTileLaunch flies (launchOf 1 .stopping lone [0]) ∧ ¬∀ x ∈ flies.tile.thr.land, x.ready ≤ flies.cycle) ∧
    (OneTileLaunch suspended (launchOf 1 .suspended lone [0]) ∧ (launchOf 1 .suspended lone [0]).by_ = 0 ∧ suspended.tile.gang = 0) ∧
    (OneTileLaunch resuming (launchOf 1 .resuming lone [0]) ∧ resuming.tile.shadow = some context ∧ context.twin = none ∧
      context.ni.ents = [] ∧ context.poison = []) := by
  refine ⟨by decide, ?_, ?_, ?_, ?_⟩ <;> simp only [OneTileLaunch, Quiet, Reachable, AtRest] <;> decide

theorem meets_WorkItems :
    let l := launchOf 1 .placed (recordOf 1 1000 0x02FE 1) [0]
    let i : Item := ⟨255, List.replicate 16 1, 1, 1, 1⟩
    let binds (n : Nat) := decide (l.st = .placed ∧ l.lrec.stage.toNat % 256 ≤ n ∧ n < l.lrec.stage.toNat % 256 + l.lrec.stage.toNat / 256)
    let s := { placed [l] 1 .running with stgPart := [(255, some 0)] }
    let waiting := ({ s with disp := ⟨[i], [], 9, 0, []⟩ }).onTile fun t => { t with waitw := true }
    let logged := { s with disp := ⟨[], [⟨i, 1, 1, 5⟩], 9, 0, []⟩ }
    let ticket := toUnit 0x4C1 1 0xFFFF (toLE 8 (5 % 2 ^ 32 + i.stage % 256 * 2 ^ 32))
    ((placed [] 0 .idle).ownPkg 1 = true ∧ rankEp 1 < 0x400 ∧ (header 1).kind = 0x01 ∧ (List.replicate 16 (1 : Byte)).length = 16) ∧
    (Sparse.get none s.stgPart 255 = some 0 ∧ s.partOf 1 = some 0 ∧ l ∈ s.launches ∧ binds 255 = true ∧ s.disp.queues.length < 16384) ∧
    (waiting.launches = [l] ∧ l.tiles = [0] ∧ (waiting.getTile 0).waitw = true ∧ (waiting.getTile 0).run = .running ∧
      (waiting.getTile 0).item = [] ∧ waiting.disp.queues = [i]) ∧
    (logged.disp.logged = [⟨i, rankEp 1, l.n, 5⟩] ∧ logged.ownPkg 1 = true ∧ l ∈ logged.launches ∧ l.lrec.flags.getLsbD 0 = true ∧ ticket.payload = toLE 8 (5 + 255 * 2 ^ 32)) := by decide

def faultRecord : LogRec := ⟨5, 4, 2, 0xA, 0x400, 63, 9, 7, 0x55, 1, 0, 1, 2, 0⟩
def compared (t0 : Nat) : Twin := ⟨false, 1, [], [(7, 3, [5, 6], 4, t0)], 8, none, 1, []⟩
def paired : Ent := { entry 4 .get .shards with pairWait := true }
theorem meets_RecordsTwinsRetention :
    let q : LogQueue := ⟨0x420, [faultRecord], 6, 4⟩
    let s := { base with mgmt := { base.mgmt with queues := [q], elTail := 4095, elIen := true } }
    let ranked := { s with parts := [(63, { Part.zero with faultRank := 1 })] }
    let twin := (withEnts base [paired]).onTile fun t => { t with twin := some (compared 64000) }
    let kept := (placed [] 0 .idle).onTile fun t => { t with retain := [(3, .active 5), (7, .kept 10)] }
    (s.mgmt.queues = [q] ∧ q.recs = [faultRecord] ∧ s.launches = [] ∧ (s.mgmt.elTail + 2 ^ 32 - s.mgmt.elHead) % 2 ^ 32 < 4096 ∧ s.parts = []) ∧
    ((Sparse.get Part.zero ranked.parts faultRecord.part).faultRank = 1 ∧ faultRecord.part < 64 ∧ faultRecord.sev < 3 ∧ Quiet ranked 0x4C2 ∧
      Reachable ranked 1) ∧
    (twin.tile.ep < 0x400 ∧ (twin.tile.ni.ents.map fun f => f.id).Nodup ∧ twin.tile.twin = some (compared 64000) ∧
      (compared 64000).partner ≠ twin.tile.ep ∧ paired ∈ twin.tile.ni.ents ∧ paired.phase ≠ .done ∧ Plain paired) ∧
    (kept.tile.poison = [] ∧ kept.tile.flaws = [] ∧ kept.partOf kept.tile.ep = some 0 ∧ kept.param (some 0) 7 ≠ 0 ∧
      kept.tile.retained 3 = some (.active 5) ∧ 5 + 1000 * kept.param (some 0) 7 ≤ kept.time ∧ kept.tile.retained 7 = some (.kept 10) ∧
      10 + 100000000 ≤ kept.time) := by
  simp only [Quiet, Reachable, Plain]; decide

/-- An active function of the highest number, with a partition and rings of 16 slots. -/
def active : HostFn :=
  { HostFn.zero with enabled := true, part := some 0, en := true, state := .run, sqBase := 0x10000, sqSize := 16, cqBase := 0x20000, cqSize := 16 }
def hosting (f : HostFn) : State :=
  { base with fns := [(63, f)], hostMem := [(0x2000, 4)], ctxPart := [(9, some 0)] }
theorem meets_HostDescriptors :
    let s := hosting active
    let d := descriptor 0 1 512
    let post := { entry 5 .post .posted with cookie := 0x10010, detached := true, buf := .host 0x2000 }
    let posts := hosting { active with ni := { Ni.empty with ents := [post] } }
    let c : Rec × Word := ({ Rec.zero with status := 2, tag := 9 }, 0xABC)
    let completes := hosting { active with ien := true, ni := { Ni.empty with waitCq := [c] } }
    (63 < 64 ∧ (s.getFn 63).en = true ∧ (s.getFn 63).state ≠ .error ∧ (s.getFn 63).part = some 0 ∧ s.grpPart = [] ∧ s.pkg < 2 ^ 20 ∧
      (s.getFn 63).ni.ents = [] ∧ Reachable s d.rank ∧ d.len.toNat ≤ 512 ∧ (s.getFn 63).ni.unexp = []) ∧
    (1 ≤ d.len.toNat ∧ d.va.toNat < 2 ^ 48 ∧ d.va.toNat % 65536 + d.len.toNat ≤ 65536 ∧ Sparse.get none s.ctxPart d.actx.toNat = some 0 ∧
      s.mgmt.outMask = [] ∧ s.injecting (0x500 + 63) = false) ∧
    ((posts.getFn 63).ni.ents = [post] ∧ post.kind = .post ∧ post.cookie = d.va ∧ post.phase = .posted ∧ post.nb = none ∧ post.detached = true) ∧
    ((completes.getFn 63).ni.waitCq = [c] ∧ ((completes.getFn 63).cqTail + 2 ^ 32 - (completes.getFn 63).cqHead) % 2 ^ 32 < 16) := by
  simp only [Reachable]; decide

/-- Functions in each state of their interface; the registers at the ends of their ranges. -/
theorem meets_HostRegistersAndInterfaces :
    let f (st : Tdisp) (part : Option Nat) := (hosting { active with en := false, state := st, part }).getFn 63
    ((f .unlocked none).sqTail = (f .unlocked none).sqHead ∧ (f .unlocked none).sqTail < 2 ^ 32 ∧ (f .unlocked none).en = false ∧
      (7#64).getLsbD 0 = true ∧ (f .unlocked none).sqSize = 2 ^ 4 ∧ (f .unlocked none).cqSize = 2 ^ 4 ∧
      (f .unlocked none).sqBase.toNat % 4096 = 0 ∧ (f .unlocked none).cqBase.toNat % 4096 = 0) ∧
    (((f .run none).cqTail + 2 ^ 32 - 0) % 2 ^ 32 ≤ (f .run none).cqSize.toNat ∧
      (f .run none).cqSize.toNat < ((f .run none).cqTail + 2 ^ 32 - 1) % 2 ^ 32) ∧
    (f .locked none).state = .locked ∧ base.mgmt.jFull = false ∧ ((f .unlocked (some 63)).part = some 63 ∧ 63 < 64) ∧
    (f .locked (some 63)).state ≠ .unlocked ∧ (f .run none).state ≠ .locked ∧ ((f .error none).state = .error ∧ (f .error none).part = none) ∧
    base.mgmt.queues = [] ∧ ((hosting { active with tailDue := true }).getFn 63).tailDue = true := by decide

theorem meets_PartitionsAndTables :
    let s := { base with grpPart := [(65535, some 63)] }
    let q := shardOf 191 0x140010 40 []
    let w : Waiting := ⟨1, q, 2, [], true⟩
    let pend := { base with srv := [(191, { Server.empty with pending := [(w, 0, 20, 2)] })] }
    (s.partOf s.tile.ep ≠ some 63 ∧ (placed [] 0 .idle).partOf 0 = some 0 ∧ 63 < 64 ∧ s.fns = [] ∧ 65535 < 65536 ∧ 255 < 256 ∧ s.tile.ep < 0x400 ∧ s.tile.gang = 0 ∧ s.tile.shadow = none) ∧
    ((placed [] 1 .running).tile.gang ≠ 0 ∧ (placed [] 1 .running).tile.ep < 0x400) ∧
    (Sparse.get none s.grpPart 65535 = some 63 ∧ 2048 % 64 = 0 ∧ (s.getPart 63).groups.length < 256) ∧
    (191 < 192 ∧ 2 ^ 36 - 1 < 2 ^ 36 ∧ (s.getSrv 191).pending = []) ∧
    ((pend.getSrv 191).pending = [(w, 0, 20, 2)] ∧ (pend.getSrv 191).held = [] ∧ (pend.getSrv 191).fences = [] ∧ q.srv = 191 ∧ q.actx = 9) ∧
    (16383 < 16384 ∧ Sparse.get none s.keys 16383 = none ∧ Sparse.get none s.slotPart 16383 = none ∧ s.srv = []) ∧ 1048575 < 1048576 := by decide

theorem meets_StartUpPowerAlarm :
    let idle (policy : Nat) := { base with tile := { Tile.reset 1023 with run := .idle }, mgmt := { base.mgmt with policy } }
    let locked := { hosting { active with state := .locked, part := none } with mgmt := { base.mgmt with policy := 1 } }
    State.reset.mgmt.boot = .reset ∧ State.reset.tile.ep < 1024 ∧ base.launches = [] ∧ (1 ≤ 63 ∧ 63 < 64) ∧ (3 < 4 ∧ base.mgmt.queues = []) ∧
    (({ base.mgmt with policy := 0 } : Mgmt).policy = 0 ∧ 2 ≠ 3) ∧
    (locked.mgmt.policy = 1 ∧ locked.srv = [] ∧ locked.fns = [(63, { active with state := .locked, part := none })] ∧ locked.fns ≠ [] ∧
      locked.mgmt.queues = []) ∧
    ∀ policy ∈ [0, 1, 2, 3], (idle policy).mgmt.policy = policy ∧ (idle policy).fns = [] ∧ (idle policy).srv = [] ∧ (idle policy).others = [] ∧
      (idle policy).tile.run = .idle ∧ (idle policy).tile.twin = none ∧ (idle policy).tile.ep < 0x400 ∧ (idle policy).tile.ni.ents = [] := by decide

/-! ### Words and steps -/

/-- The least and the greatest fields of an instruction of a C slot and of an I slot. -/
theorem meets_EncodedWordsDecode :
    ((Instr.wellFormed (.loopi 3 0xFFFF 0xFFFF) = true ∧ slotOf (.loopi 3 0xFFFF 0xFFFF) = some 0) ∧
      (Instr.wellFormed (.addi 31 31 0xFFFF) = true ∧ slotOf (.addi 31 31 0xFFFF) = some 1)) := by decide
theorem meets_AcceptedWordsEncode : 7 < 8 ∧ decodeSlot 7 0 = .ok .nop ∧ decodeSlot 2 0x08630040 = .ok (.addi 3 3 64) := by decide

theorem meets_StepTakesInputsThenTurns :
    let s := { base with turns := [.input .tileClockLowering] }
    (State.reset.mgmt.boot = .reset ∧ base.mgmt.boot = .running ∧ base.mgmt.boot ≠ .halted) ∧
    (s.turns = [.input .tileClockLowering] ∧ (s.popTurn []).takes .tileClockLowering = true) ∧
    (base.turns = [] ∧ base.round = []) ∧ ((turnAt base 0x40 []).turns = [] ∧ (turnAt base 0x40 []).round = [0]) := by decide

/-- Whether an instruction has its effect (0), stalls (1) or traps at issue with a cause other than RESERVED_ENCODING (2). -/
def ending (i : Instr) (v : State) : Nat :=
  match exec i v with
  | .next t =>
    if t.tile.iss.stall.isSome then 1
    else if t.tile.iss.trapped.isNone then 0
    else if t.tile.iss.trapped == some false && (t.tile.iss.raised.map fun c => c.1) != some 0x01 then 2 else 3
  | _ => 4

/-- A load that has its effect, SLEEP until a later TIME, which stalls, and a load out of range under ENOOR, which traps, in fixed form at the
end of the instruction store; and, in packed form, one word alone, and one of seven. -/
theorem meets_StepRunsTheDecodedWord :
    ∀ e ∈ ([(3, 0x04838008, .ldw 4 3 8, 0), (0, 0x44050000, .sleept 5, 1), (3, 0x04848008, .ldw 4 4 8, 2)] : List (Nat × W32 × Instr × Nat)),
      let m := withCr (machine [(3, 0x100), (4, 0x1FBFFC), (5, 55001)]) [(0x023, 0x8000000000001000)]
      let s := turnAt m 0x3FFE0 ((List.range 8).map fun j => if j = e.1 then e.2.1 else 0)
      let u := ({ s with round := [] }).focus 0
      let o := u.openIssue 0x3FFE0 0 true
      (s.mgmt.boot = .running ∧ s.turns = [] ∧ s.round = [0]) ∧
      (u.tile.run = .running ∧ u.tile.idle ≤ s.cycle ∧ u.tile.twin = none ∧ u.tile.spec = none ∧ u.tile.thr.endStep ≠ 3 ∧
        u.tile.thr.replay = none ∧ u.tile.thr.pend = [] ∧ u.tile.packed = false ∧ u.tile.poison = []) ∧
      (e.1 < 8 ∧ e.2.1 ≠ 0 ∧ (∀ j < 8, u.tile.fetchWord (u.tile.thr.pc + 4 * j) = if j = e.1 then e.2.1 else 0) ∧
        decodeSlot e.1 e.2.1 = .ok e.2.2.1 ∧ isTret e.2.2.1 = false) ∧
      (u.tile.thr.pc + 32) % 2 ^ 18 = 0 ∧ ending e.2.2.1 (o.atSlot o.tile.iss.src none e.1) = e.2.2.2 := by decide
theorem meets_StepRunsTheDecodedWord_packed :
    ∀ e ∈ ([(3, 0x08, [0x08, 0x04838008]), (1, 0xFE, [0xFE, 0x08630040, 0, 0, 0, 0, 0, 0])] : List (Nat × W32 × List W32)),
      let s := turnAt (withCr (machine [(3, 0x100)]) [(0x014, 1)]) 0x40 e.2.2
      let u := ({ s with round := [] }).focus 0
      let before (j : Nat) : Nat := (List.range j).countP fun m => e.2.1.getLsbD m
      u.tile.packed = true ∧ u.tile.fetchWord u.tile.thr.pc = e.2.1 ∧ e.2.1.toNat < 2 ^ 8 ∧ e.2.1.getLsbD e.1 = true ∧
      (∀ j < 8, e.2.1.getLsbD j = true → u.tile.fetchWord (u.tile.thr.pc + 4 * (1 + before j)) = if j = e.1 then e.2.2.getD 1 0 else 0) ∧
      decodeSlot 3 0x04838008 = .ok (.ldw 4 3 8) ∧ decodeSlot 1 0x08630040 = .ok (.addi 3 3 64) := by decide

/-- A reserved word in the first and the last slot; a packed header with its lowest and with its highest reserved bit. -/
theorem meets_ReservedEncodingTraps :
    ∀ e ∈ ([(0, 0x58000000, 0), (7, 0xFC000000, 0)] : List (Nat × W32 × Nat)),
      let s := turnAt (withCr (machine []) [(0x023, 0x2000)]) 0x3FFE0 ((List.range 8).map fun j => if j = e.1 then e.2.1 else 0)
      s.tile.spec = none ∧ s.hm = false ∧ (s.cr 0x023).toNat % 2 ^ 18 ≠ 0 ∧ s.tile.packed = false ∧
      (∀ j, (s.tile.thr.regs.getLC j).active = false) ∧ s.tile.thr.pc < 2 ^ 18 ∧
      (∀ j < 8, s.tile.fetchWord (s.tile.thr.pc + 4 * j) = if j = e.1 then e.2.1 else 0) ∧ decodeSlot e.1 e.2.1 = .error e.2.2 := by
  intro e he
  simp only [List.mem_cons, List.not_mem_nil, or_false] at he
  rcases he with rfl | rfl <;>
    exact ⟨by decide, by decide, by decide, by decide, fun _ => rfl, by decide, by decide, by decide⟩
theorem meets_ReservedEncodingTraps_packed :
    ∀ n ∈ [0x0000010A, 0x8000000A], let w : W32 := BitVec.ofNat 32 n
      let s := turnAt (withCr (machine []) [(0x014, 1), (0x023, 0x2000)]) 0x40 [w, 0x08630040, 0]
      s.tile.spec = none ∧ s.hm = false ∧ (s.cr 0x023).toNat % 2 ^ 18 ≠ 0 ∧ s.tile.packed = true ∧ s.tile.thr.pc < 2 ^ 18 ∧
      s.tile.fetchWord s.tile.thr.pc = w ∧ 2 ^ 8 ≤ w.toNat ∧ s.tile.fetchWord (0x40 + 4 * (1 + 0)) = 0x08630040 ∧
      decodeSlot 1 0x08630040 = .ok (.addi 3 3 64) ∧ s.tile.fetchWord (0x40 + 4 * (1 + 1)) = 0 := by decide

theorem meets_MemoryKeepsItsForm :
    let s := (withCr (machine [(1, 0x100), (3, 5)]) [(0x023, 0x2000)]).onTile fun t => { t with mem := [(0x100, 5), (0x1FBFFF, 1)], anvil := [(0, 3)] }
    slotOf (.std 1 3 0) = some 3 ∧ Confirmed s ∧ s.hm = false ∧ (s.cr 0x023).toNat % 2 ^ 18 ≠ 0 ∧
    (s.source.regs.getC 0x020).getLsbD 63 = false ∧ s.tile.mem.wf = true ∧ s.tile.anvil.wf = true ∧
    (match exec (.std 1 3 0) s with | .next t => decide (t.tile.mem ≠ s.tile.mem) | _ => false) = true := by
  simp only [Confirmed]; decide

/-! ### States for the clauses about failures and corners -/

/-- What parks a tile that stands alone: handler mode, no handler, and an error in the capture. -/
theorem meets_TakingATrap_parking :
    let c : Capture := ⟨1, Regs.zero, [], [], none, [], []⟩
    let s := (handled 7).onTile fun t => { t with poison := [.capture] }
    inHandler.hm = true ∧ (base.cr 0x023).toNat % 2 ^ 18 = 0 ∧ ([c] ≠ [] ∧ Poison.capture ∈ s.tile.poison ∧ s.tile.twin = none) := by decide

/-- A captured operand that TOPD0 replaces, and a third that TOPD3 does. -/
theorem meets_ControlRegisters_captures :
    let c : Capture := ⟨3, Regs.zero, [SVal.zero, SVal.zero], [], some 0x071, [], []⟩
    let s := inHandler.onThr fun h => { h with caps := [c] }
    s.tile.spec = none ∧ s.hm = true ∧ s.tile.thr.caps = c :: [] ∧ (0x024#12).toNat = 0x024 + 0 ∧ (0x027#12).toNat = 0x024 + 3 ∧ 0 < c.ops.length ∧
    c.third = some 0x071 := by decide

/-- A counted stall of each kind at LIMIT, one below it, LIMIT 0, handler mode, and END in its third phase. -/
theorem meets_SpeculationAndWatchdog_kinds :
    let at_ (v : Word) (k : Stall) := (withCr (handled 6) [(0x0C0, v)]).onIss fun i => { i with stall := some k }
    let ended := (at_ 0x500000005 .endWait).onThr fun h => { h with endStep := 3 }
    (∀ k ∈ ([.waitm 63, .waitb 0, .fence, .mldbg 7, .endWait, .full 1] : List Stall), let s := at_ 0x500000005 k
      Confirmed s ∧ s.tile.iss.stall = some k ∧ (s.cr 0x0C0).toNat % 2 ^ 32 = 5 ∧ (s.cr 0x0C0).toNat / 2 ^ 32 % 2 ^ 24 = 5 ∧ s.hm = false ∧
      (s.cr 0x023).toNat % 2 ^ 18 ≠ 0 ∧ s.tile.thr.endStep ≠ 3 ∧ s.tile.thr.replay = none ∧ s.tile.thr.pc < 2 ^ 18) ∧
    ((at_ 0x400000005 .fence).cr 0x0C0).toNat / 2 ^ 32 % 2 ^ 24 < 5 ∧ ((at_ 0x500000000 .fence).cr 0x0C0).toNat % 2 ^ 32 = 0 ∧
    (inHandler.hm = true ∧ Confirmed inHandler) ∧ (at_ 0 .twin).tile.iss.stall = some .twin ∧ (Confirmed ended ∧ ended.tile.thr.endStep = 3) := by
  simp only [Confirmed]; decide

def marked (k : Nat) (l : List Poison) : State := (handled k).onTile fun t => { t with poison := l }
/-- A poisoned register; a poisoned word under the first and the last byte of a load; one that a store and a copy meet. -/
theorem meets_OperandChecksTrap_poison :
    let reg := marked 1 [.reg (.s 31)]
    let word := (marked 3 [.store 0x20]).onIss fun i => { i with poison := some [] }
    let at_ (o : BitVec 13) := ((word.opS 0 1).val + o.signExtend 64).toNat
    let moves := word.onRegs fun r => r.setS 4 (SVal.of 8)
    (TrapReady reg 1 ∧ Poison.reg (.s (31#5).toNat) ∈ reg.marks) ∧
    (TrapReady word 3 ∧ word.storeBusy = false ∧ word.marks = [] ∧ word.tile.poison = [.store 0x20] ∧
      at_ 7 < 8 * 0x20 + 8 ∧ 8 * 0x20 < at_ 7 + 8 ∧ at_ 0x1FF9 < 8 * 0x20 + 8 ∧ 8 * 0x20 < at_ 0x1FF9 + 8) ∧
    (word.tile.spec = none ∧ word.clash (.s 31) = false ∧ word.tile.eng.mma = [] ∧ word.tile.eng.msto = [] ∧ (word.opS 0 31).ok = true ∧
      (word.opS 1 1).ok = true ∧ ((word.opS 1 1).val + (0#13).signExtend 64).toNat = 8 * 0x20 ∧
      word.tile.oor ((word.opS 1 1).val + (0#13).signExtend 64) 8 = none) ∧
    (moves.marks = [] ∧ (moves.opS 0 3).ok = true ∧ (moves.opS 1 1).ok = true ∧ (moves.opS 2 4).ok = true ∧ (moves.opS 2 4).val.toNat % 2 ^ 32 = 8 ∧
      (moves.opS 1 1).val.toNat = 8 * 0x20 ∧ (moves.opS 0 3).val.toNat % 8 = 0 ∧ moves.tile.oor (moves.opS 0 3).val 8 = none ∧
      moves.tile.oor (moves.opS 1 1).val 8 = none ∧ Poison.store 0x20 ∈ moves.tile.poison) := by
  simp only [TrapReady]; decide

/-- Region 0 of the tile's own partition; s4 lies in it, s5 reaches beyond it, s6 is unaligned, s7 sets a bit that must be zero; s8 moves one byte
beyond the region's end, s9 one byte within a region of another partition, s10 is a generation that has passed, and s11 lies in another partition's region. -/
def offsets (k : Nat) : State :=
  let s := (handled k).onRegs fun r => ([(4, 0), (5, 0x80000 - 8192), (6, 128), (7, 0x400000), (8, 0x80007FFFF + 0x800000000), (9, 0x100000000 + 0x800000000),
    (10, 6), (11, 0x100000000)] : List (Nat × Word)).foldl (fun r x => r.setS x.1 (SVal.of x.2)) r
  withCr { s with owner := [(0, some 0)] } [(0x0D0, 7), (0x0D9, 0x100080008)]
theorem meets_OperandChecksTrap_anvil :
    let s := offsets 3
    let t := offsets 5
    let x (n : Nat) := (t.opS 0 (BitVec.ofNat 5 n)).val
    let y (n : Nat) := (s.opS 1 (BitVec.ofNat 5 n)).val
    let ab := (s.cr 0x0D8).toNat
    (TrapReady s 3 ∧ s.marks = [] ∧ s.storeBusy = false ∧ s.tile.retained 0 = none ∧ s.tile.retained 1 = none ∧ s.partOf s.tile.ep = some (ab / 2 ^ 32 % 64)) ∧
    ((y 7).toNat / 2 ^ 22 % 2 ^ 10 ≠ 0 ∧ ((y 9).toNat / 2 ^ 22 % 2 ^ 10 = 0 ∧ (y 9).toNat / 2 ^ 32 % 8 = 1 ∧ s.partOf s.tile.ep ≠ some ((s.cr 0x0D9).toNat / 2 ^ 32 % 64)) ∧
      ((y 8).toNat / 2 ^ 22 % 2 ^ 10 = 0 ∧ (y 8).toNat / 2 ^ 32 % 8 = 0 ∧ ab / 2 ^ 16 % 128 * 65536 < (y 8).toNat % 2 ^ 22 + (y 8).toNat / 2 ^ 35)) ∧
    (TrapReady t 5 ∧ t.tile.twin = none ∧ t.matrixBusy = false ∧ ¬x 7 &&& 0xFFFFFFF8FFC00000 = 0 ∧ (x 11 &&& 0xFFFFFFF8FFC00000 = 0 ∧ (x 11).toNat / 2 ^ 32 % 8 = 1) ∧
      (x 6).toNat % 2 ^ 22 % 256 ≠ 0 ∧ ((x 5).toNat % 2 ^ 22 % 256 = 0 ∧ ab / 2 ^ 16 % 128 * 65536 < (x 5).toNat % 2 ^ 22 + 8448)) ∧
    (x 4 = 0 ∧ 8448 ≤ ab / 2 ^ 16 % 128 * 65536 ∧ 0 < (t.cr 0x0D0 - (t.opS 1 10).val).toInt ∧ (marked 5 [.anvil 1055]).tile.poison = [.anvil 1055] ∧
      ab % 128 * 65536 < 8 * 1055 + 8 ∧ 8 * 1055 < ab % 128 * 65536 + 8448) := by
  simp only [TrapReady]; decide

/-- Sidecars of scale 1.0 in the first block alone; a latch with a poisoned word, and latches whose column scales and sidecars are zero under
good row scales; a word of the last row of A that is poisoned. -/
theorem meets_OperandChecksTrap_scales :
    let s := sidecars.onRegs fun r => r.setV 2 (VVal.ofBits 0x3F800000)
    let side (j : Nat) : Word := (s.rdV 2).bits.extractLsb' (64 * j) 64
    let l (fmt : Nat) (p : Option Nat) : Latch := ⟨fmt, [], 0, 0, 0, p⟩
    let m (fmt : Nat) : State := { handled 5 with tile := { (handled 5).tile with
      thr := { (handled 5).tile.thr with regs := { (handled 5).tile.thr.regs with v := (multiplies 0).tile.thr.regs.v } }, latch := some (l fmt none) } }
    let at_ (j : Nat) : Word := ((m 0).opS 0 1).val + BitVec.ofNat 64 j * ((m 0).opS 1 2).val
    (Unpoisoned s ∧ sidecarOk (side 0) = true ∧ sidecarOk (side 1) = false ∧ sidecarOk 0 = false) ∧
    (TrapReady (handled 4) 4 ∧ (handled 4).matrixBusy = false ∧ TrapReady (m 0) 5 ∧ (m 0).matrixBusy = false ∧ (m 0).tile.latch = some (l 0 none)) ∧
    ((l 0 (some 0x1FFFFF)).poison = some 0x1FFFFF ∧ ((m 0).opS 0 1).ok = true ∧ ((m 0).opS 1 2).ok = true ∧ ∀ j < 64, (m 0).tile.oor (at_ j) 256 = none) ∧
    (scaleOk (lane ((handled 5).rdV 3).bits 0) = false ∧ (∀ j < 64, scaleOk (lane ((m 0).rdV 3).bits j) = true) ∧
      (∀ f < 4, scaleOk ((l f none).colScale 0) = false) ∧ sidecarOk ((l 4 none).colSidecar 0 0) = false) ∧
    (let p := (multiplies 0).onTile fun t => { t with poison := [.store ((at_ 63).toNat / 8 + 15)] }
     (p.onIss fun i => { i with poison := some [] }).marks = [] ∧ (at_ 63).toNat ≤ 8 * ((at_ 63).toNat / 8 + 15) ∧
       8 * ((at_ 63).toNat / 8 + 15) < (at_ 63).toNat + 128) := by
  simp only [Unpoisoned, TrapReady]; decide

/-- 1, −1 and 2 as real numbers. -/
theorem fpReal_values : fpReal 0x3F800000 = 1 ∧ fpReal 0xBF800000 = -1 ∧ fpReal 0x42C80000 = 100 ∧ fpReal 0 = 0 ∧ fpReal 0x80000000 = 0 := by
  have e (x : W32) (n : Nat) (h : x.toNat = n) : fpReal x = codeReal .f32 n := by rw [fpReal, h]
  rw [e 0x3F800000 0x3F800000 rfl, e 0xBF800000 0xBF800000 rfl, e 0x42C80000 0x42C80000 rfl, e 0 0 rfl, e 0x80000000 0x80000000 rfl]
  norm_num [codeReal, Fmt.f32]
/-- Operands that are finite, positive, negative and zero, an integer and a power of two; codes of each class; a NaN; a range of integers. -/
theorem meets_FloatingPointCorners_finite :
    let a := fpReal 0x3F800000
    (3 < 4 ∧ FiniteFp 0x3F800000 ∧ FiniteFp 0x00000001 ∧ FiniteFp 0x7F7FFFFF) ∧ (a ≠ 0 ∧ 0 < a ∧ a = (1 : ℤ) ∧ a = (2 : ℝ) ^ (0 : ℤ)) ∧
    fpReal 0 = 0 ∧ fpReal 0xBF800000 < 0 ∧ ((1 : ℤ) ≠ 0 ∧ (-2 ^ 31 : ℤ) ≤ 2 ^ 31 - 1) ∧
    (0x7E % 2 ^ (4 + 3) ≤ Fmt.e4m3.maxCode ∧ 0x7C = Fmt.e5m2.maxCode + 1 ∧ Fmt.e5m2 ≠ .e4m3 ∧ Fmt.e5m2.maxCode + 1 < 0x7D) ∧
    (f32 0x7F800001).isNan = true := by
  simp only [fpReal_values.1, fpReal_values.2.1, fpReal_values.2.2.2.1]
  refine ⟨by simp only [FiniteFp]; decide, by norm_num, trivial, by norm_num, by norm_num, by decide, by decide⟩

/-- SCALE 1.0 with EXTRA 0: 6 is the greatest value, 100 lies beyond it and −1 and 1 within; code 12 is the greatest of those below zero; a NaN. -/
theorem meets_PackedConversions_codes :
    let val (c : Nat) : ℝ := valReal (e2m1 0 c)
    (scaleOk 0x3F800000 = true ∧ 0 < 256 ∧ 0 % 128 ≠ 127) ∧ (f32 0x7F800001).isNan = true ∧
    (7 < 16 ∧ ∀ j < 16, 1 * val j ≤ 1 * val 7 ∧ (7 = 8 → j ≠ 8 → val j ≠ val 8)) ∧ (15 < 16 ∧ ∀ j < 16, -1 * val j ≤ -1 * val 15) ∧
    (f32 0x7F800000 = .inf false ∧ f32 0xFF800000 = .inf true) ∧
    (FiniteFp 0x42C80000 ∧ 1 * val 7 < |fpReal 0x42C80000 / fpReal 0x3F800000|) ∧
    (FiniteFp 0x3F800000 ∧ |fpReal 0x3F800000 / fpReal 0x3F800000| ≤ 1 * val 7) ∧ val 2 * fpReal 0x3F800000 ≠ 0 ∧ val 8 = 0 := by
  have up : ∀ j < 16, (e2m1 0 j).int ≤ (e2m1 0 7).int := by decide
  have low : ∀ j < 16, (e2m1 0 15).int ≤ (e2m1 0 j).int := by decide
  have top : valReal (e2m1 0 7) = 6 := by rw [valReal, show (e2m1 0 7).int = 6 * 2 ^ 149 by decide]; norm_num
  have one : valReal (e2m1 0 2) = 1 := by rw [valReal, show (e2m1 0 2).int = 2 ^ 149 by decide]; norm_num
  have zero : valReal (e2m1 0 8) = 0 := by rw [valReal, show (e2m1 0 8).int = 0 by decide]; norm_num
  have le (x y : FVal) (h : x.int ≤ y.int) : valReal x ≤ valReal y :=
    mul_le_mul_of_nonneg_right (by exact_mod_cast h) (by positivity)
  refine ⟨by decide, by decide, ⟨by decide, fun j h => ⟨by linarith [le _ _ (up j h)], fun h => absurd h (by decide)⟩⟩, ⟨by decide, fun j h => by linarith [le _ _ (low j h)]⟩,
    by decide, ⟨by simp only [FiniteFp]; decide, ?_⟩, ⟨by simp only [FiniteFp]; decide, ?_⟩, ?_, zero⟩
  · simp only [top, fpReal_values.1, fpReal_values.2.2.1]; norm_num
  · simp only [top, fpReal_values.1]; norm_num
  · simp only [one, fpReal_values.1]; norm_num

/-- Accumulators of each kind; sums that are not zero, zero with and without terms of both signs, and that hold NaN or infinities. -/
theorem meets_MasksReductionsAccumulation_sums :
    (XA.clear.zs ≠ 3 ∧ FiniteFp 0x3F800000 ∧ (0x3F800000#32) ≠ 0x80000000) ∧
    ({ XA.clear with nan := true }.nan = true ∧ XA.clear.nan = false ∧ { XA.clear with pinf := 1 }.pinf ≠ 0 ∧ { XA.clear with ninf := 1 }.ninf ≠ 0 ∧
      { XA.clear with n := 1 }.n ≠ 0 ∧ Fmt.bf16 ∈ [Fmt.f32, .bf16]) ∧
    ((∀ x ∈ [0x3F800000#32], FiniteFp x) ∧ ([0x3F800000#32].map fpReal).sum ≠ 0) ∧
    ((∀ x ∈ [0x3F800000#32, 0xBF800000], FiniteFp x) ∧ ([0x3F800000#32, 0xBF800000].map fpReal).sum = 0 ∧
      (∃ x ∈ [0x3F800000#32, 0xBF800000], x ≠ 0) ∧ ∃ x ∈ [0x3F800000#32, 0xBF800000], x ≠ 0x80000000) ∧
    ((∀ x ∈ [0x80000000#32], FiniteFp x ∧ x = 0x80000000) ∧ [0x80000000#32] ≠ []) ∧
    (f32 0x7F800001 = .nan ∧ f32 0x7F800000 = .inf false ∧ f32 0xFF800000 = .inf true) := by
  refine ⟨⟨by decide, by simp only [FiniteFp]; decide, by decide⟩,
    ⟨rfl, rfl, by decide, by decide, by decide, by decide⟩, ⟨by simp [FiniteFp], ?_⟩,
    ⟨by simp [FiniteFp], ?_, ⟨0x3F800000, .head _, by decide⟩, ⟨0x3F800000, .head _, by decide⟩⟩, ⟨by simp [FiniteFp], by decide⟩, by decide⟩
  · show fpReal 0x3F800000 + 0 ≠ 0; rw [fpReal_values.1]; norm_num
  · show fpReal 0x3F800000 + (fpReal 0xBF800000 + 0) = 0; rw [fpReal_values.1, fpReal_values.2.1]; norm_num

/-- Products that are finite, their sum not zero, zero and −0; one that is lost; a NaN; infinities of one sign and of both. -/
theorem meets_MatrixMultiply_sums :
    let one : FVal := .fin false (2 ^ 149)
    let isFin (v : FVal) : Prop := ∃ n m, v = .fin n m
    scaleOk 0x3F800000 = true ∧ (isFin one ∧ one.int = 2 ^ 149 ∧ one.neg = false ∧ isFin (.fin true 0) ∧ (FVal.fin true 0).int = 0 ∧ (FVal.fin true 0).neg = true) ∧
    (FiniteFp 0x3F800000 ∧ FiniteFp 0x80000000) ∧ ((one.int * one.int : ℝ) * (2 : ℝ) ^ (-596 : ℤ) + fpReal 0 ≠ 0) ∧
    ((one.int * (FVal.fin true 0).int : ℝ) * (2 : ℝ) ^ (-596 : ℤ) + fpReal 0x80000000 = 0) ∧
    ((FVal.inf false).neg = false ∧ (FVal.inf true).neg = true ∧ FVal.inf true ≠ .nan ∧ f32 0x7F800001 = .nan ∧ f32 0xFF800000 = .inf true) := by
  refine ⟨by decide, ⟨⟨_, _, rfl⟩, by decide, rfl, ⟨_, _, rfl⟩, by decide, rfl⟩, by simp only [FiniteFp]; decide, ?_, ?_, by decide⟩
  · rw [show (FVal.fin false (2 ^ 149)).int = 2 ^ 149 by decide, fpReal_values.2.2.2.1]; positivity
  · rw [show (FVal.fin true 0).int = 0 by decide, fpReal_values.2.2.2.2]; norm_num

/-- More scalar registers. -/
def plus (s : State) (l : List (Nat × Word)) : State := s.onRegs fun r => l.foldl (fun r x => r.setS x.1 (SVal.of x.2)) r

/-- A server and the halo endpoint of another package as destinations, a reserved flag, and a length of 2^24. -/
theorem meets_SendInstructions_failures :
    let s := plus sends [(8, 0x40000405), (9, 0x14C3), (10, 2 ^ 48), (11, 2 ^ 56)]
    let ep (n : Nat) := rankEp (BitVec.ofNat 32 (s.opS 0 (BitVec.ofNat 5 n)).val.toNat)
    (sbLegal (s.opS 1 5).val false false false ∧ (s.opS 0 8).ok = true ∧ (s.opS 2 6).ok = true ∧ s.tile.oor (s.opS 2 6).val 0 = none) ∧
    (0x400 ≤ ep 8 ∧ ep 8 < 0x4C0) ∧ (ep 9 = 0x4C3 ∧ s.ownPkg (BitVec.ofNat 32 (s.opS 0 9).val.toNat) = false ∧ (s.opS 0 9).val.toNat / 2 ^ 32 = 0) ∧
    ¬sbLegal (s.opS 1 10).val false false false ∧ (16777215 < (s.opS 0 11).val.toNat / 2 ^ 32 ∧ s.tile.ni.heldTimed < 16) := by
  simp only [sbLegal]; decide

/-- Eight open contrails, one of them with tag 7. -/
def fullContrails : List Ent := (List.range 8).map fun n => { entry (n + 1) .publ .open_ with tag := BitVec.ofNat 32 (n + 7) }
theorem meets_PostingInstructions_failures :
    let s := plus posts [(10, 2 ^ 48), (11, 2 ^ 56), (12, 5), (13, 0x1005 + 64 * 2 ^ 32), (14, 2049 * 2 ^ 32)]
    let full := withEnts s fullContrails
    let none_ := withCr s [(0x019, 0)]
    let ab := (s.cr 0x0D8).toNat
    ¬sbLegal (s.opS 1 10).val true false false ∧ 16777215 < (s.opS 0 11).val.toNat / 2 ^ 32 ∧ (s.opS 0 12).val.toNat / 2 ^ 32 = 0 ∧
    2048 < (s.opS 0 14).val.toNat / 2 ^ 32 ∧ (none_.allot 0 1 = none ∧ s.tile.oor (s.opS 2 6).val 64 = none) ∧
    ((s.opS 2 8).val &&& 0xFFFFFFF8FFC00000 = 0 ∧ s.partOf s.tile.ep = some (ab / 2 ^ 32 % 64)) ∧
    (8 ≤ full.tile.ni.contrails.length ∧ ((full.tile.ni.contrails.getD 0 (entry 1 .publ .open_)).tag = 7 ∧
      full.tile.ni.contrails.getD 0 (entry 1 .publ .open_) ∈ full.tile.ni.contrails) ∧ full.tile.ni.full .publ = false) ∧
    s.ownPkg (BitVec.ofNat 32 (s.opS 0 13).val.toNat) = false := by
  simp only [sbLegal]; decide

/-- A zero length; a reserved flag; an address and a length beyond their limits; a rank that takes no notice; a misaligned box; an
empty list, a list with a reserved size, and an operation of 16. -/
theorem meets_ServerRequests_failures :
    let s := plus requests [(14, 2 ^ 48), (15, 0x100001), (16, 0x3004), (17, 0x7001), (18, 16), (19, 0x40000), (20, 0x0040000000000001)]
    let x (n : Nat) := (s.opS 0 (BitVec.ofNat 5 n)).val
    let y (n : Nat) := (s.opS 1 (BitVec.ofNat 5 n)).val
    let away := withCr s [(0x017, 0x405)]
    (sbLegal (y 13) false false false ∧ (y 13).toNat % 2 ^ 32 = 0 ∧ s.tile.oor (s.opS 2 6).val 0 = none ∧ (x 12).toNat < 2 ^ 48) ∧
    ¬sbLegal (y 14) false false false ∧ 2 ^ 48 ≤ (x 14).toNat ∧ (1048576 < (y 15).toNat % 2 ^ 32) ∧ 2 ^ 48 < (x 4).toNat + 2 ∧
    ((y 20).getLsbD 54 = true ∧ away.notifyOk (BitVec.ofNat 32 (away.rdC 0x017).toNat) = false) ∧
    (s.tile.oor (x 16) 48 = none ∧ ¬(x 16).toNat % 8 = 0) ∧ (x 7).toNat % 8 = 0 ∧
    (¬1 ≤ (y 13).toNat % 2 ^ 32 % 2 ^ 11 ∧ (y 17).toNat % 2 ^ 32 / 2 ^ 12 % 8 = 7 ∧ s.tile.oor (BitVec.ofNat 64 ((s.opS 2 8).val.toNat / 2 ^ 32)) (4 * 1) = none) ∧
    (16 ≤ (y 18).toNat % 2 ^ 32 ∧ ∀ w ∈ [0, 4, 8, 64], s.tile.oor (BitVec.ofNat 64 ((s.opS 2 8).val.toNat % 2 ^ 32)) w = none ∧
      s.tile.oor (BitVec.ofNat 64 ((s.opS 2 8).val.toNat / 2 ^ 32)) w = none) ∧
    (s.tile.oor (BitVec.ofNat 64 ((s.opS 2 8).val.toNat % 2 ^ 32)) 16 = none) := by
  simp only [sbLegal]; decide

/-- A failed request, MSG_STATUS enabled. -/
theorem meets_HandleInstructions_status :
    let e := { entry 4 .send .done with rcd := { Rec.zero with status := 0x0E } }
    let s := (withCr (handles e) [(0x023, 0x4000000000002000)]).onIss fun i => { i with hold := true }
    (Unpoisoned s ∧ Confirmed s ∧ s.tile.ep < 0x400 ∧ (s.cr 0x023).getLsbD 62 = true ∧ s.tile.iss.hold = true ∧ s.clash (.p 7) = false ∧
      s.rdH 15 = some e.id ∧ e.id ≠ 0 ∧ s.tile.ni.ent e.id = some e) ∧
    (e.phase = .done ∧ e.kind ≠ .postm ∧ e.rcd.status ≠ 0x00 ∧ e.rcd.status ≠ 0x01) := by
  simp only [Unpoisoned, Confirmed]; decide

/-- An earlier message of the same source and group that still lands; and the same when none does. -/
theorem meets_FirstPacketsArrive_overtaking :
    let x := { granting with id := 8, phase := .landing, matched := 1 }
    let s := onNi (withEnts base [x, posted]) fun n => { n with matchNo := 1 }
    let p := arriving { header 1 with xid := 10 } 64
    TileTakes s ∧ (∀ y ∈ s.tile.ni.ents, y.phase ≠ .turn ∧ (y.phase ≠ .landing ∨ y.hdr.all fun h => !(h.src == p.hdr.src && h.xid == p.hdr.xid))) ∧
    (s.tile.ni.ents.find? fun y => y.open_ && y.fits p.hdr) = some posted ∧ Plain posted ∧
    (x ∈ s.tile.ni.ents ∧ x.matched ≠ 0 ∧ x.matched ≤ s.tile.ni.matchNo ∧ x.peer = p.hdr.src ∧ x.hdr.map (fun q => q.group) = some p.hdr.group) ∧
    p.hdr.seq = Sparse.get 0 s.tile.ni.seqIn (5 * 65536) ∧
    ∀ y ∈ (withEnts base [posted]).tile.ni.ents, y.peer = p.hdr.src → y.phase ≠ .landing ∧ y.phase ≠ .relHeld := by
  simp only [TileTakes, Plain]; decide

/-- Transfers whose chunks have gone, wait for their turn or were refused, and a grant that was refused; one that the denial ends. -/
theorem meets_TransfersGoOn_revoke :
    let sending := { entry 8 .send .sending with chunks := 2 }
    let s := withEnts base [sending, posted]
    let chunk : Packet := ⟨{ header 4 with dest := 5, src := 0, xid := 9 }, [], false⟩
    let cts : Packet := ⟨header 3, [], false⟩
    let on (e : Ev) (n : Nat) : Transit := ⟨e, 0, 0, 5, 0, 5, 33, n, 990, []⟩
    let data (u : Transit) : Bool := u.ev.inner?.any fun q => q.hdr.kind == 4 && q.hdr.src == 0 && q.hdr.dest == 5 && q.hdr.xid == 9
    let grant (u : Transit) : Bool := u.ev.inner?.any fun q => q.hdr.kind == 3 && q.hdr.src == 5 && q.hdr.dest == 0 && q.hdr.xid == 9
    let packet (u : Transit) : Bool := match u.ev with | .packet _ => true | _ => false
    (TileTakes s ∧ s.tile.ni.named 5 9 = some sending ∧ Plain sending ∧ s.sched = [] ∧ s.tile.ni.waiting = []) ∧
    (let u := on (.packet chunk) 1; data u = true ∧ u.injected ≠ 0 ∧ packet u = true ∧ grant u = false) ∧
    (let u := on (.packet chunk) 0; data u = true ∧ u.injected = 0) ∧
    (let u := on (.refused cts 2000) 33; grant u = true ∧ packet u = false) := by
  refine ⟨?_, by decide, by decide, by decide⟩; simp only [TileTakes, Plain]; decide

/-- A send to another package, and one that was first refused as long ago as ABSLIMIT, or later. -/
theorem meets_RefusedAndTimedSends_failures :
    let away := { waitingAck with rank := 0x1005 }
    let old := { waitingAck with absFrom := some 0 }
    let late (t : Nat) := { withEnts base [old] with time := t }
    let p := arriving { header 6 with src := 0x1005, offset := 7 } 0
    (TileTakes (withEnts base [away]) ∧ base.ownPkg away.rank = false ∧ away.rank = p.hdr.src ∧ away.xid = p.hdr.xid ∧ p.hdr.offset = 7 ∧ Plain away) ∧
    (∀ t ∈ [100000000, 99999999], TileTakes (late t) ∧ old.absFrom = some 0 ∧ Plain old) ∧
    0 + 1000 * (late 100000000).param ((late 0).partOf 0) 4 ≤ 100000000 ∧ 99999999 < 0 + 1000 * (late 99999999).param ((late 0).partOf 0) 4 ∧
    base.mgmt.queues = [] := by
  refine ⟨?_, ?_, by decide, by decide, rfl⟩ <;> simp only [TileTakes, Plain] <;> decide

end Sys2Proof.Tests
end

section
/-!
The control registers (R173, R207, R335, R360): what GETC reads and what SETC writes, and the proof of O15.
-/
namespace Sys2Proof.Machine

open Sys2Proof.Safety

/-! ### The meanings of the four instructions -/

theorem exec_getc (d : BitVec 5) (i : BitVec 12) (s : State) : exec (.getc d i) s = execGetc d i s := rfl
theorem exec_setc (a : BitVec 5) (i : BitVec 12) (s : State) : exec (.setc a i) s = execSetc a i s := rfl
theorem exec_upoolWrite (size : Bool) (v : Word) (s : State) : exec (.upoolWrite size v) s = .next (s.writeUpool size v) := rfl
theorem exec_namedBarrierWrite (k : BitVec 6) (v : Word) (s : State) :
    exec (.namedBarrierWrite k v) s = .next (s.writeBarrier k.toNat v) := rfl

/-! ### What GETC reads -/

theorem asyncCr_iff (n : Nat) : asyncCr n = true ↔
    n = 0x010 ∨ n = 0x011 ∨ n = 0x0C0 ∨ (0x040 ≤ n ∧ n ≤ 0x042) ∨ (0x080 ≤ n ∧ n ≤ 0x0BF) ∨ (0x0D0 ≤ n ∧ n ≤ 0x0D7) := by
  simp only [asyncCr, Bool.or_eq_true, Bool.and_eq_true, beq_iff_eq, decide_eq_true_eq]
  simp only [crCYCLE, crTIME, crWDOG, crTOUCH0, crNB0, crAGEN0]
  omega

/-- The flags that are still to come are none when every result has landed. -/
theorem foldl_comingFlags {cycle : Nat} (l : List Landing) (h : ∀ x ∈ l, x.ready ≤ cycle) (f : BitVec 6) :
    l.foldl (fun f x => if cycle < x.ready then f ||| x.flags else f) f = f := by
  induction l generalizing f with
  | nil => rfl
  | cons x l ih =>
    have hx : ¬cycle < x.ready := Nat.not_lt.mpr (h x (by simp))
    rw [List.foldl_cons, if_neg hx]
    exact ih (fun y hy => h y (by simp [hy])) f

/-- FPFLAGS holds no free bit once every result has landed (R74). -/
theorem State.fpflags_of_landed {s : State} (h : ∀ l ∈ s.source.land, l.ready ≤ s.cycle) : s.fpflags = s.rdC crFPFLAGS := by
  simp [State.fpflags, foldl_comingFlags _ h]

section
variable {s : State} {n : Nat}

theorem State.readC_cycle (s : State) : s.readC crCYCLE = BitVec.ofNat 64 s.cycle := rfl
theorem State.readC_time (s : State) : s.readC crTIME = BitVec.ofNat 64 s.time := rfl
theorem State.readC_pairmode (h : s.tile.twin = none) : s.readC crPAIRMODE = 0 := by
  simp [State.readC, crPAIRMODE, crCYCLE, crTIME, crFPFLAGS, h]

/-- A register that timing changes, but CYCLE and TIME, is read as it stands (R430). -/
theorem State.readC_async (hf : s.flying (.cr n) = false) (ha : asyncCr n = true) (h1 : n ≠ crCYCLE) (h2 : n ≠ crTIME) :
    s.readC n = s.cr n := by
  have h3 : n ≠ crFPFLAGS := by rintro rfl; exact absurd ha (by decide)
  have h4 : n ≠ crPAIRMODE := by rintro rfl; exact absurd ha (by decide)
  simp [State.readC, State.crFlying, *]

/-- Every other register but PAIRMODE is read as the bundle found it (R175). -/
theorem State.readC_other (hl : ∀ l ∈ s.source.land, l.ready ≤ s.cycle) (hf : s.flying (.cr n) = false) (ha : asyncCr n = false)
    (h : n ≠ crPAIRMODE) : s.readC n = s.source.regs.getC n := by
  have h1 : n ≠ crCYCLE := by rintro rfl; exact absurd ha (by decide)
  have h2 : n ≠ crTIME := by rintro rfl; exact absurd ha (by decide)
  by_cases h3 : n = crFPFLAGS
  · subst h3
    simp [State.readC, h1, h2, State.fpflags_of_landed hl, State.rdC]
  · simp [State.readC, State.crFlying, State.rdC, *]

end

/-- A tile without a twin has no pair to read for (R430). -/
theorem State.pairOf_of_none {s : State} (h : s.tile.twin = none) : s.pairOf = none := by simp [State.pairOf, h]

/-- GETC of a tile that stands alone: the register's value with a bound of 2 (R207). -/
theorem exec_getc_alone {s : State} (hu : Unpoisoned s) (hw : s.tile.twin = none) (d : BitVec 5) (i : BitVec 12) :
    exec (.getc d i) s = .next (s.wrS d (SVal.of (s.readC i.toNat)) 2) := by
  simp only [exec_getc, execGetc, State.pairOf_of_none hw, Option.isSome_none, Bool.and_false, Bool.false_eq_true, if_false]
  exact State.checked_plain hu _ rfl rfl rfl

@[simp] theorem SVal.ok_of (x : Word) : (SVal.of x).ok = true := by simp [SVal.of, SVal.ok]

/-! ### What SETC writes -/

theorem regsExcept_setC (r : Regs) (n : Nat) (v : Word) : RegsExcept [.cr n] r (r.setC n v) := by
  simp +contextual [RegsExcept, Regs.getC_setC_ne]

@[simp] theorem State.cr_setCr (s : State) (n : Nat) (v : Word) : (s.setCr n v).cr n = v := by simp [State.cr]

/-- A write of one control register leaves everything else (R207). -/
theorem State.setCr_onlyRegs (s : State) (n : Nat) (v : Word) : OnlyRegs [.cr n] s (s.setCr n v) :=
  ⟨regsExcept_setC _ n v, fun _ => rfl, fun _ hl _ => hl, rfl⟩

/-- A register all of whose bits are writable is replaced. -/
theorem State.maskC_allOnes (s : State) (n : Nat) (v : Word) : s.maskC n 0xFFFFFFFFFFFFFFFF v = s.setCr n v := by
  rw [State.maskC, show (0xFFFFFFFFFFFFFFFF : Word) = BitVec.allOnes 64 from rfl, BitVec.not_allOnes, BitVec.and_zero,
    BitVec.zero_or, BitVec.and_allOnes]

/-- A bump of a barrier marks no poison. -/
@[simp] theorem Tile.bump_poison (t : Tile) (cycle k who : Nat) : (t.bump cycle k who).poison = t.poison := rfl

/-- A write of a barrier marks no poison. -/
@[simp] theorem Tile.writeNb_poison (t : Tile) (cycle k : Nat) (f : Word → Word) : (t.writeNb cycle k f).poison = t.poison :=
  List.foldlRecOn (motive := fun u : Tile => u.poison = t.poison) _ _ rfl fun u h _ _ => (u.bump_poison _ _ _).trans h

@[simp] theorem State.writeUpool_poison (s : State) (size : Bool) (v : Word) : (s.writeUpool size v).tile.poison = s.tile.poison := by
  simp only [State.writeUpool, apply_ite State.tile, apply_ite Tile.poison, State.setCr_tile_poison, ite_self]

/-- SETC's effect marks no poison, whatever the register. -/
theorem State.writeC_poison (s : State) (n : Nat) (v : Word) : (s.writeC n v).tile.poison = s.tile.poison := by
  simp only [State.writeC, apply_ite State.tile, apply_ite Tile.poison, State.writeUpool_poison, State.maskC, State.clearOor,
    State.clearFp, State.writeTouch, State.writeTopd, State.writeBarrier, State.onThr_tile_poison, State.onTile_tile, Tile.writeNb_poison,
    State.setCr_tile_poison, ite_self]

/-- Where no mark of poison stands, there is none to clear. -/
theorem filterPoison_of_nil {s : State} (h : s.tile.poison = []) (p : Poison → Bool) :
    (s.onTile fun t => { t with poison := t.poison.filter p }) = s := by
  obtain ⟨t, o⟩ := s
  simp only [State.onTile] at h ⊢
  rw [h, List.filter_nil, ← h]

/-- SETC on a confirmed path, in handler mode where the register asks for it, has the register's own effect (R207). -/
theorem exec_setc_confirmed {s : State} (hu : Unpoisoned s) (hs : s.tile.spec = none) (a : BitVec 5) (i : BitVec 12)
    (hh : handlerOnly i.toNat = false ∨ s.hm = true) : exec (.setc a i) s = .next (s.writeC i.toNat (s.opS 0 a).val) := by
  have hfirst : (if handlerOnly i.toNat && !s.hm then some (tcHANDLER, BitVec.ofNat 64 i.toNat) else none) = none := by
    rcases hh with h | h <;> simp [h]
  rw [exec_setc, execSetc, State.confirmed_of_none hs, State.checked_plain hu _ hfirst rfl rfl]
  exact congrArg _ (filterPoison_of_nil ((s.writeC_poison _ _).trans hu.2) _)

/-! ### The rule of each register -/

/-- The registers that SETC writes under a mask of writable bits, in any mode (R360). -/
def maskedCrs : List (Nat × Word) :=
  [(0x013, 0xFFFF), (0x015, 0xFFFFFFFF), (0x016, 0xFFFFFFFFFFFFFFFF), (0x017, 0xFFFFFFFFFFFFFFFF), (0x023, 0xC00000000003FFFC),
   (0x033, 0x7), (0x040, 0xFFFFFFFFFFFFFFFF), (0x041, 0xFFFFFFFFFFFFFFFF), (0x042, 0xFFFFFFFFFFFFFFFF), (0x050, 0xFFFFFFFF),
   (0x051, 0xFFFFFFFFF), (0x052, 0x1FFFC0), (0x053, 0xFF001FFF80), (0x071, 0xFFFFFFFF), (0x0C0, 0x80000000FFFFFFFF)]

/-- The registers that handler mode alone writes under a mask (R173, R333, R334). -/
def handlerMaskedCrs : List (Nat × Word) := [(0x021, 0x0003FFFC0003FFFC), (0x022, 0xFFFF)]

/-- The sticky flags that a one clears (R74, R344). -/
def stickyCrs : List (Nat × Word) := [(0x031, 1), (0x032, 0x3F)]

theorem State.writeC_masked (s : State) (v : Word) : ∀ e ∈ maskedCrs ++ handlerMaskedCrs, s.writeC e.1 v = s.maskC e.1 e.2 v := by
  simp only [maskedCrs, handlerMaskedCrs, List.cons_append, List.nil_append, List.forall_mem_cons, State.maskC_allOnes]
  exact ⟨rfl, rfl, rfl, rfl, rfl, rfl, rfl, rfl, rfl, rfl, rfl, rfl, rfl, rfl, rfl, rfl, rfl, fun _ h => nomatch h⟩

theorem State.writeC_sticky (s : State) (v : Word) :
    ∀ e ∈ stickyCrs, s.writeC e.1 v = s.setCr e.1 (s.cr e.1 &&& ~~~(v &&& e.2)) := by
  simp only [stickyCrs, List.forall_mem_cons]
  exact ⟨rfl, rfl, fun _ h => nomatch h⟩

/-- Any mode may write the registers but TPC, TMASK and TOPD0 to TOPD3 (R173). -/
theorem handlerOnly_eq_false {n : Nat} (h : ¬(n = 0x021 ∨ n = 0x022 ∨ (0x024 ≤ n ∧ n ≤ 0x027))) : handlerOnly n = false := by
  simp only [handlerOnly, Bool.or_eq_false_iff, Bool.and_eq_false_iff, beq_eq_false_iff_ne, decide_eq_false_iff_not]
  simp only [crTPC, crTMASK, crTOPD0, crTOPD3]
  omega

theorem handlerOnly_listed : ∀ e ∈ maskedCrs ++ stickyCrs, handlerOnly e.1 = false := by decide

section
variable (s : State) (v : Word)

/-- SETC of a register of a block, or of one that is read only: no register here has a rule of its own. -/
theorem State.writeC_block {n : Nat} (h : n ≤ 0x012 ∨ n = 0x014 ∨ n = 0x020 ∨ (0x024 ≤ n ∧ n ≤ 0x028) ∨ n = 0x030 ∨
    (0x060 ≤ n ∧ n ≤ 0x06F) ∨ (0x080 ≤ n ∧ n ≤ 0x0BF) ∨ 0x0C1 ≤ n) :
    s.writeC n v =
      if 0x024 ≤ n ∧ n ≤ 0x027 then s.writeTopd (n - 0x024) v
      else if 0x060 ≤ n ∧ n ≤ 0x06F then s.setCr n v
      else if 0x080 ≤ n ∧ n ≤ 0x0BF then s.writeBarrier (n - 0x080) v
      else s := by
  have hskip : (0x060 ≤ n ∧ n < 0x060 + 16) ↔ (0x060 ≤ n ∧ n ≤ 0x06F) := by omega
  have hbar : (0x080 ≤ n ∧ n < 0x080 + 64) ↔ (0x080 ≤ n ∧ n ≤ 0x0BF) := by omega
  simp only [State.writeC, Bool.and_eq_true, Bool.or_eq_true, decide_eq_true_eq]
  simp (disch := omega) only [crGROUP, crTAGMASK, crTSEND, crNOTIFY, crUPOOLB, crTPC, crTMASK, crTVEC, crTOPD0, crTOPD3, crOORFLAG,
    crFPFLAGS, crFPMODE, crTOUCH0, crSTEP, crSIGTHR, crSIGBASE, crSKIPLOG, crSKIPMAP0, crBSINGTHR, crNB0, hskip, hbar, if_neg]
  rw [if_neg (show n ≠ crWDOG by simp only [crWDOG]; omega)]

theorem State.writeC_topd {j : Nat} (h : j < 4) : s.writeC (0x024 + j) v = s.writeTopd j v := by
  rw [s.writeC_block v (by omega), if_pos (by omega), Nat.add_sub_cancel_left]

theorem State.writeC_skipmap {n : Nat} (h1 : 0x060 ≤ n) (h2 : n ≤ 0x06F) : s.writeC n v = s.setCr n v := by
  rw [s.writeC_block v (by omega), if_neg (by omega), if_pos ⟨h1, h2⟩]

theorem State.writeC_barrier {k : Nat} (h : k < 64) : s.writeC (0x080 + k) v = s.writeBarrier k v := by
  rw [s.writeC_block v (by omega), if_neg (by omega),
    if_neg (by omega), if_pos (by omega), Nat.add_sub_cancel_left]

/-- A register that is read only stays (R360). -/
theorem State.writeC_readOnly {n : Nat} (h : n ≤ 0x012 ∨ n ∈ [0x014, 0x020, 0x028, 0x030, 0x0C1] ∨ (0x0D0 ≤ n ∧ n ≤ 0x0DF)) :
    s.writeC n v = s := by
  simp only [List.mem_cons, List.not_mem_nil, or_false] at h
  rw [s.writeC_block v (by omega), if_neg (by omega),
    if_neg (by omega), if_neg (by omega)]

end

/-! ### TOPD0 to TOPD3 and the captured operand (R335) -/

theorem setAt_eq_set {α : Type} (l : List α) (n : Nat) (x : α) : setAt l n x = l.set n x := by
  induction l generalizing n with
  | nil => rfl
  | cons y l ih =>
    cases n with
    | zero => rfl
    | succ n => rw [setAt, ih, List.set_cons_succ]

section
variable (c : Capture) (v : Word)

@[simp] theorem Capture.setOp_slot (n : Nat) : (c.setOp n v).slot = c.slot := by
  unfold Capture.setOp
  split
  · split <;> rfl
  · rfl

/-- TOPD0 to TOPD2 replace one operand with a zero residue. -/
theorem Capture.setOp_ops {n : Nat} (h : n ≠ 3) : (c.setOp n v).ops = c.ops.set n (SVal.of v) := by
  simp [Capture.setOp, h, setAt_eq_set]

/-- TOPD3 replaces the captured third operand. -/
theorem Capture.setOp_third {m : Nat} (h : c.third = some m) : (c.setOp 3 v).regs = c.regs.setC m v ∧ (c.setOp 3 v).ops = c.ops := by
  simp [Capture.setOp, h]

end

theorem State.writeTopd_regs (s : State) (j : Nat) (v : Word) :
    (s.writeTopd j v).tile.thr.regs = s.tile.thr.regs.setC (0x024 + j) v := rfl

theorem State.writeTopd_caps_length (s : State) (j : Nat) (v : Word) :
    (s.writeTopd j v).tile.thr.caps.length = s.tile.thr.caps.length := by
  cases h : s.tile.thr.caps <;> simp [State.writeTopd, h]

theorem State.writeTopd_caps_cons {s : State} {c : Capture} {rest : List Capture} (h : s.tile.thr.caps = c :: rest) (j : Nat) (v : Word) :
    (s.writeTopd j v).tile.thr.caps = c.setOp j v :: rest := by
  simp [State.writeTopd, h]

/-! ### O15 -/

/-- GETC: the register's value at issue, with a zero residue and a bound of 2 (R173, R175, R207, R430). -/
theorem getc_gives {s : State} (hu : Unpoisoned s) (hw : s.tile.twin = none) {d : BitVec 5} (hc : s.clash (.s d.toNat) = false)
    (i : BitVec 12) :
    Gives (.getc d i) s fun t => ToS s t d (s.readC i.toNat) 2 0 ∧ (d ≠ 0 → (t.tile.thr.regs.getS d.toNat).ok = true) := by
  obtain ⟨hto, hval⟩ := State.wrS_spec hu.2 hc (SVal.of (s.readC i.toNat)) 2 0
  exact ⟨_, exec_getc_alone hu hw d i, hto, fun hd => by rw [hval hd, SVal.ok_of]⟩

/-- SETC of a register whose rule is to receive the value `x`. -/
theorem setc_gives {s : State} (hu : Unpoisoned s) (hs : s.tile.spec = none) {a : BitVec 5} {i : BitVec 12} {x : Word}
    (hh : handlerOnly i.toNat = false ∨ s.hm = true) (hw : s.writeC i.toNat (s.opS 0 a).val = s.setCr i.toNat x) :
    Gives (.setc a i) s fun t => t.cr i.toNat = x ∧ OnlyRegs [.cr i.toNat] s t :=
  ⟨_, (exec_setc_confirmed hu hs a i hh).trans (congrArg _ hw), State.cr_setCr s _ x, State.setCr_onlyRegs s _ x⟩

/-- SETC replaces the writable bits of a register alone (R360). -/
theorem setc_masked_gives {s : State} (hu : Unpoisoned s) (hs : s.tile.spec = none) {a : BitVec 5} {i : BitVec 12} {e : Nat × Word}
    (he : e ∈ maskedCrs ++ handlerMaskedCrs) (hi : i.toNat = e.1) (hh : handlerOnly i.toNat = false ∨ s.hm = true) :
    Gives (.setc a i) s fun t =>
      t.cr i.toNat = (s.cr i.toNat &&& ~~~e.2) ||| ((s.opS 0 a).val &&& e.2) ∧ OnlyRegs [.cr i.toNat] s t :=
  setc_gives hu hs hh (by rw [hi, s.writeC_masked _ e he, State.maskC])

/-- SETC of the sticky flags clears those that the operand names (R74, R344). -/
theorem setc_sticky_gives {s : State} (hu : Unpoisoned s) (hs : s.tile.spec = none) {a : BitVec 5} {i : BitVec 12} {e : Nat × Word}
    (he : e ∈ stickyCrs) (hi : i.toNat = e.1) :
    Gives (.setc a i) s fun t => t.cr i.toNat = s.cr i.toNat &&& ~~~((s.opS 0 a).val &&& e.2) ∧ OnlyRegs [.cr i.toNat] s t :=
  setc_gives hu hs (.inl (hi ▸ handlerOnly_listed e (List.mem_append_right _ he)))
    (by rw [hi, s.writeC_sticky _ e he])

/-- SETC of TOPDj in handler mode (R335). -/
theorem setc_topd_gives {s : State} (hu : Unpoisoned s) (hs : s.tile.spec = none) (hm : s.hm = true) {a : BitVec 5} {i : BitVec 12}
    {j : Nat} (hj : j < 4) (hi : i.toNat = 0x024 + j) : let v := (s.opS 0 a).val
    Gives (.setc a i) s fun t => t.cr i.toNat = v ∧ RegsExcept [.cr i.toNat] s.tile.thr.regs t.tile.thr.regs ∧
      (∀ x, byteAt t x = byteAt s x) ∧ t.tile.thr.pc = s.tile.thr.pc ∧ t.tile.thr.caps.length = s.tile.thr.caps.length ∧
      ∀ c rest, s.tile.thr.caps = c :: rest → ∃ c', t.tile.thr.caps = c' :: rest ∧ c'.slot = c.slot ∧
        (j < 3 → j < c.ops.length → c'.ops[j]? = some (SVal.of v) ∧ ∀ m, m ≠ j → c'.ops[m]? = c.ops[m]?) ∧
        (∀ m, j = 3 → c.third = some m → c'.regs.getC m = v ∧ c'.ops = c.ops) := by
  intro v
  refine ⟨s.writeTopd j v, ?_, ?_, ?_, fun _ => rfl, rfl, s.writeTopd_caps_length j v, fun c rest hcaps => ?_⟩
  · rw [exec_setc_confirmed hu hs a i (.inr hm), hi, s.writeC_topd v hj]
  · rw [hi, State.cr, State.writeTopd_regs, Regs.getC_setC]
  · rw [hi, State.writeTopd_regs]
    exact regsExcept_setC _ _ _
  · refine ⟨c.setOp j v, State.writeTopd_caps_cons hcaps j v, c.setOp_slot v j, fun h3 hlen => ?_, fun m h3 hm => ?_⟩
    · rw [c.setOp_ops v (by omega)]
      exact ⟨List.getElem?_set_self hlen, fun m hne => List.getElem?_set_ne hne.symm⟩
    · subst h3
      obtain ⟨hregs, hops⟩ := c.setOp_third v hm
      rw [hregs, Regs.getC_setC]
      exact ⟨rfl, hops⟩

/-- The value that GETC finds in each kind of register (R28, R175, R430). -/
theorem readC_kinds {s : State} (hw : s.tile.twin = none) {n : Nat} (hf : s.flying (.cr n) = false)
    (hl : ∀ l ∈ s.source.land, l.ready ≤ s.cycle) :
    let async := n = 0x0C0 ∨ (0x040 ≤ n ∧ n ≤ 0x042) ∨ (0x080 ≤ n ∧ n ≤ 0x0BF) ∨ (0x0D0 ≤ n ∧ n ≤ 0x0D7)
    (n = 0x010 → s.readC n = BitVec.ofNat 64 s.cycle) ∧ (n = 0x011 → s.readC n = BitVec.ofNat 64 s.time) ∧
      (n = 0x0C1 → s.readC n = 0) ∧ (async → s.readC n = s.cr n) ∧
      (n ∉ [0x010, 0x011, 0x0C1] → ¬async → s.readC n = s.source.regs.getC n) := by
  intro async
  refine ⟨?_, ?_, ?_, fun ha => ?_, fun hn ha => ?_⟩
  · rintro rfl; exact s.readC_cycle
  · rintro rfl; exact s.readC_time
  · rintro rfl; exact State.readC_pairmode hw
  · refine State.readC_async hf ((asyncCr_iff n).2 (.inr (.inr ha))) ?_ ?_ <;> rintro rfl <;> exact absurd ha (by decide)
  · simp only [List.mem_cons, List.not_mem_nil, or_false, not_or] at hn
    obtain ⟨hcycle, htime, hpair⟩ := hn
    refine State.readC_other hl hf (Bool.eq_false_iff.2 fun h => ?_) hpair
    rcases (asyncCr_iff n).1 h with h | h | h
    exacts [hcycle h, htime h, ha h]

/-- Settles O15: GETC by the kinds of register that it reads, SETC by the rule of each register that it writes. -/
theorem controlRegisters : Obligations.ControlRegisters := by
  unfold Obligations.ControlRegisters
  refine ⟨fun d i s hu ⟨_, htwin⟩ hclash hfly hland => ?_, fun a i s hu hs => ?_⟩
  · obtain ⟨hcycle, htime, hpair, hasync, hother⟩ := readC_kinds htwin hfly hland
    exact ⟨s.readC i.toNat, hcycle, htime, hpair, hasync, hother, getc_gives hu htwin hclash i⟩
  · have hexec (h : ¬(i.toNat = 0x021 ∨ i.toNat = 0x022 ∨ (0x024 ≤ i.toNat ∧ i.toNat ≤ 0x027))) :=
      exec_setc_confirmed hu hs a i (.inl (handlerOnly_eq_false h))
    intro n v
    refine ⟨fun e he (hn : i.toNat = _) => ?masked, fun e he hn hm => ?handlerMasked, fun j hj hn hm => ?topd,
      fun e he hn => ?sticky, fun h1 h2 => ?skipmap, fun (hn : i.toNat = _) => ?poolBase, fun (hn : i.toNat = _) => ?poolSize,
      fun j (hn : i.toNat = _) => ?barrier, fun h => ?readOnly⟩
    case masked =>
      exact setc_masked_gives hu hs (List.mem_append_left _ he) hn (.inl (hn ▸ handlerOnly_listed e (List.mem_append_left _ he)))
    case handlerMasked => exact setc_masked_gives hu hs (List.mem_append_right _ he) hn (.inr hm)
    case topd => exact setc_topd_gives hu hs hm hj hn
    case sticky => exact setc_sticky_gives hu hs he hn
    case skipmap => exact setc_gives hu hs (.inl (handlerOnly_eq_false (by omega))) (s.writeC_skipmap _ h1 h2)
    case poolBase => rw [hexec (by omega), exec_upoolWrite, hn]; rfl
    case poolSize => rw [hexec (by omega), exec_upoolWrite, hn]; rfl
    case barrier => rw [hexec (by omega), exec_namedBarrierWrite, hn, s.writeC_barrier _ j.isLt]
    case readOnly =>
      have hn := h
      simp only [List.mem_cons, List.not_mem_nil, or_false] at hn
      rw [hexec (by omega), s.writeC_readOnly _ h]

end Sys2Proof.Machine
end

section
/-!
Start-up, TIME, power states and the security alarm (R26, R308, R315 to R317, R437): what halting the package leaves of it, what the alarm
does under each policy, and the proof of O52.
-/
namespace Sys2Proof.Machine

open Sys2Proof.Safety

/-! ### Reading back a tile -/

@[simp] theorem State.getTile_ep (s : State) (k : Nat) : (s.getTile k).ep = k := by
  unfold State.getTile
  split
  · assumption
  · cases h : s.others.find? fun t => t.ep == k with
    | none => rfl
    | some t => simpa using List.find?_some h

@[simp] theorem State.getTile_focus (s : State) : s.getTile s.tile.ep = s.tile := if_pos rfl

theorem find?_insertTile (t : Tile) (l : List Tile) (k : Nat) :
    (insertTile t l).find? (fun u => u.ep == k) = if k = t.ep then some t else l.find? fun u => u.ep == k := by
  induction l with
  | nil => simp only [insertTile, List.find?_cons, List.find?_nil]; grind
  | cons u l ih =>
    rw [insertTile]
    split
    · grind
    · split
      · grind
      · grind

theorem State.getTile_setTile (s : State) (t : Tile) (k : Nat) : (s.setTile t).getTile k = if k = t.ep then t else s.getTile k := by
  unfold State.setTile
  split
  · next h => simp only [State.getTile, h, eq_comm (a := k)]; split <;> rfl
  · next h => simp only [State.getTile, find?_insertTile]; grind

@[simp] theorem State.setTile_tile_ep (s : State) (t : Tile) : (s.setTile t).tile.ep = s.tile.ep := by
  unfold State.setTile
  split
  · exact Eq.symm ‹_›
  · rfl

@[simp] theorem State.setTile_keys (s : State) (t : Tile) : (s.setTile t).keys = s.keys := by unfold State.setTile; split <;> rfl
@[simp] theorem State.setTile_mgmt (s : State) (t : Tile) : (s.setTile t).mgmt = s.mgmt := by unfold State.setTile; split <;> rfl

/-! ### Functions, servers and the log beside the tiles -/

@[simp] theorem State.getFn_modFn (s : State) (fn : Nat) (g : HostFn → HostFn) : (s.modFn fn g).getFn fn = g (s.getFn fn) :=
  Sparse.get_set_self _ _ _

@[simp] theorem State.getSrv_modSrv (s : State) (k : Nat) (g : Server → Server) : (s.modSrv k g).getSrv k = g (s.getSrv k) :=
  Sparse.get_set_self _ _ _

@[simp] theorem State.getFn_onMgmt (s : State) (g : Mgmt → Mgmt) (fn : Nat) : (s.onMgmt g).getFn fn = s.getFn fn := rfl
@[simp] theorem State.getSrv_onTile (s : State) (g : Tile → Tile) (k : Nat) : (s.onTile g).getSrv k = s.getSrv k := rfl
@[simp] theorem State.getFn_log (s : State) (cls sev code ep part actx addr gang : Nat) (d0 d1 : Word) (fn : Nat) :
    (s.log cls sev code ep part actx addr gang d0 d1).getFn fn = s.getFn fn := rfl
@[simp] theorem State.modFn_tile (s : State) (fn : Nat) (g : HostFn → HostFn) : (s.modFn fn g).tile = s.tile := rfl
@[simp] theorem State.log_tile (s : State) (cls sev code ep part actx addr gang : Nat) (d0 d1 : Word) :
    (s.log cls sev code ep part actx addr gang d0 d1).tile = s.tile := rfl

/-! ### What the log, the torus and the work items do not hold -/

/-- The tiles, the key slots, and what the management controller holds beside its log queues. -/
def State.core (s : State) : Tile × List Tile × List (Nat × Option Nat) × Mgmt := (s.tile, s.others, s.keys, { s.mgmt with queues := [] })

theorem State.getTile_of_core {s t : State} (h : t.core = s.core) (k : Nat) : t.getTile k = s.getTile k := by
  simp only [State.core, Prod.mk.injEq] at h
  obtain ⟨htile, hothers, -⟩ := h
  simp only [State.getTile, htile, hothers]

theorem State.core_foldl {α : Type} {f : State → α → State} (hf : ∀ s x, (f s x).core = s.core) (l : List α) (s : State) :
    (l.foldl f s).core = s.core := by
  induction l generalizing s with
  | nil => rfl
  | cons x l ih => rw [List.foldl_cons, ih, hf]

theorem State.core_refuseHalves (s : State) (ep : Nat) : (s.refuseHalves ep).core = s.core :=
  State.core_foldl (fun _ _ => by split <;> rfl) _ _

theorem State.core_returnItems (s : State) (eps : List Nat) (gang : Nat) : (s.returnItems eps gang).core = s.core :=
  State.core_foldl (s := { s with disp := _ }) (fun _ _ => by dsimp only; split_ifs <;> rfl) _

/-! ### Parking a tile that has no entries -/

/-- `t` is `s` with the tile `u` at endpoint `ep`, but for the log queues and what is neither tile, key slot nor management controller. -/
structure State.Puts (s : State) (ep : Nat) (u : Tile) (t : State) : Prop where
  focus : t.tile.ep = s.tile.ep
  keys  : t.keys = s.keys
  mgmt  : t.mgmt = { s.mgmt with queues := t.mgmt.queues }
  same  : t.getTile ep = u
  other : ∀ k, k ≠ ep → t.getTile k = s.getTile k

theorem State.Puts.refl (s : State) (ep : Nat) : s.Puts ep (s.getTile ep) s := ⟨rfl, rfl, rfl, rfl, fun _ _ => rfl⟩

section
variable {s t : State} {ep : Nat} {u : Tile}

theorem State.Puts.of_core (h : s.Puts ep u t) {t' : State} (hc : t'.core = t.core) : s.Puts ep u t' := by
  have htile := State.getTile_of_core hc
  simp only [State.core, Prod.mk.injEq] at hc
  obtain ⟨hfocus, -, hkeys, hmgmt⟩ := hc
  refine ⟨hfocus ▸ h.focus, hkeys.trans h.keys, ?_, (htile ep).trans h.same, fun k hk => (htile k).trans (h.other k hk)⟩
  calc t'.mgmt = { { t'.mgmt with queues := [] } with queues := t'.mgmt.queues } := rfl
    _ = { { t.mgmt with queues := [] } with queues := t'.mgmt.queues } := by rw [hmgmt]
    _ = { s.mgmt with queues := t'.mgmt.queues } := by rw [h.mgmt]

theorem State.Puts.modTile (h : s.Puts ep u t) (f : Tile → Tile) (hf : (f u).ep = ep) : s.Puts ep (f u) (t.modTile ep f) := by
  have hget (k : Nat) : (t.modTile ep f).getTile k = if k = ep then f u else t.getTile k := by
    rw [State.modTile, State.getTile_setTile, h.same, hf]
  refine ⟨(t.setTile_tile_ep _).trans h.focus, (t.setTile_keys _).trans h.keys, ?_, by simp [hget], fun k hk => ?_⟩
  · simpa only [State.modTile, State.setTile_mgmt] using h.mgmt
  · simpa only [hget, if_neg hk] using h.other k hk

theorem State.getNi_tile (s : State) (hep : ep < 0x400) : s.getNi ep = (s.getTile ep).ni := by simp [State.getNi, isTile, hep]

/-- Without entries there is nothing to release, to withdraw or to cancel. -/
theorem State.poisonReleases_of_no_ents (h : (s.getNi ep).ents = []) : s.poisonReleases ep = s := by simp [State.poisonReleases, h]
theorem State.withdrawHalo_of_no_ents (h : (s.getNi ep).ents = []) : s.withdrawHalo ep = s := by simp [State.withdrawHalo, h]
theorem State.cancelAll_of_no_ents (h : (s.getNi ep).ents = []) : s.cancelAll ep = s := by simp [State.cancelAll, h]

theorem State.Puts.abandonPackets (h : s.Puts ep u t) (hep : ep < 0x400) (hu : u.ep = ep) :
    s.Puts ep { u with ni := { u.ni with waiting := [] } } (t.abandonPackets ep) := by
  refine (h.modTile (fun u => { u with ni := { u.ni with waiting := [] } }) hu).of_core ?_
  simp [State.abandonPackets, State.modNi, isTile, hep, State.core]

/-- What becomes of the requests, contributions and receives of a tile that parks, when it has no entries (R322, R323). -/
theorem State.Puts.silence (h : s.Puts ep u t) (hep : ep < 0x400) (hu : u.ep = ep) (hents : u.ni.ents = []) :
    s.Puts ep { u with ni := { u.ni with waiting := [] } }
      (((((t.poisonReleases ep).withdrawHalo ep).abandonPackets ep).refuseHalves ep).cancelAll ep) := by
  have hnone {v : Tile} {t' : State} (h' : s.Puts ep v t') (hv : v.ni.ents = []) : (t'.getNi ep).ents = [] := by
    rw [State.getNi_tile t' hep, h'.same, hv]
  have hrefused := (h.abandonPackets hep hu).of_core (State.core_refuseHalves _ ep)
  rw [State.poisonReleases_of_no_ents (hnone h hents), State.withdrawHalo_of_no_ents (hnone h hents),
    State.cancelAll_of_no_ents (hnone hrefused hents)]
  exact hrefused

/-- Parking a tile without entries changes no other tile, no key slot, and of the management controller the log queues alone (R322). -/
theorem State.parkOne_puts (hep : ep < 0x400) (hents : (s.getTile ep).ni.ents = []) (record : Bool) (partner : Nat) :
    ∃ u, s.Puts ep u (s.parkOne ep record partner) ∧ u.run = .parked ∧ u.ni.ents = [] ∧ u.twin = (s.getTile ep).twin := by
  unfold State.parkOne
  extract_lets t cause d1 s0 s1 s2
  have hlogged : s.Puts ep t s0 := (State.Puts.refl s ep).of_core (by unfold s0; split <;> rfl)
  have hparked : s.Puts ep _ s2 := (hlogged.silence hep (s.getTile_ep ep) hents).modTile _ (s.getTile_ep ep)
  exact ⟨_, hparked.of_core (State.core_returnItems _ _ _), rfl, by simp [t, hents], rfl⟩

end

/-! ### Halting the package (R437) -/

/-- No tile has an entry or a twin. -/
def State.Calm (s : State) : Prop := ∀ k, (s.getTile k).ni.ents = [] ∧ (s.getTile k).twin = none

/-- A package of one tile without entries or twin is calm: the others stand as reset left them (R11). -/
theorem State.calm_of_alone {s : State} (hothers : s.others = []) (hents : s.tile.ni.ents = []) (htwin : s.tile.twin = none) : s.Calm := by
  intro k
  unfold State.getTile
  split
  · exact ⟨hents, htwin⟩
  · rw [hothers]
    exact ⟨rfl, rfl⟩

/-- One tile's part in the halt of the package: it is parked unless it is removed or parked already. -/
def State.haltTile (s : State) (ep : Nat) : State :=
  let r := (s.getTile ep).run
  if r = .removed || r = .parked then s else s.park ep

/-- Every tile of the package has its turn, and then the package shows the halt. -/
theorem State.haltPackage_eq (s : State) : ∃ l : List Nat, (∀ ep, ep ∈ l ↔ ep < 0x400) ∧
    s.haltPackage = (l.foldl State.haltTile s).onMgmt fun m => { m with boot := .halted, status := 0xDEAD0002 } :=
  ⟨List.range 1024, fun _ => List.mem_range, rfl⟩

section
variable {s : State} {ep : Nat}

/-- In a calm package a tile that halts stays as it is, removed or parked, or is parked alone. -/
theorem State.haltTile_cases (hc : s.Calm) (hep : ep < 0x400) :
    (s.haltTile ep = s ∧ ((s.getTile ep).run = .removed ∨ (s.getTile ep).run = .parked)) ∨
      ∃ u, s.Puts ep u (s.haltTile ep) ∧ u.run = .parked ∧ u.ni.ents = [] ∧ u.twin = none := by
  obtain ⟨hents, htwin⟩ := hc ep
  unfold State.haltTile
  dsimp only
  split
  · next h => exact .inl ⟨rfl, by simpa using h⟩
  · refine .inr ?_
    simp only [State.park, htwin]
    simpa only [htwin] using State.parkOne_puts hep hents true 0

theorem State.haltTile_calm (hc : s.Calm) (hep : ep < 0x400) : (s.haltTile ep).Calm := by
  rcases State.haltTile_cases hc hep with ⟨h, -⟩ | ⟨u, h, -, hents, htwin⟩
  · rwa [h]
  · intro k
    by_cases hk : k = ep
    · rw [hk, h.same]
      exact ⟨hents, htwin⟩
    · rw [h.other k hk]
      exact hc k

theorem State.haltTile_frame (hc : s.Calm) (hep : ep < 0x400) : let t := s.haltTile ep
    t.tile.ep = s.tile.ep ∧ t.keys = s.keys ∧ t.mgmt = { s.mgmt with queues := t.mgmt.queues } := by
  rcases State.haltTile_cases hc hep with ⟨h, -⟩ | ⟨u, h, -⟩
  · simp [h]
  · exact ⟨h.focus, h.keys, h.mgmt⟩

/-- The tile in focus is parked in its turn, and stays as it is in the others' turns. -/
theorem State.haltTile_run (hc : s.Calm) (hep : ep < 0x400) (hrun : s.tile.run ≠ .removed) :
    (s.haltTile ep).tile.run = if s.tile.ep = ep then .parked else s.tile.run := by
  rcases State.haltTile_cases hc hep with ⟨h, hend⟩ | ⟨u, h, hparked, -⟩
  · rw [h]
    split
    · next hf =>
      rw [← hf, State.getTile_focus] at hend
      exact hend.resolve_left hrun
    · rfl
  · rw [← State.getTile_focus (s.haltTile ep), h.focus]
    split
    · next hf => rw [hf, h.same, hparked]
    · next hf => rw [h.other _ hf, State.getTile_focus]

/-- The turns of a list of tiles park the tile in focus if it is among them; the key slots and the management controller but for its log queues
stay. -/
theorem State.foldl_haltTile {l : List Nat} (hl : ∀ ep ∈ l, ep < 0x400) (hc : s.Calm) (hrun : s.tile.run ≠ .removed) :
    let t := l.foldl State.haltTile s
    t.keys = s.keys ∧ t.mgmt = { s.mgmt with queues := t.mgmt.queues } ∧ t.tile.run = if s.tile.ep ∈ l then .parked else s.tile.run := by
  induction l generalizing s with
  | nil => simp
  | cons ep l ih =>
    have hep := hl ep List.mem_cons_self
    obtain ⟨hfocus, hkeys, hmgmt⟩ := State.haltTile_frame hc hep
    have hnow := State.haltTile_run hc hep hrun
    have hstill : (s.haltTile ep).tile.run ≠ .removed := by
      rw [hnow]
      split
      · decide
      · exact hrun
    obtain ⟨ihkeys, ihmgmt, ihrun⟩ := ih (fun k hk => hl k (List.mem_cons_of_mem ep hk)) (State.haltTile_calm hc hep) hstill
    refine ⟨ihkeys.trans hkeys, ?_, ?_⟩
    · rw [hmgmt] at ihmgmt
      exact ihmgmt
    · rw [List.foldl_cons, ihrun, hfocus, hnow]
      simp only [List.mem_cons]
      grind

/-- A calm package halts: its own tile is parked, the key slots stay, and the management controller shows the halt (R437). -/
theorem State.haltPackage_calm (hc : s.Calm) (hrun : s.tile.run ≠ .removed) (hep : s.tile.ep < 0x400) : let t := s.haltPackage
    t.keys = s.keys ∧ t.mgmt = { s.mgmt with boot := .halted, status := 0xDEAD0002, queues := t.mgmt.queues } ∧ t.tile.run = .parked := by
  obtain ⟨l, hl, heq⟩ := s.haltPackage_eq
  obtain ⟨hkeys, hmgmt, hparked⟩ := State.foldl_haltTile (fun ep h => (hl ep).mp h) hc hrun
  rw [if_pos ((hl _).mpr hep)] at hparked
  rw [heq]
  exact ⟨hkeys, congrArg (fun m : Mgmt => { m with boot := .halted, status := 0xDEAD0002 }) hmgmt, hparked⟩

end

/-! ### Records (R325, R327) -/

/-- A record that stands in a queue stays, in its class, severity and code, when the queue takes another (R327). -/
theorem LogQueue.mem_add {q : LogQueue} {r : LogRec} (h : r ∈ q.recs) (x : LogRec) :
    ∃ y ∈ (q.add x).recs, y.cls = r.cls ∧ y.sev = r.sev ∧ y.code = r.code := by
  unfold LogQueue.add
  extract_lets same
  split
  · refine ⟨_, List.mem_map_of_mem h, ?_⟩
    split <;> exact ⟨rfl, rfl, rfl⟩
  · split
    · exact ⟨r, h, rfl, rfl, rfl⟩
    · exact ⟨r, List.mem_append_left _ h, rfl, rfl, rfl⟩

/-- Some log queue holds a record of a class, severity and code. -/
def State.HasRecord (s : State) (cls sev code : Nat) : Prop :=
  ∃ q ∈ s.mgmt.queues, ∃ r ∈ q.recs, r.cls = cls ∧ r.sev = sev ∧ r.code = code

theorem State.HasRecord.of_mgmt {s t : State} {cls sev code : Nat} (h : s.HasRecord cls sev code) (hm : t.mgmt = s.mgmt) :
    t.HasRecord cls sev code := by
  rwa [State.HasRecord, hm]

section
variable {s : State} {cls sev code ep : Nat} (part actx addr gang : Nat) (d0 d1 : Word)

/-- With no queue yet, the record that is logged stands in one of its own. -/
theorem State.log_hasRecord (h : s.mgmt.queues = []) : (s.log cls sev code ep part actx addr gang d0 d1).HasRecord cls sev code := by
  simp [State.HasRecord, State.log, LogQueue.add, h]

/-- The record of the only queue stays when another is logged, in that queue or in one of its own. -/
theorem State.HasRecord.log {q : LogQueue} (hq : s.mgmt.queues = [q]) {cls' sev' code' : Nat} (h : s.HasRecord cls' sev' code') :
    (s.log cls sev code ep part actx addr gang d0 d1).HasRecord cls' sev' code' := by
  obtain ⟨q', hmem, r, hr, hcls, hsev, hcode⟩ := h
  obtain rfl : q' = q := by simpa [hq] using hmem
  by_cases hkey : q'.key = logKey cls ep
  · obtain ⟨y, hy, ycls, ysev, ycode⟩ := LogQueue.mem_add hr ⟨0, cls, sev, code, s.rankOf ep, part, actx, s.time, addr, 1, gang, d0, d1, 0⟩
    refine ⟨_, List.mem_cons_self, y, ?_, ycls.trans hcls, ysev.trans hsev, ycode.trans hcode⟩
    simpa [hq, hkey] using hy
  · exact ⟨q', by simp [State.log, hq, hkey], r, hr, hcls, hsev, hcode⟩

end

/-! ### The alarm's parts (R437, R439) -/

/-- The alarm counted, and its record logged. -/
def State.alarmLogged (s : State) (src : Nat) : State :=
  (s.onMgmt fun m => { m with acount := min 255 (m.acount + 1), asrc := m.asrc ||| (1 <<< src) }).log 0x0D 4 0x0210 Config.mgmtEp 0xFFFF 0xFFFF
    0 0 (1 <<< src) 0

/-- The keys of the device and of its links and sessions are erased (R437). -/
def Mgmt.dropKeys (m : Mgmt) : Mgmt := { m with devKey := false, ideKeys := false, spdmKeys := false }

/-- Every key slot is empty. -/
def State.dropSlots (s : State) : State := { s with keys := [] }

theorem State.alarmLogged_queue {s : State} (src : Nat) (h : s.mgmt.queues = []) : ∃ q, (s.alarmLogged src).mgmt.queues = [q] :=
  ⟨_, by simp [State.alarmLogged, State.log, State.onMgmt, h]; rfl⟩

@[simp] theorem State.alarmLogged_fns (s : State) (src : Nat) : (s.alarmLogged src).fns = s.fns := rfl
@[simp] theorem State.alarmLogged_tile (s : State) (src : Nat) : (s.alarmLogged src).tile = s.tile := rfl
@[simp] theorem State.dropSlots_tile (s : State) : s.dropSlots.tile = s.tile := rfl
@[simp] theorem State.dropSlots_fns (s : State) : s.dropSlots.fns = s.fns := rfl

/-- What the standing policy does to the keys once an alarm is logged (R437). -/
def State.keysByPolicy (s : State) (policy : Nat) : State :=
  let b := if 1 ≤ policy then s.eraseDataKeys else s
  if 2 ≤ policy then b.onMgmt Mgmt.dropKeys else b

/-- An alarm is logged, the keys follow the policy, and the package halts under policy 2 or 3 and for a thermal one. -/
theorem State.alarm_eq {src : Nat} (h : src < 4) (s : State) : s.alarm src =
    let c := (s.alarmLogged src).keysByPolicy s.mgmt.policy
    if 2 ≤ s.mgmt.policy || src = 3 then c.haltPackage else c := by
  rw [State.alarm, if_neg (by omega)]
  rfl

/-- A function whose interface has gone to ERROR (R439). -/
def HostFn.failed (f : HostFn) : HostFn :=
  { f with en := false, enOff := false, state := .error, ni := { f.ni with ents := [], waitCq := [], waiting := [], instant := [], unexp := [] } }

section
variable {s : State} {fn : Nat} {f : HostFn}

theorem State.getFn_of_single (h : s.fns = [(fn, f)]) : s.getFn fn = f := by simp [State.getFn, h, Sparse.get]

/-- An interface that has no partition goes to ERROR with a record (R439). -/
theorem State.tdispError_of_no_part (herr : (s.getFn fn).state ≠ .error) (hpart : (s.getFn fn).part = none) (addr : Nat) (cause : Word) :
    s.tdispError fn addr cause = (s.modFn fn HostFn.failed).log 0x0B 3 0x0211 (hostKey fn) 0xFFFF 0xFFFF addr 0 cause 0 := by
  simp only [State.tdispError, beq_iff_eq, herr, if_false, hpart, Option.getD_none]
  rfl

theorem HostFn.frozen_iff : f.frozen = true ↔ f.state = .locked ∨ f.state = .run := by simp [HostFn.frozen]

theorem State.failPendingAll_of_no_srv (hsrv : s.srv = []) (code : Nat) (g : Nat → Shard → Bool) : s.failPendingAll code g = s := by
  rw [State.failPendingAll, hsrv, List.foldl_nil]

theorem State.eraseSlots_all (hsrv : s.srv = []) : s.eraseSlots (fun _ => true) = s.dropSlots := by
  simp only [State.eraseSlots, Bool.not_true, List.filter_false]
  exact State.failPendingAll_of_no_srv (s := s.dropSlots) hsrv _ _

theorem State.eraseDataKeys_of_not_frozen (hsrv : s.srv = []) (hfns : ∀ x ∈ s.fns, ¬x.2.frozen) : s.eraseDataKeys = s.dropSlots := by
  rw [State.eraseDataKeys, State.eraseSlots_all hsrv]
  simp only [State.dropSlots_fns]
  rw [List.filter_eq_nil_iff.mpr hfns, List.foldl_nil]

/-- Without functions and servers the policy touches the key slots and the package's keys alone. -/
theorem State.keysByPolicy_of_no_fns (hsrv : s.srv = []) (hfns : s.fns = []) (policy : Nat) : let c := s.keysByPolicy policy
    c.tile = s.tile ∧ c.others = s.others ∧ c.keys = (if policy = 0 then s.keys else []) ∧
      c.mgmt = if 2 ≤ policy then s.mgmt.dropKeys else s.mgmt := by
  obtain rfl | rfl | hpolicy : policy = 0 ∨ policy = 1 ∨ 2 ≤ policy := by omega
  · exact ⟨rfl, rfl, rfl, rfl⟩
  · simp [State.keysByPolicy, State.eraseDataKeys_of_not_frozen hsrv, hfns, State.dropSlots]
  · have h1 : 1 ≤ policy := by omega
    have h0 : policy ≠ 0 := by omega
    simp [State.keysByPolicy, State.eraseDataKeys_of_not_frozen hsrv, hfns, State.dropSlots, State.onMgmt, hpolicy, h1, h0]

theorem State.eraseDataKeys_of_frozen (hsrv : s.srv = []) (hfns : s.fns = [(fn, f)]) (hpart : f.part = none) (hf : f.frozen) :
    ∃ addr cause, s.eraseDataKeys =
      (s.dropSlots.modFn fn HostFn.failed).log 0x0B 3 0x0211 (hostKey fn) 0xFFFF 0xFFFF addr 0 cause 0 := by
  have hget : s.dropSlots.getFn fn = f := State.getFn_of_single hfns
  have herr : f.state ≠ .error := by
    rcases HostFn.frozen_iff.mp hf with h | h <;> simp [h]
  have hone : s.fns.filter (fun x => x.2.frozen) = [(fn, f)] := by simp [hfns, hf]
  rw [State.eraseDataKeys, State.eraseSlots_all hsrv]
  simp only [State.dropSlots_fns]
  rw [hone]
  exact ⟨_, _, State.tdispError_of_no_part (hget.symm ▸ herr) (hget.symm ▸ hpart) _ _⟩

end

/-! ### Start-up (R26, R308, R316) -/

theorem State.modTile_focus (s : State) (f : Tile → Tile) (hf : (f s.tile).ep = s.tile.ep) : s.modTile s.tile.ep f = s.onTile f := by
  rw [State.modTile, State.getTile_focus, State.setTile, if_pos hf.symm]
  rfl

section
variable {s : State}

/-- Copy A, when it verifies, releases the units; with an empty harvest map nothing else changes. -/
theorem State.startUp_copyA (h : s.mgmt.boot = .reset) (b : Bool) : s.startUp ⟨true, b, []⟩ =
    (s.modFn 0 fun f => { f with enabled := true }).onMgmt fun m => { m with boot := .running, devKey := true, harvest := [], outMask := [] } := by
  simp [State.startUp, h]

/-- Without a copy that verifies the package stays in recovery. -/
theorem State.startUp_recovery (h : s.mgmt.boot = .reset) : s.startUp ⟨false, false, []⟩ =
    (s.modFn 0 fun f => { f with enabled := true }).onMgmt fun m => { m with boot := .recovery, devKey := true, status := 0xDEAD0001 } := by
  simp [State.startUp, h]

/-- A harvest map that names the tile in focus and a server takes both out. -/
theorem State.startUp_harvest (h : s.mgmt.boot = .reset) (hep : s.tile.ep < 0x400) {k : Nat} (hk : k < 0xC0) :
    s.startUp ⟨false, true, [s.tile.ep, 0x400 + k]⟩ =
      ((((s.modFn 0 fun f => { f with enabled := true }).onMgmt fun m =>
        { m with boot := .running, devKey := true, harvest := [s.tile.ep], outMask := [k] }).modSrv k fun v => { v with out := true }).onTile
          fun t => { t with run := .removed }) := by
  have hsrv : 0x400 + k < 0x4C0 := by omega
  have htiles : [s.tile.ep, 0x400 + k].filter (fun ep => decide (ep < 1024)) = [s.tile.ep] := by simp [hep]
  have hservers : [s.tile.ep, 0x400 + k].filter (fun ep => decide (0x400 ≤ ep) && decide (ep < 0x4C0)) = [0x400 + k] := by
    simp [Nat.not_le.mpr hep, hsrv]
  rw [State.startUp, h]
  simp only [htiles, hservers, bne_self_eq_false, Bool.false_eq_true, if_false, Bool.or_true, if_true, List.map_cons, List.map_nil,
    List.foldl_cons, List.foldl_nil, hep, Nat.not_lt.mpr (Nat.le_add_right 1024 k), Nat.add_sub_cancel_left]
  exact State.modTile_focus _ _ rfl

/-- With no launches the partitions have nothing to withdraw (R317). -/
theorem State.withdrawAll_of_no_launches (h : s.launches = []) (p : Nat) : s.withdrawAll p = s := by
  simp [State.withdrawAll, State.launchesOf, h]

theorem State.foldl_withdrawAll_of_no_launches (h : s.launches = []) (l : List Nat) : l.foldl (fun st p => st.withdrawAll p) s = s := by
  induction l with
  | nil => rfl
  | cons p l ih => rw [List.foldl_cons, State.withdrawAll_of_no_launches h, ih]

end

theorem exec_startUp (f : Flash) (s : State) : exec (.startUp f) s = .next (s.startUp f) := rfl
theorem exec_alarm (src : Nat) (s : State) : exec (.alarm src) s = .next (s.alarm src) := rfl

theorem startUp_gives {s : State} (h : s.mgmt.boot = .reset) (b : Bool) : Gives (.startUp ⟨true, b, []⟩) s fun t =>
    (t.getFn 0).enabled = true ∧ t.mgmt = { s.mgmt with boot := .running, devKey := true, harvest := [], outMask := [] } ∧
      t = { s with fns := t.fns, mgmt := t.mgmt } := by
  refine ⟨_, exec_startUp _ s, ?_⟩
  rw [State.startUp_copyA h]
  exact ⟨by simp, rfl, rfl⟩

theorem startUp_recovery_gives {s : State} (h : s.mgmt.boot = .reset) : Gives (.startUp ⟨false, false, []⟩) s fun t =>
    (t.getFn 0).enabled = true ∧ t.mgmt = { s.mgmt with boot := .recovery, devKey := true, status := 0xDEAD0001 } ∧
      t = { s with fns := t.fns, mgmt := t.mgmt } := by
  refine ⟨_, exec_startUp _ s, ?_⟩
  rw [State.startUp_recovery h]
  exact ⟨by simp, rfl, rfl⟩

theorem startUp_harvest_gives {s : State} (h : s.mgmt.boot = .reset) (hep : s.tile.ep < 0x400) :
    Gives (.startUp ⟨false, true, [s.tile.ep, 0x400 + 5]⟩) s fun t =>
      t.tile.run = .removed ∧ (t.getSrv 5).out = true ∧ t.mgmt.outMask = [5] ∧ t.mgmt.harvest = [s.tile.ep] := by
  refine ⟨_, exec_startUp _ s, ?_⟩
  rw [State.startUp_harvest h hep (by decide)]
  exact ⟨rfl, by simp, rfl, rfl⟩

/-! ### The alarm under each policy (R437) -/

section
variable {s : State} {src : Nat}

/-- Under policy 0 an alarm that is not thermal leaves only its record. -/
theorem alarm_record_gives (hsrc : src < 4) (hq : s.mgmt.queues = []) (hp : s.mgmt.policy = 0) (h3 : src ≠ 3) :
    Gives (.alarm src) s fun t => t.mgmt.boot = s.mgmt.boot ∧ t.mgmt.asrc = s.mgmt.asrc ||| (1 <<< src) ∧
      t.mgmt.acount = min 255 (s.mgmt.acount + 1) ∧ t.keys = s.keys ∧ t.tile = s.tile ∧ t.HasRecord 0x0D 4 0x0210 := by
  refine ⟨s.alarmLogged src, ?_, rfl, rfl, rfl, rfl, rfl, State.log_hasRecord _ _ _ _ _ _ hq⟩
  rw [exec_alarm, State.alarm_eq hsrc]
  simp [State.keysByPolicy, hp, h3]

/-- Under policy 1 an alarm that is not thermal erases every key slot and moves the locked and running interfaces to ERROR; the rest of the
package goes on. -/
theorem alarm_erase_gives {fn : Nat} {f : HostFn} (hsrc : src < 4) (hq : s.mgmt.queues = []) (hp : s.mgmt.policy = 1) (h3 : src ≠ 3)
    (hsrv : s.srv = []) (hfns : s.fns = [] ∨ (s.fns = [(fn, f)] ∧ f.part = none)) :
    Gives (.alarm src) s fun t => t.mgmt.boot = s.mgmt.boot ∧ t.keys = [] ∧ t.mgmt.devKey = s.mgmt.devKey ∧ t.mgmt.ideKeys = s.mgmt.ideKeys ∧
      t.mgmt.spdmKeys = s.mgmt.spdmKeys ∧ t.tile = s.tile ∧ t.HasRecord 0x0D 4 0x0210 ∧
      (s.fns ≠ [] → (t.getFn fn).state = if f.state = .locked ∨ f.state = .run then .error else f.state) := by
  have halarm : s.alarm src = (s.alarmLogged src).eraseDataKeys := by
    rw [State.alarm_eq hsrc]
    simp [State.keysByPolicy, hp, h3]
  have hrecord : (s.alarmLogged src).HasRecord 0x0D 4 0x0210 := State.log_hasRecord _ _ _ _ _ _ hq
  obtain ⟨q, hqueue⟩ := State.alarmLogged_queue src hq
  refine ⟨_, exec_alarm src s, ?_⟩
  rw [halarm]
  rcases hfns with hnone | ⟨hone, hpart⟩
  · rw [State.eraseDataKeys_of_not_frozen (s := s.alarmLogged src) hsrv (by simp [hnone])]
    exact ⟨rfl, rfl, rfl, rfl, rfl, rfl, hrecord.of_mgmt rfl, fun h => absurd hnone h⟩
  · by_cases hf : f.frozen
    · obtain ⟨addr, cause, herase⟩ := State.eraseDataKeys_of_frozen (s := s.alarmLogged src) hsrv hone hpart hf
      rw [herase, if_pos (HostFn.frozen_iff.mp hf)]
      exact ⟨rfl, rfl, rfl, rfl, rfl, by simp,
        State.HasRecord.log (s := (s.alarmLogged src).dropSlots.modFn fn HostFn.failed) _ _ _ _ _ _ hqueue (hrecord.of_mgmt rfl),
        fun _ => by simp [HostFn.failed]⟩
    · rw [State.eraseDataKeys_of_not_frozen (s := s.alarmLogged src) hsrv (by simpa [hone] using hf), if_neg fun h => hf (HostFn.frozen_iff.mpr h)]
      refine ⟨rfl, rfl, rfl, rfl, rfl, rfl, hrecord.of_mgmt rfl, fun _ => ?_⟩
      rw [State.getFn_of_single (s := (s.alarmLogged src).dropSlots) hone]

/-- A package with no function, no server and no tile but an idle one, which stands alone and has no entry. -/
structure State.Bare (s : State) : Prop where
  fns    : s.fns = []
  srv    : s.srv = []
  others : s.others = []
  idle   : s.tile.run = .idle
  twin   : s.tile.twin = none
  ep     : s.tile.ep < 0x400
  ents   : s.tile.ni.ents = []

/-- A thermal alarm, and every alarm under policy 2 or 3, halts the package; the keys follow the policy. -/
theorem alarm_halts (hsrc : src < 4) (hhalt : 2 ≤ s.mgmt.policy ∨ src = 3) (hs : s.Bare) : let t := s.alarm src
    let m := if 2 ≤ s.mgmt.policy then s.mgmt.dropKeys else s.mgmt
    t.mgmt.boot = .halted ∧ t.mgmt.status = 0xDEAD0002 ∧ t.mgmt.devKey = m.devKey ∧ t.mgmt.ideKeys = m.ideKeys ∧
      t.mgmt.spdmKeys = m.spdmKeys ∧ t.keys = (if s.mgmt.policy = 0 then s.keys else []) ∧ t.tile.run = .parked := by
  obtain ⟨htile, hothers, hkeys, hmgmt⟩ := State.keysByPolicy_of_no_fns (s := s.alarmLogged src) hs.srv hs.fns s.mgmt.policy
  have hhalts : s.alarm src = ((s.alarmLogged src).keysByPolicy s.mgmt.policy).haltPackage := by
    rw [State.alarm_eq hsrc]
    simp [hhalt]
  rw [hhalts]
  generalize (s.alarmLogged src).keysByPolicy s.mgmt.policy = c at *
  rw [State.alarmLogged_tile] at htile
  obtain ⟨tkeys, tmgmt, tparked⟩ := State.haltPackage_calm (s := c)
    (State.calm_of_alone (hothers.trans hs.others) (htile ▸ hs.ents) (htile ▸ hs.twin)) (by simp [htile, hs.idle]) (htile ▸ hs.ep)
  dsimp only
  rw [tkeys, tmgmt, hmgmt, hkeys]
  refine ⟨rfl, rfl, ?_, ?_, ?_, rfl, tparked⟩ <;> split <;> rfl

/-- Under policy 0 or 1 a thermal alarm halts the package and leaves the keys of the device and of its links and sessions. -/
theorem alarm_thermal_gives (hsrc : src < 4) (hp : s.mgmt.policy ≤ 1) (h3 : src = 3) (hs : s.Bare) : Gives (.alarm src) s fun t =>
    t.mgmt.boot = .halted ∧ t.mgmt.status = 0xDEAD0002 ∧ t.mgmt.devKey = s.mgmt.devKey ∧ t.mgmt.ideKeys = s.mgmt.ideKeys ∧
      t.mgmt.spdmKeys = s.mgmt.spdmKeys ∧ t.keys = (if s.mgmt.policy = 0 then s.keys else []) ∧ t.tile.run = .parked := by
  have h := alarm_halts hsrc (.inr h3) hs
  simp only [Nat.not_le.mpr (Nat.lt_succ_of_le hp), if_false] at h
  exact ⟨_, exec_alarm src s, h⟩

/-- Under policy 2 or 3 every alarm halts the package and erases every key. -/
theorem alarm_halt_gives (hsrc : src < 4) (hp : 2 ≤ s.mgmt.policy) (hs : s.Bare) : Gives (.alarm src) s fun t =>
    t.mgmt.boot = .halted ∧ t.mgmt.status = 0xDEAD0002 ∧ t.mgmt.devKey = false ∧ t.mgmt.ideKeys = false ∧ t.mgmt.spdmKeys = false ∧
      t.keys = [] ∧ t.tile.run = .parked := by
  have h := alarm_halts hsrc (.inl hp) hs
  rw [if_pos hp, if_neg (Nat.ne_of_gt (Nat.lt_of_lt_of_le Nat.two_pos hp))] at h
  exact ⟨_, exec_alarm src s, h⟩

end

/-! ### Power states (R308, R317) -/

/-- With no launches D3hot changes its mark alone. -/
theorem d3hotEntry_gives {s : State} (h : s.launches = []) : Gives .d3hotEntry s fun t => t = { s with mgmt := { s.mgmt with d3hot := true } } :=
  ⟨_, rfl, by rw [State.foldl_withdrawAll_of_no_launches h]; rfl⟩

theorem srIovEnable_gives {fn : Nat} (s : State) (on : Bool) (h1 : 1 ≤ fn) (h64 : fn < 64) : Gives (.srIovEnable fn on) s fun t =>
    t.getFn fn = { s.getFn fn with enabled := on } ∧ t = { s with fns := t.fns } := by
  refine ⟨s.modFn fn fun f => { f with enabled := on }, ?_, State.getFn_modFn _ _ _, rfl⟩
  show Host.Outcome.next _ = _
  rw [if_pos (by simp [h1, h64])]

/-! ### O52 -/

/-- Settles O52: start-up by what flash holds, TIME and the power states directly, and the alarm by policy and source. -/
theorem startUpPowerAlarm : Obligations.StartUpPowerAlarm := by
  unfold Obligations.StartUpPowerAlarm
  intro ns fn src on f s m logged f0
  refine ⟨startUp_gives, startUp_recovery_gives, startUp_harvest_gives, ?timeSync, ?clock, d3hotEntry_gives, ?d0, srIovEnable_gives s on,
    fun hsrc hq => ⟨?record, ?erase, ?thermal, ?halt⟩⟩
  case timeSync => exact ⟨_, rfl, rfl, rfl, rfl, rfl, rfl⟩
  case clock => exact ⟨_, rfl, rfl⟩
  case d0 => exact ⟨_, rfl, rfl⟩
  case record => exact alarm_record_gives hsrc hq
  case erase => exact alarm_erase_gives hsrc hq
  case thermal =>
    intro hp h3 hfns hsrv hothers hidle htwin hep hents
    exact alarm_thermal_gives hsrc hp h3 ⟨hfns, hsrv, hothers, hidle, htwin, hep, hents⟩
  case halt =>
    intro hp hfns hsrv hothers hidle htwin hep hents
    exact alarm_halt_gives hsrc hp ⟨hfns, hsrv, hothers, hidle, htwin, hep, hents⟩

end Sys2Proof.Machine
end

section
/-!
What the services send (R39, R42, R91, R119): the answers of the placer and the dispatcher, the placer's events, and what their leaving
changes.
-/
namespace Sys2Proof.Machine

open Sys2Proof.Safety

/-! ### Ranks and interfaces of services -/

theorem rankEp_rankOf (s : State) {ep : Nat} (h : ep < 4096) : rankEp (s.rankOf ep) = ep := by
  simp only [rankEp, State.rankOf, BitVec.toNat_ofNat]
  omega

/-- The endpoints of the services and of the servers: neither tiles nor host functions (R31). -/
def IsService (key : Nat) : Prop := 0x400 ≤ key ∧ key < 0x500

section
variable {key : Nat} (hk : IsService key)
include hk

theorem IsService.isTile : isTile key = false := decide_eq_false (Nat.not_lt.mpr hk.1)
theorem IsService.isHost : isHost key = false := by simp [Machine.isHost, Nat.not_le.mpr hk.2]

theorem State.modNi_service (s : State) (f : Ni → Ni) :
    s.modNi key f = { s with nis := Sparse.set Ni.empty s.nis key (f (s.getNi key)) } := by
  simp [State.modNi, hk.isTile, hk.isHost]

theorem State.trailing_service (s : State) : s.trailing key = false := by simp [State.trailing, hk.isTile]
theorem State.haloSend_service (s : State) (e : Ent) : s.haloSend key e = false := by simp [State.haloSend, hk.isTile]

theorem State.niRank_service (s : State) : s.niRank key = s.rankOf key := by
  have : ¬0x1000 ≤ key := by have := hk.2; omega
  simp [State.niRank, this]

theorem State.rankEp_niRank_service (s : State) : rankEp (s.niRank key) = key := by
  rw [State.niRank_service hk, rankEp_rankOf s (by have := hk.2; omega)]

theorem State.wayBusy_service (s : State) (e : Ent) : s.wayBusy key e = s.injecting key := by
  have : ¬0x1000 ≤ key := by have := hk.2; omega
  rw [State.wayBusy, if_neg this, State.rankEp_niRank_service hk]

end

/-- What an interface was given is read back. -/
@[simp] theorem State.getNi_modNi (s : State) (key : Nat) (f : Ni → Ni) : (s.modNi key f).getNi key = f (s.getNi key) := by
  unfold State.modNi State.getNi
  split
  · simp [State.modTile, State.getTile_setTile]
  · split
    · simp
    · exact Sparse.get_set_self _ _ _

@[simp] theorem State.injecting_modNi (s : State) (key src : Nat) (f : Ni → Ni) : (s.modNi key f).injecting src = s.injecting src := by
  unfold State.modNi State.modTile State.setTile
  split
  · split <;> rfl
  · split <;> rfl

theorem State.getTile_modTile (s : State) {ep : Nat} {f : Tile → Tile} (hf : (f (s.getTile ep)).ep = ep) (k : Nat) :
    (s.modTile ep f).getTile k = if k = ep then f (s.getTile ep) else s.getTile k := by
  rw [State.modTile, State.getTile_setTile, hf]

/-! ### Packets on the torus -/

theorem flitsOf_pos (n : Nat) : 0 < flitsOf n := by unfold flitsOf; split <;> omega

/-- A packet for an endpoint of the package goes onto the torus and waits for its injection (R91, R116). -/
theorem State.emit_own {s : State} {key : Nat} {p : Packet} (hk : IsService key) (hd : s.ownPkg p.hdr.dest = true) :
    ∃ u, s.emit key p = { s with torus := s.torus ++ [u] } ∧ u.ev = .packet p ∧ u.src = key ∧ u.injected < u.size ∧
      u.first = (pathEnds key (rankEp p.hdr.dest)).1 := by
  have hemit : s.emit key p = s.inject (.packet p) key (rankEp p.hdr.dest) := by
    simp [State.emit, State.trailing_service hk, State.endpointOf, hd, State.rankEp_niRank_service hk]
  exact ⟨_, hemit.trans rfl, rfl, rfl, flitsOf_pos _, rfl⟩

/-- What a service has put on the torus for a tile keeps its way out busy (R119). -/
theorem State.injecting_of_waiting {s : State} {key : Nat} {u : Transit} (hu : u ∈ s.torus) (hsrc : u.src = key)
    (hwaits : u.injected < u.size) (hfirst : u.first < 0x4000) : s.injecting key = true := by
  rw [State.injecting, List.any_eq_true]
  exact ⟨u, hu, by simp [hsrc, hwaits, Transit.onLink, hfirst]⟩

/-- An acknowledgement to a sender of the package is one packet more on the torus, and nothing else (R96). -/
theorem State.emit_ack {s : State} {key : Nat} {h : Header} (hk : IsService key) (hown : s.ownPkg h.src = true) (code n : Nat) :
    let t := s.emit key (ackPacket h code n)
    t = { s with torus := t.torus } ∧ Sends s t fun q => q.hdr.kind = 0x05 ∧ q.hdr.hflags = 0 ∧ q.hdr.dest = h.src ∧ q.hdr.xid = h.xid ∧
      q.hdr.offset = BitVec.ofNat 32 (code * 2 ^ 24 + n % 2 ^ 24) := by
  obtain ⟨u, hemit, hev, -⟩ := State.emit_own (s := s) (p := ackPacket h code n) hk hown
  dsimp only
  rw [hemit]
  exact ⟨rfl, u, _, rfl, hev, rfl, rfl, rfl, rfl, rfl⟩

theorem State.acknowledge_eager (s : State) (key n : Nat) {h : Header} (hkind : h.kind = 0x01) :
    s.acknowledge key h n = s.emit key (ackPacket h ackMessage n) := by
  simp [State.acknowledge, hkind]

/-! ### The round-robin of a service (R119) -/

section
variable {s : State} {key : Nat} (hk : IsService key)
include hk

/-- A service takes no part in the halo tree: what is for a halo link changes nothing there. -/
theorem State.foldl_haloSends_service (l : List Ent) :
    l.foldl (fun (st : State) e => if (st.getNi key).leaves e && st.haloSend key e then st.leave key e else st) s = s :=
  List.foldl_fixed' (fun e => by simp [State.haloSend_service hk]) l

/-- The only question for a service is which of its entries has its turn. -/
theorem State.pump_service : s.pump key =
    (roundRobin (s.getNi key).last ((s.getNi key).ents.filter fun e => ((s.getNi key).leaves e || (s.getNi key).asks e) && !s.injecting key)).elim
      s (s.serveFirst key) := by
  simp only [State.pump, State.trailing_service hk, Bool.false_eq_true, if_false, State.foldl_haloSends_service hk, State.wayBusy_service hk]
  split
  · next h => rw [h]; rfl
  · next h => rw [h]; rfl

/-- While a service injects a packet, nothing else leaves. -/
theorem State.pump_service_busy (hbusy : s.injecting key = true) : s.pump key = s := by
  rw [State.pump_service hk]
  simp [hbusy, roundRobin]

/-- A service that injects nothing serves its only entry. -/
theorem State.pump_service_free {e : Ent} (hfree : s.injecting key = false) (hents : (s.getNi key).ents = [e])
    (hturn : ((s.getNi key).leaves e || (s.getNi key).asks e) = true) : s.pump key = s.serveFirst key e := by
  have hfirst : roundRobin (s.getNi key).last [e] = some e := by
    unfold roundRobin
    by_cases h : (s.getNi key).last < e.id <;> simp [h]
  rw [State.pump_service hk, hents, List.filter_cons_of_pos (by rw [hturn, hfree]; rfl), List.filter_nil, hfirst]
  rfl

end

/-! ### Messages of a service (R42, R91, R93) -/

/-- Only the interfaces of services and what is on the torus have changed, and a message goes from a service to a rank. -/
def State.Posts (s : State) (key : Nat) (dest : Rank) (tag : W32) (group : BitVec 16) (l : List Byte) (t : State) : Prop :=
  t = { s with nis := t.nis, torus := t.torus } ∧ Says t (s.rankOf key) dest tag group l

/-- The entry of a message that a service sends. -/
def State.messageEnt (s : State) (key : Nat) (rank : Rank) (tag : W32) (group : BitVec 16) (l : List Byte) (cookie : Word) : Ent :=
  { Ent.fresh (s.getNi key).nextId .send with
    rank, tag, group, len := l.length, buf := .bytes l, detached := true, xid := (s.getNi key).nextXid, cookie
    rcd := { Rec.zero with source := rank, tag, group } }

/-- An interface with one entry more. -/
def Ni.push (n : Ni) (e : Ent) : Ni := { n with ents := n.ents ++ [e], nextId := n.nextId + 1, nextXid := n.nextXid + 1 }

section
variable {s : State} {key : Nat} {rank : Rank} (tag : W32) (group : BitVec 16) (l : List Byte) (cookie : Word)

theorem State.sendFate_reachable (hr : Reachable s rank) : s.sendFate rank = none := by
  obtain ⟨hown, htile, hmap⟩ := hr
  have h1 : ¬0x400 ≤ rankEp rank := Nat.not_le.mpr htile
  have h2 : ¬Config.haloEp < rankEp rank := by simp only [Config.haloEp]; omega
  have h3 : ¬0x540 ≤ rankEp rank := by omega
  simp [State.sendFate, hown, htile, h1, h2, h3, hmap]

theorem State.serviceSend_reachable (hr : Reachable s rank) : s.serviceSend key rank tag group l cookie =
    (s.modNi key fun n => n.push (s.messageEnt key rank tag group l cookie)).pump key := by
  simp only [State.serviceSend, State.sendFate_reachable hr]
  rfl

variable (hk : IsService key)
include hk

/-- Behind a packet that is still to be injected a message waits for its turn (R119). -/
theorem State.serviceSend_waits (hr : Reachable s rank) (hbusy : s.injecting key = true) : let t := s.serviceSend key rank tag group l cookie
    t = { s with nis := t.nis } ∧ WillSay t key rank tag group l := by
  dsimp only
  rw [State.serviceSend_reachable _ _ _ _ hr, State.pump_service_busy hk (by simpa using hbusy)]
  refine ⟨by rw [State.modNi_service hk], s.messageEnt key rank tag group l cookie, ?_, rfl, rfl, rfl, rfl, rfl, rfl, rfl, rfl, rfl⟩
  simp [Ni.push]

omit hk in
/-- A message's bytes are read back from its entry. -/
theorem State.readBuf_bytes {e : Ent} (h : e.buf = .bytes l) : s.readBuf key e 0 l.length = (l, e.poison) := by
  simp only [State.readBuf, h]
  congr 1
  exact List.ext_getElem (by simp) (by simp +contextual)

omit tag group l cookie in
/-- A whole message that a service puts on the torus, its interface having changed before. -/
theorem State.Posts.of_emit {s' : State} {p : Packet} (hs : s' = { s with nis := s'.nis }) (hown : s.ownPkg p.hdr.dest = true)
    (hkind : p.hdr.kind = 0x01) (hsrc : p.hdr.src = s.rankOf key) :
    s.Posts key p.hdr.dest p.hdr.tag p.hdr.group p.payload (s'.emit key p) := by
  obtain ⟨u, hemit, hev, -⟩ := State.emit_own (s := s') (p := p) hk (by rw [hs]; exact hown)
  rw [hemit]
  refine ⟨?_, u, by simp, p, hev, hkind, hsrc, rfl, rfl, rfl, rfl⟩
  rw [hs]

omit hk in
/-- What a service's interface underwent before does not matter to what it sends. -/
theorem State.Posts.of_nis {s' t : State} (hs : s' = { s with nis := s'.nis }) (h : s'.Posts key rank tag group l t) :
    s.Posts key rank tag group l t := by
  rw [hs] at h
  exact h

/-- A short message of a service that has still to leave goes whole (R92, R93). -/
theorem State.leave_message (n : State) (hgrp : s.grpPart = []) (hown : s.ownPkg rank = true) (hlen : l.length ≤ 512) :
    s.Posts key rank tag group l (s.leave key (n.messageEnt key rank tag group l cookie)) := by
  have hdesc : (s.groupDesc key group.toNat).1 = 512 := by simp [State.groupDesc, hk.isTile, hgrp]; rfl
  have hread : s.readBuf key (n.messageEnt key rank tag group l cookie) 0 (n.messageEnt key rank tag group l cookie).len = (l, false) :=
    s.readBuf_bytes l rfl
  simp only [State.leave, State.haloSend_service hk, Bool.false_eq_true, if_false, hread]
  rw [if_pos (by simp [State.messageEnt, Ent.fresh, hdesc, hlen])]
  refine State.Posts.of_emit hk ?_ hown rfl (State.niRank_service hk s)
  simp only [State.modEnt, State.modNi_service hk]
  split <;> rfl

/-- A service that has nothing else to send sends a short message at once. -/
theorem State.serviceSend_posts (hq : Quiet s key) (hr : Reachable s rank) (hlen : l.length ≤ 512) :
    s.Posts key rank tag group l (s.serviceSend key rank tag group l cookie) := by
  obtain ⟨hents, hgrp, -, hfree⟩ := hq
  have hk' : key < 0x1000 := by have := hk.2; omega
  let e := s.messageEnt key rank tag group l cookie
  have hone : ((s.modNi key fun n => n.push e).getNi key).ents = [e] := by simp [Ni.push, hents]
  have hturn : ((s.modNi key fun n => n.push e).getNi key).leaves e = true := by
    simp only [Ni.leaves, hone]
    simp [e, State.messageEnt, Ent.fresh, EKind.isSend]
  rw [State.serviceSend_reachable _ _ _ _ hr, State.pump_service_free hk (by simpa using hfree hk') hone (by rw [hturn]; rfl), State.serveFirst,
    if_neg (by simp [e, State.messageEnt, Ent.fresh, EKind.isReq, EKind.table])]
  have hs : ∀ f g : Ni → Ni, (s.modNi key f).modNi key g = { s with nis := ((s.modNi key f).modNi key g).nis } := fun f g => by
    rw [State.modNi_service hk, State.modNi_service hk]
  refine State.Posts.of_nis _ _ _ (hs _ _) (State.leave_message _ _ _ _ hk s ?_ ?_ hlen)
  · rw [hs]; exact hgrp
  · rw [hs]; exact hr.1

end

/-! ### Events (R42) -/

theorem isService_placer : IsService Config.placerEp := ⟨by decide, by decide⟩
theorem isService_dispatcher : IsService Config.dispatcherEp := ⟨by decide, by decide⟩

theorem eventBytes_length (n ev reason tile time : Nat) : (eventBytes n ev reason tile time).length = 32 := by simp [eventBytes, toLE]

section
variable {s : State} {l : Launch} (n ev reason tile : Nat)

/-- A placer that has nothing else to send sends an event at once; nothing but its interface and the torus changes. -/
theorem State.report_event (hq : Quiet s 0x4C0) (hr : Reachable s l.launcher) : ∃ nis torus,
    s.report l n ev reason tile = { s with nis, torus } ∧ Event s { s with nis, torus } l n ev reason tile := by
  obtain ⟨hframe, hsays⟩ := State.serviceSend_posts l.tag l.group (eventBytes n ev reason tile s.time) 0 isService_placer hq hr
    (by rw [eventBytes_length]; decide)
  exact ⟨_, _, hframe, hframe ▸ hsays⟩

/-- Behind the placer's other packets an event waits for its turn (R119). -/
theorem State.report_waits (hr : Reachable s l.launcher) (hbusy : s.injecting 0x4C0 = true) : ∃ nis,
    s.report l n ev reason tile = { s with nis } ∧
      WillSay { s with nis } 0x4C0 l.launcher l.tag l.group (eventBytes n ev reason tile s.time) := by
  obtain ⟨hframe, hsays⟩ := State.serviceSend_waits l.tag l.group (eventBytes n ev reason tile s.time) 0 isService_placer hr hbusy
  exact ⟨_, hframe, hframe ▸ hsays⟩

end

end Sys2Proof.Machine
end

section
/-!
Work items (R55 to R59, R204): what the dispatcher does with an item, a waiting tile and an acknowledgement, and the proof of O47.
-/
namespace Sys2Proof.Machine

open Sys2Proof.Safety

theorem exec_workItem (p : Packet) (s : State) : exec (.workItem p) s = .next (s.workItem p) := rfl
theorem exec_itemDelivery (ep : Nat) (s : State) : exec (.itemDelivery ep) s = .next (s.deliverItem ep) := rfl
theorem exec_donewAck (p : Packet) (s : State) : exec (.donewAck p) s = .next (s.donewAck p) := rfl

/-! ### Little-endian numbers -/

theorem ofBytes_eq_ofLE (l : List Byte) : ofBytes l = ofLE l := by
  induction l with
  | nil => rfl
  | cons b l ih => rw [ofBytes, ofLE, ih]

theorem toLE_succ (n x : Nat) : toLE (n + 1) x = BitVec.ofNat 8 x :: toLE n (x / 256) := by
  have hshift (i : Nat) : x / 2 ^ (8 * (i + 1)) = x / 256 / 2 ^ (8 * i) := by
    rw [Nat.div_div_eq_div_mul, show 8 * (i + 1) = 8 + 8 * i by ring, pow_add]
    rfl
  simp [toLE, List.range_succ_eq_map, Function.comp_def, hshift]

/-- A number that fits comes back from its bytes. -/
theorem ofBytes_toLE (n x : Nat) (h : x < 256 ^ n) : ofBytes (toLE n x) = x := by
  induction n generalizing x with
  | zero => simp [toLE, ofBytes]; omega
  | succ n ih =>
    rw [toLE_succ, ofBytes, ih _ (by rw [pow_succ] at h; omega), BitVec.toNat_ofNat]
    omega

/-! ### Binding a stage -/

theorem toNat_low_byte (x : BitVec 16) : (x.extractLsb' 0 8).toNat = x.toNat % 256 := by simp
theorem toNat_high_byte (x : BitVec 16) : (x.extractLsb' 8 8).toNat = x.toNat / 256 := by
  have := x.isLt
  simp only [BitVec.extractLsb'_toNat, Nat.shiftRight_eq_div_pow]
  omega

/-- A placed launch binds the stages of its STAGEBIND (R35, R55). -/
theorem Launch.binds_of_placed {l : Launch} {stage : Nat} (hst : l.st = .placed) (hlo : l.lrec.stage.toNat % 256 ≤ stage)
    (hhi : stage < l.lrec.stage.toNat % 256 + l.lrec.stage.toNat / 256) : l.binds stage = true := by
  simp only [Launch.binds, toNat_low_byte, toNat_high_byte, hst, LState.onTiles]
  simp [hlo, hhi]

/-! ### Queuing (R55, R56) -/

section
variable {s : State} {p : Packet}

/-- An item of a stage that no launch binds is refused. -/
theorem State.workItem_denied (h : s.launches = []) : s.workItem p = s.denyMessage Config.dispatcherEp p.hdr := by
  simp [State.workItem, h]

/-- The item as its producer's message brings it. -/
def State.newItem (s : State) (p : Packet) : Item := ⟨p.hdr.tag.toNat, p.payload.take 16, s.disp.orders, 0, 0⟩

/-- An item of a bound stage from the stage's own partition is queued and acknowledged while there is room. -/
theorem State.workItem_queued {l : Launch} {part : Nat} (hown : s.ownPkg p.hdr.src = true) (htile : rankEp p.hdr.src < 0x400)
    (hlen : p.hdr.len = 16) (hkind : p.hdr.kind = 0x01) (hstage : p.hdr.tag.toNat < 256)
    (hpart : Sparse.get none s.stgPart p.hdr.tag.toNat = some part) (hsrc : s.partOf (rankEp p.hdr.src) = some part) (hl : l ∈ s.launches)
    (hbinds : l.binds p.hdr.tag.toNat = true) (hroom : s.disp.queues.length < 16384) :
    s.workItem p = ({ s with disp := { s.disp with queues := s.disp.queues ++ [s.newItem p], orders := s.disp.orders + 1 } }).acknowledge
      Config.dispatcherEp p.hdr 16 := by
  have hmay : s.mayEnqueue p.hdr.src p.hdr.tag.toNat = true := by
    have : rankEp p.hdr.src ≠ Config.mgmtEp := by simp only [Config.mgmtEp]; omega
    simp [State.mayEnqueue, hown, this, hpart, State.keyPart, isTile, htile, hsrc]
  have hany : (s.launches.any fun l => l.binds p.hdr.tag.toNat) = true := List.any_eq_true.mpr ⟨l, hl, hbinds⟩
  have hfull : (s.disp.queues.filter fun i => i.stage == p.hdr.tag.toNat).length < 16384 :=
    Nat.lt_of_le_of_lt (List.length_filter_le _ _) hroom
  have hfull' : ¬65536 ≤ s.disp.queues.length := by omega
  simp only [State.workItem, hlen, hkind, hmay, hany]
  rw [if_neg (by simp; omega), if_neg (by simp [hfull, hfull'])]
  rfl

end

/-! ### Delivery (R57 to R59) -/

section
variable {s : State} {l : Launch} {i : Item} {ep : Nat}

/-- An item once more delivered. -/
def Item.delivered (i : Item) (orders : Nat) : Item := { i with count := i.count + 1, first := if i.count = 0 then orders else i.first }

/-- What WAITW gives of an item under the dispatch's sequence number (R58). -/
def Item.words (i : Item) (seq : Nat) : List Word :=
  [BitVec.ofNat 64 i.stage, ticketOf seq i.stage, BitVec.ofNat 64 (ofBytes ((i.data.drop 0).take 8)),
   BitVec.ofNat 64 (ofBytes ((i.data.drop 8).take 8))]

/-- One tile of one launch waits, and takes the only item. -/
theorem State.deliverItem_one (hl : s.launches = [l]) (htiles : l.tiles = [ep]) (hst : l.st = .placed) (hbinds : l.binds i.stage = true)
    (hwait : (s.getTile ep).waitw = true) (hrun : (s.getTile ep).run = .running) (hitem : (s.getTile ep).item = [])
    (hq : s.disp.queues = [i]) : s.deliverItem ep =
      { s.modTile ep (fun t => { t with item := i.words s.disp.seq }) with
        disp := {
          queues := []
          logged := if l.lrec.restartable then s.disp.logged ++ [⟨i.delivered s.disp.orders, ep, l.n, s.disp.seq⟩] else s.disp.logged
          seq := (s.disp.seq + 1) % 2 ^ 32
          orders := s.disp.orders + 1
          served := Sparse.set 0 s.disp.served i.stage (serveKey l.n 0) } } := by
  have hwaiters : s.waiters = [(ep, l, serveKey l.n 0)] := by simp [State.waiters, hl, htiles, hst, hwait, hrun, hitem]
  have hhead : s.headFor l = some i := by simp [State.headFor, hq, hbinds]
  have hrest : s.stageRestartable i.stage = l.lrec.restartable := by simp [State.stageRestartable, hl, hbinds]
  have hgone : s.disp.queues.filter (fun x => x != i) = [] := by simp [hq]
  simp only [State.deliverItem, hwaiters, List.find?_cons, beq_self_eq_true, hhead, hrest, hgone]
  rfl

/-- The acknowledgement with an item's ticket from the tile that holds it forgets the item (R59, R204). -/
theorem State.donewAck_one {p : Packet} {gang seq : Nat} (hown : s.ownPkg p.hdr.src = true)
    (hlog : s.disp.logged = [⟨i, rankEp p.hdr.src, gang, seq⟩]) (hrest : s.stageRestartable i.stage = true)
    (hpay : p.payload = toLE 8 (seq % 2 ^ 32 + i.stage % 256 * 2 ^ 32)) :
    s.donewAck p = ({ s with disp := { s.disp with logged := [] } }).acknowledge Config.dispatcherEp p.hdr 8 := by
  have hticket : ofBytes (p.payload.take 8) = seq % 2 ^ 32 + i.stage % 256 * 2 ^ 32 := by
    rw [hpay, List.take_of_length_le (by simp [toLE]), ofBytes_toLE _ _ (by omega)]
  have hgone : s.disp.logged.filter (fun x => !(s.ownPkg p.hdr.src && x.tile == rankEp p.hdr.src &&
      ticketOf x.seq x.item.stage == BitVec.ofNat 64 (ofBytes (p.payload.take 8)) && s.stageRestartable x.item.stage)) = [] := by
    simp [hlog, hown, hticket, hrest, ticketOf]
  simp only [State.donewAck, hgone]

end

/-! ### O47 -/

section
variable {s : State} {p : Packet} {l : Launch} {i : Item}

/-- What the dispatcher answers to a producer or a tile (R55, R96). -/
theorem State.dispatcher_acks (hown : s.ownPkg p.hdr.src = true) (code n off : Nat) (hoff : code * 2 ^ 24 + n % 2 ^ 24 = off) :
    let t := s.emit Config.dispatcherEp (ackPacket p.hdr code n)
    t = { s with torus := t.torus } ∧ Sends s t fun q => q.hdr.kind = 0x05 ∧ q.hdr.hflags = 0 ∧ q.hdr.dest = p.hdr.src ∧ q.hdr.xid = p.hdr.xid ∧
      q.hdr.offset = BitVec.ofNat 32 off :=
  hoff ▸ State.emit_ack isService_dispatcher hown code n

end

/-- Settles O47: an item refused or queued, one delivered to the tile that waits, and one acknowledged. -/
theorem workItems : Obligations.WorkItems := by
  unfold Obligations.WorkItems
  intro p l i part ep s hkind h stage answered binds word
  refine ⟨fun hown htile hlen hstage => ⟨fun hnone => ?denied, fun hpart hsrc hl ⟨hst, hlo, hhi⟩ hroom => ?queued⟩,
    fun hl htiles ⟨hst, hlo, hhi⟩ hwait hrun hitem hq => ?delivered, fun hown hlog hl ⟨hst, hlo, hhi⟩ hrest hpay => ?acknowledged⟩
  case denied =>
    obtain ⟨hframe, hsends⟩ := State.dispatcher_acks (p := p) hown ackDenied 0 0xC0000000 rfl
    exact ⟨_, (exec_workItem p s).trans (congrArg _ (State.workItem_denied hnone)), hsends, hframe⟩
  case queued =>
    have hqueued := State.workItem_queued hown htile hlen hkind hstage hpart hsrc hl (Launch.binds_of_placed hst hlo hhi) hroom
    rw [State.acknowledge_eager _ _ _ hkind] at hqueued
    obtain ⟨hframe, hsends⟩ := State.dispatcher_acks (p := p)
      (s := { s with disp := { s.disp with queues := s.disp.queues ++ [s.newItem p], orders := s.disp.orders + 1 } }) hown ackMessage 16 0x80000010 rfl
    refine ⟨_, (exec_workItem p s).trans (congrArg _ hqueued), hsends, ?_⟩
    rw [hframe]
    exact ⟨rfl, _, rfl, rfl, rfl, rfl⟩
  case delivered =>
    have hbinds := Launch.binds_of_placed hst hlo hhi
    refine ⟨_, (exec_itemDelivery ep s).trans (congrArg _ (State.deliverItem_one hl htiles hst hbinds hwait hrun hitem hq)), rfl, rfl, ?_, ?_, ?_⟩
    · intro hno
      exact if_neg (by rw [LaunchRec.restartable, hno]; decide)
    · intro hyes
      exact ⟨i.delivered s.disp.orders, if_pos hyes, rfl, rfl, rfl⟩
    · have hwords : i.words s.disp.seq =
          [BitVec.ofNat 64 i.stage, BitVec.ofNat 64 (s.disp.seq % 2 ^ 32 + i.stage % 256 * 2 ^ 32), word 0, word 8] := by
        simp only [Item.words, ofBytes_eq_ofLE]
        rfl
      rw [← hwords]
      exact (s.getTile_modTile (s.getTile_ep ep) ep).trans (if_pos rfl)
  case acknowledged =>
    have hany : s.stageRestartable i.stage = true :=
      List.any_eq_true.mpr ⟨l, hl, by rw [Launch.binds_of_placed hst hlo hhi]; exact hrest⟩
    have hdone := State.donewAck_one hown hlog hany hpay
    rw [State.acknowledge_eager _ _ _ hkind] at hdone
    obtain ⟨hframe, hsends⟩ := State.dispatcher_acks (p := p) (s := { s with disp := { s.disp with logged := [] } }) hown ackMessage 8 0x80000008 rfl
    refine ⟨_, (exec_donewAck p s).trans (congrArg _ hdone), ?_, hsends, ?_⟩
    · rw [hframe]
    · rw [hframe]

end Sys2Proof.Machine
end

section
/-!
What system software has the management controller set (R32 to R34, R92, R141, R143, R144, R314, R328, R402, R403), and the proof of O51.
-/
namespace Sys2Proof.Machine

open Sys2Proof.Safety

/-! ### Finite maps whose readers know another default, and filtered ones -/

namespace Sparse

variable {α : Type} {d e : α}

/-- A value that is written and is not the default is listed, whatever default its reader takes. -/
theorem get_set_of_ne [DecidableEq α] (m : List (Nat × α)) (k : Nat) {v : α} (hv : v ≠ d) : get e (set d m k v) k = v := by
  induction m with
  | nil => simp [set, hv, get]
  | cons x m ih =>
    obtain ⟨j, w⟩ := x
    rw [set]
    split
    · simp [get]
    · split
      · simp [get]
      · rw [get, if_neg ‹_›, ih]

theorem get_append_of_get {l m : List (Nat × α)} {k : Nat} (h : ∀ x ∈ l, x.1 ≠ k) : get d (l ++ m) k = get d m k := by
  induction l with
  | nil => rfl
  | cons x l ih =>
    obtain ⟨j, w⟩ := x
    rw [List.cons_append, get, if_neg (Ne.symm (h (j, w) List.mem_cons_self)), ih fun y hy => h y (List.mem_cons_of_mem _ hy)]

theorem get_append_of_default {m : List (Nat × α)} {k : Nat} (h : get d m k = d) (l : List (Nat × α)) : get d (l ++ m) k = get d l k := by
  induction l with
  | nil => exact h
  | cons x l ih =>
    obtain ⟨j, w⟩ := x
    rw [List.cons_append, get, get, ih]

theorem mem_of_mem_erase {m : List (Nat × α)} {k : Nat} {x : Nat × α} (h : x ∈ erase m k) : x ∈ m := by
  induction m with
  | nil => exact h
  | cons y m ih =>
    rw [erase] at h
    split at h
    · exact List.mem_cons_of_mem _ (ih h)
    · exact (List.mem_cons.mp h).elim (· ▸ List.mem_cons_self) fun h => List.mem_cons_of_mem _ (ih h)

/-- A write lists no key but its own and those that were listed. -/
theorem key_of_mem_set [DecidableEq α] {m : List (Nat × α)} {k : Nat} {v : α} {x : Nat × α} (h : x ∈ set d m k v) : x.1 = k ∨ x ∈ m := by
  induction m with
  | nil =>
    rw [set] at h
    split at h
    · exact absurd h (by simp)
    · exact .inl (by simp_all)
  | cons y m ih =>
    have hcons {l : List (Nat × α)} (hl : x ∈ l → x.1 = k ∨ x ∈ m) (h : x ∈ y :: l) : x.1 = k ∨ x ∈ y :: m :=
      (List.mem_cons.mp h).elim (fun h => .inr (h ▸ List.mem_cons_self)) fun h => (hl h).imp_right (List.mem_cons_of_mem _)
    have hnew {l : List (Nat × α)} (hl : ∀ z ∈ l, z ∈ y :: m) (h : x ∈ (k, v) :: l) : x.1 = k ∨ x ∈ y :: m :=
      (List.mem_cons.mp h).elim (fun h => .inl (h ▸ rfl)) fun h => .inr (hl x h)
    rw [set] at h
    split at h
    · split at h
      · exact hcons (fun h => .inr (mem_of_mem_erase h)) h
      · exact hnew (fun _ hz => hz) h
    · split at h
      · split at h
        · exact .inr (List.mem_cons_of_mem _ (mem_of_mem_erase h))
        · exact hnew (fun _ hz => List.mem_cons_of_mem _ hz) h
      · exact hcons ih h

/-- The entries of the keys that `f` keeps are read as before, those of the others as the default. -/
theorem get_filter (f : Nat → Bool) (m : List (Nat × α)) (k : Nat) :
    get d (m.filter fun x => f x.1) k = if f k then get d m k else d := by
  induction m with
  | nil => simp
  | cons x m ih =>
    obtain ⟨j, w⟩ := x
    by_cases hj : f j <;> by_cases hk : k = j <;> simp_all [get]

end Sparse

/-! ### The meanings -/

section
variable (s : State)

theorem exec_partitionAssign (p : Nat) (r : Resource) : exec (.partitionAssign p r) s = .next (s.assign p r) := rfl
theorem exec_tilePartitionMove (ep p : Nat) : exec (.tilePartitionMove ep p) s = .next (s.moveTile ep p) := rfl
theorem exec_placerParameterSet (p : Nat) (q : Param) (v : Nat) : exec (.placerParameterSet p q v) s = .next (s.setParam p q v) := rfl
theorem exec_groupDescriptorWrite (p g eager slotw : Nat) :
    exec (.groupDescriptorWrite p g eager slotw) s = .next (s.groupDescriptor p g eager slotw) := rfl
theorem exec_contextDescriptorWrite (k a : Nat) (d : CtxDesc) : exec (.contextDescriptorWrite k a d) s = .next (s.contextDescriptor k a d) := rfl
theorem exec_pageEntryChange (k a pn addr : Nat) (e : Word) : exec (.pageEntryChange k a pn addr e) s = .next (s.pageEntry k a pn addr e) := rfl
theorem exec_poolRefill (k a : Nat) (frames : List Nat) : exec (.poolRefill k a frames) s = .next (s.refill k a frames) := rfl
theorem exec_keySlotLoad (k p : Nat) : exec (.keySlotLoad k p) s = .next (s.loadSlot k p) := rfl
theorem exec_failPendingShards (k a : Nat) : exec (.failPendingShards k a) s = execFailPendingShards k a s := rfl
theorem exec_keySlotErase (k : Nat) : exec (.keySlotErase k) s = execKeySlotErase k s := rfl
theorem exec_faultrankSet {p : Nat} (hp : p < 64) (rank : Rank) (g : Nat) :
    exec (.faultrankSet p rank g) s = .next (s.modPart p fun x => { x with faultRank := rank, faultGrp := g % 65536 }) :=
  congrArg Host.Outcome.next (if_pos hp)
theorem exec_pkgmapWrite {k : Nat} (hk : k < 1048576) (e : Word) :
    exec (.pkgmapWrite k e) s = .next (s.onMgmt fun m => { m with pkgmap := Sparse.set 0 m.pkgmap k e }) :=
  congrArg Host.Outcome.next (if_pos hk)

end

/-! ### Locks -/

/-- Without host functions no lock freezes a partition (R312). -/
theorem State.frozen_of_no_fns {s : State} (h : s.fns = []) (p : Option Nat) : s.frozen p = false := by
  cases p <;> simp [State.frozen, State.fnsOf, h]

/-! ### Moving a tile (R33, R155) -/

section
variable (t : Tile)

theorem Tile.cr_setCr (n i : Nat) (v : Word) : (t.setCr n v).cr i = if i = n then v else t.cr i := by
  unfold Tile.setCr Tile.cr
  split
  · next h => rw [h, Regs.getC_setC]
  · next h => exact Regs.getC_setC_ne _ v h

/-- The tile with other control registers. -/
def Tile.withCr (m : List (Nat × Word)) : Tile := { t with thr := { t.thr with regs := { t.thr.regs with cr := m } } }

@[simp] theorem Tile.withCr_cr (m : List (Nat × Word)) (i : Nat) : (t.withCr m).cr i = Sparse.get 0 m i := rfl

/-- Registers from `b` on, each written with what `f` makes of it: all else of the tile stays. -/
theorem Tile.foldl_setCr (b : Nat) (f : Word → Word) (n : Nat) :
    ∃ m, (List.range n).foldl (fun (u : Tile) j => u.setCr (b + j) (f (u.cr (b + j)))) t = t.withCr m ∧
      ∀ i, Sparse.get 0 m i = if b ≤ i ∧ i < b + n then f (t.cr i) else t.cr i := by
  induction n with
  | zero => exact ⟨t.thr.regs.cr, rfl, fun i => by rw [if_neg (by omega)]; rfl⟩
  | succ n ih =>
    obtain ⟨m, hfold, hm⟩ := ih
    refine ⟨Sparse.set 0 m (b + n) (f (Sparse.get 0 m (b + n))), ?_, fun i => ?_⟩
    · rw [List.range_succ, List.foldl_append, hfold]
      rfl
    · rw [Sparse.get_set, hm, hm]
      grind

theorem toNat_abOwned (ab : Word) {p : Nat} (hp : p < 64) : (abOwned ab p).toNat = ab.toNat % 2 ^ 32 + p * 2 ^ 32 := by
  rw [abOwned, BitVec.toNat_ofNat]
  omega

/-- A tile that is zeroed keeps its instruction store and its control registers but AGEN0 to AGEN7. -/
theorem Tile.wiped_spec : let u := t.wiped
    u.ep = t.ep ∧ u.mem = [] ∧ u.anvil = [] ∧ u.latch = none ∧ u.shadow = none ∧ u.imem = t.imem ∧
      ∀ i, u.cr i = if 0x0D0 ≤ i ∧ i < 0x0D8 then 0 else t.cr i := by
  unfold Tile.wiped
  obtain ⟨m, hfold, hcr⟩ := Tile.foldl_setCr _ crAGEN0 (fun _ => 0) 8
  dsimp only
  rw [hfold]
  exact ⟨rfl, rfl, rfl, rfl, rfl, rfl, hcr⟩

/-- A tile that changes partition is zeroed, and its regions have the new owner. -/
theorem Tile.moved_spec (p : Nat) : let u := t.moved p
    u.ep = t.ep ∧ u.mem = [] ∧ u.anvil = [] ∧ u.latch = none ∧ u.shadow = none ∧ u.imem = t.imem ∧
      ∀ j < 8, u.cr (0x0D0 + j) = 0 ∧ u.cr (0x0D8 + j) = abOwned (t.cr (0x0D8 + j)) p := by
  obtain ⟨m, hfold, hcr⟩ := Tile.foldl_setCr t.wiped crAB0 (fun v => abOwned v p) 8
  obtain ⟨hep, hmem, hanvil, hlatch, hshadow, himem, hold⟩ := t.wiped_spec
  unfold Tile.moved
  dsimp only
  rw [hfold]
  refine ⟨hep, hmem, hanvil, hlatch, hshadow, himem, fun j hj => ⟨?_, ?_⟩⟩
  · exact (hcr _).trans ((if_neg (by simp only [crAB0]; omega)).trans ((hold _).trans (if_pos (by omega))))
  · exact (hcr _).trans ((if_pos (by simp only [crAB0]; omega)).trans (by rw [hold, if_neg (by omega)]))

end

section
variable {s : State} {p : Nat}

theorem State.moveTile_focus (hfns : s.fns = []) (hp : p < 64) (hep : s.tile.ep < 0x400) (hgang : s.tile.gang = 0)
    (hshadow : s.tile.shadow = none) (hpart : s.partOf s.tile.ep ≠ some p) : s.moveTile s.tile.ep p =
    (({ s with owner := Sparse.set none s.owner s.tile.ep (some p) }).onTile fun t => t.moved p).kick p := by
  have hcond : (s.partOf s.tile.ep != some p && s.tile.ep < 1024 && p < 64 && (s.getTile s.tile.ep).vacant &&
      !s.frozen (s.partOf s.tile.ep) && !s.frozen (some p)) = true := by
    simp [hpart, hep, hp, Tile.vacant, hgang, hshadow, State.frozen_of_no_fns hfns]
  rw [State.moveTile, if_pos hcond]
  exact congrArg (State.kick · p)
    (State.modTile_focus { s with owner := Sparse.set none s.owner s.tile.ep (some p) } (Tile.moved · p) (s.tile.moved_spec p).1)

theorem State.moveTile_occupied (h : s.tile.gang ≠ 0 ∨ s.partOf s.tile.ep = some p) : s.moveTile s.tile.ep p = s := by
  rw [State.moveTile, if_neg]
  rcases h with h | h <;> simp [Tile.vacant, h]

end

/-! ### Parameters and group descriptors (R34, R92) -/

section
variable {s : State} {p : Nat}

@[simp] theorem State.getPart_modPart (s : State) (p : Nat) (f : Part → Part) : (s.modPart p f).getPart p = f (s.getPart p) :=
  Sparse.get_set_self _ _ _

/-- A partition with one parameter set. -/
def Part.withParam (x : Part) (i v : Nat) : Part :=
  { x with params := Sparse.set (paramDefault i) (x.params.filter fun y => y.1 == i) i v ++ x.params.filter fun y => y.1 != i }

theorem Part.get_withParam (x : Part) (i v j : Nat) :
    Sparse.get (paramDefault j) (x.withParam i v).params j = if j = i then v else Sparse.get (paramDefault j) x.params j := by
  by_cases hj : j = i
  · subst hj
    rw [if_pos rfl, Part.withParam, Sparse.get_append_of_default, Sparse.get_set_self]
    rw [Sparse.get_filter (fun k => k != j), if_neg (by simp)]
  · rw [if_neg hj, Part.withParam, Sparse.get_append_of_get, Sparse.get_filter (fun k => k != i), if_pos (by simpa using hj)]
    intro y hy
    have : y.1 = i := (Sparse.key_of_mem_set hy).elim id fun h => by simpa using (List.mem_filter.mp h).2
    omega

theorem State.param_modPart (s : State) (p i v j : Nat) :
    (s.modPart p fun x => x.withParam i v).param (some p) j = if j = i then v else s.param (some p) j := by
  rw [State.param, ← State.getPart, State.getPart_modPart, Part.get_withParam]
  rfl

/-- A parameter that neither bounds deliveries nor ends retention is set and nothing else, and placement is tried again. -/
theorem State.setParam_plain {q : Param} {v : Nat} (hp : p < 64) (hok : paramOk q v = true) (hretry : q ≠ .retryMax) (hidle : q ≠ .retIdle) :
    s.setParam p q v = (s.modPart p fun x => x.withParam (paramIndex q) v).kick p := by
  rw [State.setParam, if_neg (by simp [hok, hp])]
  cases q
  case retryMax => exact absurd rfl hretry
  case retIdle => exact absurd rfl hidle
  all_goals rfl

/-- A group descriptor within its limits is taken. -/
theorem State.groupDescriptor_taken {g eager slotw : Nat} (hfns : s.fns = []) (hp : p < 64) (hg : Sparse.get none s.grpPart g = some p)
    (hlo : 64 ≤ eager) (hhi : eager ≤ 2048) (hstep : eager % 64 = 0) (hslot : slotw ≤ 65535) (hroom : (s.getPart p).groups.length < 256) :
    s.groupDescriptor p g eager slotw = s.modPart p fun x => { x with groups := Sparse.set (0, 0) x.groups g (eager, slotw) } := by
  rw [State.groupDescriptor, if_pos (by simp [State.frozen_of_no_fns hfns, *])]

end

/-! ### Servers (R141, R143, R402) -/

section
variable {s : State} {k : Nat}

theorem State.getSrv_modSrv_ne (s : State) {k j : Nat} (f : Server → Server) (h : j ≠ k) : (s.modSrv k f).getSrv j = s.getSrv j :=
  Sparse.get_set_ne _ _ h

@[simp] theorem State.getSrv_inject (s : State) (ev : Ev) (src dst j : Nat) : (s.inject ev src dst).getSrv j = s.getSrv j := rfl

@[simp] theorem State.getSrv_logSrv (s : State) (q : Shard) (code va : Nat) (d0 : Word) (j : Nat) : (s.logSrv q code va d0).getSrv j = s.getSrv j := rfl

/-- With nothing pending there is nothing to translate again. -/
theorem State.retranslate_of_no_pending (h : (s.getSrv k).pending = []) (f : Shard → Nat → Nat → Bool) : s.retranslate k f = s := by
  simp [State.retranslate, h]

theorem State.releaseHeld_of_no_held (h : (s.getSrv k).held = []) (issuer : Rank) : s.releaseHeld k issuer = s := by
  simp [State.releaseHeld, h]

/-- Without probes a server has nothing to echo. -/
theorem State.echoes_of_no_fences (h : (s.getSrv k).fences = []) : s.echoes k = s.modSrv k fun v => { v with fences := [] } := by
  simp [State.echoes, State.modSrv, h]

theorem dataPackets_nil (kind : Nat) : dataPackets kind [] = [] := by
  unfold dataPackets
  split <;> rfl

/-- What a server keeps when it answers a shard that it does not perform: older entries of its record may go. -/
def State.unperformed (s : State) (q : Shard) : Server :=
  let v := s.getSrv q.srv
  { v with
    stamp := v.stamp + 1
    log := (v.log.filter fun x => decide (s.time ≤ x.2.2.2.2 + 4000 * s.param (s.issuerPart q) 5) || s.replying x.1 x.2.1 x.2.2.1 ||
      s.wants x.1 x.2.1 x.2.2.1) ++ []
    resend := v.resend.filter fun x => !(x.1 == q.issuer && x.2.1 == q.xid && x.2.2 == q.no) }

/-- A shard that is not performed is answered with its result alone (R384, R391). -/
theorem State.finish_unperformed (s : State) (kind : Nat) (q : Shard) {result : Nat} (h : result ≠ 0 ∧ result ≠ 1 ∧ result ≠ 6) :
    s.finish kind q result [] = (((s.modSrv q.srv fun _ => s.unperformed q).inject
      (.sdone (shardReply q result 0 ((s.getSrv q.srv).stamp + 1) []) firstInterval) (0x400 + q.srv) (rankEp q.issuer)).releaseHeld
        q.srv q.issuer).echoes q.srv := by
  obtain ⟨h0, h1, h6⟩ := h
  simp only [State.finish, State.answerShard, dataPackets_nil, List.foldl_nil, beq_eq_false_iff_ne.mpr h0, beq_eq_false_iff_ne.mpr h1,
    beq_eq_false_iff_ne.mpr h6, h6, Bool.or_self, Bool.false_and, Bool.false_eq_true, if_false, shardReply]
  cases q.notify <;> rfl

/-- At a server that holds nothing back, a pending shard that fails FAULT leaves its bytes as they are and is answered (R402). -/
theorem State.failShard_fault {q : Shard} (hheld : (s.getSrv q.srv).held = []) (hfences : (s.getSrv q.srv).fences = []) (kind va : Nat) :
    let t := s.failShard kind q 0x08 va
    (t.getSrv q.srv).pending = (s.getSrv q.srv).pending ∧ (t.getSrv q.srv).held = [] ∧ (t.getSrv q.srv).fences = [] ∧
      (Replies t fun r => r.dest = q.issuer ∧ r.xid = q.xid ∧ r.no = q.no ∧ r.result = 8) ∧ t.dram = s.dram := by
  simp only [State.failShard, Bool.true_or, decide_true, if_true, State.finish_unperformed _ kind q (result := 0x08) (by decide)]
  rw [State.releaseHeld_of_no_held (by simpa [State.unperformed] using hheld), State.echoes_of_no_fences (by simpa [State.unperformed] using hfences)]
  refine ⟨?_, ?_, ?_, ⟨_, List.mem_append_right _ List.mem_cons_self, _, _, rfl, rfl, rfl, rfl, rfl⟩, rfl⟩ <;>
    simp only [State.getSrv_modSrv, State.getSrv_inject]
  · rfl
  · exact hheld

/-- The only pending shard of a context fails FAULT when the controller is told so (R402). -/
theorem failPendingShards_gives {w : Waiting} {x : Nat × Nat × Nat} {a : Nat} (hpend : (s.getSrv k).pending = [(w, x)])
    (hheld : (s.getSrv k).held = []) (hfences : (s.getSrv k).fences = []) (hsrv : w.shard.srv = k) (hactx : w.shard.actx = a) :
    Gives (.failPendingShards k a) s fun t => (t.getSrv k).pending = [] ∧
      (Replies t fun r => r.dest = w.shard.issuer ∧ r.xid = w.shard.xid ∧ r.no = w.shard.no ∧ r.result = 8) ∧ t.dram = s.dram := by
  subst hsrv
  let s1 := s.modSrv w.shard.srv fun v => { v with pending := v.pending.filter fun y => y != (w, x) }
  obtain ⟨hnone, hheld', hfences', hreply, hdram⟩ := State.failShard_fault (s := s1) (q := w.shard) (by simpa [s1] using hheld)
    (by simpa [s1] using hfences) w.kind (shardVa w.shard)
  have hfail : s.failPending w.shard.srv 0x08 (fun q => q.actx == a) = s1.failShard w.kind w.shard 0x08 (shardVa w.shard) := by
    simp [State.failPending, hpend, hactx, s1]
  have hwho : ((s.getSrv w.shard.srv).pending.filter fun y => y.1.shard.actx == a).map (fun y => y.1.shard.issuer) = [w.shard.issuer] := by
    simp [hpend, hactx]
  refine ⟨_, exec_failPendingShards s w.shard.srv a, ?_⟩
  simp only [hfail, hwho, State.letGoAll, List.foldl_cons, List.foldl_nil]
  rw [State.releaseHeld_of_no_held hheld', State.echoes_of_no_fences hfences']
  refine ⟨?_, hreply, hdram⟩
  simpa [s1, hpend] using hnone

end

/-! ### Key slots (R144, R403) -/

section
variable {s : State} {k p : Nat}

/-- A slot that holds a key of the partition or none may be assigned to it. -/
theorem State.assign_key (hfns : s.fns = []) (hp : p < 64) (hk : k < 16384)
    (hfree : Sparse.get none s.keys k = none ∨ Sparse.get none s.keys k = some p) :
    s.assign p (.key k) = { s with slotPart := Sparse.set none s.slotPart k (some p) } := by
  have hkeys : ((Sparse.get none s.keys k).isNone || Sparse.get none s.keys k == some p) = true := by
    rcases hfree with h | h <;> simp [h]
  rw [State.assign, if_neg (by omega)]
  exact if_pos (by simp [State.frozen_of_no_fns hfns, hk, hkeys])

/-- A slot of the partition or of none takes a key. -/
theorem State.loadSlot_free (hfns : s.fns = []) (hp : p < 64) (hk : k < 16384) (hempty : Sparse.get none s.keys k = none)
    (hpart : Sparse.get none s.slotPart k = none ∨ Sparse.get none s.slotPart k = some p) : s.loadSlot k p =
    { s with keys := Sparse.set none s.keys k (some p), keyGen := Sparse.set 0 s.keyGen k (Sparse.get 0 s.keyGen k + 1) } := by
  have hslot : ((Sparse.get none s.slotPart k).isNone || Sparse.get none s.slotPart k == some p) = true := by
    rcases hpart with h | h <;> simp [h]
  exact if_pos (by simp [State.frozen_of_no_fns hfns, hk, hp, hempty, hslot])

/-- Without servers at work an erased slot is empty and nothing else changes. -/
theorem keySlotErase_gives (hfns : s.fns = []) (hsrv : s.srv = []) : Gives (.keySlotErase k) s fun t => Sparse.get none t.keys k = none ∧
    (∀ j, j ≠ k → Sparse.get none t.keys j = Sparse.get none s.keys j) ∧ t = { s with keys := t.keys } := by
  have herase : s.eraseSlots (fun i => i == k) = { s with keys := s.keys.filter fun x => !(x.1 == k) } :=
    State.failPendingAll_of_no_srv (s := { s with keys := s.keys.filter fun x => !(x.1 == k) }) hsrv _ _
  refine ⟨_, exec_keySlotErase s k, ?_⟩
  rw [State.frozen_of_no_fns hfns, if_neg Bool.false_ne_true, herase]
  refine ⟨?_, fun j hj => ?_, rfl⟩
  · rw [Sparse.get_filter (fun i => !(i == k)), if_neg (by simp)]
  · rw [Sparse.get_filter (fun i => !(i == k)), if_pos (by simpa using hj)]

end

/-! ### O51 -/

section
variable {s : State} {p : Nat}

theorem tilePartitionMove_gives (hfns : s.fns = []) (hp : p < 64) (hep : s.tile.ep < 0x400) (hgang : s.tile.gang = 0)
    (hshadow : s.tile.shadow = none) (hpart : s.partOf s.tile.ep ≠ some p) : Gives (.tilePartitionMove s.tile.ep p) s fun t =>
      t.partOf s.tile.ep = some p ∧ t.tile.mem = [] ∧ t.tile.anvil = [] ∧ t.tile.latch = none ∧ t.tile.shadow = none ∧
      t.tile.imem = s.tile.imem ∧ ∀ j < 8, t.cr (0x0D0 + j) = 0 ∧
        (t.cr (0x0D8 + j)).toNat = (s.cr (0x0D8 + j)).toNat % 2 ^ 32 + p * 2 ^ 32 := by
  obtain ⟨-, hmem, hanvil, hlatch, hshadow', himem, hcr⟩ := s.tile.moved_spec p
  refine ⟨_, (exec_tilePartitionMove s _ p).trans (congrArg _ (State.moveTile_focus hfns hp hep hgang hshadow hpart)),
    Sparse.get_set_self _ _ _, hmem, hanvil, hlatch, hshadow', himem, fun j hj => ?_⟩
  obtain ⟨hagen, hab⟩ := hcr j hj
  exact ⟨hagen, (congrArg BitVec.toNat hab).trans (toNat_abOwned _ hp)⟩

theorem placerParameterSet_gives {q : Param} {v : Nat} (hp : p < 64) (hok : paramOk q v = true) (hretry : q ≠ .retryMax) (hidle : q ≠ .retIdle) :
    Gives (.placerParameterSet p q v) s fun t => t.param (some p) (paramIndex q) = v ∧
      (∀ i, i ≠ paramIndex q → t.param (some p) i = s.param (some p) i) ∧
      t = { s with parts := t.parts, sched := s.sched ++ [(s.cycle + 1, .placement p)] } := by
  refine ⟨_, (exec_placerParameterSet s p q v).trans (congrArg _ (State.setParam_plain hp hok hretry hidle)), ?_, fun i hi => ?_, rfl⟩
  · exact (State.param_modPart s p _ _ _).trans (if_pos rfl)
  · exact (State.param_modPart s p _ _ _).trans (if_neg hi)

end

/-- Settles O51: what each request of system software changes, and that it changes nothing else. -/
theorem partitionsAndTables : Obligations.PartitionsAndTables := by
  unfold Obligations.PartitionsAndTables
  intro part a g eager slotw k pn addr ep from_ pg why d w frames rank e s hpart hfns x v desc srv
  have hnot : ¬64 ≤ part := Nat.not_le.mpr hpart
  refine ⟨fun ha => ?ctx, fun ha => ?stage, tilePartitionMove_gives hfns hpart, fun hep htile hocc => ?occupied, fun hlo hhi => ?ageStep,
    fun hlo hhi => ?shardTo, fun hg hlo hhi hstep hslot hroom => ?group, fun hk ha hd hlo hhi => ?descriptor, fun hk haddr hnone => ?page,
    fun hk hnone => ?pool, ?fail, fun hk hfree => ?assignKey, fun hk hempty hslot => ?loadKey, keySlotErase_gives hfns, ?faultrank,
    fun hk => ?pkgmap⟩
  case ctx =>
    have hassign : s.assign part (.ctx a) = { s with ctxPart := Sparse.set none s.ctxPart a (some part) } := by simp [State.assign, hnot, ha]
    exact ⟨_, (exec_partitionAssign s part _).trans (congrArg _ hassign), rfl, fun i => Sparse.get_set _ _ _ _⟩
  case stage =>
    have hassign : s.assign part (.stage a) = { s with stgPart := Sparse.set none s.stgPart a (some part) } := by simp [State.assign, hnot, ha]
    exact ⟨_, (exec_partitionAssign s part _).trans (congrArg _ hassign), rfl, fun i => Sparse.get_set _ _ _ _⟩
  case occupied =>
    subst hep
    exact (exec_tilePartitionMove s _ part).trans (congrArg _ (State.moveTile_occupied hocc))
  case ageStep => exact placerParameterSet_gives hpart (by simp [paramOk, hlo, hhi]) (by decide) (by decide)
  case shardTo =>
    obtain ⟨t, hexec, hset, -⟩ := placerParameterSet_gives (s := s) (q := .shardTo) (v := a) hpart (by simp [paramOk, hlo, hhi]) (by decide) (by decide)
    exact ⟨t, hexec, hset⟩
  case group =>
    refine ⟨_, (exec_groupDescriptorWrite s part g eager slotw).trans
      (congrArg _ (State.groupDescriptor_taken hfns hpart hg hlo hhi hstep hslot hroom)), ?_, rfl⟩
    rw [State.getPart_modPart]
    exact Sparse.get_set_of_ne _ _ fun h => by simp at h; omega
  case descriptor =>
    have hwrite : s.contextDescriptor k a d = s.modSrv k fun v => { v with ctx := Sparse.set noCtx v.ctx a d } :=
      if_pos (by simp [hk, ha, hd, hlo, hhi])
    exact ⟨_, (exec_contextDescriptorWrite s k a d).trans (congrArg _ hwrite), State.getSrv_modSrv _ _ _,
      fun j hj => State.getSrv_modSrv_ne _ _ hj, rfl⟩
  case page =>
    have hwrite : s.pageEntry k a pn addr e = ({ s with tables := Sparse.set 0 s.tables (k / 16 * 2 ^ 36 + addr) e }).modSrv k fun v =>
        { v with tlb := v.tlb.filter fun y => !(y.1 == a && y.2.1 == pn) } := by
      rw [State.pageEntry, if_neg (by simp; omega)]
      exact State.retranslate_of_no_pending ((congrArg Server.pending (State.getSrv_modSrv _ _ _)).trans hnone) _
    exact ⟨_, (exec_pageEntryChange s k a pn addr e).trans (congrArg _ hwrite),
      ⟨State.getSrv_modSrv _ _ _, fun j hj => State.getSrv_modSrv_ne _ _ hj, rfl⟩, fun i => Sparse.get_set _ _ _ _⟩
  case pool =>
    have hrefill : s.refill k a frames = s.modSrv k fun v => { v with ctx := Sparse.set noCtx v.ctx a { desc with pool := desc.pool ++ frames } } := by
      rw [State.refill, if_neg (by omega)]
      exact State.retranslate_of_no_pending ((congrArg Server.pending (State.getSrv_modSrv _ _ _)).trans hnone) _
    exact ⟨_, (exec_poolRefill s k a frames).trans (congrArg _ hrefill), State.getSrv_modSrv _ _ _,
      fun j hj => State.getSrv_modSrv_ne _ _ hj, rfl⟩
  case fail => exact failPendingShards_gives
  case assignKey =>
    exact ⟨_, (exec_partitionAssign s part _).trans (congrArg _ (State.assign_key hfns hpart hk hfree)), rfl, fun i => Sparse.get_set _ _ _ _⟩
  case loadKey =>
    refine ⟨_, (exec_keySlotLoad s k part).trans (congrArg _ (State.loadSlot_free hfns hpart hk hempty hslot)), Sparse.get_set_self _ _ _,
      fun j hj => Sparse.get_set_ne _ _ hj, ?_, fun j hj => ?_, rfl⟩
    · simp [State.keyOf, Nat.add_assoc]
    · simp [State.keyOf, Sparse.get_set_ne _ _ hj]
  case faultrank =>
    exact ⟨_, exec_faultrankSet s hpart rank g, State.getPart_modPart _ _ _, rfl⟩
  case pkgmap =>
    exact ⟨_, exec_pkgmapWrite s hk e, rfl, fun i => Sparse.get_set _ _ _ _⟩

end Sys2Proof.Machine
end

section
/-!
How gangs leave their tiles (R42, R48 to R54, R324): stopping, rest, ends, pre-emption and resumption of a gang of one tile, and the proof of
O46.
-/
namespace Sys2Proof.Machine

open Sys2Proof.Safety

/-! ### The meanings -/

section
variable {s : State} {n : Nat} {l : Launch}

theorem exec_withdraw (n : Nat) (s : State) : exec (.withdraw n) s = .next (s.quit n 6 0) := rfl
theorem exec_tileEnd (ep : Nat) (s : State) : exec (.tileEnd ep) s = .next (s.tileEnded ep) := rfl
theorem exec_placement (p : Nat) (s : State) : exec (.placement p) s = .next (s.placement p) := rfl

variable (h : s.launchNo n = some l)
include h

theorem exec_leaseExpiry : exec (.leaseExpiry n) s = .next (if s.leaseOver l then s.quit n 6 0 else s.quitEnd n) := by
  show execLeaseExpiry n s = _
  simp only [execLeaseExpiry, h]

theorem exec_gangFaulted {p : Nat × Nat} (hp : l.parkedBy = some p) : exec (.gangFaulted n) s =
    .next (if l.quits then s.quitEnd n else s.quit n 7 (if l.halt then 0 else p.2)) := by
  show execGangFaulted n s = _
  simp only [execGangFaulted, h, hp]

theorem exec_faultDeliveryTimeout {p : Nat × Nat} (hp : l.parkedBy = some p) : exec (.faultDeliveryTimeout n) s =
    .next (if s.recordLate l then s.quit n 7 (if l.halt then 0 else p.2) else s) := by
  show execFaultDeliveryTimeout n s = _
  simp only [execFaultDeliveryTimeout, h, hp]

end

/-! ### A gang of one tile -/

section
variable {s : State} {l : Launch}

theorem Launch.allTiles_of_not_twin (h : l.lrec.flags.getLsbD 2 = false) : l.allTiles = l.tiles :=
  if_neg (by rw [LaunchRec.isTwin, h]; decide)

theorem OneTile.launchNo (h : OneTileLaunch s l) : s.launchNo l.n = some l := by
  obtain ⟨hl, -⟩ := h
  simp [State.launchNo, hl]

theorem OneTile.allTiles (h : OneTileLaunch s l) : l.allTiles = [s.tile.ep] := by
  obtain ⟨-, -, htiles, htwin, -⟩ := h
  rw [Launch.allTiles_of_not_twin htwin, htiles]

/-- What a gang's tile undergoes, and how far the gang has come, leave the package to it. -/
theorem OneTile.update (h : OneTileLaunch s l) {t : Tile} (ht : t.ep = s.tile.ep) {x : Launch} (hn : x.n = l.n) (htiles : x.tiles = l.tiles)
    (hrec : x.lrec = l.lrec) (hto : x.launcher = l.launcher) : OneTileLaunch { s with tile := t, launches := [x] } x := by
  obtain ⟨hl, h0, hone, htwin, hep, hhalo, hparts, hlog, hquiet, hreach⟩ := h
  refine ⟨rfl, hn ▸ h0, ?_, hrec ▸ htwin, ?_, hhalo, hparts, hlog, ?_, ?_⟩
  · rw [htiles, hone, ht]
  · rwa [ht]
  · exact hquiet
  · rw [hto]; exact hreach

end

/-! ### Stopping and rest (R49) -/

section
variable {s : State}

/-- A tile that stops at its boundary. -/
def Tile.stopped (t : Tile) : Tile := { t with run := if t.run = .running then .stopping else t.run, waitw := false }

theorem State.focus_self (s : State) : s.focus s.tile.ep = s := if_pos rfl

theorem State.stopTile_focus (h : s.tile.spec = none) : s.stopTile s.tile.ep = s.onTile Tile.stopped := by
  simp only [State.stopTile, State.focus_self, h]
  exact State.focus_self (s.onTile Tile.stopped)

theorem foldl_max_le (l : List Landing) (a b : Nat) : l.foldl (fun c x => max c x.ready) a ≤ b ↔ a ≤ b ∧ ∀ x ∈ l, x.ready ≤ b := by
  induction l generalizing a with
  | nil => simp
  | cons x l ih => rw [List.foldl_cons, ih, max_le_iff, List.forall_mem_cons, and_assoc]

theorem Tile.drained_le (t : Tile) (cycle : Nat) : t.drained cycle ≤ cycle ↔
    (∀ x ∈ t.thr.land, x.ready ≤ cycle) ∧ t.eng.matrix ≤ cycle ∧ t.eng.store ≤ cycle := by
  rw [Tile.drained, foldl_max_le]
  simp only [max_le_iff, le_refl, true_and]
  exact and_comm

/-- A tile that has stopped without a speculative path is quiet when it is at rest (R49, steps 2 and 3). -/
theorem State.quiet_iff_atRest (hrun : s.tile.run ≠ .running) (hspec : s.tile.spec = none) : s.quiet s.tile.ep = true ↔ AtRest s := by
  simp only [State.quiet, State.getTile_focus, Bool.and_eq_true, bne_iff_ne, ne_eq, hrun, not_false_eq_true, true_and, decide_eq_true_eq,
    Tile.drained_le, Bool.not_eq_true', List.any_eq_false, beq_iff_eq, not_and, not_lt, AtRest, hspec, and_assoc]

end

/-! ### Ends (R53) -/

section
variable {s : State} {l : Launch}

/-- Where no item is logged, none returns to its queue (R59). -/
theorem State.returnItems_of_no_logged (h : s.disp.logged = []) (eps : List Nat) (gang : Nat) : s.returnItems eps gang = s := by
  simp only [State.returnItems, h, List.filter_nil, sortBy, List.reverse_nil, List.foldl_nil]
  rw [← h]

/-- A tile that its gang has left, in a partition that is not halted. -/
def Tile.freed (t : Tile) (n : Nat) : Tile :=
  let u := { t with run := .idle, gang := 0, ni := t.ni.emptied, waitw := false, item := [], twin := none, spec := none
                    thr := { t.thr with land := [], endStep := 0 } }
  if (t.shadow.map fun c => c.gang) = some n then { u with shadow := none } else u

theorem Tile.freed_spec (t : Tile) (n : Nat) : (t.freed n).ep = t.ep ∧ (t.freed n).run = .idle ∧ (t.freed n).gang = 0 ∧ (t.freed n).ni.ents = [] := by
  unfold Tile.freed
  dsimp only
  split <;> exact ⟨rfl, rfl, rfl, rfl⟩

theorem State.freeTile_focus {n : Nat} (hparts : s.parts = []) (hlog : s.disp.logged = []) (hgang : s.tile.gang = n)
    (hrun : s.tile.run ≠ .removed) : s.freeTile n s.tile.ep = (s.dropContrails s.tile.ep).onTile (Tile.freed · n) := by
  unfold State.freeTile
  extract_lets t halted s0 s1
  have ht : t = s.tile := s.getTile_focus
  have hhalted : halted = false := by
    unfold halted
    split
    · rw [hparts]; rfl
    · rfl
  have hs0 : s0 = s := State.returnItems_of_no_logged hlog _ _
  have hs1 : s1 = (s.dropContrails s.tile.ep).onTile fun t =>
      { t with run := .idle, gang := 0, ni := t.ni.emptied, waitw := false, item := [], twin := none, spec := none
               thr := { t.thr with land := [], endStep := 0 } } := by
    unfold s1
    rw [if_pos (ht ▸ hgang), hs0]
    refine (State.modTile_focus (s.dropContrails s.tile.ep) _ rfl).trans ?_
    simp only [State.onTile, State.dropContrails, hrun, hhalted, Bool.false_eq_true, if_false]
  rw [ht, hs1]
  split
  · next hsh =>
    refine (State.modTile_focus ((s.dropContrails s.tile.ep).onTile _) _ rfl).trans ?_
    simp only [State.onTile, State.dropContrails, Tile.freed, hsh, if_true]
  · next hsh => simp only [State.onTile, State.dropContrails, Tile.freed, hsh, if_false]

theorem State.modLaunch_one (h : s.launches = [l]) (f : Launch → Launch) : s.modLaunch l.n f = { s with launches := [f l] } := by
  simp [State.modLaunch, h]

/-- A state in which a gang of one tile has left its tile. -/
def State.left (s : State) (l : Launch) (ev : Nat) : State :=
  { (s.dropContrails s.tile.ep).onTile (Tile.freed · l.n) with launches := [{ l with st := .ended ev, tiles := [] }] }

theorem LState.not_over_of_onTiles {st : LState} (h : st.onTiles = true) : (st.isEnded || st.unchecked) = false := by
  cases st <;> simp_all [LState.onTiles, LState.isEnded, LState.unchecked]

/-- The end of a gang of one tile: the tile is free, the event sent, and placement tried in the next cycle. -/
theorem State.endOne_oneTile (h : OneTileLaunch s l) (hgang : s.tile.gang = l.n) (hrun : s.tile.run ≠ .removed) (hst : l.st.onTiles = true)
    (ev reason tl : Nat) : s.endOne l.n ev reason tl = ((s.left l ev).report l l.n ev reason tl).kick l.lrec.part := by
  have hno := OneTile.launchNo h
  have hall := OneTile.allTiles h
  obtain ⟨hl, -, -, -, -, -, hparts, hlog, -⟩ := h
  have hends := LState.not_over_of_onTiles hst
  let s1 := (s.dropContrails s.tile.ep).onTile (Tile.freed · l.n)
  have hreserve : (Sparse.get Part.zero s1.parts l.lrec.part).reserve = none := by
    rw [show s1.parts = [] from hparts]
    rfl
  have hleft : s1.modLaunch l.n (fun l => { l with st := .ended ev, tiles := [] }) = s.left l ev := State.modLaunch_one (s := s1) hl _
  simp only [State.endOne, hno, hends, Bool.false_eq_true, if_false, hall, State.returnItems_of_no_logged hlog, List.foldl_cons, List.foldl_nil,
    State.freeTile_focus hparts hlog hgang hrun]
  rw [show (s.dropContrails s.tile.ep).onTile (Tile.freed · l.n) = s1 from rfl, hreserve]
  simp only [hleft]

theorem State.sweepHalo_of_no_halo (h : s.halo = []) : s.sweepHalo = s := by simp [State.sweepHalo, h]

/-- With no launch that waits for a predecessor nothing is to settle (R44). -/
theorem State.settleWaiting_of_none (h : ∀ x ∈ s.launches, x.st ≠ .waiting) (fuel : Nat) : s.settleWaiting fuel = s := by
  cases fuel with
  | zero => rfl
  | succ fuel =>
    have hnone (f : Launch → Bool) : s.launches.find? (fun l => l.st == .waiting && f l) = none :=
      List.find?_eq_none.mpr fun x hx => by simp [h x hx]
    simp only [State.settleWaiting, hnone]

/-- What the manual asks of the end of a gang of one tile (R42, R53). -/
def State.Ended (s : State) (l : Launch) (ev reason tl : Nat) (t : State) : Prop :=
  (∃ x, t.launches = [x] ∧ x.n = l.n ∧ x.st = .ended ev ∧ x.tiles = []) ∧ Event s t l l.n ev reason tl ∧ t.tile.run = .idle ∧
    t.tile.gang = 0 ∧ t.tile.ni.ents = [] ∧ (s.cycle + 1, .placement l.lrec.part) ∈ t.sched

theorem State.endLaunch_oneTile (h : OneTileLaunch s l) (hgang : s.tile.gang = l.n) (hrun : s.tile.run ≠ .removed) (hst : l.st.onTiles = true)
    (ev reason tl : Nat) : s.Ended l ev reason tl (s.endLaunch l.n ev reason tl) := by
  obtain ⟨-, -, -, -, -, hhalo, -, -, hquiet, hreach⟩ := id h
  obtain ⟨nis, torus, hreport, hevent⟩ := State.report_event (s := s.left l ev) l.n ev reason tl hquiet hreach
  have hend : s.endLaunch l.n ev reason tl = { (s.left l ev).kick l.lrec.part with nis, torus } := by
    simp only [State.endLaunch, State.endOne_oneTile h hgang hrun hst, hreport]
    rw [State.sweepHalo_of_no_halo (by exact hhalo)]
    exact State.settleWaiting_of_none (by simp [State.kick, State.left]) _
  obtain ⟨-, hidle, hfree, hents⟩ := s.tile.freed_spec l.n
  rw [hend]
  exact ⟨⟨_, rfl, rfl, rfl, rfl⟩, hevent, hidle, hfree, hents, by simp [State.kick, State.left, State.dropContrails]⟩

end

/-! ### Stopping for an end (R53, R54, R324) -/

section
variable {s : State} {l : Launch} {ev reason : Nat}

/-- The gang of one tile while its member stops. -/
def State.stoppedAs (s : State) (l : Launch) (st : LState) : State := { s with tile := s.tile.stopped, launches := [{ l with st }] }

theorem OneTile.stoppedAs (h : OneTileLaunch s l) (st : LState) : OneTileLaunch (s.stoppedAs l st) { l with st } :=
  OneTile.update h rfl rfl rfl rfl rfl

theorem Tile.stopped_run_ne_running (t : Tile) : t.stopped.run ≠ .running := by
  unfold Tile.stopped
  dsimp only
  split
  · decide
  · assumption

theorem Tile.stopped_run_ne_removed {t : Tile} (h : t.run ≠ .removed) : t.stopped.run ≠ .removed := by
  unfold Tile.stopped
  dsimp only
  split
  · decide
  · exact h

/-- The tile that an end names: that of the first parked member, unless the partition is halted (R42, R439). -/
def Launch.endTile (l : Launch) (ev : Nat) : Nat := if ev = 7 && !l.halt then l.parkedBy.elim 0 fun p => p.1 else 0

theorem State.quitEnd_oneTile (h : OneTileLaunch s l) (hst : l.st = .quitting ev reason) (hgang : s.tile.gang = l.n) :
    s.quitEnd l.n = if s.quiet s.tile.ep then s.endLaunch l.n ev reason (l.endTile ev) else s := by
  have hquiet : s.allQuiet l = s.quiet s.tile.ep := by simp [State.allQuiet, OneTile.allTiles h, State.getTile_focus, hgang]
  simp only [State.quitEnd, OneTile.launchNo h, hst, hquiet, Launch.endTile]

theorem State.quitEnd_atRest (h : OneTileLaunch s l) (hst : l.st = .quitting ev reason) (hgang : s.tile.gang = l.n) (hrun : s.tile.run ≠ .running)
    (hin : s.tile.run ≠ .removed) (hrest : AtRest s) : s.Ended l ev reason (l.endTile ev) (s.quitEnd l.n) := by
  rw [State.quitEnd_oneTile h hst hgang, if_pos ((State.quiet_iff_atRest hrun hrest.1).mpr hrest)]
  exact State.endLaunch_oneTile h hgang hin (by rw [hst]; rfl) _ _ _

/-- A placed gang that is to end stops first. -/
theorem State.quit_placed (h : OneTileLaunch s l) (hst : l.st = .placed) (hgang : s.tile.gang = l.n) (hspec : s.tile.spec = none) :
    s.quit l.n ev reason = (s.stoppedAs l (.quitting ev reason)).quitEnd l.n := by
  have hstop : (s.onTile Tile.stopped).modLaunch l.n (fun x => { x with st := .quitting ev reason }) = s.stoppedAs l (.quitting ev reason) :=
    State.modLaunch_one (s := s.onTile Tile.stopped) h.1 _
  simp only [State.quit, OneTile.launchNo h, hst, OneTile.allTiles h, List.foldl_cons, List.foldl_nil, State.getTile_focus, hgang, if_true,
    State.stopTile_focus hspec, hstop]

/-- A placed gang whose member has nothing in flight ends at once. -/
theorem State.quit_atRest (h : OneTileLaunch s l) (hst : l.st = .placed) (hgang : s.tile.gang = l.n) (hin : s.tile.run ≠ .removed)
    (hrest : AtRest s) (ev reason : Nat) : s.Ended l ev reason (l.endTile ev) (s.quit l.n ev reason) := by
  rw [State.quit_placed h hst hgang hrest.1]
  exact State.quitEnd_atRest (s := s.stoppedAs l (.quitting ev reason)) (l := { l with st := .quitting ev reason }) (OneTile.stoppedAs h _)
    rfl hgang s.tile.stopped_run_ne_running (Tile.stopped_run_ne_removed hin) hrest

/-- A placed gang whose member has something in flight waits for it. -/
theorem State.quit_inFlight (h : OneTileLaunch s l) (hst : l.st = .placed) (hgang : s.tile.gang = l.n) (hspec : s.tile.spec = none)
    (hrest : ¬AtRest s) (ev reason : Nat) : s.quit l.n ev reason = s.stoppedAs l (.quitting ev reason) := by
  have hquiet : ¬(s.stoppedAs l (.quitting ev reason)).quiet s.tile.stopped.ep = true := fun hq =>
    hrest ((State.quiet_iff_atRest (s := s.stoppedAs l (.quitting ev reason)) s.tile.stopped_run_ne_running hspec).mp hq)
  rw [State.quit_placed h hst hgang hspec]
  exact (State.quitEnd_oneTile (s := s.stoppedAs l (.quitting ev reason)) (OneTile.stoppedAs h _) rfl hgang).trans (if_neg hquiet)

theorem State.leaseOver_of_expired (hst : l.st = .placed) (hlease : l.lrec.lease ≠ 0)
    (hover : l.placedAt + 1000 * l.lrec.lease + l.suspended ≤ s.time) : s.leaseOver l = true := by simp [State.leaseOver, hst, hlease, hover]

end

/-! ### The last END (R53) -/

section
variable {s : State} {l : Launch}

theorem State.tileEnded_oneTile (h : OneTileLaunch s l) (hst : l.st = .placed) (hgang : s.tile.gang = l.n) (hrun : s.tile.run = .running)
    (hend : s.tile.thr.endStep = 3) : s.Ended l 3 0 0 (s.tileEnded s.tile.ep) := by
  let t : Tile := { s.tile with run := .ended, thr := { s.tile.thr with endStep := 0 } }
  have hmod : s.modTile s.tile.ep (fun t => if t.run = .running && t.thr.endStep = 3 then
      { t with run := .ended, thr := { t.thr with endStep := 0 } } else t) = { s with tile := t } := by
    have hboth : (decide (s.tile.run = .running) && decide (s.tile.thr.endStep = 3)) = true := by simp [hrun, hend]
    rw [State.modTile_focus _ _ (by rw [if_pos hboth]), State.onTile, if_pos hboth]
  have h' : OneTileLaunch { s with tile := t } l := by
    have := OneTile.update h (t := t) rfl (x := l) rfl rfl rfl rfl
    rwa [← h.1] at this
  have hlaunch : ({ s with tile := t } : State).launchOf l.n = some l := by
    obtain ⟨hl, h0, -⟩ := h
    simp [State.launchOf, hl, h0]
  have hfocus : ({ s with tile := t } : State).getTile s.tile.ep = t := State.getTile_focus _
  have hlast : (l.st.onTiles && l.allTiles.all fun e =>
      (({ s with tile := t } : State).getTile e).run == .ended && (({ s with tile := t } : State).getTile e).gang == l.n) = true := by
    simp [hst, LState.onTiles, OneTile.allTiles h, t, hgang]
  have hlaunch' : ({ s with tile := t } : State).launchOf t.gang = some l := hgang.symm ▸ hlaunch
  simp only [State.tileEnded, hmod, hfocus, hlaunch', hlast, if_true]
  exact State.endLaunch_oneTile h' hgang (show t.run ≠ .removed from nofun) (by rw [hst]; rfl) 3 0 0

end

/-! ### Pre-emption (R48 to R52) -/

section
variable {s : State} {l : Launch}

/-- A launch is found again by its number after a change that keeps the number. -/
theorem State.launchNo_modLaunch {n : Nat} (h : s.launchNo n = some l) {f : Launch → Launch} (hf : ∀ x, (f x).n = x.n) :
    (s.modLaunch n f).launchNo n = some (f l) := by
  have hn : l.n = n := by simpa using List.find?_some h
  have hkeeps : ((fun x : Launch => x.n == n) ∘ fun x => if x.n = n then f x else x) = fun x => x.n == n := by
    funext x
    by_cases hx : x.n = n <;> simp [hx, hf]
  rw [State.launchNo] at h
  rw [State.launchNo, State.modLaunch, List.find?_map, hkeeps, h]
  simp [hn]

/-- The pre-emption of one gang of one tile: the tile stops, and its exchange takes 20 µs (R49; log 26). -/
theorem exec_preemption {g : Launch} (hl : s.launchNo l.n = some l) (hst : l.st = .eligible) (hno : s.placeFor l = none)
    (hv : s.victims l = some [g.n]) (hg : s.launchNo g.n = some g) (htiles : g.tiles = [s.tile.ep]) (htwin : g.lrec.flags.getLsbD 2 = false)
    (hspec : s.tile.spec = none) : exec (.preemption l.n) s =
      .next { (s.onTile Tile.stopped).modLaunch g.n (fun x => { x with st := .stopping, by_ := l.n }) with
        sched := s.sched ++ [(s.cycle + (20000 * s.mgmt.clock + 9) / 10, .preempted g.n)] } := by
  show execPreemption l.n s = _
  simp only [execPreemption, hl, hst, hno, hv, hg, Launch.allTiles_of_not_twin htwin, htiles, List.foldl_cons, List.foldl_nil,
    State.stopTile_focus hspec]
  rfl

theorem execPreempted_oneTile (h : OneTileLaunch s l) (hst : l.st = .stopping) (hrun : s.tile.run = .stopping) : execPreempted l.n s = .next
    (if s.quiet s.tile.ep then
      (((s.onTile Tile.suspend).modLaunch l.n fun l => { l with st := .suspended, suspAt := s.time }).report l l.n 9 0 0).kick l.lrec.part
    else { s with sched := s.sched ++ [(s.cycle + 1, .preempted l.n)] }) := by
  have hep : (Tile.suspend s.tile).ep = s.tile.ep := by unfold Tile.suspend; split <;> rfl
  simp only [execPreempted, OneTile.launchNo h, hst, OneTile.allTiles h, List.all_cons, List.all_nil, List.any_cons, List.any_nil, List.foldl_cons,
    List.foldl_nil, State.getTile_focus, hrun, State.modTile_focus _ _ hep]
  cases s.quiet s.tile.ep <;> rfl

/-- What the manual asks of a tile and its shadow store when a context leaves (R49). -/
def Tile.Saved (t u : Tile) : Prop :=
  u.run = .idle ∧ u.gang = 0 ∧ u.mem = [] ∧ u.imem = [] ∧ u.anvil = t.anvil ∧ ∃ x, u.shadow = some x ∧ x.thr = t.thr ∧ x.mem = t.mem ∧
    x.imem = t.imem ∧ x.ni = t.ni.dumped ∧ x.latch = t.latch ∧ x.gang = t.gang ∧ x.run = .running

theorem Tile.suspend_saved {t : Tile} (h : t.run ≠ .ended) : t.Saved t.suspend := by
  rw [Tile.suspend, if_neg h]
  exact ⟨rfl, rfl, rfl, rfl, rfl, _, rfl, rfl, rfl, rfl, rfl, rfl, rfl, rfl⟩

/-- A state in which a gang of one tile has been suspended. -/
def State.suspendedAs (s : State) (l : Launch) : State :=
  { s.onTile Tile.suspend with launches := [{ l with st := .suspended, suspAt := s.time }] }

/-- A gang of one tile that has stopped and come to rest is suspended (R49). -/
theorem execPreempted_atRest (h : OneTileLaunch s l) (hst : l.st = .stopping) (hrun : s.tile.run = .stopping) (hrest : AtRest s) :
    ∃ nis torus sched, execPreempted l.n s = .next { s.suspendedAs l with nis, torus, sched } ∧
      Event s { s.suspendedAs l with nis, torus, sched } l l.n 9 0 0 := by
  have hne : s.tile.run ≠ .running := by rw [hrun]; decide
  obtain ⟨nis, torus, hreport, hevent⟩ := State.report_event (s := s.suspendedAs l) l.n 9 0 0 (by exact h.2.2.2.2.2.2.2.2.1)
    (by exact h.2.2.2.2.2.2.2.2.2)
  have hmod : (s.onTile Tile.suspend).modLaunch l.n (fun l => { l with st := .suspended, suspAt := s.time }) = s.suspendedAs l :=
    State.modLaunch_one (s := s.onTile Tile.suspend) h.1 _
  rw [execPreempted_oneTile h hst hrun, if_pos ((State.quiet_iff_atRest hne hrest.1).mpr hrest), hmod, hreport]
  exact ⟨nis, torus, _, rfl, hevent⟩

end

/-! ### Resumption (R51) -/

section
variable {s : State} {l : Launch}

/-- A suspended gang whose tile is clear and whose place nothing waits for comes back before anything is placed. -/
theorem State.placement_resumes (h : OneTileLaunch s l) (hst : l.st = .suspended) (hby : l.by_ = 0) (hfree : s.tile.gang = 0) :
    s.placement l.lrec.part = { s with
      launches := [{ l with st := .resuming }]
      sched := s.sched ++ [(s.cycle + (20000 * s.mgmt.clock + 9) / 10, .resume l.n)] ++ [(s.cycle + 1, .placement l.lrec.part)] } := by
  have hall := OneTile.allTiles h
  obtain ⟨hl, h0, -⟩ := h
  have hnone : s.launchNo 0 = none := by simp [State.launchNo, hl, h0]
  have hmay : s.mayResume l = true := by simp [State.mayResume, hst, hall, State.getTile_focus, hfree, hby, hnone]
  have hfirst : s.launches.find? (fun x => x.lrec.part == l.lrec.part && s.mayResume x) = some l := by simp [hl, hmay]
  simp only [State.placement, hfirst, State.modLaunch_one hl]
  rfl

theorem State.pump_of_no_ents {key : Nat} (h : (s.getNi key).ents = []) : s.pump key = s := by
  simp [State.pump, h, roundRobin]

/-- What the manual asks of a tile when the context in its shadow store comes back (R51). -/
def Tile.Resumed (t : Tile) (c : Context) (u : Tile) : Prop :=
  u.run = c.run ∧ u.gang = c.gang ∧ u.mem = c.mem ∧ u.imem = c.imem ∧ u.shadow = none ∧ u.thr.pc = c.thr.pc ∧ u.thr.land = c.thr.land ∧
    (∀ n, u.thr.regs.getS n = c.thr.regs.getS n) ∧ (∀ n, u.thr.regs.getV n = c.thr.regs.getV n) ∧ u.anvil = t.anvil

theorem Tile.restore_resumed {t : Tile} {c : Context} (h : t.shadow = some c) (time shardTo : Nat) : t.Resumed c (t.restore time shardTo) := by
  simp only [Tile.restore, h]
  exact ⟨rfl, rfl, rfl, rfl, rfl, rfl, rfl, fun _ => rfl, fun _ => rfl, rfl⟩

theorem Tile.restore_ep (t : Tile) (time shardTo : Nat) : (t.restore time shardTo).ep = t.ep := by
  unfold Tile.restore
  split <;> rfl

theorem Tile.restore_ents {t : Tile} {c : Context} (h : t.shadow = some c) (hents : c.ni.ents = []) (time shardTo : Nat) :
    (t.restore time shardTo).ni.ents = [] := by simp [Tile.restore, h, hents]

/-- A state in which a gang of one tile has come back. -/
def State.resumedAs (s : State) (l : Launch) : State :=
  { s.onTile fun t => t.restore s.time (s.shardTo s.tile.ep) with
    launches := [{ l with st := .placed, suspended := l.suspended + (s.time - l.suspAt), by_ := 0 }] }

/-- A gang of one tile whose context has nothing to send comes back whole (R51). -/
theorem execResume_oneTile {c : Context} (h : OneTileLaunch s l) (hst : l.st = .resuming) (hsh : s.tile.shadow = some c)
    (hents : c.ni.ents = []) (hpoison : c.poison = []) : ∃ nis torus,
    execResume l.n s = .next { s.resumedAs l with nis, torus } ∧ Event s { s.resumedAs l with nis, torus } l l.n 10 0 0 := by
  let s1 := s.onTile fun t => t.restore s.time (s.shardTo s.tile.ep)
  have hgood : s.badCopies l = [] := by simp [State.badCopies, OneTile.allTiles h, State.getTile_focus, hsh, hpoison]
  have hmod : s.modTile s.tile.ep (fun t => t.restore s.time (s.shardTo s.tile.ep)) = s1 :=
    State.modTile_focus _ _ (Tile.restore_ep _ _ _)
  have hpump : s1.pump s.tile.ep = s1 := State.pump_of_no_ents (by
    have hfocus := State.getTile_focus s1
    rw [show s1.tile.ep = s.tile.ep from Tile.restore_ep _ _ _] at hfocus
    rw [State.getNi, isTile, decide_eq_true h.2.2.2.2.1, if_pos rfl, hfocus]
    exact Tile.restore_ents hsh hents _ _)
  have hlaunch : s1.modLaunch l.n (fun l => { l with st := .placed, suspended := l.suspended + (s.time - l.suspAt), by_ := 0 }) = s.resumedAs l :=
    State.modLaunch_one (s := s1) h.1 _
  obtain ⟨nis, torus, hreport, hevent⟩ := State.report_event (s := s.resumedAs l) l.n 10 0 0 (by exact h.2.2.2.2.2.2.2.2.1)
    (by exact h.2.2.2.2.2.2.2.2.2)
  refine ⟨nis, torus, ?_, hevent⟩
  simp only [execResume, OneTile.launchNo h, hst, hgood, OneTile.allTiles h, List.foldl_cons, List.foldl_nil, hmod, hpump, hlaunch, hreport]
  rfl

end

/-! ### O46 -/

section
variable {s : State} {l : Launch}

/-- The tile and the cause of a parked gang's end, or neither in a halted partition (R42, R439). -/
theorem State.quit_faulted (h : OneTileLaunch s l) (hst : l.st = .placed) (hgang : s.tile.gang = l.n) (hin : s.tile.run ≠ .removed)
    (hrest : AtRest s) {tile cause : Nat} (hp : l.parkedBy = some (tile, cause)) :
    let t := s.quit l.n 7 (if l.halt then 0 else cause)
    if l.halt then s.Ended l 7 0 0 t else s.Ended l 7 cause tile t := by
  have hend := State.quit_atRest h hst hgang hin hrest 7 (if l.halt then 0 else cause)
  dsimp only
  cases hhalt : l.halt <;> simpa [Launch.endTile, hp, hhalt] using hend

/-- What the manual asks while a running member is stopping for its gang's end. -/
def State.Stops (s : State) (l : Launch) (st : LState) (t : State) : Prop :=
  (∃ x, t.launches = [x] ∧ x.n = l.n ∧ x.st = st) ∧ t.tile = { s.tile with run := .stopping, waitw := false } ∧ t.torus = s.torus

theorem Tile.stopped_of_running {t : Tile} (h : t.run = .running) : t.stopped = { t with run := .stopping, waitw := false } := by
  rw [Tile.stopped, if_pos h]

theorem State.stoppedAs_stops (hrun : s.tile.run = .running) (st : LState) : s.Stops l st (s.stoppedAs l st) :=
  ⟨⟨_, rfl, rfl, rfl⟩, Tile.stopped_of_running hrun, rfl⟩

/-- How a placed gang ends while its member has nothing in flight. -/
theorem placed_ends_atRest (h : OneTileLaunch s l) (hst : l.st = .placed) (hgang : s.tile.gang = l.n) (hin : s.tile.run ≠ .removed)
    (hrest : AtRest s) : Gives (.withdraw l.n) s (s.Ended l 6 0 0) ∧
      (s.leaseOver l = true → Gives (.leaseExpiry l.n) s (s.Ended l 6 0 0)) ∧
      ∀ tile cause, l.parkedBy = some (tile, cause) →
        let fault (t : State) : Prop := if l.halt then s.Ended l 7 0 0 t else s.Ended l 7 cause tile t
        Gives (.gangFaulted l.n) s fault ∧
        ∀ at_, l.recordAt = some at_ → at_ + 10000000 ≤ s.time → Gives (.faultDeliveryTimeout l.n) s fault := by
  have hno := OneTile.launchNo h
  have hquit : s.Ended l 6 0 0 (s.quit l.n 6 0) := State.quit_atRest h hst hgang hin hrest 6 0
  refine ⟨⟨_, exec_withdraw _ _, hquit⟩, fun hover => ⟨_, exec_leaseExpiry hno, ?_⟩,
    fun tile cause hp => ⟨⟨_, exec_gangFaulted hno hp, ?_⟩, ?_⟩⟩
  · rwa [if_pos hover]
  · rw [if_neg (by simp [Launch.quits, hst])]
    exact State.quit_faulted h hst hgang hin hrest hp
  · intro at_ hat hlate
    refine ⟨_, exec_faultDeliveryTimeout hno hp, ?_⟩
    rw [if_pos (by simp [State.recordLate, hst, hat, hlate])]
    exact State.quit_faulted h hst hgang hin hrest hp

/-- How a placed gang stops while its member has something in flight. -/
theorem placed_stops_inFlight (h : OneTileLaunch s l) (hst : l.st = .placed) (hgang : s.tile.gang = l.n) (hspec : s.tile.spec = none)
    (hrun : s.tile.run = .running) (hrest : ¬AtRest s) : Gives (.withdraw l.n) s (s.Stops l (.quitting 6 0)) ∧
      (s.leaseOver l = true → Gives (.leaseExpiry l.n) s (s.Stops l (.quitting 6 0))) := by
  have hstops : s.Stops l (.quitting 6 0) (s.quit l.n 6 0) := by
    rw [State.quit_inFlight h hst hgang hspec hrest]
    exact State.stoppedAs_stops hrun _
  refine ⟨⟨_, exec_withdraw _ _, hstops⟩, fun hover => ⟨_, exec_leaseExpiry (OneTile.launchNo h), ?_⟩⟩
  rwa [if_pos hover]

/-- A gang that has been stopping ends when its member is at rest. -/
theorem quitting_ends (h : OneTileLaunch s l) (hst : l.st = .quitting 6 0) (hgang : s.tile.gang = l.n) (hrun : s.tile.run = .stopping)
    (hrest : AtRest s) : Gives (.leaseExpiry l.n) s (s.Ended l 6 0 0) := by
  refine ⟨_, exec_leaseExpiry (OneTile.launchNo h), ?_⟩
  rw [if_neg (by simp [State.leaseOver, hst])]
  exact State.quitEnd_atRest h hst hgang (by rw [hrun]; decide) (by rw [hrun]; decide) hrest

/-- What pre-emption leaves while its victim stops. -/
theorem preemption_stops {g : Launch} (hl : s.launchNo l.n = some l) (hst : l.st = .eligible) (hno : s.placeFor l = none)
    (hv : s.victims l = some [g.n]) (hg : s.launchNo g.n = some g) (htiles : g.tiles = [s.tile.ep]) (htwin : g.lrec.flags.getLsbD 2 = false)
    (hrun : s.tile.run = .running) (hspec : s.tile.spec = none) : Gives (.preemption l.n) s fun t =>
      t.launchNo g.n = some { g with st := .stopping, by_ := l.n } ∧ t.tile = { s.tile with run := .stopping, waitw := false } ∧
        t.sched = s.sched ++ [(s.cycle + (20000 * s.mgmt.clock + 9) / 10, .preempted g.n)] :=
  ⟨_, exec_preemption hl hst hno hv hg htiles htwin hspec,
    State.launchNo_modLaunch (s := s.onTile Tile.stopped) hg (f := fun x => { x with st := .stopping, by_ := l.n }) fun _ => rfl,
    Tile.stopped_of_running hrun, rfl⟩

/-- An exchange waits for what its tile has in flight. -/
theorem preempted_waits (h : OneTileLaunch s l) (hst : l.st = .stopping) (hrun : s.tile.run = .stopping) (hspec : s.tile.spec = none)
    (hrest : ¬AtRest s) : Gives (.preempted l.n) s fun t => t = { s with sched := s.sched ++ [(s.cycle + 1, .preempted l.n)] } := by
  refine ⟨_, (execPreempted_oneTile h hst hrun :), ?_⟩
  rw [if_neg fun hq => hrest ((State.quiet_iff_atRest (by rw [hrun]; decide) hspec).mp hq)]

end

/-- Settles O46: for a gang of one tile each way off its tile is a stop, which waits until the tile is at rest, and then an end or an
exchange with the shadow store; the events leave at once because the placer is quiet. -/
theorem gangsLeaveTheirTiles : Obligations.GangsLeaveTheirTiles := by
  unfold Obligations.GangsLeaveTheirTiles
  intro l g c cause tile at_ s ended now
  refine ⟨fun h hst hgang hin => ⟨fun hrest => ?_, fun hspec hrun hrest => ?_, fun hrun hend => ?_⟩,
    fun h hst hgang hrun hrest => quitting_ends h hst hgang hrun hrest,
    fun hl hst hno hv hg _ htiles htwin hrun hspec => preemption_stops hl hst hno hv hg htiles htwin hrun hspec,
    fun h hst hrun hspec => ⟨fun hrest => preempted_waits h hst hrun hspec hrest, fun hrest => ?_⟩,
    fun h hst hby hfree => ?_, fun h hst hsh _ hents hpoison => ?_⟩
  · obtain ⟨hwithdraw, hlease, hfault⟩ := placed_ends_atRest h hst hgang hin hrest
    exact ⟨hwithdraw, fun hover => hlease (State.leaseOver_of_expired hst hover.1 hover.2),
      fun hp => ⟨(hfault tile cause hp).1, (hfault tile cause hp).2 at_⟩⟩
  · obtain ⟨hwithdraw, hlease⟩ := placed_stops_inFlight h hst hgang hspec hrun hrest
    exact ⟨hwithdraw, fun hover => hlease (State.leaseOver_of_expired hst hover.1 hover.2)⟩
  · exact ⟨_, exec_tileEnd _ _, State.tileEnded_oneTile h hst hgang hrun hend⟩
  · obtain ⟨nis, torus, sched, hexec, hevent⟩ := execPreempted_atRest h hst hrun hrest
    exact ⟨_, hexec, ⟨_, rfl, rfl, rfl⟩, hevent, Tile.suspend_saved (by rw [hrun]; decide)⟩
  · refine ⟨_, exec_placement _ _, ?_⟩
    rw [State.placement_resumes h hst hby hfree]
    exact ⟨⟨_, rfl, rfl, rfl⟩, rfl, by simp⟩
  · obtain ⟨nis, torus, hexec, hevent⟩ := execResume_oneTile h hst hsh hents hpoison
    exact ⟨_, hexec, ⟨_, rfl, rfl, rfl⟩, hevent, Tile.restore_resumed hsh _ _⟩

end Sys2Proof.Machine
end

section
/-!
How a launch comes to run (R39 to R41, R44, R45, R47): the record, its image header, aging, placement, the image and reservations, and the
proof of O45.
-/
namespace Sys2Proof.Machine

open Sys2Proof.Safety

/-! ### A tile's own requests (R119, R126) -/

/-- What of a gang's context a tile keeps while its interface works. -/
structure Tile.Keeps (t u : Tile) : Prop where
  run  : u.run = t.run
  gang : u.gang = t.gang
  mem  : u.mem = t.mem
  pc   : u.thr.pc = t.thr.pc
  regs : u.thr.regs.s = t.thr.regs.s
  id   : u.cr 0x002 = t.cr 0x002

theorem Tile.Keeps.refl (t : Tile) : t.Keeps t := ⟨rfl, rfl, rfl, rfl, rfl, rfl⟩

theorem Tile.Keeps.trans {t u v : Tile} (h : t.Keeps u) (h' : u.Keeps v) : t.Keeps v :=
  ⟨h'.run.trans h.run, h'.gang.trans h.gang, h'.mem.trans h.mem, h'.pc.trans h.pc, h'.regs.trans h.regs, h'.id.trans h.id⟩

theorem Tile.keeps_touch (t : Tile) (srv : Nat) : t.Keeps (t.touch srv) := by
  refine ⟨rfl, rfl, rfl, rfl, rfl, ?_⟩
  rw [Tile.touch, Tile.cr_setCr, if_neg]
  simp only [crTOUCH0]
  omega

/-- Only one tile has changed, and that keeps its gang's context; no launch and no partition has changed. -/
structure State.Serves (s : State) (ep : Nat) (t : State) : Prop where
  launches : t.launches = s.launches
  parts    : t.parts = s.parts
  others   : ∀ k, k ≠ ep → t.getTile k = s.getTile k
  keeps    : (s.getTile ep).Keeps (t.getTile ep)

section
variable {s t u : State} {ep : Nat}

theorem State.Serves.refl (s : State) (ep : Nat) : s.Serves ep s := ⟨rfl, rfl, fun _ _ => rfl, .refl _⟩

theorem State.Serves.trans (h : s.Serves ep t) (h' : t.Serves ep u) : s.Serves ep u :=
  ⟨h'.launches.trans h.launches, h'.parts.trans h.parts, fun k hk => (h'.others k hk).trans (h.others k hk), h.keeps.trans h'.keeps⟩

@[simp] theorem State.modTile_launches (s : State) (ep : Nat) (f : Tile → Tile) : (s.modTile ep f).launches = s.launches := by
  unfold State.modTile State.setTile
  split <;> rfl

@[simp] theorem State.modTile_parts (s : State) (ep : Nat) (f : Tile → Tile) : (s.modTile ep f).parts = s.parts := by
  unfold State.modTile State.setTile
  split <;> rfl

theorem State.serves_modTile {f : Tile → Tile} (hep : (f (s.getTile ep)).ep = ep) (hf : (s.getTile ep).Keeps (f (s.getTile ep))) :
    s.Serves ep (s.modTile ep f) := by
  refine ⟨by simp, by simp, fun k hk => ?_, ?_⟩
  · rw [State.getTile_modTile _ hep, if_neg hk]
  · rw [State.getTile_modTile _ hep, if_pos rfl]
    exact hf

theorem State.serves_inject (ev : Ev) (src dst : Nat) : s.Serves ep (s.inject ev src dst) := ⟨rfl, rfl, fun _ _ => rfl, .refl _⟩

variable (hep : ep < 0x400)
include hep

theorem State.modNi_tile (s : State) (f : Ni → Ni) : s.modNi ep f = s.modTile ep fun t => { t with ni := f t.ni } := by
  simp [State.modNi, isTile, hep]

theorem State.serves_modNi (f : Ni → Ni) : s.Serves ep (s.modNi ep f) := by
  rw [State.modNi_tile hep]
  exact State.serves_modTile (s.getTile_ep ep) ⟨rfl, rfl, rfl, rfl, rfl, rfl⟩

/-- A packet of a GET carries no bytes to compare, and touches nothing but the interface and TOUCH. -/
theorem State.serves_sendPart {e : Ent} (hk : e.kind = .get) : s.Serves ep (s.sendPart ep e) := by
  have hsame (x : ShardSt) : s.comparePart ep e x = s := by simp [State.comparePart, hk, EKind.shardKind, writesKind]
  unfold State.sendPart
  split
  · exact .refl _ _
  · dsimp only
    split
    · exact State.serves_modNi hep _
    · next x _ =>
      simp only [hsame]
      have htouch (b : Bool) (q : Shard) : s.Serves ep (if b then s.modTile ep fun t => t.touch q.srv else s) := by
        cases b
        · exact .refl _ _
        · exact State.serves_modTile (f := fun t => t.touch q.srv) (s.getTile_ep ep) (Tile.keeps_touch _ _)
      split
      · exact ((htouch _ _).trans (State.serves_modNi hep _)).trans (State.serves_inject _ _ _)
      · exact ((htouch _ _).trans (State.serves_modNi hep _)).trans (State.serves_inject _ _ _)

omit hep in
theorem mem_of_roundRobin {last : Nat} {l : List Ent} {e : Ent} (h : roundRobin last l = some e) : e ∈ l := by
  unfold roundRobin at h
  split at h
  · next hfind => exact Option.some.inj h ▸ List.mem_of_find?_eq_some hfind
  · exact List.mem_of_head? h

/-- An interface whose one entry is a GET sends packets of it or nothing. -/
theorem State.serves_pump {e : Ent} (hents : (s.getNi ep).ents = [e]) (hk : e.kind = .get) : s.Serves ep (s.pump ep) := by
  have hstays : (s.getNi ep).leaves e = false := by simp [Ni.leaves, hk, EKind.isSend]
  have hreq : e.kind.isReq = true := by rw [hk]; rfl
  simp only [State.pump, hents, List.foldl_cons, List.foldl_nil, hstays, Bool.false_and, Bool.false_eq_true, if_false]
  split
  · exact .refl _ _
  · split
    · next f hf =>
      obtain rfl : f = e := List.mem_singleton.mp (List.mem_of_mem_filter (mem_of_roundRobin hf))
      rw [State.serveFirst, if_pos hreq]
      exact (State.serves_modNi hep _).trans (State.serves_sendPart hep hk)
    · exact .refl _ _

/-- The shards of a GET that is the interface's one entry leave, or wait. -/
theorem State.serves_issueShards (hents : ∃ e, (s.getNi ep).ents = [e] ∧ e.kind = .get) (id : Nat) (qs : List Shard) :
    s.Serves ep (s.issueShards ep id qs) := by
  obtain ⟨e, hents, hk⟩ := hents
  refine (State.serves_modNi hep _).trans (State.serves_pump hep (e := ?_) ?_ ?_)
  · exact if e.id = id then
      { e with
        shards := qs.map fun q => ⟨q, 1, 0, false, false, none, [], false, false⟩, phase := .shards
        unsent := (qs.filter fun q => !s.mgmt.outMask.contains q.srv).map fun q => q.no } else e
  · simp only [State.getNi_modNi, Ni.modEnt, hents, List.map_cons, List.map_nil]
  · split <;> exact hk

/-- The fetch of an image by a tile without entries leaves what the placer has set there (R40). -/
theorem State.serves_fetchImage (l : Launch) (hents : (s.getTile ep).ni.ents = []) : s.Serves ep (s.fetchImage l ep) := by
  refine (State.serves_modNi hep _).trans (State.serves_issueShards hep ?_ 0 _)
  rw [State.getNi_modNi, State.getNi_tile s hep, hents]
  exact ⟨_, rfl, rfl⟩

/-! ### Placement (R41, R45, R46) -/

omit hep

theorem Tile.Keeps.of_eq {t u : Tile} (h : u = t) : t.Keeps u := h ▸ .refl _

/-- All the tiles of a gang fetch its image; each keeps what the placer has set there. -/
theorem State.foldl_fetchImage (l : Launch) (tiles : List (Nat × Nat × Nat)) (hlt : ∀ x ∈ tiles, x.1 < 0x400)
    (hents : ∀ x ∈ tiles, (s.getTile x.1).ni.ents = []) (hnodup : (tiles.map (·.1)).Nodup) :
    let t := tiles.foldl (fun st x => st.fetchImage l x.1) s
    t.launches = s.launches ∧ t.parts = s.parts ∧ ∀ k, (s.getTile k).Keeps (t.getTile k) := by
  induction tiles generalizing s with
  | nil => exact ⟨rfl, rfl, fun k => .refl _⟩
  | cons x tiles ih =>
    obtain ⟨hx, hnodup⟩ := List.nodup_cons.mp hnodup
    have hfirst := State.serves_fetchImage (hlt x List.mem_cons_self) l (hents x List.mem_cons_self)
    have hother : ∀ y ∈ tiles, y.1 ≠ x.1 := fun y hy h => hx (List.mem_map.mpr ⟨y, hy, h⟩)
    obtain ⟨hlaunches, hparts, hkeeps⟩ := ih (s := s.fetchImage l x.1) (fun y hy => hlt y (List.mem_cons_of_mem _ hy))
      (fun y hy => by rw [hfirst.others _ (hother y hy)]; exact hents y (List.mem_cons_of_mem _ hy)) hnodup
    refine ⟨hlaunches.trans hfirst.launches, hparts.trans hfirst.parts, fun k => .trans ?_ (hkeeps k)⟩
    by_cases hk : k = x.1
    · exact hk ▸ hfirst.keeps
    · exact .of_eq (hfirst.others k hk)

/-- Tiles that are changed one after the other, each once, are read as changed. -/
theorem State.foldl_modTile (f : Nat × Nat × Nat → Tile → Tile) (hf : ∀ x t, (f x t).ep = t.ep) (tiles : List (Nat × Nat × Nat))
    (hnodup : (tiles.map (·.1)).Nodup) : let t := tiles.foldl (fun st x => st.modTile x.1 (f x)) s
    t.launches = s.launches ∧ t.parts = s.parts ∧ (∀ k, (∀ x ∈ tiles, x.1 ≠ k) → t.getTile k = s.getTile k) ∧
      ∀ x ∈ tiles, t.getTile x.1 = f x (s.getTile x.1) := by
  induction tiles generalizing s with
  | nil => exact ⟨rfl, rfl, fun _ _ => rfl, nofun⟩
  | cons x tiles ih =>
    obtain ⟨hx, hnodup⟩ := List.nodup_cons.mp hnodup
    have hget (k : Nat) : (s.modTile x.1 (f x)).getTile k = if k = x.1 then f x (s.getTile x.1) else s.getTile k :=
      State.getTile_modTile s ((hf x _).trans (s.getTile_ep _)) k
    have hother : ∀ y ∈ tiles, y.1 ≠ x.1 := fun y hy h => hx (List.mem_map.mpr ⟨y, hy, h⟩)
    obtain ⟨hlaunches, hparts, hkept, hset⟩ := ih (s := s.modTile x.1 (f x)) hnodup
    refine ⟨by simpa using hlaunches, by simpa using hparts, fun k hk => ?_, List.forall_mem_cons.mpr ⟨?_, fun y hy => ?_⟩⟩
    · obtain ⟨hxk, hk⟩ := List.forall_mem_cons.mp hk
      exact (hkept k hk).trans ((hget k).trans (if_neg hxk.symm))
    · exact (hkept x.1 hother).trans ((hget x.1).trans (if_pos rfl))
    · exact (hset y hy).trans (by rw [hget, if_neg (hother y hy)])

end

/-! ### Placement (R41, R45, R46) -/

section
variable {s : State} {l : Launch}

/-- The gang's number is read at a member's GANGID (R38). -/
theorem getC_memberCr (l : Launch) (rank : Rank) (ep idx : Nat) (old : List (Nat × Word)) :
    Sparse.get 0 (memberCr l rank ep idx old) 0x002 = BitVec.ofNat 64 l.n := by
  simp only [memberCr, List.foldl_cons, List.foldl_nil, crTILEID, crRANK, crGANGID, crGANGSZ, crACTX, crSLOTFORM, crTVEC, crUPOOLB]
  rw [Sparse.get_set_ne, Sparse.get_set_ne, Sparse.get_set_ne, Sparse.get_set_ne, Sparse.get_set_ne, Sparse.get_set_ne, Sparse.get_set_self] <;>
    decide

/-- What the manual asks of a tile on which a gang is loading (R41). -/
structure Tile.Loads (l : Launch) (idx : Nat) (u : Tile) : Prop where
  run   : u.run = .loading
  gang  : u.gang = l.n
  mem   : u.mem = []
  arg   : (u.thr.regs.getS 1).val = l.lrec.argva
  index : (u.thr.regs.getS 2).val = BitVec.ofNat 64 idx
  zero  : ∀ n, n ≠ 1 → n ≠ 2 → u.thr.regs.getS n = SVal.zero
  id    : u.cr 0x002 = BitVec.ofNat 64 l.n
  pc    : u.thr.pc = field l.header 0x14 4

theorem Tile.loads_place (t : Tile) (l : Launch) (rank : Rank) (lead idx : Nat) (groups : List (Nat × (Nat × Nat))) :
    Tile.Loads l idx (t.place l rank lead idx groups) := by
  refine ⟨rfl, rfl, rfl, ?_, ?_, fun n h1 h2 => ?_, ?_, rfl⟩
  · simp [Tile.place, Regs.getS, Sparse.get_set, SVal.of]
  · simp [Tile.place, Regs.getS, SVal.of]
  · simp [Tile.place, Regs.getS, Sparse.get_set, h1, h2, Sparse.get]
  · simp only [Tile.cr, Tile.place, Regs.getC, getC_memberCr]

theorem Tile.Loads.keeps {l : Launch} {idx : Nat} {t u : Tile} (h : Tile.Loads l idx t) (hk : t.Keeps u) : Tile.Loads l idx u := by
  have hS (n : Nat) : u.thr.regs.getS n = t.thr.regs.getS n := by rw [Regs.getS, Regs.getS, hk.regs]
  exact ⟨hk.run.trans h.run, hk.gang.trans h.gang, hk.mem.trans h.mem, by rw [hS]; exact h.arg, by rw [hS]; exact h.index,
    fun n h1 h2 => (hS n).trans (h.zero n h1 h2), hk.id.trans h.id, hk.pc.trans h.pc⟩

/-- A launch that takes its tiles. -/
def Launch.loadingOn (l : Launch) (leads : List Nat) : Launch := { l with st := .loading, tiles := leads, fetched := [] }

/-- The tiles of a gang without trailing tiles: each with its leading tile, itself, and its member index. -/
def seats (leads : List Nat) : List (Nat × Nat × Nat) := leads.zipIdx.map fun e => (e.1, e.1, e.2)

theorem seats_map_fst (leads : List Nat) : (seats leads).map (·.1) = leads := by simp [seats, Function.comp_def]

theorem getElem_mem_seats {leads : List Nat} {i : Nat} (h : i < leads.length) : (leads[i], leads[i], i) ∈ seats leads :=
  List.mem_map.mpr ⟨(leads[i], i), by simp [List.mem_zipIdx_iff_getElem?], rfl⟩

/-- A seat of a gang that takes its tiles. -/
def State.seat (s : State) (l : Launch) (x : Nat × Nat × Nat) (t : Tile) : Tile := t.place l (s.rankOf x.2.1) x.2.1 x.2.2 []

/-- Placement seats the members and begins to fetch their images (R41). -/
theorem State.placeOn_seats (hparts : s.parts = []) (htwin : l.lrec.flags.getLsbD 2 = false) (leads : List Nat) :
    s.placeOn l leads = (seats leads).foldl (fun st x => st.fetchImage (l.loadingOn leads) x.1)
      (((seats leads).foldl (fun st x => st.modTile x.1 (s.seat (l.loadingOn leads) x)) s).modLaunch l.n fun _ => l.loadingOn leads) := by
  have hsingle : l.lrec.isTwin = false := htwin
  have hseats : leads.zipIdx.flatMap (fun e => if l.lrec.isTwin then [(e.1, e.1, e.2), (e.1 + 1, e.1, e.2)] else [(e.1, e.1, e.2)]) = seats leads := by
    simp only [hsingle, Bool.false_eq_true, if_false]
    exact List.map_eq_flatMap.symm
  simp only [State.placeOn, hseats, hparts, Sparse.get]
  rfl

/-- A gang without trailing tiles is placed: each of its tiles is loading for it. -/
theorem State.placeOn_loads (hl : s.launches = [l]) (hparts : s.parts = []) (htwin : l.lrec.flags.getLsbD 2 = false) {leads : List Nat}
    (hnodup : leads.Nodup) (hlt : ∀ x ∈ leads, x < 0x400) : let t := s.placeOn l leads
    t.launches = [l.loadingOn leads] ∧ t.parts = [] ∧ ∀ i < leads.length, Tile.Loads l i (t.getTile (leads.getD i 0)) := by
  let s1 := (seats leads).foldl (fun st x => st.modTile x.1 (s.seat (l.loadingOn leads) x)) s
  let s2 := s1.modLaunch l.n fun _ => l.loadingOn leads
  have hfirst := seats_map_fst leads
  obtain ⟨hlaunches, hparts1, -, hset⟩ := State.foldl_modTile (s := s) (s.seat (l.loadingOn leads)) (fun _ _ => rfl) (seats leads) (by rwa [hfirst])
  have hs2 : s2.launches = [l.loadingOn leads] := congrArg State.launches (State.modLaunch_one (hlaunches.trans hl) _)
  have hset2 : ∀ x ∈ seats leads, s2.getTile x.1 = s.seat (l.loadingOn leads) x (s.getTile x.1) := hset
  obtain ⟨hlaunches', hparts', hkeeps⟩ := State.foldl_fetchImage (s := s2) (l.loadingOn leads) (seats leads)
    (fun x hx => hlt _ (hfirst ▸ List.mem_map_of_mem hx)) (fun x hx => by rw [hset2 x hx]; rfl) (by rwa [hfirst])
  dsimp only
  rw [State.placeOn_seats hparts htwin]
  refine ⟨hlaunches'.trans hs2, hparts'.trans (hparts1.trans hparts), fun i hi => ?_⟩
  rw [show leads.getD i 0 = leads[i] by simp [hi]]
  refine (Tile.Loads.keeps ?_ (hkeeps _) : Tile.Loads l i _)
  rw [hset2 _ (getElem_mem_seats hi)]
  exact Tile.loads_place _ _ _ _ _ _

/-- Without an eligible launch no reservation is due. -/
theorem State.drain_of_none (hparts : s.parts = []) (h : ∀ x ∈ s.launches, x.st ≠ .eligible) (part : Nat) : s.drain part = s := by
  have hnone : s.launches.filter (fun l => l.st == .eligible && l.lrec.part == part) = [] :=
    List.filter_eq_nil_iff.mpr fun x hx => by simp [h x hx]
  simp [State.drain, State.drainDue, hparts, hnone, sortBy, Part.zero]

/-- The one eligible launch that fits is placed (R45, R46). -/
theorem State.placement_places (hl : s.launches = [l]) (hst : l.st = .eligible) {leads : List Nat} (hfit : s.placeFor l = some leads) :
    s.placement l.lrec.part = ((s.placeOn l leads).drain l.lrec.part).kick l.lrec.part := by
  have hresume : s.launches.find? (fun x => x.lrec.part == l.lrec.part && s.mayResume x) = none :=
    List.find?_eq_none.mpr fun x hx => by
      obtain rfl : x = l := by simpa [hl] using hx
      simp [State.mayResume, hst]
  have hqueue : s.queueOf l.lrec.part = [l] := by simp [State.queueOf, hl, hst, sortBy, sortBy.insertBefore]
  simp only [State.placement, hresume, hqueue, List.findSome?_cons, hfit, Option.map_some]

/-! ### Aging and reservations (R45, R47) -/

theorem exec_launch (p : Packet) (s : State) : exec (.launch p) s = .next (s.launchMessage p) := rfl
theorem exec_imageHeaderRead (n : Nat) (s : State) : exec (.imageHeaderRead n) s = execImageHeaderRead n s := rfl
theorem exec_agingStep (n : Nat) (s : State) : exec (.agingStep n) s = execAgingStep n s := rfl
theorem exec_imageFetch (n ep : Nat) (s : State) : exec (.imageFetch n ep) s = .next (s.imageFetched n ep) := rfl
theorem exec_drainReservation (part : Nat) (s : State) : exec (.drainReservation part) s = .next (s.drain part) := rfl

/-- The one launch is found by its number. -/
theorem State.launchNo_one (hl : s.launches = [l]) : s.launchNo l.n = some l := by simp [State.launchNo, hl]

theorem execAgingStep_one (hl : s.launches = [l]) (hst : l.st = .eligible) (hlow : min 7 (l.lrec.prio + l.boost) < 7)
    (hdue : (l.boost + 1) * (1000 * s.param (some l.lrec.part) 0) ≤ s.time - l.since) : execAgingStep l.n s =
      .next { s with launches := [{ l with boost := l.boost + 1 }], sched := s.sched ++ [(s.cycle + 1, .placement l.lrec.part)] } := by
  have hages : s.agingDue l = true := by simp only [State.agingDue, Launch.effective, hst, hlow, hdue, decide_true, beq_self_eq_true, Bool.and_self]
  simp only [execAgingStep, State.launchNo_one hl, hages, if_true, State.modLaunch_one hl]
  rfl

/-- A launch whose reservation is due takes the position that is free first, unless that is too far away. -/
theorem State.drain_reserves {leads : List Nat} {due part : Nat} (hparts : s.parts = []) (hpart : l.lrec.part = part)
    (hdue : s.drainDue part = some l) (hbest : s.bestPosition l = some (leads, some due))
    (hnear : due ≤ s.time + 1000 * s.param (some part) 2) : s.drain part =
      { s with parts := Sparse.set Part.zero [] part { Part.zero with reserve := some (l.n, withTrailing l.lrec.shape leads) } } := by
  simp only [State.drain, hdue, State.reserveFor, hbest, hpart, Nat.not_lt.mpr hnear, if_false, hparts, Sparse.get]
  rfl

/-! ### The image (R40, R42) -/

/-- A tile on which a gang without trailing tiles starts. -/
def Tile.started (t : Tile) (time : Nat) : Tile :=
  let t1 := (List.range 3).foldl (fun t i => t.setCr (crTOUCH0 + i) 0) t
  { t1 with run := .running, last := time, ni := { t1.ni with ents := [] }, twin := none }

/-- A state in which a gang of one tile has started. -/
def State.startedAs (s : State) (l : Launch) : State :=
  { s.onTile (Tile.started · s.time) with launches := [{ l with st := .placed, placedAt := s.time, fetched := [] }] }

theorem State.imageFetched_oneTile {e : Ent} (h : OneTileLaunch s l) (hst : l.st = .loading) (hgang : s.tile.gang = l.n)
    (hents : s.tile.ni.ents = [e]) (hid : e.id = 0) (hphase : e.phase = .done) (hstatus : e.rcd.status = 0x00) : ∃ nis torus,
      s.imageFetched l.n s.tile.ep = { s.startedAs l with nis, torus } ∧
        Event s { s.startedAs l with nis, torus } l l.n 2 0 s.tile.ep := by
  have hall := OneTile.allTiles h
  have hno := OneTile.launchNo h
  obtain ⟨hl, -, htiles, htwin, hep, -, -, -, hquiet, hreach⟩ := h
  have hent : s.ent s.tile.ep 0 = some e := by
    simp [State.ent, State.getNi_tile s hep, Ni.ent, hents, hid]
  have hmod : s.modTile s.tile.ep (Tile.started · s.time) = s.onTile (Tile.started · s.time) := State.modTile_focus _ _ rfl
  have hlaunch : (s.onTile (Tile.started · s.time)).modLaunch l.n (fun l => { l with st := .placed, placedAt := s.time, fetched := [] }) =
      s.startedAs l := State.modLaunch_one (s := s.onTile _) hl _
  obtain ⟨nis, torus, hreport, hevent⟩ := State.report_event (s := s.startedAs l) l.n 2 0 s.tile.ep (by exact hquiet) (by exact hreach)
  refine ⟨nis, torus, ?_, hevent⟩
  rw [← hreport, ← hlaunch, ← hmod]
  have hsingle : l.lrec.isTwin = false := htwin
  have hok : (e.rcd.status == stOK || e.rcd.status == stCORRECTED) = true := by rw [hstatus]; rfl
  simp only [State.imageFetched, hno, hent, hst, hphase, State.getTile_focus, hgang, hall, hsingle, htiles, bne_self_eq_false, Bool.or_self,
    Bool.false_eq_true, if_false, List.all_cons, List.all_nil, Option.bind_some, hok, beq_self_eq_true, if_true, Option.isSome_some, Bool.and_self,
    Bool.not_true, List.filter_cons, List.filter_nil]
  rfl

end

/-! ### The image header (R40, R43, R44) -/

section
variable {s : State} {l : Launch} {e : Ent}

/-- Records that wait for nothing of the placer leave it nothing to check (R44). -/
theorem State.checkRecords_of_checked (h : ∀ x ∈ s.launches, x.st.unchecked = false) (fuel : Nat) : s.checkRecords fuel = s := by
  cases fuel with
  | zero => rfl
  | succ fuel =>
    have hheader : (s.launches.any fun l => l.st == .header) = false :=
      List.any_eq_false.mpr fun x hx hst => by
        have := h x hx
        rw [beq_iff_eq.mp hst] at this
        exact Bool.noConfusion this
    have hqueued : (s.launches.find? fun l => l.st == .queued) = none :=
      List.find?_eq_none.mpr fun x hx hst => by
        have := h x hx
        rw [beq_iff_eq.mp hst] at this
        exact Bool.noConfusion this
    simp only [State.checkRecords, hheader, hqueued, Bool.false_eq_true, if_false]

/-- Only ended launches are forgotten (R43). -/
theorem State.forget_of_live (h : ∀ x ∈ s.launches, x.st.isEnded = false) : s.forget = s := by
  have hall : s.launches = s.launches.filter fun l => !(l.st.isEnded &&
      decide (4096 ≤ (s.launches.filter fun x => x.lrec.part == l.lrec.part && !x.st.unchecked && decide (l.accepted < x.accepted)).length)) :=
    (List.filter_eq_self.mpr fun x hx => by simp [h x hx]).symm
  simp only [State.forget]
  rw [← hall]

/-- A launch that waits for nothing and has a place becomes eligible (R44). -/
theorem State.settleWaiting_one (hl : s.launches = [l]) (hst : l.st = .waiting) (hpreds : l.lrec.preds = []) (hplace : s.placeable l = true) :
    s.settleWaiting 1 = { s with launches := [{ l with st := .eligible, since := s.time }] }.kick l.lrec.part := by
  simp only [State.settleWaiting, hl, List.find?_cons, List.find?_nil, hst, hpreds, List.any_nil, List.all_nil, beq_self_eq_true, Bool.and_false,
    Bool.and_self, hplace, if_true, State.modLaunch_one hl]

/-- What follows an acceptance: nothing is forgotten, the launch settles, and no record is left to check. -/
theorem State.settle_accepted (hl : s.launches = [l]) (hst : l.st = .waiting) (hpreds : l.lrec.preds = []) (hplace : s.placeable l = true) :
    (s.forget.settleWaiting s.forget.launches.length).checkRecords (s.forget.settleWaiting s.forget.launches.length).launches.length =
      { s with launches := [{ l with st := .eligible, since := s.time }] }.kick l.lrec.part := by
  rw [State.forget_of_live (by simp [hl, hst, LState.isEnded]), hl, List.length_singleton, State.settleWaiting_one hl hst hpreds hplace]
  exact State.checkRecords_of_checked (by simp [State.kick, LState.unchecked]) _

/-- The placer's interface after the one entry there has gone. -/
theorem State.dropEnt_placer (hents : (s.getNi 0x4C0).ents = [e]) (hgrp : s.grpPart = []) (hpkg : s.pkg < 2 ^ 20)
    (hfree : s.injecting 0x4C0 = false) : ∃ nis, s.dropEnt 0x4C0 e.id = { s with nis } ∧ Quiet { s with nis } 0x4C0 := by
  obtain ⟨nis, hframe⟩ : ∃ nis, s.dropEnt 0x4C0 e.id = { s with nis } := ⟨_, State.modNi_service isService_placer s _⟩
  refine ⟨nis, hframe, ?_, hgrp, hpkg, fun _ => hfree⟩
  rw [← hframe, State.dropEnt, State.getNi_modNi]
  simp [hents]

/-- The placer's entry for the image header of a launch. -/
theorem State.find_header {n : Nat} (hents : (s.getNi 0x4C0).ents = [e]) (hcookie : e.cookie.toNat = n + 1) :
    (s.getNi Config.placerEp).ents.find? (fun x => x.cookie.toNat == n + 1) = some e := by
  rw [show (s.getNi Config.placerEp).ents = [e] from hents]
  simp [hcookie]

/-- An accepted launch under its number. -/
def State.acceptedAs (s : State) (l : Launch) : State :=
  { s with
    launches := [{ l with n := launchNumber s.nextLaunch, st := .eligible, accepted := s.accepts, since := s.time }]
    nextLaunch := s.nextLaunch + 1, accepts := s.accepts + 1, sched := s.sched ++ [(s.cycle + 1, .placement l.lrec.part)] }

section
variable (hl : s.launches = [l]) (hst : l.st = .header) (hents : (s.getNi 0x4C0).ents = [e]) (hgrp : s.grpPart = []) (hpkg : s.pkg < 2 ^ 20)
  (hfree : s.injecting 0x4C0 = false) (hr : Reachable s l.launcher) (hcookie : e.cookie.toNat = l.n + 1) (hphase : e.phase = .done)
include hl hst hents hgrp hpkg hfree hr hcookie hphase

/-- An image header that could not be read rejects its record (R40). -/
theorem execImageHeaderRead_faulted (hstatus : e.rcd.status = 0x08) : ∃ nis torus,
    execImageHeaderRead l.n s = .next { s with launches := [], nis, torus } ∧ Event s { s with launches := [], nis, torus } l 0 4 10 0 := by
  obtain ⟨nis1, hdrop, hquiet⟩ := State.dropEnt_placer hents hgrp hpkg hfree
  obtain ⟨nis, torus, hreport, hevent⟩ := State.report_event (s := { s with nis := nis1, launches := [] }) (l := l) 0 4 10 0 hquiet hr
  have hmine := State.find_header hents hcookie
  have hbad : (e.rcd.status == stOK || e.rcd.status == stCORRECTED) = false := by rw [hstatus]; rfl
  have hgone : s.launches.filter (fun x => x.n != l.n) = [] := by simp [hl]
  have hdrop' : s.dropEnt Config.placerEp e.id = { s with nis := nis1 } := hdrop
  refine ⟨nis, torus, ?_, hevent⟩
  simp only [execImageHeaderRead, State.launchNo_one hl, hmine, hst, hphase, hdrop', hbad, Bool.false_and, hgone, hreport]
  exact congrArg Host.Outcome.next (State.checkRecords_of_checked (by simp) _)

/-- A valid image header makes a launch eligible, in this order of events: it is numbered, accepted, and waits for nothing (R40, R43, R44). -/
theorem execImageHeaderRead_accepted (hstatus : e.rcd.status = 0x00) (hok : headerOk l.header l.lrec.imglen = true) (hpreds : l.lrec.preds = [])
    (hplace : s.placeable l = true) : ∃ nis torus, execImageHeaderRead l.n s = .next { s.acceptedAs l with nis, torus } ∧
      Event s { s.acceptedAs l with nis, torus } l (launchNumber s.nextLaunch) 1 0 0 := by
  obtain ⟨nis1, hdrop, hquiet⟩ := State.dropEnt_placer hents hgrp hpkg hfree
  let x : Launch := { l with n := launchNumber s.nextLaunch, st := .waiting, accepted := s.accepts }
  let s3 : State := { s with nis := nis1, launches := [x], nextLaunch := s.nextLaunch + 1, accepts := s.accepts + 1 }
  obtain ⟨nis, torus, hreport, hevent⟩ := State.report_event (s := s3) (l := l) (launchNumber s.nextLaunch) 1 0 0 hquiet hr
  have hmine := State.find_header hents hcookie
  have hgood : ((e.rcd.status == stOK || e.rcd.status == stCORRECTED) && headerOk l.header l.lrec.imglen) = true := by rw [hstatus, hok]; rfl
  have hdrop' : s.dropEnt Config.placerEp e.id = { s with nis := nis1 } := hdrop
  have hlive : s.launches.filter (fun x => !(x.st.isEnded && x.n == launchNumber s.nextLaunch)) = [l] := by simp [hl, hst, LState.isEnded]
  refine ⟨nis, torus, ?_, hevent⟩
  have hmod : ({ s with nis := nis1, launches := [l] } : State).modLaunch l.n (fun l =>
      { l with n := launchNumber s.nextLaunch, st := .waiting, accepted := s.accepts }) = { s with nis := nis1, launches := [x] } :=
    State.modLaunch_one rfl _
  have hsettle := State.settle_accepted (s := s3.report l (launchNumber s.nextLaunch) 1 0 0) (l := x) (by rw [hreport]) rfl hpreds
    (by rw [hreport]; exact hplace)
  simp only [execImageHeaderRead, State.launchNo_one hl, hmine, hst, hphase, hdrop', hgood, hlive, hmod]
  refine (congrArg Host.Outcome.next hsettle).trans ?_
  rw [hreport]
  rfl

end

end

/-! ### Records (R35, R39, R40) -/

section
variable {s : State} {l : Launch} {p : Packet}

/-- What the placer takes out of an eager launch message. -/
def State.queuedLaunch (s : State) (p : Packet) : Launch :=
  { n := 2 ^ 32 + s.accepts, launcher := p.hdr.src, tag := p.hdr.tag, group := p.hdr.group, lrec := LaunchRec.ofBytes p.payload, st := .queued
    since := 0, boost := 0, header := p.payload, tiles := [], fetched := [], placedAt := 0, suspAt := 0, suspended := 0, parkedBy := none
    recordAt := none, accepted := s.accepts, by_ := 0, halt := false }

/-- A state in which the placer has acknowledged a record and taken it. -/
def State.takenAs (s : State) (p : Packet) (torus : List Transit) : State :=
  { s with torus, launches := [s.queuedLaunch p], accepts := s.accepts + 1 }

theorem pathEnds_placer {d : Nat} (h : d < 0x400) : (pathEnds 0x4C0 d).1 < 0x4000 := by
  have hends : pathEnds 0x4C0 d = (epRouter 0x4C0, epRouter d) := by simp [pathEnds, Config.haloEp, Nat.not_le.mpr h]
  have hrouter : epRouter 0x4C0 < 0x4000 := by decide
  rwa [hends]

/-- A record is acknowledged first; the ACK keeps the placer's way out busy (R96, R119). -/
theorem State.launchMessage_takes (hl : s.launches = []) (hr : Reachable s p.hdr.src) (hkind : p.hdr.kind = 0x01) : ∃ torus,
    s.launchMessage p = (s.takenAs p torus).checkRecords 1 ∧ (s.takenAs p torus).injecting 0x4C0 = true ∧
      ∃ u ∈ torus, ∃ q, u.ev = .packet q ∧ q.hdr.kind = 0x05 ∧ q.hdr.dest = p.hdr.src ∧ q.hdr.xid = p.hdr.xid := by
  obtain ⟨u, hemit, hev, hsrc, hwaits, hfirst⟩ := State.emit_own (s := s) (p := ackPacket p.hdr ackMessage p.hdr.len) isService_placer hr.1
  have hmem : u ∈ s.torus ++ [u] := by simp
  refine ⟨s.torus ++ [u], ?_, ?_, u, hmem, _, hev, rfl, rfl, rfl⟩
  · have hrts : ¬p.hdr.kind = 0x02 := by rw [hkind]; decide
    have hack : s.acknowledge Config.placerEp p.hdr p.hdr.len = { s with torus := s.torus ++ [u] } :=
      (State.acknowledge_eager s _ _ hkind).trans hemit
    simp only [State.launchMessage, hack, hrts, if_false, hl]
    rfl
  · exact State.injecting_of_waiting (s := s.takenAs p (s.torus ++ [u])) hmem hsrc hwaits (by rw [hfirst]; exact pathEnds_placer hr.2.1)

/-- A single record that waits is rejected, or its image header is read. -/
theorem State.checkRecords_rejects {reason : Nat} (hl : s.launches = [l]) (hst : l.st = .queued)
    (hrej : s.rejection l.launcher l.header.length l.header = some reason) :
    s.checkRecords 1 = ({ s with launches := [] } : State).report l 0 4 reason 0 := by
  simp [State.checkRecords, hl, hst, hrej]

theorem State.checkRecords_reads (hl : s.launches = [l]) (hst : l.st = .queued)
    (hrej : s.rejection l.launcher l.header.length l.header = none) :
    s.checkRecords 1 = ({ s with launches := [{ l with st := .header, header := [] }] } : State).readHeader l.n l.lrec := by
  have hmod : s.modLaunch l.n (fun x => { x with st := .header, header := [] }) = { s with launches := [{ l with st := .header, header := [] }] } :=
    State.modLaunch_one hl _
  simp [State.checkRecords, hl, hst, hrej, hmod]

theorem ofBytes_lt (b : List Byte) : ofBytes b < 256 ^ b.length := by
  induction b with
  | nil => decide
  | cons x b ih =>
    have := x.isLt
    rw [ofBytes, List.length_cons, Nat.pow_succ]
    omega

theorem field_lt (b : List Byte) (o n : Nat) : field b o n < 256 ^ n :=
  (ofBytes_lt _).trans_le (Nat.pow_le_pow_right (by decide) (by simp))

/-- A record that waits has no launch number yet: no record can name it as a predecessor. -/
theorem State.predOk_takenAs (hl : s.launches = []) (torus : List Transit) (part : Nat) {k : Nat} (hk : k < 2 ^ 32) :
    (s.takenAs p torus).predOk part k = s.predOk part k := by
  have hne : ¬4294967296 + s.accepts = k := by omega
  have hnone : (s.takenAs p torus).launchNo k = none := by simp [State.launchNo, State.takenAs, State.queuedLaunch, hne]
  have hnone' : s.launchNo k = none := by simp [State.launchNo, hl]
  simp only [State.predOk, hnone, hnone']
  rfl

theorem preds_lt {b : List Byte} {k : Nat} (h : k ∈ (LaunchRec.ofBytes b).preds) : k < 2 ^ 32 := by
  obtain ⟨i, -, rfl⟩ := List.mem_map.mp (List.mem_of_mem_filter h)
  exact field_lt _ _ 4

/-- A record that has been taken, being no launch yet, changes nothing in its own check. -/
theorem State.rejection_takenAs (hl : s.launches = []) (torus : List Transit) (src : Rank) (n : Nat) (b : List Byte) :
    (s.takenAs p torus).rejection src n b = s.rejection src n b := by
  have hpending (part : Nat) : (s.takenAs p torus).pendingOf part = s.pendingOf part := by
    simp [State.pendingOf, State.takenAs, State.queuedLaunch, hl, LState.unchecked]
  have hpreds : (LaunchRec.ofBytes b).preds.all ((s.takenAs p torus).predOk (LaunchRec.ofBytes b).part) =
      (LaunchRec.ofBytes b).preds.all (s.predOk (LaunchRec.ofBytes b).part) := by
    rw [Bool.eq_iff_iff, List.all_eq_true, List.all_eq_true]
    exact forall₂_congr fun k hk => by rw [State.predOk_takenAs hl torus _ (preds_lt hk)]
  simp only [State.rejection, hpending, hpreds]
  rfl

/-- The image of a record that is not rejected stands at a multiple of 64 (R39). -/
theorem State.image_aligned {src : Rank} {b : List Byte} (h : s.rejection src 64 b = none) : (LaunchRec.ofBytes b).image % 64 = 0 := by
  by_contra hne
  simp [State.rejection, hne] at h

/-- A header's 64 bytes are one piece, and one shard. -/
theorem rangePieces_header {va : Nat} (h : va % 64 = 0) : rangePieces 0 va 64 = [⟨0, va, 64⟩] := by
  have : min 64 (65536 - va % 65536) = 64 := by omega
  simp [rangePieces, pagePieces, this]

/-- The placer's request for an image header. -/
def State.headerEnt (s : State) (ticket : Nat) : Ent :=
  { Ent.fresh (s.getNi Config.placerEp).nextId .get with
    len := 64, buf := .header ticket, xid := (s.getNi Config.placerEp).nextXid, cookie := BitVec.ofNat 64 (ticket + 1) }

/-- The shards of that request. -/
def State.headerShards (s : State) (r : LaunchRec) : List Shard :=
  shardsOf (s.rankOf Config.placerEp) (s.getNi Config.placerEp).nextXid.toNat r.actx 0 0 (rangePieces 0 r.image 64) [] 0 none []

theorem State.headerShards_aligned {r : LaunchRec} (hr : r.image % 64 = 0) : ∃ q, s.headerShards r = [q] ∧ q.no = 0 ∧ q.issuer = s.rankOf 0x4C0 ∧
    q.actx = r.actx ∧ q.srv = homeOf r.image ∧ q.pieces = [⟨0, r.image, 64⟩] := by
  rw [State.headerShards, rangePieces_header hr]
  simp only [shardsOf, homesOf, List.foldl_cons, List.foldl_nil, List.contains_nil, Bool.false_eq_true, if_false, List.nil_append, List.zipIdx_cons,
    List.zipIdx_nil, List.map_cons, List.map_nil, List.filter_cons, List.filter_nil, beq_self_eq_true, if_true]
  exact ⟨_, rfl, rfl, rfl, rfl, rfl, rfl⟩

theorem State.modNi_service_frame {key : Nat} (hk : IsService key) (f : Ni → Ni) : s.modNi key f = { s with nis := (s.modNi key f).nis } := by
  rw [State.modNi_service hk]

/-- While a service injects a packet, the shards of its one request wait. -/
theorem State.issueShards_waits {key : Nat} (hk : IsService key) {e : Ent} (hents : (s.getNi key).ents = [e]) (hbusy : s.injecting key = true)
    (qs : List Shard) : let t := s.issueShards key e.id qs
      t = { s with nis := t.nis } ∧ (t.getNi key).ents = [{ e with
        shards := qs.map fun q => ⟨q, 1, 0, false, false, none, [], false, false⟩, phase := .shards
        unsent := (qs.filter fun q => !s.mgmt.outMask.contains q.srv).map fun q => q.no }] := by
  dsimp only [State.issueShards, State.modEnt]
  rw [State.pump_service_busy hk (by simpa using hbusy), State.getNi_modNi]
  exact ⟨State.modNi_service_frame hk _, by simp [Ni.modEnt, hents]⟩

/-- The header of an image is read by a GET of the placer, which waits for its turn. -/
theorem State.readHeader_waits (hfree : (s.getNi 0x4C0).ents = []) (hbusy : s.injecting 0x4C0 = true) (hout : s.mgmt.outMask = []) (ticket : Nat)
    {r : LaunchRec} (hr : r.image % 64 = 0) : let t := s.readHeader ticket r
    t = { s with nis := t.nis } ∧ ∃ f ∈ (t.getNi 0x4C0).ents, f.kind = .get ∧ f.phase = .shards ∧ f.unsent = [0] ∧ f.pairWait = false ∧
      ∃ x, f.shards = [x] ∧ x.shard.no = 0 ∧ x.shard.issuer = s.rankOf 0x4C0 ∧ x.shard.actx = r.actx ∧ x.shard.srv = homeOf r.image ∧
        x.shard.pieces = [⟨0, r.image, 64⟩] := by
  let s1 := s.modNi 0x4C0 fun n => n.push (s.headerEnt ticket)
  have hs1 : s1 = { s with nis := s1.nis } := State.modNi_service_frame isService_placer _
  have hents : (s1.getNi 0x4C0).ents = [s.headerEnt ticket] := by simp [s1, Ni.push, hfree]
  have hread : s.readHeader ticket r = s1.issueShards 0x4C0 (s.headerEnt ticket).id (s.headerShards r) := rfl
  obtain ⟨q, hq, hno, hissuer, hactx, hsrv, hpieces⟩ := s.headerShards_aligned hr
  obtain ⟨hframe, hwaits⟩ := State.issueShards_waits (key := 0x4C0) isService_placer hents (by simpa [s1] using hbusy) (s.headerShards r)
  dsimp only
  rw [hread]
  refine ⟨hframe.trans (by rw [hs1]), _, by rw [hwaits]; exact List.mem_singleton_self _, rfl, rfl, ?_, rfl, ?_⟩
  · have hout1 : s1.mgmt.outMask = [] := by rw [hs1]; exact hout
    simp [hq, hout1, hno]
  · exact ⟨_, by rw [hq, List.map_singleton], hno, hissuer, hactx, hsrv, hpieces⟩

/-- What a packet's acknowledgement is on the torus (R96). -/
def Acked (p : Packet) (t : State) : Prop :=
  ∃ u ∈ t.torus, ∃ q, u.ev = .packet q ∧ q.hdr.kind = 0x05 ∧ q.hdr.dest = p.hdr.src ∧ q.hdr.xid = p.hdr.xid

section
variable (hl : s.launches = []) (hr : Reachable s p.hdr.src) (hkind : p.hdr.kind = 0x01)
include hl hr hkind

/-- A record of another length than 64 is acknowledged and rejected; the event waits behind the ACK. -/
theorem State.launchMessage_rejects (hlen : p.payload.length ≠ 64) : let t := s.launchMessage p
    Acked p t ∧ t.launches = [] ∧ t.tile = s.tile ∧ WillSay t 0x4C0 p.hdr.src p.hdr.tag p.hdr.group (eventBytes 0 4 1 0 s.time) := by
  obtain ⟨torus, htakes, hbusy, hack⟩ := State.launchMessage_takes hl hr hkind
  have hrej : (s.takenAs p torus).rejection p.hdr.src p.payload.length p.payload = some 1 := by simp [State.rejection, hlen]
  obtain ⟨nis, hreport, hsay⟩ := State.report_waits (s := { s.takenAs p torus with launches := [] }) (l := s.queuedLaunch p) 0 4 1 0 hr hbusy
  dsimp only
  rw [htakes, State.checkRecords_rejects (s := s.takenAs p torus) (l := s.queuedLaunch p) rfl rfl hrej, hreport]
  exact ⟨hack, rfl, rfl, hsay⟩

/-- A record that nothing rejects is acknowledged, and its image header is asked for behind the ACK. -/
theorem State.launchMessage_reads (hents : (s.getNi 0x4C0).ents = []) (hrej : s.rejection p.hdr.src 64 p.payload = none)
    (hlen : p.payload.length = 64) (hout : s.mgmt.outMask = []) : let t := s.launchMessage p
    Acked p t ∧ (∃ x, t.launches = [x] ∧ x.st = .header ∧ x.lrec = LaunchRec.ofBytes p.payload ∧ x.launcher = p.hdr.src) ∧
      ∃ f ∈ (t.getNi 0x4C0).ents, f.kind = .get ∧ f.phase = .shards ∧ f.unsent = [0] ∧ f.pairWait = false ∧
        ∃ x, f.shards = [x] ∧ x.shard.no = 0 ∧ x.shard.issuer = s.rankOf 0x4C0 ∧ x.shard.actx = (LaunchRec.ofBytes p.payload).actx ∧
          x.shard.srv = homeOf (LaunchRec.ofBytes p.payload).image ∧ x.shard.pieces = [⟨0, (LaunchRec.ofBytes p.payload).image, 64⟩] := by
  obtain ⟨torus, htakes, hbusy, hack⟩ := State.launchMessage_takes hl hr hkind
  have hnone : (s.takenAs p torus).rejection p.hdr.src p.payload.length p.payload = none := by
    rw [State.rejection_takenAs hl, hlen]
    exact hrej
  let s1 : State := { s.takenAs p torus with launches := [{ s.queuedLaunch p with st := .header, header := [] }] }
  obtain ⟨hframe, hget⟩ := State.readHeader_waits (s := s1) hents hbusy hout (s.queuedLaunch p).n (State.image_aligned hrej)
  have hreads : s.launchMessage p = s1.readHeader (s.queuedLaunch p).n (LaunchRec.ofBytes p.payload) :=
    htakes.trans (State.checkRecords_reads (s := s.takenAs p torus) (l := s.queuedLaunch p) rfl rfl hnone)
  dsimp only
  rw [hreads]
  refine ⟨?_, ?_, hget⟩
  · rw [hframe]
    exact hack
  · rw [hframe]
    exact ⟨_, rfl, rfl, rfl, rfl⟩

end

end

/-- Settles O45: a lone launch goes from its record over the image header, aging, placement and the image to a running gang, or reserves its
tiles; what the placer says before its ACK has left waits in its interface, the rest is on the torus at once. -/
theorem launchesComeToRun : Obligations.LaunchesComeToRun := by
  unfold Obligations.LaunchesComeToRun
  intro p l e leads due part s _ hparts now ack
  refine ⟨fun hl hq hr hkind => ⟨fun hlen => ⟨_, exec_launch p s, State.launchMessage_rejects hl hr hkind hlen⟩,
      fun hrej hlen hout => ⟨_, exec_launch p s, State.launchMessage_reads hl hr hkind hq.1 hrej hlen hout⟩⟩,
    fun hl hgrp hpkg hfree hr hst hents hcookie hphase => ⟨fun hstatus => ?_, fun hstatus hok hpreds hplace => ?_⟩,
    fun hl hst hlow hdue => ⟨_, (exec_agingStep _ _).trans (execAgingStep_one hl hst hlow hdue), rfl⟩,
    fun hl hst htwin hfit hnodup hlt => ⟨_, exec_placement _ _, ?_⟩,
    fun h hst hgang hents hid hphase hstatus => ?_,
    fun hl hpart hdue hbest hnear => ⟨_, exec_drainReservation _ _, ?_⟩⟩
  · obtain ⟨nis, torus, hexec, hevent⟩ := execImageHeaderRead_faulted hl hst hents hgrp hpkg hfree hr hcookie hphase hstatus
    exact ⟨_, (exec_imageHeaderRead _ _).trans hexec, rfl, hevent⟩
  · obtain ⟨nis, torus, hexec, hevent⟩ :=
      execImageHeaderRead_accepted hl hst hents hgrp hpkg hfree hr hcookie hphase hstatus hok hpreds hplace
    exact ⟨_, (exec_imageHeaderRead _ _).trans hexec, ⟨_, rfl, rfl, rfl⟩, ⟨_, rfl, rfl⟩, rfl, hevent⟩
  · obtain ⟨hlaunches, hparts', hloads⟩ := State.placeOn_loads hl hparts htwin hnodup hlt
    rw [State.placement_places hl hst hfit, State.drain_of_none hparts' (by simp [hlaunches, Launch.loadingOn])]
    refine ⟨⟨_, hlaunches, rfl, rfl⟩, fun i hi => ?_⟩
    obtain ⟨hrun, hgang, hmem, harg, hindex, hzero, hid, hpc⟩ := hloads i hi
    exact ⟨hrun, hgang, hmem, harg, hindex, hzero, hid, hpc⟩
  · obtain ⟨nis, torus, hfetched, hevent⟩ := State.imageFetched_oneTile h hst hgang hents hid hphase hstatus
    exact ⟨_, (exec_imageFetch _ _ _).trans (congrArg Host.Outcome.next hfetched), ⟨_, rfl, rfl, rfl⟩, rfl, rfl, hevent⟩
  · rw [State.drain_reserves hparts hpart hdue hbest hnear]
    exact ⟨by rw [Sparse.get_set_self], rfl⟩

end Sys2Proof.Machine
end

section
/-!
Scalar floating point (R74, R185, R215 to R218): each operation by its shape of State.fop to State.sToF, and the proof of O5.
-/
namespace Sys2Proof.Machine

open Sys2Proof.Safety

/-- An instruction gives what its meaning, an operation of some shape, gives. -/
theorem gives_of_exec {i : Instr} {s : State} {P : State → Prop} {o : Out} (h : ∃ t, o = .next t ∧ P t) (hi : exec i s = o) : Gives i s P :=
  h.imp fun _ ht => ⟨hi.trans ht.1, ht.2⟩

section
variable {s : State} (hu : Unpoisoned s)
include hu

/-- FFMA, an operation of three f registers, in one rounding (R215). -/
theorem execFfma_spec {d : BitVec 4} (hc : s.clash (.f d.toNat) = false) (a b c : BitVec 4) :
    let r := fpFma s.rm (f32 (s.opF 0 a)) (f32 (s.opF 1 b)) (f32 (s.opF 2 c))
    ∃ t, execFfma d a b c s = .next t ∧ ToF s t d r.1 4 r.2 := by
  simp only [execFfma]
  exact ⟨_, State.checked_plain hu _ rfl rfl rfl, State.wrF_spec hu.2 hc _ _ _⟩

/-- FMOVI, which reads no register (R218). -/
theorem execFmovi_spec {d : BitVec 4} (hc : s.clash (.f d.toNat) = false) (i : BitVec 16) :
    ∃ t, execFmovi d i s = .next t ∧ ToF s t d (i ++ (0 : BitVec 16)) 1 0 :=
  ⟨_, State.checked_plain hu _ rfl rfl rfl, State.wrF_spec hu.2 hc _ _ _⟩

/-- FCMP writes a predicate and raises no flag (R216). -/
theorem execFcmp_spec {k : BitVec 3} (hc : s.clash (.p k.toNat) = false) (a b : BitVec 4) (e : BitVec 3) :
    ∃ t, execFcmp k a b e s = .next t ∧ ToP s t k (fpCmp e.toNat (s.opF 0 a) (s.opF 1 b)) 4 := by
  simp only [execFcmp]
  exact ⟨_, State.checked_plain hu _ rfl rfl rfl, State.wrP_spec hu.2 hc _ _⟩

end

/-- The low half of a scalar, as MOVFS copies it. -/
theorem extractLsb'_low (w : Word) : w.extractLsb' 0 32 = BitVec.ofNat 32 w.toNat := by
  apply BitVec.eq_of_toNat_eq; simp

/-- The immediate of FMOVI stands in the high half. -/
theorem append_zero16 (i : BitVec 16) : i ++ (0 : BitVec 16) = BitVec.ofNat 32 (i.toNat * 65536) := by
  apply BitVec.eq_of_toNat_eq
  have := i.isLt
  rw [BitVec.toNat_append, BitVec.toNat_ofNat, Nat.shiftLeft_eq, Nat.mod_eq_of_lt (by omega)]
  exact Nat.or_zero _

/-- Settles O5: each operation has one of five shapes, whose laws name what it writes. -/
theorem scalarFloatingPoint : Obligations.ScalarFloatingPoint := by
  unfold Obligations.ScalarFloatingPoint
  intro d a b c r k e i s hu hf hs hp
  have fop (lat f) := State.fop_spec hu (a := a) (b := b) hf lat f
  have fop1 (lat f) := State.fop1_spec hu (a := a) hf lat f
  have fToS (f) := State.fToS_spec hu (a := a) hs f
  have sToF (f) := State.sToF_spec hu (a := r) hf f
  dsimp only
  simp only [List.forall_mem_cons, List.not_mem_nil, false_implies, implies_true, and_true]
  refine ⟨⟨?fadd, ?fsub, ?fmul, ?fdiv, ?fsqrt, ?ffma, ?fmin, ?fmax, ?fabs, ?fneg, ?i2f, ?iz2f, ?bf2f, ?h2f, ?movfs, ?fmovi⟩,
    ⟨?f2i, ?f2iz, ?f2bf, ?f2h, ?movsf⟩, ?fcmp⟩
  case fadd => exact gives_of_exec (fop 4 fpAdd) rfl
  case fsub => exact gives_of_exec (fop 4 fpSub) rfl
  case fmul => exact gives_of_exec (fop 4 fpMul) rfl
  case fdiv => exact gives_of_exec (fop 16 fpDiv) rfl
  case fsqrt => exact gives_of_exec (fop1 16 fpSqrt) rfl
  case ffma => exact gives_of_exec (execFfma_spec hu hf a b c) rfl
  case fmin => exact gives_of_exec (fop 4 fun _ x y => (fpMin x y, 0)) rfl
  case fmax => exact gives_of_exec (fop 4 fun _ x y => (fpMax x y, 0)) rfl
  case fabs => exact gives_of_exec (fop1 4 fun _ x => (fpAbs x, 0)) rfl
  case fneg => exact gives_of_exec (fop1 4 fun _ x => (fpNeg x, 0)) rfl
  case i2f => exact gives_of_exec (sToF fun rm x => intToFp rm x.toInt) rfl
  case iz2f => exact gives_of_exec (sToF fun rm x => intToFp rm x.toNat) rfl
  case bf2f => exact gives_of_exec (sToF fun _ x => (widen .bf16 (x.toNat % 65536), 0)) rfl
  case h2f => exact gives_of_exec (sToF fun _ x => (widen .f16 (x.toNat % 65536), 0)) rfl
  case movfs => rw [← extractLsb'_low]; exact gives_of_exec (sToF fun _ x => (x.extractLsb' 0 32, 0)) rfl
  case fmovi => rw [← append_zero16]; exact gives_of_exec (execFmovi_spec hu hf i) rfl
  case f2i => exact gives_of_exec (fToS fun rm x => let r := fpToInt rm (-2 ^ 63) (2 ^ 63 - 1) (f32 x); (BitVec.ofInt 64 r.1, r.2)) rfl
  case f2iz => exact gives_of_exec (fToS fun rm x => let r := fpToInt rm 0 (2 ^ 64 - 1) (f32 x); (BitVec.ofInt 64 r.1, r.2)) rfl
  case f2bf =>
    rw [BitVec.ofInt_natCast]
    exact gives_of_exec (fToS fun rm x => let r := narrow .bf16 rm false (f32 x); (BitVec.ofNat 64 r.1, r.2)) rfl
  case f2h =>
    rw [BitVec.ofInt_natCast]
    exact gives_of_exec (fToS fun rm x => let r := narrow .f16 rm false (f32 x); (BitVec.ofNat 64 r.1, r.2)) rfl
  case movsf =>
    rw [BitVec.ofInt_natCast, BitVec.ofNat_toNat]
    exact gives_of_exec (fToS fun _ x => (x.zeroExtend 64, 0)) rfl
  case fcmp => exact gives_of_exec (execFcmp_spec hu hp a b e) rfl

end Sys2Proof.Machine
end

section
/-!
The registers of the tile that have a rule of their own (R74, R94, R113, R126, R344), the landing of results (R182, R248), and the proof of
O16.
-/
namespace Sys2Proof.Machine

open Sys2Proof.Safety

/-! ### UPOOL (R94) -/

/-- The pool is empty when no unit of it is in use. -/
def Ni.PoolEmpty (n : Ni) : Prop := (n.unexp.all fun u => u.units.isEmpty) ∧ (n.ents.all fun e => e.units.isEmpty)

/-- A base and a size that UPOOL takes: 256-byte multiples that end at or below 0x1F_C000. -/
def PoolLegal (base size : Word) : Prop := base.toNat % 256 = 0 ∧ size.toNat % 256 = 0 ∧ base.toNat + size.toNat ≤ 0x1FC000

theorem Ni.usedUnits_isEmpty_iff (n : Ni) :
    (!n.usedUnits.isEmpty || n.unexp.any fun u => !u.units.isEmpty) = false ↔ n.PoolEmpty := by
  simp only [Ni.usedUnits, Ni.PoolEmpty, Bool.or_eq_false_iff, Bool.not_eq_false', List.isEmpty_iff, List.append_eq_nil_iff,
    List.flatMap_eq_nil_iff, List.any_eq_false, List.all_eq_true, Bool.not_eq_true', Bool.not_eq_false]
  tauto

theorem poolLegal_iff (base size : Word) :
    (decide (base.toNat % 256 ≠ 0) || decide (size.toNat % 256 ≠ 0) || decide (Config.saveArea < base.toNat + size.toNat)) = false ↔
      PoolLegal base size := by
  simp only [PoolLegal, Bool.or_eq_false_iff, decide_eq_false_iff_not, not_not, Nat.not_lt, and_assoc]
  rfl

/-- The register that a write of UPOOL's base or size names. -/
def poolCr (size : Bool) : Nat := if size then 0x019 else 0x018

/-- Base and size as a write would leave them. -/
def State.poolAfter (s : State) (size : Bool) (v : Word) : Word × Word := if size then (s.cr 0x018, v) else (v, s.cr 0x019)

section
variable {s : State} (hep : s.tile.ep < 0x400) (size : Bool) (v : Word)
include hep

theorem State.getNi_focus : s.getNi s.tile.ep = s.tile.ni := by rw [State.getNi_tile s hep, State.getTile, if_pos rfl]

/-- UPOOL's base or size is replaced while the pool is empty and the new range legal. -/
theorem State.writeUpool_legal (h : s.tile.ni.PoolEmpty) (hl : PoolLegal (s.poolAfter size v).1 (s.poolAfter size v).2) :
    s.writeUpool size v = s.setCr (poolCr size) v := by
  rw [State.writeUpool, State.getNi_focus hep, (Ni.usedUnits_isEmpty_iff _).2 h]
  cases size <;> exact (if_neg (Bool.eq_false_iff.1 ((poolLegal_iff _ _).2 hl)))

/-- Else it stays. -/
theorem State.writeUpool_illegal (h : ¬(s.tile.ni.PoolEmpty ∧ PoolLegal (s.poolAfter size v).1 (s.poolAfter size v).2)) :
    s.writeUpool size v = s := by
  rw [State.writeUpool, State.getNi_focus hep]
  by_cases hp : s.tile.ni.PoolEmpty
  · have hl := mt (poolLegal_iff _ _).1 fun hl => h ⟨hp, hl⟩
    rw [(Ni.usedUnits_isEmpty_iff _).2 hp]
    cases size <;> exact if_pos (Bool.not_eq_false _ |>.mp hl)
  · exact if_pos (Bool.not_eq_false _ |>.mp (mt (Ni.usedUnits_isEmpty_iff _).1 hp))

end

/-! ### Named barriers (R113) -/

/-- What a write of a barrier keeps of its operand: PHASE and TARGET in the high word, COUNT in the low 24 bits. -/
theorem toNat_barrierMask (v : Word) : (v &&& 0xFFFFFFFF00FFFFFF).toNat = v.toNat / 2 ^ 32 * 2 ^ 32 + v.toNat % 2 ^ 24 := by
  have hmask : ∀ i < 64, (0xFFFFFFFF00FFFFFF : Word).getLsbD i = (decide (i < 24) || decide (32 ≤ i)) := by decide
  have hparts : v &&& 0xFFFFFFFF00FFFFFF = v.extractLsb' 32 32 ++ 0#8 ++ v.extractLsb' 0 24 := by
    apply BitVec.eq_of_getLsbD_eq
    intro i hi
    rw [BitVec.getLsbD_and, hmask i hi]
    simp only [BitVec.getLsbD_append, BitVec.getLsbD_extractLsb']
    by_cases h1 : i < 24
    · simp [h1]
    · by_cases h2 : 32 ≤ i
      · simp [h1, h2, show ¬(i - 24 < 8) by omega, show i - 24 - 8 < 32 by omega, show 32 + (i - 24 - 8) = i by omega]
      · simp [h1, h2, show i - 24 < 8 by omega]
  have hv := v.isLt
  rw [hparts, BitVec.toNat_append, BitVec.toNat_append, ← Nat.shiftLeft_add_eq_or_of_lt (BitVec.isLt _),
    ← Nat.shiftLeft_add_eq_or_of_lt (BitVec.isLt _)]
  simp only [BitVec.extractLsb'_toNat, Nat.shiftLeft_eq, Nat.shiftRight_eq_div_pow, BitVec.toNat_ofNat, Nat.pow_zero, Nat.div_one]
  omega

/-- A barrier whose COUNT is below its TARGET completes no phase. -/
theorem nbSettle_below {v : Word} (h : v.toNat % 2 ^ 24 < v.toNat / 2 ^ 32 % 2 ^ 24) :
    nbSettle (v &&& 0xFFFFFFFF00FFFFFF) = v &&& 0xFFFFFFFF00FFFFFF := by
  have hhigh : v.toNat / 2 ^ 32 < 2 ^ 32 := by have := v.isLt; omega
  have hw := toNat_barrierMask v
  generalize v &&& 0xFFFFFFFF00FFFFFF = w at hw ⊢
  generalize v.toNat / 2 ^ 32 = high at h hhigh hw
  simp only [nbSettle, BitVec.extractLsb'_toNat, Nat.shiftRight_eq_div_pow, hw]
  have hcount : (high * 2 ^ 32 + v.toNat % 2 ^ 24) / 2 ^ 0 % 2 ^ 24 = v.toNat % 2 ^ 24 := by omega
  have htarget : (high * 2 ^ 32 + v.toNat % 2 ^ 24) / 2 ^ 32 % 2 ^ 24 = high % 2 ^ 24 := by omega
  have hphase : (high * 2 ^ 32 + v.toNat % 2 ^ 24) / 2 ^ 56 % 2 ^ 8 = high / 2 ^ 24 := by omega
  rw [hcount, htarget, hphase, if_neg (by omega), Nat.div_eq_of_lt h, Nat.mod_eq_of_lt h]
  apply BitVec.eq_of_toNat_eq
  rw [hw, BitVec.toNat_ofNat]
  omega

theorem Tile.writeNb_unbumped {t : Tile} {cycle k : Nat} (h : ∀ b ∈ t.ni.bumps, b.1 ≠ k) (f : Word → Word) :
    ∃ n, t.writeNb cycle k f = { t.setCr (0x080 + k) (nbSettle (f (t.unbumped cycle k))) with ni := n } := by
  have hnone : (t.ni.bumps.filter fun b => b.1 == k && b.2.1 == cycle) = [] := by
    rw [List.filter_eq_nil_iff]
    intro b hb
    simp [h b hb]
  rw [Tile.writeNb, hnone]
  exact ⟨_, rfl⟩

/-! ### Results that land (R74, R182, R248) -/

/-- The flags of several results together. -/
theorem getLsbD_foldl_or {α : Type} (l : List α) (g : α → BitVec 6) (f : BitVec 6) (j : Nat) :
    (l.foldl (fun f x => f ||| g x) f).getLsbD j = true ↔ f.getLsbD j = true ∨ ∃ x ∈ l, (g x).getLsbD j = true := by
  induction l generalizing f with
  | nil => simp
  | cons x l ih => simp [ih, or_assoc]

theorem Landing.live_iff (cycle : Nat) (all : List Landing) (l : Landing) :
    l.live cycle all = true ↔ cycle < l.ready ∨ ∃ k, ∃ m ∈ all, l.dest = .xa k ∧ m.dest = .xa k ∧ cycle < m.ready := by
  obtain ⟨dest, ready, flags⟩ := l
  cases dest <;> simp [Landing.live]

/-- The flags of the results whose bound has passed. -/
def State.dueFlags (s : State) : BitVec 6 :=
  (s.tile.thr.land.filter fun l => decide (l.ready ≤ s.cycle)).foldl (fun f l => f ||| l.flags) 0

theorem State.getLsbD_dueFlags (s : State) (j : Nat) :
    s.dueFlags.getLsbD j = true ↔ ∃ l ∈ s.tile.thr.land, l.ready ≤ s.cycle ∧ l.flags.getLsbD j = true := by
  rw [State.dueFlags, getLsbD_foldl_or]
  simp [and_assoc]

/-- Results land by raising FPFLAGS and leaving the list of those on their way. -/
theorem State.landResults_eq (s : State) : ∃ r, s.landResults =
      s.onThr (fun h => { h with regs := r, land := h.land.filter fun l => l.live s.cycle h.land }) ∧
    r.getC 0x032 = s.cr 0x032 ||| s.dueFlags.zeroExtend 64 ∧ RegsExcept [.cr 0x032] s.tile.thr.regs r := by
  by_cases h : s.dueFlags = 0
  · refine ⟨s.tile.thr.regs, ?_, ?_, RegsExcept.refl _ _⟩
    · rw [State.landResults]
      exact (congrArg (fun s1 : State => s1.onThr fun h => { h with land := h.land.filter fun l => l.live s.cycle h.land }) (if_pos h))
    · rw [h]
      exact (BitVec.or_zero (x := s.cr 0x032)).symm
  · refine ⟨s.tile.thr.regs.setC 0x032 (s.cr 0x032 ||| s.dueFlags.zeroExtend 64), ?_, Regs.getC_setC .., regsExcept_setC _ _ _⟩
    rw [State.landResults]
    exact (congrArg (fun s1 : State => s1.onThr fun h => { h with land := h.land.filter fun l => l.live s.cycle h.land }) (if_neg h))

/-! ### O16 -/

/-- A step that replaces one control register gives it and leaves the rest. -/
theorem gives_setCr {i : Instr} {s : State} {n : Nat} {x : Word} (h : exec i s = .next (s.setCr n x)) :
    Gives i s fun t => t.cr n = x ∧ OnlyRegs [.cr n] s t :=
  ⟨_, h, State.cr_setCr s n x, State.setCr_onlyRegs s n x⟩

/-- A barrier that this cycle has not bumped takes PHASE, TARGET and a COUNT below TARGET (R113). -/
theorem namedBarrierWrite_gives {s : State} {j : BitVec 6} {v : Word} (hb : ∀ b ∈ s.tile.ni.bumps, b.1 ≠ j.toNat)
    (hv : v.toNat % 2 ^ 24 < v.toNat / 2 ^ 32 % 2 ^ 24) :
    Gives (.namedBarrierWrite j v) s fun t => t.cr (0x080 + j.toNat) = v &&& 0xFFFFFFFF00FFFFFF ∧
      RegsExcept [.cr (0x080 + j.toNat)] s.tile.thr.regs t.tile.thr.regs ∧ ∀ a, byteAt t a = byteAt s a := by
  obtain ⟨n, hn⟩ := Tile.writeNb_unbumped (cycle := s.cycle) hb fun _ => v &&& 0xFFFFFFFF00FFFFFF
  rw [nbSettle_below hv] at hn
  refine ⟨_, exec_namedBarrierWrite j v s, ?_⟩
  rw [State.writeBarrier, State.onTile, hn]
  exact ⟨Regs.getC_setC .., regsExcept_setC _ _ _, fun _ => rfl⟩

/-- Exactly the results whose bound has passed land (log 77). -/
theorem resultLanding_gives (s : State) : Gives .resultLanding s fun t =>
    (∀ l, l ∈ t.tile.thr.land ↔ l ∈ s.tile.thr.land ∧
      (s.cycle < l.ready ∨ ∃ k, ∃ m ∈ s.tile.thr.land, l.dest = .xa k ∧ m.dest = .xa k ∧ s.cycle < m.ready)) ∧
    (∀ j < 64, (t.cr 0x032).getLsbD j = true ↔
      (s.cr 0x032).getLsbD j = true ∨ ∃ l ∈ s.tile.thr.land, l.ready ≤ s.cycle ∧ l.flags.getLsbD j = true) ∧
    RegsExcept [.cr 0x032] s.tile.thr.regs t.tile.thr.regs ∧ (∀ a, byteAt t a = byteAt s a) ∧ t.tile.thr.pc = s.tile.thr.pc := by
  obtain ⟨r, hland, hflags, hregs⟩ := s.landResults_eq
  refine ⟨s.landResults, rfl, ?_⟩
  rw [hland]
  refine ⟨fun l => ?_, fun j hj => ?_, hregs, fun _ => rfl, rfl⟩
  · simp only [State.onThr_tile_thr, List.mem_filter, Landing.live_iff]
  · show (r.getC 0x032).getLsbD j = true ↔ _
    rw [hflags, BitVec.getLsbD_or, Bool.or_eq_true, ← State.getLsbD_dueFlags, BitVec.zeroExtend, BitVec.getLsbD_setWidth]
    simp [hj]

/-- Settles O16: UPOOL by the state of the pool and the legality of the range, the other registers by their rules, and the landing of
results by whether flags have come. -/
theorem registerRulesAndLandings : Obligations.RegisterRulesAndLandings := by
  unfold Obligations.RegisterRulesAndLandings
  refine ⟨fun k j v s hep => ⟨fun hp hl => ?_, fun hp hl => ?_, fun h => ?_, fun h => ?_, namedBarrierWrite_gives, fun hk => ?_,
    gives_setCr rfl, gives_setCr rfl⟩, resultLanding_gives⟩
  · exact gives_setCr (congrArg _ (State.writeUpool_legal hep false v hp hl))
  · exact gives_setCr (congrArg _ (State.writeUpool_legal hep true v hp hl))
  · exact congrArg _ (State.writeUpool_illegal hep false v h)
  · exact congrArg _ (State.writeUpool_illegal hep true v h)
  · exact gives_setCr (congrArg _ (if_pos hk))

end Sys2Proof.Machine
end

section
/-!
Rounding once (R71, R73 to R75): `roundAt` rounds a magnitude to a whole number of units, the units being a power of two; such a multiple is
what the magnitude rounds to among the numbers of a format; and `roundMag` gives its code and flags.
-/
namespace Sys2Proof.Machine

open Sys2Proof.Safety

/-! ### To a whole number of units -/

/-- `n` is what the magnitude `y` of a value of sign `neg` rounds to under `rm`: nearest even, toward zero, or away from it (R73). -/
def RoundsNat (rm : Nat) (neg : Bool) (y : ℝ) (n : Nat) : Prop :=
  (rm = 0 → |(n : ℝ) - y| ≤ 1 / 2 ∧ (|(n : ℝ) - y| = 1 / 2 → Even n)) ∧
  (towardZero rm neg = true → (n : ℝ) ≤ y ∧ y < n + 1) ∧
  (rm ≠ 0 → towardZero rm neg = false → y ≤ n ∧ (n : ℝ) < y + 1)

/-- `q` stands for the magnitude `y`: exactly, or with something below one unit where `sticky`. -/
def Holds (q : Nat) (sticky : Bool) (y : ℝ) : Prop := if sticky then (q : ℝ) < y ∧ y < q + 1 else y = q

/-- Whether a magnitude is rounded up, by the direction of rounding (R73). -/
theorem roundUp_eq {rm : Nat} (hrm : rm < 4) (neg odd half rest : Bool) :
    roundUp rm neg odd half rest = if rm = 0 then half && (rest || odd) else !towardZero rm neg && (half || rest) := by
  interval_cases rm <;> cases neg <;> simp [roundUp, towardZero]

/-- Rounding `y` from its floor, its first dropped bit and the rest. -/
theorem roundUp_roundsNat {rm : Nat} (hrm : rm < 4) (neg : Bool) {k : Nat} {half rest : Bool} {y : ℝ} (hk : (k : ℝ) ≤ y) (hk1 : y < k + 1)
    (hhalf : half = true ↔ (k : ℝ) + 1 / 2 ≤ y) (hrest : rest = true ↔ y ≠ k ∧ y ≠ k + 1 / 2) :
    RoundsNat rm neg y (if roundUp rm neg (k.testBit 0) half rest then k + 1 else k) ∧
      ((half || rest) = true ↔ ((if roundUp rm neg (k.testBit 0) half rest then k + 1 else k : Nat) : ℝ) ≠ y) := by
  have hdropped : (half || rest) = true ↔ (k : ℝ) < y := by
    rw [Bool.or_eq_true, hhalf, hrest, hk.lt_iff_ne']
    refine ⟨fun h e => ?_, fun h => ?_⟩
    · rcases h with h | h
      · linarith
      · exact h.1 e
    · by_cases h2 : y = k + 1 / 2
      · exact .inl h2.ge
      · exact .inr ⟨h, h2⟩
  have hnearest : (half && (rest || k.testBit 0)) = true ↔ (k : ℝ) + 1 / 2 < y ∨ y = k + 1 / 2 ∧ ¬Even k := by
    have hodd : k.testBit 0 = true ↔ ¬Even k := by simp [Nat.testBit_zero, Nat.even_iff]
    rw [Bool.and_eq_true, Bool.or_eq_true, hhalf, hrest, hodd]
    constructor
    · rintro ⟨h, ⟨-, h2⟩ | h2⟩
      · exact .inl (lt_of_le_of_ne h (Ne.symm h2))
      · exact (lt_or_eq_of_le h).imp_right fun e => ⟨e.symm, h2⟩
    · rintro (h | ⟨h, h2⟩)
      · exact ⟨h.le, .inl ⟨by linarith, h.ne'⟩⟩
      · exact ⟨h.ge, .inr h2⟩
  have hup : ((half || rest) = true ↔ ((k + 1 : Nat) : ℝ) ≠ y) ↔ (k : ℝ) < y := by
    have : ((k + 1 : Nat) : ℝ) ≠ y := by push_cast; exact hk1.ne'
    rw [hdropped]
    tauto
  have hstay : (half || rest) = true ↔ (k : ℝ) ≠ y := hdropped.trans hk.lt_iff_ne
  rw [roundUp_eq hrm]
  by_cases hrm0 : rm = 0
  · subst hrm0
    simp only [if_true, RoundsNat, ne_eq, not_true_eq_false, false_implies, and_true, true_implies]
    have hno : towardZero 0 neg = false := by simp [towardZero]
    split
    case isTrue h =>
      rw [hnearest] at h
      have habs : |((k + 1 : Nat) : ℝ) - y| = k + 1 - y := by rw [abs_of_pos] <;> push_cast <;> linarith
      refine ⟨⟨⟨?_, fun e => ?_⟩, by simp [hno]⟩, hup.2 ?_⟩
      · rw [habs]
        rcases h with h | h <;> linarith
      · rw [habs] at e
        rcases h with h | ⟨-, h⟩
        · linarith
        · exact Nat.even_add_one.2 h
      · rcases h with h | h <;> linarith
    case isFalse h =>
      rw [hnearest, not_or, not_lt, not_and, not_not] at h
      have habs : |(k : ℝ) - y| = y - k := by rw [abs_sub_comm, abs_of_nonneg]; linarith
      refine ⟨⟨⟨?_, fun e => h.2 ?_⟩, by simp [hno]⟩, hstay⟩
      · rw [habs]; linarith
      · rw [habs] at e; linarith
  · simp only [hrm0, if_false, RoundsNat, false_implies, true_and, ne_eq, not_false_eq_true, true_implies]
    cases towardZero rm neg
    · simp only [Bool.not_false, Bool.true_and, Bool.false_eq_true, false_implies, true_and, true_implies]
      split
      case isTrue h =>
        rw [hdropped] at h
        exact ⟨by push_cast; constructor <;> linarith, hup.2 h⟩
      case isFalse h =>
        rw [hdropped, not_lt] at h
        exact ⟨by constructor <;> linarith, hstay⟩
    · simpa using ⟨⟨hk, hk1⟩, by simpa using hstay⟩

/-- `T` shifted down by `n` + 1 bits: its floor, the first dropped bit, and whether more is dropped. -/
theorem shift_splits {q : Nat} {sticky : Bool} {T : ℝ} (n : Nat) (hT : Holds q sticky T) :
    let k := q / 2 ^ (n + 1)
    let y := T / 2 ^ (n + 1)
    (k : ℝ) ≤ y ∧ y < k + 1 ∧ (q.testBit n = true ↔ (k : ℝ) + 1 / 2 ≤ y) ∧
      ((decide (q % 2 ^ n ≠ 0) || sticky) = true ↔ y ≠ k ∧ y ≠ k + 1 / 2) := by
  intro k y
  obtain ⟨d, hd, hd0, hd1, hds⟩ : ∃ d : ℝ, T = q + d ∧ 0 ≤ d ∧ d < 1 ∧ (sticky = true ↔ d ≠ 0) := by
    refine ⟨T - q, by ring, ?_⟩
    cases sticky
    · simp [show T = q from hT]
    · obtain ⟨h1, h2⟩ := hT
      exact ⟨by linarith, by linarith, by simpa using (sub_pos.2 h1).ne'⟩
  have hP : (0 : ℝ) < 2 ^ n := by positivity
  have hr : ((q % 2 ^ n : Nat) : ℝ) + 1 ≤ 2 ^ n := by exact_mod_cast Nat.mod_lt q (Nat.two_pow_pos n)
  have hq : (q : ℝ) = 2 ^ n * (2 * k + (q / 2 ^ n % 2 : Nat)) + (q % 2 ^ n : Nat) := by
    have h1 : q = 2 ^ n * (q / 2 ^ n) + q % 2 ^ n := (Nat.div_add_mod q (2 ^ n)).symm
    have h2 : q / 2 ^ n = 2 * k + q / 2 ^ n % 2 := by
      rw [show k = q / 2 ^ n / 2 by rw [Nat.div_div_eq_div_mul, ← Nat.pow_succ], Nat.div_add_mod]
    exact_mod_cast h2 ▸ h1
  have hy : y = k + ((q / 2 ^ n % 2 : Nat) : ℝ) / 2 + ((q % 2 ^ n : Nat) + d) / 2 ^ (n + 1) := by
    simp only [y, hd, hq]
    field_simp
    ring
  have hbit : q.testBit n = true ↔ q / 2 ^ n % 2 = 1 := by simp [Nat.testBit_eq_decide_div_mod_eq]
  have hr0 : (0 : ℝ) ≤ (q % 2 ^ n : Nat) := Nat.cast_nonneg _
  have hz0 : 0 ≤ ((q % 2 ^ n : Nat) + d) / 2 ^ (n + 1) := by positivity
  have hz1 : ((q % 2 ^ n : Nat) + d) / 2 ^ (n + 1) < 1 / 2 := by
    rw [div_lt_iff₀ (by positivity), pow_succ]
    linarith
  have hrest : (decide (q % 2 ^ n ≠ 0) || sticky) = true ↔ ((q % 2 ^ n : Nat) + d) / 2 ^ (n + 1) ≠ 0 := by
    have hsum : ((q % 2 ^ n : Nat) : ℝ) + d = 0 ↔ q % 2 ^ n = 0 ∧ d = 0 := by
      rw [add_eq_zero_iff_of_nonneg hr0 hd0, Nat.cast_eq_zero]
    rw [Bool.or_eq_true, decide_eq_true_eq, hds, div_ne_zero_iff, and_iff_left (by positivity), ne_eq (_ + _), hsum]
    tauto
  rw [hrest, hbit, hy]
  rcases Nat.mod_two_eq_zero_or_one (q / 2 ^ n) with hb | hb <;> rw [hb] <;> generalize ((q % 2 ^ n : Nat) + d) / 2 ^ (n + 1) = z at hz0 hz1
  · refine ⟨by norm_num; linarith, by norm_num; linarith, ⟨fun h => absurd h (by norm_num), fun h => ?_⟩, fun h => ⟨?_, ?_⟩, fun h e => h.1 ?_⟩
    · norm_num at h; linarith
    · simpa using h
    · intro e; norm_num at e; linarith
    · simp [e]
  · refine ⟨by norm_num; linarith, by norm_num; linarith, ⟨fun _ => by norm_num; linarith, fun _ => rfl⟩, fun h => ⟨?_, ?_⟩, fun h e => h.2 ?_⟩
    · intro e; norm_num at e; linarith
    · intro e; norm_num at e; exact h e
    · simp [e]

/-- What `roundAt` rounds to and whether it is inexact: `T` units of 2^x, in units of 2^l. -/
theorem roundAt_roundsNat {rm : Nat} (hrm : rm < 4) (neg : Bool) {q : Nat} {x l : Int} {sticky : Bool} {T : ℝ} (hT : Holds q sticky T)
    (hl : sticky = true → x < l) :
    RoundsNat rm neg (T * (2 : ℝ) ^ (x - l)) (roundAt rm neg q x l sticky).1 ∧
      ((roundAt rm neg q x l sticky).2 = true ↔ ((roundAt rm neg q x l sticky).1 : ℝ) ≠ T * (2 : ℝ) ^ (x - l)) := by
  by_cases hlx : l ≤ x
  · have hs : sticky = false := by
      cases sticky
      · rfl
      · exact absurd (hl rfl) (by omega)
    subst hs
    obtain ⟨n, hn⟩ : ∃ n : Nat, x - l = n := ⟨(x - l).toNat, by omega⟩
    have hy : T * (2 : ℝ) ^ (x - l) = (q * 2 ^ n : Nat) := by rw [show T = q from hT, hn, zpow_natCast]; push_cast; rfl
    have h := roundUp_roundsNat hrm neg (k := q * 2 ^ n) (half := false) (rest := false) (y := (q * 2 ^ n : Nat)) le_rfl (by linarith)
      (by simp) (by simp)
    simp only [roundAt, if_pos hlx, hn, Int.toNat_natCast] at hy ⊢
    rw [hy]
    exact h
  · obtain ⟨n, hn⟩ : ∃ n : Nat, x - l = -(n + 1 : Nat) := ⟨(l - x).toNat - 1, by omega⟩
    have hln : (l - x).toNat = n + 1 := by omega
    have hy : T * (2 : ℝ) ^ (x - l) = T / 2 ^ (n + 1) := by rw [hn, zpow_neg, zpow_natCast, ← div_eq_mul_inv]
    simp only [roundAt, if_neg hlx, hln, Nat.add_sub_cancel, hy]
    obtain ⟨hk, hk1, hhalf, hrest⟩ := shift_splits n hT
    exact roundUp_roundsNat hrm neg hk hk1 hhalf hrest

end Sys2Proof.Machine
end

section
/-!
Rounding among the numbers of a format (R71, R73): a magnitude rounded to units of the right size is nearest, below or above among all of
them.
-/
namespace Sys2Proof.Machine

open Sys2Proof.Safety

/-! ### Whole numbers are the candidates -/

section
variable {rm n : Nat} {neg : Bool} {y w : ℝ}

/-- No candidate `w`, a whole number or a smaller one than some whole number up to `y`, is nearer than the nearest. -/
theorem RoundsNat.nearest (h : RoundsNat 0 neg y n) (hw : (∃ j : ℤ, w = j) ∨ ∃ c : Nat, w < c ∧ (c : ℝ) ≤ y) :
    |(n : ℝ) - y| ≤ |w - y| ∧ (|w - y| = |(n : ℝ) - y| → w = n ∨ Even n) := by
  obtain ⟨hhalf, htie⟩ := h.1 rfl
  have hwhole (j : ℤ) : |(n : ℝ) - y| ≤ |(j : ℝ) - y| ∧ (|(j : ℝ) - y| = |(n : ℝ) - y| → (j : ℝ) = n ∨ Even n) := by
    by_cases hj : j = n
    · simp [hj]
    · have h1 : (1 : ℝ) ≤ |(j : ℝ) - n| := by exact_mod_cast Int.one_le_abs (sub_ne_zero.2 hj)
      have h2 : |(j : ℝ) - n| ≤ |(j : ℝ) - y| + |(n : ℝ) - y| := by
        rw [abs_sub_comm (n : ℝ) y]; exact abs_sub_le _ _ _
      exact ⟨by linarith, fun e => .inr (htie (by linarith))⟩
  rcases hw with ⟨j, rfl⟩ | ⟨c, hc, hcy⟩
  · exact hwhole j
  · have h1 := (hwhole c).1
    rw [Int.cast_natCast, abs_of_nonpos (a := (c : ℝ) - y) (by linarith)] at h1
    have h2 : |w - y| = y - w := by rw [abs_of_nonpos (by linarith)]; ring
    exact ⟨by linarith, fun e => by linarith⟩

/-- Toward zero, no candidate up to `y` is greater. -/
theorem RoundsNat.greatest_below (h : RoundsNat rm neg y n) (hz : towardZero rm neg = true)
    (hw : (∃ j : ℤ, w = j) ∨ ∃ c : Nat, w < c ∧ (c : ℝ) ≤ y) (hwy : w ≤ y) : w ≤ n := by
  have h1 := (h.2.1 hz).2
  have hwhole (j : ℤ) (hj : (j : ℝ) ≤ y) : (j : ℝ) ≤ n := by
    have : (j : ℝ) < (n + 1 : ℤ) := by push_cast; linarith
    exact_mod_cast Int.lt_add_one_iff.1 (by exact_mod_cast this)
  rcases hw with ⟨j, rfl⟩ | ⟨c, hc, hcy⟩
  · exact hwhole j hwy
  · exact hc.le.trans (by exact_mod_cast hwhole c (by exact_mod_cast hcy))

/-- Away from zero, no candidate from `y` on is less. -/
theorem RoundsNat.least_above (h : RoundsNat rm neg y n) (h0 : rm ≠ 0) (hz : towardZero rm neg = false)
    (hw : (∃ j : ℤ, w = j) ∨ ∃ c : Nat, w < c ∧ (c : ℝ) ≤ y) (hwy : y ≤ w) : n ≤ w := by
  have h1 := (h.2.2 h0 hz).2
  rcases hw with ⟨j, rfl⟩ | ⟨c, hc, hcy⟩
  · have : ((n : ℤ) : ℝ) < (j + 1 : ℤ) := by push_cast; linarith
    exact_mod_cast Int.lt_add_one_iff.1 (by exact_mod_cast this)
  · linarith

end

/-! ### Among the numbers of a format -/

/-- The sign of a value. -/
noncomputable def sgn (neg : Bool) : ℝ := if neg then -1 else 1

/-- A number of the format is a multiple of the unit, or lies below the magnitudes whose unit this is. -/
theorem Grid.multiple_or_small {f : Fmt} {low : Option ℤ} {l : ℤ} {y z : ℝ} (hy : (2 : ℝ) ^ f.mb ≤ y ∨ low = some l)
    (hz : Grid f low z) : (∃ j : ℤ, z / (2 : ℝ) ^ l = j) ∨ ∃ c : Nat, |z / (2 : ℝ) ^ l| < c ∧ (c : ℝ) ≤ y := by
  obtain ⟨m, k, hm, hk, rfl⟩ := hz
  have hdiv : (m : ℝ) * 2 ^ k / 2 ^ l = m * (2 : ℝ) ^ (k - l) := by rw [zpow_sub₀ two_ne_zero]; ring
  by_cases hkl : l ≤ k
  · refine .inl ⟨m * 2 ^ (k - l).toNat, ?_⟩
    rw [hdiv, show k - l = ((k - l).toNat : ℤ) by omega, zpow_natCast]
    push_cast [Int.toNat_natCast]
    rfl
  · right
    have hfull : (2 : ℝ) ^ f.mb ≤ y := hy.resolve_right fun h => hkl (hk l (by simp [h]))
    refine ⟨2 ^ f.mb, ?_, by push_cast; exact hfull⟩
    have hm' : |(m : ℝ)| < 2 ^ (f.mb + 1) := by exact_mod_cast hm
    have hp : (0 : ℝ) < 2 ^ (k - l) := by positivity
    have hp1 : (2 : ℝ) ^ (k - l) ≤ 1 / 2 := by
      rw [show (1 / 2 : ℝ) = 2 ^ (-1 : ℤ) by norm_num]
      exact zpow_le_zpow_right₀ one_le_two (by omega)
    rw [hdiv, abs_mul, abs_of_pos hp]
    push_cast
    calc |(m : ℝ)| * 2 ^ (k - l) < 2 ^ (f.mb + 1) * 2 ^ (k - l) := by gcongr
      _ ≤ 2 ^ (f.mb + 1) * (1 / 2) := by gcongr
      _ = 2 ^ f.mb := by ring

/-- A whole number of units is a number of the format. -/
theorem grid_units {f : Fmt} {low : Option ℤ} {l : ℤ} {n : Nat} (neg : Bool) (hlow : ∀ b ∈ low, b ≤ l) (hn : n ≤ 2 ^ (f.mb + 1)) :
    Grid f low (sgn neg * (n * (2 : ℝ) ^ l)) := by
  have hsgn : sgn neg = ((if neg then -1 else 1 : ℤ) : ℝ) := by cases neg <;> simp [sgn]
  have habs (m : ℤ) : |(if neg then -1 else 1) * m| = |m| := by cases neg <;> simp
  rcases Nat.lt_or_eq_of_le hn with h | h
  · refine ⟨(if neg then -1 else 1) * n, l, ?_, hlow, by rw [hsgn]; push_cast; ring⟩
    rw [habs, abs_of_nonneg (by positivity)]
    exact_mod_cast h
  · refine ⟨(if neg then -1 else 1) * 2 ^ f.mb, l + 1, ?_, fun b hb => (hlow b hb).trans (by omega), ?_⟩
    · rw [habs, abs_of_nonneg (by positivity)]
      exact pow_lt_pow_right₀ one_lt_two (by omega)
    · rw [hsgn, h, zpow_add₀ two_ne_zero]
      push_cast
      ring

/-- An even number of units has an even significand. -/
theorem gridEven_units {f : Fmt} (hmb : 1 ≤ f.mb) {low : Option ℤ} {l : ℤ} {n : Nat} (neg : Bool) (hlow : ∀ b ∈ low, b ≤ l)
    (hn : n ≤ 2 ^ (f.mb + 1)) (he : Even n) : GridEven f low (sgn neg * (n * (2 : ℝ) ^ l)) := by
  have hsgn : sgn neg = ((if neg then -1 else 1 : ℤ) : ℝ) := by cases neg <;> simp [sgn]
  have habs (m : ℤ) : |2 * ((if neg then -1 else 1) * m)| = |2 * m| := by cases neg <;> simp
  obtain ⟨j, hj⟩ := he
  rcases Nat.lt_or_eq_of_le hn with h | h
  · refine ⟨(if neg then -1 else 1) * j, l, ?_, hlow, by rw [hsgn, hj]; push_cast; ring⟩
    rw [habs, abs_of_nonneg (by positivity)]
    exact_mod_cast (by omega : 2 * j < 2 ^ (f.mb + 1))
  · obtain ⟨i, hi⟩ : ∃ i, f.mb = i + 1 := ⟨f.mb - 1, by omega⟩
    refine ⟨(if neg then -1 else 1) * 2 ^ i, l + 1, ?_, fun b hb => (hlow b hb).trans (by omega), ?_⟩
    · rw [habs, abs_of_nonneg (by positivity), ← pow_succ', ← hi]
      exact pow_lt_pow_right₀ one_lt_two (by omega)
    · rw [hsgn, h, hi, zpow_add₀ two_ne_zero]
      push_cast
      ring

/-- A magnitude rounded to a whole number of units is what it rounds to among all numbers that are multiples of the unit or lie below. -/
theorem RoundsNat.roundsIn_of {grid even : ℝ → Prop} {rm : Nat} {neg : Bool} {y u : ℝ} {n : Nat} (h : RoundsNat rm neg y n) (hy0 : 0 ≤ y)
    (hu : 0 < u) (hgrid : grid (sgn neg * (n * u))) (heven : Even n → even (sgn neg * (n * u)))
    (hcand : ∀ x, grid x → (∃ j : ℤ, x / u = j) ∨ ∃ c : Nat, |x / u| < c ∧ (c : ℝ) ≤ y) :
    RoundsIn grid even rm (sgn neg * (y * u)) (sgn neg * (n * u)) := by
  have hn0 : (0 : ℝ) ≤ n := Nat.cast_nonneg n
  refine ⟨hgrid, fun x hx => ?_⟩
  obtain ⟨w, rfl, hw⟩ : ∃ w, x = sgn neg * (w * u) ∧ ((∃ j : ℤ, w = j) ∨ ∃ c : Nat, w < c ∧ (c : ℝ) ≤ y) := by
    refine ⟨sgn neg * (x / u), by cases neg <;> simp [sgn, hu.ne'], ?_⟩
    refine (hcand x hx).imp (fun ⟨j, hj⟩ => ?_) fun ⟨c, hc, hcy⟩ => ⟨c, lt_of_le_of_lt ?_ hc, hcy⟩
    · exact ⟨if neg then -j else j, by cases neg <;> simp [sgn, hj]⟩
    · cases neg
      · simpa [sgn] using le_abs_self (x / u)
      · simpa [sgn] using neg_le_abs (x / u)
  have hdist (p q : ℝ) : |sgn neg * (p * u) - sgn neg * (q * u)| = |p - q| * u := by
    rw [← mul_sub, ← sub_mul, abs_mul, abs_mul, abs_of_pos hu]
    cases neg <;> simp [sgn]
  have hmag (p : ℝ) : |sgn neg * (p * u)| = |p| * u := by simpa using hdist p 0
  have hprod (p q : ℝ) : sgn neg * (p * u) * (sgn neg * (q * u)) = p * q * (u * u) := by cases neg <;> simp [sgn] <;> ring
  have hle (p q : ℝ) : sgn neg * (p * u) ≤ sgn neg * (q * u) ↔ if neg then q ≤ p else p ≤ q := by cases neg <;> simp [sgn, hu]
  refine ⟨?nearest, ?zero, ?down, ?up⟩
  case nearest =>
    rintro rfl
    obtain ⟨hnear, htie⟩ := h.nearest hw
    rw [hdist, hdist]
    exact ⟨mul_le_mul_of_nonneg_right hnear hu.le, fun e => (htie (mul_right_cancel₀ hu.ne' e)).imp (fun e => by rw [e]) heven⟩
  case zero =>
    rintro rfl
    have hny := (h.2.1 rfl).1
    rw [hprod, hprod, hmag, hmag, hmag, abs_of_nonneg hy0, abs_of_nonneg hn0]
    refine ⟨by positivity, by gcongr, fun hsign hwy => mul_le_mul_of_nonneg_right ?_ hu.le⟩
    have hwy : |w| ≤ y := le_of_mul_le_mul_right hwy hu
    rcases hy0.eq_or_lt with rfl | hy0
    · exact hwy.trans hn0
    · have hw0 : 0 ≤ w := nonneg_of_mul_nonneg_left (nonneg_of_mul_nonneg_left hsign (by positivity)) hy0
      rw [abs_of_nonneg hw0] at hwy ⊢
      exact h.greatest_below rfl hw hwy
  case down =>
    rintro rfl
    rw [hle, hle, hle]
    cases neg
    · exact ⟨(h.2.1 rfl).1, h.greatest_below rfl hw⟩
    · exact ⟨(h.2.2 (by decide) rfl).1, h.least_above (by decide) rfl hw⟩
  case up =>
    rintro rfl
    rw [hle, hle, hle]
    cases neg
    · exact ⟨(h.2.2 (by decide) rfl).1, h.least_above (by decide) rfl hw⟩
    · exact ⟨(h.2.1 rfl).1, h.greatest_below rfl hw⟩

/-- A magnitude rounded to a whole number of units of the right size is what it rounds to among the numbers of the format. -/
theorem RoundsNat.roundsIn {f : Fmt} (hmb : 1 ≤ f.mb) {rm : Nat} {low : Option ℤ} {l : ℤ} {neg : Bool} {y : ℝ} {n : Nat}
    (h : RoundsNat rm neg y n) (hy0 : 0 ≤ y) (hfull : (2 : ℝ) ^ f.mb ≤ y ∨ low = some l) (hlow : ∀ b ∈ low, b ≤ l)
    (hn : n ≤ 2 ^ (f.mb + 1)) :
    RoundsIn (Grid f low) (GridEven f low) rm (sgn neg * (y * (2 : ℝ) ^ l)) (sgn neg * (n * (2 : ℝ) ^ l)) :=
  h.roundsIn_of hy0 (by positivity) (grid_units neg hlow hn) (gridEven_units hmb neg hlow hn) fun _ hx => Grid.multiple_or_small hfull hx

end Sys2Proof.Machine
end

section
/-!
Codes and rounding to a format (R61 to R63, R71, R73 to R75): the magnitude of a code, which grows with it, and the one theorem that the
arithmetic rests on, that `roundMag` gives the code and the flags of the exact magnitude rounded once.
-/
namespace Sys2Proof.Machine

open Sys2Proof.Safety

/-! ### Formats -/

/-- The five formats of R61. -/
def Fmt.Std (f : Fmt) : Prop := f ∈ [Fmt.f32, .bf16, .f16, .e5m2, .e4m3]

theorem Fmt.std_f32 : Fmt.f32.Std := by simp [Fmt.Std]
theorem Fmt.std_bf16 : Fmt.bf16.Std := by simp [Fmt.Std]
theorem Fmt.std_e4m3 : Fmt.e4m3.Std := by simp [Fmt.Std]

theorem Fmt.std_iff {P : Fmt → Prop} : (∀ f : Fmt, f.Std → P f) ↔ P .f32 ∧ P .bf16 ∧ P .f16 ∧ P .e5m2 ∧ P .e4m3 := by
  simp [Fmt.Std]

theorem Fmt.Std.one_le_mb {f : Fmt} (hf : f.Std) : 1 ≤ f.mb := by
  revert f; rw [Fmt.std_iff]; decide

/-- The greatest finite code and the one above it are codes of the format. -/
theorem Fmt.Std.maxCode_lt {f : Fmt} (hf : f.Std) : f.maxCode + 1 < 2 ^ (f.eb + f.mb) := by
  revert f; rw [Fmt.std_iff]; decide

theorem Fmt.Std.infCode_eq {f : Fmt} (hf : f.Std) (neg : Bool) :
    f.infCode neg = if f = .e4m3 then 0x7F else (if neg then 2 ^ (f.eb + f.mb) else 0) + f.maxCode + 1 := by
  revert f neg; rw [Fmt.std_iff]; decide

theorem Fmt.sign_eq (f : Fmt) (neg : Bool) (c : Nat) : f.sign neg c = (if neg then 2 ^ (f.eb + f.mb) else 0) + c := by
  simp only [Fmt.sign, Fmt.width, Nat.add_assoc, Nat.add_sub_cancel_left]
  cases neg <;> simp

/-! ### Magnitudes of codes -/

/-- The magnitude of a code, were the exponent unlimited above (R62). -/
noncomputable def magReal (f : Fmt) (c : Nat) : ℝ :=
  if c / 2 ^ f.mb = 0 then c * (2 : ℝ) ^ f.ulp else (2 ^ f.mb + c % 2 ^ f.mb : Nat) * (2 : ℝ) ^ (f.ulp + (c / 2 ^ f.mb - 1 : Nat))

/-- A signed code stands for its signed magnitude. -/
theorem codeReal_sign (f : Fmt) (neg : Bool) {c : Nat} (hc : c < 2 ^ (f.eb + f.mb)) : codeReal f (f.sign neg c) = sgn neg * magReal f c := by
  have hexp : c / 2 ^ f.mb < 2 ^ f.eb := by rw [Nat.div_lt_iff_lt_mul (by positivity), ← Nat.pow_add]; exact hc
  have hneg : f.sign neg c / 2 ^ (f.eb + f.mb) % 2 = if neg then 1 else 0 := by
    rw [Fmt.sign_eq]
    cases neg
    · simp [Nat.div_eq_of_lt hc]
    · rw [if_pos rfl, Nat.add_div_left _ (by positivity), Nat.div_eq_of_lt hc]; rfl
  have hmant : f.sign neg c % 2 ^ f.mb = c % 2 ^ f.mb := by
    rw [Fmt.sign_eq]
    cases neg
    · simp
    · rw [if_pos rfl, Nat.pow_add, Nat.mul_add_mod_self_right]
  have he : f.sign neg c / 2 ^ f.mb % 2 ^ f.eb = c / 2 ^ f.mb := by
    rw [Fmt.sign_eq]
    cases neg
    · simp [Nat.mod_eq_of_lt hexp]
    · rw [if_pos rfl, Nat.pow_add, Nat.mul_comm, Nat.mul_add_div (by positivity), Nat.add_mod_left, Nat.mod_eq_of_lt hexp]
  simp only [codeReal, hneg, hmant, he, magReal, sgn]
  congr 1
  · cases neg <;> simp
  · by_cases h0 : c / 2 ^ f.mb = 0
    · have hlt : c < 2 ^ f.mb := by simpa using (Nat.div_eq_zero_iff.1 h0).resolve_left (by positivity)
      simp [h0, Nat.mod_eq_of_lt hlt, Fmt.ulp]
    · rw [if_neg h0, if_neg h0]
      push_cast [Nat.cast_sub (Nat.one_le_iff_ne_zero.2 h0)]
      congr 2
      simp only [Fmt.ulp]
      omega

/-- The code `j` binades up that a significand `n` makes, subnormal in the lowest binade, is `n` units. -/
theorem magReal_units (f : Fmt) {j n : Nat} (hn : n ≤ 2 ^ (f.mb + 1)) (hj : j = 0 ∨ 2 ^ f.mb ≤ n) :
    magReal f (j * 2 ^ f.mb + n) = n * (2 : ℝ) ^ (f.ulp + j) := by
  have hP := Nat.two_pow_pos f.mb
  rw [pow_succ] at hn
  have hdiv : (j * 2 ^ f.mb + n) / 2 ^ f.mb = j + n / 2 ^ f.mb := by rw [Nat.mul_comm, Nat.mul_add_div hP]
  have hmod : (j * 2 ^ f.mb + n) % 2 ^ f.mb = n % 2 ^ f.mb := by rw [Nat.mul_comm, Nat.mul_add_mod]
  rw [magReal, hdiv, hmod]
  rcases Nat.lt_or_ge n (2 ^ f.mb) with h | h
  · obtain rfl := hj.resolve_right (Nat.not_le.2 h)
    simp [Nat.div_eq_of_lt h]
  · rcases Nat.lt_or_eq_of_le hn with h2 | h2
    · have h1 : n / 2 ^ f.mb = 1 := Nat.div_eq_of_lt_le (by omega) (by omega)
      rw [h1, if_neg (by omega), Nat.add_sub_cancel, Nat.mod_eq_sub_mod h, Nat.mod_eq_of_lt (by omega), Nat.add_sub_cancel' h]
    · subst h2
      rw [Nat.mul_div_cancel_left _ hP, if_neg (by omega), Nat.mul_mod_right, show j + 2 - 1 = j + 1 by omega]
      push_cast
      rw [← add_assoc, zpow_add₀ two_ne_zero]
      ring

/-- Every code is some binades and a significand, subnormal only in the lowest binade. -/
theorem exists_units (f : Fmt) (c : Nat) : ∃ j n, c = j * 2 ^ f.mb + n ∧ n + 1 ≤ 2 ^ (f.mb + 1) ∧ (j = 0 ∨ 2 ^ f.mb ≤ n) := by
  have hP := Nat.two_pow_pos f.mb
  have h1 := Nat.mod_lt c hP
  have h2 := Nat.div_add_mod c (2 ^ f.mb)
  rcases Nat.eq_zero_or_pos (c / 2 ^ f.mb) with h0 | h0
  · exact ⟨0, c, by simp, by rw [h0] at h2; rw [pow_succ]; omega, .inl rfl⟩
  · obtain ⟨i, hi⟩ : ∃ i, c / 2 ^ f.mb = i + 1 := ⟨c / 2 ^ f.mb - 1, by omega⟩
    exact ⟨i, 2 ^ f.mb + c % 2 ^ f.mb, by rw [hi] at h2; linarith, by rw [pow_succ]; omega, .inr (by omega)⟩

/-- A greater code stands for a greater magnitude. -/
theorem magReal_strictMono (f : Fmt) : StrictMono (magReal f) := by
  refine strictMono_nat_of_lt_succ fun c => ?_
  obtain ⟨j, n, hc, hn, hj⟩ := exists_units f c
  rw [hc, Nat.add_assoc, magReal_units f (by omega) hj, magReal_units f hn (hj.imp_right fun h => by omega)]
  exact mul_lt_mul_of_pos_right (by exact_mod_cast Nat.lt_succ_self n) (by positivity)

/-! ### Rounding once -/

theorem RoundsNat.le {rm n c : Nat} {neg : Bool} {y : ℝ} (h : RoundsNat rm neg y n) (hy : y ≤ c) : n ≤ c := by
  have : (n : ℝ) < c + 1 := by
    by_cases h0 : rm = 0
    · linarith [le_abs_self ((n : ℝ) - y), (h.1 h0).1]
    · cases hz : towardZero rm neg
      · linarith [(h.2.2 h0 hz).2]
      · linarith [(h.2.1 hz).1]
  exact Nat.lt_succ_iff.1 (by exact_mod_cast this)

theorem RoundsNat.ge {rm n c : Nat} {neg : Bool} {y : ℝ} (h : RoundsNat rm neg y n) (hy : (c : ℝ) ≤ y) : c ≤ n := by
  have : (c : ℝ) < n + 1 := by
    by_cases h0 : rm = 0
    · linarith [neg_abs_le ((n : ℝ) - y), (h.1 h0).1]
    · cases hz : towardZero rm neg
      · linarith [(h.2.2 h0 hz).1]
      · linarith [(h.2.1 hz).2]
  exact Nat.lt_succ_iff.1 (by exact_mod_cast this)

/-- A positive magnitude lies in the binade of its leading digits. -/
theorem Holds.binade {q : Nat} {sticky : Bool} {T : ℝ} (hT : Holds q sticky T) (hq : q ≠ 0) :
    (2 : ℝ) ^ ((bitLen q : ℤ) - 1) ≤ T ∧ T < (2 : ℝ) ^ (bitLen q : ℤ) := by
  have hlen : bitLen q = q.log2 + 1 := if_neg hq
  have h1 : (2 : ℝ) ^ q.log2 ≤ q := by exact_mod_cast Nat.log2_self_le hq
  have h2 : (q : ℝ) + 1 ≤ 2 ^ (q.log2 + 1) := by exact_mod_cast Nat.lt_log2_self
  rw [hlen, show ((q.log2 + 1 : Nat) : ℤ) - 1 = q.log2 by push_cast; ring, zpow_natCast, zpow_natCast]
  cases sticky
  · rw [show T = q from hT]
    exact ⟨h1, by linarith⟩
  · exact ⟨h1.trans hT.1.le, hT.2.trans_le h2⟩

/-- A significand `w` of full precision in the binade of 2^e stays below 2^k unless the binade or a carry into the next reaches it. -/
theorem tiny_iff {m w : Nat} {e k : ℤ} (h0 : 2 ^ m ≤ w) (h1 : w ≤ 2 ^ (m + 1)) :
    (w : ℝ) * 2 ^ (e - m) < (2 : ℝ) ^ k ↔ e < k ∧ ¬(e = k - 1 ∧ w = 2 ^ (m + 1)) := by
  have hpow (j : ℤ) (i : Nat) : ((2 ^ i : Nat) : ℝ) * (2 : ℝ) ^ (j - i) = 2 ^ j := by
    rw [Nat.cast_pow, Nat.cast_ofNat, ← zpow_natCast, ← zpow_add₀ two_ne_zero, add_sub_cancel]
  have hp : (0 : ℝ) < 2 ^ (e - m) := by positivity
  have hlow : (2 : ℝ) ^ e ≤ w * 2 ^ (e - m) := by rw [← hpow e m]; gcongr
  have htop : ((2 ^ (m + 1) : Nat) : ℝ) * 2 ^ (e - m) = 2 ^ (e + 1) := by
    rw [← hpow (e + 1) (m + 1)]; push_cast; ring_nf
  rcases lt_trichotomy e (k - 1) with h | h | h
  · refine iff_of_true ?_ ⟨by omega, by omega⟩
    calc (w : ℝ) * 2 ^ (e - m) ≤ (2 ^ (m + 1) : Nat) * 2 ^ (e - m) := by gcongr
      _ = 2 ^ (e + 1) := htop
      _ < 2 ^ k := zpow_lt_zpow_right₀ one_lt_two (by omega)
  · rw [show k = e + 1 by omega, ← htop, mul_lt_mul_iff_left₀ hp, Nat.cast_lt]
    omega
  · refine iff_of_false (not_lt.2 (le_trans ?_ hlow)) (by omega)
    exact zpow_le_zpow_right₀ one_le_two (by omega)

/-- The code, with unlimited exponent above, and the flags of a positive magnitude that is rounded once (R71, R73, R74). -/
theorem roundCode_rounds {f : Fmt} (hmb : 1 ≤ f.mb) {rm : Nat} (hrm : rm < 4) (neg : Bool) {q : Nat} (x : Int) {sticky : Bool} {T : ℝ}
    (hT : Holds q sticky T) (hT0 : 0 < T) (hs : sticky = true → 2 ^ (f.mb + 1) ≤ q) :
    let c := roundCode f rm neg q x sticky
    let v := T * (2 : ℝ) ^ x
    RoundsIn (Grid f (some f.ulp)) (GridEven f (some f.ulp)) rm (sgn neg * v) (sgn neg * magReal f c.1) ∧
      ∃ w, 0 ≤ w ∧ RoundsIn (Grid f none) (GridEven f none) rm (sgn neg * v) (sgn neg * w) ∧
        c.2 = if magReal f c.1 = v then 0 else if w < (2 : ℝ) ^ (1 - f.bias : ℤ) then 0x03 else 0x01 := by
  intro c v
  have hq : q ≠ 0 := by
    rintro rfl
    cases sticky
    · simp [show T = _ from hT] at hT0
    · exact absurd (hs rfl) (by simp)
  have hlong : sticky = true → (f.mb : ℤ) + 2 ≤ bitLen q := fun h => by
    have := (Nat.le_log2 hq).2 (hs h)
    simp only [bitLen, if_neg hq]
    omega
  obtain ⟨hlo, hhi⟩ := hT.binade hq
  -- the exponent of the leading digit, and the units of the format
  obtain ⟨e, he⟩ : ∃ e : ℤ, e = (bitLen q : ℤ) - 1 + x := ⟨_, rfl⟩
  obtain ⟨l, hl⟩ : ∃ l : ℤ, l = if e - f.mb < f.ulp then f.ulp else e - f.mb := ⟨_, rfl⟩
  obtain ⟨hle, hlu, hl'⟩ : e - f.mb ≤ l ∧ f.ulp ≤ l ∧ (l = e - f.mb ∨ l = f.ulp) := by rw [hl]; split <;> omega
  have hscale (k : ℤ) : v = T * (2 : ℝ) ^ (x - k) * 2 ^ k := by
    rw [mul_assoc, ← zpow_add₀ two_ne_zero, sub_add_cancel]
  have hy0 (k : ℤ) : 0 ≤ T * (2 : ℝ) ^ (x - k) := by positivity
  have hfull : ((2 ^ f.mb : Nat) : ℝ) ≤ T * 2 ^ (x - (e - f.mb)) := by
    calc ((2 ^ f.mb : Nat) : ℝ) = 2 ^ ((bitLen q : ℤ) - 1) * (2 : ℝ) ^ (x - (e - f.mb)) := by
          rw [← zpow_add₀ two_ne_zero, show (bitLen q : ℤ) - 1 + (x - (e - f.mb)) = f.mb by omega]; simp
      _ ≤ _ := by gcongr
  have hlt {k : ℤ} (hk : e - f.mb ≤ k) : T * (2 : ℝ) ^ (x - k) ≤ (2 ^ (f.mb + 1) : Nat) := by
    calc T * (2 : ℝ) ^ (x - k) ≤ 2 ^ (bitLen q : ℤ) * (2 : ℝ) ^ (x - k) := by gcongr
      _ = 2 ^ ((bitLen q : ℤ) + (x - k)) := by rw [zpow_add₀ two_ne_zero]
      _ ≤ 2 ^ ((f.mb + 1 : Nat) : ℤ) := zpow_le_zpow_right₀ one_le_two (by push_cast; omega)
      _ = _ := by rw [zpow_natCast]; push_cast; rfl
  obtain ⟨hr, hrx⟩ := roundAt_roundsNat hrm neg (x := x) (l := l) hT fun h => by have := hlong h; omega
  obtain ⟨hw, -⟩ := roundAt_roundsNat hrm neg (x := x) (l := e - f.mb) hT fun h => by have := hlong h; omega
  have hcode : c = ((l - f.ulp).toNat * 2 ^ f.mb + (roundAt rm neg q x l sticky).1,
      if (roundAt rm neg q x l sticky).2 then
        (if decide (e < 1 - (f.bias : ℤ)) && !(decide (e = 1 - (f.bias : ℤ) - 1) && (roundAt rm neg q x (e - f.mb) sticky).1 == 2 ^ (f.mb + 1))
          then 0x03 else 0x01) else 0) := by
    simp only [c, roundCode, hq, decide_false, Bool.false_and, Bool.false_eq_true, if_false, ← he, ← hl]
    rfl
  generalize (roundAt rm neg q x l sticky).1 = n at hr hrx hcode
  generalize (roundAt rm neg q x l sticky).2 = inexact at hrx hcode
  generalize (roundAt rm neg q x (e - f.mb) sticky).1 = w at hw hcode
  have hn := hr.le (hlt hle)
  have hw1 := hw.le (hlt le_rfl)
  have hw0 := hw.ge hfull
  have hmag : magReal f c.1 = n * (2 : ℝ) ^ l := by
    rw [hcode, magReal_units f hn]
    · rw [show f.ulp + ((l - f.ulp).toNat : ℤ) = l by omega]
    · rcases hl' with h | h
      · exact .inr (hr.ge (h ▸ hfull))
      · exact .inl (by omega)
  rw [hmag]
  refine ⟨?_, w * (2 : ℝ) ^ (e - f.mb), by positivity, ?_, ?_⟩
  · rw [hscale l]
    refine hr.roundsIn hmb (hy0 l) ?_ (by simpa using hlu) hn
    rcases hl' with h | h
    · exact .inl (by rw [h]; exact_mod_cast hfull)
    · exact .inr (by rw [h])
  · rw [hscale (e - f.mb)]
    exact hw.roundsIn hmb (hy0 _) (.inl (by exact_mod_cast hfull)) (by simp) hw1
  · have hexact : (n : ℝ) * 2 ^ l = v ↔ inexact = false := by
      rw [hscale l, mul_left_inj' (by positivity), ← Bool.not_eq_true, hrx, not_not]
    have htiny : (decide (e < 1 - (f.bias : ℤ)) && !(decide (e = 1 - (f.bias : ℤ) - 1) && w == 2 ^ (f.mb + 1))) = true ↔
        (w : ℝ) * 2 ^ (e - f.mb) < 2 ^ (1 - f.bias : ℤ) := by
      rw [tiny_iff hw0 hw1, Bool.and_eq_true, Bool.not_eq_true', ← Bool.not_eq_true, Bool.and_eq_true, decide_eq_true_eq,
        decide_eq_true_eq, beq_iff_eq]
    rw [hcode]
    simp only [hexact, htiny]
    cases inexact <;> simp

/-- `roundMag` rounds a positive magnitude once: its code, with its sign, and its flags (R71, R73 to R75). -/
theorem roundMag_roundsTo {f : Fmt} (hf : f.Std) {rm : Nat} (hrm : rm < 4) (sat neg : Bool) {q : Nat} (x : Int) {sticky : Bool} {T : ℝ}
    (hT : Holds q sticky T) (hT0 : 0 < T) (hs : sticky = true → 2 ^ (f.mb + 1) ≤ q) :
    RoundsTo f rm sat (sgn neg * (T * (2 : ℝ) ^ x)) (roundMag f rm sat neg q x sticky) := by
  obtain ⟨hr, w, hw0, hw, hflags⟩ := roundCode_rounds hf.one_le_mb hrm neg x hT hT0 hs
  have hv : 0 < T * (2 : ℝ) ^ x := by positivity
  have hsign : sgn neg * (T * (2 : ℝ) ^ x) < 0 ↔ neg = true := by cases neg <;> simp [sgn, hv, hv.le]
  have hpos : 0 < sgn neg * (T * (2 : ℝ) ^ x) ↔ neg = false := by cases neg <;> simp [sgn, hv, hv.le]
  have habs (y : ℝ) (hy : 0 ≤ y) : |sgn neg * y| = y := by cases neg <;> simp [sgn, abs_of_nonneg hy]
  have hinj (y z : ℝ) : sgn neg * y = sgn neg * z ↔ y = z := by cases neg <;> simp [sgn]
  have hmax : codeReal f f.maxCode = magReal f f.maxCode := by
    simpa [sgn, Fmt.sign] using codeReal_sign f false (Nat.lt_of_succ_lt hf.maxCode_lt)
  generalize hc : roundCode f rm neg q x sticky = c at hr hflags
  have hr0 : 0 ≤ magReal f c.1 := by
    have : magReal f 0 = 0 := by simp [magReal]
    exact this ▸ (magReal_strictMono f).monotone (Nat.zero_le _)
  refine ⟨_, _, hr, hw, ?_⟩
  rw [habs _ hr0, habs _ hw0, hmax, (magReal_strictMono f).le_iff_le, (magReal_strictMono f).lt_iff_lt, roundMag, hc]
  simp only [hsign, hpos, hinj]
  refine ⟨fun hle => ?_, fun hlt => ?_⟩
  · have hlt : c.1 < 2 ^ (f.eb + f.mb) := by have := hf.maxCode_lt; omega
    rw [if_neg (by omega)]
    refine ⟨codeReal_sign f neg hlt, ?_, hflags⟩
    rw [Fmt.sign_eq]
    cases neg
    · simp [Nat.div_eq_of_lt hlt]
    · simp [Nat.add_div_left, Nat.div_eq_of_lt hlt]
  · rw [if_pos hlt]
    cases sat
    · have htoward : towardZero rm neg = true ↔ rm = 1 ∨ rm = 2 ∧ neg = false ∨ rm = 3 ∧ neg = true := by simp [towardZero, or_assoc]
      rw [Fmt.sign_eq, hf.infCode_eq]
      by_cases hz : towardZero rm neg = true
      · simp only [hz, htoward.1 hz, if_true, Bool.false_eq_true, if_false]
        rfl
      · simp only [hz, mt htoward.2 hz, if_false, Bool.false_eq_true]
        rfl
    · rw [Fmt.sign_eq]
      rfl

end Sys2Proof.Machine
end

section
/-!
Decoding (R61 to R64): what each code of a format decodes to, and the FP32 patterns.
-/
namespace Sys2Proof.Machine

open Sys2Proof.Safety

/-! ### Codes of a format -/

/-- Every code is a sign and a magnitude code. -/
theorem Fmt.sign_mod (f : Fmt) {c : Nat} (hc : c < 2 ^ (1 + f.eb + f.mb)) :
    c = f.sign (decide (2 ^ (f.eb + f.mb) ≤ c)) (c % 2 ^ (f.eb + f.mb)) := by
  have hc' : c < 2 ^ (f.eb + f.mb) * 2 := by rw [← pow_succ]; convert hc using 2; omega
  rw [Fmt.sign_eq]
  by_cases h : 2 ^ (f.eb + f.mb) ≤ c
  · simp only [h, decide_true, if_true]
    rw [Nat.mod_eq_sub_mod h, Nat.mod_eq_of_lt (by omega)]
    omega
  · simp only [h, decide_false, Bool.false_eq_true, if_false, Nat.zero_add]
    exact (Nat.mod_eq_of_lt (by omega)).symm

theorem Fmt.testBit_sign (f : Fmt) (n : Bool) {m : Nat} (hm : m < 2 ^ (f.eb + f.mb)) : (f.sign n m).testBit (f.width - 1) = n := by
  have hw : f.width - 1 = f.eb + f.mb := by simp only [Fmt.width]; omega
  rw [Fmt.sign_eq, hw, Nat.testBit_eq_decide_div_mod_eq]
  cases n
  · simp [Nat.div_eq_of_lt hm]
  · simp [Nat.add_div_left, Nat.div_eq_of_lt hm]

theorem Fmt.sign_mod_magnitude (f : Fmt) (n : Bool) {m : Nat} (hm : m < 2 ^ (f.eb + f.mb)) : f.sign n m % 2 ^ (f.width - 1) = m := by
  have hw : f.width - 1 = f.eb + f.mb := by simp only [Fmt.width]; omega
  rw [Fmt.sign_eq, hw]
  cases n
  · simp [Nat.mod_eq_of_lt hm]
  · simp [Nat.mod_eq_of_lt hm]

theorem Fmt.Std.infs_eq {f : Fmt} (hf : f.Std) : f.infs = decide (f ≠ .e4m3) := by
  revert f; rw [Fmt.std_iff]; decide

theorem Fmt.Std.maxCode_infs {f : Fmt} (hf : f.Std) (h : f.infs = true) : f.maxCode + 1 = (2 ^ f.eb - 1) * 2 ^ f.mb ∧ 1 ≤ f.eb := by
  revert f; rw [Fmt.std_iff]; decide

/-- No value of a format is finer than 2^-149. -/
theorem Fmt.Std.neg_149_le_ulp {f : Fmt} (hf : f.Std) : -149 ≤ f.ulp := by
  revert f; rw [Fmt.std_iff]; decide

/-- A finite code decodes to its sign and its magnitude in units of 2^-149. -/
theorem Fmt.decode_finite {f : Fmt} (hf : f.Std) (n : Bool) {m : Nat} (hm : m ≤ f.maxCode) :
    ∃ k : Nat, f.decode (f.sign n m) = .fin n k ∧ (k : ℝ) * (2 : ℝ) ^ (-149 : ℤ) = magReal f m := by
  have hlt : m < 2 ^ (f.eb + f.mb) := by have := hf.maxCode_lt; omega
  have hinf : (f.infs && m / 2 ^ f.mb == 2 ^ f.eb - 1) = false := by
    cases hi : f.infs
    · rfl
    · have : m / 2 ^ f.mb < 2 ^ f.eb - 1 := by
        rw [Nat.div_lt_iff_lt_mul (by positivity), ← (hf.maxCode_infs hi).1]; omega
      simpa using this.ne
  have hnan : (!f.infs && m == 0x7F) = false := by
    cases hi : f.infs
    · have he : f = .e4m3 := by simpa [hi] using hf.infs_eq
      have : m ≤ 0x7E := by rw [he] at hm; exact hm
      simpa using (show m ≠ 0x7F by omega)
    · rfl
  have hbase : ((149 + f.ulp).toNat : ℤ) = 149 + f.ulp := Int.toNat_of_nonneg (by have := hf.neg_149_le_ulp; omega)
  simp only [Fmt.decode, f.testBit_sign n hlt, f.sign_mod_magnitude n hlt, hinf, hnan, Bool.false_eq_true, if_false, magReal]
  by_cases h0 : m / 2 ^ f.mb = 0
  · have hs : m < 2 ^ f.mb := by simpa using (Nat.div_eq_zero_iff.1 h0).resolve_left (by positivity)
    refine ⟨_, if_pos h0, ?_⟩
    rw [if_pos h0, Nat.mod_eq_of_lt hs]
    push_cast
    rw [mul_assoc, ← zpow_natCast, ← zpow_add₀ two_ne_zero, hbase]
    congr 2
    omega
  · refine ⟨_, if_neg h0, ?_⟩
    rw [if_neg h0]
    rw [Nat.add_sub_assoc (Nat.one_le_iff_ne_zero.2 h0)]
    push_cast
    rw [mul_assoc, ← zpow_natCast (2 : ℝ) (_ + _), ← zpow_add₀ two_ne_zero, Nat.cast_add, hbase]
    congr 2
    omega

/-- The code above the finite ones decodes to an infinity, where the format has any. -/
theorem Fmt.decode_inf {f : Fmt} (hf : f.Std) (hi : f.infs = true) (n : Bool) : f.decode (f.sign n (f.maxCode + 1)) = .inf n := by
  obtain ⟨htop, -⟩ := hf.maxCode_infs hi
  simp only [Fmt.decode, f.testBit_sign n hf.maxCode_lt, f.sign_mod_magnitude n hf.maxCode_lt, hi]
  simp [htop]

/-- The others decode to NaN. -/
theorem Fmt.decode_nan {f : Fmt} (hf : f.Std) (n : Bool) {m : Nat} (hlt : m < 2 ^ (f.eb + f.mb))
    (hm : f.maxCode + 1 < m ∨ f = .e4m3 ∧ m = 0x7F) : f.decode (f.sign n m) = .nan := by
  simp only [Fmt.decode, f.testBit_sign n hlt, f.sign_mod_magnitude n hlt]
  cases hi : f.infs
  · have he : f = .e4m3 := by simpa [hi] using hf.infs_eq
    have : m = 0x7F := by
      rw [he] at hlt hm
      have : (2 : Nat) ^ (Fmt.e4m3.eb + Fmt.e4m3.mb) = 0x80 := rfl
      have : Fmt.e4m3.maxCode = 0x7E := rfl
      omega
    simp [this]
  · have hne : f ≠ .e4m3 := by simpa [hi] using hf.infs_eq
    have hgt := hm.resolve_right fun h => hne h.1
    obtain ⟨htop, heb⟩ := hf.maxCode_infs hi
    have he : m / 2 ^ f.mb = 2 ^ f.eb - 1 := by
      refine Nat.div_eq_of_lt_le (by omega) ?_
      rwa [Nat.sub_add_cancel (Nat.one_le_two_pow), ← Nat.pow_add]
    have hmod : m % 2 ^ f.mb ≠ 0 := by
      have := Nat.div_add_mod m (2 ^ f.mb)
      rw [he, Nat.mul_comm, ← htop] at this
      omega
    simp [he, hmod]

/-! ### FP32 patterns -/

theorem toNat_f32_sign (x : W32) : Fmt.f32.sign (x.getLsbD 31) (x.toNat % 2 ^ 31) = x.toNat := by
  have h := Fmt.f32.sign_mod (c := x.toNat) x.isLt
  have hn : decide (2 ^ (Fmt.f32.eb + Fmt.f32.mb) ≤ x.toNat) = x.getLsbD 31 := by
    have hx := x.isLt
    rw [BitVec.getLsbD, Nat.testBit_eq_decide_div_mod_eq, decide_eq_decide]
    show 2 ^ 31 ≤ x.toNat ↔ _
    omega
  rw [hn] at h
  exact h.symm

theorem fpReal_eq (x : W32) : fpReal x = sgn (x.getLsbD 31) * magReal .f32 (x.toNat % 2 ^ 31) := by
  have hc : x.toNat % 2 ^ 31 < 2 ^ (Fmt.f32.eb + Fmt.f32.mb) := Nat.mod_lt _ (by decide)
  rw [← codeReal_sign _ _ hc, toNat_f32_sign, fpReal]

/-- A finite pattern decodes to its sign and a magnitude in units of 2^-149, which is its number. -/
theorem f32_finite {x : W32} (h : FiniteFp x) :
    ∃ k : Nat, f32 x = .fin (x.getLsbD 31) k ∧ fpReal x = sgn (x.getLsbD 31) * (k * (2 : ℝ) ^ (-149 : ℤ)) := by
  have hm : x.toNat % 2 ^ 31 ≤ Fmt.f32.maxCode := by
    have : x.toNat / 2 ^ 23 % 256 ≠ 255 := h
    have hx := x.isLt
    show x.toNat % 2 ^ 31 ≤ 255 * 2 ^ 23 - 1
    omega
  obtain ⟨k, hk, hv⟩ := Fmt.decode_finite Fmt.std_f32 (x.getLsbD 31) hm
  exact ⟨k, by rw [f32, ← toNat_f32_sign x]; exact hk, by rw [fpReal_eq, hv]⟩

/-- An infinite pattern. -/
theorem f32_inf {x : W32} (h : x.toNat % 2 ^ 31 = 0x7F800000) : f32 x = .inf (x.getLsbD 31) := by
  rw [f32, ← toNat_f32_sign x, h]
  exact Fmt.decode_inf Fmt.std_f32 rfl _

/-- A NaN pattern. -/
theorem f32_nan {x : W32} (h : x.toNat / 2 ^ 23 % 256 = 255 ∧ x.toNat % 2 ^ 23 ≠ 0) : f32 x = .nan := by
  rw [f32, ← toNat_f32_sign x]
  refine Fmt.decode_nan Fmt.std_f32 _ (Nat.mod_lt _ (by decide)) (.inl ?_)
  show 255 * 2 ^ 23 < x.toNat % 2 ^ 31
  omega

/-- Every pattern is finite, infinite or a NaN. -/
theorem f32_cases (x : W32) : FiniteFp x ∨ x.toNat % 2 ^ 31 = 0x7F800000 ∨ (x.toNat / 2 ^ 23 % 256 = 255 ∧ x.toNat % 2 ^ 23 ≠ 0) := by
  unfold FiniteFp
  omega

theorem f32_isNan_iff (x : W32) : (f32 x).isNan = true ↔ x.toNat / 2 ^ 23 % 256 = 255 ∧ x.toNat % 2 ^ 23 ≠ 0 := by
  refine ⟨fun h => ?_, fun h => by rw [f32_nan h]; rfl⟩
  rcases f32_cases x with hx | hx | hx
  · obtain ⟨k, hk, -⟩ := f32_finite hx
    rw [hk] at h
    exact absurd h (by simp [FVal.isNan])
  · rw [f32_inf hx] at h
    exact absurd h (by simp [FVal.isNan])
  · exact hx

/-- The magnitude of a finite pattern vanishes with its magnitude code. -/
theorem f32_fin_zero_iff {x : W32} {n : Bool} {k : Nat} (h : f32 x = .fin n k) : k = 0 ↔ x.toNat % 2 ^ 31 = 0 := by
  have hx : FiniteFp x := by
    rcases f32_cases x with hx | hx | hx
    · exact hx
    · rw [f32_inf hx] at h; exact nomatch h
    · rw [f32_nan hx] at h; exact nomatch h
  obtain ⟨k', hk', hv⟩ := f32_finite hx
  rw [h] at hk'
  obtain ⟨-, rfl⟩ := FVal.fin.inj hk'
  have h0 : magReal .f32 0 = 0 := by simp [magReal]
  have hs : sgn (x.getLsbD 31) ≠ 0 := by cases x.getLsbD 31 <;> simp [sgn]
  rw [fpReal_eq, mul_right_inj' hs] at hv
  rw [← (magReal_strictMono .f32).injective.eq_iff (a := x.toNat % 2 ^ 31), h0, hv, mul_eq_zero, or_iff_left (by positivity),
    Nat.cast_eq_zero]

end Sys2Proof.Machine
end

section
/-!
The arithmetic on finite operands (R62, R73, R75, R215, R217, R233): each operation computes the exact number, which `roundMag` rounds once.
-/
namespace Sys2Proof.Machine

open Sys2Proof.Safety

/-! ### Rounded patterns -/

theorem sgn_ne_zero (n : Bool) : sgn n ≠ 0 := by cases n <;> simp [sgn]

theorem sgn_xor (s t : Bool) : sgn (s != t) = sgn s * sgn t := by cases s <;> cases t <;> simp [sgn]

theorem int_fin (n : Bool) (k : Nat) : ((FVal.fin n k).int : ℝ) = sgn n * k := by cases n <;> simp [FVal.int, sgn]

/-- A rounded result is a code of its format. -/
theorem roundMag_lt {f : Fmt} (hf : f.Std) (rm : Nat) (sat neg : Bool) (q : Nat) (x : Int) (sticky : Bool) :
    (roundMag f rm sat neg q x sticky).1 < 2 ^ (1 + f.eb + f.mb) := by
  have hmax := hf.maxCode_lt
  have htop : 2 ^ (1 + f.eb + f.mb) = 2 ^ (f.eb + f.mb) + 2 ^ (f.eb + f.mb) := by rw [Nat.add_assoc, Nat.pow_add]; omega
  have hsign {c : Nat} (hc : c ≤ f.maxCode) : f.sign neg c < 2 ^ (1 + f.eb + f.mb) := by
    rw [Fmt.sign_eq, htop]
    cases neg <;> simp <;> omega
  have hinf : f.infCode neg < 2 ^ (1 + f.eb + f.mb) := by
    rw [hf.infCode_eq, htop]
    split
    · next he => subst he; decide
    · cases neg <;> simp <;> omega
  rw [roundMag]
  split
  · split
    · exact hsign le_rfl
    · split
      · exact hsign le_rfl
      · exact hinf
  · exact hsign (by omega)

/-- The zero of a sign, without a flag. -/
def zero32 (n : Bool) : W32 × BitVec 6 := (if n then 0x80000000 else 0, 0)

theorem roundMag_zero (f : Fmt) (rm : Nat) (sat neg : Bool) (x : Int) : roundMag f rm sat neg 0 x false = (f.sign neg 0, 0) := by
  simp [roundMag, roundCode]

theorem pack_sign_zero (neg : Bool) : pack32 (Fmt.f32.sign neg 0, 0) = zero32 neg := by cases neg <;> rfl

section
variable {rm : Nat} (hrm : rm < 4)
include hrm

/-- A positive magnitude that is rounded once to FP32. -/
theorem pack_roundMag_sticky (neg : Bool) {q : Nat} (x : Int) {sticky : Bool} {T : ℝ} (hT : Holds q sticky T) (hT0 : 0 < T)
    (hs : sticky = true → 2 ^ 24 ≤ q) :
    RoundsFp rm (sgn neg * (T * (2 : ℝ) ^ x)) (pack32 (roundMag .f32 rm false neg q x sticky)) := by
  have h := roundMag_roundsTo Fmt.std_f32 hrm false neg x hT hT0 hs
  rw [RoundsFp, pack32, BitVec.toNat_ofNat, Nat.mod_eq_of_lt (show _ < 2 ^ 32 from roundMag_lt Fmt.std_f32 ..)]
  exact h

/-- An exact magnitude: rounded once, or a zero of its sign. -/
theorem pack_roundMag (neg : Bool) (q : Nat) (x : Int) :
    if q = 0 then pack32 (roundMag .f32 rm false neg q x false) = zero32 neg
    else RoundsFp rm (sgn neg * (q * (2 : ℝ) ^ x)) (pack32 (roundMag .f32 rm false neg q x false)) := by
  split
  · next h => rw [h, roundMag_zero, pack_sign_zero]
  · next h => exact pack_roundMag_sticky hrm neg x rfl (by positivity) (by simp)

/-- An exact signed number: rounded once, or a zero of the given sign. -/
theorem pack_roundInt (v : ℤ) (x : Int) (z : Bool) :
    if v = 0 then pack32 (roundInt .f32 rm v x z) = zero32 z
    else RoundsFp rm (v * (2 : ℝ) ^ x) (pack32 (roundInt .f32 rm v x z)) := by
  split
  · next h => rw [roundInt, if_pos h, pack_sign_zero]
  · next h =>
    have hv : (v : ℝ) * (2 : ℝ) ^ x = sgn (decide (v < 0)) * (v.natAbs * (2 : ℝ) ^ x) := by
      rw [← mul_assoc]
      congr 1
      rcases lt_or_gt_of_ne h with h | h
      · rw [Nat.cast_natAbs, abs_of_neg h, decide_eq_true h]; simp [sgn]
      · rw [Nat.cast_natAbs, abs_of_pos h, decide_eq_false (by omega)]; simp [sgn]
    rw [roundInt, if_neg h, hv]
    exact pack_roundMag_sticky hrm _ x rfl (by positivity) (by simp)

/-! ### Sum, difference and product -/

theorem addVal_fin (s t : Bool) (m n : Nat) :
    let v := (FVal.fin s m).int + (FVal.fin t n).int
    if v = 0 then addVal rm (.fin s m) (.fin t n) = zero32 (zeroSign rm s t)
    else RoundsFp rm (v * (2 : ℝ) ^ (-149 : ℤ)) (addVal rm (.fin s m) (.fin t n)) := pack_roundInt hrm _ _ _

theorem fpFma_fin (s t u : Bool) (m n k : Nat) :
    let v : ℝ := sgn s * m * (sgn t * n) * (2 : ℝ) ^ (-298 : ℤ) + sgn u * k * (2 : ℝ) ^ (-149 : ℤ)
    if v = 0 then fpFma rm (.fin s m) (.fin t n) (.fin u k) = zero32 (zeroSign rm (s != t) u)
    else RoundsFp rm v (fpFma rm (.fin s m) (.fin t n) (.fin u k)) := by
  intro v
  let i : ℤ := (if s != t then -((m * n : Nat) : Int) else ((m * n : Nat) : Int)) + (FVal.fin u k).int * 2 ^ 149
  have hv : v = i * (2 : ℝ) ^ (-298 : ℤ) := by
    have hp : (2 : ℝ) ^ (-149 : ℤ) = 2 ^ 149 * 2 ^ (-298 : ℤ) := by rw [← zpow_natCast (2 : ℝ), ← zpow_add₀ two_ne_zero]; rfl
    have hprod : ((if s != t then -((m * n : Nat) : Int) else ((m * n : Nat) : Int) : ℤ) : ℝ) = sgn s * m * (sgn t * n) := by
      cases s <;> cases t <;> simp [sgn]
    simp only [v, i, Int.cast_add, hprod, Int.cast_mul, int_fin, hp, Int.cast_pow, Int.cast_ofNat]
    rw [add_mul, mul_assoc (sgn u * k)]
  have hz : v = 0 ↔ i = 0 := by rw [hv, mul_eq_zero, or_iff_left (by positivity), Int.cast_eq_zero]
  simp only [hz]
  rw [hv]
  exact pack_roundInt hrm i (-298) _

end

end Sys2Proof.Machine
end

section
/-!
Quotients and roots (R215, R233): digits beyond those that are kept stand behind the sticky bit.
-/
namespace Sys2Proof.Machine

open Sys2Proof.Safety

/-! ### Quotients -/

/-- A quotient of whole numbers, and whether a remainder is left. -/
theorem holds_div (a : Nat) {b : Nat} (hb : b ≠ 0) : Holds (a / b) (decide (a % b ≠ 0)) ((a : ℝ) / b) := by
  have hb' : (0 : ℝ) < b := by positivity
  have h := Nat.div_add_mod a b
  unfold Holds
  split
  · next hr =>
    rw [decide_eq_true_eq] at hr
    rw [lt_div_iff₀ hb', div_lt_iff₀ hb']
    have hlt := Nat.mod_lt a (Nat.pos_of_ne_zero hb)
    constructor
    · exact_mod_cast (by rw [Nat.mul_comm]; omega : a / b * b < a)
    · exact_mod_cast (by rw [Nat.add_mul, Nat.mul_comm]; omega : a < (a / b + 1) * b)
  · next hr =>
    have hr : a % b = 0 := by simpa using hr
    rw [Nat.cast_div (Nat.dvd_of_mod_eq_zero hr) hb'.ne']

/-- The magnitude of an FP32 value is below 2^128. -/
theorem f32_mag_lt {x : W32} {n : Bool} {k : Nat} (h : f32 x = .fin n k) : k < 2 ^ 277 := by
  have hx : FiniteFp x := by
    rcases f32_cases x with hx | hx | hx
    · exact hx
    · rw [f32_inf hx] at h; exact nomatch h
    · rw [f32_nan hx] at h; exact nomatch h
  obtain ⟨k', hk', hv⟩ := f32_finite hx
  rw [h] at hk'
  obtain ⟨-, rfl⟩ := FVal.fin.inj hk'
  rw [fpReal_eq, mul_right_inj' (sgn_ne_zero _)] at hv
  have hmag : magReal .f32 (x.toNat % 2 ^ 31) < magReal .f32 (254 * 2 ^ 23 + 2 ^ 23) := by
    refine magReal_strictMono .f32 ?_
    have : x.toNat / 2 ^ 23 % 256 ≠ 255 := hx
    omega
  have htop : magReal .f32 (254 * 2 ^ 23 + 2 ^ 23) = 2 ^ 277 * (2 : ℝ) ^ (-149 : ℤ) := by
    have hu : Fmt.f32.ulp + (254 : Nat) = 105 := by decide
    rw [show (2 : Nat) ^ 23 = 2 ^ Fmt.f32.mb from rfl, magReal_units .f32 (by decide) (by decide), hu]
    push_cast
    rw [← zpow_natCast, ← zpow_natCast (2 : ℝ) 277, ← zpow_add₀ two_ne_zero, ← zpow_add₀ two_ne_zero]
    rfl
  rw [hv, htop, mul_lt_mul_iff_left₀ (by positivity)] at hmag
  exact_mod_cast hmag

section
variable {rm : Nat} {x y : W32} {s t : Bool} {m n : Nat} (hx : f32 x = .fin s m) (hy : f32 y = .fin t n)
include hx hy

/-- The quotient of finite operands keeps 600 fraction bits (R215). -/
theorem fpDiv_fin : fpDiv rm x y =
    if n = 0 then (if m = 0 then (nan32, flNV) else (BitVec.ofNat 32 (Fmt.f32.infCode (s != t)), flDZ))
    else pack32 (roundMag .f32 rm false (s != t) (m * 2 ^ 600 / n) (-600) (decide (m * 2 ^ 600 % n ≠ 0))) := by
  simp only [fpDiv, hx, hy]

theorem fpDiv_rounds (hrm : rm < 4) (hn : n ≠ 0) :
    if m = 0 then fpDiv rm x y = zero32 (s != t)
    else RoundsFp rm (sgn s * m / (sgn t * n)) (fpDiv rm x y) := by
  rw [fpDiv_fin hx hy, if_neg hn]
  split
  · next hm => rw [hm, Nat.zero_mul, Nat.zero_div, Nat.zero_mod, decide_eq_false (by simp), roundMag_zero, pack_sign_zero]
  · next hm =>
    have hbig : 2 ^ 24 * 2 ^ 277 ≤ 2 ^ 600 := by rw [← Nat.pow_add]; exact Nat.pow_le_pow_right (by decide) (by decide)
    have hscale : ((2 ^ 600 : Nat) : ℝ) * (2 : ℝ) ^ (-600 : ℤ) = 1 := by
      rw [Nat.cast_pow, Nat.cast_ofNat, ← zpow_natCast (2 : ℝ), ← zpow_add₀ two_ne_zero]; rfl
    have hD0 : 0 < 2 ^ 600 := Nat.two_pow_pos 600
    generalize 2 ^ 600 = D at hbig hscale hD0 ⊢
    have hlong : 2 ^ 24 ≤ m * D / n := by
      rw [Nat.le_div_iff_mul_le (Nat.pos_of_ne_zero hn)]
      calc 2 ^ 24 * n ≤ 2 ^ 24 * 2 ^ 277 := Nat.mul_le_mul_left _ (f32_mag_lt hy).le
        _ ≤ 1 * D := by rw [Nat.one_mul]; exact hbig
        _ ≤ m * D := Nat.mul_le_mul_right _ (Nat.one_le_iff_ne_zero.2 hm)
    have hv : sgn s * m / (sgn t * n) = sgn (s != t) * (((m * D : Nat) : ℝ) / n * (2 : ℝ) ^ (-600 : ℤ)) := by
      have ht : (sgn t)⁻¹ = sgn t := by cases t <;> simp [sgn]
      calc sgn s * m / (sgn t * n) = sgn s * sgn t * (m / n) * 1 := by rw [div_eq_mul_inv, mul_inv, ht]; ring
        _ = _ := by rw [← hscale, sgn_xor, Nat.cast_mul]; ring
    rw [hv]
    exact pack_roundMag_sticky hrm _ _ (holds_div _ hn) (by positivity) fun _ => hlong

end

/-! ### Integer square roots -/

theorem isqrtGo_spec (n i r : Nat) (h0 : r * r ≤ n) (h1 : n < (r + 2 ^ i) * (r + 2 ^ i)) :
    isqrtGo n i r * isqrtGo n i r ≤ n ∧ n < (isqrtGo n i r + 1) * (isqrtGo n i r + 1) := by
  induction i generalizing r with
  | zero => simpa [isqrtGo] using ⟨h0, h1⟩
  | succ i ih =>
    rw [isqrtGo]
    split
    · next hc => exact ih _ hc (by rw [pow_succ] at h1; convert h1 using 2 <;> ring)
    · next hc => exact ih _ h0 (Nat.not_le.1 hc)

/-- The integer square root is the whole part of the root. -/
theorem isqrt_spec (n : Nat) : isqrt n * isqrt n ≤ n ∧ n < (isqrt n + 1) * (isqrt n + 1) := by
  refine isqrtGo_spec n _ 0 (by simp) ?_
  have hlen : n < 2 ^ bitLen n := by
    unfold bitLen
    split
    · next h => simp [h]
    · exact Nat.lt_log2_self
  rw [Nat.zero_add, ← Nat.pow_add]
  exact hlen.trans_le (Nat.pow_le_pow_right (by decide) (by omega))

/-- The integer part of the root of a real number, and whether more is left. -/
theorem holds_sqrt {r : Nat} {y : ℝ} (h0 : (r : ℝ) * r ≤ y) (h1 : y < (r + 1) * (r + 1)) {sticky : Bool} (hs : sticky = true ↔ (r : ℝ) * r ≠ y) :
    Holds r sticky (Real.sqrt y) := by
  have hr : (0 : ℝ) ≤ r := Nat.cast_nonneg r
  have hy : 0 ≤ y := (mul_self_nonneg _).trans h0
  cases sticky
  · have : (r : ℝ) * r = y := by simpa using hs
    rw [← this, Real.sqrt_mul_self hr]
    rfl
  · have hne := hs.1 rfl
    refine ⟨?_, ?_⟩
    · rw [Real.lt_sqrt hr, sq]
      exact lt_of_le_of_ne h0 hne
    · rw [Real.sqrt_lt' (by positivity), sq]
      exact h1

section
variable {rm : Nat} (hrm : rm < 4) {x : W32} {m : Nat} (hx : f32 x = .fin false m) (hm : m ≠ 0)
include hrm hx hm

/-- The square root of a positive number (R215). -/
theorem fpSqrt_rounds : RoundsFp rm (Real.sqrt (m * (2 : ℝ) ^ (-149 : ℤ))) (fpSqrt rm x) := by
  obtain ⟨h0, h1⟩ := isqrt_spec (m * 2 ^ 101)
  have hT := holds_sqrt (y := ((m * 2 ^ 101 : Nat) : ℝ)) (by exact_mod_cast h0) (by exact_mod_cast h1)
    (sticky := decide (isqrt (m * 2 ^ 101) * isqrt (m * 2 ^ 101) ≠ m * 2 ^ 101)) (by rw [decide_eq_true_eq]; norm_cast)
  have hlong : 2 ^ 24 ≤ isqrt (m * 2 ^ 101) := by
    by_contra h
    have h2 : (isqrt (m * 2 ^ 101) + 1) * (isqrt (m * 2 ^ 101) + 1) ≤ 2 ^ 24 * 2 ^ 24 := Nat.mul_le_mul (by omega) (by omega)
    omega
  have hv : Real.sqrt (m * (2 : ℝ) ^ (-149 : ℤ)) = sgn false * (Real.sqrt ((m * 2 ^ 101 : Nat) : ℝ) * (2 : ℝ) ^ (-125 : ℤ)) := by
    have h2 : (2 : ℝ) ^ (-149 : ℤ) = 2 ^ 101 * (2 ^ (-125 : ℤ) * 2 ^ (-125 : ℤ)) := by
      rw [← zpow_natCast (2 : ℝ), ← zpow_add₀ two_ne_zero, ← zpow_add₀ two_ne_zero]; rfl
    rw [h2, ← mul_assoc, Real.sqrt_mul (by positivity), Real.sqrt_mul_self (by positivity), Nat.cast_mul, Nat.cast_pow, Nat.cast_ofNat]
    exact (one_mul _).symm
  rw [hv, fpSqrt, hx]
  simp only [hm, if_false, Bool.false_eq_true]
  exact pack_roundMag_sticky hrm false _ hT (by positivity) fun _ => hlong

/-- The reciprocal root of a positive number (R233). -/
theorem fpRsq_rounds : RoundsFp rm (1 / Real.sqrt (m * (2 : ℝ) ^ (-149 : ℤ))) (fpRsq rm x) := by
  have hm0 : (0 : ℝ) < m := by positivity
  rw [fpRsq, hx]
  simp only [hm, if_false, Bool.false_eq_true]
  have hbig : 2 ^ 24 * 2 ^ 24 * 2 ^ 277 ≤ 2 ^ 1349 := by
    rw [← Nat.pow_add, ← Nat.pow_add]; exact Nat.pow_le_pow_right (by decide) (by decide)
  have hscale : (1 : ℝ) / (2 : ℝ) ^ (-149 : ℤ) = ((2 ^ 1349 : Nat) : ℝ) * (2 ^ (-600 : ℤ) * 2 ^ (-600 : ℤ)) := by
    rw [Nat.cast_pow, Nat.cast_ofNat, ← zpow_natCast (2 : ℝ), ← zpow_add₀ two_ne_zero, ← zpow_add₀ two_ne_zero, one_div, ← zpow_neg]
    rfl
  have hD0 : 0 < 2 ^ 1349 := Nat.two_pow_pos 1349
  generalize 2 ^ 1349 = D at hbig hscale hD0 ⊢
  obtain ⟨h0, h1⟩ := isqrt_spec (D / m)
  rw [Nat.le_div_iff_mul_le (Nat.pos_of_ne_zero hm)] at h0
  rw [Nat.div_lt_iff_lt_mul (Nat.pos_of_ne_zero hm)] at h1
  generalize isqrt (D / m) = r at h0 h1 ⊢
  have hT : Holds r (decide (r * r * m ≠ D)) (Real.sqrt ((D : ℝ) / m)) := by
    refine holds_sqrt ?_ ?_ ?_
    · rw [le_div_iff₀ hm0]; exact_mod_cast h0
    · rw [div_lt_iff₀ hm0]; exact_mod_cast h1
    · rw [decide_eq_true_eq, ne_eq, ne_eq, eq_div_iff hm0.ne']; norm_cast
  have hlong : 2 ^ 24 ≤ r := by
    by_contra h
    have h2 : (r + 1) * (r + 1) * m ≤ 2 ^ 24 * 2 ^ 24 * 2 ^ 277 :=
      Nat.mul_le_mul (Nat.mul_le_mul (by omega) (by omega)) (f32_mag_lt hx).le
    exact absurd (h2.trans hbig) (Nat.not_le.2 h1)
  have hv : 1 / Real.sqrt (m * (2 : ℝ) ^ (-149 : ℤ)) = sgn false * (Real.sqrt ((D : ℝ) / m) * (2 : ℝ) ^ (-600 : ℤ)) := by
    have h2 : (1 : ℝ) / (m * (2 : ℝ) ^ (-149 : ℤ)) = (D : ℝ) / m * (2 ^ (-600 : ℤ) * 2 ^ (-600 : ℤ)) := by
      rw [mul_comm (m : ℝ), ← div_div, hscale]
      ring
    rw [← Real.sqrt_one, ← Real.sqrt_div zero_le_one, h2, Real.sqrt_mul (by positivity), Real.sqrt_mul_self (by positivity)]
    exact (one_mul _).symm
  rw [hv]
  exact pack_roundMag_sticky hrm false _ hT (by positivity) fun _ => hlong

end

end Sys2Proof.Machine
end

section
/-!
Scalar arithmetic on all operands (R62 to R64, R73, R75, R215 to R217, R233), and the proof of O6.
-/
namespace Sys2Proof.Machine

open Sys2Proof.Safety

/-! ### Conversions (R75, R217, R238) -/

/-- A finite value narrowed to a format: rounded once, or a zero of its sign. -/
theorem narrow_fin {f : Fmt} (hf : f.Std) {rm : Nat} (hrm : rm < 4) (sat s : Bool) (m : Nat) :
    if m = 0 then narrow f rm sat (.fin s m) = (if s then 2 ^ (f.eb + f.mb) else 0, 0)
    else RoundsTo f rm (sat && decide (f.eb + f.mb = 7)) (sgn s * (m * (2 : ℝ) ^ (-149 : ℤ))) (narrow f rm sat (.fin s m)) := by
  have hw : decide (f.width = 8) = decide (f.eb + f.mb = 7) := by
    rw [decide_eq_decide, Fmt.width]; omega
  rw [narrow, hw]
  split
  · next h => rw [h, roundMag_zero, Fmt.sign_eq, Nat.add_zero]
  · next h => exact roundMag_roundsTo hf hrm _ s _ rfl (by positivity) (by simp)

/-- Conversion to an integer: the value rounded to a whole number, clamped to the range (R217). -/
theorem fpToInt_fin {rm : Nat} (hrm : rm < 4) (s : Bool) (m : Nat) (lo hi : ℤ) :
    let a : ℝ := sgn s * (m * (2 : ℝ) ^ (-149 : ℤ))
    ∃ n : ℤ, RoundsIn (fun r => ∃ k : ℤ, r = k) (fun r => ∃ k : ℤ, r = 2 * k) rm a n ∧
      fpToInt rm lo hi (.fin s m) =
        if n < lo then (lo, 0x10) else if hi < n then (hi, 0x10) else (n, if (n : ℝ) = a then 0 else 0x01) := by
  intro a
  obtain ⟨hr, hrx⟩ := roundAt_roundsNat hrm s (x := -149) (l := 0) (q := m) (sticky := false) (T := m) rfl (by simp)
  rw [sub_zero] at hr hrx
  have hfp : fpToInt rm lo hi (.fin s m) =
      (fun r : Int × Bool => if r.1 < lo then (lo, 0x10) else if hi < r.1 then (hi, 0x10) else (r.1, if r.2 then 0x01 else 0))
        (toInt rm s m) := rfl
  rw [hfp, toInt]
  generalize roundAt rm s m (-149) 0 false = r at hr hrx
  have hval : ((if s then -(r.1 : Int) else r.1 : ℤ) : ℝ) = sgn s * (r.1 * 1) := by cases s <;> simp [sgn]
  have ha : a = sgn s * (m * (2 : ℝ) ^ (-149 : ℤ) * 1) := by rw [mul_one]
  refine ⟨if s then -(r.1 : Int) else r.1, ?_, ?_⟩
  · rw [hval, ha]
    refine hr.roundsIn_of (by positivity) one_pos ⟨if s then -(r.1 : Int) else r.1, hval.symm⟩ (fun he => ?_) ?_
    · obtain ⟨j, hj⟩ := he
      refine ⟨if s then -j else j, ?_⟩
      rw [hj]
      cases s <;> simp [sgn] <;> ring
    · rintro _ ⟨k, rfl⟩
      exact .inl ⟨k, div_one _⟩
  · have hexact : ((if s then -(r.1 : Int) else r.1 : ℤ) : ℝ) = a ↔ r.2 = false := by
      rw [hval, ha, mul_right_inj' (sgn_ne_zero s), mul_one, mul_one, ← Bool.not_eq_true, hrx, not_not]
    simp only [hexact]
    cases r.2 <;> rfl

/-- A number of the format is what it rounds to. -/
theorem RoundsTo.exact {f : Fmt} {sat : Bool} {v : ℝ} {res : Nat × BitVec 6} (h : RoundsTo f 0 sat v res) (hv : Grid f (some f.ulp) v)
    (hmax : |v| ≤ codeReal f f.maxCode) :
    codeReal f res.1 = v ∧ res.1 / 2 ^ (f.eb + f.mb) = (if v < 0 then 2 ^ (f.eb + f.mb) else 0) / 2 ^ (f.eb + f.mb) := by
  obtain ⟨r, w, ⟨-, hr⟩, -, hle, -⟩ := h
  have hrv : r = v := by
    have := ((hr v hv).1 rfl).1
    rw [sub_self, abs_zero] at this
    exact sub_eq_zero.1 (abs_eq_zero.1 (le_antisymm this (abs_nonneg _)))
  subst hrv
  obtain ⟨hcode, hsign, -⟩ := hle hmax
  exact ⟨hcode, hsign⟩

/-- No format reaches beyond FP32, and none has a longer significand. -/
theorem Fmt.Std.within_f32 {f : Fmt} (hf : f.Std) : f.mb ≤ 23 ∧ magReal f f.maxCode ≤ codeReal .f32 Fmt.f32.maxCode := by
  revert f
  rw [Fmt.std_iff]
  norm_num [magReal, codeReal, Fmt.f32, Fmt.bf16, Fmt.f16, Fmt.e5m2, Fmt.e4m3, Fmt.maxCode, Fmt.topCode, Fmt.ulp]

theorem magReal_zero (f : Fmt) : magReal f 0 = 0 := by simp [magReal]

theorem magReal_nonneg (f : Fmt) (c : Nat) : 0 ≤ magReal f c := magReal_zero f ▸ (magReal_strictMono f).monotone (Nat.zero_le c)

theorem getLsbD_31 (x : W32) : x.getLsbD 31 = decide (x.toNat / 2 ^ 31 = 1) := by
  rw [BitVec.getLsbD, Nat.testBit_eq_decide_div_mod_eq, decide_eq_decide]
  have := x.isLt
  omega

theorem sgn_mul_neg_iff (n : Bool) {y : ℝ} (hy : 0 < y) : sgn n * y < 0 ↔ n = true := by cases n <;> simp [sgn, hy, hy.le]

theorem sgn_mul_pos_iff (n : Bool) {y : ℝ} (hy : 0 < y) : 0 < sgn n * y ↔ n = false := by cases n <;> simp [sgn, hy, hy.le]

theorem fpReal_zero32 (n : Bool) : fpReal (zero32 n).1 = 0 ∧ (zero32 n).1.getLsbD 31 = n := by
  rw [fpReal_eq]
  cases n <;> simp [zero32, magReal_zero]

/-- Widening to FP32 is exact (R75). -/
theorem widen_finite {f : Fmt} (hf : f.Std) (n : Bool) {m : Nat} (hm : m ≤ f.maxCode) :
    fpReal (widen f (f.sign n m)) = sgn n * magReal f m ∧ (widen f (f.sign n m)).getLsbD 31 = n := by
  obtain ⟨k, hk, hv⟩ := Fmt.decode_finite hf n hm
  have hw : widen f (f.sign n m) = (pack32 (roundMag .f32 0 false n k (-149) false)).1 := by rw [widen, hk]
  have hround := pack_roundMag (rm := 0) (by decide) n k (-149)
  rw [hw, ← hv]
  split at hround
  · next h0 =>
    rw [hround, h0, Nat.cast_zero, zero_mul, mul_zero]
    exact fpReal_zero32 n
  · next h0 =>
    have hgrid : Grid .f32 (some Fmt.f32.ulp) (sgn n * (k * (2 : ℝ) ^ (-149 : ℤ))) := by
      obtain ⟨j, i, hc, hi, hj⟩ := exists_units f m
      rw [hv, hc, magReal_units f (by omega) hj]
      refine grid_units n (fun b hb => ?_) ?_
      · obtain rfl : Fmt.f32.ulp = b := by simpa using hb
        have := hf.neg_149_le_ulp
        show (-149 : ℤ) ≤ _
        omega
      · exact (by omega : i ≤ 2 ^ (f.mb + 1)).trans (Nat.pow_le_pow_right (by decide) (Nat.succ_le_succ hf.within_f32.1))
    have hk0 : 0 < (k : ℝ) * (2 : ℝ) ^ (-149 : ℤ) := by positivity
    have habs : |sgn n * (k * (2 : ℝ) ^ (-149 : ℤ))| = magReal f m := by
      rw [← hv, abs_mul, abs_of_pos hk0]; cases n <;> simp [sgn]
    obtain ⟨hcode, hsign⟩ := RoundsTo.exact hround hgrid (habs ▸ ((magReal_strictMono f).monotone hm).trans hf.within_f32.2)
    refine ⟨hcode, ?_⟩
    rw [getLsbD_31, show _ / 2 ^ 31 = _ from hsign]
    simp only [sgn_mul_neg_iff n hk0]
    cases n <;> rfl

end Sys2Proof.Machine
end

section
/-!
The operations on finite FP32 patterns by the numbers that they stand for (R215, R217, R233).
-/
namespace Sys2Proof.Machine

open Sys2Proof.Safety

/-- The number of a sign and a magnitude in units of 2^-149. -/
noncomputable def finReal (s : Bool) (m : Nat) : ℝ := sgn s * (m * (2 : ℝ) ^ (-149 : ℤ))

theorem exists_finReal {x : W32} (h : FiniteFp x) : ∃ m, f32 x = .fin (x.getLsbD 31) m ∧ fpReal x = finReal (x.getLsbD 31) m := f32_finite h

theorem finReal_eq_zero (s : Bool) (m : Nat) : finReal s m = 0 ↔ m = 0 := by
  rw [finReal, mul_eq_zero, or_iff_right (sgn_ne_zero s), mul_eq_zero, or_iff_left (by positivity), Nat.cast_eq_zero]

theorem finReal_int (s : Bool) (m : Nat) : finReal s m = (FVal.fin s m).int * (2 : ℝ) ^ (-149 : ℤ) := by rw [int_fin, finReal, mul_assoc]

theorem finReal_not (s : Bool) (m : Nat) : finReal (!s) m = -finReal s m := by cases s <;> simp [finReal, sgn]

theorem two_zpow_double : (2 : ℝ) ^ (-149 : ℤ) * 2 ^ (-149 : ℤ) = 2 ^ (-298 : ℤ) := by rw [← zpow_add₀ two_ne_zero]; rfl

section
variable {rm : Nat} (hrm : rm < 4) (s t u : Bool) (m n k : Nat)
include hrm

theorem addVal_real :
    if finReal s m + finReal t n = 0 then addVal rm (.fin s m) (.fin t n) = zero32 (zeroSign rm s t)
    else RoundsFp rm (finReal s m + finReal t n) (addVal rm (.fin s m) (.fin t n)) := by
  have hv : finReal s m + finReal t n = ((FVal.fin s m).int + (FVal.fin t n).int : ℤ) * (2 : ℝ) ^ (-149 : ℤ) := by
    rw [finReal_int, finReal_int, Int.cast_add, add_mul]
  have hz : finReal s m + finReal t n = 0 ↔ (FVal.fin s m).int + (FVal.fin t n).int = 0 := by
    rw [hv, mul_eq_zero, or_iff_left (by positivity), Int.cast_eq_zero]
  simp only [hz]
  rw [hv]
  exact addVal_fin hrm s t m n

theorem roundMag_mul_real :
    if finReal s m * finReal t n = 0 then pack32 (roundMag .f32 rm false (s != t) (m * n) (-298) false) = zero32 (s != t)
    else RoundsFp rm (finReal s m * finReal t n) (pack32 (roundMag .f32 rm false (s != t) (m * n) (-298) false)) := by
  have hv : finReal s m * finReal t n = sgn (s != t) * ((m * n : Nat) * (2 : ℝ) ^ (-298 : ℤ)) := by
    rw [finReal, finReal, sgn_xor, ← two_zpow_double, Nat.cast_mul]; ring
  have hz : finReal s m * finReal t n = 0 ↔ m * n = 0 := by rw [mul_eq_zero, finReal_eq_zero, finReal_eq_zero, Nat.mul_eq_zero]
  simp only [hz]
  rw [hv]
  exact pack_roundMag hrm _ _ _

theorem fpFma_real :
    if finReal s m * finReal t n + finReal u k = 0 then fpFma rm (.fin s m) (.fin t n) (.fin u k) = zero32 (zeroSign rm (s != t) u)
    else RoundsFp rm (finReal s m * finReal t n + finReal u k) (fpFma rm (.fin s m) (.fin t n) (.fin u k)) := by
  have hv : finReal s m * finReal t n + finReal u k =
      sgn s * m * (sgn t * n) * (2 : ℝ) ^ (-298 : ℤ) + sgn u * k * (2 : ℝ) ^ (-149 : ℤ) := by
    rw [finReal, finReal, finReal, ← two_zpow_double]; ring
  rw [hv]
  exact fpFma_fin hrm s t u m n k

omit hrm in
/-- A quotient of numbers in equal units. -/
theorem finReal_div : finReal s m / finReal t n = sgn s * m / (sgn t * n) := by
  rw [finReal, finReal, ← mul_assoc, ← mul_assoc, mul_div_mul_right _ _ (by positivity)]

theorem intToFp_rounds (v : ℤ) : if v = 0 then intToFp rm v = zero32 false else RoundsFp rm v (intToFp rm v) := by
  have h := pack_roundInt hrm v 0 false
  rw [zpow_zero, mul_one] at h
  exact h

end

/-! ### Reciprocals -/

theorem f32_one : f32 0x3F800000 = .fin false (2 ^ 149) := by decide

theorem finReal_one : finReal false (2 ^ 149) = 1 := by
  rw [finReal, Nat.cast_pow, Nat.cast_ofNat, ← zpow_natCast (2 : ℝ), ← zpow_add₀ two_ne_zero]; simp [sgn]

theorem fpRcp_rounds {rm : Nat} (hrm : rm < 4) {x : W32} {t : Bool} {n : Nat} (hx : f32 x = .fin t n) (hn : n ≠ 0) :
    RoundsFp rm (1 / finReal t n) (fpRcp rm x) := by
  have h := fpDiv_rounds f32_one hx hrm hn
  rw [if_neg (by positivity), ← finReal_div, finReal_one] at h
  exact h

/-! ### Powers of two (R233) -/

/-- A power of two below every FP32 number rounds as any other such power. -/
theorem roundMag_one_low {rm : Nat} (x : ℤ) (hx : x ≤ -1000) :
    roundMag .f32 rm false false 1 x false = ((if roundUp rm false false false true then 1 else 0), 3) := by
  obtain ⟨d, rfl⟩ : ∃ d : Nat, x = -(151 + d : Nat) := ⟨(-151 - x).toNat, by omega⟩
  have hl : ((Fmt.f32.ulp - -((151 + d : Nat) : ℤ)).toNat) = d + 2 := by simp only [show Fmt.f32.ulp = -149 from rfl]; omega
  have hkeep : roundAt rm false 1 (-(151 + d : Nat)) Fmt.f32.ulp false = ((if roundUp rm false false false true then 1 else 0), true) := by
    have h2 : 1 < 2 ^ (d + 2 - 1) := Nat.one_lt_two_pow (by omega)
    have h3 : 1 < 2 ^ (d + 2) := Nat.one_lt_two_pow (by omega)
    rw [roundAt, if_neg (by simp only [show Fmt.f32.ulp = -149 from rfl]; omega), hl]
    simp [Nat.div_eq_of_lt h3, show Nat.testBit 1 (d + 1) = false from Nat.testBit_lt_two_pow h2]
  have hfull : (roundAt rm false 1 (-(151 + d : Nat)) (-(151 + d : Nat) - 23) false).1 = 2 ^ 23 := by
    have : roundUp rm false ((2 ^ 23 : Nat).testBit 0) false false = false := by
      unfold roundUp; split <;> rfl
    rw [roundAt, if_pos (by omega), sub_sub_cancel]
    simpa using this
  have hcode : roundCode .f32 rm false 1 (-(151 + d : Nat)) false = ((if roundUp rm false false false true then 1 else 0), 3) := by
    have he : ((bitLen 1 : Nat) : ℤ) - 1 + -((151 + d : Nat) : ℤ) = -(151 + d : Nat) := by rw [show bitLen 1 = 1 from rfl]; simp
    have hm : ((Fmt.f32.mb : Nat) : ℤ) = 23 := rfl
    have hlow : 1 - ((Fmt.f32.bias : Nat) : ℤ) = -126 := rfl
    simp only [roundCode, he, hm, hlow]
    rw [if_pos (show -((151 + d : Nat) : ℤ) - 23 < Fmt.f32.ulp by simp only [show Fmt.f32.ulp = -149 from rfl]; omega), hkeep, hfull]
    rw [decide_eq_true (show -((151 + d : Nat) : ℤ) < -126 by omega)]
    simp [show Fmt.f32.mb = 23 from rfl]
    rfl
  rw [roundMag, hcode]
  cases roundUp rm false false false true <;> rfl

/-- Every power of two above the FP32 numbers overflows alike. -/
theorem roundMag_one_high {rm : Nat} (x : ℤ) (hx : 128 ≤ x) :
    roundMag .f32 rm false false 1 x false = roundMag .f32 rm false false 1 128 false := by
  have hcode (y : ℤ) (hy : 128 ≤ y) : Fmt.f32.maxCode < (roundCode .f32 rm false 1 y false).1 := by
    have hm : ((Fmt.f32.mb : Nat) : ℤ) = 23 := rfl
    have hulp : Fmt.f32.ulp = -149 := rfl
    have he : ((bitLen 1 : Nat) : ℤ) - 1 + y = y := by rw [show bitLen 1 = 1 from rfl]; simp
    obtain ⟨d, rfl⟩ : ∃ d : Nat, y = (128 + d : Nat) := ⟨(y - 128).toNat, by omega⟩
    have hkeep : 2 ^ 23 ≤ (roundAt rm false 1 (128 + d : Nat) ((128 + d : Nat) - 23) false).1 := by
      rw [roundAt, if_pos (by omega), sub_sub_cancel]
      show 2 ^ 23 ≤ if _ then _ else _
      split <;> simp
    simp only [roundCode, he, hm, hulp]
    rw [if_neg (show ¬ ((128 + d : Nat) : ℤ) - 23 < -149 by omega),
      show (((128 + d : Nat) : ℤ) - 23 - -149).toNat = 254 + d by omega]
    show 255 * 2 ^ 23 - 1 < (254 + d) * 2 ^ 23 + _
    omega
  simp only [roundMag, if_pos (hcode x hx), if_pos (hcode 128 le_rfl)]

/-- The exponents that the model keeps tell every FP32 result. -/
theorem roundMag_one_clamp {rm : Nat} (i : ℤ) :
    roundMag .f32 rm false false 1 (if i < -1000 then -1000 else if 1000 < i then 1000 else i) false = roundMag .f32 rm false false 1 i false := by
  split
  · next h => rw [roundMag_one_low _ le_rfl, roundMag_one_low i (by omega)]
  · split
    · next h => rw [roundMag_one_high 1000 (by decide), roundMag_one_high i (by omega)]
    · rfl

/-- `VEXP2` of an integer is exact (R233). -/
theorem fpExp2_int {rm : Nat} (hrm : rm < 4) {x : W32} {s : Bool} {m : Nat} (hx : f32 x = .fin s m) {n : ℤ} (hn : finReal s m = n) :
    RoundsFp rm ((2 : ℝ) ^ n) (fpExp2 rm x) := by
  have hint : (FVal.fin s m).int = n * 2 ^ 149 := by
    have hu : (2 : ℝ) ^ (-149 : ℤ) * 2 ^ 149 = 1 := by rw [← zpow_natCast (2 : ℝ), ← zpow_add₀ two_ne_zero]; rfl
    have : ((FVal.fin s m).int : ℝ) = n * 2 ^ 149 := by rw [← hn, finReal_int, mul_assoc, hu, mul_one]
    exact_mod_cast this
  have hexp : fpExp2 rm x = pack32 (roundMag .f32 rm false false 1 n false) := by
    rw [fpExp2, hx]
    simp only [hint, Int.mul_emod_left, Int.toNat_zero, if_true]
    rw [Int.mul_ediv_cancel _ (by decide), roundMag_one_clamp]
  rw [hexp]
  simpa [sgn] using pack_roundMag hrm false 1 n

theorem bitLen_two_pow (j : Nat) : bitLen (2 ^ j) = j + 1 := by
  rw [bitLen, if_neg (by positivity), Nat.log2_two_pow]

/-- `VLOG2` of a power of two is exact (R233). -/
theorem fpLog2_pow {rm : Nat} (hrm : rm < 4) {x : W32} {s : Bool} {m : Nat} (hx : f32 x = .fin s m) {n : ℤ} (hn : finReal s m = (2 : ℝ) ^ n) :
    if n = 0 then fpLog2 rm x = zero32 false else RoundsFp rm n (fpLog2 rm x) := by
  have hpos : (0 : ℝ) < 2 ^ n := by positivity
  have hm : m ≠ 0 := by rw [ne_eq, ← finReal_eq_zero s m, hn]; exact hpos.ne'
  have hm0 : (0 : ℝ) < m * (2 : ℝ) ^ (-149 : ℤ) := by positivity
  have hs : s = false := (sgn_mul_pos_iff s hm0).1 (by rw [← finReal, hn]; exact hpos)
  subst hs
  have hreal : (m : ℝ) = 2 ^ (n + 149) := by
    rw [zpow_add₀ two_ne_zero, ← hn, finReal]
    rw [sgn, if_neg (by decide), one_mul, mul_assoc, ← zpow_add₀ two_ne_zero]; simp
  have hn0 : 0 ≤ n + 149 := by
    by_contra h
    have h1 : (1 : ℝ) ≤ m := by exact_mod_cast Nat.one_le_iff_ne_zero.2 hm
    exact absurd (hreal ▸ h1) (not_le.2 (zpow_lt_one_of_neg₀ one_lt_two (by omega)))
  obtain ⟨j, hj⟩ := Int.eq_ofNat_of_zero_le hn0
  have hmj : m = 2 ^ j := by rw [hj, zpow_natCast] at hreal; exact_mod_cast hreal
  have hlog : fpLog2 rm x = pack32 (roundInt .f32 rm n 0 false) := by
    rw [fpLog2, hx]
    simp only [hm, if_false, Bool.false_eq_true]
    rw [hmj, bitLen_two_pow, Nat.add_sub_cancel, if_pos rfl, show ((j + 1 : Nat) : ℤ) - 150 = n by omega]
  rw [hlog]
  exact intToFp_rounds hrm n

end Sys2Proof.Machine
end

section
/-!
The arithmetic of the model on every operand (R62 to R64, R73, R75, R215 to R217, R233), and the proof of O6.
-/
namespace Sys2Proof.Machine

open Sys2Proof.Safety

/-! ### Finite operands -/

theorem getLsbD_31_of_fin {x : W32} {s : Bool} {m : Nat} (h : f32 x = .fin s m) : FiniteFp x ∧ s = x.getLsbD 31 := by
  rcases f32_cases x with hx | hx | hx
  · obtain ⟨k, hk, -⟩ := f32_finite hx
    rw [h] at hk
    exact ⟨hx, (FVal.fin.inj hk).1⟩
  · rw [f32_inf hx] at h; exact nomatch h
  · rw [f32_nan hx] at h; exact nomatch h

/-- What the functions of R233 and the reciprocals make of a zero. -/
theorem special_zero {rm : Nat} {x : W32} {s : Bool} (hx : f32 x = .fin s 0) :
    fpRcp rm x = (if s then 0xFF800000 else 0x7F800000, 0x08) ∧ fpRsq rm x = (if s then 0xFF800000 else 0x7F800000, 0x08) ∧
      fpLog2 rm x = (0xFF800000, 0x08) ∧ fpTanh rm x = (x, 0) ∧ fpSigm rm x = (0x3F000000, 0) := by
  have hrcp : fpRcp rm x = (BitVec.ofNat 32 (Fmt.f32.infCode (false != s)), flDZ) := by
    rw [fpRcp, fpDiv_fin f32_one hx, if_pos rfl, if_neg (by positivity)]
  rw [hrcp, fpRsq, fpLog2, fpTanh, fpSigm, hx]
  cases s <;> exact ⟨rfl, rfl, rfl, rfl, rfl⟩

/-- The roots and the logarithm of a negative number. -/
theorem special_neg {rm : Nat} {x : W32} {m : Nat} (hx : f32 x = .fin true m) (hm : m ≠ 0) :
    fpRsq rm x = (0x7FC00000, 0x10) ∧ fpLog2 rm x = (0x7FC00000, 0x10) := by
  rw [fpRsq, fpLog2, hx]
  simp only [hm, if_false, if_true]
  exact ⟨rfl, rfl⟩

/-! ### Infinities and NaN -/

theorem f32_infinity (n : Bool) : f32 (if n then 0xFF800000 else 0x7F800000) = .inf n := by cases n <;> decide

theorem special_inf {rm : Nat} {x : W32} {n : Bool} (hx : f32 x = .inf n) :
    fpRcp rm x = (if n then 0x80000000 else 0, 0) ∧ fpRsq rm x = (if n then (0x7FC00000, 0x10) else (0, 0)) ∧
    fpExp2 rm x = (if n then 0 else 0x7F800000, 0) ∧ fpLog2 rm x = (if n then (0x7FC00000, 0x10) else (0x7F800000, 0)) ∧
    fpTanh rm x = (if n then 0xBF800000 else 0x3F800000, 0) ∧ fpSigm rm x = (if n then 0 else 0x3F800000, 0) := by
  have hrcp : fpRcp rm x = (BitVec.ofNat 32 (Fmt.f32.sign (false != n) 0), 0) := by rw [fpRcp, fpDiv, f32_one, hx]
  rw [hrcp, fpRsq, fpExp2, fpLog2, fpTanh, fpSigm, hx]
  cases n <;> exact ⟨rfl, rfl, rfl, rfl, rfl, rfl⟩

theorem narrow_inf (rm : Nat) (n sat : Bool) :
    narrow .bf16 rm sat (.inf n) = (if n then 0xFF80 else 0x7F80, 0) ∧ narrow .f16 rm sat (.inf n) = (if n then 0xFC00 else 0x7C00, 0) ∧
    narrow .e5m2 rm sat (.inf n) = (if sat then (if n then 0xFB else 0x7B, 0x20) else (if n then 0xFC else 0x7C, 0)) ∧
    narrow .e4m3 rm sat (.inf n) = (if sat then (if n then 0xFE else 0x7E, 0x20) else (0x7F, 0x10)) := by
  cases n <;> cases sat <;> exact ⟨rfl, rfl, rfl, rfl⟩

theorem special_nan {rm : Nat} {x : W32} (hx : f32 x = .nan) :
    ∀ r ∈ [fpRcp rm x, fpRsq rm x, fpExp2 rm x, fpLog2 rm x, fpTanh rm x, fpSigm rm x], r = (0x7FC00000, 0) := by
  have hrcp : fpRcp rm x = (nan32, 0) := by rw [fpRcp, fpDiv, f32_one, hx]
  simp only [hrcp, fpRsq, fpExp2, fpLog2, fpTanh, fpSigm, hx]
  simp [nan32]

theorem isNan_iff (v : FVal) : v.isNan = true ↔ v = .nan := by cases v <;> simp [FVal.isNan]

/-! ### Codes of a format (R62 to R64, R75) -/

theorem widen_code {f : Fmt} (hf : f.Std) {c : Nat} (hc : c < 2 ^ (1 + f.eb + f.mb)) :
    let m := c % 2 ^ (f.eb + f.mb)
    let n := decide (2 ^ (f.eb + f.mb) ≤ c)
    (m ≤ f.maxCode → (∃ k, f.decode c = .fin n k) ∧ valReal (f.decode c) = codeReal f c ∧ fpReal (widen f c) = codeReal f c ∧
      (widen f c).getLsbD 31 = n) ∧
    (m = f.maxCode + 1 → f ≠ .e4m3 → f.decode c = .inf n ∧ widen f c = if n then 0xFF800000 else 0x7F800000) ∧
    (f.maxCode + 1 < m ∨ (f = .e4m3 ∧ m = 0x7F) → f.decode c = .nan ∧ widen f c = 0x7FC00000) := by
  intro m n
  have hcm : c = f.sign n m := f.sign_mod hc
  have hmlt : m < 2 ^ (f.eb + f.mb) := Nat.mod_lt _ (by positivity)
  clear_value m n
  subst hcm
  rw [codeReal_sign f n hmlt]
  refine ⟨fun hm => ?_, fun hm hne => ?_, fun hm => ?_⟩
  · obtain ⟨k, hk, hv⟩ := Fmt.decode_finite hf n hm
    obtain ⟨hreal, hbit⟩ := widen_finite hf n hm
    refine ⟨⟨k, hk⟩, ?_, hreal, hbit⟩
    rw [hk, valReal, ← finReal_int, finReal, hv]
  · have hd := Fmt.decode_inf hf (by simpa [hf.infs_eq] using hne) n
    rw [← hm] at hd
    refine ⟨hd, ?_⟩
    rw [widen, hd]
    cases n <;> rfl
  · have hd := Fmt.decode_nan hf n hmlt hm
    exact ⟨hd, by rw [widen, hd]; rfl⟩

/-! ### The corners of scalar arithmetic (R63, R64, R215, R216) -/

theorem nan_operand {rm : Nat} {x y : W32} (h : f32 x = .nan ∨ f32 y = .nan) :
    (∀ r ∈ [fpAdd rm x y, fpSub rm x y, fpMul rm x y, fpDiv rm x y], r = (0x7FC00000, 0)) ∧ fpMin x y = 0x7FC00000 ∧
      fpMax x y = 0x7FC00000 ∧ (∀ e ∈ [0, 2, 3], fpCmp e x y = false) ∧ ∀ e ∈ [1, 4], fpCmp e x y = true := by
  have hnan : ((f32 x).isNan || (f32 y).isNan) = true := by simpa [isNan_iff] using h
  have hcmp (e : Nat) : fpCmp e x y = (e == 1 || e == 4) := by unfold fpCmp; exact if_pos hnan
  refine ⟨?_, by rw [fpMin, if_pos hnan]; rfl, by rw [fpMax, if_pos hnan]; rfl, by simp [hcmp], by simp [hcmp]⟩
  have hvals : fpAdd rm x y = (nan32, 0) ∧ fpSub rm x y = (nan32, 0) ∧ fpMul rm x y = (nan32, 0) ∧ fpDiv rm x y = (nan32, 0) := by
    unfold fpAdd fpSub fpMul fpDiv
    rcases h with h | h
    · rw [h]; exact ⟨rfl, rfl, rfl, rfl⟩
    · rw [h]; cases f32 x <;> exact ⟨rfl, rfl, rfl, rfl⟩
  obtain ⟨hadd, hsub, hmul, hdiv⟩ := hvals
  rw [hadd, hsub, hmul, hdiv]
  simp [nan32]

theorem abs_neg_of_not_nan {x : W32} (h : f32 x ≠ .nan) : fpAbs x = x &&& 0x7FFFFFFF ∧ fpNeg x = x ^^^ 0x80000000 := by
  have : ¬(f32 x).isNan = true := by rwa [isNan_iff]
  rw [fpAbs, fpNeg, if_neg this, if_neg this]
  exact ⟨rfl, rfl⟩

theorem inf_operands {rm : Nat} {x y : W32} {s t : Bool} (hx : f32 x = .inf s) (hy : f32 y = .inf t) :
    fpDiv rm x y = (0x7FC00000, 0x10) ∧ (s ≠ t → fpAdd rm x y = (0x7FC00000, 0x10)) ∧
      (s = t → fpSub rm x y = (0x7FC00000, 0x10) ∧ fpAdd rm x y = (BitVec.ofNat 32 (Fmt.f32.infCode s), 0)) := by
  rw [fpDiv, fpAdd, fpSub, hx, hy]
  refine ⟨rfl, fun hne => if_neg hne, fun he => ⟨if_neg ?_, if_pos he⟩⟩
  cases s <;> cases t <;> simp_all

/-- An infinite pattern is the one code of its sign. -/
theorem ofNat_infCode {x : W32} (h : x.toNat % 2 ^ 31 = 0x7F800000) : BitVec.ofNat 32 (Fmt.f32.infCode (x.getLsbD 31)) = x := by
  have hs := toNat_f32_sign x
  rw [h] at hs
  have htop : Fmt.f32.infCode (x.getLsbD 31) = x.toNat := hs
  rw [htop, BitVec.ofNat_toNat, BitVec.setWidth_eq]

theorem zero_times_inf {rm : Nat} {x y : W32} {s t : Bool} (hx : f32 x = .fin s 0) (hy : f32 y = .inf t) :
    fpMul rm x y = (0x7FC00000, 0x10) ∧ fpMul rm y x = (0x7FC00000, 0x10) := by
  rw [fpMul, fpMul, hx, hy]
  exact ⟨rfl, rfl⟩

theorem zero_operands {rm : Nat} {x y : W32} {s t : Bool} (hx : f32 x = .fin s 0) (hy : f32 y = .fin t 0) :
    fpDiv rm x y = (0x7FC00000, 0x10) ∧ fpCmp 0 x y = true := by
  rw [fpDiv_fin hx hy, fpCmp, hx, hy]
  cases s <;> cases t <;> exact ⟨rfl, rfl⟩

/-- The sign bit inverted negates the decoded value. -/
theorem f32_flip {x : W32} {s : Bool} {m : Nat} (h : f32 x = .fin s m) : f32 (x ^^^ 0x80000000) = .fin (!s) m := by
  have hs := toNat_f32_sign x
  obtain ⟨hx, rfl⟩ := getLsbD_31_of_fin h
  have hbit : (x ^^^ 0x80000000).getLsbD 31 = !x.getLsbD 31 := by simp
  have hmag : (x ^^^ 0x80000000).toNat % 2 ^ 31 = x.toNat % 2 ^ 31 := by
    rw [BitVec.toNat_xor, Nat.xor_mod_two_pow]
    simp
  have hm : x.toNat % 2 ^ 31 ≤ Fmt.f32.maxCode := by
    have : x.toNat / 2 ^ 23 % 256 ≠ 255 := hx
    show x.toNat % 2 ^ 31 ≤ 255 * 2 ^ 23 - 1
    omega
  obtain ⟨k, hk, hv⟩ := Fmt.decode_finite Fmt.std_f32 (x.getLsbD 31) hm
  obtain ⟨k', hk', hv'⟩ := Fmt.decode_finite Fmt.std_f32 (!x.getLsbD 31) hm
  have hkk : k' = k := by
    rw [← hv, mul_left_inj' (by positivity)] at hv'
    exact_mod_cast hv'
  rw [hs] at hk
  obtain ⟨-, rfl⟩ := FVal.fin.inj (h.symm.trans hk)
  rw [f32, ← toNat_f32_sign (x ^^^ 0x80000000), hbit, hmag, hk', hkk]

theorem add_negated {rm : Nat} {x : W32} {s : Bool} {m : Nat} (hx : f32 x = .fin s m) :
    fpAdd rm x (x ^^^ 0x80000000) = (if rm = 2 then 0x80000000 else 0, 0) := by
  have hsum : (FVal.fin s m).int + (FVal.fin (!s) m).int = 0 := by cases s <;> simp [FVal.int]
  have hz : zeroSign rm s (!s) = decide (rm = 2) := by cases s <;> rfl
  rw [fpAdd, hx, f32_flip hx, addVal, hsum, roundInt, if_pos rfl, pack_sign_zero, hz]
  simp [zero32]

theorem div_by_zero {rm : Nat} {x y : W32} {s t : Bool} {m : Nat} (hx : f32 x = .fin s m) (hm : m ≠ 0) (hy : f32 y = .fin t 0) :
    fpDiv rm x y = (if s = t then 0x7F800000 else 0xFF800000, 0x08) := by
  rw [fpDiv_fin hx hy, if_pos rfl, if_neg hm]
  cases s <;> cases t <;> rfl

theorem sqrt_zero {rm : Nat} {x : W32} {s : Bool} (hx : f32 x = .fin s 0) : fpSqrt rm x = (x, 0) := by rw [fpSqrt, hx]; rfl

/-! ### The statement -/

/-- The arithmetic on finite operands is exact and rounded once. -/
theorem finite_arithmetic {rm : Nat} (hrm : rm < 4) {x y z : W32} {s t u : Bool} {m n k : Nat}
    (hx : f32 x = .fin s m) (hy : f32 y = .fin t n) (hz : f32 z = .fin u k) :
    let a := finReal s m
    let b := finReal t n
    let c := finReal u k
    (if a + b = 0 then fpAdd rm x y = zero32 (zeroSign rm s t) else RoundsFp rm (a + b) (fpAdd rm x y)) ∧
    (if a - b = 0 then fpSub rm x y = zero32 (zeroSign rm s !t) else RoundsFp rm (a - b) (fpSub rm x y)) ∧
    (if a * b = 0 then fpMul rm x y = zero32 (s != t) else RoundsFp rm (a * b) (fpMul rm x y)) ∧
    (b ≠ 0 → if a = 0 then fpDiv rm x y = zero32 (s != t) else RoundsFp rm (a / b) (fpDiv rm x y)) ∧
    (if a * b + c = 0 then fpFma rm (f32 x) (f32 y) (f32 z) = zero32 (zeroSign rm (s != t) u)
     else RoundsFp rm (a * b + c) (fpFma rm (f32 x) (f32 y) (f32 z))) ∧
    (a ≠ 0 → RoundsFp rm (1 / a) (fpRcp rm x)) ∧
    (0 < a → RoundsFp rm (Real.sqrt a) (fpSqrt rm x) ∧ RoundsFp rm (1 / Real.sqrt a) (fpRsq rm x)) := by
  intro a b c
  have ha0 : a = 0 ↔ m = 0 := finReal_eq_zero s m
  refine ⟨?_, ?_, ?_, fun hb => ?_, ?_, fun ha => ?_, fun ha => ?_⟩
  · rw [fpAdd, hx, hy]
    exact addVal_real hrm s t m n
  · rw [sub_eq_add_neg, ← finReal_not, fpSub, hx, hy]
    exact addVal_real hrm s (!t) m n
  · have hmul : fpMul rm x y = pack32 (roundMag .f32 rm false (s != t) (m * n) (-298) false) := by rw [fpMul, hx, hy]
    rw [hmul]
    exact roundMag_mul_real hrm s t m n
  · rw [finReal_div]
    simp only [ha0]
    exact fpDiv_rounds hx hy hrm (by rwa [ne_eq, ← finReal_eq_zero t n])
  · rw [hx, hy, hz]
    exact fpFma_real hrm s t u m n k
  · exact fpRcp_rounds hrm hx (by rwa [ne_eq, ← ha0])
  · have hm : m ≠ 0 := by rw [ne_eq, ← ha0]; exact ha.ne'
    obtain rfl : s = false := (sgn_mul_pos_iff s (by positivity)).1 ha
    have hval : a = m * (2 : ℝ) ^ (-149 : ℤ) := one_mul _
    rw [hval]
    exact ⟨fpSqrt_rounds hrm hx hm, fpRsq_rounds hrm hx hm⟩

theorem mem_of_narrow {f : Fmt} (h : f ∈ [Fmt.bf16, .f16, .e5m2, .e4m3]) : f.Std := List.mem_cons_of_mem _ h

/-- Conversions, exact powers of two and the special results of finite operands. -/
theorem finite_conversions {rm : Nat} (hrm : rm < 4) (sat : Bool) {x : W32} {s : Bool} {m : Nat} (hx : f32 x = .fin s m) :
    let a := finReal s m
    (∀ f ∈ [Fmt.bf16, .f16, .e5m2, .e4m3], let r := narrow f rm sat (f32 x)
      if a = 0 then r = (if s then 2 ^ (f.eb + f.mb) else 0, 0) else RoundsTo f rm (sat && decide (f.eb + f.mb = 7)) a r) ∧
    (∀ lo hi : ℤ, lo ≤ hi → ∃ n : ℤ, RoundsIn (fun r => ∃ k : ℤ, r = k) (fun r => ∃ k : ℤ, r = 2 * k) rm a n ∧ fpToInt rm lo hi (f32 x) =
      if n < lo then (lo, 0x10) else if hi < n then (hi, 0x10) else (n, if (n : ℝ) = a then 0 else 0x01)) ∧
    (a < 0 → fpRsq rm x = (0x7FC00000, 0x10) ∧ fpLog2 rm x = (0x7FC00000, 0x10)) := by
  intro a
  refine ⟨fun f hf => ?_, fun lo hi _ => ?_, fun ha => ?_⟩
  · simp only [show a = 0 ↔ m = 0 from finReal_eq_zero s m, hx]
    exact narrow_fin (mem_of_narrow hf) hrm sat s m
  · rw [hx]
    exact fpToInt_fin hrm s m lo hi
  · have hm : m ≠ 0 := by rw [ne_eq, ← finReal_eq_zero s m]; exact ha.ne
    obtain rfl : s = true := (sgn_mul_neg_iff s (by positivity)).1 ha
    exact special_neg hx hm

/-! ### The correctly rounded results of R233 at six arguments each -/

/-- A function's results at an argument under rounding to nearest, down and up, with its flags. -/
def RoundedAt (f : Nat → W32 → W32 × BitVec 6) (v : W32 × W32 × W32 × W32 × BitVec 6) : Prop :=
  f 0 v.1 = (v.2.1, v.2.2.2.2) ∧ f 2 v.1 = (v.2.2.1, v.2.2.2.2) ∧ f 3 v.1 = (v.2.2.2.1, v.2.2.2.2)

theorem fpExp2_roundedAt : ∀ v ∈ ([(0x3F000000, 0x3FB504F3, 0x3FB504F3, 0x3FB504F4, 1), (0xBF000000, 0x3F3504F3, 0x3F3504F3, 0x3F3504F4, 1),
    (0x3EAAAAAB, 0x3FA14518, 0x3FA14517, 0x3FA14518, 1), (0xC2FD0001, 0x005A825A, 0x005A825A, 0x005A825B, 3),
    (0x42C80001, 0x7180002C, 0x7180002C, 0x7180002D, 1), (0x00000001, 0x3F800000, 0x3F800000, 0x3F800001, 1)] : List (W32 × W32 × W32 × W32 × BitVec 6)),
    RoundedAt fpExp2 v := by
  simp only [List.forall_mem_cons]
  refine ⟨?_, ?_, ?_, ?_, ?_, ?_, List.forall_mem_nil _⟩ <;> exact ⟨by decide +kernel, by decide +kernel, by decide +kernel⟩

theorem fpLog2_roundedAt : ∀ v ∈ ([(0x40400000, 0x3FCAE00D, 0x3FCAE00D, 0x3FCAE00E, 1), (0x3F7FFFFF, 0xB3B8AA3C, 0xB3B8AA3C, 0xB3B8AA3B, 1),
    (0x3F800001, 0x3438AA3A, 0x3438AA3A, 0x3438AA3B, 1), (0x00000003, 0xC3136A40, 0xC3136A40, 0xC3136A3F, 1),
    (0x7F7FFFFF, 0x43000000, 0x42FFFFFF, 0x43000000, 1), (0x3F3504F3, 0xBF000000, 0xBF000001, 0xBF000000, 1)] : List (W32 × W32 × W32 × W32 × BitVec 6)),
    RoundedAt fpLog2 v := by
  simp only [List.forall_mem_cons]
  refine ⟨?_, ?_, ?_, ?_, ?_, ?_, List.forall_mem_nil _⟩ <;> exact ⟨by decide +kernel, by decide +kernel, by decide +kernel⟩

theorem fpTanh_roundedAt : ∀ v ∈ ([(0x3F800000, 0x3F42F7D6, 0x3F42F7D5, 0x3F42F7D6, 1), (0xBF000000, 0xBEEC9A9F, 0xBEEC9A9F, 0xBEEC9A9E, 1),
    (0x00000001, 0x00000001, 0x00000000, 0x00000001, 3), (0x39800000, 0x39800000, 0x397FFFFF, 0x39800000, 1),
    (0x41100000, 0x3F7FFFFF, 0x3F7FFFFF, 0x3F800000, 1), (0xC1200000, 0xBF800000, 0xBF800000, 0xBF7FFFFF, 1)] : List (W32 × W32 × W32 × W32 × BitVec 6)),
    RoundedAt fpTanh v := by
  simp only [List.forall_mem_cons]
  refine ⟨?_, ?_, ?_, ?_, ?_, ?_, List.forall_mem_nil _⟩ <;> exact ⟨by decide +kernel, by decide +kernel, by decide +kernel⟩

theorem fpSigm_roundedAt : ∀ v ∈ ([(0x3F800000, 0x3F3B26A8, 0x3F3B26A7, 0x3F3B26A8, 1), (0xBF800000, 0x3E89B2B1, 0x3E89B2B0, 0x3E89B2B1, 1),
    (0x00000001, 0x3F000000, 0x3F000000, 0x3F000001, 1), (0xC2AE0000, 0x00B33687, 0x00B33686, 0x00B33687, 1),
    (0x41800000, 0x3F7FFFFE, 0x3F7FFFFE, 0x3F7FFFFF, 1), (0x3C23D70A, 0x3F00A3D7, 0x3F00A3D6, 0x3F00A3D7, 1)] : List (W32 × W32 × W32 × W32 × BitVec 6)),
    RoundedAt fpSigm v := by
  simp only [List.forall_mem_cons]
  refine ⟨?_, ?_, ?_, ?_, ?_, ?_, List.forall_mem_nil _⟩ <;> exact ⟨by decide +kernel, by decide +kernel, by decide +kernel⟩

/-! ### The statement -/

/-- Settles O6: each operation on finite operands forms the exact number, which `roundMag` rounds once; the corners follow case by case. -/
theorem floatingPointCorners : Obligations.FloatingPointCorners := by
  unfold Obligations.FloatingPointCorners
  refine ⟨fun rm sat x y z hrm hx hy hz => ?_, fun f hf c hc => widen_code hf hc, fun rm _ n sat => ?_, fun rm _ x hx => ?_, ?_,
    fun rm x y hrm => ?_⟩
  · obtain ⟨m, hxm, hxv⟩ := exists_finReal hx
    obtain ⟨n, hyn, hyv⟩ := exists_finReal hy
    obtain ⟨k, hzk, hzv⟩ := exists_finReal hz
    obtain ⟨hadd, hsub, hmul, hdiv, hfma, hrcp, hroot⟩ := finite_arithmetic hrm hxm hyn hzk
    obtain ⟨hnarrow, htoInt, hneg⟩ := finite_conversions hrm sat hxm
    intro a b c neg zero sum
    rw [← hxv] at hadd hsub hmul hdiv hfma hrcp hroot hnarrow htoInt hneg
    rw [← hyv] at hadd hsub hmul hdiv hfma
    rw [← hzv] at hfma
    have hint (v : ℤ) := intToFp_rounds hrm v
    refine ⟨hadd, hsub, hmul, hdiv, hfma, hrcp, hroot, hnarrow, fun v hv => ?_, ?_, htoInt, fun v hv => fpExp2_int hrm hxm (hxv.symm.trans hv),
      fun v hv => fpLog2_pow hrm hxm (hxv.symm.trans hv), fun ha => ?_, hneg⟩
    · simpa [hv] using hint v
    · exact hint 0
    · obtain rfl : m = 0 := by rw [← finReal_eq_zero (x.getLsbD 31) m, ← hxv]; exact ha
      exact special_zero hxm
  · obtain ⟨hrcp, hrsq, hexp, hlog, htanh, hsigm⟩ := special_inf (rm := rm) (f32_infinity n)
    have hn := narrow_inf rm n sat
    rw [← f32_infinity n] at hn
    exact ⟨hrcp, hrsq, hexp, hlog, htanh, hsigm, fun lo hi => by rw [f32_infinity]; rfl, hn⟩
  · have hx := (isNan_iff _).1 hx
    refine ⟨special_nan hx, fun lo hi => by rw [hx]; rfl, fun sat => ?_⟩
    rw [hx]
    exact ⟨rfl, rfl, rfl, rfl⟩
  · intro e he
    simp only [List.mem_cons, List.not_mem_nil, or_false] at he
    rcases he with rfl | rfl | rfl | rfl
    · exact fpExp2_roundedAt
    · exact fpLog2_roundedAt
    · exact fpTanh_roundedAt
    · exact fpSigm_roundedAt
  · intro nan inf zero neg
    have hfin {w : W32} (h1 : ¬nan w) (h2 : ¬inf w) : ∃ m, f32 w = .fin (neg w) m ∧ (m = 0 ↔ zero w) := by
      obtain ⟨m, hm, -⟩ := exists_finReal (((f32_cases w).resolve_right fun h => h.elim h2 h1))
      exact ⟨m, hm, f32_fin_zero_iff hm⟩
    have hzero {w : W32} (h : zero w) : f32 w = .fin (neg w) 0 := by
      obtain ⟨m, hm, hz⟩ := hfin (w := w) (by simp only [nan, zero] at h ⊢; omega) (by simp only [inf, zero] at h ⊢; omega)
      rwa [hz.2 h] at hm
    have hnotnan {w : W32} (h : ¬nan w) : f32 w ≠ .nan := fun h' => h ((f32_isNan_iff w).1 ((isNan_iff _).2 h'))
    refine ⟨fun h => nan_operand (h.imp f32_nan f32_nan), fun h => ?_, fun h => abs_neg_of_not_nan (hnotnan h), fun h1 h2 => ?_,
      fun h1 h2 => zero_times_inf (hzero h1) (f32_inf h2), fun h1 h2 => zero_operands (hzero h1) (hzero h2), fun h1 h2 h3 => ?_,
      fun h => sqrt_zero (hzero h), fun h1 h2 h3 => ?_⟩
    · rw [fpSqrt, fpAbs, fpNeg, f32_nan h]
      exact ⟨rfl, rfl, rfl⟩
    · have h := inf_operands (rm := rm) (f32_inf h1) (f32_inf h2)
      rwa [ofNat_infCode h1] at h
    · obtain ⟨m, hm, hz⟩ := hfin h1 h2
      exact ⟨fun h => div_by_zero hm (hz.not.2 h3) (hzero h), add_negated hm⟩
    · rw [fpSqrt]
      by_cases hi : inf x
      · rw [f32_inf hi, show x.getLsbD 31 = true from h3]
        rfl
      · obtain ⟨m, hm, hz⟩ := hfin h1 hi
        rw [hm, show neg x = true from h3]
        simp only [hz.not.2 h2, if_false, if_true]
        rfl

end Sys2Proof.Machine
end

section
/-!
Exact sums (R70, R71, R234): what a run of terms leaves in the accumulator of a sum, and what rounding makes of it.
-/
namespace Sys2Proof.Machine

open Sys2Proof.Safety

/-! ### The terms of a sum -/

/-- The terms of a sum, in units of 2^-(149 + k). -/
def SumAcc.terms (k : Nat) (s : SumAcc) (l : List FVal) : SumAcc := l.foldl (fun a v => a.add k v) s

theorem SumAcc.add_eq (s : SumAcc) (k : Nat) (v : FVal) :
    s.add k v = ⟨s.nan || v == .nan, s.nv, s.pinf || v == .inf false, s.ninf || v == .inf true, s.sum + v.int * 2 ^ k,
      s.allNegZero && v == .fin true 0⟩ := by
  obtain ⟨nan, nv, pinf, ninf, sum, z⟩ := s
  cases v with
  | nan => simp [SumAcc.add, FVal.int]
  | inf n => cases n <;> simp [SumAcc.add, FVal.int]
  | fin n m => cases n <;> by_cases hm : m = 0 <;> simp [SumAcc.add, FVal.int, hm]

/-- What a run of terms leaves. -/
theorem SumAcc.terms_eq (s : SumAcc) (k : Nat) (l : List FVal) :
    s.terms k l = ⟨s.nan || l.any (· == .nan), s.nv, s.pinf || l.any (· == .inf false), s.ninf || l.any (· == .inf true),
      s.sum + (l.map FVal.int).sum * 2 ^ k, s.allNegZero && l.all (· == .fin true 0)⟩ := by
  induction l generalizing s with
  | nil => simp [SumAcc.terms]
  | cons v l ih =>
    rw [SumAcc.terms, List.foldl_cons, ← SumAcc.terms, ih, SumAcc.add_eq]
    simp [Bool.or_assoc, Bool.and_assoc, add_mul, add_assoc]

/-! ### Rounding a sum (R71) -/

theorem SumAcc.round_nan {s : SumAcc} (h : s.nan = true) (rm k : Nat) :
    pack32 (s.round .f32 rm k) = (0x7FC00000, if s.nv then 0x10 else 0) := by
  rw [SumAcc.round, if_pos h]
  rfl

theorem SumAcc.round_infs {s : SumAcc} (h : s.nan = false) (hp : s.pinf = true) (hn : s.ninf = true) (rm k : Nat) :
    pack32 (s.round .f32 rm k) = (0x7FC00000, 0x10) := by
  rw [SumAcc.round, h, hp, hn]
  rfl

theorem SumAcc.round_inf {s : SumAcc} (h : s.nan = false) {n : Bool} (hp : s.pinf = !n) (hn : s.ninf = n) (rm k : Nat) :
    pack32 (s.round .f32 rm k) = (if n then 0xFF800000 else 0x7F800000, 0) := by
  rw [SumAcc.round, h, hp, hn]
  cases n <;> rfl

theorem SumAcc.round_finite {s : SumAcc} (h : s.nan = false) (hp : s.pinf = false) (hn : s.ninf = false) {rm : Nat} (hrm : rm < 4) (k : Nat) :
    if s.sum = 0 then pack32 (s.round .f32 rm k) = zero32 s.allNegZero
    else RoundsFp rm (s.sum * (2 : ℝ) ^ (-(149 + k : Nat) : ℤ)) (pack32 (s.round .f32 rm k)) := by
  have hround : s.round .f32 rm k = roundInt .f32 rm s.sum (-(149 + k : Nat)) s.allNegZero := by
    rw [SumAcc.round, h, hp, hn]
    rfl
  rw [hround]
  exact pack_roundInt hrm _ _ _

/-! ### FP32 terms -/

theorem f32_eq_inf_iff (x : W32) (n : Bool) : f32 x = .inf n ↔ x = if n then 0xFF800000 else 0x7F800000 := by
  refine ⟨fun h => ?_, fun h => h ▸ f32_infinity n⟩
  have hx : x.toNat % 2 ^ 31 = 0x7F800000 := by
    rcases f32_cases x with hx | hx | hx
    · obtain ⟨k, hk, -⟩ := f32_finite hx
      rw [hk] at h; exact nomatch h
    · exact hx
    · rw [f32_nan hx] at h; exact nomatch h
  have hn : x.getLsbD 31 = n := FVal.inf.inj ((f32_inf hx).symm.trans h)
  rw [← ofNat_infCode hx, hn]
  cases n <;> rfl

theorem f32_eq_zero_iff (x : W32) (n : Bool) : f32 x = .fin n 0 ↔ x = (zero32 n).1 := by
  refine ⟨fun h => ?_, fun h => by subst h; cases n <;> rfl⟩
  have hm : x.toNat % 2 ^ 31 = 0 := (f32_fin_zero_iff h).1 rfl
  obtain ⟨-, rfl⟩ := getLsbD_31_of_fin h
  have hs := toNat_f32_sign x
  rw [hm] at hs
  apply BitVec.eq_of_toNat_eq
  rw [← hs]
  cases x.getLsbD 31 <;> rfl

theorem fpReal_int {x : W32} (h : FiniteFp x) : fpReal x = (f32 x).int * (2 : ℝ) ^ (-149 : ℤ) := by
  obtain ⟨m, hm, hv⟩ := exists_finReal h
  rw [hv, hm, finReal_int]

end Sys2Proof.Machine
end

section
/-!
Scaled elements and the sums of their products (R70, R71, R252).
-/
namespace Sys2Proof.Machine

open Sys2Proof.Safety

/-! ### Products (R70) -/

def FVal.IsFin (v : FVal) : Prop := ∃ n m, v = .fin n m
def FVal.IsInf (v : FVal) : Prop := ∃ n, v = .inf n
def FVal.IsZero (v : FVal) : Prop := v.IsFin ∧ v.int = 0

/-- Infinity times zero. -/
def Lost (p : FVal × FVal) : Prop := (p.1.IsInf ∧ p.2.IsZero) ∨ (p.1.IsZero ∧ p.2.IsInf)

@[simp] theorem FVal.isFin_nan : FVal.nan.IsFin ↔ False := by simp [FVal.IsFin]
@[simp] theorem FVal.isFin_inf (n : Bool) : (FVal.inf n).IsFin ↔ False := by simp [FVal.IsFin]
@[simp] theorem FVal.isFin_fin (n : Bool) (m : Nat) : (FVal.fin n m).IsFin := ⟨n, m, rfl⟩
@[simp] theorem FVal.isInf_nan : FVal.nan.IsInf ↔ False := by simp [FVal.IsInf]
@[simp] theorem FVal.isInf_inf (n : Bool) : (FVal.inf n).IsInf := ⟨n, rfl⟩
@[simp] theorem FVal.isInf_fin (n : Bool) (m : Nat) : (FVal.fin n m).IsInf ↔ False := by simp [FVal.IsInf]
@[simp] theorem FVal.isZero_nan : FVal.nan.IsZero ↔ False := by simp [FVal.IsZero]
@[simp] theorem FVal.isZero_inf (n : Bool) : (FVal.inf n).IsZero ↔ False := by simp [FVal.IsZero]
@[simp] theorem FVal.isZero_fin (n : Bool) (m : Nat) : (FVal.fin n m).IsZero ↔ m = 0 := by cases n <;> simp [FVal.IsZero, FVal.int]

theorem mulVal_lost (a b : FVal) : (mulVal a b).2 = true ↔ Lost (a, b) := by
  cases a <;> cases b <;> simp only [mulVal, Lost] <;> (try split) <;> simp_all

theorem mulVal_nan (a b : FVal) : (mulVal a b).1 = .nan ↔ (a = .nan ∨ b = .nan) ∨ Lost (a, b) := by
  cases a <;> cases b <;> simp only [mulVal, Lost] <;> (try split) <;> simp_all

theorem mulVal_inf (a b : FVal) (n : Bool) (hn : ¬(a = .nan ∨ b = .nan)) (hl : ¬Lost (a, b)) :
    (mulVal a b).1 = .inf n ↔ (a.IsInf ∨ b.IsInf) ∧ (a.neg != b.neg) = n := by
  cases a <;> cases b <;> simp only [mulVal, Lost] at hl ⊢ <;> (try split) <;> simp_all [FVal.neg]

theorem mulVal_fin {a b : FVal} (ha : a.IsFin) (hb : b.IsFin) :
    ∃ m : Nat, (mulVal a b).1 = .fin (a.neg != b.neg) m ∧ (mulVal a b).1.int = a.int * b.int ∧ (m = 0 ↔ a.IsZero ∨ b.IsZero) := by
  obtain ⟨s, m, rfl⟩ := ha
  obtain ⟨t, n, rfl⟩ := hb
  refine ⟨m * n, rfl, ?_, by simp⟩
  cases s <;> cases t <;> simp [mulVal, FVal.int]

/-! ### Elements times their scale (R250, R252) -/

theorem scaleOk_iff (sc : W32) : scaleOk sc = true ↔ ∃ m, m ≠ 0 ∧ f32 sc = .fin false m := by
  rw [scaleOk]
  split <;> simp_all [and_comm]

theorem scaled_spec (x : FVal) {sc : W32} (h : scaleOk sc = true) :
    FiniteFp sc ∧ 0 < fpReal sc ∧ (x = .nan → scaled x sc = .nan) ∧ (∀ n, x = .inf n → scaled x sc = .inf n) ∧
      ∀ n m, x = .fin n m → ∃ q : Nat, scaled x sc = .fin n q ∧ (q : ℝ) * (2 : ℝ) ^ (-298 : ℤ) = m * (2 : ℝ) ^ (-149 : ℤ) * fpReal sc := by
  obtain ⟨k, hk, hsc⟩ := (scaleOk_iff sc).1 h
  obtain ⟨hfin, -⟩ := getLsbD_31_of_fin hsc
  have hreal : fpReal sc = k * (2 : ℝ) ^ (-149 : ℤ) := by rw [fpReal_int hfin, hsc]; rfl
  refine ⟨hfin, by rw [hreal]; positivity, ?_, ?_, ?_⟩
  · rintro rfl
    rw [scaled, hsc]
    rfl
  · rintro n rfl
    rw [scaled, hsc]
    cases n <;> simp [mulVal, hk]
  · rintro n m rfl
    refine ⟨m * k, by rw [scaled, hsc]; cases n <;> rfl, ?_⟩
    rw [hreal, ← two_zpow_double, Nat.cast_mul]
    ring

/-! ### The sum of a row's products with a column (R70, R71) -/

/-- The terms of a sum of products. -/
def products (ps : List (FVal × FVal)) : List FVal := ps.map fun p => (mulVal p.1 p.2).1

/-- What the sum of a row and a column has gathered. -/
def dotAcc (ps : List (FVal × FVal)) (prev : W32) : SumAcc :=
  { (SumAcc.empty.terms 447 [f32 prev]).terms 0 (products ps) with nv := ps.any fun p => (mulVal p.1 p.2).2 }

theorem mmaDot_eq (xs ys : List FVal) (prev : W32) : mmaDot xs ys prev = pack32 ((dotAcc (xs.zip ys) prev).round .f32 0 447) := by
  have hfold (ps : List (FVal × FVal)) (s : SumAcc) :
      ps.foldl (fun (a : SumAcc) p => if (mulVal p.1 p.2).2 then { a.add 0 (mulVal p.1 p.2).1 with nv := true } else a.add 0 (mulVal p.1 p.2).1) s =
        { s.terms 0 (products ps) with nv := s.nv || ps.any fun p => (mulVal p.1 p.2).2 } := by
    induction ps generalizing s with
    | nil => simp [products, SumAcc.terms]
    | cons p ps ih =>
      rw [List.foldl_cons, ih]
      simp only [SumAcc.terms_eq, products, List.map_cons, List.any_cons, List.all_cons, List.sum_cons]
      cases (mulVal p.1 p.2).2 <;> simp [SumAcc.add_eq, Bool.or_assoc, Bool.and_assoc, add_assoc]
  have hnv : (SumAcc.empty.terms 447 [f32 prev]).nv = false := by rw [SumAcc.terms_eq]; rfl
  have h := hfold (xs.zip ys) (SumAcc.empty.terms 447 [f32 prev])
  rw [hnv, Bool.false_or] at h
  exact congrArg (fun a => pack32 (SumAcc.round a .f32 0 447)) h

section
variable (ps : List (FVal × FVal)) (prev : W32)

theorem dotAcc_nan : (dotAcc ps prev).nan = true ↔ f32 prev = .nan ∨ ∃ p ∈ ps, (p.1 = .nan ∨ p.2 = .nan) ∨ Lost p := by
  simp [dotAcc, SumAcc.terms_eq, SumAcc.empty, products, mulVal_nan, -Int.reducePow]

theorem dotAcc_nv : (dotAcc ps prev).nv = true ↔ ∃ p ∈ ps, Lost p := by simp [dotAcc, mulVal_lost]

theorem dotAcc_inf (hn : ∀ p ∈ ps, ¬(p.1 = .nan ∨ p.2 = .nan)) (hl : ∀ p ∈ ps, ¬Lost p) (n : Bool) :
    (if n then (dotAcc ps prev).ninf else (dotAcc ps prev).pinf) = true ↔
      (∃ p ∈ ps, (p.1.IsInf ∨ p.2.IsInf) ∧ (p.1.neg != p.2.neg) = n) ∨ f32 prev = .inf n := by
  have hp (p : FVal × FVal) (h : p ∈ ps) : (mulVal p.1 p.2).1 = .inf n ↔ (p.1.IsInf ∨ p.2.IsInf) ∧ (p.1.neg != p.2.neg) = n :=
    mulVal_inf p.1 p.2 n (hn p h) (hl p h)
  have hmem : (∃ p ∈ ps, (mulVal p.1 p.2).1 = .inf n) ↔ ∃ p ∈ ps, (p.1.IsInf ∨ p.2.IsInf) ∧ (p.1.neg != p.2.neg) = n :=
    exists_congr fun p => and_congr_right fun h => hp p h
  rw [← hmem]
  cases n <;> simp [dotAcc, SumAcc.terms_eq, SumAcc.empty, products, or_comm, -Int.reducePow]

variable {ps} {prev} (hfin : ∀ p ∈ ps, p.1.IsFin ∧ p.2.IsFin)
include hfin

theorem dotAcc_sum (hprev : FiniteFp prev) : ((dotAcc ps prev).sum : ℝ) * (2 : ℝ) ^ (-(149 + 447 : Nat) : ℤ) =
    (ps.map fun p => (p.1.int * p.2.int : ℝ) * (2 : ℝ) ^ (-596 : ℤ)).sum + fpReal prev := by
  have hprod : ((products ps).map FVal.int).sum = (ps.map fun p => p.1.int * p.2.int).sum := by
    rw [products, List.map_map]
    congr 1
    refine List.map_congr_left fun p hp => ?_
    obtain ⟨m, -, hint, -⟩ := mulVal_fin (hfin p hp).1 (hfin p hp).2
    exact hint
  have hscale : (2 : ℝ) ^ (-149 : ℤ) = 2 ^ 447 * 2 ^ (-596 : ℤ) := by rw [← zpow_natCast (2 : ℝ), ← zpow_add₀ two_ne_zero]; rfl
  have hsum : (dotAcc ps prev).sum = (f32 prev).int * 2 ^ 447 + (ps.map fun p => p.1.int * p.2.int).sum := by
    rw [← hprod]
    simp [dotAcc, SumAcc.terms_eq, SumAcc.empty, -Int.reducePow]
  rw [hsum, fpReal_int hprev, hscale]
  push_cast
  rw [List.sum_map_mul_right, List.map_map]
  show ((f32 prev).int * 2 ^ 447 + _) * (2 : ℝ) ^ (-596 : ℤ) = _
  rw [add_mul, add_comm, mul_assoc]
  congr 4
  funext p
  exact Int.cast_mul _ _

theorem dotAcc_finite (hprev : FiniteFp prev) :
    (dotAcc ps prev).nan = false ∧ (dotAcc ps prev).pinf = false ∧ (dotAcc ps prev).ninf = false := by
  have hn (p) (hp : p ∈ ps) : ¬(p.1 = .nan ∨ p.2 = .nan) := by
    obtain ⟨⟨s, m, h1⟩, ⟨t, n, h2⟩⟩ := hfin p hp
    simp [h1, h2]
  have hi (p) (hp : p ∈ ps) : ¬(p.1.IsInf ∨ p.2.IsInf) := by
    obtain ⟨⟨s, m, h1⟩, ⟨t, n, h2⟩⟩ := hfin p hp
    simp [h1, h2]
  have hl (p) (hp : p ∈ ps) : ¬Lost p := fun h => hi p hp (h.imp And.left And.right)
  obtain ⟨k, hk, -⟩ := f32_finite hprev
  have hinf (n : Bool) : ¬(if n then (dotAcc ps prev).ninf else (dotAcc ps prev).pinf) = true := by
    rw [dotAcc_inf ps prev hn hl, hk]
    rintro (⟨p, hp, h, -⟩ | h)
    · exact hi p hp h
    · exact nomatch h
  refine ⟨?_, by simpa using hinf false, by simpa using hinf true⟩
  rw [← Bool.not_eq_true, dotAcc_nan, hk]
  rintro (h | ⟨p, hp, h | h⟩)
  · exact nomatch h
  · exact hn p hp h
  · exact hl p hp h

theorem dotAcc_negZero : (dotAcc ps prev).allNegZero = true ↔
    prev = 0x80000000 ∧ ∀ p ∈ ps, (p.1.IsZero ∨ p.2.IsZero) ∧ p.1.neg ≠ p.2.neg := by
  have hp (p) (h : p ∈ ps) : (mulVal p.1 p.2).1 = .fin true 0 ↔ (p.1.IsZero ∨ p.2.IsZero) ∧ p.1.neg ≠ p.2.neg := by
    obtain ⟨m, hm, -, hz⟩ := mulVal_fin (hfin p h).1 (hfin p h).2
    rw [hm, ← hz]
    simp [and_comm]
  have hprev : f32 prev = .fin true 0 ↔ prev = 0x80000000 := f32_eq_zero_iff prev true
  rw [← hprev, ← forall₂_congr hp]
  simp [dotAcc, SumAcc.terms_eq, SumAcc.empty, products, -Int.reducePow]

end

/-- Every element of a multiply is the exact sum of its products, rounded once (R70, R71). -/
theorem mmaDot_spec (xs ys : List FVal) (prev : W32) :
    let ps := xs.zip ys
    let nan : Prop := (∃ p ∈ ps, p.1 = .nan ∨ p.2 = .nan) ∨ f32 prev = .nan
    let inf (n : Bool) : Prop := (∃ p ∈ ps, (p.1.IsInf ∨ p.2.IsInf) ∧ (p.1.neg != p.2.neg) = n) ∨ f32 prev = .inf n
    let sum : ℝ := (ps.map fun p => (p.1.int * p.2.int : ℝ) * (2 : ℝ) ^ (-596 : ℤ)).sum + fpReal prev
    ((∀ p ∈ ps, p.1.IsFin ∧ p.2.IsFin) → FiniteFp prev →
      (sum ≠ 0 → RoundsFp 0 sum (mmaDot xs ys prev)) ∧
      (sum = 0 → (prev = 0x80000000 ∧ ∀ p ∈ ps, (p.1.IsZero ∨ p.2.IsZero) ∧ p.1.neg ≠ p.2.neg) → mmaDot xs ys prev = (0x80000000, 0)) ∧
      (sum = 0 → ¬(prev = 0x80000000 ∧ ∀ p ∈ ps, (p.1.IsZero ∨ p.2.IsZero) ∧ p.1.neg ≠ p.2.neg) → mmaDot xs ys prev = (0, 0))) ∧
    ((∀ p ∈ ps, ¬Lost p) → nan → mmaDot xs ys prev = (0x7FC00000, 0)) ∧
    ((∃ p ∈ ps, Lost p) → mmaDot xs ys prev = (0x7FC00000, 0x10)) ∧
    ((∀ p ∈ ps, ¬Lost p) → ¬nan → inf true → inf false → mmaDot xs ys prev = (0x7FC00000, 0x10)) ∧
    ∀ n : Bool, (∀ p ∈ ps, ¬Lost p) → ¬nan → inf n → ¬inf (!n) → mmaDot xs ys prev = (if n then 0xFF800000 else 0x7F800000, 0) := by
  intro ps nan inf sum
  rw [mmaDot_eq]
  have hnan := dotAcc_nan ps prev
  have hnv := dotAcc_nv ps prev
  have hnotnan (hl : ∀ p ∈ ps, ¬Lost p) (hn : ¬nan) : (dotAcc ps prev).nan = false := by
    rw [← Bool.not_eq_true, hnan]
    rintro (h | ⟨p, hp, h | h⟩)
    · exact hn (.inr h)
    · exact hn (.inl ⟨p, hp, h⟩)
    · exact hl p hp h
  have hinf (hl : ∀ p ∈ ps, ¬Lost p) (hn : ¬nan) (n : Bool) :=
    dotAcc_inf ps prev (fun p hp h => hn (.inl ⟨p, hp, h⟩)) hl n
  refine ⟨fun hfin hprev => ?_, fun hl hn => ?_, fun hl => ?_, fun hl hn ht hf => ?_, fun n hl hn hi hi' => ?_⟩
  · obtain ⟨h1, h2, h3⟩ := dotAcc_finite hfin hprev
    have hround := SumAcc.round_finite h1 h2 h3 (rm := 0) (by decide) 447
    have hsum := dotAcc_sum hfin hprev
    have hzero : (dotAcc ps prev).sum = 0 ↔ sum = 0 := by
      rw [← show _ = sum from hsum, mul_eq_zero, or_iff_left (by positivity), Int.cast_eq_zero]
    have hneg := dotAcc_negZero (prev := prev) hfin
    simp only [hzero] at hround
    rw [hsum] at hround
    refine ⟨fun h => ?_, fun h hz => ?_, fun h hz => ?_⟩
    · rwa [if_neg h] at hround
    · rw [if_pos h, hneg.2 hz] at hround
      exact hround
    · rw [if_pos h, Bool.eq_false_iff.2 (hneg.not.2 hz)] at hround
      exact hround
  · have h1 : (dotAcc ps prev).nan = true := hnan.2 (hn.elim (fun ⟨p, hp, h⟩ => .inr ⟨p, hp, .inl h⟩) .inl)
    have h2 : (dotAcc ps prev).nv = false := by
      rw [← Bool.not_eq_true, hnv]
      rintro ⟨p, hp, h⟩
      exact hl p hp h
    rw [SumAcc.round_nan h1, h2]
    rfl
  · obtain ⟨p, hp, h⟩ := hl
    rw [SumAcc.round_nan (hnan.2 (.inr ⟨p, hp, .inr h⟩)), hnv.2 ⟨p, hp, h⟩]
    rfl
  · exact SumAcc.round_infs (hnotnan hl hn) ((hinf hl hn false).2 hf) ((hinf hl hn true).2 ht) 0 447
  · have h1 := (hinf hl hn n).2 hi
    have h2 := mt (hinf hl hn (!n)).1 hi'
    cases n
    · exact SumAcc.round_inf (n := false) (hnotnan hl hn) h1 (Bool.eq_false_iff.2 h2) 0 447
    · exact SumAcc.round_inf (n := true) (hnotnan hl hn) (Bool.eq_false_iff.2 h2) h1 0 447

end Sys2Proof.Machine
end

section
/-!
The X slot: a matrix multiply on a confirmed path (R186, R252 to R254), and the proof of O28.
-/
namespace Sys2Proof.Machine

open Sys2Proof.Safety

/-! ### Bytes of a row -/

/-- A part of a run of bytes is the run at its address. -/
theorem ldBytes_part (s : State) (a : Word) {n i w : Nat} (h : i + w ≤ n) :
    ((s.ldBytes a n).drop i).take w = s.ldBytes (a + BitVec.ofNat 64 i) w := by
  refine List.ext_getElem ?_ fun j hj hj' => ?_
  · simp [State.ldBytes]; omega
  · simp [State.ldBytes, BitVec.add_assoc, ← BitVec.ofNat_add]

/-! ### The rows of an accumulator -/

/-- A run of rows written from row `m` on. -/
def Regs.setRows (r : Regs) (k m : Nat) (l : List VBits) : Regs := (l.zipIdx m).foldl (fun r o => r.setRow k o.2 o.1) r

theorem Regs.getRow_setRows (k c : Nat) (l : List VBits) (r : Regs) (m : Nat) {j : Nat} (hj : j < 64) (hm : m + l.length ≤ 64) :
    (r.setRows k m l).getRow c j = if h : c = k ∧ m ≤ j ∧ j - m < l.length then l[j - m]'h.2.2 else r.getRow c j := by
  induction l generalizing r m with
  | nil => simp [Regs.setRows]
  | cons x l ih =>
    simp only [List.length_cons] at hm
    rw [Regs.setRows, List.zipIdx_cons, List.foldl_cons, ← Regs.setRows, ih _ _ (by omega)]
    by_cases hc : c = k ∧ j = m
    · obtain ⟨rfl, rfl⟩ := hc
      simp
    · rw [Regs.getRow_setRow_ne r x (by omega) hj hc]
      by_cases h : c = k ∧ m + 1 ≤ j ∧ j - (m + 1) < l.length
      · have h' : j - m = (j - (m + 1)) + 1 := by omega
        rw [dif_pos h, dif_pos (by simp only [List.length_cons]; omega)]
        simp [h']
      · rw [dif_neg h, dif_neg (by simp only [List.length_cons]; omega)]

theorem Regs.setRows_eq (k : Nat) (l : List VBits) (r : Regs) (m : Nat) : ∃ acc, r.setRows k m l = { r with acc } := by
  induction l generalizing r m with
  | nil => exact ⟨r.acc, rfl⟩
  | cons x l ih =>
    obtain ⟨acc, h⟩ := ih (r.setRow k m x) (m + 1)
    exact ⟨acc, h⟩

theorem regsExcept_setRows (k : Nat) (l : List VBits) (r : Regs) (hl : l.length ≤ 64) : RegsExcept [.acc k] r (r.setRows k 0 l) := by
  have hrow (c j : Nat) (hc : Reg.acc c ∉ [Reg.acc k]) (hj : j < 64) : (r.setRows k 0 l).getRow c j = r.getRow c j := by
    rw [Regs.getRow_setRows k c l r 0 hj (by omega), dif_neg (fun h => hc (by simp [h.1]))]
  obtain ⟨acc, h⟩ := Regs.setRows_eq k l r 0
  rw [h] at hrow ⊢
  exact ⟨fun _ _ => rfl, fun _ _ => rfl, fun _ _ => rfl, fun _ _ => rfl, fun _ _ => rfl, hrow, fun _ _ _ _ => rfl, fun _ _ => rfl,
    fun _ _ => rfl, fun _ _ => rfl, fun _ _ => rfl, rfl⟩

/-! ### A multiply's effect -/

/-- The rows that a multiply makes, each with the flags of its sums (R253). -/
def mmaOut (s : State) (form : MmaForm) (k : BitVec 2) (x y : Word) (rows : VBits) (l : Latch) : List (VBits × BitVec 6) :=
  (List.range 64).map fun i =>
    mmaRow form (s.ldBytes (rowAddr x y i) form.row) (lane rows i) ((List.range 64).map l.column) (s.tile.thr.regs.getRow k.toNat i)

theorem mmaRow_lane (form : MmaForm) (bytes : List Byte) (sc : W32) (l : Latch) (prev : VBits) {n : Nat} (hn : n < 64) :
    lane (mmaRow form bytes sc ((List.range 64).map l.column) prev).1 n =
      (mmaDot ((List.range form.k).map fun k => scaled (form.a.decode (ofLE ((bytes.drop (form.a.width / 8 * k)).take (form.a.width / 8)))) sc)
        (l.column n) (lane prev n)).1 := by
  rw [mmaRow, lane_ofLanes _ hn]
  simp [List.getD, hn]

theorem mmaRow_flags (form : MmaForm) (bytes : List Byte) (sc : W32) (l : Latch) (prev : VBits) (j : Nat) :
    (mmaRow form bytes sc ((List.range 64).map l.column) prev).2.getLsbD j = true ↔ ∃ n < 64,
      (mmaDot ((List.range form.k).map fun k => scaled (form.a.decode (ofLE ((bytes.drop (form.a.width / 8 * k)).take (form.a.width / 8)))) sc)
        (l.column n) (lane prev n)).2.getLsbD j = true := by
  rw [mmaRow, getLsbD_foldl_or, or_iff_right (by simp)]
  simp only [List.mem_map, exists_exists_and_eq_and]
  constructor
  · rintro ⟨⟨c, n⟩, hmem, h⟩
    obtain ⟨hn, hc⟩ := List.mem_zipIdx' hmem
    have hn : n < 64 := by simpa using hn
    refine ⟨n, hn, ?_⟩
    simpa [hc] using h
  · rintro ⟨n, hn, h⟩
    refine ⟨(l.column n, n), List.mem_zipIdx_iff_getElem?.2 ?_, h⟩
    simp [hn]

/-- The flags that the sums of a multiply raise. -/
def mmaFlags (s : State) (form : MmaForm) (k : BitVec 2) (x y : Word) (rows : VBits) (l : Latch) : BitVec 6 :=
  ((mmaOut s form k x y rows l).map (·.2)).foldl (fun f r => f ||| r) 0

/-- The state after a multiply, where no store of its bundle is recorded. -/
theorem State.mma_eq {s : State} (hu : Unpoisoned s) (hst : s.tile.iss.stored = []) (form : MmaForm) (k : BitVec 2) (x y : Word) (rows : VBits)
    (l : Latch) :
    ∃ eng, s.mma form k x y rows l s = ((((s.onRegs fun r => r.setRows k.toNat 0 ((mmaOut s form k x y rows l).map (·.1))).onTile fun t =>
      { t with eng := eng }).land (.acc k.toNat) form.readable (mmaFlags s form k x y rows l)).useMatrix form.busy) := by
  have hhurt : (List.range 64).filter (fun i => (s.ueMem (rowAddr x y i) form.row).isSome) = [] := by
    simp [State.ueMem_of_unpoisoned hu]
  refine ⟨{ s.tile.eng with mma := (s.tile.eng.mma.filter fun j => decide (s.cycle < j.until_)) ++
    [⟨k.toNat, x, y, 64, form.row, s.cycle + form.busy, (mmaOut s form k x y rows l).map (·.2)⟩] }, ?_⟩
  have hrows : (fun r : Regs => (mmaOut s form k x y rows l).zipIdx.foldl (fun r o => r.setRow k.toNat o.2 o.1.1) r) =
      fun r => r.setRows k.toNat 0 ((mmaOut s form k x y rows l).map (·.1)) := by
    funext r
    rw [Regs.setRows, List.zipIdx_map, List.foldl_map]
    rfl
  rw [← hrows]
  unfold State.mma
  simp only [hhurt, List.map_nil, List.append_nil, State.onTile, State.land, State.onThr, State.onRegs, hst, List.foldl_nil]
  rfl

/-- No row of an access is out of range. -/
theorem State.oorOf_rows {s : State} {x y : Word} {n : Nat} (h : ∀ i < 64, s.tile.oor (rowAddr x y i) n = none) :
    s.oorOf ((List.range 64).map fun i => (rowAddr x y i, n)) = none := by
  have hlist (l : List Nat) (hl : ∀ i ∈ l, i < 64) : s.oorOf (l.map fun i => (rowAddr x y i, n)) = none := by
    induction l with
    | nil => rfl
    | cons i l ih =>
      have := ih fun j hj => hl j (by simp [hj])
      simpa [State.oorOf, h i (hl i (by simp)), minOpt] using this
  exact hlist _ (by simp)

/-- Valid scales of the rows, the columns and the blocks are no fault. -/
theorem scaleFault_none {rows : VBits} {l : Latch} (hrows : ∀ i < 64, scaleOk (lane rows i) = true)
    (hcols : l.fmt < 4 → ∀ n < 64, scaleOk (l.colScale n) = true)
    (hsides : 4 ≤ l.fmt → ∀ n < 64, ∀ q < 4, sidecarOk (l.colSidecar n q) = true) : scaleFault rows l = none := by
  have h1 : (List.range 64).find? (fun i => !scaleOk (lane rows i)) = none := by simpa using hrows
  rw [scaleFault, h1]
  dsimp only
  split
  · next h => simpa using hcols h
  · next h =>
    rw [Option.map_eq_none_iff, List.find?_eq_none]
    intro i hi
    have hi : i < 256 := by simpa using hi
    simpa using hsides (by omega) (i / 4) (by omega) (i % 4) (by omega)

/-- A multiply whose block is in the latch is checked as R366 orders it. -/
theorem State.mmaOp_checked {s : State} (hspec : s.tile.spec = none) (hbusy : s.matrixBusy = false) {l : Latch} (hl : s.tile.latch = some l)
    (form : MmaForm) (hform : l.fmt = form.b) (k : BitVec 2) (a b c : BitVec 5) :
    s.mmaOp form k a b c = s.checked
      { names := [.s a.toNat, .s b.toNat], ops := [s.opS 0 a, s.opS 1 b], regs := [.v c.toNat]
        first := firstOf [l.poison.map fun w => (tcUE, ueInfo 1 0 (8 * w)), resCheck a.toNat (s.opS 0 a) 0, resCheck b.toNat (s.opS 1 b) 1]
        mem := (List.range 64).map fun i => (rowAddr (s.opS 0 a).val (s.opS 1 b).val i, form.row)
        later := scaleFault (s.rdV c).bits l }
      fun t => t.mma form k (s.opS 0 a).val (s.opS 1 b).val (s.rdV c).bits l s := by
  simp only [State.mmaOp, State.xslot, State.confirmed_of_none hspec, hbusy, State.stallIf_false, hl, hform, ne_eq, not_true, if_false]

/-- A multiply with all its checks passed (R252 to R254). -/
theorem mmaOp_gives {s : State} (hu : Unpoisoned s) (hspec : s.tile.spec = none) (hbusy : s.matrixBusy = false) {l : Latch}
    (hl : s.tile.latch = some l) (hp : l.poison = none) {a b c : BitVec 5} (ha : (s.opS 0 a).ok = true)
    (hb : (s.opS 1 b).ok = true) (hrows : ∀ i < 64, scaleOk (lane (s.rdV c).bits i) = true)
    (hcols : l.fmt < 4 → ∀ n < 64, scaleOk (l.colScale n) = true)
    (hsides : 4 ≤ l.fmt → ∀ n < 64, ∀ q < 4, sidecarOk (l.colSidecar n q) = true) (form : MmaForm) (k : BitVec 2) (hform : l.fmt = form.b)
    (hoor : ∀ i < 64, s.tile.oor (rowAddr (s.opS 0 a).val (s.opS 1 b).val i) form.row = none) :
    s.mmaOp form k a b c = .next (s.mma form k (s.opS 0 a).val (s.opS 1 b).val (s.rdV c).bits l s) := by
  rw [State.mmaOp_checked hspec hbusy hl form hform]
  refine State.checked_pass hu _ ?_ (State.oorOf_rows hoor) (scaleFault_none hrows hcols hsides)
  simp [firstOf, hp, resCheck, ha, hb]

/-- What a multiply changes, field by field. -/
theorem State.mma_fields {s : State} (hu : Unpoisoned s) (hst : s.tile.iss.stored = []) (form : MmaForm) (k : BitVec 2) (x y : Word)
    (rows : VBits) (l : Latch) :
    let t := s.mma form k x y rows l s
    t.tile.thr.regs = s.tile.thr.regs.setRows k.toNat 0 ((mmaOut s form k x y rows l).map (·.1)) ∧
    t.tile.thr.land = (s.land (.acc k.toNat) form.readable (mmaFlags s form k x y rows l)).tile.thr.land ∧
    t.tile.thr.pc = s.tile.thr.pc ∧ t.tile.latch = s.tile.latch ∧ t.tile.mem = s.tile.mem ∧ t.tile.anvil = s.tile.anvil ∧
    t.tile.eng.matrix = s.cycle + form.busy := by
  intro t
  obtain ⟨eng, ht⟩ := State.mma_eq hu hst form k x y rows l
  rw [show t = _ from ht]
  clear ht
  generalize mmaFlags s form k x y rows l = g
  generalize ((mmaOut s form k x y rows l).map (·.1)) = rs
  exact ⟨rfl, rfl, rfl, rfl, rfl, rfl, rfl⟩

/-- The multiply of a form is done: its rows, its flags, and the frame of the matrix engine (R186, R252 to R254). -/
def Multiplied (form : MmaForm) (k : BitVec 2) (x y : Word) (rows : VBits) (l : Latch) (s t : State) : Prop :=
  let elem (i q : Nat) : FVal :=
    form.a.decode (ofLE (s.ldBytes (rowAddr x y i + BitVec.ofNat 64 (form.a.width / 8 * q)) (form.a.width / 8)))
  let row (i : Nat) : List FVal := (List.range form.k).map fun q => scaled (elem i q) (lane rows i)
  let dot (i n : Nat) : W32 × BitVec 6 := mmaDot (row i) (l.column n) (lane (s.tile.thr.regs.getRow k.toNat i) n)
  (∀ i < 64, ∀ n < 64, lane (t.tile.thr.regs.getRow k.toNat i) n = (dot i n).1) ∧
  (∃ flags, Lands s t (.acc k.toNat) form.readable flags ∧ ∀ j < 6, flags.getLsbD j = true ↔
    ∃ i < 64, ∃ n < 64, (dot i n).2.getLsbD j = true) ∧ t.tile.latch = s.tile.latch ∧ OnlyMatrix [.acc k.toNat] form.busy s t

theorem mma_multiplied {s : State} (hu : Unpoisoned s) (hst : s.tile.iss.stored = []) (form : MmaForm) (k : BitVec 2) (x y : Word) (rows : VBits)
    (l : Latch) (hrow : form.row = form.k * (form.a.width / 8)) : Multiplied form k x y rows l s (s.mma form k x y rows l s) := by
  unfold Multiplied
  intro elem row dot
  have hbytes (i : Nat) : ((List.range form.k).map fun q =>
      scaled (form.a.decode (ofLE (((s.ldBytes (rowAddr x y i) form.row).drop (form.a.width / 8 * q)).take (form.a.width / 8)))) (lane rows i)) =
        row i := by
    refine List.map_congr_left fun q hq => ?_
    have hq : q + 1 ≤ form.k := by simpa using hq
    have := Nat.mul_le_mul_left (form.a.width / 8) hq
    rw [ldBytes_part s _ (by rw [hrow, Nat.mul_comm form.k]; rw [Nat.mul_succ] at this; exact this)]
  obtain ⟨hregs, hland, hpc, hlatch, hmem, hanvil, hmatrix⟩ := State.mma_fields hu hst form k x y rows l
  generalize s.mma form k x y rows l s = t at *
  have hlen : ((mmaOut s form k x y rows l).map (·.1)).length = 64 := by simp [mmaOut]
  refine ⟨fun i hi n hn => ?_, ⟨mmaFlags s form k x y rows l, ?_, fun j hj => ?_⟩, hlatch, ?_, ?_, hanvil, ?_, hpc, hmatrix⟩
  · have hget : t.tile.thr.regs.getRow k.toNat i = (mmaRow form (s.ldBytes (rowAddr x y i) form.row) (lane rows i)
        ((List.range 64).map l.column) (s.tile.thr.regs.getRow k.toNat i)).1 := by
      rw [hregs, Regs.getRow_setRows _ _ _ _ _ hi (by omega), dif_pos ⟨rfl, Nat.zero_le _, by omega⟩]
      simp [mmaOut]
    rw [hget, mmaRow_lane _ _ _ _ _ hn, hbytes]
  · rw [Lands, hland]
    exact lands_land s s rfl _ _ _
  · rw [mmaFlags, List.foldl_map, getLsbD_foldl_or, or_iff_right (by simp)]
    simp only [mmaOut, List.mem_map, exists_exists_and_eq_and, List.mem_range, mmaRow_flags, hbytes]
    rfl
  · rw [hregs]
    exact regsExcept_setRows _ _ _ (by omega)
  · intro a
    rw [byteAt, hmem, byteAt]
  · rw [KeepsLandings, hland]
    exact keeps_land s _ _ _

/-- Settles O28: the scaled elements and the sums are `scaled_spec` and `mmaDot_spec`; a multiply writes them by `mma_multiplied`. -/
theorem matrixMultiply : Obligations.MatrixMultiply := by
  unfold Obligations.MatrixMultiply
  refine ⟨fun x sc h => scaled_spec x h, mmaDot_spec, ?_⟩
  intro k a b c l s hu hspec hbusy hl hp hst ha hb rows at_ hrows hcols hsides e he bytes hfmt hoor
  have hgives (i : Instr) (form : MmaForm) (hi : exec i s = s.mmaOp form k a b c) (hform : l.fmt = form.b)
      (hrow : form.row = form.k * (form.a.width / 8)) (hin : ∀ i < 64, s.tile.oor (at_ i) (form.k * (form.a.width / 8)) = none) :
      Gives i s (Multiplied form k (s.opS 0 a).val (s.opS 1 b).val rows l s) :=
    ⟨_, hi.trans (mmaOp_gives hu hspec hbusy hl hp ha hb hrows hcols hsides form k hform (by rw [hrow]; exact hin)), mma_multiplied hu hst form k _ _ rows l hrow⟩
  simp only [List.mem_cons, List.not_mem_nil, or_false] at he
  rcases he with rfl | rfl | rfl | rfl | rfl | rfl | rfl | rfl
  · exact hgives (.mmaBb k a b c) ⟨.bf16, 0, 64, 128, 128⟩ rfl hfmt rfl hoor
  · exact hgives (.mmaHh k a b c) ⟨.f16, 1, 64, 128, 128⟩ rfl hfmt rfl hoor
  · exact hgives (.mmaEe k a b c) ⟨.e4m3, 2, 64, 64, 64⟩ rfl hfmt rfl hoor
  · exact hgives (.mmaEf k a b c) ⟨.e4m3, 3, 64, 64, 64⟩ rfl hfmt rfl hoor
  · exact hgives (.mmaFe k a b c) ⟨.e5m2, 2, 64, 64, 64⟩ rfl hfmt rfl hoor
  · exact hgives (.mmaFf k a b c) ⟨.e5m2, 3, 64, 64, 64⟩ rfl hfmt rfl hoor
  · exact hgives (.mmaEq k a b c) ⟨.e4m3, 4, 128, 128, 64⟩ rfl hfmt rfl hoor
  · exact hgives (.mmaBq k a b c) ⟨.bf16, 4, 128, 256, 128⟩ rfl hfmt rfl hoor

end Sys2Proof.Machine
end

section
/-!
Exact accumulators and the exact sum of lanes (R78, R79, R234): contributions and combinations form a commutative monoid, and reading
rounds the exact value once.
-/
namespace Sys2Proof.Machine

open Sys2Proof.Safety

/-! ### Counts that saturate (R78) -/

theorem toNat_satAdd16 (a b : BitVec 16) : (satAdd16 a b).toNat = min (a.toNat + b.toNat) 0xFFFF := by
  have := a.isLt
  have := b.isLt
  unfold satAdd16
  split
  · show 65535 = _
    omega
  · rw [BitVec.toNat_add]
    omega

theorem satAdd16_one (a : BitVec 16) : satAdd16 a 1 = BitVec.ofNat 16 (min (a.toNat + 1) 0xFFFF) := by
  apply BitVec.eq_of_toNat_eq
  rw [toNat_satAdd16, BitVec.toNat_ofNat, Nat.mod_eq_of_lt (by omega)]
  rfl

theorem satAdd16_comm (a b : BitVec 16) : satAdd16 a b = satAdd16 b a := by
  apply BitVec.eq_of_toNat_eq
  rw [toNat_satAdd16, toNat_satAdd16, Nat.add_comm]

theorem satAdd16_assoc (a b c : BitVec 16) : satAdd16 (satAdd16 a b) c = satAdd16 a (satAdd16 b c) := by
  apply BitVec.eq_of_toNat_eq
  simp only [toNat_satAdd16]
  omega

@[simp] theorem satAdd16_zero (a : BitVec 16) : satAdd16 a 0#16 = a := by
  apply BitVec.eq_of_toNat_eq
  have := a.isLt
  rw [toNat_satAdd16]
  show min (a.toNat + 0) 65535 = _
  omega

@[simp] theorem zero_satAdd16 (a : BitVec 16) : satAdd16 0#16 a = a := by rw [satAdd16_comm, satAdd16_zero]

/-! ### Combining (R78) -/

theorem XA.combine_comm (x y : XA) : x.combine y = y.combine x := by
  have hzs : ∀ a b : BitVec 2, (if a = 0 then b else if b = 0 then a else if a = 2 || b = 2 then 2 else 1) =
      if b = 0 then a else if a = 0 then b else if b = 2 || a = 2 then 2 else 1 := by decide
  rw [XA.combine, XA.combine, satAdd16_comm, satAdd16_comm x.ninf, BitVec.add_comm, Bool.or_comm, hzs]

theorem XA.combine_assoc {x y : XA} (hx : x.zs ≠ 3) (hy : y.zs ≠ 3) (z : XA) : (x.combine y).combine z = x.combine (y.combine z) := by
  have hzs : ∀ a b c : BitVec 2, a ≠ 3 → b ≠ 3 →
      let f (a b : BitVec 2) : BitVec 2 := if a = 0 then b else if b = 0 then a else if a = 2 || b = 2 then 2 else 1
      f (f a b) c = f a (f b c) := by decide
  have h := hzs x.zs y.zs z.zs hx hy
  simp only [XA.combine, satAdd16_assoc, BitVec.add_assoc, Bool.or_assoc]
  simpa using h

theorem XA.combine_clear (x : XA) : x.combine XA.clear = x := by
  obtain ⟨n, p, m, nan, zs⟩ := x
  simpa [XA.combine, XA.clear] using fun h : zs = 0#2 => h.symm

theorem XA.combine_zs {x y : XA} (hx : x.zs ≠ 3) (hy : y.zs ≠ 3) : (x.combine y).zs ≠ 3 := by
  have hzs : ∀ a b : BitVec 2, a ≠ 3 → b ≠ 3 → (if a = 0 then b else if b = 0 then a else if a = 2 || b = 2 then 2 else 1) ≠ (3 : BitVec 2) := by
    decide
  exact hzs _ _ hx hy

/-! ### Contributing (R78) -/

/-- The accumulator that holds one contribution. -/
def XA.of (v : FVal) : XA := XA.clear.contribute v

theorem XA.of_zs (v : FVal) : (XA.of v).zs ≠ 3 := by
  cases v with
  | nan => decide
  | inf n => cases n <;> decide
  | fin n m => cases n <;> by_cases hm : m = 0 <;> simp [XA.of, XA.contribute, XA.clear, hm]

/-- A contribution is a combination. -/
theorem XA.contribute_eq {x : XA} (hx : x.zs ≠ 3) (v : FVal) : x.contribute v = x.combine (XA.of v) := by
  obtain ⟨n, p, m, nan, zs⟩ := x
  have h2 : ∀ a : BitVec 2, (if a = 0 then 2 else if (2 : BitVec 2) = 0 then a else if a = 2 || (2 : BitVec 2) = 2 then 2 else 1) = (2 : BitVec 2) := by
    decide
  have h1 : ∀ a : BitVec 2, a ≠ 3 →
      (if a = 0 then 1 else if (1 : BitVec 2) = 0 then a else if a = 2 || (1 : BitVec 2) = 2 then 2 else 1) = if a = 0 then (1 : BitVec 2) else a := by
    decide
  cases v with
  | nan => simp [XA.of, XA.contribute, XA.clear, XA.combine]
  | inf s => cases s <;> simp [XA.of, XA.contribute, XA.clear, XA.combine]
  | fin s k =>
    by_cases hz : (s && decide (k = 0)) = true
    · have h := h1 zs hx
      by_cases h0 : zs = 0#2
      · simp [XA.of, XA.contribute, XA.clear, XA.combine, hz, h0]
      · simpa [XA.of, XA.contribute, XA.clear, XA.combine, hz, h0] using h.symm
    · simp [XA.of, XA.contribute, XA.clear, XA.combine, hz]

theorem XA.contribute_comm {x : XA} (hx : x.zs ≠ 3) (a b : FVal) : (x.contribute a).contribute b = (x.contribute b).contribute a := by
  rw [XA.contribute_eq hx, XA.contribute_eq hx, XA.contribute_eq (XA.combine_zs hx (XA.of_zs a)), XA.contribute_eq (XA.combine_zs hx (XA.of_zs b)),
    XA.combine_assoc hx (XA.of_zs a), XA.combine_assoc hx (XA.of_zs b), XA.combine_comm (XA.of a)]

theorem XA.contribute_combine {x y : XA} (hx : x.zs ≠ 3) (hy : y.zs ≠ 3) (a : FVal) : (x.contribute a).combine y = (x.combine y).contribute a := by
  rw [XA.contribute_eq hx, XA.contribute_eq (XA.combine_zs hx hy), XA.combine_assoc hx (XA.of_zs a), XA.combine_assoc hx hy, XA.combine_comm y]

theorem XA.contribute_finite (x : XA) {c : W32} (hc : FiniteFp c) (h0 : c ≠ 0x80000000) :
    ∃ n : ℤ, (n : ℝ) = fpReal c * (2 : ℝ) ^ (149 : ℤ) ∧ x.contribute (f32 c) = { x with n := x.n + BitVec.ofInt 384 n, zs := 2 } := by
  obtain ⟨m, hm, -⟩ := exists_finReal hc
  refine ⟨(f32 c).int, ?_, ?_⟩
  · rw [fpReal_int hc, mul_assoc, ← zpow_add₀ two_ne_zero]
    simp
  · have hz : (c.getLsbD 31 && decide (m = 0)) = false := by
      rw [← Bool.not_eq_true, Bool.and_eq_true, decide_eq_true_eq]
      rintro ⟨hs, rfl⟩
      rw [hs] at hm
      exact h0 ((f32_eq_zero_iff c true).1 hm)
    simp only [hm, XA.contribute, hz, Bool.false_eq_true, if_false]

/-! ### Reading (R79) -/

theorem roundInt_rounds {f : Fmt} (hf : f.Std) {rm : Nat} (hrm : rm < 4) {v : ℤ} (hv : v ≠ 0) (x : ℤ) (z : Bool) :
    RoundsTo f rm false (v * (2 : ℝ) ^ x) (roundInt f rm v x z) := by
  have hreal : (v : ℝ) * (2 : ℝ) ^ x = sgn (decide (v < 0)) * (v.natAbs * (2 : ℝ) ^ x) := by
    rw [← mul_assoc]
    congr 1
    rcases lt_or_gt_of_ne hv with h | h
    · rw [Nat.cast_natAbs, abs_of_neg h, decide_eq_true h]; simp [sgn]
    · rw [Nat.cast_natAbs, abs_of_pos h, decide_eq_false (by omega)]; simp [sgn]
  rw [roundInt, if_neg hv, hreal]
  exact roundMag_roundsTo hf hrm false _ x rfl (by positivity) (by simp)

theorem XA.read_spec (x : XA) {f : Fmt} (hf : f ∈ [Fmt.f32, .bf16]) :
    let r := x.read f
    let nan := if f = .f32 then 0x7FC00000 else 0x7FC0
    (x.nan = true → r = (nan, 0)) ∧ (x.nan = false → x.pinf ≠ 0 → x.ninf ≠ 0 → r = (nan, 0x10)) ∧
    (x.nan = false → x.pinf ≠ 0 → x.ninf = 0 → r = (f.maxCode + 1, 0)) ∧
    (x.nan = false → x.pinf = 0 → x.ninf ≠ 0 → r = (2 ^ (f.eb + f.mb) + f.maxCode + 1, 0)) ∧
    (x.nan = false → x.pinf = 0 → x.ninf = 0 → x.n = 0 → r = (if x.zs = 1 then 2 ^ (f.eb + f.mb) else 0, 0)) ∧
    (x.nan = false → x.pinf = 0 → x.ninf = 0 → x.n ≠ 0 → RoundsTo f 0 false (x.n.toInt * (2 : ℝ) ^ (-149 : ℤ)) r) := by
  intro r nan
  have hstd : f.Std := by
    rcases List.mem_pair.1 hf with rfl | rfl
    · exact Fmt.std_f32
    · exact Fmt.std_bf16
  have hcodes : f.nan = nan ∧ f.infCode false = f.maxCode + 1 ∧ f.infCode true = 2 ^ (f.eb + f.mb) + f.maxCode + 1 := by
    rcases List.mem_pair.1 hf with rfl | rfl <;> decide
  obtain ⟨hnan, hpos, hneg⟩ := hcodes
  refine ⟨fun h => ?_, fun h1 h2 h3 => ?_, fun h1 h2 h3 => ?_, fun h1 h2 h3 => ?_, fun h1 h2 h3 h4 => ?_, fun h1 h2 h3 h4 => ?_⟩
  · simp only [r, XA.read, h, Bool.true_or, if_true, hnan]
  · rw [show r = x.read f from rfl, XA.read, h1, decide_eq_true h2, decide_eq_true h3, hnan]
    rfl
  · rw [show r = x.read f from rfl, XA.read, h1, decide_eq_false (not_not.2 h3), if_neg (by simp), if_pos h2, hpos]
  · rw [show r = x.read f from rfl, XA.read, h1, decide_eq_false (not_not.2 h2), if_neg (by simp), if_neg (not_not.2 h2), if_pos h3, hneg]
  · by_cases hz : x.zs = 1 <;> simp [r, XA.read, h1, h2, h3, h4, roundInt, Fmt.sign_eq, hz]
  · have hread : r = roundInt f 0 x.n.toInt (-149) (decide (x.zs = 1)) := by simp [r, XA.read, h1, h2, h3]
    rw [hread]
    exact roundInt_rounds hstd (by decide) (fun h => h4 (BitVec.toInt_inj.1 (by simpa using h))) _ _

/-! ### The sum of the selected lanes (R234) -/

section
variable (l : List W32)

/-- What the sum of lanes has gathered. -/
def laneAcc : SumAcc := SumAcc.empty.terms 0 (l.map f32)

theorem laneAcc_nan : (laneAcc l).nan = true ↔ ∃ x ∈ l, f32 x = .nan := by simp [laneAcc, SumAcc.terms_eq, SumAcc.empty]

theorem laneAcc_inf (n : Bool) : (if n then (laneAcc l).ninf else (laneAcc l).pinf) = true ↔ ∃ x ∈ l, f32 x = .inf n := by
  cases n <;> simp [laneAcc, SumAcc.terms_eq, SumAcc.empty]

theorem laneAcc_nv : (laneAcc l).nv = false := by simp [laneAcc, SumAcc.terms_eq, SumAcc.empty]

theorem laneAcc_negZero : (laneAcc l).allNegZero = true ↔ ∀ x ∈ l, x = 0x80000000 := by
  have h (x : W32) : f32 x = .fin true 0 ↔ x = 0x80000000 := f32_eq_zero_iff x true
  simp only [← h]
  simp [laneAcc, SumAcc.terms_eq, SumAcc.empty]

variable {l}

theorem laneAcc_sum (hl : ∀ x ∈ l, FiniteFp x) : ((laneAcc l).sum : ℝ) * (2 : ℝ) ^ (-149 : ℤ) = (l.map fpReal).sum := by
  have hmap : l.map fpReal = l.map fun x => ((f32 x).int : ℝ) * (2 : ℝ) ^ (-149 : ℤ) := List.map_congr_left fun x hx => fpReal_int (hl x hx)
  have hsum : (laneAcc l).sum = (l.map fun x => (f32 x).int).sum := by
    simp [laneAcc, SumAcc.terms_eq, SumAcc.empty, Function.comp_def]
  rw [hmap, List.sum_map_mul_right, hsum, Int.cast_list_sum, List.map_map]
  rfl

theorem laneAcc_finite (hl : ∀ x ∈ l, FiniteFp x) : (laneAcc l).nan = false ∧ (laneAcc l).pinf = false ∧ (laneAcc l).ninf = false := by
  have hx (x) (h : x ∈ l) : ∃ s m, f32 x = .fin s m := let ⟨m, hm, _⟩ := exists_finReal (hl x h); ⟨_, m, hm⟩
  have hinf (n : Bool) : ¬(if n then (laneAcc l).ninf else (laneAcc l).pinf) = true := by
    rw [laneAcc_inf]
    rintro ⟨x, h, he⟩
    obtain ⟨s, m, hm⟩ := hx x h
    exact nomatch he.symm.trans hm
  refine ⟨?_, by simpa using hinf false, by simpa using hinf true⟩
  rw [← Bool.not_eq_true, laneAcc_nan]
  rintro ⟨x, h, he⟩
  obtain ⟨s, m, hm⟩ := hx x h
  exact nomatch he.symm.trans hm

variable (l) in
theorem vsum_eq (rm : Nat) : vsum rm l =
    if ((laneAcc l).nan || (laneAcc l).pinf || (laneAcc l).ninf || (laneAcc l).sum ≠ 0) then pack32 ((laneAcc l).round .f32 rm 0)
    else if l.all (fun x => x == 0) then (0, 0)
    else zero32 ((laneAcc l).allNegZero || rm == 2) := by
  have hacc : l.foldl (fun a x => a.add 0 (f32 x)) SumAcc.empty = laneAcc l := by rw [laneAcc, SumAcc.terms, List.foldl_map]
  have hz (z : Bool) : pack32 (roundInt .f32 rm 0 0 z) = zero32 z := by rw [roundInt, if_pos rfl, pack_sign_zero]
  simp only [vsum, hacc, hz]

end

theorem vsum_spec {rm : Nat} (l : List W32) (hrm : rm < 4) :
    let nan : Prop := ∃ x ∈ l, f32 x = .nan
    let inf (n : Bool) : Prop := ∃ x ∈ l, f32 x = .inf n
    ((∀ x ∈ l, FiniteFp x) →
      ((l.map fpReal).sum ≠ 0 → RoundsFp rm (l.map fpReal).sum (vsum rm l)) ∧
      ((∀ x ∈ l, x = 0) → vsum rm l = (0, 0)) ∧ (l ≠ [] → (∀ x ∈ l, x = 0x80000000) → vsum rm l = (0x80000000, 0)) ∧
      ((l.map fpReal).sum = 0 → (∃ x ∈ l, x ≠ 0) → (∃ x ∈ l, x ≠ 0x80000000) → vsum rm l = (if rm = 2 then 0x80000000 else 0, 0))) ∧
    (nan → vsum rm l = (0x7FC00000, 0)) ∧ (¬nan → inf true → inf false → vsum rm l = (0x7FC00000, 0x10)) ∧
    ∀ n : Bool, ¬nan → inf n → ¬inf (!n) → vsum rm l = (if n then 0xFF800000 else 0x7F800000, 0) := by
  intro nan inf
  rw [vsum_eq]
  have hnan := laneAcc_nan l
  have hinf := laneAcc_inf l
  have hnotnan (h : ¬nan) : (laneAcc l).nan = false := by rw [← Bool.not_eq_true, hnan]; exact h
  refine ⟨fun hl => ?_, fun h => ?_, fun h ht hf => ?_, fun n h hi hi' => ?_⟩
  · obtain ⟨h1, h2, h3⟩ := laneAcc_finite hl
    have hsum := laneAcc_sum hl
    have hzero : (laneAcc l).sum = 0 ↔ (l.map fpReal).sum = 0 := by
      rw [← hsum, mul_eq_zero, or_iff_left (by positivity), Int.cast_eq_zero]
    have hall (z : Bool) (h : ∀ x ∈ l, x = (zero32 z).1) : (l.map fpReal).sum = 0 := by
      refine List.sum_eq_zero fun r hr => ?_
      obtain ⟨x, hx, rfl⟩ := List.mem_map.1 hr
      rw [h x hx]
      exact (fpReal_zero32 z).1
    have hzeros (hz : (l.map fpReal).sum = 0) :
        ((laneAcc l).nan || (laneAcc l).pinf || (laneAcc l).ninf || decide ((laneAcc l).sum ≠ 0)) = false := by
      simp [h1, h2, h3, hzero.2 hz]
    refine ⟨fun h => ?_, fun h => ?_, fun hne h => ?_, fun h ⟨x, hx, hx0⟩ ⟨y, hy, hy0⟩ => ?_⟩
    · have hround := SumAcc.round_finite h1 h2 h3 hrm 0
      rw [if_neg (hzero.not.2 h), Nat.add_zero] at hround
      rw [if_pos (by simp [hzero.not.2 h]), ← hsum]
      exact hround
    · rw [hzeros (hall false h), if_neg (by decide), if_pos (by simpa using h)]
    · have hnz : ¬(l.all fun x => x == 0) = true := by
        rw [List.all_eq_true]
        intro h0
        obtain ⟨x, hx⟩ := List.exists_mem_of_ne_nil l hne
        have := h0 x hx
        rw [h x hx] at this
        exact absurd this (by decide)
      rw [hzeros (hall true h), if_neg (by decide), if_neg hnz, (laneAcc_negZero l).2 h]
      rfl
    · have hnz : ¬(l.all fun x => x == 0) = true := by
        rw [List.all_eq_true]
        exact fun h0 => hx0 (by simpa using h0 x hx)
      have hneg : (laneAcc l).allNegZero = false := by
        rw [← Bool.not_eq_true, laneAcc_negZero]
        exact fun h0 => hy0 (h0 y hy)
      rw [hzeros h, if_neg (by decide), if_neg hnz, hneg, Bool.false_or]
      simp [zero32]
  · rw [hnan.2 h, if_pos (by simp), SumAcc.round_nan (hnan.2 h), laneAcc_nv]
    rfl
  · have h1 := (hinf true).2 ht
    have h2 := (hinf false).2 hf
    simp only [Bool.false_eq_true, if_true, if_false] at h1 h2
    rw [if_pos (by simp [h1]), SumAcc.round_infs (hnotnan h) h2 h1]
  · have h1 := (hinf n).2 hi
    have h2 := mt (hinf (!n)).1 hi'
    cases n
    · have h3 : (laneAcc l).pinf = true := h1
      rw [if_pos (by simp [h3])]
      exact SumAcc.round_inf (n := false) (hnotnan h) h3 (Bool.eq_false_iff.2 h2) rm 0
    · have h3 : (laneAcc l).ninf = true := h1
      rw [if_pos (by simp [h3])]
      exact SumAcc.round_inf (n := true) (hnotnan h) (Bool.eq_false_iff.2 h2) h3 rm 0

end Sys2Proof.Machine
end

section
/-!
The V slot: comparisons, masks, moves of one lane, reductions and exact accumulation (R229, R234, R236, R237, R244 to R248), and the proof
of O26.
-/
namespace Sys2Proof.Machine

open Sys2Proof.Safety

/-! ### Conditions and lanes -/

/-- The conditions of VCMP (R236). -/
theorem laneCond_eq (c : BitVec 8) (hc : c.toNat ≤ 9) (x y : W32) : laneCond c.toNat x y =
    if c.toNat < 4 then fpCmp c.toNat x y
    else decide ((c = 4 ∧ x = y) ∨ (c = 5 ∧ x ≠ y) ∨ (c = 6 ∧ x.toInt < y.toInt) ∨ (c = 7 ∧ y.toInt ≤ x.toInt) ∨
      (c = 8 ∧ x.toNat < y.toNat) ∨ (c = 9 ∧ y.toNat ≤ x.toNat)) := by
  unfold laneCond
  split
  · rfl
  · next h =>
    have h9 : c = 4 ∨ c = 5 ∨ c = 6 ∨ c = 7 ∨ c = 8 ∨ c = 9 := by
      simp only [← BitVec.toNat_inj]
      show c.toNat = 4 ∨ c.toNat = 5 ∨ c.toNat = 6 ∨ c.toNat = 7 ∨ c.toNat = 8 ∨ c.toNat = 9
      omega
    rcases h9 with rfl | rfl | rfl | rfl | rfl | rfl
    · show (x == y) = _
      simp [beq_eq_decide]
    · show (x != y) = _
      simp [bne, beq_eq_decide]
    · show x.slt y = _
      simp [BitVec.slt]
    · show (!x.slt y) = _
      simp [BitVec.slt, ← decide_not]
    · show x.ult y = _
      simp [BitVec.ult]
    · show (!x.ult y) = _
      simp [BitVec.ult, ← decide_not]

/-- The gathered lanes of a masked operation (R229). -/
theorem lane_gather_merged (mk : Word) (old : VVal) (f : Nat → LaneOut) {i : Nat} (hi : i < 64) :
    lane (gather (merged mk old f)).1.bits i = if mk.getLsbD i then (f i).val else lane old.bits i := by
  rw [gather, VVal.ofLanes_bits, lane_ofLanes _ hi]
  simp only [merged, List.getD_eq_getElem?_getD, List.getElem?_map, List.getElem?_range hi, Option.map_some, Option.getD_some, sel]
  exact apply_ite LaneOut.val _ _ _

/-! ### A write to an exact accumulator (R182, R248) -/

/-- The lanes of an exact accumulator that are changed, one after the other. -/
def Regs.mapXA (r : Regs) (k : Nat) (sel : Nat → Bool) (f : Nat → XA → XA) (l : List Nat) : Regs :=
  l.foldl (fun r i => if sel i then r.setXA k i (f i (r.getXA k i)) else r) r

theorem Regs.getXA_mapXA (k c : Nat) (sel : Nat → Bool) (f : Nat → XA → XA) {l : List Nat} (hl : l.Nodup) (h64 : ∀ i ∈ l, i < 64) (r : Regs)
    {j : Nat} (hj : j < 64) :
    (r.mapXA k sel f l).getXA c j = if c = k ∧ j ∈ l ∧ sel j then f j (r.getXA c j) else r.getXA c j := by
  induction l generalizing r with
  | nil => simp [Regs.mapXA]
  | cons i l ih =>
    obtain ⟨hi, hl⟩ := List.nodup_cons.1 hl
    have hi64 := h64 i (by simp)
    rw [Regs.mapXA, List.foldl_cons, ← Regs.mapXA, ih hl fun i h => h64 i (by simp [h])]
    by_cases hc : c = k ∧ j = i
    · obtain ⟨rfl, rfl⟩ := hc
      cases sel j <;> simp [hi]
    · have hget : (if sel i then r.setXA k i (f i (r.getXA k i)) else r).getXA c j = r.getXA c j := by
        split
        · exact Regs.getXA_setXA_ne r _ hi64 hj hc
        · rfl
      have hmem : (c = k ∧ j ∈ i :: l ∧ sel j) ↔ (c = k ∧ j ∈ l ∧ sel j) := by
        rw [List.mem_cons]; tauto
      rw [hget]
      simp only [hmem]

theorem Regs.mapXA_eq (k : Nat) (sel : Nat → Bool) (f : Nat → XA → XA) (l : List Nat) (r : Regs) : ∃ xa, r.mapXA k sel f l = { r with xa } := by
  induction l generalizing r with
  | nil => exact ⟨r.xa, rfl⟩
  | cons i l ih =>
    rw [Regs.mapXA, List.foldl_cons, ← Regs.mapXA]
    split
    · obtain ⟨xa, h⟩ := ih (r.setXA k i (f i (r.getXA k i)))
      exact ⟨xa, h⟩
    · exact ih r

theorem regsExcept_mapXA (k : Nat) (sel : Nat → Bool) (f : Nat → XA → XA) (r : Regs) :
    RegsExcept [.xa k] r (r.mapXA k sel f (List.range 64)) := by
  have hxa (c j : Nat) (hc : Reg.xa c ∉ [Reg.xa k]) (hj : j < 64) : (r.mapXA k sel f (List.range 64)).getXA c j = r.getXA c j := by
    rw [Regs.getXA_mapXA k c sel f List.nodup_range (by simp) r hj, if_neg (fun h => hc (by simp [h.1]))]
  obtain ⟨xa, h⟩ := Regs.mapXA_eq k sel f (List.range 64) r
  rw [h] at hxa ⊢
  exact ⟨fun _ _ => rfl, fun _ _ => rfl, fun _ _ => rfl, fun _ _ => rfl, fun _ _ => rfl, fun _ _ _ _ => rfl, hxa, fun _ _ => rfl,
    fun _ _ => rfl, fun _ _ => rfl, fun _ _ => rfl, rfl⟩

/-- A write to an exact accumulator that no earlier one of the bundle has written. -/
theorem State.wrXA_eq {s : State} {k : BitVec 1} (lat : Nat) (sel : Nat → Bool) (f : Nat → XA → XA)
    (h : lat = 24 ∨ s.clash (.xa k.toNat) = false) :
    s.wrXA k lat sel f = ((s.onRegs fun r => r.mapXA k.toNat sel f (List.range 64)).clean (.xa k.toNat)).land (.xa k.toNat) lat 0 := by
  have htwice : (s.tile.thr.land.any fun l => l.dest == .xa k.toNat && decide (l.ready = s.cycle + 24) && decide (lat ≠ 24)) = false := by
    rw [← Bool.not_eq_true, List.any_eq_true]
    rintro ⟨l, hl, hl'⟩
    simp only [Bool.and_eq_true, decide_eq_true_eq] at hl'
    obtain ⟨⟨hd, hr⟩, hne⟩ := hl'
    have hc := h.resolve_left hne
    simp only [State.clash, List.any_eq_false] at hc
    exact hc l hl (by simp [hd, hr])
  simp only [State.wrXA, htwice, Bool.false_eq_true, if_false]
  rfl

theorem State.wrXA_spec {s : State} (hp : s.tile.poison = []) {k : BitVec 1} (hc : s.clash (.xa k.toNat) = false) (lat : Nat) (sel : Nat → Bool)
    (f : Nat → XA → XA) :
    let t := s.wrXA k lat sel f
    (∀ i < 64, t.tile.thr.regs.getXA k.toNat i = if sel i then f i (s.tile.thr.regs.getXA k.toNat i) else s.tile.thr.regs.getXA k.toNat i) ∧
      Lands s t (.xa k.toNat) lat 0 ∧ OnlyRegs [.xa k.toNat] s t := by
  intro t
  rw [show t = _ from State.wrXA_eq lat sel f (.inr hc)]
  refine ⟨fun i hi => ?_, lands_land _ s rfl _ _ _, onlyRegs_write hp _ _ _ _ _ (regsExcept_mapXA _ _ _ _)⟩
  show (s.tile.thr.regs.mapXA k.toNat sel f (List.range 64)).getXA k.toNat i = _
  rw [Regs.getXA_mapXA _ _ _ _ List.nodup_range (by simp) _ hi]
  simp [hi]

/-! ### The instructions -/

section
variable {s : State} (hu : Unpoisoned s)
include hu

theorem exec_vcmp {k : BitVec 3} (hk : s.clash (.m k.toNat) = false) (a b : BitVec 5) (m : BitVec 3) (c : BitVec 8) :
    ∃ t, execVcmp k a b m c s = .next t ∧ ∃ v : Word, ToM s t k v 4 ∧
      ∀ l < 64, v.getLsbD l = ((s.rdM m).getLsbD l && laneCond c.toNat (lane (s.rdV a).bits l) (lane (s.rdV b).bits l)) := by
  unfold execVcmp
  exact ⟨_, State.checked_plain hu _ rfl rfl rfl, _, State.wrM_spec hu.2 hk _ 4, fun l hl => by rw [getLsbD_maskOf _ hl]; rfl⟩

theorem exec_vmovmToMask {k : BitVec 3} (hk : s.clash (.m k.toNat) = false) (a : BitVec 5) :
    ∃ t, execVmovmToMask k a s = .next t ∧ ToM s t k (s.opS 0 a).val 4 := by
  unfold execVmovmToMask
  exact ⟨_, State.checked_plain hu _ rfl rfl rfl, State.wrM_spec hu.2 hk _ 4⟩

theorem State.mop_spec {k : BitVec 3} (hk : s.clash (.m k.toNat) = false) (i j : BitVec 3) (f : Word → Word → Word) :
    ∃ t, s.mop k i j f = .next t ∧ ToM s t k (f (s.rdM i) (s.rdM j)) 4 := by
  unfold State.mop
  exact ⟨_, State.checked_plain hu _ rfl rfl rfl, State.wrM_spec hu.2 hk _ 4⟩

theorem exec_vmovmToScalar {d : BitVec 5} (hd : s.clash (.s d.toNat) = false) (i : BitVec 3) :
    ∃ t, execVmovmToScalar d i s = .next t ∧ ToS s t d (s.rdM i) 4 0 := by
  unfold execVmovmToScalar
  exact ⟨_, State.checked_plain hu _ rfl rfl rfl, (State.wrS_spec hu.2 hd _ 4 0).1⟩

theorem exec_vsel {d : BitVec 5} (hd : s.clash (.v d.toNat) = false) (a b : BitVec 5) (k : BitVec 3) :
    ∃ t, execVsel d a b k s = .next t ∧
      ToV s t d (fun l => if (s.rdM k).getLsbD l then lane (s.rdV a).bits l else lane (s.rdV b).bits l) 4 0 := by
  obtain ⟨⟨hbits, hland, honly⟩, -⟩ := State.wrV_spec hu.2 hd
    (VVal.ofBits (ofLanes fun i => if sel (s.rdM k) i then lane (s.rdV a).bits i else lane (s.rdV b).bits i)) 4 0
  unfold execVsel
  exact ⟨_, State.checked_plain hu _ rfl rfl rfl, fun i hi => by rw [hbits i hi, VVal.ofBits_bits, lane_ofLanes _ hi]; rfl, hland, honly⟩

theorem exec_vgets {d : BitVec 5} (hd : s.clash (.s d.toNat) = false) (a : BitVec 5) (n : BitVec 6) :
    ∃ t, execVgets d a n s = .next t ∧ ToS s t d (BitVec.ofNat 64 (lane (s.rdV a).bits n.toNat).toNat) 4 0 ∧
      (d ≠ 0 → (t.tile.thr.regs.getS d.toNat).res = (s.rdV a).laneRes n.toNat) := by
  obtain ⟨hto, hres⟩ := State.wrS_spec hu.2 hd ⟨(lane (s.rdV a).bits n.toNat).zeroExtend 64, (s.rdV a).laneRes n.toNat⟩ 4 0
  rw [BitVec.ofNat_toNat]
  unfold execVgets
  exact ⟨_, State.checked_plain hu _ rfl rfl rfl, hto, fun h => by rw [hres h]⟩

theorem exec_vputs {d : BitVec 5} (hd : s.clash (.v d.toNat) = false) (a : BitVec 5) (n : BitVec 6) :
    ∃ t, execVputs d a n s = .next t ∧
      ToV s t d (fun l => if l = n.toNat then BitVec.ofNat 32 (s.opS 0 a).val.toNat else lane (s.rdV d).bits l) 4 0 := by
  obtain ⟨⟨hbits, hland, honly⟩, -⟩ := State.wrV_spec hu.2 hd
    (gather (merged (maskOf (· == n.toNat)) (s.rdV d) fun _ => LaneOut.plain ((s.opS 0 a).val.extractLsb' 0 32))).1 4 0
  unfold execVputs
  refine ⟨_, State.checked_plain hu _ rfl rfl rfl, fun i hi => ?_, hland, honly⟩
  rw [hbits i hi, lane_gather_merged _ _ _ hi, getLsbD_maskOf _ hi]
  by_cases h : i = n.toNat
  · simp [h, LaneOut.plain, BitVec.setWidth_eq_extractLsb']
  · simp [h]

theorem State.vreduce_spec {d : BitVec 4} (hd : s.clash (.f d.toNat) = false) (a : BitVec 5) (m : BitVec 3) (f : List W32 → W32 × BitVec 6) :
    ∃ t, s.vreduce d a m f = .next t ∧
      let r := f (((List.range 64).filter fun l => (s.rdM m).getLsbD l).map fun l => lane (s.rdV a).bits l)
      ToF s t d r.1 8 r.2 := by
  unfold State.vreduce
  exact ⟨_, State.checked_plain hu _ rfl rfl rfl, State.wrF_spec hu.2 hd _ 8 _⟩

/-- Exact accumulation at the selected lanes (R246). -/
theorem State.contributeXA_spec {k : BitVec 1} (hk : s.clash (.xa k.toNat) = false) (a : BitVec 5) (m : BitVec 3) (g : W32 → FVal) :
    ∃ t, s.contributeXA k a m g = .next t ∧
      (∀ i < 64, t.tile.thr.regs.getXA k.toNat i =
        if (s.rdM m).getLsbD i then (s.tile.thr.regs.getXA k.toNat i).contribute (g (lane (s.rdV a).bits i))
        else s.tile.thr.regs.getXA k.toNat i) ∧ Lands s t (.xa k.toNat) 6 0 ∧ OnlyRegs [.xa k.toNat] s t := by
  unfold State.contributeXA
  exact ⟨_, State.checked_plain hu _ rfl rfl rfl, State.wrXA_spec hu.2 hk 6 (sel (s.rdM m)) _⟩

theorem exec_vxclr {k : BitVec 1} (hk : s.clash (.xa k.toNat) = false) (m : BitVec 3) :
    ∃ t, execVxclr k m s = .next t ∧
      (∀ i < 64, t.tile.thr.regs.getXA k.toNat i = if (s.rdM m).getLsbD i then XA.clear else s.tile.thr.regs.getXA k.toNat i) ∧
      Lands s t (.xa k.toNat) 4 0 ∧ OnlyRegs [.xa k.toNat] s t := by
  unfold execVxclr
  exact ⟨_, State.checked_plain hu _ rfl rfl rfl, State.wrXA_spec hu.2 hk 4 (sel (s.rdM m)) _⟩

end

/-- Settles O26: accumulators are a commutative monoid (`XA.contribute_eq`), sums and readings round once (`vsum_spec`, `XA.read_spec`), and the
instructions write what their functions give. -/
theorem masksReductionsAccumulation : Obligations.MasksReductionsAccumulation := by
  unfold Obligations.MasksReductionsAccumulation
  refine ⟨fun x y z a b c hx hy => ?_, fun x f hf => XA.read_spec x hf, fun rm l hrm => vsum_spec l hrm,
    fun d a b e k i j m n c s hu hc hk hv hs hf => ?_, fun k a m s hu hk => ?_⟩
  · refine ⟨rfl, ?_, ?_, rfl, XA.contribute_finite x, XA.contribute_comm hx a b, XA.contribute_combine hx hy a, XA.combine_comm x y,
      XA.combine_assoc hx hy z, XA.combine_clear x⟩
    · rw [← satAdd16_one]; rfl
    · rw [← satAdd16_one]; rfl
  · intro x y cond chosen
    refine ⟨?_, fun f hf => ?_, gives_of_exec (exec_vmovmToScalar hu hs i) rfl, gives_of_exec (exec_vsel hu hv a b k) rfl,
      gives_of_exec (exec_vgets hu hs a n) rfl, gives_of_exec (exec_vputs hu hv a n) rfl,
      gives_of_exec (State.vreduce_spec hu hf a m fun l => (l.foldl fpMax 0xFF800000, 0)) rfl,
      gives_of_exec (State.vreduce_spec hu hf a m fun l => (l.foldl fpMin 0x7F800000, 0)) rfl,
      gives_of_exec (State.vreduce_spec hu hf a m (vsum s.rm)) rfl⟩
    · obtain ⟨t, ht, v, hto, hbits⟩ := exec_vcmp hu hk a b m c
      exact ⟨t, ht, v, hto, fun l hl => by rw [hbits l hl, laneCond_eq c hc]⟩
    · simp only [List.mem_cons, List.not_mem_nil, or_false] at hf
      rcases hf with rfl | rfl | rfl | rfl
      · exact gives_of_exec (exec_vmovmToMask hu hk a) rfl
      · exact gives_of_exec (State.mop_spec hu hk i j (· &&& ·)) rfl
      · exact gives_of_exec (State.mop_spec hu hk i j (· ||| ·)) rfl
      · exact gives_of_exec (State.mop_spec hu hk i i fun x _ => ~~~x) rfl
  · intro old x e he
    simp only [List.mem_cons, List.not_mem_nil, or_false] at he
    rcases he with rfl | rfl | rfl
    · exact gives_of_exec (State.contributeXA_spec hu hk a m f32) rfl
    · exact gives_of_exec (State.contributeXA_spec hu hk a m fun x => Fmt.bf16.decode (x.toNat % 65536)) rfl
    · exact gives_of_exec (exec_vxclr hu hk m) rfl

end Sys2Proof.Machine
end

section
/-!
E2M1 (R65, R76, R241): the candidates of a quotient and the one that is taken.
-/
namespace Sys2Proof.Machine

open Sys2Proof.Safety

/-! ### The least of a list -/

/-- The element of the least key, the first of several. -/
def leastBy {α : Type} (key : α → ℤ) (b : α) (l : List α) : α := l.foldl (fun b c => if key c < key b then c else b) b

theorem leastBy_spec {α : Type} (key : α → ℤ) (b : α) (l : List α) : leastBy key b l ∈ b :: l ∧ ∀ x ∈ b :: l, key (leastBy key b l) ≤ key x := by
  induction l generalizing b with
  | nil => simp [leastBy]
  | cons c l ih =>
    rw [leastBy, List.foldl_cons, ← leastBy]
    obtain ⟨hmem, hle⟩ := ih (if key c < key b then c else b)
    have hfirst := hle _ (List.mem_cons_self ..)
    refine ⟨?_, fun x hx => ?_⟩
    · rcases List.mem_cons.1 hmem with h | h
      · rw [h]; split <;> simp
      · exact List.mem_cons_of_mem _ (List.mem_cons_of_mem _ h)
    · have hbc : key (if key c < key b then c else b) ≤ key b ∧ key (if key c < key b then c else b) ≤ key c := by
        split <;> constructor <;> omega
      rcases List.mem_cons.1 hx with rfl | hx
      · omega
      · rcases List.mem_cons.1 hx with rfl | hx
        · omega
        · exact hle x (List.mem_cons_of_mem _ hx)

/-! ### Codes (R65) -/

/-- The value of a regular code in halves. -/
def e2m1Halves (c : Nat) : ℤ := if 8 ≤ c then -(e2m1Half c : ℤ) else e2m1Half c

/-- The value of a code in units of 2^-149. -/
def e2m1Int (extra c : Nat) : ℤ := (e2m1 extra c).int

theorem e2m1_regular (extra : Nat) {c : Nat} (hc : c ≠ 8) : e2m1 extra c = .fin (decide (8 ≤ c)) (e2m1Half c * 2 ^ 148) := by
  rw [e2m1, if_neg hc]

theorem e2m1Int_regular (extra : Nat) {c : Nat} (hc : c ≠ 8) : e2m1Int extra c = e2m1Halves c * 2 ^ 148 := by
  rw [e2m1Int, e2m1_regular extra hc, e2m1Halves]
  by_cases h : 8 ≤ c <;> simp [FVal.int, h]

theorem e2m1Int_zero (extra : Nat) : e2m1Int extra 0 = 0 := by rw [e2m1Int_regular extra (by decide)]; rfl

/-- Regular codes have different values. -/
theorem e2m1Halves_injective : ∀ a < 16, ∀ b < 16, a ≠ 8 → b ≠ 8 → e2m1Halves a = e2m1Halves b → a = b := by decide

/-- Between two odd regular codes lies an even one. -/
theorem e2m1Halves_between : ∀ a < 16, ∀ b < 16, a % 2 = 1 ∧ b % 2 = 1 ∧ e2m1Halves a < e2m1Halves b →
    ∃ e ∈ [0, 2, 4, 6, 10, 12, 14], e2m1Halves a < e2m1Halves e ∧ e2m1Halves e < e2m1Halves b := by decide

theorem e2m1_codeReal : ∀ c < 16, c ≠ 8 → (e2m1Halves c : ℝ) / 2 = codeReal ⟨2, 1, 1, false⟩ c := by
  intro c hc h8
  interval_cases c <;> first | exact absurd rfl h8 | norm_num [e2m1Halves, e2m1Half, codeReal]

/-- A valid EXTRA is finite. -/
theorem e2m1_extra {extra : Nat} (h : extra < 256) (h7 : extra % 128 ≠ 127) :
    ∃ m : Nat, Fmt.e4m3.decode extra = .fin (decide (128 ≤ extra)) m ∧ (m = 0 ↔ extra % 128 = 0) := by
  have hcode := Fmt.e4m3.sign_mod (c := extra) h
  obtain ⟨m, hm, hv⟩ := Fmt.decode_finite Fmt.std_e4m3 (decide (128 ≤ extra)) (show extra % 128 ≤ Fmt.e4m3.maxCode from by
    show _ ≤ 126
    omega)
  refine ⟨m, (congrArg Fmt.e4m3.decode hcode).trans hm, ?_⟩
  rw [← (magReal_strictMono .e4m3).injective.eq_iff (a := extra % 128), magReal_zero, ← hv, mul_eq_zero, or_iff_left (by positivity),
    Nat.cast_eq_zero]

/-- Every code of a block with a valid EXTRA is finite. -/
theorem e2m1_finite {extra : Nat} (h : extra < 256) (h7 : extra % 128 ≠ 127) {c : Nat} (hc : c < 16) :
    ∃ n m, e2m1 extra c = .fin n m ∧ (m = 0 → n = decide (c = 8 ∧ extra = 0x80)) := by
  by_cases h8 : c = 8
  · subst h8
    obtain ⟨m, hm, hz⟩ := e2m1_extra h h7
    refine ⟨_, m, hm, fun h0 => ?_⟩
    have := hz.1 h0
    rw [decide_eq_decide]
    omega
  · refine ⟨_, _, e2m1_regular extra h8, fun h0 => ?_⟩
    have hz : ∀ c < 16, c ≠ 8 → e2m1Half c = 0 → c = 0 := by decide
    have := hz c hc h8 (by simpa using h0)
    subst this
    rfl

/-! ### Candidates (R76) -/

theorem mem_e2m1Cands (extra : Nat) (a : Nat × ℤ) :
    a ∈ e2m1Cands extra ↔ a.1 < 16 ∧ a.2 = e2m1Int extra a.1 ∧ (a.1 = 8 → ∀ j < 16, j ≠ 8 → e2m1Int extra j ≠ a.2) := by
  obtain ⟨c, v⟩ := a
  simp only [e2m1Cands, List.mem_filter, List.mem_map, List.mem_range, e2m1Int]
  constructor
  · rintro ⟨⟨c', hc, he⟩, hkeep⟩
    obtain ⟨rfl, rfl⟩ := Prod.mk.inj he
    refine ⟨hc, rfl, fun h8 j hj hj8 hv => ?_⟩
    simp [h8] at hkeep
    exact hkeep j hj hj8 (by rw [hv, h8])
  · rintro ⟨hc, rfl, hkeep⟩
    refine ⟨⟨c, hc, rfl⟩, ?_⟩
    by_cases h8 : c = 8
    · simpa [h8] using fun j hj hj8 => h8 ▸ hkeep h8 j hj hj8
    · simp [h8]

theorem zero_mem_e2m1Cands (extra : Nat) : (0, 0) ∈ e2m1Cands extra :=
  (mem_e2m1Cands extra _).2 ⟨by decide, (e2m1Int_zero extra).symm, fun h => absurd h (by decide)⟩

theorem regular_mem_e2m1Cands (extra : Nat) {c : Nat} (hc : c < 16) (h8 : c ≠ 8) : (c, e2m1Int extra c) ∈ e2m1Cands extra :=
  (mem_e2m1Cands extra _).2 ⟨hc, rfl, fun h => absurd h h8⟩

/-- Every value of a code is that of a candidate. -/
theorem exists_e2m1Cands (extra : Nat) {c : Nat} (hc : c < 16) : ∃ a ∈ e2m1Cands extra, a.2 = e2m1Int extra c := by
  by_cases h : (c, e2m1Int extra c) ∈ e2m1Cands extra
  · exact ⟨_, h, rfl⟩
  · rw [mem_e2m1Cands] at h
    push Not at h
    obtain ⟨-, j, hj, h8, he⟩ := h hc rfl
    exact ⟨_, regular_mem_e2m1Cands extra hj h8, he⟩

/-- Candidates of the same value are the same. -/
theorem e2m1Cands_injective {extra : Nat} {a b : Nat × ℤ} (ha : a ∈ e2m1Cands extra) (hb : b ∈ e2m1Cands extra) (h : a.2 = b.2) : a = b := by
  obtain ⟨ha16, hav, ha8⟩ := (mem_e2m1Cands extra a).1 ha
  obtain ⟨hb16, hbv, hb8⟩ := (mem_e2m1Cands extra b).1 hb
  refine Prod.ext ?_ h
  by_cases h1 : a.1 = 8
  · by_cases h2 : b.1 = 8
    · rw [h1, h2]
    · exact absurd (hbv.symm.trans h.symm) (ha8 h1 b.1 hb16 h2)
  · by_cases h2 : b.1 = 8
    · exact absurd (hav.symm.trans h) (hb8 h2 a.1 ha16 h1)
    · rw [hav, hbv, e2m1Int_regular extra h1, e2m1Int_regular extra h2, mul_left_inj' (by decide)] at h
      exact e2m1Halves_injective _ ha16 _ hb16 h1 h2 h

/-! ### The greatest value of a sign, and the best candidate (R76) -/

/-- The greatest candidate of a sign. -/
def e2m1Top (extra : Nat) (neg : Bool) : Nat × ℤ := leastBy (fun a => if neg then a.2 else -a.2) (0, 0) (e2m1Cands extra)

/-- The order of candidates: nearer, then even, then regular. -/
def e2m1Key (num den : ℤ) (a : Nat × ℤ) : ℤ := 4 * (a.2 * den - num).natAbs + 2 * (a.1 % 2 : Nat) + if a.1 = 8 then 1 else 0

theorem e2m1Better_iff (num den : ℤ) (a b : Nat × ℤ) : e2m1Better num den a b = true ↔ e2m1Key num den a < e2m1Key num den b := by
  simp only [e2m1Better, e2m1Key]
  have ha := Nat.mod_lt a.1 (show 0 < 2 by decide)
  have hb := Nat.mod_lt b.1 (show 0 < 2 by decide)
  have ha8 : a.1 = 8 → a.1 % 2 = 0 := fun h => by rw [h]
  have hb8 : b.1 = 8 → b.1 % 2 = 0 := fun h => by rw [h]
  generalize (a.2 * den - num).natAbs = d
  generalize (b.2 * den - num).natAbs = e
  by_cases h1 : d = e
  · rw [if_neg (by simpa using h1)]
    by_cases h2 : a.1 % 2 = b.1 % 2
    · rw [if_neg (by simpa using h2), Bool.and_eq_true, decide_eq_true_eq, decide_eq_true_eq]
      split <;> split <;> omega
    · rw [if_pos h2, decide_eq_true_eq]
      split <;> split <;> omega
  · rw [if_pos h1, decide_eq_true_eq]
    split <;> split <;> omega

/-- The best candidate. -/
def e2m1Best (extra : Nat) (num den : ℤ) : Nat × ℤ := leastBy (e2m1Key num den) (0, 0) (e2m1Cands extra)

theorem foldl_e2m1Top (extra : Nat) (n : Bool) :
    (e2m1Cands extra).foldl (fun b c => if n then (if c.2 < b.2 then c else b) else (if b.2 < c.2 then c else b)) (0, 0) = e2m1Top extra n := by
  cases n <;> simp [e2m1Top, leastBy]

theorem foldl_e2m1Best (extra : Nat) (num den : ℤ) :
    (e2m1Cands extra).foldl (fun b c => if e2m1Better num den c b then c else b) (0, 0) = e2m1Best extra num den := by
  simp only [e2m1Better_iff]
  rfl

section
variable {x : W32} (sc : W32) (extra : Nat)

theorem packE2m1_nan (hx : f32 x = .nan) : packE2m1 x sc extra = (0, flNV) := by simp only [packE2m1, hx]

theorem packE2m1_inf {n : Bool} (hx : f32 x = .inf n) : packE2m1 x sc extra = ((e2m1Top extra n).1, flSAT) := by
  simp only [packE2m1, hx, foldl_e2m1Top]

/-- The code of a finite element: `num` is its numerator. -/
theorem packE2m1_fin {n : Bool} {m : Nat} (hx : f32 x = .fin n m) {num : ℤ} (hnum : num = (FVal.fin n m).int * 2 ^ 149) :
    packE2m1 x sc extra =
      if ((e2m1Top extra n).2 * (f32 sc).int).natAbs < num.natAbs then ((e2m1Top extra n).1, flSAT ||| flOF ||| flNX)
      else (if (e2m1Best extra num (f32 sc).int).2 = 0 then (if n && extra == 0x80 then 8 else 0) else (e2m1Best extra num (f32 sc).int).1,
        if (e2m1Best extra num (f32 sc).int).2 * (f32 sc).int = num then 0 else flNX) := by
  simp only [packE2m1, hx, foldl_e2m1Top, foldl_e2m1Best, hnum]

end

end Sys2Proof.Machine
end

section
/-!
VPACK4's code is the nearest one, and VUNPK4's value is rounded once (R76, R241).
-/
namespace Sys2Proof.Machine

open Sys2Proof.Safety

/-! ### The greatest value of a sign -/

/-- A value with the sign of the quotient taken away. -/
def alongSign (n : Bool) (v : ℤ) : ℤ := if n then -v else v

theorem e2m1Top_eq {extra : Nat} {n : Bool} {c : Nat} (hc : c < 16) (hmax : ∀ j < 16, alongSign n (e2m1Int extra j) ≤ alongSign n (e2m1Int extra c))
    (hreg : ∀ j < 16, c = 8 → j ≠ 8 → e2m1Int extra j ≠ e2m1Int extra 8) : e2m1Top extra n = (c, e2m1Int extra c) := by
  obtain ⟨hmem, hle⟩ := leastBy_spec (fun a : Nat × ℤ => if n then a.2 else -a.2) (0, 0) (e2m1Cands extra)
  have hcmem : (c, e2m1Int extra c) ∈ e2m1Cands extra :=
    (mem_e2m1Cands extra _).2 ⟨hc, rfl, fun h j hj hj8 => by have := hreg j hj h hj8; rwa [← h] at this⟩
  rw [← e2m1Top] at hmem hle
  have htop : e2m1Top extra n ∈ e2m1Cands extra := by
    rcases List.mem_cons.1 hmem with h | h
    · rw [h]; exact zero_mem_e2m1Cands extra
    · exact h
  obtain ⟨h16, hval, -⟩ := (mem_e2m1Cands extra _).1 htop
  have h1 := hle _ (List.mem_cons_of_mem _ hcmem)
  have h2 := hmax _ h16
  rw [← hval] at h2
  refine e2m1Cands_injective htop hcmem ?_
  cases n
  · exact le_antisymm h2 (neg_le_neg_iff.1 h1)
  · exact le_antisymm h1 (neg_le_neg_iff.1 h2)

/-! ### The best candidate -/

section
variable {extra : Nat} {num den : ℤ}

theorem e2m1Best_mem : e2m1Best extra num den ∈ e2m1Cands extra := by
  rcases List.mem_cons.1 (leastBy_spec (e2m1Key num den) (0, 0) (e2m1Cands extra)).1 with h | h
  · rw [e2m1Best, h]; exact zero_mem_e2m1Cands extra
  · exact h

theorem e2m1Best_le {a : Nat × ℤ} (ha : a ∈ e2m1Cands extra) : e2m1Key num den (e2m1Best extra num den) ≤ e2m1Key num den a :=
  (leastBy_spec (e2m1Key num den) (0, 0) (e2m1Cands extra)).2 a (List.mem_cons_of_mem _ ha)

/-- No code is nearer than the best candidate. -/
theorem e2m1Best_nearest {j : Nat} (hj : j < 16) :
    ((e2m1Best extra num den).2 * den - num).natAbs ≤ (e2m1Int extra j * den - num).natAbs := by
  obtain ⟨a, ha, hv⟩ := exists_e2m1Cands extra hj
  have hle := e2m1Best_le (num := num) (den := den) ha
  rw [← hv]
  simp only [e2m1Key] at hle
  split at hle <;> split at hle <;> omega

/-- Of two codes at equal distance the best candidate is even. -/
theorem e2m1Best_even (hden : 0 < den) {j : Nat} (hj : j < 16)
    (hd : (e2m1Int extra j * den - num).natAbs = ((e2m1Best extra num den).2 * den - num).natAbs) (hne : e2m1Int extra j ≠ (e2m1Best extra num den).2) :
    (e2m1Best extra num den).1 % 2 = 0 := by
  by_contra hodd
  obtain ⟨b16, hbv, -⟩ := (mem_e2m1Cands extra _).1 (e2m1Best_mem (num := num) (den := den))
  obtain ⟨a, ha, hv⟩ := exists_e2m1Cands extra hj
  obtain ⟨a16, hav, -⟩ := (mem_e2m1Cands extra a).1 ha
  have hle := e2m1Best_le (num := num) (den := den) ha
  have haodd : a.1 % 2 = 1 := by
    simp only [e2m1Key, hv, hd] at hle
    split at hle <;> split at hle <;> omega
  have hb8 : (e2m1Best extra num den).1 ≠ 8 := by omega
  have ha8 : a.1 ≠ 8 := by omega
  have hnear {e : Nat} (he : e ∈ [0, 2, 4, 6, 10, 12, 14]) :
      e < 16 ∧ e2m1Int extra e = e2m1Halves e * 2 ^ 148 := by
    have : e < 16 ∧ e ≠ 8 := (by decide : ∀ e ∈ [0, 2, 4, 6, 10, 12, 14], e < 16 ∧ e ≠ 8) e he
    exact ⟨this.1, e2m1Int_regular extra this.2⟩
  rw [hv] at hav
  rw [hav, hbv] at hne hd
  have hbest (e : Nat) (he : e < 16) := e2m1Best_nearest (extra := extra) (num := num) (den := den) he
  rw [hbv] at hbest
  rw [e2m1Int_regular extra ha8, e2m1Int_regular extra hb8] at hne hd
  rw [e2m1Int_regular extra hb8] at hbest
  have hlt {y z : ℤ} (h : y < z) : y * 2 ^ 148 * den < z * 2 ^ 148 * den := mul_lt_mul_of_pos_right (mul_lt_mul_of_pos_right h (by decide)) hden
  rcases lt_or_gt_of_ne (show e2m1Halves a.1 ≠ e2m1Halves (e2m1Best extra num den).1 from fun h => hne (by rw [h])) with h | h
  · obtain ⟨e, he, h1, h2⟩ := e2m1Halves_between _ a16 _ b16 ⟨haodd, by omega, h⟩
    obtain ⟨he16, hev⟩ := hnear he
    have := hbest e he16
    rw [hev] at this
    have := hlt h1
    have := hlt h2
    omega
  · obtain ⟨e, he, h1, h2⟩ := e2m1Halves_between _ b16 _ a16 ⟨by omega, haodd, h⟩
    obtain ⟨he16, hev⟩ := hnear he
    have := hbest e he16
    rw [hev] at this
    have := hlt h1
    have := hlt h2
    omega

/-- A regular code at equal distance that is even, or of the same value, comes before EXTRA. -/
theorem e2m1Best_regular {j : Nat} (hj : j < 16) (hj8 : j ≠ 8)
    (hd : (e2m1Int extra j * den - num).natAbs = ((e2m1Best extra num den).2 * den - num).natAbs)
    (h : j % 2 = 0 ∨ e2m1Int extra j = (e2m1Best extra num den).2) : (e2m1Best extra num den).1 ≠ 8 := by
  intro hb8
  obtain ⟨-, hbv, hbr⟩ := (mem_e2m1Cands extra _).1 (e2m1Best_mem (num := num) (den := den))
  rcases h with h | h
  · have hle := e2m1Best_le (num := num) (den := den) (regular_mem_e2m1Cands extra hj hj8)
    simp only [e2m1Key, hd, hb8, hj8, if_true, if_false, h] at hle
    omega
  · exact hbr hb8 j hj hj8 h

end

/-! ### In real numbers -/

/-- The value of a code. -/
noncomputable def e2m1Real (extra c : Nat) : ℝ := valReal (e2m1 extra c)

theorem e2m1Real_eq (extra c : Nat) : e2m1Real extra c = e2m1Int extra c * (2 : ℝ) ^ (-149 : ℤ) := rfl

theorem e2m1Real_inj (extra i j : Nat) : e2m1Real extra i = e2m1Real extra j ↔ e2m1Int extra i = e2m1Int extra j := by
  rw [e2m1Real_eq, e2m1Real_eq, mul_left_inj' (by positivity), Int.cast_inj]

theorem e2m1Real_regular (extra : Nat) {c : Nat} (hc : c < 16) (h8 : c ≠ 8) : e2m1Real extra c = codeReal ⟨2, 1, 1, false⟩ c := by
  have hunit : (2 : ℝ) ^ 148 * 2 ^ (-149 : ℤ) = 1 / 2 := by rw [← zpow_natCast (2 : ℝ), ← zpow_add₀ two_ne_zero]; norm_num
  rw [← e2m1_codeReal c hc h8, e2m1Real_eq, e2m1Int_regular extra h8, Int.cast_mul, Int.cast_pow, Int.cast_ofNat, mul_assoc, hunit]
  ring

theorem alongSign_le (extra : Nat) (n : Bool) (i j : Nat) :
    alongSign n (e2m1Int extra i) ≤ alongSign n (e2m1Int extra j) ↔
      (if n then -1 else 1) * e2m1Real extra i ≤ (if n then -1 else 1) * e2m1Real extra j := by
  rw [e2m1Real_eq, e2m1Real_eq]
  cases n
  · simp [alongSign]
  · simp [alongSign]

section
variable {x sc : W32} {extra : Nat} {n : Bool} {m k : Nat} (hx : f32 x = .fin n m) (hsc : f32 sc = .fin false k) (hk : k ≠ 0)

/-- The numerator that the model compares with: the quotient times 2^149 and the scale. -/
def packNum (n : Bool) (m : Nat) : ℤ := (FVal.fin n m).int * 2 ^ 149

include hx hsc hk

theorem quotient_eq : fpReal x / fpReal sc = packNum n m * ((2 : ℝ) ^ (-149 : ℤ) / k) := by
  have hunit : (2 : ℝ) ^ 149 * 2 ^ (-149 : ℤ) = 1 := by rw [← zpow_natCast (2 : ℝ), ← zpow_add₀ two_ne_zero]; simp
  have hk0 : (k : ℝ) ≠ 0 := Nat.cast_ne_zero.2 hk
  rw [fpReal_int (getLsbD_31_of_fin hx).1, fpReal_int (getLsbD_31_of_fin hsc).1, hx, hsc, mul_div_mul_right _ _ (by positivity), packNum, Int.cast_mul,
    Int.cast_pow, Int.cast_ofNat, show (((FVal.fin false k).int : ℤ) : ℝ) = k from rfl, mul_assoc, mul_div_assoc', hunit]
  ring

theorem distance_eq (v : ℤ) :
    |v * (2 : ℝ) ^ (-149 : ℤ) - fpReal x / fpReal sc| = (v * k - packNum n m).natAbs * ((2 : ℝ) ^ (-149 : ℤ) / k) := by
  have hk0 : (k : ℝ) ≠ 0 := Nat.cast_ne_zero.2 hk
  have hpos : (0 : ℝ) ≤ (2 : ℝ) ^ (-149 : ℤ) / k := by positivity
  rw [quotient_eq hx hsc hk, Nat.cast_natAbs, Int.cast_abs]
  push_cast
  rw [← abs_of_nonneg hpos, ← abs_mul, abs_of_nonneg hpos]
  congr 1
  field_simp

theorem size_lt_iff {c : Nat} (h0 : 0 ≤ alongSign n (e2m1Int extra c)) :
    (if n then -1 else 1) * e2m1Real extra c < |fpReal x / fpReal sc| ↔ (e2m1Int extra c * k).natAbs < (packNum n m).natAbs := by
  have hk0 : (0 : ℝ) < k := Nat.cast_pos.2 (Nat.pos_of_ne_zero hk)
  have hsize : (if n then -1 else 1) * e2m1Real extra c = (e2m1Int extra c * k).natAbs * ((2 : ℝ) ^ (-149 : ℤ) / k) := by
    rw [Nat.cast_natAbs, Int.cast_abs, e2m1Real_eq]
    push_cast
    rw [abs_mul, abs_of_pos hk0]
    have habs : |((e2m1Int extra c : ℤ) : ℝ)| = (if n then -1 else 1) * e2m1Int extra c := by
      cases n
      · rw [abs_of_nonneg (by exact_mod_cast h0)]; simp
      · rw [abs_of_nonpos (by exact_mod_cast (neg_nonneg.1 h0))]; simp
    rw [habs]
    field_simp
  rw [hsize, quotient_eq hx hsc hk, abs_mul, abs_of_pos (a := (2 : ℝ) ^ (-149 : ℤ) / k) (by positivity), mul_lt_mul_iff_left₀ (by positivity),
    ← Int.cast_abs, ← Nat.cast_natAbs, Nat.cast_lt]

end

/-- The code that stands for a candidate: a zero has the sign of the quotient where EXTRA is −0. -/
theorem e2m1Int_code {extra : Nat} {n : Bool} {num den : ℤ} :
    e2m1Int extra (if (e2m1Best extra num den).2 = 0 then (if n && extra == 0x80 then 8 else 0) else (e2m1Best extra num den).1) =
      (e2m1Best extra num den).2 := by
  obtain ⟨-, hv, -⟩ := (mem_e2m1Cands extra _).1 (e2m1Best_mem (extra := extra) (num := num) (den := den))
  split
  · next h0 =>
    rw [h0]
    split
    · next h =>
      obtain rfl : extra = 0x80 := by simpa using (Bool.and_eq_true_iff.1 h).2
      decide
    · exact e2m1Int_zero extra
  · exact hv.symm

/-- Within reach of its sign, a quotient takes the code of the nearest value (R76). -/
theorem packE2m1_nearest {x sc : W32} {extra : Nat} {n : Bool} {m k : Nat} (hx : f32 x = .fin n m) (hsc : f32 sc = .fin false k) (hk : k ≠ 0)
    (hsmall : ¬((e2m1Top extra n).2 * k).natAbs < (packNum n m).natAbs) :
    let q : ℝ := fpReal x / fpReal sc
    let val (c : Nat) : ℝ := valReal (e2m1 extra c)
    let r := packE2m1 x sc extra
    r.1 < 16 ∧ r.2 = (if val r.1 = q then 0 else 0x01) ∧ (val r.1 = 0 → r.1 = if n = true ∧ extra = 0x80 then 8 else 0) ∧
      ∀ j < 16, |val r.1 - q| ≤ |val j - q| ∧ (|val j - q| = |val r.1 - q| → val j ≠ val r.1 → r.1 % 2 = 0) ∧
        (|val j - q| = |val r.1 - q| → val r.1 ≠ 0 → j ≠ 8 → (j % 2 = 0 ∨ val j = val r.1) → r.1 ≠ 8) := by
  intro q val r
  have hk0 : (0 : ℝ) < k := Nat.cast_pos.2 (Nat.pos_of_ne_zero hk)
  have hunit : (0 : ℝ) < (2 : ℝ) ^ (-149 : ℤ) / k := by positivity
  have hr : r = _ := packE2m1_fin sc extra hx (num := packNum n m) rfl
  rw [hsc, show (FVal.fin false k).int = k from rfl, if_neg hsmall] at hr
  have hcode : e2m1Int extra r.1 = (e2m1Best extra (packNum n m) k).2 := by rw [hr]; exact e2m1Int_code
  have hval (j : Nat) : val j = val r.1 ↔ e2m1Int extra j = (e2m1Best extra (packNum n m) k).2 := by rw [← hcode]; exact e2m1Real_inj extra j r.1
  have hzero : val r.1 = 0 ↔ (e2m1Best extra (packNum n m) k).2 = 0 := by
    rw [show val r.1 = _ from e2m1Real_eq extra r.1, hcode, mul_eq_zero, or_iff_left (by positivity), Int.cast_eq_zero]
  have hdist (j : Nat) : |val j - q| = (e2m1Int extra j * k - packNum n m).natAbs * ((2 : ℝ) ^ (-149 : ℤ) / k) := distance_eq hx hsc hk _
  have hdeq (j : Nat) : |val j - q| = |val r.1 - q| ↔
      (e2m1Int extra j * k - packNum n m).natAbs = ((e2m1Best extra (packNum n m) k).2 * k - packNum n m).natAbs := by
    rw [hdist, hdist, hcode, mul_left_inj' hunit.ne', Nat.cast_inj]
  have hexact : val r.1 = q ↔ (e2m1Best extra (packNum n m) k).2 * k = packNum n m := by
    rw [← sub_eq_zero, ← abs_eq_zero, hdist, hcode, mul_eq_zero, or_iff_left hunit.ne', Nat.cast_eq_zero, Int.natAbs_eq_zero, sub_eq_zero]
  obtain ⟨h16, -, -⟩ := (mem_e2m1Cands extra _).1 (e2m1Best_mem (extra := extra) (num := packNum n m) (den := k))
  have hfirst (h : (e2m1Best extra (packNum n m) k).2 = 0) : r.1 = if n = true ∧ extra = 0x80 then 8 else 0 := by
    rw [hr, if_pos h]
    simp
  have hother (h : (e2m1Best extra (packNum n m) k).2 ≠ 0) : r.1 = (e2m1Best extra (packNum n m) k).1 := by rw [hr, if_neg h]
  refine ⟨?_, ?_, fun h => hfirst (hzero.1 h), fun j hj => ⟨?_, fun hd hne => ?_, fun hd h0 hj8 h => ?_⟩⟩
  · by_cases h : (e2m1Best extra (packNum n m) k).2 = 0
    · rw [hfirst h]; split <;> decide
    · rw [hother h]; exact h16
  · simp only [hexact]
    rw [hr]
    rfl
  · rw [hdist, hdist, hcode]
    exact mul_le_mul_of_nonneg_right (Nat.cast_le.2 (e2m1Best_nearest hj)) hunit.le
  · by_cases h : (e2m1Best extra (packNum n m) k).2 = 0
    · rw [hfirst h]; split <;> rfl
    · rw [hother h]
      exact e2m1Best_even (Int.natCast_pos.2 (Nat.pos_of_ne_zero hk)) hj ((hdeq j).1 hd) ((hval j).not.1 hne)
  · rw [hother (hzero.not.1 h0)]
    exact e2m1Best_regular hj hj8 ((hdeq j).1 hd) (h.imp id (hval j).1)

/-- VPACK4's code of an element (R76). -/
theorem packE2m1_spec (x : W32) {sc : W32} {extra : Nat} (hsc : scaleOk sc = true) :
    let q : ℝ := fpReal x / fpReal sc
    let n : Bool := x.getLsbD 31
    let val (c : Nat) : ℝ := valReal (e2m1 extra c)
    let size (c : Nat) : ℝ := (if n then -1 else 1) * val c
    let r := packE2m1 x sc extra
    ((f32 x).isNan = true → r = (0, 0x10)) ∧
    (∀ c < 16, (∀ j < 16, size j ≤ size c ∧ (c = 8 → j ≠ 8 → val j ≠ val 8)) →
      ((f32 x = .inf n) → r = (c, 0x20)) ∧ (FiniteFp x → size c < |q| → r = (c, 0x25)) ∧
      (FiniteFp x → |q| ≤ size c → r.1 < 16 ∧ r.2 = (if val r.1 = q then 0 else 0x01) ∧
        (val r.1 = 0 → r.1 = if n = true ∧ extra = 0x80 then 8 else 0) ∧
        ∀ j < 16, |val r.1 - q| ≤ |val j - q| ∧ (|val j - q| = |val r.1 - q| → val j ≠ val r.1 → r.1 % 2 = 0) ∧
          (|val j - q| = |val r.1 - q| → val r.1 ≠ 0 → j ≠ 8 → (j % 2 = 0 ∨ val j = val r.1) → r.1 ≠ 8))) := by
  intro q n val size r
  obtain ⟨k, hk, hsc⟩ := (scaleOk_iff sc).1 hsc
  refine ⟨fun h => packE2m1_nan sc extra ((isNan_iff _).1 h), fun c hc hmax => ?_⟩
  have hmaxInt (j : Nat) (hj : j < 16) : alongSign n (e2m1Int extra j) ≤ alongSign n (e2m1Int extra c) :=
    (alongSign_le extra n j c).2 (hmax j hj).1
  have htop : e2m1Top extra n = (c, e2m1Int extra c) := e2m1Top_eq hc hmaxInt fun j hj h8 hj8 h =>
    (hmax j hj).2 h8 hj8 ((e2m1Real_inj extra j 8).2 h)
  have h0 : 0 ≤ alongSign n (e2m1Int extra c) := by
    have := hmaxInt 0 (by decide)
    rwa [e2m1Int_zero, show alongSign n 0 = 0 by cases n <;> rfl] at this
  refine ⟨fun h => ?_, fun hfin hlt => ?_, fun hfin hle => ?_⟩
  · rw [show r = _ from packE2m1_inf sc extra h, htop]
    rfl
  · obtain ⟨m, hm, -⟩ := f32_finite hfin
    have hbig := (size_lt_iff hm hsc hk h0).1 hlt
    rw [show r = _ from packE2m1_fin sc extra hm (num := packNum n m) rfl, htop, hsc]
    exact if_pos hbig
  · obtain ⟨m, hm, -⟩ := f32_finite hfin
    have hsmall := (size_lt_iff hm hsc hk h0).not.1 (not_lt.2 hle)
    exact packE2m1_nearest hm hsc hk (by rw [htop]; exact hsmall)

/-! ### Unpacking (R241) -/

theorem unpackE2m1_spec {sc : W32} {extra : Nat} (hsc : scaleOk sc = true) (he : extra < 256) (he7 : extra % 128 ≠ 127) {c : Nat} (hc : c < 16) :
    let val (c : Nat) : ℝ := valReal (e2m1 extra c)
    let side : Word := BitVec.ofNat 64 (sc.toNat + 2 ^ 32 * extra)
    (val c * fpReal sc ≠ 0 → RoundsFp 0 (val c * fpReal sc) (unpackE2m1 side c)) ∧
      (val c = 0 → unpackE2m1 side c = (if c = 8 ∧ extra = 0x80 then 0x80000000 else 0, 0)) := by
  intro val side
  obtain ⟨k, hk, hsc⟩ := (scaleOk_iff sc).1 hsc
  obtain ⟨n, m, hm, hzero⟩ := e2m1_finite he he7 hc
  have hlt := sc.isLt
  have hside : side.toNat = sc.toNat + 2 ^ 32 * extra := by rw [BitVec.toNat_ofNat, Nat.mod_eq_of_lt (by omega)]
  have hscale : scaleOf side = sc := by
    apply BitVec.eq_of_toNat_eq
    rw [scaleOf, BitVec.extractLsb'_toNat, hside, Nat.shiftRight_zero]
    omega
  have hextra : extraOf side = extra := by
    rw [extraOf, BitVec.extractLsb'_toNat, hside, Nat.shiftRight_eq_div_pow]
    omega
  have hunpack : unpackE2m1 side c = pack32 (roundMag .f32 0 false n (m * k) (-298) false) := by
    simp only [unpackE2m1, hscale, hextra, hm, hsc]
  have hval : val c = finReal n m := by rw [finReal_int, ← hm]; rfl
  have hreal : fpReal sc = finReal false k := by rw [fpReal_int (getLsbD_31_of_fin hsc).1, hsc, finReal_int]
  have hround := roundMag_mul_real (rm := 0) (by decide) n false m k
  rw [show (n != false) = n by cases n <;> rfl] at hround
  rw [hunpack, hval, hreal]
  refine ⟨fun h => ?_, fun h => ?_⟩
  · rwa [if_neg h] at hround
  · rw [if_pos (by rw [h, zero_mul]), hzero ((finReal_eq_zero n m).1 h)] at hround
    rw [hzero ((finReal_eq_zero n m).1 h), hround]
    simp [zero32]

end Sys2Proof.Machine
end

section
/-!
The packed conversions of the V slot (R228, R229, R238 to R241), and the proof of O25.
-/
namespace Sys2Proof.Machine

open Sys2Proof.Safety

/-! ### Bits of a packed register (R228) -/

theorem getLsbD_ofLanes (f : Nat → W32) {j : Nat} (hj : j < 2048) : (ofLanes f).getLsbD j = (f (j / 32)).getLsbD (j % 32) := by
  rw [← lane_ofLanes f (show j / 32 < 64 by omega), lane, BitVec.getLsbD_extractLsb']
  simp [Nat.mod_lt, Nat.div_add_mod]

theorem lane_getLsbD (v : VBits) (i : Nat) {t : Nat} (ht : t < 32) : (lane v i).getLsbD t = v.getLsbD (32 * i + t) := by
  rw [lane, BitVec.getLsbD_extractLsb']
  simp [ht]

/-- Two numbers with the same bits below `w × n` have the same elements. -/
theorem element_congr {w n x y : Nat} (h : ∀ j < w * n, x.testBit j = y.testBit j) {i : Nat} (hi : i < n) :
    x / 2 ^ (w * i) % 2 ^ w = y / 2 ^ (w * i) % 2 ^ w := by
  refine Nat.eq_of_testBit_eq fun t => ?_
  rw [Nat.testBit_mod_two_pow, Nat.testBit_mod_two_pow, Nat.testBit_div_two_pow, Nat.testBit_div_two_pow]
  by_cases ht : t < w
  · have hlt : t + w * i < w * n := by
      have := Nat.mul_le_mul_left w hi
      rw [Nat.mul_succ] at this
      omega
    rw [h _ hlt]
  · simp [ht]

/-- The bits of a narrowing conversion's result: its elements below, and above what stood there (R229). -/
theorem getLsbD_packElements {w : Nat} (hw : w = 8 ∨ w = 16) (mk : Word) (old : VVal) (f : Nat → Nat) {j : Nat} (hj : j < 2048) :
    (packElements w mk old f).bits.getLsbD j =
      if j < w * 64 then (packFields w (fun i => if sel mk i then f i else element w old.bits i) 64).testBit j else old.bits.getLsbD j := by
  have hper : 64 / (32 / w) = 2 * w := by rcases hw with rfl | rfl <;> rfl
  have hlane : j / 32 < 64 := by omega
  have hbit : j % 32 < 32 := Nat.mod_lt _ (by decide)
  rw [packElements, VVal.ofLanes_bits, getLsbD_ofLanes _ hj, lane_ofLanes _ hlane, hper]
  by_cases h : j / 32 < 2 * w
  · rw [if_pos h, if_pos (by omega), BitVec.getLsbD_ofNat, Nat.testBit_div_two_pow]
    simp [hbit, Nat.mod_add_div]
  · rw [if_neg h, if_neg (by omega), lane_getLsbD _ _ hbit, Nat.div_add_mod]

theorem element_packElements {w : Nat} (hw : w = 8 ∨ w = 16) (mk : Word) (old : VVal) (f : Nat → Nat) {i : Nat} (hi : i < 64) :
    (packElements w mk old f).bits.toNat / 2 ^ (w * i) % 2 ^ w =
      if mk.getLsbD i then f i % 2 ^ w else old.bits.toNat / 2 ^ (w * i) % 2 ^ w := by
  have hbits : ∀ j < w * 64, (packElements w mk old f).bits.toNat.testBit j =
      (packFields w (fun i => if sel mk i then f i else element w old.bits i) 64).testBit j := by
    intro j hj
    have h := getLsbD_packElements hw mk old f (j := j) (by rcases hw with rfl | rfl <;> omega)
    rwa [if_pos hj] at h
  rw [element_congr hbits hi, packFields_div _ _ _ _ hi]
  show (if mk.getLsbD i then f i else element w old.bits i) % 2 ^ w = _
  split
  · rfl
  · rw [element, Nat.mod_mod]

theorem lane_gather (l : List LaneOut) {i : Nat} (hi : i < 64) : lane (gather l).1.bits i = (l.getD i ⟨0, 0, 0⟩).val := by
  rw [gather, VVal.ofLanes_bits, lane_ofLanes _ hi]

/-! ### The instructions -/

section
variable {s : State} (hu : Unpoisoned s) {d : BitVec 5} (hd : s.clash (.v d.toNat) = false)
include hu hd

/-- A narrowing conversion (R75, R229, R238). -/
theorem State.vnarrow_spec (a : BitVec 5) (m : BitVec 3) {f : Fmt} (hw : f.width = 8 ∨ f.width = 16) :
    let out (i : Nat) : Nat × BitVec 6 := narrow f s.rm s.sat8 (f32 (lane (s.rdV a).bits i))
    ∃ t, s.vnarrow d a m f = .next t ∧ ∃ flags : BitVec 6, Lands s t (.v d.toNat) 6 flags ∧ OnlyRegs [.v d.toNat] s t ∧
      (∀ i < 64, (t.tile.thr.regs.getV d.toNat).bits.toNat / 2 ^ (f.width * i) % 2 ^ f.width =
        if (s.rdM m).getLsbD i then (out i).1 % 2 ^ f.width else (s.rdV d).bits.toNat / 2 ^ (f.width * i) % 2 ^ f.width) ∧
      (∀ j < 2048, 64 * f.width ≤ j → (t.tile.thr.regs.getV d.toNat).bits.getLsbD j = (s.rdV d).bits.getLsbD j) ∧
      ∀ j < 6, flags.getLsbD j = true ↔ ∃ i < 64, (s.rdM m).getLsbD i = true ∧ (out i).2.getLsbD j = true := by
  intro out
  obtain ⟨⟨-, hland, honly⟩, hget⟩ := State.wrV_spec hu.2 hd
    (packElements f.width (s.rdM m) (s.rdV d) fun i =>
      (((List.range 64).map fun i => if sel (s.rdM m) i then out i else (0, 0)).getD i (0, 0)).1) 6
    (((List.range 64).map fun i => if sel (s.rdM m) i then out i else (0, 0)).foldl (fun g r => g ||| r.2) 0)
  unfold State.vnarrow
  refine ⟨_, State.checked_plain hu _ rfl rfl rfl, _, hland, honly, fun i hi => ?_, fun j hj hj' => ?_, fun j hj => ?_⟩
  · rw [hget, element_packElements hw _ _ _ hi]
    refine if_ctx_congr Iff.rfl (fun hs => ?_) fun _ => rfl
    simp [List.getD, hi, sel, hs]
  · rw [hget, getLsbD_packElements hw _ _ _ hj, if_neg (by omega)]
  · rw [getLsbD_foldl_or, or_iff_right (by simp)]
    simp only [List.mem_map, List.mem_range, exists_exists_and_eq_and, sel]
    refine exists_congr fun i => and_congr_right fun _ => ?_
    by_cases h : (s.rdM m).getLsbD i = true <;> simp [h]

/-- VPACK4 with valid sidecars (R240). -/
theorem exec_vpack4 (a b : BitVec 5) (hb : sidecarCheck (s.rdV b).bits = none) :
    ∃ t, execVpack4 d a b s = .next t ∧ ∃ flags : BitVec 6, Lands s t (.v d.toNat) 6 flags ∧ OnlyRegs [.v d.toNat] s t ∧
      (∀ i < 64, (t.tile.thr.regs.getV d.toNat).bits.toNat / 2 ^ (4 * i) % 2 ^ 4 =
        (packE2m1 (lane (s.rdV a).bits i) (scaleOf (sidecar (s.rdV b).bits (i / 32))) (extraOf (sidecar (s.rdV b).bits (i / 32)))).1 % 16) ∧
      (t.tile.thr.regs.getV d.toNat).bits.toNat < 2 ^ 256 := by
  let l := (List.range 64).map fun i =>
    packE2m1 (lane (s.rdV a).bits i) (scaleOf (sidecar (s.rdV b).bits (i / 32))) (extraOf (sidecar (s.rdV b).bits (i / 32)))
  obtain ⟨⟨-, hland, honly⟩, hget⟩ := State.wrV_spec hu.2 hd
    (VVal.ofBits (BitVec.ofNat 2048 (packFields 4 (fun i => (l.getD i (0, 0)).1) 64))) 6 (l.foldl (fun g r => g ||| r.2) 0)
  have hlt := packFields_lt 4 (fun i => (l.getD i (0, 0)).1) 64
  have hbits : (BitVec.ofNat 2048 (packFields 4 (fun i => (l.getD i (0, 0)).1) 64)).toNat = packFields 4 (fun i => (l.getD i (0, 0)).1) 64 := by
    rw [BitVec.toNat_ofNat, Nat.mod_eq_of_lt (hlt.trans (Nat.pow_lt_pow_right (by decide) (by decide)))]
  unfold execVpack4
  refine ⟨_, State.checked_pass hu _ hb rfl rfl, _, hland, honly, fun i hi => ?_, ?_⟩
  · rw [hget, VVal.ofBits_bits, hbits, packFields_div _ _ _ _ hi]
    simp [l, List.getD, hi]
  · rw [hget, VVal.ofBits_bits, hbits]
    exact hlt

/-- VUNPK4 with valid sidecars (R241). -/
theorem exec_vunpk4 (a b : BitVec 5) (hb : sidecarCheck (s.rdV b).bits = none) :
    ∃ t, execVunpk4 d a b s = .next t ∧ ∃ flags : BitVec 6,
      ToV s t d (fun i => (unpackE2m1 (sidecar (s.rdV b).bits (i / 32)) ((s.rdV a).bits.toNat / 2 ^ (4 * i) % 2 ^ 4)).1) 6 flags := by
  let r := gather ((List.range 64).map fun i => LaneOut.of (unpackE2m1 (sidecar (s.rdV b).bits (i / 32)) (element 4 (s.rdV a).bits i)))
  obtain ⟨⟨hbits, hland, honly⟩, -⟩ := State.wrV_spec hu.2 hd r.1 6 r.2
  unfold execVunpk4
  refine ⟨_, State.checked_pass hu _ hb rfl rfl, _, fun i hi => ?_, hland, honly⟩
  rw [hbits i hi, lane_gather _ hi]
  simp [List.getD, hi, LaneOut.of, element]

end

/-- Settles O25: a code is the candidate of the least key (`packE2m1_spec`), and the instructions place their elements. -/
theorem packedConversions : Obligations.PackedConversions := by
  unfold Obligations.PackedConversions
  refine ⟨fun x sc extra hsc he he7 => ?_, fun d a b m s hu hd => ?_⟩
  · intro q n val size r side
    obtain ⟨hnan, hcode⟩ := packE2m1_spec x (extra := extra) hsc
    refine ⟨fun c hc h8 => ⟨e2m1Real_regular extra hc h8, ?_⟩, rfl, hnan, hcode, fun c hc => unpackE2m1_spec hsc he he7 hc⟩
    rw [e2m1_regular extra h8]
    show decide (8 ≤ c) = _
    rw [decide_eq_decide]
    omega
  · intro x elem side scale extra
    refine ⟨fun e he => ?_, fun hside => ?_⟩
    · simp only [List.mem_cons, List.not_mem_nil, or_false] at he
      rcases he with rfl | rfl | rfl | rfl
      · exact gives_of_exec (State.vnarrow_spec hu hd a m (f := .bf16) (.inr rfl)) rfl
      · exact gives_of_exec (State.vnarrow_spec hu hd a m (f := .f16) (.inr rfl)) rfl
      · exact gives_of_exec (State.vnarrow_spec hu hd a m (f := .e4m3) (.inl rfl)) rfl
      · exact gives_of_exec (State.vnarrow_spec hu hd a m (f := .e5m2) (.inl rfl)) rfl
    · have hcheck : sidecarCheck (s.rdV b).bits = none := by
        rw [sidecarCheck, Option.map_eq_none_iff, List.find?_eq_none]
        intro k hk
        have hk : k < 2 := by simpa using hk
        have := hside (32 * k) (by omega)
        simp only [side, Nat.mul_div_cancel_left k (show 0 < 32 by decide)] at this
        simpa [sidecar] using this
      have hextra (i : Nat) : extra i = extraOf (sidecar (s.rdV b).bits (i / 32)) := by
        rw [extraOf, BitVec.extractLsb'_toNat, Nat.shiftRight_eq_div_pow]
        rfl
      simp only [hextra]
      exact ⟨gives_of_exec (exec_vpack4 hu hd a b hcheck) rfl, gives_of_exec (exec_vunpk4 hu hd a b hcheck) rfl⟩

end Sys2Proof.Machine
end

section
/-!
The tile store under block moves (R120, R219): bytes that are written, ranges, and what a store changes on a confirmed path while the
matrix engine does not read or write it.
-/
namespace Sys2Proof.Machine

open Sys2Proof.Safety

/-! ### Ranges (R219) -/

theorem inRanges_of_skip (rs : List (Nat × Nat)) {a x : Nat} (h : a ≤ x) (hx : x < skipRanges rs a) : inRanges rs x = true := by
  have hsub (l : List (Nat × Nat)) (hl : ∀ r ∈ l, r ∈ rs) (c : Nat) (hc : c ≤ x)
      (hx : x < l.foldl (fun c r => if r.1 ≤ c && c < r.2 then r.2 else c) c) : inRanges rs x = true := by
    induction l generalizing c with
    | nil => exact absurd hx (Nat.not_lt.2 hc)
    | cons r l ih =>
      rw [List.foldl_cons] at hx
      split at hx
      · next hr =>
        simp only [Bool.and_eq_true, decide_eq_true_eq] at hr
        by_cases hlt : x < r.2
        · exact List.any_eq_true.2 ⟨r, hl r (by simp), by simp; omega⟩
        · exact ih (fun q hq => hl q (by simp [hq])) r.2 (Nat.not_lt.1 hlt) hx
      · exact ih (fun q hq => hl q (by simp [hq])) c hc hx
  exact hsub rs (fun _ h => h) a h hx

theorem Tile.inRange_of_oorFrom {t : Tile} {a n x : Nat} (h : t.oorFrom a n = none) (ha : a ≤ x) (hx : x < a + n) : t.inRange x = true := by
  simp only [Tile.oorFrom] at h
  split at h
  · exact nomatch h
  · next hc =>
    by_cases h1 : x < skipRanges t.ranges a
    · exact inRanges_of_skip _ ha h1
    · by_cases h2 : x < skipRanges t.ranges (skipRanges t.ranges a)
      · exact inRanges_of_skip _ (Nat.not_lt.1 h1) h2
      · exact inRanges_of_skip _ (Nat.not_lt.1 h2) (by omega)

theorem minOpt_eq_none {a b : Option Nat} : minOpt a b = none ↔ a = none ∧ b = none := by cases a <;> cases b <;> simp [minOpt]

/-- Every byte of an access that is in range lies in an interval. -/
theorem Tile.inRange_of_oor {t : Tile} {a : Word} {n i : Nat} (h : t.oor a n = none) (hn : n ≤ 2 ^ 64) (hi : i < n) :
    t.inRange (a + BitVec.ofNat 64 i).toNat = true := by
  have ha := a.isLt
  have hadd : (a + BitVec.ofNat 64 i).toNat = (a.toNat + i) % 2 ^ 64 := by
    rw [BitVec.toNat_add, BitVec.toNat_ofNat, Nat.add_mod_mod]
  rw [Tile.oor] at h
  generalize 2 ^ 64 = M at *
  split at h
  · next hw =>
    rw [hadd, Nat.mod_eq_of_lt (by omega)]
    exact Tile.inRange_of_oorFrom h (by omega) (by omega)
  · next hw =>
    have hboth := minOpt_eq_none.1 h
    by_cases hlt : a.toNat + i < M
    · rw [hadd, Nat.mod_eq_of_lt hlt]
      exact Tile.inRange_of_oorFrom hboth.2 (by omega) (by omega)
    · rw [hadd, Nat.mod_eq_sub_mod (by omega), Nat.mod_eq_of_lt (by omega)]
      exact Tile.inRange_of_oorFrom hboth.1 (by omega) (by omega)

/-! ### Bytes that are written -/

theorem add_ofNat_succ (a : Word) (i : Nat) : a + BitVec.ofNat 64 (i + 1) = a + 1 + BitVec.ofNat 64 i := by
  rw [Nat.add_comm, BitVec.ofNat_add, ← BitVec.add_assoc]; rfl

/-- Addresses below 2^64 bytes from one another are different. -/
theorem add_ofNat_inj (a : Word) {i j : Nat} (hi : i < 2 ^ 64) (hj : j < 2 ^ 64)
    (h : (a + BitVec.ofNat 64 i).toNat = (a + BitVec.ofNat 64 j).toNat) : i = j := by
  have h := BitVec.add_right_inj a |>.1 (BitVec.eq_of_toNat_eq h)
  have h := congrArg BitVec.toNat h
  rwa [BitVec.toNat_ofNat, BitVec.toNat_ofNat, Nat.mod_eq_of_lt hi, Nat.mod_eq_of_lt hj] at h

section
variable (rs : List (Nat × Nat))

/-- A byte that is not written stays. -/
theorem get_putRange_ne (l : List Byte) (m : Memory) (a : Word) {x : Nat}
    (h : (∀ i < l.length, x ≠ (a + BitVec.ofNat 64 i).toNat) ∨ inRanges rs x = false) : Sparse.get 0 (putRange rs m a l) x = Sparse.get 0 m x := by
  induction l generalizing m a with
  | nil => rfl
  | cons b l ih =>
    rw [putRange, ih]
    · split
      · next hr =>
        refine Sparse.get_set_ne m b ?_
        rintro rfl
        rcases h with h | h
        · exact h 0 (by simp) (by simp)
        · rw [hr] at h; exact nomatch h
      · rfl
    · refine h.imp (fun h i hi => ?_) id
      rw [← add_ofNat_succ]
      exact h (i + 1) (by simpa using hi)

/-- A byte in range is written. -/
theorem get_putRange_at (l : List Byte) (m : Memory) (a : Word) (hl : l.length ≤ 2 ^ 64) {i : Nat} (hi : i < l.length)
    (hr : inRanges rs (a + BitVec.ofNat 64 i).toNat = true) : Sparse.get 0 (putRange rs m a l) (a + BitVec.ofNat 64 i).toNat = l[i] := by
  induction l generalizing m a i with
  | nil => exact absurd hi (by simp)
  | cons b l ih =>
    simp only [List.length_cons] at hl hi
    rw [putRange]
    cases i with
    | zero =>
      rw [get_putRange_ne]
      · simp only [BitVec.ofNat_eq_ofNat, BitVec.add_zero] at hr ⊢
        rw [if_pos hr, Sparse.get_set_self]
        rfl
      · refine .inl fun j hj h => ?_
        rw [← add_ofNat_succ] at h
        exact absurd (add_ofNat_inj a (by omega) (by omega) h) (by omega)
    | succ i =>
      rw [add_ofNat_succ] at hr ⊢
      exact ih _ _ (by omega) (by omega) hr

end

/-! ### A store on a confirmed path -/

/-- The tile runs a confirmed path, and no engine reads or writes the store. -/
structure Still (s : State) : Prop where
  spec : s.tile.spec = none
  mma : s.tile.eng.mma = []
  msto : s.tile.eng.msto = []

theorem Tile.mmaRace_of_nil {t : Tile} (h : t.eng.mma = []) (fresh cycle a n : Nat) : t.mmaRace fresh cycle a n = t := by
  obtain ⟨ep, run, thr, iss, spec, idle, waitw, item, last, imem, mem, anvil, latch, eng, poison, retain, flaws, ni, shadow, gang, twin⟩ := t
  obtain ⟨mx, st, mma, msto, old, anvw⟩ := eng
  subst h
  rfl

/-- The thread, the engines, the path and the time are as before. -/
structure SameFrame (s t : State) : Prop where
  thr : t.tile.thr = s.tile.thr
  eng : t.tile.eng = s.tile.eng
  spec : t.tile.spec = s.tile.spec
  cycle : t.cycle = s.cycle

theorem SameFrame.refl (s : State) : SameFrame s s := ⟨rfl, rfl, rfl, rfl⟩

theorem SameFrame.trans {s t u : State} (h : SameFrame s t) (h' : SameFrame t u) : SameFrame s u :=
  ⟨h'.thr.trans h.thr, h'.eng.trans h.eng, h'.spec.trans h.spec, h'.cycle.trans h.cycle⟩

theorem SameFrame.still {s t : State} (h : SameFrame s t) (hs : Still s) : Still t :=
  ⟨h.spec.trans hs.spec, by rw [h.eng, hs.mma], by rw [h.eng, hs.msto]⟩

theorem SameFrame.inRange {s t : State} (h : SameFrame s t) (x : Nat) : t.tile.inRange x = s.tile.inRange x := by
  unfold Tile.inRange Tile.ranges Tile.hm Tile.cr
  rw [h.thr]

/-- What a store changes on a confirmed path: the memory, by `putRange`, and nothing of the thread. -/
theorem State.stBytes_still {s : State} (hs : Still s) (a : Word) (l : List Byte) :
    (s.stBytes a l).tile.mem = putRange s.tile.ranges s.tile.mem a l ∧ SameFrame s (s.stBytes a l) := by
  have hrace : (s.tile.mmaRace s.fresh s.cycle a.toNat l.length).raceStore s.fresh s.cycle a.toNat l = (s.tile, l) := by
    rw [Tile.mmaRace_of_nil hs.mma, Tile.raceStore, hs.msto]
    rfl
  simp only [State.stBytes, State.storeAs, State.onTile, hs.spec, hrace]
  exact ⟨rfl, rfl, rfl, hs.spec.symm ▸ rfl, rfl⟩

/-- A store that passes over the bytes of its indices one by one. -/
def State.storeEach (s : State) (a : Word) (f : Nat → Byte) (l : List Nat) : State :=
  l.foldl (fun s i => s.stBytes (a + BitVec.ofNat 64 i) [f i]) s

theorem State.storeEach_frame {s : State} (hs : Still s) (a : Word) (f : Nat → Byte) (l : List Nat) : SameFrame s (s.storeEach a f l) := by
  induction l generalizing s with
  | nil => exact SameFrame.refl s
  | cons i l ih =>
    have h := (State.stBytes_still hs (a + BitVec.ofNat 64 i) [f i]).2
    exact h.trans (ih (h.still hs))

theorem State.byteAt_stBytes_one {s : State} (hs : Still s) (a : Word) (b : Byte) (x : Nat) :
    byteAt (s.stBytes a [b]) x = if x = a.toNat ∧ s.tile.inRange x = true then b else byteAt s x := by
  rw [byteAt, (State.stBytes_still hs a [b]).1]
  show Sparse.get 0 (if s.tile.inRange a.toNat = true then Sparse.set 0 s.tile.mem a.toNat b else s.tile.mem) x = _
  by_cases hx : x = a.toNat
  · subst hx
    by_cases hr : s.tile.inRange a.toNat = true
    · rw [if_pos hr, if_pos ⟨rfl, hr⟩, Sparse.get_set_self]
    · rw [if_neg hr, if_neg fun h => hr h.2]
      rfl
  · rw [if_neg (c := x = a.toNat ∧ _) fun h => hx h.1]
    split
    · exact Sparse.get_set_ne _ _ hx
    · rfl

/-- A byte at none of the addresses, or out of range, stays. -/
theorem State.byteAt_storeEach_ne {s : State} (hs : Still s) (a : Word) (f : Nat → Byte) {l : List Nat} {x : Nat}
    (h : (∀ i ∈ l, x ≠ (a + BitVec.ofNat 64 i).toNat) ∨ s.tile.inRange x = false) : byteAt (s.storeEach a f l) x = byteAt s x := by
  induction l generalizing s with
  | nil => rfl
  | cons i l ih =>
    have hf := (State.stBytes_still hs (a + BitVec.ofNat 64 i) [f i]).2
    rw [State.storeEach, List.foldl_cons, ← State.storeEach, ih (hf.still hs), State.byteAt_stBytes_one hs, if_neg]
    · rintro ⟨hx, hr⟩
      rcases h with h | h
      · exact h i (by simp) hx
      · rw [hr] at h; exact nomatch h
    · rw [hf.inRange]
      exact h.imp (fun h j hj => h j (by simp [hj])) id

/-- A byte in range at one of the addresses is written. -/
theorem State.byteAt_storeEach_at {s : State} (hs : Still s) (a : Word) (f : Nat → Byte) {l : List Nat} (hl : ∀ i ∈ l, i < 2 ^ 64) {i : Nat}
    (hi : i ∈ l) (hr : s.tile.inRange (a + BitVec.ofNat 64 i).toNat = true) : byteAt (s.storeEach a f l) (a + BitVec.ofNat 64 i).toNat = f i := by
  induction l generalizing s with
  | nil => exact absurd hi (by simp)
  | cons j l ih =>
    have hf := (State.stBytes_still hs (a + BitVec.ofNat 64 j) [f j]).2
    rw [State.storeEach, List.foldl_cons, ← State.storeEach]
    by_cases hmem : i ∈ l
    · exact ih (hf.still hs) (fun k hk => hl k (by simp [hk])) hmem (by rwa [hf.inRange])
    · obtain rfl : i = j := by simpa [hmem] using hi
      rw [State.byteAt_storeEach_ne (hf.still hs), State.byteAt_stBytes_one hs, if_pos ⟨rfl, hr⟩]
      refine .inl fun k hk h => ?_
      have := add_ofNat_inj a (hl i (by simp)) (hl k (by simp [hk])) h
      exact hmem (this ▸ hk)

end Sys2Proof.Machine
end

section
/-!
FILL, COPY, LDXA and STXA (R186, R219, R223, R224), and the proof of O22.
-/
namespace Sys2Proof.Machine

open Sys2Proof.Safety

/-! ### Block writes (R219, R224) -/

/-- The indices of a block whose addresses lie in the tile store. -/
theorem mem_storeIdx (a : Word) {n : Nat} (hn : n ≤ 2 ^ 32) (i : Nat) :
    i ∈ storeIdx a n ↔ i < n ∧ (a + BitVec.ofNat 64 i).toNat < 0x200000 := by
  have ha := a.isLt
  have hadd : (a + BitVec.ofNat 64 i).toNat = (a.toNat + i) % 2 ^ 64 := by
    rw [BitVec.toNat_add, BitVec.toNat_ofNat, Nat.add_mod_mod]
  rw [hadd, storeIdx, show Config.storeBytes = 0x200000 from rfl]
  split
  · rw [List.mem_range]
    omega
  · simp only [List.mem_map, List.mem_range]
    constructor
    · rintro ⟨k, hk, rfl⟩
      omega
    · intro h
      exact ⟨i - (2 ^ 64 - a.toNat), by omega, by omega⟩

/-- A block is written: its bytes in range, the registers as before, the engine in use for the length (R186, R219). -/
def BlockWritten (s : State) (w : Word) (n : Nat) (f : Nat → Byte) (t : State) : Prop :=
  (∀ i < n, (w + BitVec.ofNat 64 i).toNat < 0x200000 → s.tile.inRange (w + BitVec.ofNat 64 i).toNat = true →
    byteAt t (w + BitVec.ofNat 64 i).toNat = f i) ∧
  (∀ x, ((∀ i < n, x ≠ (w + BitVec.ofNat 64 i).toNat) ∨ s.tile.inRange x = false) → byteAt t x = byteAt s x) ∧
  RegsExcept [] s.tile.thr.regs t.tile.thr.regs ∧ t.tile.eng.store = s.cycle + (n + 255) / 256 + 4

theorem State.cover_mem {s : State} (rs : List (Nat × Nat)) : (s.cover rs).tile.mem = s.tile.mem ∧ (s.cover rs).tile.thr = s.tile.thr ∧
    (s.cover rs).cycle = s.cycle := by
  cases hs : s.tile.spec <;> simp [State.cover, hs]

theorem blockWrite_written {s : State} (hs : Still s) (w : Word) {n : Nat} (hn : n ≤ 2 ^ 32) (f : Nat → Byte) (g : Tile → Tile)
    (hg : ∀ t, (g t).mem = t.mem ∧ (g t).thr = t.thr) :
    BlockWritten s w n f (((s.blockWrite w n f).onTile g).useStore ((n + 255) / 256 + 4)) := by
  have hidx := mem_storeIdx w hn
  have hframe := State.storeEach_frame hs w f (storeIdx w n)
  obtain ⟨hmem, hthr, hcycle⟩ := State.cover_mem (s := s.storeEach w f (storeIdx w n)) [(w.toNat, n)]
  have hbyte (x : Nat) : byteAt (((s.blockWrite w n f).onTile g).useStore ((n + 255) / 256 + 4)) x = byteAt (s.storeEach w f (storeIdx w n)) x := by
    show Sparse.get 0 (g (s.blockWrite w n f).tile).mem x = _
    rw [(hg _).1, State.blockWrite, ← State.storeEach, hmem]
    rfl
  refine ⟨fun i hi hlt hr => ?_, fun x hx => ?_, ?_, ?_⟩
  · rw [hbyte]
    exact State.byteAt_storeEach_at hs w f (fun j hj => by have := ((hidx j).1 hj).1; omega) ((hidx i).2 ⟨hi, hlt⟩) hr
  · rw [hbyte]
    exact State.byteAt_storeEach_ne hs w f (hx.imp (fun h i hi => h i ((hidx i).1 hi).1) id)
  · show RegsExcept [] _ (g (s.blockWrite w n f).tile).thr.regs
    rw [(hg _).2, State.blockWrite, ← State.storeEach, hthr, hframe.thr]
    exact RegsExcept.refl _ _
  · show (s.blockWrite w n f).cycle + _ = _
    rw [State.blockWrite, ← State.storeEach, hcycle, hframe.cycle, Nat.add_assoc]

/-! ### FILL and COPY (R224) -/

theorem resCheck_ok {v : SVal} (h : v.ok = true) (n use : Nat) : resCheck n v use = none := if_pos h

theorem toNat_low32 (y : Word) : (y.extractLsb' 0 32).toNat = y.toNat % 2 ^ 32 := by
  rw [BitVec.extractLsb'_toNat, Nat.shiftRight_zero]

/-- What a write to an exact accumulator changes, field by field. -/
theorem State.wrXA_fields {s : State} {k : BitVec 1} (lat : Nat) (sel : Nat → Bool) (f : Nat → XA → XA)
    (h : lat = 24 ∨ s.clash (.xa k.toNat) = false) :
    let t := s.wrXA k lat sel f
    t.tile.thr.regs = s.tile.thr.regs.mapXA k.toNat sel f (List.range 64) ∧ Lands s t (.xa k.toNat) lat 0 ∧ t.tile.mem = s.tile.mem ∧
      t.cycle = s.cycle := by
  intro t
  rw [show t = _ from State.wrXA_eq lat sel f h]
  exact ⟨rfl, lands_land _ s rfl _ _ _, rfl, rfl⟩

section
variable {s : State} (hu : Unpoisoned s) (hs : Still s) (hbusy : s.storeBusy = false)
include hu hs hbusy

theorem exec_fill {a b : BitVec 5} (ha : (s.opS 0 a).ok = true) (hb : (s.opS 1 b).ok = true)
    (hr : s.tile.oor (s.opS 0 a).val ((s.opS 1 b).val.toNat % 2 ^ 32) = none) :
    ∃ t, execFill a b s = .next t ∧ BlockWritten s (s.opS 0 a).val ((s.opS 1 b).val.toNat % 2 ^ 32)
      (fun _ => BitVec.ofNat 8 ((s.opS 1 b).val.toNat / 2 ^ 32)) t := by
  have hbyte : (s.opS 1 b).val.extractLsb' 32 8 = BitVec.ofNat 8 ((s.opS 1 b).val.toNat / 2 ^ 32) := by
    apply BitVec.eq_of_toNat_eq
    rw [BitVec.extractLsb'_toNat, Nat.shiftRight_eq_div_pow, BitVec.toNat_ofNat]
  unfold execFill
  simp only [State.confirmed_of_none hs.spec, State.mslot, hbusy, State.stallIf_false, toNat_low32, hbyte, resCheck_ok ha, resCheck_ok hb]
  exact ⟨_, State.checked_pass hu _ rfl (by simpa [State.oorOf, minOpt] using hr) rfl,
    blockWrite_written hs _ (Nat.le_of_lt (Nat.mod_lt _ (by decide))) _ id fun _ => ⟨rfl, rfl⟩⟩

theorem exec_copy {d a b : BitVec 5} (hd : (s.opS 0 d).ok = true) (ha : (s.opS 1 a).ok = true) (hb : (s.opS 2 b).ok = true)
    (hw : s.tile.oor (s.opS 0 d).val ((s.opS 2 b).val.toNat % 2 ^ 32) = none)
    (hr : s.tile.oor (s.opS 1 a).val ((s.opS 2 b).val.toNat % 2 ^ 32) = none) :
    ∃ t, execCopy d a b s = .next t ∧ BlockWritten s (s.opS 0 d).val ((s.opS 2 b).val.toNat % 2 ^ 32)
      (fun i => s.ldByte ((s.opS 1 a).val + BitVec.ofNat 64 i).toNat) t := by
  unfold execCopy
  simp only [State.confirmed_of_none hs.spec, State.mslot, hbusy, State.stallIf_false, toNat_low32, resCheck_ok hd, resCheck_ok ha,
    resCheck_ok hb]
  exact ⟨_, State.checked_pass hu _ rfl (minOpt_eq_none.2 ⟨hw, hr⟩) rfl,
    blockWrite_written hs _ (Nat.le_of_lt (Nat.mod_lt _ (by decide))) _ _ fun _ => ⟨rfl, rfl⟩⟩

/-! ### LDXA and STXA (R80, R223) -/

omit hs in
theorem exec_ldxa (d : BitVec 1) {a : BitVec 5} (o : BitVec 13) (ha : (s.opS 0 a).ok = true)
    (hr : s.tile.oor ((s.opS 0 a).val + BitVec.ofInt 64 o.toInt) 4096 = none) :
    ∃ t, execLdxa d a o s = .next t ∧
      (∀ i < 64, t.tile.thr.regs.getXA d.toNat i =
        XA.ofWire (BitVec.ofNat 512 (ofLE (s.ldBytes ((s.opS 0 a).val + BitVec.ofInt 64 o.toInt + BitVec.ofNat 64 (64 * i)) 64)))) ∧
      Lands s t (.xa d.toNat) 24 0 ∧ t.tile.eng.store = s.cycle + 20 ∧ RegsExcept [.xa d.toNat] s.tile.thr.regs t.tile.thr.regs ∧
      ∀ x, byteAt t x = byteAt s x := by
  have hoff : off13 o = BitVec.ofInt 64 o.toInt := rfl
  unfold execLdxa
  simp only [State.mslot, hbusy, State.stallIf_false, resCheck_ok ha, hoff]
  refine ⟨_, State.checked_pass hu _ rfl (by simpa [State.oorOf, minOpt] using hr) rfl, ?_⟩
  have hfields := State.wrXA_fields (s := s) (k := d) 24 (fun _ => true) (fun i _ =>
    XA.ofWire (BitVec.ofNat 512 (ofLE (s.ldBytes ((s.opS 0 a).val + BitVec.ofInt 64 o.toInt + BitVec.ofNat 64 (64 * i)) 64)))) (.inl rfl)
  generalize s.wrXA d 24 _ _ = t at hfields ⊢
  obtain ⟨hregs, hland, hmem, hcycle⟩ := hfields
  have hread : (t.useStore 20).tile.thr.regs = t.tile.thr.regs := rfl
  refine ⟨fun i hi => ?_, hland, congrArg (· + 20) hcycle, ?_, fun x => congrArg (Sparse.get 0 · x) hmem⟩
  · rw [hread, hregs, Regs.getXA_mapXA _ _ _ _ List.nodup_range (by simp) _ hi, if_pos ⟨rfl, by simpa using hi, rfl⟩]
  · rw [hread, hregs]
    exact regsExcept_mapXA _ _ _ _

end

/-- A part of bytes of equal pieces. -/
theorem getElem?_flatMap_range {α : Type} (f : Nat → List α) {k : Nat} (hk : ∀ i, (f i).length = k) {n i j : Nat} (hi : i < n) (hj : j < k) :
    ((List.range n).flatMap f)[k * i + j]? = (f i)[j]? := by
  have hlen (n : Nat) : ((List.range n).flatMap f).length = k * n := by
    induction n with
    | zero => simp
    | succ n ih => rw [List.range_succ, List.flatMap_append, List.length_append, ih]; simp [hk, Nat.mul_succ]
  induction n with
  | zero => omega
  | succ n ih =>
    rw [List.range_succ, List.flatMap_append]
    by_cases h : i < n
    · have hlt : k * i + j < k * n := by
        have := Nat.mul_le_mul_left k h
        rw [Nat.mul_succ] at this
        omega
      rw [List.getElem?_append_left (by rw [hlen]; exact hlt), ih h]
    · obtain rfl : i = n := by omega
      rw [List.getElem?_append_right (by rw [hlen]; omega), hlen]
      simp

/-- An exact accumulator that is not in flight reads as it stands. -/
theorem State.rdXA_of_not_flying {s : State} {d : BitVec 1} (h : s.flying (.xa d.toNat) = false) (i : Nat) :
    s.rdXA d i = s.source.regs.getXA d.toNat i := by
  have hfly : s.flyingXA d.toNat = false := by
    unfold State.flyingXA
    split
    · next l hl =>
      simp only [State.flying, List.any_eq_false] at h
      have := h l (List.mem_of_find?_eq_some hl)
      have hd := List.find?_some hl
      simp_all
    · rfl
  rw [State.rdXA, hfly]
  rfl

theorem exec_stxa {s : State} (hu : Unpoisoned s) (hs : Still s) (hbusy : s.storeBusy = false) (d : BitVec 1) {a : BitVec 5} (o : BitVec 13)
    (ha : (s.opS 0 a).ok = true) (hfly : s.flying (.xa d.toNat) = false)
    (hr : s.tile.oor ((s.opS 0 a).val + BitVec.ofInt 64 o.toInt) 4096 = none) :
    let p := (s.opS 0 a).val + BitVec.ofInt 64 o.toInt
    ∃ t, execStxa d a o s = .next t ∧
      (∀ i < 64, ∀ j < 64, byteAt t (p + BitVec.ofNat 64 (64 * i + j)).toNat =
        BitVec.ofNat 8 ((s.source.regs.getXA d.toNat i).wire.toNat / 256 ^ j)) ∧
      (∀ x, (∀ i < 4096, x ≠ (p + BitVec.ofNat 64 i).toNat) → byteAt t x = byteAt s x) ∧ t.tile.eng.store = s.cycle + 20 ∧
      RegsExcept [] s.tile.thr.regs t.tile.thr.regs := by
  intro p
  let bytes := (List.range 64).flatMap fun i => toLE 64 (s.rdXA d i).wire.toNat
  have hpiece (i : Nat) : (toLE 64 (s.rdXA d i).wire.toNat).length = 64 := by simp [toLE]
  have hlen : bytes.length = 4096 := by simp [bytes, hpiece]
  obtain ⟨hmem, hframe⟩ := State.stBytes_still hs p bytes
  have hcount : ((s.store p bytes).useStore 20).tile.mem = (s.stBytes p bytes).tile.mem := rfl
  have hoff : off13 o = BitVec.ofInt 64 o.toInt := rfl
  unfold execStxa
  simp only [State.mslot, hbusy, State.stallIf_false, resCheck_ok ha, hoff, State.storeRoom, hs.spec]
  refine ⟨_, State.checked_pass hu _ rfl (by simpa [State.oorOf, minOpt] using hr) rfl, fun i hi j hj => ?_, fun x hx => ?_, ?_, ?_⟩
  · have hlt : 64 * i + j < bytes.length := by omega
    have hget : bytes[64 * i + j]? = _ := getElem?_flatMap_range (fun i => toLE 64 (s.rdXA d i).wire.toNat) hpiece hi hj
    show Sparse.get 0 (s.stBytes p bytes).tile.mem _ = _
    rw [hmem, get_putRange_at _ _ _ _ (by omega) hlt (Tile.inRange_of_oor hr (by decide) (by omega))]
    rw [List.getElem?_eq_getElem hlt, List.getElem?_eq_getElem (by rw [hpiece]; exact hj), Option.some_inj] at hget
    rw [hget]
    simp [toLE, State.rdXA_of_not_flying hfly, Nat.pow_mul]
  · show Sparse.get 0 (s.stBytes p bytes).tile.mem _ = _
    rw [hmem, get_putRange_ne _ _ _ _ (.inl fun i hi => hx i (by omega))]
    rfl
  · show (s.stBytes p bytes).cycle + 20 = _
    rw [hframe.cycle]
  · show RegsExcept [] _ (s.stBytes p bytes).tile.thr.regs
    rw [hframe.thr]
    exact RegsExcept.refl _ _

/-- Settles O22: block writes store byte by byte (`blockWrite_written`), LDXA and STXA move 64 pieces of 64 bytes. -/
theorem blockMoves : Obligations.BlockMoves := by
  unfold Obligations.BlockMoves
  refine ⟨fun d a b s hu hspec hbusy hmma hmsto => ?_, fun d a o s hu hspec hbusy hmma hmsto ha hfly => ?_⟩
  · intro fillTo fillN copyTo copyFrom copyN moved
    exact ⟨fun ha hb hr => gives_of_exec (exec_fill hu ⟨hspec, hmma, hmsto⟩ hbusy ha hb hr) rfl,
      fun hd ha hb hw hr => gives_of_exec (exec_copy hu ⟨hspec, hmma, hmsto⟩ hbusy hd ha hb hw hr) rfl⟩
  · intro p hr
    exact ⟨gives_of_exec (exec_ldxa hu hbusy d o ha hr) rfl, gives_of_exec (exec_stxa hu ⟨hspec, hmma, hmsto⟩ hbusy d o ha hfly hr) rfl⟩

end Sys2Proof.Machine
end

section
/-!
Traps at issue (R331 to R336, R344, R347): what the entry of a trap writes, and which check of a slot it reports.
-/
namespace Sys2Proof.Machine

open Sys2Proof.Safety

/-! ### Entry (R331 to R336) -/

theorem tcauseWord_toNat (cause slot : Nat) : (tcauseWord cause slot false false).toNat = 2 ^ 63 + slot % 8 * 2 ^ 8 + cause % 256 := by
  have := Nat.mod_lt slot (show 8 > 0 by decide)
  have := Nat.mod_lt cause (show 256 > 0 by decide)
  simp only [tcauseWord, Bool.false_eq_true, if_false, Nat.add_zero]
  rw [BitVec.toNat_ofNat, Nat.mod_eq_of_lt (by omega)]

theorem tcauseWord_hm (cause slot : Nat) : (tcauseWord cause slot false false).getLsbD 63 = true := by
  have := Nat.mod_lt slot (show 8 > 0 by decide)
  have := Nat.mod_lt cause (show 256 > 0 by decide)
  rw [← BitVec.testBit_toNat, tcauseWord_toNat, Nat.testBit_eq_decide_div_mod_eq, decide_eq_true_eq]
  omega

theorem tcauseWord_at_issue (cause slot : Nat) : (tcauseWord cause slot false false).getLsbD 12 = false := by
  have := Nat.mod_lt slot (show 8 > 0 by decide)
  have := Nat.mod_lt cause (show 256 > 0 by decide)
  rw [← BitVec.testBit_toNat, tcauseWord_toNat, Nat.testBit_eq_decide_div_mod_eq, decide_eq_false_iff_not]
  omega

/-- The registers after trap entry (R332 to R336). -/
def trapRegs (r : Regs) (cause info pc mask top0 top1 top2 top3 : Word) : Regs :=
  (((((((r.setC crTCAUSE cause).setC crTINFO info).setC crTPC pc).setC crTMASK mask).setC crTOPD0 top0).setC (crTOPD0 + 1) top1).setC
    (crTOPD0 + 2) top2).setC crTOPD3 top3

section
variable (r : Regs) (cause info pc mask top0 top1 top2 top3 : Word)

theorem trapRegs_reads : let r' := trapRegs r cause info pc mask top0 top1 top2 top3
    r'.getC 0x020 = cause ∧ r'.getC 0x028 = info ∧ r'.getC 0x022 = mask ∧ r'.getC 0x024 = top0 := by
  simp [trapRegs, Regs.getC_setC_ne, crTCAUSE, crTINFO, crTPC, crTMASK, crTOPD0, crTOPD3]

theorem trapRegs_frame : RegsExcept [.cr 0x020, .cr 0x021, .cr 0x022, .cr 0x024, .cr 0x025, .cr 0x026, .cr 0x027, .cr 0x028] r
    (trapRegs r cause info pc mask top0 top1 top2 top3) := by
  simp +contextual [RegsExcept, trapRegs, Regs.getC_setC_ne, crTCAUSE, crTINFO, crTPC, crTMASK, crTOPD0, crTOPD3]

end

/-- What a bundle without a loop's end leads to changes nothing. -/
theorem State.nextAddr_fst {s : State} (h : s.tile.iss.loops = false) (c : Bool) : (s.nextAddr c).1 = s := by
  unfold State.nextAddr
  split
  · rfl
  · simp [h]

theorem State.onRegs_onRegs (s : State) (f g : Regs → Regs) : (s.onRegs f).onRegs g = s.onRegs fun r => g (f r) := rfl

/-- The registers of a trap are written one after the other. -/
theorem State.setCr_trapRegs (s : State) (cause info pc mask top0 top1 top2 top3 : Word) :
    (((((((s.setCr crTCAUSE cause).setCr crTINFO info).setCr crTPC pc).setCr crTMASK mask).setCr crTOPD0 top0).setCr (crTOPD0 + 1) top1).setCr
      (crTOPD0 + 2) top2).setCr crTOPD3 top3 = s.onRegs fun r => trapRegs r cause info pc mask top0 top1 top2 top3 := by
  simp only [State.setCr, State.onRegs_onRegs, trapRegs]

/-- What trap entry changes of a tile besides its registers (R331, R333). -/
def Tile.entered (t : Tile) (cycle vec : Nat) (c : Capture) : Tile :=
  { t with
    idle := max t.idle (t.drained cycle + 1)
    waitw := false
    ni := { t.ni with fence := none }
    thr := { t.thr with caps := [c], pc := vec, elapsed := 0, waited := 0, replay := none, sigHeld := false } }

/-- Trap entry that does not park (R331). -/
theorem State.enterTrap_enters {s : State} {vec : Nat} (hm : s.hm = false) (hv : (s.cr 0x023).toNat % 2 ^ 18 = vec) (hvec : vec ≠ 0) (hp : Poison.capture ∉ s.tile.poison)
    (cause slot : Nat) (tinfo : Word) (c : Capture) (mask addr next : Nat) :
    ∃ f : Regs → Regs,
      (∃ pc top1 top2 top3, f = fun r => trapRegs r (tcauseWord cause slot false false) tinfo pc (BitVec.ofNat 64 (mask + 0 * 256))
        (c.ops.getD 0 SVal.zero).val top1 top2 top3) ∧
      s.enterTrap cause slot false false tinfo [c] mask 0 addr next =
        ((s.onRegs f).onIss fun i => { i with trapped := some false }).onTile fun t => t.entered s.cycle vec c := by
  have hpc : ((s.cr crTVEC).extractLsb' 0 18).toNat = vec := by
    rw [BitVec.extractLsb'_toNat, Nat.shiftRight_zero]; exact hv
  have hcap : s.tile.poison.contains .capture = false := by simpa using hp
  unfold State.enterTrap
  simp only [hm, hpc, hvec, hcap, Bool.and_false, Bool.or_false, decide_false, Bool.false_eq_true, if_false, State.setCr_trapRegs]
  exact ⟨_, ⟨_, _, _, _, rfl⟩, rfl⟩

/-- A slot that is alone in its bundle traps at issue. -/
theorem State.slotTrap_traps {s : State} {slot : Nat} (h : TrapReady s slot) (hslot : slot < 8) {cause : Nat} (hcause : cause < 256) (tinfo : Word)
    (names : List Reg) (ops : List SVal) (third : Option Nat) :
    let t := s.slotTrap cause tinfo names ops third
    TrapsAt cause slot tinfo s t ∧ t.cr 0x024 = (ops.getD 0 SVal.zero).val ∧ t.tile.ni.ents = s.tile.ni.ents := by
  intro t
  obtain ⟨hspec, hm, hvec, hsrc, hothers, hs, hloops, hp⟩ := h
  generalize hv : (s.cr 0x023).toNat % 2 ^ 18 = vec at hvec
  have hin : s.inHandler = s := if_neg (by rw [show (s.source.regs.getC crTCAUSE).getLsbD 63 = false from hsrc]; exact Bool.false_ne_true)
  obtain ⟨n, ht⟩ : ∃ n, t = (s.enterTrap cause slot false false tinfo [s.capture names ops third] (2 ^ slot) 0 s.tile.iss.addr n).onIss
      fun i => { i with others := [s.capture names ops third], raised := some (cause, tinfo) } := by
    refine ⟨(s.nextAddr (s.tile.iss.slot == 0)).2, ?_⟩
    show s.slotTrap cause tinfo names ops third = _
    simp [State.slotTrap, hspec, State.takeFault, hothers, State.nextAddr_fst hloops, hin, slotBits, State.capture, hs]
  obtain ⟨f, ⟨pc, top1, top2, top3, hf⟩, hu⟩ :=
    State.enterTrap_enters hm hv hvec hp cause slot tinfo (s.capture names ops third) (2 ^ slot) s.tile.iss.addr n
  rw [hu] at ht
  have hkept : t.tile.thr.regs = f s.tile.thr.regs ∧ t.tile.thr.pc = vec ∧ t.tile.anvil = s.tile.anvil ∧ t.tile.mem = s.tile.mem ∧
      t.tile.ni.ents = s.tile.ni.ents := by
    rw [ht]; exact ⟨rfl, rfl, rfl, rfl, rfl⟩
  obtain ⟨hregs, hpc, hanvil, hmem, hents⟩ := hkept
  have hreads := trapRegs_reads s.tile.thr.regs (tcauseWord cause slot false false) tinfo pc (BitVec.ofNat 64 (2 ^ slot + 0 * 256))
    (ops.getD 0 SVal.zero).val top1 top2 top3
  have hframe := trapRegs_frame s.tile.thr.regs (tcauseWord cause slot false false) tinfo pc (BitVec.ofNat 64 (2 ^ slot + 0 * 256))
    (ops.getD 0 SVal.zero).val top1 top2 top3
  rw [show trapRegs _ _ _ _ _ _ _ _ _ = t.tile.thr.regs by rw [hregs, hf]; rfl] at hreads hframe
  obtain ⟨hc, hi, hmask, htop⟩ := hreads
  have hcr (k : Nat) : t.cr k = t.tile.thr.regs.getC k := rfl
  have hbits : 2 ^ slot < 2 ^ 64 := Nat.pow_lt_pow_right (by decide) (by omega)
  refine ⟨⟨?_, ?_, ?_, hi, ?_, hpc.trans hv.symm, hanvil, fun x => congrArg (Sparse.get 0 · x) hmem, hframe⟩, htop, hents⟩
  · show (t.tile.thr.regs.getC 0x020).getLsbD 63 = true
    rw [hc, tcauseWord_hm]
  · rw [hcr, hc, tcauseWord_toNat]; omega
  · rw [hcr, hc, tcauseWord_at_issue]
  · rw [hcr, hmask, BitVec.toNat_ofNat, Nat.zero_mul, Nat.add_zero, Nat.mod_eq_of_lt hbits]

/-! ### Which check is reported (R357) -/

/-- Where the bundle reads no mark, no register that it captures is poisoned. -/
theorem State.ueOf_of_marks {s : State} {c : Checks} (h : s.marks = []) (hb : ∀ n, Reg.b n ∉ c.names ++ c.regs) (hr : c.reads = []) :
    s.ueOf c = none := by
  have hfind : (c.names ++ c.regs).find? (fun r => (s.marksFor r).any fun p => p == .reg r) = none := by
    refine List.find?_eq_none.2 fun r hmem => ?_
    cases r
    case b n => exact absurd hmem (hb n)
    all_goals simp [State.marksFor, h]
  simp [State.ueOf, State.ueReg, hfind, hr]

section
variable {s : State} {c : Checks} (eff : State → State)

theorem State.checked_of_ue {i : Word} (h : s.ueOf c = some i) :
    s.checked c eff = .next (s.slotTrap tcUE i c.names c.ops c.third) := by simp [State.checked, h]

variable (hue : s.ueOf c = none)
include hue

theorem State.checked_of_first {f : Nat × Word} (h : c.first = some f) :
    s.checked c eff = .next (s.slotTrap f.1 f.2 c.names c.ops c.third) := by simp [State.checked, hue, h]

theorem State.checked_of_later {f : Nat × Word} (h1 : c.first = none) (h2 : s.oorOf c.mem = none) (h3 : c.later = some f) :
    s.checked c eff = .next (s.slotTrap f.1 f.2 c.names c.ops c.third) := by simp [State.checked, hue, h1, h2, h3]

theorem State.checked_of_oor {x : Nat} (h1 : c.first = none) (h2 : s.oorOf c.mem = some x) (h3 : s.enoor = true) :
    s.checked c eff = .next ((s.recordOor (some x)).slotTrap tcRANGE (BitVec.ofNat 64 x) c.names c.ops c.third) := by
  simp [State.checked, hue, h1, h2, h3]

theorem State.checked_effect (h1 : c.first = none) (h2 : s.oorOf c.mem = none) (h3 : c.later = none) : s.checked c eff = .next (eff s) := by
  simp [State.checked, hue, h1, h2, h3]

variable {slot : Nat} (hr : TrapReady s slot) (hslot : slot < 8) {cause : Nat} (hcause : cause < 256) {info : Word}
include hr hslot hcause

/-- The first failing check before the range check is trapped on. -/
theorem State.checked_first_traps (h : c.first = some (cause, info)) : ∃ t, s.checked c eff = .next t ∧ TrapsAt cause slot info s t :=
  ⟨_, State.checked_of_first eff hue h, (State.slotTrap_traps hr hslot hcause info _ _ _).1⟩

/-- The check after the range check is trapped on when those before it pass. -/
theorem State.checked_later_traps (h1 : c.first = none) (h2 : s.oorOf c.mem = none) (h3 : c.later = some (cause, info)) :
    ∃ t, s.checked c eff = .next t ∧ TrapsAt cause slot info s t :=
  ⟨_, State.checked_of_later eff hue h1 h2 h3, (State.slotTrap_traps hr hslot hcause info _ _ _).1⟩

end

/-- A poisoned operand is trapped on. -/
theorem State.checked_ue_traps {s : State} {c : Checks} (eff : State → State) {slot : Nat} (hr : TrapReady s slot) (hslot : slot < 8) {i : Word}
    (h : s.ueOf c = some i) : ∃ t, s.checked c eff = .next t ∧ TrapsAt 0x0B slot i s t :=
  ⟨_, State.checked_of_ue eff h, (State.slotTrap_traps hr hslot (by decide) i _ _ _).1⟩

theorem gives_of_trap {i : Instr} {s : State} {P Q : State → Prop} (h : Gives i s P) (hPQ : ∀ t, P t → Q t) : Gives i s Q :=
  h.imp fun _ ht => ⟨ht.1, hPQ _ ht.2⟩

/-! ### The record of an out-of-range access (R344) -/

/-- The record of address `x` for the slot in issue. -/
def State.oorMarked (s : State) (x : Nat) : State :=
  ((s.setCr crOORFLAG 1).setCr crOORADDR (BitVec.ofNat 64 x)).onIss fun i => { i with oorBy := some (i.slot, x) }

section
variable {s : State} (x : Nat)

theorem State.recordOor_of_clear (h : (s.cr 0x031).getLsbD 0 = false) : s.recordOor (some x) = s.oorMarked x := by
  have h : (s.cr crOORFLAG).getLsbD 0 = false := h
  simp only [State.recordOor, h, Bool.not_false, if_true]
  rfl

theorem State.recordOor_of_earlier_bundle (h : (s.cr 0x031).getLsbD 0 = true) (hby : s.tile.iss.oorBy = none) : s.recordOor (some x) = s := by
  have h : (s.cr crOORFLAG).getLsbD 0 = true := h
  simp only [State.recordOor, h, hby, Bool.not_true, Bool.false_eq_true, if_false]

theorem State.recordOor_of_same_bundle (h : (s.cr 0x031).getLsbD 0 = true) {k y : Nat} (hby : s.tile.iss.oorBy = some (k, y)) :
    s.recordOor (some x) = if s.tile.iss.slot < k then s.oorMarked x else s := by
  have h : (s.cr crOORFLAG).getLsbD 0 = true := h
  simp only [State.recordOor, h, hby, Bool.not_true, Bool.false_eq_true, if_false]
  rfl

theorem State.oorMarked_spec (s : State) : (s.oorMarked x).cr 0x031 = 1 ∧ (s.oorMarked x).cr 0x030 = BitVec.ofNat 64 x ∧
    RegsExcept [.cr 0x030, .cr 0x031] s.tile.thr.regs (s.oorMarked x).tile.thr.regs := by
  have hregs : (s.oorMarked x).tile.thr.regs = (s.tile.thr.regs.setC crOORFLAG 1).setC crOORADDR (BitVec.ofNat 64 x) := rfl
  rw [State.cr, State.cr, hregs]
  simp +contextual [RegsExcept, Regs.getC_setC_ne, crOORFLAG, crOORADDR]

/-- An access that is not in range leaves the state, or leaves its record. -/
theorem State.recordOor_some (s : State) : s.recordOor (some x) = s ∨ s.recordOor (some x) = s.oorMarked x := by
  cases h : (s.cr 0x031).getLsbD 0
  · exact .inr (State.recordOor_of_clear x h)
  · cases hby : s.tile.iss.oorBy with
    | none => exact .inl (State.recordOor_of_earlier_bundle x h hby)
    | some k =>
      rw [State.recordOor_of_same_bundle x h hby]
      split
      · exact .inr rfl
      · exact .inl rfl

/-- A record of an access leaves a slot as ready to trap as it was. -/
theorem State.oorMarked_ready {slot : Nat} (h : TrapReady s slot) : TrapReady (s.oorMarked x) slot := by
  obtain ⟨hspec, hm, hvec, hsrc, hothers, hs, hloops, hp⟩ := h
  have hcr (k : Nat) (h1 : k ≠ 0x031) (h2 : k ≠ 0x030) : (s.oorMarked x).cr k = s.cr k := by
    exact (Regs.getC_setC_ne (i := k) _ _ h2).trans (Regs.getC_setC_ne (i := k) _ _ h1)
  refine ⟨hspec, ?_, ?_, ?_, hothers, hs, hloops, hp⟩
  · show ((s.oorMarked x).cr 0x020).getLsbD 63 = false
    rw [hcr 0x020 (by decide) (by decide)]
    exact hm
  · rw [hcr 0x023 (by decide) (by decide)]
    exact hvec
  · cases hi : s.tile.iss.src with
    | some src =>
      rw [show (s.oorMarked x).source = s.source by simp [State.source, State.oorMarked, hi]]
      exact hsrc
    | none =>
      have hregs (u : State) (hu : u.tile.iss.src = none) : u.source.regs = u.tile.thr.regs := by simp [State.source, hu]
      rw [hregs _ (show (s.oorMarked x).tile.iss.src = none from hi)]
      rw [hregs _ hi] at hsrc
      have := hcr 0x020 (by decide) (by decide)
      rw [State.cr, State.cr] at this
      rw [this]
      exact hsrc

/-- What the record of an access leaves of the registers, the tile store and the slot's readiness. -/
theorem State.recordOor_keeps {slot : Nat} (h : TrapReady s slot) : let u := s.recordOor (some x)
    TrapReady u slot ∧ u.cr 0x023 = s.cr 0x023 ∧ (∀ n, u.tile.thr.regs.getS n = s.tile.thr.regs.getS n) ∧ u.tile.mem = s.tile.mem := by
  intro u
  rcases State.recordOor_some x s with hu | hu
  · rw [show u = s from hu]
    exact ⟨h, rfl, fun _ => rfl, rfl⟩
  · rw [show u = s.oorMarked x from hu]
    obtain ⟨hs, -, -, -, -, -, -, -, -, -, hc, -⟩ := (State.oorMarked_spec x s).2.2
    exact ⟨State.oorMarked_ready x h, hc _ (by simp), fun n => hs n (by simp), rfl⟩

end

end Sys2Proof.Machine
end

section
/-!
What scalar, belief and network operands trap on (R194, R263, R283 to R288, R343, R344, R347).
-/
namespace Sys2Proof.Machine

open Sys2Proof.Safety

theorem oorOf_singleton (s : State) (a : Word) (n : Nat) : s.oorOf [(a, n)] = s.tile.oor a n := by
  simp [State.oorOf, minOpt]

/-! ### LDD (R194, R344) -/

section
variable {s : State} (hu : Unpoisoned s) (hr : TrapReady s 3) (hbusy : s.storeBusy = false)
include hu hr hbusy

/-- LDD under ENOOR traps on the lowest byte that is not in range. -/
theorem exec_ldd_oor (d : BitVec 5) {a : BitVec 5} {o : BitVec 13} {x : Nat} (ha : (s.opS 0 a).ok = true)
    (hoor : s.tile.oor ((s.opS 0 a).val + o.signExtend 64) 8 = some x) (hen : (s.cr 0x023).getLsbD 63 = true) :
    ∃ t, execLdd d a o s = .next t ∧ TrapsAt 0x0A 3 (BitVec.ofNat 64 x) (s.recordOor (some x)) t ∧ t.cr 0x024 = (s.opS 0 a).val := by
  have hkeeps := State.recordOor_keeps x hr
  have htrap := State.slotTrap_traps hkeeps.1 (by decide) (show tcRANGE < 256 by decide) (BitVec.ofNat 64 x) [.s a.toNat] [s.opS 0 a] none
  unfold execLdd State.loadOp
  simp only [State.mslot, hbusy, State.stallIf_false, resCheck_ok ha]
  exact ⟨_, State.checked_of_oor _ (State.ueOf_of_unpoisoned hu _) rfl ((oorOf_singleton _ _ _).trans hoor) hen, htrap.1, htrap.2.1⟩

/-- LDD traps on an address register whose residue is wrong. -/
theorem exec_ldd_residue (d : BitVec 5) {a : BitVec 5} (o : BitVec 13) (ha : (s.opS 0 a).ok = false) :
    ∃ t, execLdd d a o s = .next t ∧
      TrapsAt 0x03 3 (residueInfo a.toNat false 0 0 (s.opS 0 a).res (resOf (s.opS 0 a).val.toNat)) s t := by
  have hres : resCheck a.toNat (s.opS 0 a) 0 = some (tcRESIDUE, residueInfo a.toNat false 0 0 (s.opS 0 a).res (resOf (s.opS 0 a).val.toNat)) := by
    simp [resCheck, ha]
  unfold execLdd State.loadOp
  simp only [State.mslot, hbusy, State.stallIf_false, hres]
  exact State.checked_first_traps _ (State.ueOf_of_unpoisoned hu _) hr (by decide) (by decide) rfl

end

theorem residueInfo_toNat (a : BitVec 5) (v : SVal) :
    (residueInfo a.toNat false 0 0 v.res (resOf v.val.toNat)).toNat = a.toNat + v.res.toNat * 2 ^ 15 + v.val.toNat % 15 * 2 ^ 19 := by
  have ha := a.isLt
  have hres := v.res.isLt
  have hmod := Nat.mod_lt v.val.toNat (show 15 > 0 by decide)
  have hof : (resOf v.val.toNat).toNat = v.val.toNat % 15 := by
    rw [resOf, BitVec.toNat_ofNat, Nat.mod_eq_of_lt (by omega)]
  rw [residueInfo, hof, BitVec.toNat_ofNat]
  generalize v.val.toNat % 15 = k at *
  simp only [Bool.false_eq_true, if_false]
  omega

/-! ### Residues that carry an error on (R343) -/

theorem SVal.ok_iff (x : SVal) : x.ok = true ↔ x.res.toNat = x.val.toNat % 15 := by
  have hmod := Nat.mod_lt x.val.toNat (show 15 > 0 by decide)
  rw [SVal.ok, beq_iff_eq, ← BitVec.toNat_inj, resOf, BitVec.toNat_ofNat, Nat.mod_eq_of_lt (by omega)]

theorem SVal.ok_false_iff (x : SVal) : x.ok = false ↔ x.res.toNat ≠ x.val.toNat % 15 := by
  rw [← Bool.not_eq_true, SVal.ok_iff]

theorem res_ofNat_mod (n : Nat) : (BitVec.ofNat 4 (n % 15)).toNat = n % 15 := by
  rw [BitVec.toNat_ofNat, Nat.mod_eq_of_lt (by omega)]

theorem SVal.one_wrong {x y : SVal} (h : x.ok ≠ y.ok) : x.res.toNat = x.val.toNat % 15 ∧ y.res.toNat ≠ y.val.toNat % 15 ∨
    x.res.toNat ≠ x.val.toNat % 15 ∧ y.res.toNat = y.val.toNat % 15 := by
  rw [← SVal.ok_iff, ← SVal.ok_iff, ← SVal.ok_false_iff, ← SVal.ok_false_iff]
  cases hx : x.ok
  · exact .inr ⟨rfl, by simpa [hx] using h⟩
  · exact .inl ⟨rfl, by simpa [hx] using h⟩

/-- One wrong residue and one right one make a wrong residue of the sum. -/
theorem SVal.add_not_ok {x y : SVal} (hx : x.res.toNat < 15) (hy : y.res.toNat < 15) (h : x.ok ≠ y.ok) : (x.add y).ok = false := by
  have hxv := x.val.isLt
  have hyv := y.val.isLt
  have hsum : (x.add y).val.toNat = (x.val.toNat + y.val.toNat) % 2 ^ 64 := BitVec.toNat_add _ _
  have hres : (x.add y).res.toNat = (x.res.toNat + y.res.toNat + 15 - (x.val.toNat + y.val.toNat) / 2 ^ 64) % 15 := res_ofNat_mod _
  rw [SVal.ok_false_iff, hsum, hres]
  have hone := SVal.one_wrong h
  omega

/-- One wrong residue and one right one make a wrong residue of the difference. -/
theorem SVal.sub_not_ok {x y : SVal} (hx : x.res.toNat < 15) (hy : y.res.toNat < 15) (h : x.ok ≠ y.ok) : (x.sub y).ok = false := by
  have hxv := x.val.isLt
  have hyv := y.val.isLt
  have hdiff : (x.sub y).val.toNat = (2 ^ 64 - y.val.toNat + x.val.toNat) % 2 ^ 64 := BitVec.toNat_sub _ _
  have hres : (x.sub y).res.toNat = (x.res.toNat + 30 - y.res.toNat + if x.val.toNat < y.val.toNat then 1 else 0) % 15 := res_ofNat_mod _
  rw [SVal.ok_false_iff, hdiff, hres]
  have hone := SVal.one_wrong h
  split <;> omega

section
variable {s : State} (hu : Unpoisoned s) {d : BitVec 5} (hc : s.clash (.s d.toNat) = false) (hd : d ≠ 0)
include hu hc hd

/-- What an integer operation of two scalars leaves in its register. -/
theorem State.alu_result (a b : BitVec 5) (lat : Nat) (f : SVal → SVal → SVal) :
    ∃ t, s.alu d a b lat f = .next t ∧ t.tile.thr.regs.getS d.toNat = f (s.opS 0 a) (s.opS 1 b) := by
  unfold State.alu
  exact ⟨_, State.checked_plain hu _ rfl rfl rfl, (State.wrS_spec hu.2 hc _ _ _).2 hd⟩

theorem State.alu1_result (a : BitVec 5) (f : SVal → SVal) :
    ∃ t, s.alu1 d a f = .next t ∧ t.tile.thr.regs.getS d.toNat = f (s.opS 0 a) := by
  unfold State.alu1
  exact ⟨_, State.checked_plain hu _ rfl rfl rfl, (State.wrS_spec hu.2 hc _ _ _).2 hd⟩

end

/-! ### Beliefs (R283, R285, R287, R288) -/

theorem Belief.eliminate_bad {b : Belief} (h : b.inv = true ∨ b.nf = true) (thr : W32) (gone : Nat → Bool) :
    b.eliminate thr gone = .error (1, 0) := by
  rw [Belief.eliminate, if_pos (by simpa using h)]

/-- BMEAN's first pivot. -/
theorem Belief.eliminate_pivot {b : Belief} {thr : W32} (hinv : b.inv = false) (hnf : b.nf = false) (hdim : 0 < b.dim)
    (hcmp : fpCmp 2 thr (b.lamAt 0 0) = false) (hnan : (f32 (b.lamAt 0 0)).isNan = false) : b.eliminate thr (fun _ => true) = .error (0, 0) := by
  obtain ⟨n, hn⟩ := Nat.exists_eq_add_of_lt hdim
  rw [Belief.eliminate, if_neg (by simp [hinv, hnf]), hn, Nat.zero_add, List.range_succ_eq_map, List.filter_cons_of_pos rfl, Elim.run]
  have hpiv (r : List W32) (l : List Nat) : Elim.at ⟨(List.range 64).map fun n => lane b.lam n, (List.range 8).map b.etaAt, r, l⟩ 0 0 = b.lamAt 0 0 := by
    rfl
  simp [Elim.step, hpiv, hcmp, hnan]

theorem State.elimOp_traps {s : State} (hu : Unpoisoned s) (hr : TrapReady s 7) (d : BitVec 4) {a : BitVec 4} {gone : Nat → Bool}
    (f : Belief → Elim → Belief) {k : Nat × Nat}
    (h : (s.rdB a).eliminate (BitVec.ofNat 32 (s.rdC 0x071).toNat) gone = .error k) :
    ∃ t, s.elimOp d a gone f = .next t ∧ TrapsAt 0x05 7 (BitVec.ofNat 64 (8 * k.1 + k.2)) s t := by
  have hthr : (s.rdC crBSINGTHR).extractLsb' 0 32 = BitVec.ofNat 32 (s.rdC 0x071).toNat := rfl
  unfold State.elimOp
  simp only [hthr, h]
  exact State.checked_later_traps _ (State.ueOf_of_unpoisoned hu _) hr (by decide) (by decide) rfl rfl rfl

/-- BMARG and BMEAN of a block with INV or NF. -/
theorem exec_bmarg_bad {s : State} (hu : Unpoisoned s) (hr : TrapReady s 7) (d : BitVec 4) {a : BitVec 4} (k : BitVec 8)
    (h : (s.rdB a).inv = true ∨ (s.rdB a).nf = true) : ∃ t, execBmarg d a k s = .next t ∧ TrapsAt 0x05 7 8 s t := by
  unfold execBmarg
  exact State.elimOp_traps hu hr d _ (Belief.eliminate_bad h _ _)

theorem exec_bmean_bad {s : State} (hu : Unpoisoned s) (hr : TrapReady s 7) (d : BitVec 4) {a : BitVec 4}
    (h : (s.rdB a).inv = true ∨ (s.rdB a).nf = true) : ∃ t, execBmean d a s = .next t ∧ TrapsAt 0x05 7 8 s t := by
  unfold execBmean
  exact State.elimOp_traps hu hr d _ (Belief.eliminate_bad h _ _)

/-- BMEAN of a block whose first pivot is not above the threshold. -/
theorem exec_bmean_pivot {s : State} (hu : Unpoisoned s) (hr : TrapReady s 7) (d : BitVec 4) {a : BitVec 4} (hinv : (s.rdB a).inv = false)
    (hnf : (s.rdB a).nf = false) (hdim : 0 < (s.rdB a).dim)
    (hcmp : fpCmp 2 (BitVec.ofNat 32 (s.rdC 0x071).toNat) ((s.rdB a).lamAt 0 0) = false) (hnan : (f32 ((s.rdB a).lamAt 0 0)).isNan = false) :
    ∃ t, execBmean d a s = .next t ∧ TrapsAt 0x05 7 0 s t := by
  unfold execBmean
  exact State.elimOp_traps hu hr d _ (Belief.eliminate_pivot hinv hnf hdim hcmp hnan)

theorem exec_bdamp_traps {s : State} (hu : Unpoisoned s) (hr : TrapReady s 7) (d a : BitVec 4) {f : BitVec 4} (h : betaOk (s.opF 0 f) = false) :
    ∃ t, execBdamp d a f s = .next t ∧ TrapsAt 0x04 7 (scaleInfo 0 0 4 (s.opF 0 f)) s t := by
  unfold execBdamp
  simp only [h]
  exact State.checked_later_traps _ (State.ueOf_of_unpoisoned hu _) hr (by decide) (by decide) rfl rfl rfl

theorem exec_breg_traps {s : State} (hu : Unpoisoned s) (hr : TrapReady s 7) (d a : BitVec 4) {f : BitVec 4} (h : notFinite (s.opF 0 f) = true) :
    ∃ t, execBreg d a f s = .next t ∧ TrapsAt 0x04 7 (scaleInfo 0 0 5 (s.opF 0 f)) s t := by
  unfold execBreg
  simp only [h]
  exact State.checked_later_traps _ (State.ueOf_of_unpoisoned hu _) hr (by decide) (by decide) rfl rfl rfl

/-! ### Free handles (R263) -/

/-- Every use of a free handle by an instruction of its own traps, before all else. -/
theorem exec_free_handle {s : State} (hs : s.tile.spec = none) {k : BitVec 4} (hk : s.rdH k = none) (j : BitVec 3) (d : BitVec 5) (w : BitVec 2) :
    ∀ i ∈ ([.waitm k j, .testm k j, .mrec d k w, .cancel k, .unpub k, .freeh k] : List Instr),
      exec i s = .next (s.slotTrap tcHANDLE (k.zeroExtend 64) [] [] none) := by
  have hh (f : Nat → State → State) : s.handle k f = .next (s.slotTrap tcHANDLE (k.zeroExtend 64) [] [] none) := by simp [State.handle, hk]
  simp only [List.forall_mem_cons]
  refine ⟨?_, ?_, ?_, ?_, ?_, ?_, by simp⟩
  · show execWaitm k j s = _
    simp only [execWaitm, State.confirmed_of_none hs, hk, hh]
  · show execTestm k j s = _
    simp only [execTestm, State.confirmed_of_none hs, hk, hh]
  · show execMrec d k w s = _
    simp only [execMrec, State.confirmed_of_none hs, hk, hh]
  · show execCancel k s = _
    simp only [execCancel, State.confirmed_of_none hs, hh]
  · show execUnpub k s = _
    simp only [execUnpub, State.confirmed_of_none hs, hh]
  · show execFreeh k s = _
    simp only [execFreeh, State.confirmed_of_none hs, hh]

/-! ### Poisoned registers and words (R336, R347) -/

/-- A poisoned register that ADDI reads. -/
theorem exec_addi_poison {s : State} (hr : TrapReady s 1) (d : BitVec 5) {a : BitVec 5} (i : BitVec 16) (h : Poison.reg (.s a.toNat) ∈ s.marks) :
    ∃ t, execAddi d a i s = .next t ∧ TrapsAt 0x0B 1 (BitVec.ofNat 64 (2 + 256 * a.toNat)) s t := by
  have hany : ((s.marksFor (.s a.toNat)).any fun p => p == .reg (.s a.toNat)) = true :=
    List.any_eq_true.2 ⟨_, h, by simp⟩
  unfold execAddi State.alu1
  exact State.checked_ue_traps _ hr (by decide) (by simp [State.ueOf, State.ueReg, hany, ueInfo, Reg.ueCode])

theorem overlap_word {a w : Nat} (ha : a < 2 ^ 64) (h1 : a < 8 * w + 8) (h2 : 8 * w < a + 8) : overlap a 8 (8 * w) 8 = true := by
  simp only [overlap, Bool.and_eq_true, Bool.or_eq_true, decide_eq_true_eq]
  omega

/-- The only poisoned word is found by an access that touches it. -/
theorem State.ueMem_single {s : State} {w : Nat} (hp : s.tile.poison = [.store w]) {a : Word} {n : Nat} (hn : n ≠ 0)
    (h : overlap a.toNat n (8 * w) 8 = true) : s.ueMem a n = some (ueInfo 0 0 (8 * w)) := by
  simp [State.ueMem, hp, hn, h]

theorem exec_ldd_poison {s : State} (hr : TrapReady s 3) (hbusy : s.storeBusy = false) (hm : s.marks = []) {w : Nat}
    (hp : s.tile.poison = [.store w]) (d a : BitVec 5) (o : BitVec 13) (h1 : ((s.opS 0 a).val + o.signExtend 64).toNat < 8 * w + 8)
    (h2 : 8 * w < ((s.opS 0 a).val + o.signExtend 64).toNat + 8) :
    ∃ t, execLdd d a o s = .next t ∧ TrapsAt 0x0B 3 (BitVec.ofNat 64 (256 * (8 * w))) s t := by
  have hmem := State.ueMem_single hp (by decide) (overlap_word (BitVec.isLt _) h1 h2)
  have hoff : off13 o = o.signExtend 64 := rfl
  unfold execLdd State.loadOp
  simp only [State.mslot, hbusy, State.stallIf_false, hoff]
  refine State.checked_ue_traps _ hr (by decide) ?_
  simp [State.ueOf, State.ueReg, State.marksFor, hm, hmem, ueInfo]

/-- A write of a whole register ends its poison. -/
theorem exec_addi_cleans {s : State} (hm : s.marks = []) {d : BitVec 5} (hd : d ≠ 0) (a : BitVec 5) (i : BitVec 16) :
    ∃ t, execAddi d a i s = .next t ∧ Poison.reg (.s d.toNat) ∉ t.tile.poison := by
  unfold execAddi State.alu1
  refine ⟨_, State.checked_effect _ (State.ueOf_of_marks hm (by simp) rfl) rfl rfl rfl, ?_⟩
  simp only [State.wrS, if_neg hd]
  show _ ∉ List.filter _ _
  simp

/-- A store of a whole word ends its poison. -/
theorem exec_std_cleans {s : State} (hs : s.tile.spec = none) (hbusy : s.storeBusy = false) (hm : s.marks = []) {d a : BitVec 5} {o : BitVec 13}
    {w : Nat} (hd : (s.opS 0 d).ok = true) (ha : (s.opS 1 a).ok = true) (hw : ((s.opS 1 a).val + o.signExtend 64).toNat = 8 * w)
    (hoor : s.tile.oor ((s.opS 1 a).val + o.signExtend 64) 8 = none) :
    ∃ t, execStd d a o s = .next t ∧ Poison.store w ∉ t.tile.poison := by
  have hoff : off13 o = o.signExtend 64 := rfl
  unfold execStd State.storeOp
  simp only [State.mslot, hbusy, State.stallIf_false, State.storeRoom, hs, resCheck_ok hd, resCheck_ok ha, hoff]
  refine ⟨_, State.checked_effect _ (State.ueOf_of_marks hm (by simp) rfl) rfl ((oorOf_singleton _ _ _).trans hoor) rfl, ?_⟩
  simp only [State.store, State.stBytes, State.storeAs, State.countStore, State.onTile_tile, hs]
  have hlt : 8 * w < 2 ^ 64 := hw ▸ BitVec.isLt _
  simp only [hw, List.mem_filter, Poison.covered, toLE, List.length_map, List.length_range]
  simp only [Bool.not_eq_true', decide_eq_false_iff_not]
  omega

theorem Tile.inRange_of_thr {t u : Tile} (h : u.thr = t.thr) (x : Nat) : u.inRange x = t.inRange x := by
  unfold Tile.inRange Tile.ranges Tile.hm Tile.cr
  rw [h]

/-- A word that is moved whole to an aligned address goes into one word. -/
theorem mem_movedWords {w dst : Nat} (hw : 8 * w < 2 ^ 64) (hdst : dst < 2 ^ 64) (h8 : dst % 8 = 0) : dst / 8 ∈ movedWords (8 * w) dst 8 w := by
  have hsame (i : Nat) (hi : i < 8) : (8 * w + i + (2 ^ 64 - 8 * w)) % 2 ^ 64 = i := by omega
  have hplace (i : Nat) (hi : i < 8) : (8 * w + i + (2 ^ 64 - 8 * w) + dst) % 2 ^ 64 / 8 = dst / 8 := by omega
  have hall : ((List.range 8).filter fun i => decide ((8 * w + i + (2 ^ 64 - 8 * w)) % 2 ^ 64 < 8)) = List.range 8 := by
    refine List.filter_eq_self.2 fun i hi => ?_
    rw [hsame i (List.mem_range.1 hi)]
    simpa using hi
  have hfold (l : List Nat) (hl : ∀ i ∈ l, i < 8) (m : List Nat) (hm : dst / 8 ∈ m ∨ l ≠ []) :
      dst / 8 ∈ l.foldl (fun l i => let x := (8 * w + i + (2 ^ 64 - 8 * w) + dst) % 2 ^ 64 / 8; if l.contains x then l else l ++ [x]) m := by
    induction l generalizing m with
    | nil => simpa using hm
    | cons i l ih =>
      refine ih (fun j hj => hl j (by simp [hj])) _ (.inl ?_)
      simp only [hplace i (hl i (by simp))]
      split <;> simp_all
  rw [movedWords, hall]
  exact hfold _ (fun i hi => List.mem_range.1 hi) [] (.inr (by simp))

/-- COPY carries the poison of a word along. -/
theorem exec_copy_poison {s : State} (hs : Still s) (hbusy : s.storeBusy = false) (hm : s.marks = []) {d a b : BitVec 5} {w : Nat}
    (hd : (s.opS 0 d).ok = true) (ha : (s.opS 1 a).ok = true) (hb : (s.opS 2 b).ok = true) (hn : (s.opS 2 b).val.toNat % 2 ^ 32 = 8)
    (hsrc : (s.opS 1 a).val.toNat = 8 * w) (hdst : (s.opS 0 d).val.toNat % 8 = 0) (hw : s.tile.oor (s.opS 0 d).val 8 = none)
    (hr : s.tile.oor (s.opS 1 a).val 8 = none) (hp : Poison.store w ∈ s.tile.poison) :
    ∃ t, execCopy d a b s = .next t ∧ Poison.store ((s.opS 0 d).val.toNat / 8) ∈ t.tile.poison := by
  unfold execCopy
  simp only [State.confirmed_of_none hs.spec, State.mslot, hbusy, State.stallIf_false, toNat_low32, hn, resCheck_ok hd, resCheck_ok ha, resCheck_ok hb]
  refine ⟨_, State.checked_effect _ (State.ueOf_of_marks hm (by simp) rfl) rfl (minOpt_eq_none.2 ⟨hw, hr⟩) rfl, ?_⟩
  have hthr (f : Nat → Byte) : (s.blockWrite (s.opS 0 d).val 8 f).tile.thr = s.tile.thr :=
    (State.cover_mem _).2.1.trans (State.storeEach_frame hs _ f _).thr
  generalize (fun i => s.ldByte ((s.opS 1 a).val + BitVec.ofNat 64 i).toNat) = f
  replace hthr := hthr f
  generalize s.blockWrite (s.opS 0 d).val 8 f = u at hthr ⊢
  have hin : u.tile.inRange (8 * ((s.opS 0 d).val.toNat / 8)) = true := by
    have h := Tile.inRange_of_oor hw (by decide) (show 0 < 8 by decide)
    rw [Tile.inRange_of_thr hthr, Nat.mul_div_cancel' (Nat.dvd_of_mod_eq_zero hdst)]
    simpa using h
  have hmoved : (s.opS 0 d).val.toNat / 8 ∈ s.movePoison (s.opS 1 a).val (s.opS 0 d).val 8 := by
    refine List.mem_flatMap.2 ⟨_, hp, ?_⟩
    rw [hsrc]
    exact mem_movedWords (hsrc ▸ BitVec.isLt _) (BitVec.isLt _) hdst
  show _ ∈ u.tile.poison ++ _
  exact List.mem_append.2 (.inr (List.mem_map.2 ⟨_, List.mem_filter.2 ⟨hmoved, hin⟩, rfl⟩))

end Sys2Proof.Machine
end

section
/-!
What anvil addresses, generations, latched blocks and scales trap on (R157, R225, R240, R241, R251, R253, R347, R366).
-/
namespace Sys2Proof.Machine

open Sys2Proof.Safety

/-! ### The anvil check (R225, R251, R366) -/

theorem toNat_field (z : Word) (i n : Nat) : (z.extractLsb' i n).toNat = z.toNat / 2 ^ i % 2 ^ n := by
  rw [BitVec.extractLsb'_toNat, Nat.shiftRight_eq_div_pow]

/-- TINFO of ANVIL_RANGE. -/
theorem anvilInfo_eq {j off : Nat} (hj : j < 8) (hoff : off < 2 ^ 22) (reason : Nat) :
    anvilInfo j reason off = BitVec.ofNat 64 (j + reason * 8 + off * 2 ^ 32) := by
  rw [anvilInfo, Nat.mod_eq_of_lt hj, Nat.mod_eq_of_lt hoff]

/-- The region is the tile's own partition's. -/
def State.ownsRegion (s : State) (j : Nat) : Prop := s.partOf s.tile.ep = some ((s.cr (0x0D8 + j)).toNat / 2 ^ 32 % 64)

/-- The bytes leave the region. -/
def State.leavesRegion (s : State) (j off n : Nat) : Prop := (s.cr (0x0D8 + j)).toNat / 2 ^ 16 % 128 * 65536 < off + n

section
variable {s : State} {j off n : Nat} {misaligned : Bool}

theorem State.owner_iff : s.partOf s.tile.ep ≠ some (abOwner (s.cr (crAB0 + j))) ↔ ¬s.ownsRegion j := by
  rw [abOwner, toNat_field]
  rfl

theorem State.size_iff : abSize (s.cr (crAB0 + j)) * 65536 < off + n ↔ s.leavesRegion j off n := by
  rw [abSize, toNat_field]
  rfl

theorem State.anvilCheck_bad : s.anvilCheck j off n true misaligned = some (tcANVIL, anvilInfo j 3 off) := rfl

theorem State.anvilCheck_owner (h : ¬s.ownsRegion j) : s.anvilCheck j off n false misaligned = some (tcANVIL, anvilInfo j 1 off) := by
  simp only [State.anvilCheck, Bool.false_eq_true, if_false, if_pos (State.owner_iff.2 h)]

theorem State.anvilCheck_misaligned (h : s.ownsRegion j) : s.anvilCheck j off n false true = some (tcANVIL, anvilInfo j 2 off) := by
  simp only [State.anvilCheck, Bool.false_eq_true, if_false, if_neg fun hn => State.owner_iff.1 hn h, if_true]

theorem State.anvilCheck_leaves (h : s.ownsRegion j) (hn : s.leavesRegion j off n) :
    s.anvilCheck j off n false false = some (tcANVIL, anvilInfo j 0 off) := by
  simp only [State.anvilCheck, Bool.false_eq_true, if_false, if_neg fun hn => State.owner_iff.1 hn h, if_pos (State.size_iff.2 hn)]

theorem State.anvilCheck_ok (h : s.ownsRegion j) (hn : ¬s.leavesRegion j off n) : s.anvilCheck j off n false false = none := by
  simp only [State.anvilCheck, Bool.false_eq_true, if_false, if_neg fun hn => State.owner_iff.1 hn h, if_neg fun h => hn (State.size_iff.1 h)]

end

/-- An access of a region that is not in retention. -/
theorem State.region_of_none {s : State} {j : Nat} (h : s.tile.retained j = none) (k : State → Out) :
    s.region j k = k (s.setRetain j (.active s.time)) := by
  simp [State.region, h]

/-! ### ANVW and ANVR (R225) -/

/-- ANVW and ANVR check what the anvil check finds for the fields of sb. -/
theorem exec_anvil_move {s : State} (hr : TrapReady s 3) (hbusy : s.storeBusy = false) (hm : s.marks = []) {a b : BitVec 5}
    (ha : (s.opS 0 a).ok = true) (hb : (s.opS 1 b).ok = true) (hret : s.tile.retained (anvReg (s.opS 1 b).val) = none) {info : Word}
    (h : s.anvilCheck (anvReg (s.opS 1 b).val) (anvOff (s.opS 1 b).val) (anvLen (s.opS 1 b).val) (anvBad (s.opS 1 b).val) false =
      some (tcANVIL, info)) :
    ∀ i ∈ ([.anvw a b, .anvr a b] : List Instr), Gives i s (TrapsAt 0x06 3 info s) := by
  have hready : TrapReady (s.setRetain (anvReg (s.opS 1 b).val) (.active s.time)) 3 := hr
  have hmarks : (s.setRetain (anvReg (s.opS 1 b).val) (.active s.time)).marks = [] := hm
  have hcheck : (s.setRetain (anvReg (s.opS 1 b).val) (.active s.time)).anvilCheck (anvReg (s.opS 1 b).val) (anvOff (s.opS 1 b).val)
      (anvLen (s.opS 1 b).val) (anvBad (s.opS 1 b).val) false = some (tcANVIL, info) := h
  have hw : ∃ t, execAnvw a b s = .next t ∧ TrapsAt 0x06 3 info s t := by
    unfold execAnvw
    simp only [State.confirmed_of_none hr.1, State.mslot, hbusy, State.stallIf_false, State.region_of_none hret, resCheck_ok ha, resCheck_ok hb,
      hcheck, firstOf]
    exact State.checked_first_traps _ (State.ueOf_of_marks hmarks (by simp) rfl) hready (by decide) (by decide) rfl
  have hr : ∃ t, execAnvr a b s = .next t ∧ TrapsAt 0x06 3 info s t := by
    unfold execAnvr
    simp only [State.confirmed_of_none hr.1, State.mslot, hbusy, State.stallIf_false, State.region_of_none hret, resCheck_ok ha, resCheck_ok hb,
      hcheck, firstOf]
    exact State.checked_first_traps _ (State.ueOf_of_marks hmarks (by simp) rfl) hready (by decide) (by decide) rfl
  simp only [List.forall_mem_cons]
  exact ⟨hw, hr, by simp⟩

/-! ### MLDB and MLDBG (R157, R251) -/

section
variable {s : State} (hr : TrapReady s 5) (hbusy : s.matrixBusy = false) (hm : s.marks = []) {a : BitVec 5}
include hr hbusy hm

theorem exec_mldb_traps (f : BitVec 3) (hret : s.tile.retained (anvilOperand (s.opS 0 a).val).region = none) {info : Word}
    (h : s.blockCheck (anvilOperand (s.opS 0 a).val) f.toNat = some (tcANVIL, info)) :
    ∃ t, execMldb a f s = .next t ∧ TrapsAt 0x06 5 info s t := by
  have hready : TrapReady (s.setRetain (anvilOperand (s.opS 0 a).val).region (.active s.time)) 5 := hr
  have hmarks : (s.setRetain (anvilOperand (s.opS 0 a).val).region (.active s.time)).marks = [] := hm
  have hcheck : (s.setRetain (anvilOperand (s.opS 0 a).val).region (.active s.time)).blockCheck (anvilOperand (s.opS 0 a).val) f.toNat =
    some (tcANVIL, info) := h
  unfold execMldb
  simp only [State.xslot, State.confirmed_of_none hr.1, hbusy, State.stallIf_false, State.region_of_none hret, hcheck]
  exact State.checked_first_traps _ (State.ueOf_of_marks hmarks (by simp) rfl) hready (by decide) (by decide) rfl

/-- MLDBG whose generation has passed traps with the region's generation. -/
theorem exec_mldbg_traps (htwin : s.tile.twin = none) (b : BitVec 5) (f : BitVec 3)
    (h : s.blockCheck (anvilOperand (s.opS 0 a).val) f.toNat = none)
    (hgen : 0 < (s.cr (0x0D0 + (anvilOperand (s.opS 0 a).val).region) - (s.opS 1 b).val).toInt) :
    ∃ t, execMldbg a b f s = .next t ∧ TrapsAt 0x07 5 (s.cr (0x0D0 + (anvilOperand (s.opS 0 a).val).region)) s t := by
  have hpair : s.pairOf = none := State.pairOf_of_none htwin
  have hcr : s.cr (crAGEN0 + (anvilOperand (s.opS 0 a).val).region) = s.cr (0x0D0 + (anvilOperand (s.opS 0 a).val).region) := rfl
  have hqueue (ws : List Word) : s.queueStep ws = s := by simp [State.queueStep, State.queueResult, State.queueEntry, hpair]
  unfold execMldbg
  simp only [State.xslot, State.confirmed_of_none hr.1, hbusy, State.stallIf_false, State.asyncStep, State.asyncRead, hpair, hcr]
  generalize s.cr (0x0D0 + (anvilOperand (s.opS 0 a).val).region) = g at *
  have hne : g ≠ (s.opS 1 b).val := by
    rintro rfl
    simp at hgen
  have hmsb : (g - (s.opS 1 b).val).msb = false := by
    rw [BitVec.msb_eq_toInt, decide_eq_false_iff_not]
    omega
  simp only [hmsb, State.stallIf_false, hne, decide_false, Bool.false_eq_true, if_false, hqueue, h]
  exact State.checked_later_traps _ (State.ueOf_of_marks hm (by simp) rfl) hr (by decide) (by decide) rfl rfl rfl

end

/-- The only poisoned anvil word is found by a block that it lies in. -/
theorem Tile.anvilUe_single {t : Tile} {w : Nat} (hp : t.poison = [.anvil w]) {a n : Nat} (h1 : a < 8 * w + 8) (h2 : 8 * w < a + n) :
    t.anvilUe a n = some w := by
  simp [Tile.anvilUe, hp, h1, h2, minOpt]

/-- MLDB carries the poison of the block into the latch. -/
theorem exec_mldb_poison {s : State} (hspec : s.tile.spec = none) (hbusy : s.matrixBusy = false) (hm : s.marks = []) {a : BitVec 5}
    (f : BitVec 3) (hret : s.tile.retained (anvilOperand (s.opS 0 a).val).region = none)
    (h : s.blockCheck (anvilOperand (s.opS 0 a).val) f.toNat = none) {w : Nat} (hp : s.tile.poison = [.anvil w])
    (h1 : s.tile.anvilAddr (anvilOperand (s.opS 0 a).val).region (anvilOperand (s.opS 0 a).val).off < 8 * w + 8)
    (h2 : 8 * w < s.tile.anvilAddr (anvilOperand (s.opS 0 a).val).region (anvilOperand (s.opS 0 a).val).off + blockBytes f.toNat) :
    ∃ t, execMldb a f s = .next t ∧ ∃ l, t.tile.latch = some l ∧ l.poison = some w := by
  have hmarks : (s.setRetain (anvilOperand (s.opS 0 a).val).region (.active s.time)).marks = [] := hm
  have hcheck : (s.setRetain (anvilOperand (s.opS 0 a).val).region (.active s.time)).blockCheck (anvilOperand (s.opS 0 a).val) f.toNat = none := h
  unfold execMldb
  simp only [State.xslot, State.confirmed_of_none hspec, hbusy, State.stallIf_false, State.region_of_none hret, hcheck]
  refine ⟨_, State.checked_effect _ (State.ueOf_of_marks hmarks (by simp) rfl) rfl rfl rfl, _, rfl, ?_⟩
  exact Tile.anvilUe_single (t := (s.setRetain (anvilOperand (s.opS 0 a).val).region (.active s.time)).tile) hp h1 h2

/-! ### Scales (R69, R240, R241, R253) -/

theorem scaleInfo_eq {index block : Nat} (hi : index < 64) (hb : block < 4) (source : Nat) (w : W32) :
    scaleInfo index block source w = BitVec.ofNat 64 (index + block * 2 ^ 6 + source * 2 ^ 8 + w.toNat * 2 ^ 32) := by
  rw [scaleInfo, Nat.mod_eq_of_lt hi, Nat.mod_eq_of_lt hb]

/-- VPACK4 and VUNPK4 trap on the first bad sidecar. -/
theorem exec_pack_traps {s : State} (hu : Unpoisoned s) (hr : TrapReady s 4) (d a : BitVec 5) {b : BitVec 5} {info : Word}
    (h : sidecarCheck (s.rdV b).bits = some (tcSCALE, info)) :
    ∀ e ∈ ([.vpack4 d a b, .vunpk4 d a b] : List Instr), Gives e s (TrapsAt 0x04 4 info s) := by
  have hpack : ∃ t, execVpack4 d a b s = .next t ∧ TrapsAt 0x04 4 info s t := by
    unfold execVpack4
    exact State.checked_first_traps _ (State.ueOf_of_unpoisoned hu _) hr (by decide) (by decide) h
  have hunpack : ∃ t, execVunpk4 d a b s = .next t ∧ TrapsAt 0x04 4 info s t := by
    unfold execVunpk4
    exact State.checked_first_traps _ (State.ueOf_of_unpoisoned hu _) hr (by decide) (by decide) h
  simp only [List.forall_mem_cons]
  exact ⟨hpack, hunpack, by simp⟩

theorem sidecarCheck_first {v : VBits} (h : sidecarOk (sidecar v 0) = false) :
    sidecarCheck v = some (tcSCALE, scaleInfo 0 0 3 (scaleOf (sidecar v 0))) := by
  rw [sidecarCheck, List.find?_range_eq_some.2 ⟨by rw [h]; rfl, by simp, by simp⟩]
  rfl

theorem sidecarCheck_second {v : VBits} (h0 : sidecarOk (sidecar v 0) = true) (h : sidecarOk (sidecar v 1) = false) :
    sidecarCheck v = some (tcSCALE, scaleInfo 0 1 3 (scaleOf (sidecar v 1))) := by
  rw [sidecarCheck, List.find?_range_eq_some.2 ⟨by rw [h]; rfl, by simp, fun j hj => by
    rw [Nat.lt_one_iff.1 hj, h0]; rfl⟩]
  rfl

section
variable {rows : VBits} {l : Latch} {i : Nat} (hi : i < 64)
include hi

theorem scaleFault_row (h : scaleOk (lane rows i) = false) (hbefore : ∀ j < i, scaleOk (lane rows j) = true) :
    scaleFault rows l = some (tcSCALE, scaleInfo i 0 0 (lane rows i)) := by
  rw [scaleFault, List.find?_range_eq_some.2 ⟨by rw [h]; rfl, List.mem_range.2 hi, fun j hj => by rw [hbefore j hj]; rfl⟩]

variable (hrows : ∀ j < 64, scaleOk (lane rows j) = true)
include hrows

theorem scaleFault_column (hl : l.fmt < 4) (h : scaleOk (l.colScale i) = false) (hbefore : ∀ j < i, scaleOk (l.colScale j) = true) :
    scaleFault rows l = some (tcSCALE, scaleInfo i 0 1 (l.colScale i)) := by
  rw [scaleFault, List.find?_range_eq_none.2 fun j hj => by rw [hrows j hj]; rfl]
  simp only [hl, if_true]
  rw [List.find?_range_eq_some.2 ⟨by rw [h]; rfl, List.mem_range.2 hi, fun j hj => by rw [hbefore j hj]; rfl⟩]
  rfl

theorem scaleFault_block (hl : ¬l.fmt < 4) {q : Nat} (hq : q < 4) (h : sidecarOk (l.colSidecar i q) = false)
    (hbefore : ∀ j < 64, ∀ p < 4, 4 * j + p < 4 * i + q → sidecarOk (l.colSidecar j p) = true) :
    scaleFault rows l = some (tcSCALE, scaleInfo i q 2 (scaleOf (l.colSidecar i q))) := by
  have hdiv : (4 * i + q) / 4 = i := by omega
  have hmod : (4 * i + q) % 4 = q := by omega
  have hfind : (List.range 256).find? (fun n => !sidecarOk (l.colSidecar (n / 4) (n % 4))) = some (4 * i + q) := by
    refine List.find?_range_eq_some.2 ⟨?_, List.mem_range.2 (by omega), fun n hn => ?_⟩
    · rw [hdiv, hmod, h]; rfl
    · rw [hbefore (n / 4) (by omega) (n % 4) (by omega) (by omega)]; rfl
  rw [scaleFault, List.find?_range_eq_none.2 fun j hj => by rw [hrows j hj]; rfl]
  simp only [hl, if_false, hfind, Option.map_some, hdiv, hmod]

end

/-! ### Multiplies (R253, R347) -/

/-- The multiplies, with the format in the latch and the bytes of a row that each needs. -/
theorem exec_mma_forms (k : BitVec 2) (a b c : BitVec 5) (s : State) :
    ∀ e ∈ ([(.mmaBb k a b c, 0, 128), (.mmaHh k a b c, 1, 128), (.mmaEe k a b c, 2, 64), (.mmaEf k a b c, 3, 64), (.mmaFe k a b c, 2, 64),
      (.mmaFf k a b c, 3, 64), (.mmaEq k a b c, 4, 128), (.mmaBq k a b c, 4, 256)] : List (Instr × Nat × Nat)),
      ∃ form : MmaForm, exec e.1 s = s.mmaOp form k a b c ∧ form.b = e.2.1 ∧ form.row = e.2.2 := by
  simp only [List.forall_mem_cons]
  exact ⟨⟨⟨.bf16, 0, 64, 128, 128⟩, rfl, rfl, rfl⟩, ⟨⟨.f16, 1, 64, 128, 128⟩, rfl, rfl, rfl⟩, ⟨⟨.e4m3, 2, 64, 64, 64⟩, rfl, rfl, rfl⟩,
    ⟨⟨.e4m3, 3, 64, 64, 64⟩, rfl, rfl, rfl⟩, ⟨⟨.e5m2, 2, 64, 64, 64⟩, rfl, rfl, rfl⟩, ⟨⟨.e5m2, 3, 64, 64, 64⟩, rfl, rfl, rfl⟩,
    ⟨⟨.e4m3, 4, 128, 128, 64⟩, rfl, rfl, rfl⟩, ⟨⟨.bf16, 4, 128, 256, 128⟩, rfl, rfl, rfl⟩, by simp⟩

section
variable {s : State} (hu : Unpoisoned s) (hr : TrapReady s 5) (hbusy : s.matrixBusy = false) {l : Latch} (hl : s.tile.latch = some l)
  {form : MmaForm} (hform : l.fmt = form.b) (k : BitVec 2) {a b : BitVec 5} (c : BitVec 5)
include hu hr hbusy hl hform

/-- A poisoned latch. -/
theorem State.mmaOp_poison_traps (a b : BitVec 5) {w : Nat} (hp : l.poison = some w) :
    ∃ t, s.mmaOp form k a b c = .next t ∧ TrapsAt 0x0B 5 (BitVec.ofNat 64 (1 + 256 * (8 * w))) s t := by
  rw [State.mmaOp_checked hr.1 hbusy hl form hform]
  exact State.checked_first_traps _ (State.ueOf_of_unpoisoned hu _) hr (by decide) (by decide) (by simp [firstOf, hp, ueInfo, tcUE])

/-- A bad scale. -/
theorem State.mmaOp_scale_traps (hp : l.poison = none) (ha : (s.opS 0 a).ok = true) (hb : (s.opS 1 b).ok = true)
    (hoor : ∀ j < 64, s.tile.oor (rowAddr (s.opS 0 a).val (s.opS 1 b).val j) form.row = none) {info : Word}
    (h : scaleFault (s.rdV c).bits l = some (tcSCALE, info)) : ∃ t, s.mmaOp form k a b c = .next t ∧ TrapsAt 0x04 5 info s t := by
  rw [State.mmaOp_checked hr.1 hbusy hl form hform]
  exact State.checked_later_traps _ (State.ueOf_of_unpoisoned hu _) hr (by decide) (by decide)
    (by simp [firstOf, hp, resCheck_ok ha, resCheck_ok hb]) (State.oorOf_rows hoor) h

end

/-- The marks that a multiply leaves: the rows of the accumulator whose row of A touches a poisoned word. -/
theorem State.mma_poison {s : State} (hst : s.tile.iss.stored = []) (form : MmaForm) (k : BitVec 2) (x y : Word) (rows : VBits) (l : Latch) :
    (s.mma form k x y rows l s).tile.poison = s.tile.poison ++
      ((List.range 64).filter fun i => (s.ueMem (rowAddr x y i) form.row).isSome).map (Poison.row k.toNat) := by
  unfold State.mma
  simp only [State.onTile, State.land, State.onThr, State.onRegs, hst, List.foldl_nil]
  rfl

/-- MMA.BB with a poisoned word in a row of A marks that row of the accumulator. -/
theorem exec_mma_poison {s : State} (hm : s.marks = []) (hspec : s.tile.spec = none) (hbusy : s.matrixBusy = false) {l : Latch}
    (hl : s.tile.latch = some l) (hfmt : l.fmt = 0) (hp : l.poison = none) (hst : s.tile.iss.stored = []) {a b c : BitVec 5}
    (ha : (s.opS 0 a).ok = true) (hb : (s.opS 1 b).ok = true) (k : BitVec 2) {i w : Nat} (hi : i < 64)
    (hok : ∀ j < 64, scaleOk (lane (s.rdV c).bits j) = true ∧ scaleOk (l.colScale j) = true ∧
      s.tile.oor (rowAddr (s.opS 0 a).val (s.opS 1 b).val j) 128 = none)
    (hw : s.tile.poison = [.store w]) (h1 : (rowAddr (s.opS 0 a).val (s.opS 1 b).val i).toNat ≤ 8 * w)
    (h2 : 8 * w < (rowAddr (s.opS 0 a).val (s.opS 1 b).val i).toNat + 128) :
    ∃ t, execMmaBb k a b c s = .next t ∧ Poison.row k.toNat i ∈ t.tile.poison := by
  have hlt := (rowAddr (s.opS 0 a).val (s.opS 1 b).val i).isLt
  have hue : (s.ueMem (rowAddr (s.opS 0 a).val (s.opS 1 b).val i) 128).isSome = true := by
    rw [State.ueMem_single hw (by decide)]
    · rfl
    · simp only [overlap, Bool.and_eq_true, Bool.or_eq_true, decide_eq_true_eq]
      omega
  unfold execMmaBb
  rw [State.mmaOp_checked hspec hbusy hl _ hfmt]
  refine ⟨_, State.checked_effect _ (State.ueOf_of_marks hm (by simp) rfl) (by simp [firstOf, hp, resCheck_ok ha, resCheck_ok hb])
    (State.oorOf_rows fun j hj => (hok j hj).2.2)
    (scaleFault_none (fun j hj => (hok j hj).1) (fun _ j hj => (hok j hj).2.1) fun h => by omega), ?_⟩
  rw [State.mma_poison hst]
  exact List.mem_append.2 (.inr (List.mem_map.2 ⟨i, List.mem_filter.2 ⟨List.mem_range.2 hi, hue⟩, rfl⟩))

end Sys2Proof.Machine
end

section
/-!
What the checks of operands report: the clauses of O18 one by one, and its proof.
-/
namespace Sys2Proof.Machine

open Sys2Proof.Safety

/-- A slot that is ready to trap, from its conditions and a tile without poison. -/
theorem trapReady_of_unpoisoned {s : State} {slot : Nat} (hu : Unpoisoned s) (hspec : s.tile.spec = none) (hm : s.hm = false)
    (hvec : (s.cr 0x023).toNat % 2 ^ 18 ≠ 0) (hsrc : (s.source.regs.getC 0x020).getLsbD 63 = false) (hothers : s.tile.iss.others = [])
    (hslot : s.tile.iss.slot = slot) (hloops : s.tile.iss.loops = false) : TrapReady s slot :=
  ⟨hspec, hm, hvec, hsrc, hothers, hslot, hloops, by simp [hu.2]⟩

/-- The records of out-of-range accesses (R344). -/
theorem recordOor_rules (x : Nat) (s : State) :
    let u := s.recordOor (some x)
    let recorded : Prop :=
      u.cr 0x031 = 1 ∧ u.cr 0x030 = BitVec.ofNat 64 x ∧ RegsExcept [.cr 0x030, .cr 0x031] s.tile.thr.regs u.tile.thr.regs ∧
        u = { s with tile := { s.tile with
          thr := { s.tile.thr with regs := u.tile.thr.regs }
          iss := { s.tile.iss with oorBy := some (s.tile.iss.slot, x) } } }
    ((s.cr 0x031).getLsbD 0 = false → recorded) ∧
    ((s.cr 0x031).getLsbD 0 = true → (s.tile.iss.oorBy = none → u = s) ∧
      ∀ k y, s.tile.iss.oorBy = some (k, y) → (s.tile.iss.slot < k → recorded) ∧ (k ≤ s.tile.iss.slot → u = s)) := by
  intro u recorded
  have hmarked (h : u = s.oorMarked x) : recorded := by
    obtain ⟨hflag, haddr, hregs⟩ := State.oorMarked_spec x s
    rw [← h] at hflag haddr hregs
    exact ⟨hflag, haddr, hregs, by rw [h]; rfl⟩
  refine ⟨fun h => hmarked (State.recordOor_of_clear x h), fun h => ⟨State.recordOor_of_earlier_bundle x h, fun k y hby =>
    ⟨fun hk => ?_, fun hk => ?_⟩⟩⟩
  · exact hmarked ((State.recordOor_of_same_bundle x h hby).trans (if_pos hk))
  · exact (State.recordOor_of_same_bundle x h hby).trans (if_neg (Nat.not_lt.2 hk))

/-- Registers that trap entry leaves. -/
theorem trapsAt_regs {cause slot : Nat} {info : Word} {s t : State} (h : TrapsAt cause slot info s t) :
    (∀ n, t.tile.thr.regs.getS n = s.tile.thr.regs.getS n) ∧ (∀ n, t.tile.thr.regs.getF n = s.tile.thr.regs.getF n) ∧
    (∀ n, t.tile.thr.regs.getP n = s.tile.thr.regs.getP n) ∧ (∀ n, t.tile.thr.regs.getB n = s.tile.thr.regs.getB n) ∧
    ∀ n, t.tile.thr.regs.getH n = s.tile.thr.regs.getH n := by
  obtain ⟨-, -, -, -, -, -, -, -, hs, hf, -, -, hp, -, -, hb, -, hh, -⟩ := h
  exact ⟨fun n => hs n (by simp), fun n => hf n (by simp), fun n => hp n (by simp), fun n => hb n (by simp), fun n => hh n (by simp)⟩

/-- LDD under ENOOR (R344). -/
theorem ldd_range_trap {s : State} (hu : Unpoisoned s) (hr : TrapReady s 3) (hbusy : s.storeBusy = false) (d : BitVec 5) {a : BitVec 5}
    {o : BitVec 13} {x : Nat} (ha : (s.opS 0 a).ok = true) (hoor : s.tile.oor ((s.opS 0 a).val + o.signExtend 64) 8 = some x)
    (hen : (s.cr 0x023).getLsbD 63 = true) :
    Gives (.ldd d a o) s fun t => t.hm = true ∧ (t.cr 0x020).toNat % 256 = 0x0A ∧ t.cr 0x028 = BitVec.ofNat 64 x ∧ (t.cr 0x022).toNat = 8 ∧
      t.tile.thr.pc = (s.cr 0x023).toNat % 2 ^ 18 ∧ t.cr 0x024 = (s.opS 0 a).val ∧ (∀ n, t.tile.thr.regs.getS n = s.tile.thr.regs.getS n) ∧
      ∀ b, byteAt t b = byteAt s b := by
  obtain ⟨-, hvec, hregs, hmem⟩ := State.recordOor_keeps x hr
  refine gives_of_trap (gives_of_exec (exec_ldd_oor hu hr hbusy d ha hoor hen) rfl) fun t ⟨ht, htop⟩ => ?_
  have hget := (trapsAt_regs ht).1
  obtain ⟨hhm, hcause, -, hinfo, hmask, hpc, -, hbytes, -⟩ := ht
  exact ⟨hhm, hcause, hinfo, hmask, hvec ▸ hpc, htop, fun n => (hget n).trans (hregs n),
    fun b => (hbytes b).trans (congrArg (Sparse.get 0 · b) hmem)⟩

/-- LDD with a wrong residue (R194). -/
theorem ldd_residue_trap {s : State} (hu : Unpoisoned s) (hr : TrapReady s 3) (hbusy : s.storeBusy = false) (d : BitVec 5) {a : BitVec 5}
    (o : BitVec 13) (ha : (s.opS 0 a).ok = false) :
    Gives (.ldd d a o) s fun t => t.hm = true ∧ (t.cr 0x020).toNat % 256 = 0x03 ∧
      (t.cr 0x028).toNat = a.toNat + (s.opS 0 a).res.toNat * 2 ^ 15 + (s.opS 0 a).val.toNat % 15 * 2 ^ 19 ∧
      (t.cr 0x022).toNat = 8 ∧ (∀ n, t.tile.thr.regs.getS n = s.tile.thr.regs.getS n) ∧ ∀ b, byteAt t b = byteAt s b := by
  refine gives_of_trap (gives_of_exec (exec_ldd_residue hu hr hbusy d o ha) rfl) fun t ht => ?_
  have hget := (trapsAt_regs ht).1
  obtain ⟨hhm, hcause, -, hinfo, hmask, -, -, hbytes, -⟩ := ht
  exact ⟨hhm, hcause, hinfo ▸ residueInfo_toNat a _, hmask, hget, hbytes⟩

/-- Wrong residues are carried on (R343). -/
theorem residues_carried {s : State} (hu : Unpoisoned s) {d : BitVec 5} (hc : s.clash (.s d.toNat) = false) (hd : d ≠ 0) {a b : BitVec 5}
    (i : BitVec 16) (ha : (s.opS 0 a).res.toNat < 15) (hb : (s.opS 1 b).res.toNat < 15) :
    (∀ e ∈ ([.add d a b, .sub d a b] : List Instr), (s.opS 0 a).ok ≠ (s.opS 1 b).ok →
      Gives e s fun t => (t.tile.thr.regs.getS d.toNat).ok = false) ∧
    ((s.opS 0 a).ok = false → Gives (.addi d a i) s fun t => (t.tile.thr.regs.getS d.toNat).ok = false) := by
  simp only [List.forall_mem_cons]
  refine ⟨⟨fun h => ?_, fun h => ?_, by simp⟩, fun h => ?_⟩
  · exact gives_of_trap (gives_of_exec (State.alu_result hu hc hd a b 1 SVal.add) rfl) fun t ht => ht ▸ SVal.add_not_ok ha hb h
  · exact gives_of_trap (gives_of_exec (State.alu_result hu hc hd a b 1 SVal.sub) rfl) fun t ht => ht ▸ SVal.sub_not_ok ha hb h
  · refine gives_of_trap (gives_of_exec (State.alu1_result hu hc hd a fun x => x.add (SVal.of (i.signExtend 64))) rfl) fun t ht => ?_
    have hi : (SVal.of (i.signExtend 64)).res.toNat < 15 := by
      rw [(SVal.ok_iff _).1 (SVal.ok_of _)]
      omega
    exact ht ▸ SVal.add_not_ok ha hi (by rw [h, SVal.ok_of]; decide)

/-- The trap of a belief operation, in slot 7 (R288). -/
def BeliefTrapped (s : State) (cause : Nat) (t : State) : Prop :=
  t.hm = true ∧ (t.cr 0x020).toNat % 256 = cause ∧ (t.cr 0x022).toNat = 0x80 ∧ (t.cr 0x020).getLsbD 12 = false ∧
  t.tile.thr.pc = (s.cr 0x023).toNat % 2 ^ 18 ∧ (∀ n, t.tile.thr.regs.getB n = s.tile.thr.regs.getB n) ∧
  (∀ n, t.tile.thr.regs.getF n = s.tile.thr.regs.getF n) ∧ ∀ p, byteAt t p = byteAt s p

theorem beliefTrapped_of_trapsAt {cause : Nat} {info : Word} {s t : State} (h : TrapsAt cause 7 info s t) :
    BeliefTrapped s cause t ∧ t.cr 0x028 = info := by
  obtain ⟨-, hf, -, hb, -⟩ := trapsAt_regs h
  obtain ⟨hhm, hcause, hlate, hinfo, hmask, hpc, -, hbytes, -⟩ := h
  exact ⟨⟨hhm, hcause, hmask, hlate, hpc, hb, hf, hbytes⟩, hinfo⟩

/-- What the belief operations trap on (R283, R285, R287, R288). -/
theorem belief_traps {s : State} (hu : Unpoisoned s) (hr : TrapReady s 7) (d a f : BitVec 4) (k : BitVec 8) :
    ((s.rdB a).inv = true ∨ (s.rdB a).nf = true → ∀ i ∈ ([.bmarg d a k, .bmean d a] : List Instr), Gives i s fun t =>
      BeliefTrapped s 0x05 t ∧ (t.cr 0x028).toNat = 8) ∧
    ((s.rdB a).inv = false → (s.rdB a).nf = false → 0 < (s.rdB a).dim →
      fpCmp 2 (BitVec.ofNat 32 (s.rdC 0x071).toNat) ((s.rdB a).lamAt 0 0) = false → (f32 ((s.rdB a).lamAt 0 0)).isNan = false →
      Gives (.bmean d a) s fun t => BeliefTrapped s 0x05 t ∧ (t.cr 0x028).toNat = 0) ∧
    (betaOk (s.opF 0 f) = false → Gives (.bdamp d a f) s (BeliefTrapped s 0x04)) ∧
    ((s.opF 0 f).toNat / 2 ^ 23 % 256 = 255 → Gives (.breg d a f) s (BeliefTrapped s 0x04)) := by
  have hsingular {info : Word} (t : State) (h : TrapsAt 0x05 7 info s t) : BeliefTrapped s 0x05 t ∧ (t.cr 0x028).toNat = info.toNat := by
    obtain ⟨htrap, hinfo⟩ := beliefTrapped_of_trapsAt h
    exact ⟨htrap, congrArg BitVec.toNat hinfo⟩
  refine ⟨fun hbad => ?_, fun hinv hnf hdim hcmp hnan => ?_, fun hbeta => ?_, fun hfin => ?_⟩
  · simp only [List.forall_mem_cons]
    exact ⟨gives_of_trap (gives_of_exec (exec_bmarg_bad hu hr d k hbad) rfl) (hsingular (info := 8)),
      gives_of_trap (gives_of_exec (exec_bmean_bad hu hr d hbad) rfl) (hsingular (info := 8)), by simp⟩
  · exact gives_of_trap (gives_of_exec (exec_bmean_pivot hu hr d hinv hnf hdim hcmp hnan) rfl) (hsingular (info := 0))
  · exact gives_of_trap (gives_of_exec (exec_bdamp_traps hu hr d a hbeta) rfl) fun t ht => (beliefTrapped_of_trapsAt ht).1
  · exact gives_of_trap (gives_of_exec (exec_breg_traps hu hr d a (decide_eq_true hfin)) rfl) fun t ht => (beliefTrapped_of_trapsAt ht).1

/-- A free handle (R263). -/
theorem handle_traps {s : State} (hr : TrapReady s 6) {k : BitVec 4} (hk : s.rdH k = none) (j : BitVec 3) (d : BitVec 5) (w : BitVec 2) :
    ∀ i ∈ ([.waitm k j, .testm k j, .mrec d k w, .cancel k, .unpub k, .freeh k] : List Instr), Gives i s fun t =>
      t.hm = true ∧ (t.cr 0x020).toNat % 256 = 0x0F ∧ (t.cr 0x020).getLsbD 12 = false ∧ (t.cr 0x028).toNat = k.toNat ∧
      (t.cr 0x022).toNat = 0x40 ∧ t.tile.thr.pc = (s.cr 0x023).toNat % 2 ^ 18 ∧ t.tile.ni.ents = s.tile.ni.ents ∧
      (∀ n, t.tile.thr.regs.getS n = s.tile.thr.regs.getS n) ∧ (∀ n, t.tile.thr.regs.getP n = s.tile.thr.regs.getP n) ∧
      (∀ n, t.tile.thr.regs.getH n = s.tile.thr.regs.getH n) ∧ ∀ x, byteAt t x = byteAt s x := by
  intro i hi
  refine ⟨_, exec_free_handle hr.1 hk j d w i hi, ?_⟩
  obtain ⟨ht, -, hents⟩ := State.slotTrap_traps hr (by decide) (show tcHANDLE < 256 by decide) (k.zeroExtend 64) [] [] none
  obtain ⟨hs, -, hp, -, hh⟩ := trapsAt_regs ht
  obtain ⟨hhm, hcause, hlate, hinfo, hmask, hpc, -, hbytes, -⟩ := ht
  have hklt := k.isLt
  exact ⟨hhm, hcause, hlate, by rw [hinfo, BitVec.toNat_setWidth, Nat.mod_eq_of_lt (by omega)], hmask, hpc, hents, hs, hp, hh, hbytes⟩

/-! ### Anvil addresses and generations (R157, R225, R251, R366) -/

theorem anvReg_eq (y : Word) : anvReg y = y.toNat / 2 ^ 32 % 8 := toNat_field y 32 3

theorem anvOff_eq (y : Word) : anvOff y = y.toNat % 2 ^ 22 := by
  rw [anvOff, toNat_field, Nat.pow_zero, Nat.div_one]

theorem anvLen_eq (y : Word) : anvLen y = y.toNat / 2 ^ 35 := by
  have := y.isLt
  rw [anvLen, toNat_field]
  omega

theorem anvBad_eq (y : Word) : anvBad y = decide (y.toNat / 2 ^ 22 % 2 ^ 10 ≠ 0) := by
  rw [anvBad, decide_eq_decide, ne_eq, ← BitVec.toNat_inj, toNat_field]
  rfl

theorem anvilOperand_eq (x : Word) :
    anvilOperand x = ⟨x.toNat / 2 ^ 32 % 8, x.toNat % 2 ^ 22, decide ((x &&& 0xFFFFFFF8FFC00000) ≠ 0)⟩ := by
  rw [anvilOperand, ← anvReg_eq, ← anvOff_eq]
  rfl

/-- The trap of an anvil address: its region, the reason and the offset (R336). -/
def AnvilRange (slot : Nat) (z : Word) (reason : Nat) (s : State) : State → Prop :=
  TrapsAt 0x06 slot (BitVec.ofNat 64 (z.toNat / 2 ^ 32 % 8 + reason * 8 + z.toNat % 2 ^ 22 * 2 ^ 32)) s

theorem anvilInfo_address (z : Word) (reason : Nat) : anvilInfo (z.toNat / 2 ^ 32 % 8) reason (z.toNat % 2 ^ 22) =
    BitVec.ofNat 64 (z.toNat / 2 ^ 32 % 8 + reason * 8 + z.toNat % 2 ^ 22 * 2 ^ 32) :=
  anvilInfo_eq (Nat.mod_lt _ (by decide)) (Nat.mod_lt _ (by decide)) reason

/-- ANVW and ANVR. -/
theorem anvil_move_traps {s : State} (hr : TrapReady s 3) (hbusy : s.storeBusy = false) (hm : s.marks = []) {a b : BitVec 5}
    (ha : (s.opS 0 a).ok = true) (hb : (s.opS 1 b).ok = true) {y : Word} (hy : (s.opS 1 b).val = y)
    (hret : s.tile.retained (y.toNat / 2 ^ 32 % 8) = none) : ∀ i ∈ ([.anvw a b, .anvr a b] : List Instr),
      (y.toNat / 2 ^ 22 % 2 ^ 10 ≠ 0 → Gives i s (AnvilRange 3 y 3 s)) ∧
      (y.toNat / 2 ^ 22 % 2 ^ 10 = 0 → ¬s.ownsRegion (y.toNat / 2 ^ 32 % 8) → Gives i s (AnvilRange 3 y 1 s)) ∧
      (y.toNat / 2 ^ 22 % 2 ^ 10 = 0 → s.ownsRegion (y.toNat / 2 ^ 32 % 8) →
        s.leavesRegion (y.toNat / 2 ^ 32 % 8) (y.toNat % 2 ^ 22) (y.toNat / 2 ^ 35) → Gives i s (AnvilRange 3 y 0 s)) := by
  have hmove {reason : Nat} (h : s.anvilCheck (y.toNat / 2 ^ 32 % 8) (y.toNat % 2 ^ 22) (y.toNat / 2 ^ 35)
      (decide (y.toNat / 2 ^ 22 % 2 ^ 10 ≠ 0)) false = some (tcANVIL, anvilInfo (y.toNat / 2 ^ 32 % 8) reason (y.toNat % 2 ^ 22))) :
      ∀ i ∈ ([.anvw a b, .anvr a b] : List Instr), Gives i s (AnvilRange 3 y reason s) := by
    rw [anvilInfo_address] at h
    exact exec_anvil_move hr hbusy hm ha hb (by rw [hy, anvReg_eq]; exact hret) (by rw [hy, anvReg_eq, anvOff_eq, anvLen_eq, anvBad_eq]; exact h)
  refine fun i hi => ⟨fun hbad => hmove ?_ i hi, fun hgood hmine => hmove ?_ i hi, fun hgood hmine hout => hmove ?_ i hi⟩
  · rw [decide_eq_true hbad]
    exact State.anvilCheck_bad
  · rw [decide_eq_false (not_not.2 hgood)]
    exact State.anvilCheck_owner hmine
  · rw [decide_eq_false (not_not.2 hgood)]
    exact State.anvilCheck_leaves hmine hout

/-- MLDB and MLDBG. -/
theorem block_traps {s : State} (hr : TrapReady s 5) (htwin : s.tile.twin = none) (hbusy : s.matrixBusy = false) (hm : s.marks = [])
    {a : BitVec 5} (b : BitVec 5) {f : BitVec 3} {x : Word} (hx : (s.opS 0 a).val = x) (hret : s.tile.retained (x.toNat / 2 ^ 32 % 8) = none) :
    let zeros := x &&& 0xFFFFFFF8FFC00000 = 0
    let j := x.toNat / 2 ^ 32 % 8
    let off := x.toNat % 2 ^ 22
    (¬zeros → Gives (.mldb a f) s (AnvilRange 5 x 3 s)) ∧
    (zeros → ¬s.ownsRegion j → Gives (.mldb a f) s (AnvilRange 5 x 1 s)) ∧
    (zeros → s.ownsRegion j → off % 256 ≠ 0 → Gives (.mldb a f) s (AnvilRange 5 x 2 s)) ∧
    (zeros → s.ownsRegion j → off % 256 = 0 → s.leavesRegion j off (blockBytes f.toNat) → Gives (.mldb a f) s (AnvilRange 5 x 0 s)) ∧
    (zeros → s.ownsRegion j → off % 256 = 0 → ¬s.leavesRegion j off (blockBytes f.toNat) →
      (0 < (s.cr (0x0D0 + j) - (s.opS 1 b).val).toInt → Gives (.mldbg a b f) s (TrapsAt 0x07 5 (s.cr (0x0D0 + j)) s)) ∧
      ∀ w, s.tile.poison = [.anvil w] → (s.cr (0x0D8 + j)).toNat % 128 * 65536 + off < 8 * w + 8 →
        8 * w < (s.cr (0x0D8 + j)).toNat % 128 * 65536 + off + blockBytes f.toNat →
        Gives (.mldb a f) s fun t => ∃ l, t.tile.latch = some l ∧ l.poison = some w) := by
  intro zeros j off
  have hop : anvilOperand (s.opS 0 a).val = ⟨j, off, decide ((x &&& 0xFFFFFFF8FFC00000) ≠ 0)⟩ := by rw [hx, anvilOperand_eq]
  have hregion : (anvilOperand (s.opS 0 a).val).region = j := by rw [hop]
  have hcheck (bad : Bool) (hb : decide ((x &&& 0xFFFFFFF8FFC00000) ≠ 0) = bad) : s.blockCheck (anvilOperand (s.opS 0 a).val) f.toNat =
      s.anvilCheck j off (blockBytes f.toNat) bad (decide (off % 256 ≠ 0)) := by rw [hop, State.blockCheck, hb]
  have htrap {reason : Nat} (h : s.blockCheck (anvilOperand (s.opS 0 a).val) f.toNat = some (tcANVIL, anvilInfo j reason off)) :
      Gives (.mldb a f) s (AnvilRange 5 x reason s) := by
    rw [anvilInfo_address] at h
    exact gives_of_exec (exec_mldb_traps hr hbusy hm f (by rw [hregion]; exact hret) h) rfl
  refine ⟨fun hbad => htrap ?_, fun hz hmine => htrap ?_, fun hz hmine hoff => htrap ?_, fun hz hmine hoff hout => htrap ?_,
    fun hz hmine hoff hin => ⟨fun hgen => ?_, fun w hp h1 h2 => ?_⟩⟩
  · rw [hcheck true (decide_eq_true hbad)]
    exact State.anvilCheck_bad
  · rw [hcheck false (decide_eq_false (not_not.2 hz))]
    exact State.anvilCheck_owner hmine
  · rw [hcheck false (decide_eq_false (not_not.2 hz)), decide_eq_true hoff]
    exact State.anvilCheck_misaligned hmine
  · rw [hcheck false (decide_eq_false (not_not.2 hz)), decide_eq_false (not_not.2 hoff)]
    exact State.anvilCheck_leaves hmine hout
  all_goals
    have hok : s.blockCheck (anvilOperand (s.opS 0 a).val) f.toNat = none := by
      rw [hcheck false (decide_eq_false (not_not.2 hz)), decide_eq_false (not_not.2 hoff)]
      exact State.anvilCheck_ok hmine hin
  · rw [← hregion] at hgen ⊢
    exact gives_of_exec (exec_mldbg_traps hr hbusy hm htwin b f hok hgen) rfl
  · have haddr : s.tile.anvilAddr (anvilOperand (s.opS 0 a).val).region (anvilOperand (s.opS 0 a).val).off =
        (s.cr (0x0D8 + j)).toNat % 128 * 65536 + off := by
      rw [hop, Tile.anvilAddr, abBase, toNat_field, Nat.pow_zero, Nat.div_one]
      rfl
    exact gives_of_exec (exec_mldb_poison hr.1 hbusy hm f (by rw [hregion]; exact hret) hok hp (by rw [haddr]; exact h1)
      (by rw [haddr]; exact h2)) rfl

theorem blockBytes_eq {f : BitVec 3} (h : f.toNat ≤ 4) : [8448, 8448, 4352, 4352, 6144].getD f.toNat 0 = blockBytes f.toNat := by
  obtain ⟨n, hn⟩ : ∃ n, n = f.toNat := ⟨_, rfl⟩
  rw [← hn] at h ⊢
  match n, h with
  | 0, _ | 1, _ | 2, _ | 3, _ | 4, _ => rfl

/-! ### Scales (R240, R241, R253) -/

/-- The trap of a bad scale: its index, its source and its bits (R336). -/
def ScaleTrap (slot index source : Nat) (z : W32) (s : State) : State → Prop :=
  TrapsAt 0x04 slot (BitVec.ofNat 64 (index + source * 2 ^ 8 + z.toNat * 2 ^ 32)) s

/-- VPACK4 and VUNPK4. -/
theorem pack_traps {s : State} (hu : Unpoisoned s) (hr : TrapReady s 4) (d a b : BitVec 5) :
    let side (j : Nat) : Word := (s.rdV b).bits.extractLsb' (64 * j) 64
    ∀ e ∈ ([.vpack4 d a b, .vunpk4 d a b] : List Instr),
      (sidecarOk (side 0) = false → Gives e s (ScaleTrap 4 0 3 ((side 0).extractLsb' 0 32) s)) ∧
      (sidecarOk (side 0) = true → sidecarOk (side 1) = false → Gives e s (ScaleTrap 4 (1 * 2 ^ 6) 3 ((side 1).extractLsb' 0 32) s)) := by
  intro side e he
  refine ⟨fun h => ?_, fun h0 h => ?_⟩
  · have hcheck := sidecarCheck_first (v := (s.rdV b).bits) h
    rw [scaleInfo_eq (by decide) (by decide), Nat.zero_mul, Nat.add_zero] at hcheck
    exact exec_pack_traps hu hr d a hcheck e he
  · have hcheck := sidecarCheck_second (v := (s.rdV b).bits) h0 h
    rw [scaleInfo_eq (by decide) (by decide), Nat.zero_add] at hcheck
    exact exec_pack_traps hu hr d a hcheck e he

/-- The multiplies. -/
theorem multiply_traps {s : State} (hu : Unpoisoned s) (hbusy : s.matrixBusy = false) (hr : TrapReady s 5) (k : BitVec 2) (a b c : BitVec 5)
    {l : Latch} (hl : s.tile.latch = some l) {i : Nat} (hi : i < 64) {e : Instr × Nat × Nat}
    (he : e ∈ ([(.mmaBb k a b c, 0, 128), (.mmaHh k a b c, 1, 128), (.mmaEe k a b c, 2, 64), (.mmaEf k a b c, 3, 64), (.mmaFe k a b c, 2, 64),
      (.mmaFf k a b c, 3, 64), (.mmaEq k a b c, 4, 128), (.mmaBq k a b c, 4, 256)] : List (Instr × Nat × Nat))) (hfmt : l.fmt = e.2.1) :
    let rows := (s.rdV c).bits
    (∀ w, l.poison = some w → w < 0x200000 → Gives e.1 s (TrapsAt 0x0B 5 (BitVec.ofNat 64 (1 + 256 * (8 * w))) s)) ∧
    (l.poison = none → (s.opS 0 a).ok = true → (s.opS 1 b).ok = true →
      (∀ j < 64, s.tile.oor (rowAddr (s.opS 0 a).val (s.opS 1 b).val j) e.2.2 = none) →
      (scaleOk (lane rows i) = false → (∀ j < i, scaleOk (lane rows j) = true) → Gives e.1 s (ScaleTrap 5 i 0 (lane rows i) s)) ∧
      (e.2.1 < 4 → (∀ j < 64, scaleOk (lane rows j) = true) → scaleOk (l.colScale i) = false → (∀ j < i, scaleOk (l.colScale j) = true) →
        Gives e.1 s (ScaleTrap 5 i 1 (l.colScale i) s)) ∧
      (e.2.1 = 4 → (∀ j < 64, scaleOk (lane rows j) = true) → ∀ q < 4, sidecarOk (l.colSidecar i q) = false →
        (∀ j < 64, ∀ p < 4, 4 * j + p < 4 * i + q → sidecarOk (l.colSidecar j p) = true) →
        Gives e.1 s (ScaleTrap 5 (i + q * 2 ^ 6) 2 ((l.colSidecar i q).extractLsb' 0 32) s))) := by
  intro rows
  obtain ⟨form, hexec, hb, hrow⟩ := exec_mma_forms k a b c s e he
  have hform : l.fmt = form.b := hfmt.trans hb.symm
  refine ⟨fun w hp _ => gives_of_exec (State.mmaOp_poison_traps hu hr hbusy hl hform k c a b hp) hexec, fun hp ha hb' hoor => ?_⟩
  rw [← hrow] at hoor
  have htrap {info : Word} (h : scaleFault rows l = some (tcSCALE, info)) : Gives e.1 s (TrapsAt 0x04 5 info s) :=
    gives_of_exec (State.mmaOp_scale_traps hu hr hbusy hl hform k c hp ha hb' hoor h) hexec
  refine ⟨fun h hbefore => ?_, fun hlt hrows h hbefore => ?_, fun heq hrows q hq h hbefore => ?_⟩
  · have hfault := scaleFault_row (l := l) hi h hbefore
    rw [scaleInfo_eq hi (by decide), Nat.zero_mul, Nat.add_zero] at hfault
    exact htrap hfault
  · have hfault := scaleFault_column (l := l) hi hrows (hfmt ▸ hlt) h hbefore
    rw [scaleInfo_eq hi (by decide), Nat.zero_mul, Nat.add_zero] at hfault
    exact htrap hfault
  · have hfault := scaleFault_block (l := l) hi hrows (by omega) hq h hbefore
    rw [scaleInfo_eq hi hq] at hfault
    exact htrap hfault

/-- Settles O18: each check that fails first is trapped on (`State.checked_first_traps`, `State.checked_later_traps`), and the entry writes what
`State.slotTrap_traps` says. -/
theorem operandChecksTrap : Obligations.OperandChecksTrap := by
  unfold Obligations.OperandChecksTrap
  refine ⟨fun d a o x s => ⟨rfl, recordOor_rules x s, ?_⟩, ?_, ?_, ?_, ?_, ?_, ?_, ?_, ?_⟩
  · intro hu hspec hm hvec hbusy ha hoor hen hsrc hothers hslot hloops
    exact ldd_range_trap hu (trapReady_of_unpoisoned hu hspec hm hvec hsrc hothers hslot hloops) hbusy d ha hoor hen
  · intro d a o s hu hspec hm hvec hbusy ha hsrc hothers hslot hloops
    exact ldd_residue_trap hu (trapReady_of_unpoisoned hu hspec hm hvec hsrc hothers hslot hloops) hbusy d o ha
  · exact fun d a b i s hu hc hd ha hb => residues_carried hu hc hd i ha hb
  · intro d a f k s hu hspec hm hvec hsrc hslot hothers hloops
    exact belief_traps hu (trapReady_of_unpoisoned hu hspec hm hvec hsrc hothers hslot hloops) d a f k
  · intro k j d w s hconf hk hm hp hvec hsrc hslot hothers hloops
    exact handle_traps ⟨hconf.1, hm, hvec, hsrc, hothers, hslot, hloops, hp⟩ hk j d w
  · intro d a b i o w s at_
    refine ⟨fun hr h => gives_of_exec (exec_addi_poison hr d i h) rfl,
      fun hr hbusy hm hp _ h1 h2 => gives_of_exec (exec_ldd_poison hr hbusy hm hp d a o h1 h2) rfl,
      fun _ _ hd hm => gives_of_exec (exec_addi_cleans hm hd a i) rfl,
      fun hs hbusy _ _ hm hd ha hw hoor => gives_of_exec (exec_std_cleans hs hbusy hm hd ha hw hoor) rfl,
      fun hs hbusy hmma hmsto hm hd ha hb hn hsrc hdst hw hr hp =>
        gives_of_exec (exec_copy_poison ⟨hs, hmma, hmsto⟩ hbusy hm hd ha hb hn hsrc hdst hw hr hp) rfl⟩
  · intro a b f s hm ha hb x y region off ab mine outside range zeros n
    refine ⟨fun hr hbusy hret => anvil_move_traps hr hbusy hm ha hb rfl hret, fun hr htwin hbusy hf hret => ?_⟩
    have hn : n = blockBytes f.toNat := blockBytes_eq hf
    rw [hn]
    exact block_traps hr htwin hbusy hm b rfl hret
  · intro k d a b c l i s hu hbusy rows side at_ scale rowsOk
    exact ⟨fun hr => pack_traps hu hr d a b, fun hr hl hi e he hfmt => multiply_traps hu hbusy hr k a b c hl hi he hfmt⟩
  · intro k a b c l i w s hm hspec hbusy hl hfmt hp hst ha hb hi at_ hok hw h1 h2
    exact gives_of_exec (exec_mma_poison hm hspec hbusy hl hfmt hp hst ha hb k hi hok hw h1 h2) rfl

end Sys2Proof.Machine
end

section
/-!
Named barriers (R112, R113, R121, R201): how bumps add up, the three barrier instructions, and the proof of O13.
-/
namespace Sys2Proof.Machine

open Sys2Proof.Safety

/-! ### The meanings of the three instructions -/

theorem exec_waitb (a : BitVec 5) (k : BitVec 6) (s : State) : exec (.waitb a k) s = execWaitb a k s := rfl
theorem exec_arrb (k : BitVec 6) (s : State) : exec (.arrb k) s = execArrb k s := rfl
theorem exec_setb (a : BitVec 5) (k : BitVec 6) (s : State) : exec (.setb a k) s = execSetb a k s := rfl

/-! ### Fields of a barrier (R112) -/

/-- PHASE, TARGET and COUNT of a barrier. -/
def nbPhase (v : Word) : Nat := v.toNat / 2 ^ 56
def nbTarget (v : Word) : Nat := v.toNat / 2 ^ 32 % 2 ^ 24
def nbCount (v : Word) : Nat := v.toNat % 2 ^ 24

theorem nbSettle_eq (v : Word) : nbSettle v =
    if nbTarget v = 0 then v
    else BitVec.ofNat 64 ((nbPhase v + nbCount v / nbTarget v) % 256 * 2 ^ 56 + nbTarget v * 2 ^ 32 + nbCount v % nbTarget v) := by
  have hphase : (v.extractLsb' 56 8).toNat = nbPhase v := by
    have := v.isLt
    rw [nbPhase, BitVec.extractLsb'_toNat, Nat.shiftRight_eq_div_pow]
    omega
  have htarget : (v.extractLsb' 32 24).toNat = nbTarget v := by
    rw [nbTarget, BitVec.extractLsb'_toNat, Nat.shiftRight_eq_div_pow]
  have hcount : (v.extractLsb' 0 24).toNat = nbCount v := by
    rw [nbCount, BitVec.extractLsb'_toNat, Nat.shiftRight_zero]
  simp only [nbSettle, hphase, htarget, hcount]

/-- The fields of a barrier made from fields. -/
theorem nb_fields {phase target count : Nat} (hp : phase < 256) (ht : target < 2 ^ 24) (hc : count < 2 ^ 24) {v : Word}
    (hv : v = BitVec.ofNat 64 (phase * 2 ^ 56 + target * 2 ^ 32 + count)) : nbPhase v = phase ∧ nbTarget v = target ∧ nbCount v = count := by
  subst hv
  simp only [nbPhase, nbTarget, nbCount, BitVec.toNat_ofNat]
  omega

/-- COUNT of a barrier replaced. -/
theorem toNat_withCount (v : Word) {c : Nat} (hc : c < 2 ^ 24) :
    (v &&& 0xFFFFFFFF00000000 ||| BitVec.ofNat 64 c).toNat = nbPhase v * 2 ^ 56 + nbTarget v * 2 ^ 32 + c := by
  have hmask : v &&& 0xFFFFFFFF00000000 = v.extractLsb' 32 32 ++ 0#32 := by
    have hbit : ∀ i < 64, (0xFFFFFFFF00000000 : Word).getLsbD i = decide (32 ≤ i) := by decide
    apply BitVec.eq_of_getLsbD_eq
    intro i hi
    rw [BitVec.getLsbD_and, hbit i hi]
    simp only [BitVec.getLsbD_append, BitVec.getLsbD_extractLsb']
    by_cases h : i < 32
    · simp [h]
    · simp [h, Nat.not_lt.1 h, show i - 32 < 32 by omega, show 32 + (i - 32) = i by omega]
  have hhigh : (v &&& 0xFFFFFFFF00000000).toNat = (v.toNat / 2 ^ 32) <<< 32 := by
    have := v.isLt
    rw [hmask, BitVec.toNat_append, BitVec.extractLsb'_toNat, Nat.shiftRight_eq_div_pow, BitVec.toNat_ofNat, Nat.zero_mod, Nat.or_zero,
      Nat.mod_eq_of_lt (by omega)]
  have hlow : (BitVec.ofNat 64 c).toNat = c := by rw [BitVec.toNat_ofNat, Nat.mod_eq_of_lt (by omega)]
  have := v.isLt
  rw [BitVec.toNat_or, hhigh, hlow, ← Nat.shiftLeft_add_eq_or_of_lt (by omega), Nat.shiftLeft_eq, nbPhase, nbTarget]
  omega

/-- Bumps raise COUNT up to 0xFF_FFFF; a barrier with a TARGET completes one phase for every TARGET bumps (R112, R113). -/
theorem nbBump_rules (v : Word) (n : Nat) : let c := min (nbCount v + n) 0xFFFFFF
    let w := nbBump v n
    nbTarget w = nbTarget v ∧ (nbTarget v = 0 → nbCount w = c ∧ nbPhase w = nbPhase v) ∧
      (nbTarget v ≠ 0 → nbCount w < nbTarget v ∧ ∃ k, c = nbCount w + k * nbTarget v ∧ nbPhase w = (nbPhase v + k) % 256) := by
  intro c w
  have hc : c < 2 ^ 24 := by omega
  have hp : nbPhase v < 256 := by have := v.isLt; unfold nbPhase; omega
  have ht : nbTarget v < 2 ^ 24 := Nat.mod_lt _ (by decide)
  obtain ⟨hp1, ht1, hc1⟩ := nb_fields hp ht hc (v := v &&& 0xFFFFFFFF00000000 ||| BitVec.ofNat 64 c)
    (BitVec.eq_of_toNat_eq (by rw [toNat_withCount v hc, BitVec.toNat_ofNat]; omega))
  have hw : w = nbSettle (v &&& 0xFFFFFFFF00000000 ||| BitVec.ofNat 64 c) := by
    show nbBump v n = _
    rw [nbBump, BitVec.extractLsb'_toNat, Nat.shiftRight_zero]
    rfl
  rw [nbSettle_eq, hp1, ht1, hc1] at hw
  by_cases h0 : nbTarget v = 0
  · rw [if_pos h0] at hw
    rw [hw, hp1, ht1, hc1]
    exact ⟨rfl, fun _ => ⟨rfl, rfl⟩, fun h => absurd h0 h⟩
  · rw [if_neg h0] at hw
    have hrest : c % nbTarget v < nbTarget v := Nat.mod_lt _ (Nat.pos_of_ne_zero h0)
    obtain ⟨hp2, ht2, hc2⟩ := nb_fields (Nat.mod_lt _ (by decide)) ht (hrest.trans ht) hw
    rw [hp2, ht2, hc2]
    exact ⟨rfl, fun h => absurd h h0, fun _ => ⟨hrest, c / nbTarget v, by rw [Nat.mul_comm]; exact (Nat.mod_add_div _ _).symm, rfl⟩⟩

/-! ### WAITB (R201) -/

/-- How far a barrier's PHASE is behind the low byte of an operand. -/
theorem nb_distance (x v : Word) : ((x.extractLsb' 0 8 - v.extractLsb' 56 8).toNat : Int) = ((x.toNat % 256 : Int) - v.toNat / 2 ^ 56) % 256 := by
  have := v.isLt
  have hphase : v.toNat / 2 ^ 56 % 2 ^ 8 = v.toNat / 2 ^ 56 := Nat.mod_eq_of_lt (by omega)
  rw [BitVec.toNat_sub, BitVec.extractLsb'_toNat, BitVec.extractLsb'_toNat, Nat.shiftRight_eq_div_pow, Nat.shiftRight_zero, hphase]
  push_cast
  omega

theorem foldl_acquire_ents (l : List Ent) (n : Ni) : (l.foldl (fun n e => n.acquire e) n).ents = n.ents := by
  induction l generalizing n with
  | nil => rfl
  | cons e l ih =>
    rw [List.foldl_cons, ih, Ni.acquire]
    cases e.buf <;> dsimp only <;> try split <;> rfl

/-- WAITB's acquisition observes every entry that a completed phase of the barrier has counted (R121). -/
theorem Tile.acquireNb_observed (t : Tile) (k : Nat) {e : Ent} (he : e ∈ (t.acquireNb k).ni.ents) (hnb : e.nb = some k) (hc : e.counted = true) :
    e.observed = true := by
  simp only [Tile.acquireNb, foldl_acquire_ents, List.mem_map] at he
  obtain ⟨x, -, rfl⟩ := he
  by_cases h : (x.nb == some k && x.counted) = true
  · rw [if_pos h]
  · rw [if_neg h] at hnb hc
    exact absurd (by simp [hnb, hc]) h

section
variable {s : State} (hconf : Confirmed s) (a : BitVec 5) (k : BitVec 6)
include hconf

theorem execWaitb_behind (h : 1 ≤ ((s.opS 0 a).val.extractLsb' 0 8 - (s.cr (crNB0 + k.toNat)).extractLsb' 56 8).toNat ∧
      ((s.opS 0 a).val.extractLsb' 0 8 - (s.cr (crNB0 + k.toNat)).extractLsb' 56 8).toNat ≤ 128) :
    execWaitb a k s = .next (s.stallOn (.waitb k.toNat)) := by
  simp only [execWaitb, State.confirmed_of_none hconf.1, State.asyncStep, State.asyncRead, State.pairOf_of_none hconf.2, h, decide_true,
    Bool.and_self, State.stallIf_true]

theorem execWaitb_reached (hu : Unpoisoned s) (h : ¬(1 ≤ ((s.opS 0 a).val.extractLsb' 0 8 - (s.cr (crNB0 + k.toNat)).extractLsb' 56 8).toNat ∧
      ((s.opS 0 a).val.extractLsb' 0 8 - (s.cr (crNB0 + k.toNat)).extractLsb' 56 8).toNat ≤ 128)) :
    execWaitb a k s = .next (s.onTile fun t => t.acquireNb k.toNat) := by
  have hb : (decide (1 ≤ ((s.opS 0 a).val.extractLsb' 0 8 - (s.cr (crNB0 + k.toNat)).extractLsb' 56 8).toNat) &&
      decide (((s.opS 0 a).val.extractLsb' 0 8 - (s.cr (crNB0 + k.toNat)).extractLsb' 56 8).toNat ≤ 128)) = false := by
    rw [← Bool.decide_and]; exact decide_eq_false h
  have hq : ((s.onTile fun t => t.acquireNb k.toNat).queueStep []) = s.onTile fun t => t.acquireNb k.toNat := by
    rw [State.queueStep, State.queueResult, State.queueEntry, State.pairOf_of_none]
    exact hconf.2
  simp only [execWaitb, State.confirmed_of_none hconf.1, State.asyncStep, State.asyncRead, State.pairOf_of_none hconf.2, hb, State.stallIf_false]
  rw [State.checked_plain hu _ rfl rfl rfl, hq]

theorem waitb_rules (hu : Unpoisoned s) : let behind := (((s.opS 0 a).val.toNat % 256 : Int) - (s.cr (0x080 + k.toNat)).toNat / 2 ^ 56) % 256
    (1 ≤ behind → behind ≤ 128 → exec (.waitb a k) s = .next (s.stallOn (.waitb k.toNat))) ∧
    (¬(1 ≤ behind ∧ behind ≤ 128) → Gives (.waitb a k) s fun t => t.cr (0x080 + k.toNat) = s.cr (0x080 + k.toNat) ∧
      (RegsExcept [.cr (0x080 + k.toNat)] s.tile.thr.regs t.tile.thr.regs ∧ ∀ x, byteAt t x = byteAt s x) ∧
      ∀ e ∈ t.tile.ni.ents, e.nb = some k.toNat → e.counted = true → e.observed = true) := by
  intro behind
  have hd : (((s.opS 0 a).val.extractLsb' 0 8 - (s.cr (crNB0 + k.toNat)).extractLsb' 56 8).toNat : Int) = behind := nb_distance _ _
  constructor
  · intro h1 h2
    exact execWaitb_behind hconf a k ⟨by omega, by omega⟩
  · intro h
    refine ⟨_, execWaitb_reached hconf a k hu (by omega), rfl, ⟨RegsExcept.refl _ _, fun _ => rfl⟩, ?_⟩
    exact fun e he hnb hc => s.tile.acquireNb_observed k.toNat he hnb hc

end

/-! ### ARRB and SETB (R201) -/

/-- What SETB writes: PHASE stays, TARGET comes from the operand, COUNT is 0. -/
def nbRetarget (v x : Word) : Word := (v &&& 0xFF00000000000000) ||| ((x.extractLsb' 0 24).zeroExtend 64 <<< 32)

theorem toNat_nbRetarget (v x : Word) : (nbRetarget v x).toNat =
    nbPhase v * 2 ^ 56 + x.toNat % 2 ^ 24 * 2 ^ 32 := by
  have hbit : ∀ i < 64, ((0xFF00000000000000 : Nat) : Word).getLsbD i = decide (56 ≤ i) := by decide
  have hparts : nbRetarget v x = v.extractLsb' 56 8 ++ x.extractLsb' 0 24 ++ 0#32 := by
    apply BitVec.eq_of_getLsbD_eq
    intro i hi
    rw [nbRetarget, BitVec.getLsbD_or, BitVec.getLsbD_and, hbit i (by omega), BitVec.getLsbD_shiftLeft, BitVec.zeroExtend, BitVec.getLsbD_setWidth]
    simp only [BitVec.getLsbD_append, BitVec.getLsbD_extractLsb']
    by_cases h1 : i < 32
    · simp [h1, show ¬56 ≤ i by omega]
    · by_cases h2 : i < 56
      · simp [h1, show i < 64 by omega, show ¬56 ≤ i by omega, show i - 32 < 64 by omega, show i - 32 < 24 by omega]
      · simp [h1, show i < 64 by omega, show 56 ≤ i by omega, show ¬i - 32 < 24 by omega, show i - 32 - 24 < 8 by omega,
          show 56 + (i - 32 - 24) = i by omega]
  have := v.isLt
  rw [hparts, BitVec.toNat_append, BitVec.toNat_append, ← Nat.shiftLeft_add_eq_or_of_lt (BitVec.isLt _),
    ← Nat.shiftLeft_add_eq_or_of_lt (BitVec.isLt _), nbPhase]
  simp only [BitVec.extractLsb'_toNat, Nat.shiftLeft_eq, Nat.shiftRight_eq_div_pow, BitVec.toNat_ofNat, Nat.pow_zero, Nat.div_one]
  omega

/-- A new TARGET with COUNT 0 completes no phase. -/
theorem nbSettle_nbRetarget (v x : Word) : (nbSettle (nbRetarget v x)).toNat =
    nbPhase v * 2 ^ 56 + x.toNat % 2 ^ 24 * 2 ^ 32 := by
  have hp : nbPhase v < 256 := by have := v.isLt; unfold nbPhase; omega
  have ht : x.toNat % 2 ^ 24 < 2 ^ 24 := Nat.mod_lt _ (by decide)
  have hv := toNat_nbRetarget v x
  obtain ⟨hp1, ht1, hc1⟩ := nb_fields hp ht (by decide : 0 < 2 ^ 24)
    (v := nbRetarget v x) (BitVec.eq_of_toNat_eq (by rw [hv, BitVec.toNat_ofNat]; omega))
  rw [nbSettle_eq, hp1, ht1, hc1, Nat.zero_div, Nat.zero_mod]
  clear hp1 ht1 hc1
  split
  · exact hv
  · rw [BitVec.toNat_ofNat]; omega

section
variable {s : State} (hconf : Confirmed s) (a : BitVec 5) (k : BitVec 6)
include hconf

/-- A bump is added to those of the same cycle, on what the barrier held before them (R113). -/
theorem arrb_gives : let mine := s.tile.ni.bumps.filter fun b => b.1 = k.toNat ∧ b.2.1 = s.cycle
    let set := s.tile.ni.nbSet.find? fun x => x.1 == k.toNat && x.2.1 == s.cycle
    let before := match mine with | [] => (match set with | some x => x.2.2 | none => s.cr (0x080 + k.toNat)) | b :: _ => b.2.2.1
    Gives (.arrb k) s fun t => t.cr (0x080 + k.toNat) = nbBump before (mine.length + 1) ∧
      RegsExcept [.cr (0x080 + k.toNat)] s.tile.thr.regs t.tile.thr.regs ∧ ∀ x, byteAt t x = byteAt s x := by
  intro mine set before
  refine ⟨_, (exec_arrb k s).trans (State.confirmed_of_none hconf.1 _), ?_, regsExcept_setC _ _ _, fun _ => rfl⟩
  have hmine : (s.tile.ni.bumps.filter fun b => b.1 == k.toNat && b.2.1 == s.cycle) = mine := by
    refine List.filter_congr fun b _ => ?_
    rw [Bool.decide_and, beq_eq_decide, beq_eq_decide]
  have hset : s.tile.unbumped s.cycle k.toNat = match set with | some x => x.2.2 | none => s.cr (0x080 + k.toNat) := by
    show ((set.map fun x => x.2.2).getD _) = _
    cases set <;> rfl
  refine (Regs.getC_setC _ _ _).trans ?_
  rw [hmine, hset] <;> rfl

theorem execSetb_confirmed (hu : Unpoisoned s) :
    execSetb a k s = .next (s.onTile fun t => t.writeNb s.cycle k.toNat (nbRetarget · (s.opS 0 a).val)) :=
  (State.confirmed_of_none hconf.1 _).trans (State.checked_plain hu _ rfl rfl rfl)

theorem setb_gives (hu : Unpoisoned s) (hb : ∀ b ∈ s.tile.ni.bumps, b.1 ≠ k.toNat) (hset : ∀ x ∈ s.tile.ni.nbSet, x.1 ≠ k.toNat) :
    Gives (.setb a k) s fun t =>
      (t.cr (0x080 + k.toNat)).toNat = (s.cr (0x080 + k.toNat)).toNat / 2 ^ 56 * 2 ^ 56 + (s.opS 0 a).val.toNat % 2 ^ 24 * 2 ^ 32 ∧
      RegsExcept [.cr (0x080 + k.toNat)] s.tile.thr.regs t.tile.thr.regs ∧ ∀ x, byteAt t x = byteAt s x := by
  have hold : s.tile.unbumped s.cycle k.toNat = s.cr (0x080 + k.toNat) := by
    rw [Tile.unbumped, List.find?_eq_none.2 fun x hx => by simp [hset x hx]]
    rfl
  obtain ⟨n, hn⟩ := Tile.writeNb_unbumped (cycle := s.cycle) hb (nbRetarget · (s.opS 0 a).val)
  rw [hold] at hn
  refine ⟨_, (exec_setb a k s).trans (execSetb_confirmed hconf a k hu), ?_⟩
  rw [State.onTile, hn]
  exact ⟨(congrArg BitVec.toNat (Regs.getC_setC ..)).trans (nbSettle_nbRetarget _ _), regsExcept_setC _ _ _, fun _ => rfl⟩

end

/-! ### O13 -/

/-- Settles O13: bumps by the three fields of a barrier, and each instruction on a confirmed path by what it does to one control register. -/
theorem namedBarriers : Obligations.NamedBarriers := by
  unfold Obligations.NamedBarriers
  refine ⟨nbBump_rules, fun a k s hu hconf => ?_⟩
  obtain ⟨hbehind, hreached⟩ := waitb_rules hconf a k hu
  exact ⟨hbehind, hreached, arrb_gives hconf k, setb_gives hconf a k hu⟩

end Sys2Proof.Machine
end

section
/-!
The interface of a tile in focus that stands alone (R85, R91, R96, R119): what its operations leave unchanged, how an entry completes,
which entry is served, and how a first packet leaves.
-/
namespace Sys2Proof.Machine

open Sys2Proof.Safety

/-! ### Changes of the interface and of the torus -/

/-- The state with another interface of the tile in focus and other packets on the torus. -/
def State.net (s : State) (n : Ni) (l : List Transit) : State := { s with tile := { s.tile with ni := n }, torus := l }

section
variable (s : State) (n : Ni) (l : List Transit)

@[simp] theorem State.net_tile : (s.net n l).tile = { s.tile with ni := n } := rfl
@[simp] theorem State.net_torus : (s.net n l).torus = l := rfl
@[simp] theorem State.net_sched : (s.net n l).sched = s.sched := rfl
@[simp] theorem State.net_mgmt : (s.net n l).mgmt = s.mgmt := rfl
@[simp] theorem State.net_cycle : (s.net n l).cycle = s.cycle := rfl
@[simp] theorem State.net_time : (s.net n l).time = s.time := rfl
@[simp] theorem State.net_pkg : (s.net n l).pkg = s.pkg := rfl
@[simp] theorem State.net_fresh : (s.net n l).fresh = s.fresh := rfl
@[simp] theorem State.net_stamp : (s.net n l).stamp = s.stamp := rfl
@[simp] theorem State.net_rankOf (ep : Nat) : (s.net n l).rankOf ep = s.rankOf ep := rfl
@[simp] theorem State.net_ownPkg (r : Rank) : (s.net n l).ownPkg r = s.ownPkg r := rfl
@[simp] theorem State.net_partOf (ep : Nat) : (s.net n l).partOf ep = s.partOf ep := rfl
@[simp] theorem State.net_sendFate (r : Rank) : (s.net n l).sendFate r = s.sendFate r := rfl
@[simp] theorem State.net_net (m : Ni) (k : List Transit) : (s.net n l).net m k = s.net m k := rfl
@[simp] theorem State.net_self : s.net s.tile.ni s.torus = s := rfl

end

/-- The tile in focus is `key` and has no twin. -/
structure State.Alone (s : State) (key : Nat) : Prop where
  focus : s.tile.ep = key
  isTile : key < 0x400
  twin : s.tile.twin = none

/-- What an endpoint puts on the torus. -/
def State.parcel (s : State) (ev : Ev) (src dst : Nat) : Transit :=
  ⟨ev, if 0x2000 ≤ dst then (ev.packet?.map fun p => s.fabricOf p.hdr.dest).getD 0 else 0, src, dst, (pathEnds src dst).1, (pathEnds src dst).2,
    ev.flits, 0, s.cycle, []⟩

@[simp] theorem State.parcel_ev (s : State) (ev : Ev) (src dst : Nat) : (s.parcel ev src dst).ev = ev := rfl
@[simp] theorem State.parcel_src (s : State) (ev : Ev) (src dst : Nat) : (s.parcel ev src dst).src = src := rfl
@[simp] theorem State.parcel_dst (s : State) (ev : Ev) (src dst : Nat) : (s.parcel ev src dst).dst = dst := rfl

theorem State.inject_eq (s : State) (ev : Ev) (src dst : Nat) :
    s.inject ev src dst = s.net s.tile.ni (s.torus ++ [s.parcel ev src dst]) := rfl

@[simp] theorem State.alone_net {s : State} {key : Nat} (n : Ni) (l : List Transit) : (s.net n l).Alone key ↔ s.Alone key :=
  ⟨fun h => ⟨h.focus, h.isTile, h.twin⟩, fun h => ⟨h.focus, h.isTile, h.twin⟩⟩

namespace State.Alone

variable {s : State} {key : Nat} (h : s.Alone key)
include h

theorem key_eq : Machine.isTile key = true := decide_eq_true h.isTile
theorem not_host : isHost key = false := by have := h.isTile; simp [isHost]; omega
theorem getTile : s.getTile key = s.tile := by rw [← h.focus, State.getTile_focus]
theorem getNi : s.getNi key = s.tile.ni := by rw [← h.focus, State.getNi_focus (h.focus ▸ h.isTile)]
theorem ent (id : Nat) : s.ent key id = s.tile.ni.ent id := by rw [State.ent, h.getNi]

theorem modTile {f : Tile → Tile} (hf : (f s.tile).ep = s.tile.ep) : s.modTile key f = s.onTile f := by
  have := h.focus
  subst this
  exact State.modTile_focus s f hf

theorem modNi (f : Ni → Ni) : s.modNi key f = s.net (f s.tile.ni) s.torus := by
  rw [State.modNi, if_pos h.key_eq, h.modTile rfl]
  rfl

theorem modEnt (id : Nat) (f : Ent → Ent) : s.modEnt key id f = s.net (s.tile.ni.modEnt id f) s.torus := by rw [State.modEnt, h.modNi]

theorem trailing : s.trailing key = false := by simp [State.trailing, h.getTile, h.twin]
theorem niRank : s.niRank key = s.rankOf key := by
  have := h.isTile
  rw [State.niRank, if_neg (by omega)]
theorem rankEp_niRank : rankEp (s.niRank key) = key := by
  have := h.isTile
  rw [h.niRank, rankEp_rankOf s (by omega)]
theorem mateOf (e : Ent) : s.mateOf key e = none := by simp [State.mateOf, h.getTile, h.twin]
theorem mirrorDone (e : Ent) (r : Rec) : s.mirrorDone key e r = s := by simp [State.mirrorDone, h.getTile, h.twin]
theorem raiseAgen (j : Nat) : s.raiseAgen key j = s.onTile fun t => t.bumpAgen j := by
  rw [State.raiseAgen, h.getTile, h.twin, h.modTile rfl]
theorem recvBytes (b : Buf) (off : Nat) (l : List Byte) : s.recvBytes key b off l = s.writeBuf key b off l := by
  simp [State.recvBytes, h.getTile, h.twin]
theorem groupDesc (g : Nat) : s.groupDesc key g = Sparse.get (512, 0) s.tile.ni.groups g := by
  simp [State.groupDesc, h.key_eq, h.getNi, Config.defaultEager]
theorem wayBusy (e : Ent) : s.wayBusy key e = s.injecting key := by
  have := h.isTile
  rw [State.wayBusy, if_neg (by omega), h.rankEp_niRank]

/-- A packet for a rank of the package goes onto the torus (R91). -/
theorem emit {p : Packet} (hd : s.ownPkg p.hdr.dest = true) :
    s.emit key p = s.net s.tile.ni (s.torus ++ [s.parcel (.packet p) key (rankEp p.hdr.dest)]) := by
  simp [State.emit, h.trailing, State.endpointOf, hd, h.rankEp_niRank, State.inject_eq]

omit h in
/-- A tile's rank has no part in the halo tree (R163). -/
theorem haloSend {e : Ent} (hr : rankEp e.rank ≠ Config.haloEp) : s.haloSend key e = false := by
  have hne : e.rank ≠ s.rankOf Config.haloEp := fun he => hr (by rw [he, rankEp_rankOf s (by decide)])
  simp [State.haloSend, hne]

end State.Alone

/-! ### Entries of an interface -/

theorem Ni.ent_of_mem {n : Ni} {e : Ent} (he : e ∈ n.ents) (hid : (n.ents.map fun x => x.id).Nodup) : n.ent e.id = some e := by
  rw [Ni.ent, List.find?_eq_some_iff_append]
  obtain ⟨l, r, hlr⟩ := List.append_of_mem he
  refine ⟨by simp, l, r, hlr, fun x hx => ?_⟩
  rw [hlr] at hid
  simp only [List.map_append, List.map_cons, List.nodup_append, List.mem_map] at hid
  obtain ⟨-, -, hdisj⟩ := hid
  have := hdisj x.id ⟨x, hx, rfl⟩ e.id (by simp)
  simpa using this

theorem Ni.mem_of_ent {n : Ni} {id : Nat} {e : Ent} (h : n.ent id = some e) : e ∈ n.ents ∧ e.id = id :=
  ⟨List.mem_of_find?_eq_some h, by simpa using List.find?_some h⟩

theorem Ni.modEnt_ents (n : Ni) (id : Nat) (f : Ent → Ent) : (n.modEnt id f).ents = n.ents.map fun e => if e.id = id then f e else e := rfl

/-- The entry that is changed, and those that are not. -/
theorem Ni.mem_modEnt_self {n : Ni} {e : Ent} (he : e ∈ n.ents) (f : Ent → Ent) : f e ∈ (n.modEnt e.id f).ents := by
  rw [Ni.modEnt_ents, List.mem_map]
  exact ⟨e, he, if_pos rfl⟩

theorem Ni.mem_modEnt_other {n : Ni} {x : Ent} {id : Nat} (hx : x ∈ n.ents) (hid : x.id ≠ id) (f : Ent → Ent) : x ∈ (n.modEnt id f).ents := by
  rw [Ni.modEnt_ents, List.mem_map]
  exact ⟨x, hx, if_neg hid⟩

theorem Ni.ent_modEnt {n : Ni} {id : Nat} {e : Ent} (h : n.ent id = some e) {f : Ent → Ent} (hf : ∀ x, (f x).id = x.id) :
    (n.modEnt id f).ent id = some (f e) := by
  have hid : e.id = id := (Ni.mem_of_ent h).2
  have hcomp : ((fun x : Ent => x.id == id) ∘ fun x => if x.id = id then f x else x) = fun x => x.id == id := by
    funext x
    simp only [Function.comp]
    split <;> simp [*]
  rw [Ni.ent] at h
  rw [Ni.ent, Ni.modEnt_ents, List.find?_map, hcomp, h]
  simp [hid]

/-! ### A new entry -/

section
variable {n : Ni} {e : Ent}

@[simp] theorem Ni.push_ents (n : Ni) (e : Ent) : (n.push e).ents = n.ents ++ [e] := rfl
@[simp] theorem Ni.push_nextId (n : Ni) (e : Ent) : (n.push e).nextId = n.nextId + 1 := rfl
@[simp] theorem Ni.push_seqOut (n : Ni) (e : Ent) : (n.push e).seqOut = n.seqOut := rfl
@[simp] theorem Ni.push_groups (n : Ni) (e : Ent) : (n.push e).groups = n.groups := rfl

variable (hn : ∀ x ∈ n.ents, x.id ≠ e.id)
include hn

theorem Ni.push_ent : (n.push e).ent e.id = some e := by
  rw [Ni.ent, Ni.push_ents, List.find?_append, List.find?_eq_none.2 (by simpa using hn)]
  simp

theorem Ni.modEnt_ents_append {m : Ni} (hm : m.ents = n.ents ++ [e]) (f : Ent → Ent) : (m.modEnt e.id f).ents = n.ents ++ [f e] := by
  have hold : n.ents.map (fun x => if x.id = e.id then f x else x) = n.ents :=
    (List.map_congr_left fun x hx => if_neg (hn x hx)).trans n.ents.map_id
  rw [Ni.modEnt_ents, hm, List.map_append, hold, List.map_singleton, if_pos rfl]

theorem Ni.push_modEnt (f : Ent → Ent) : (n.push e).modEnt e.id f = n.push (f e) := by
  have hents := Ni.modEnt_ents_append hn (m := n.push e) rfl f
  rw [Ni.modEnt_ents] at hents
  rw [Ni.modEnt, hents]
  rfl

end

/-! ### Completion (R86, R109 to R113) -/

section
variable {s : State} {key : Nat} (h : s.Alone key)

theorem Ni.countBumps_ents {n : Ni} {e : Ent} (he : e ∈ n.ents) (k count who : Nat) :
    ∃ c, { e with counted := c } ∈ (n.countBumps k count who).ents := by
  simp only [Ni.countBumps, List.mem_map]
  rw [exists_comm]
  refine ⟨e, ?_⟩
  split
  · exact ⟨_, he, rfl⟩
  · split
    · exact ⟨_, he, rfl⟩
    · exact ⟨_, he, rfl⟩

/-- Bumps change of an entry only whether its bump is counted. -/
theorem Tile.bump_ents {t : Tile} {e : Ent} (he : e ∈ t.ni.ents) (cycle k who : Nat) :
    ∃ c, { e with counted := c } ∈ (t.bump cycle k who).ni.ents :=
  Ni.countBumps_ents he _ _ _

/-- An entry that has completed with a record (R111). -/
def Ent.finished (e : Ent) (r : Rec) : Ent := { e with rcd := r, phase := .done, observed := false, counted := false, retryAt := none }

include h

/-- An entry that bumps no barrier and stays after its completion completes with its record alone. -/
theorem State.Alone.markDone_plain {id : Nat} {e : Ent} (hnb : e.nb = none) (hstays : e.detached = false) (r : Rec) :
    s.markDone key id e r = s.net (s.tile.ni.modEnt id fun x => x.finished r) s.torus := by
  simp [State.markDone, hnb, hstays, h.modEnt, Ent.finished]

/-- Whatever barrier it bumps, the entry that completes shows its record. -/
theorem State.Alone.markDone_mem {e : Ent} (he : e ∈ s.tile.ni.ents) (hstays : e.detached = false) (r : Rec) :
    (s.markDone key e.id e r).Alone key ∧
      ∃ f ∈ (s.markDone key e.id e r).tile.ni.ents, f.id = e.id ∧ f.phase = .done ∧ f.rcd = r := by
  have hmem : e.finished r ∈ (s.tile.ni.modEnt e.id fun x => x.finished r).ents := Ni.mem_modEnt_self he _
  cases hnb : e.nb with
  | none =>
    rw [h.markDone_plain hnb hstays]
    exact ⟨by simpa, _, hmem, rfl, rfl, rfl⟩
  | some k =>
    have hbump : s.markDone key e.id e r =
        (s.net (s.tile.ni.modEnt e.id fun x => x.finished r) s.torus).onTile fun t => t.bump s.cycle k e.id := by
      simp only [State.markDone, hnb, hstays, h.modEnt, h.key_eq, if_true, Bool.false_eq_true, if_false]
      rw [State.Alone.modTile (key := key) (by simpa) rfl]
      rfl
    rw [hbump]
    obtain ⟨c, hc⟩ := Tile.bump_ents (t := (s.net (s.tile.ni.modEnt e.id fun x => x.finished r) s.torus).tile) hmem s.cycle k e.id
    exact ⟨⟨h.focus, h.isTile, h.twin⟩, _, hc, rfl, rfl, rfl⟩

/-- A tile's entry completes with its record; a region that it wrote has then a new generation, unless it is cancelled (R102). -/
theorem State.Alone.complete_cases {e : Ent} (he : s.tile.ni.ent e.id = some e) (hphase : e.phase ≠ .done) (hstays : e.detached = false)
    (hid : e.id ≠ 0) (f : Rec → Rec) : let marked := s.markDone key e.id e ((f e.rcd).finish s.stamp)
    (e.anvilRegion = none ∨ ((f e.rcd).finish s.stamp).status = stCANCELLED → s.complete key e.id f = marked) ∧
      (s.complete key e.id f = marked ∨ ∃ j, s.complete key e.id f = marked.raiseAgen key j) := by
  intro marked
  have halone : marked.Alone key := (h.markDone_mem (Ni.mem_of_ent he).1 hstays _).1
  have hkey := h.isTile
  have hmgmt : key ≠ Config.mgmtEp := by simp only [Config.mgmtEp]; omega
  have hplacer : key ≠ Config.placerEp := by simp only [Config.placerEp]; omega
  have hmirror : marked.mirrorDone key e ((f e.rcd).finish s.stamp) = marked := halone.mirrorDone _ _
  have hnum : (e.id == 0) = false := by simpa using hid
  simp only [marked] at hmirror ⊢
  simp only [State.complete, h.ent, he, hphase, if_false, hmirror, h.not_host, hmgmt, hplacer, hnum, decide_false, Bool.false_and,
    Bool.and_false, Bool.false_eq_true]
  cases e.anvilRegion with
  | none => simp
  | some j =>
    dsimp only
    split
    · simp
    · next hkept => exact ⟨fun h => h.elim nofun fun h => absurd h hkept, .inr ⟨j, rfl⟩⟩

/-- An entry that bumps no barrier, stays, and writes no region or is cancelled completes with its record alone. -/
theorem State.Alone.complete_plain {e : Ent} (he : s.tile.ni.ent e.id = some e) (hphase : e.phase ≠ .done) (hnb : e.nb = none)
    (hstays : e.detached = false) (hid : e.id ≠ 0) (f : Rec → Rec)
    (hregion : e.anvilRegion = none ∨ ((f e.rcd).finish s.stamp).status = stCANCELLED) :
    s.complete key e.id f = s.net (s.tile.ni.modEnt e.id fun x => x.finished ((f e.rcd).finish s.stamp)) s.torus := by
  rw [(h.complete_cases he hphase hstays hid f).1 hregion, h.markDone_plain hnb hstays]

/-- Whatever barrier and region it names, the entry that completes shows its record. -/
theorem State.Alone.complete_mem {e : Ent} (he : s.tile.ni.ent e.id = some e) (hphase : e.phase ≠ .done) (hstays : e.detached = false)
    (hid : e.id ≠ 0) (f : Rec → Rec) :
    ∃ g ∈ (s.complete key e.id f).tile.ni.ents, g.id = e.id ∧ g.phase = .done ∧ g.rcd = (f e.rcd).finish s.stamp := by
  obtain ⟨halone, hmem⟩ := h.markDone_mem (Ni.mem_of_ent he).1 hstays ((f e.rcd).finish s.stamp)
  rcases (h.complete_cases he hphase hstays hid f).2 with hc | ⟨j, hc⟩
  · rwa [hc]
  · rw [hc, halone.raiseAgen]
    exact hmem

/-- A completion with a status and lengths, as `EntDone` says it. -/
theorem State.Alone.entDone_completeWith {e : Ent} (he : s.tile.ni.ent e.id = some e) (hphase : e.phase ≠ .done) (hstays : e.detached = false)
    (hid : e.id ≠ 0) (status : BitVec 8) (dlen flen : Nat) {u : State} (htime : u.time = s.time) :
    EntDone u (s.completeWith key e.id status dlen flen) e.id status dlen flen := by
  obtain ⟨g, hg, hgid, hdone, hrcd⟩ := h.complete_mem he hphase hstays hid fun r => { r with status, dlen, flen }
  refine ⟨g, hg, hgid, hdone, ?_⟩
  rw [hrcd, htime]
  exact ⟨rfl, rfl, rfl, by simp [Rec.finish, recDone], rfl⟩

end

/-! ### The round-robin (R119) -/

theorem Ni.leaves_of_not_queued (n : Ni) {e : Ent} (h : e.phase ≠ .queued) : n.leaves e = false := by simp [Ni.leaves, h]
theorem Ni.asks_of_sent (n : Ni) {e : Ent} (h : e.unsent = []) : n.asks e = false := by simp [Ni.asks, h]

section
variable {s : State} {key : Nat} (h : s.Alone key)
include h

/-- An interface none of whose sends to the halo tree may leave asks only which of its entries has its turn. -/
theorem State.Alone.pump_eq (hhalo : ∀ x ∈ s.tile.ni.ents, (s.tile.ni.leaves x && s.haloSend key x) = false) : s.pump key =
    (roundRobin s.tile.ni.last (s.tile.ni.ents.filter fun e => (s.tile.ni.leaves e || s.tile.ni.asks e) && !s.injecting key)).elim
      s (s.serveFirst key) := by
  have hfold : s.tile.ni.ents.foldl (fun (st : State) e => if (st.getNi key).leaves e && st.haloSend key e then st.leave key e else st) s
      = s := by
    refine List.foldlRecOn (motive := fun st => st = s) _ _ rfl fun st hst x hx => ?_
    rw [hst, h.getNi, hhalo x hx]
    rfl
  simp only [State.pump, h.trailing, Bool.false_eq_true, if_false, h.getNi, hfold, h.wayBusy]
  split
  · next hr => rw [hr]; rfl
  · next hr => rw [hr]; rfl

/-- Where no entry has anything to send, nothing leaves. -/
theorem State.Alone.pump_idle (hidle : ∀ x ∈ s.tile.ni.ents, x.phase ≠ .queued ∧ x.unsent = []) : s.pump key = s := by
  have hnone : s.tile.ni.ents.filter (fun e => (s.tile.ni.leaves e || s.tile.ni.asks e) && !s.injecting key) = [] :=
    List.filter_eq_nil_iff.2 fun x hx => by simp [Ni.leaves_of_not_queued _ (hidle x hx).1, Ni.asks_of_sent _ (hidle x hx).2]
  rw [h.pump_eq fun x hx => by rw [Ni.leaves_of_not_queued _ (hidle x hx).1]; rfl, hnone]
  rfl

/-- An interface that injects nothing serves the one entry that has anything to send. -/
theorem State.Alone.pump_serves {e : Ent} (he : e ∈ s.tile.ni.ents) (hturn : (s.tile.ni.leaves e || s.tile.ni.asks e) = true)
    (hhalo : s.haloSend key e = false) (hfree : s.injecting key = false)
    (hothers : ∀ x ∈ s.tile.ni.ents, x ≠ e → x.phase ≠ .queued ∧ x.unsent = []) : s.pump key = s.serveFirst key e := by
  have hone : ∀ x ∈ s.tile.ni.ents.filter fun e => (s.tile.ni.leaves e || s.tile.ni.asks e) && !s.injecting key, x = e := by
    intro x hx
    obtain ⟨hmem, hx⟩ := List.mem_filter.1 hx
    by_contra hne
    obtain ⟨hphase, hsent⟩ := hothers x hmem hne
    simp [Ni.leaves_of_not_queued _ hphase, Ni.asks_of_sent _ hsent] at hx
  have hin : e ∈ s.tile.ni.ents.filter fun e => (s.tile.ni.leaves e || s.tile.ni.asks e) && !s.injecting key :=
    List.mem_filter.2 ⟨he, by simp [hturn, hfree]⟩
  rw [h.pump_eq fun x hx => ?_]
  · cases hr : roundRobin s.tile.ni.last (s.tile.ni.ents.filter fun e => (s.tile.ni.leaves e || s.tile.ni.asks e) && !s.injecting key) with
    | some x => rw [hone x (mem_of_roundRobin hr)]; rfl
    | none =>
      unfold roundRobin at hr
      split at hr
      · exact nomatch hr
      · rw [List.head?_eq_none_iff.1 hr] at hin
        exact nomatch hin
  · by_cases hx' : x = e
    · rw [hx', hhalo, Bool.and_false]
    · rw [Ni.leaves_of_not_queued _ (hothers x hx hx').1]; rfl

end

/-- The interface after an entry's turn in the round-robin. -/
def Ni.served (n : Ni) (id : Nat) : Ni := { n with last := id }

@[simp] theorem Ni.served_ents (n : Ni) (id : Nat) : (n.served id).ents = n.ents := rfl
@[simp] theorem Ni.served_nextId (n : Ni) (id : Nat) : (n.served id).nextId = n.nextId := rfl
@[simp] theorem Ni.served_seqOut (n : Ni) (id : Nat) : (n.served id).seqOut = n.seqOut := rfl
@[simp] theorem Ni.served_groups (n : Ni) (id : Nat) : (n.served id).groups = n.groups := rfl
@[simp] theorem Ni.served_ghosts (n : Ni) (id : Nat) : (n.served id).ghosts = n.ghosts := rfl

theorem State.Alone.serveFirst_send {s : State} {key : Nat} (h : s.Alone key) {e : Ent} (hreq : e.kind.isReq = false) :
    s.serveFirst key e = (s.net (s.tile.ni.served e.id) s.torus).leave key e := by
  rw [State.serveFirst, hreq, h.modNi]
  rfl

theorem EKind.isReq_of_isSend {k : EKind} (h : k.isSend = true) : k.isReq = false := by
  cases k <;> simp_all [EKind.isSend, EKind.isReq, EKind.table]

/-! ### First packets (R91 to R93, R96, R104) -/

/-- The SEQ with which an entry's message leaves, and the interface once it has been taken (R91, R371). -/
def Ni.nextSeq (n : Ni) (e : Ent) : W32 := e.seq.getD (Sparse.get 0 n.seqOut (seqKey e.rank e.group))
def Ni.numbered (n : Ni) (e : Ent) : Ni :=
  if e.seq.isSome then n else { n with seqOut := Sparse.set 0 n.seqOut (seqKey e.rank e.group) (n.nextSeq e + 1) }

/-- OFFSET of a first packet: the low half of TSEND in a timed one (R104). -/
def Ent.timeOffset (e : Ent) : W32 := if e.timed then (e.tsend.getD 0).extractLsb' 0 32 else 0

/-- Whether a message goes whole; one that has left before goes as it did then (R92, R93, R371). -/
def State.goesWhole (s : State) (key : Nat) (e : Ent) : Bool :=
  if e.seq.isSome then e.rcd.flags &&& recRdv == 0
  else decide (e.len ≤ (s.groupDesc key e.group.toNat).1) || e.kind == .sendv || e.kind == .donew || e.len == 0

/-- The first packet of an entry's message. -/
def Ent.firstPacket (e : Ent) (src : Rank) (seq : W32) (kind hflags : BitVec 8) (payload : List Byte) (poison : Bool) : Packet :=
  { e with seq := some seq }.packet src kind hflags e.timeOffset payload poison

@[simp] theorem Ni.numbered_ents (n : Ni) (e : Ent) : (n.numbered e).ents = n.ents := by unfold Ni.numbered; split <;> rfl
@[simp] theorem Ni.numbered_nextId (n : Ni) (e : Ent) : (n.numbered e).nextId = n.nextId := by unfold Ni.numbered; split <;> rfl

@[simp] theorem Ni.numbered_ghosts (n : Ni) (e : Ent) : (n.numbered e).ghosts = n.ghosts := by unfold Ni.numbered; split <;> rfl

/-- A message without a SEQ takes the pair's next. -/
theorem Ni.numbered_seqOut {n : Ni} {e : Ent} (h : e.seq = none) :
    (n.numbered e).seqOut = Sparse.set 0 n.seqOut (seqKey e.rank e.group) (Sparse.get 0 n.seqOut (seqKey e.rank e.group) + 1) := by
  simp [Ni.numbered, Ni.nextSeq, h]

theorem State.Alone.numbered {s : State} {key : Nat} (h : s.Alone key) (e : Ent) :
    (if e.seq.isSome then s else s.modNi key fun n => { n with
      seqOut := Sparse.set 0 n.seqOut (seqKey e.rank e.group) (e.seq.getD (Sparse.get 0 s.tile.ni.seqOut (seqKey e.rank e.group)) + 1) }) =
      s.net (s.tile.ni.numbered e) s.torus := by
  unfold Ni.numbered
  split
  · rw [State.net_self]
  · rw [h.modNi]
    rfl

section
variable {s : State} {key : Nat} (h : s.Alone key) {e : Ent} (hown : s.ownPkg e.rank = true) (hrank : rankEp e.rank ≠ Config.haloEp)
include h hown hrank

/-- A short message leaves whole, with the bytes that its buffer holds (R93). -/
theorem State.Alone.leave_whole (hwhole : s.goesWhole key e = true) : let b := s.readBuf key e 0 e.len
    s.leave key e = s.net
      ((s.tile.ni.numbered e).modEnt e.id fun x => { x with seq := some (s.tile.ni.nextSeq e), phase := .awaitAck, poison := x.poison || b.2 })
      (s.torus ++ [s.parcel (.packet (e.firstPacket (s.rankOf key) (s.tile.ni.nextSeq e) 0x01 (e.hflags ||| hfLAST) b.1 (e.poison || b.2)))
        key (rankEp e.rank)]) := by
  have hsrc : s.niRank key = s.rankOf key := h.niRank
  rw [State.goesWhole] at hwhole
  simp only [State.leave, State.Alone.haloSend hrank, Bool.false_eq_true, if_false, hwhole, if_true, h.numbered, h.getNi, hsrc]
  rw [State.Alone.modEnt (key := key) (by simpa), State.Alone.emit (key := key) (by simpa) (by exact hown)]
  rfl

/-- A long message leaves as RTS without bytes, and its record shows the rendezvous (R96, R110). -/
theorem State.Alone.leave_rdv (hwhole : s.goesWhole key e = false) :
    s.leave key e = s.net
      ((s.tile.ni.numbered e).modEnt e.id fun x =>
        { x with seq := some (s.tile.ni.nextSeq e), phase := .awaitCts, rcd := { x.rcd with flags := x.rcd.flags ||| recRdv, tstamp := s.stamp } })
      (s.torus ++ [s.parcel (.packet (e.firstPacket (s.rankOf key) (s.tile.ni.nextSeq e) 0x02 e.hflags [] false)) key (rankEp e.rank)]) := by
  have hsrc : s.niRank key = s.rankOf key := h.niRank
  rw [State.goesWhole] at hwhole
  simp only [State.leave, State.Alone.haloSend hrank, Bool.false_eq_true, if_false, hwhole, h.numbered, h.getNi, hsrc]
  rw [State.Alone.modEnt (key := key) (by simpa), State.Alone.emit (key := key) (by simpa) (by exact hown)]
  rfl

end

end Sys2Proof.Machine
end

section
/-!
Requests of the N slot on a tile that stands alone (R86, R261, R263): the flags of sb, the entry that a request makes and names, and a request
that ends in the next step.
-/
namespace Sys2Proof.Machine

open Sys2Proof.Safety

/-! ### The tile that issues -/

/-- What `NetReady` says, by name. -/
structure State.Issues (s : State) : Prop where
  unpoisoned : Unpoisoned s
  confirmed : s.tile.spec = none
  alone : s.Alone s.tile.ep
  noStores : s.tile.iss.stored = []
  nextId : s.tile.ni.nextId ≠ 0
  storeIdle : s.storeBusy = false
  quiet : ∀ x, s.tile.unsettled x = false ∧ s.tile.racing s.cycle x = false
  free : s.injecting s.tile.ep = false
  newId : ∀ e ∈ s.tile.ni.ents, e.id ≠ s.tile.ni.nextId
  idle : ∀ e ∈ s.tile.ni.ents, e.phase ≠ .queued ∧ e.unsent = []
  paired : ∀ e ∈ s.tile.ni.ents, e.pairWait = false

theorem issues_of_netReady {s : State} (h : NetReady s) : s.Issues := by
  obtain ⟨hu, ⟨hspec, htwin⟩, hep, -, hstored, hnext, hbusy, hquiet, hfree, hents⟩ := h
  refine ⟨hu, hspec, ⟨rfl, hep, htwin⟩, hstored, hnext, hbusy, hquiet, hfree, fun e he => (hents e he).1, fun e he => ?_, fun e he => ?_⟩
  · obtain ⟨-, hphase, hsent, -⟩ := hents e he
    exact ⟨hphase, hsent⟩
  · obtain ⟨-, -, -, hpair⟩ := hents e he
    exact hpair

theorem State.Issues.pairOf {s : State} (h : s.Issues) : s.pairOf = none := State.pairOf_of_none h.alone.twin
theorem State.Issues.ownStores {s : State} (h : s.Issues) : s.ownStores = [] := by simp [State.ownStores, h.noStores]

/-! ### Making an entry (R86, R261) -/

/-- The empty entry that a request fills. -/
def State.blank (s : State) (k : EKind) : Ent := { Ent.fresh s.tile.ni.nextId k with xid := s.tile.ni.nextXid }

/-- The interface with a new entry that completes in a later cycle. -/
def Ni.pushEnding (n : Ni) (e : Ent) (status cycle : Nat) : Ni := { n.push e with instant := n.instant ++ [(n.nextId, status, cycle)] }

section
variable {s : State} (h : s.Issues) {q : Req}
include h

/-- A request whose checks pass makes its entry and names it. -/
theorem State.request_pass {d : BitVec 4} (hfull : q.full = false) (htable : s.tile.ni.full q.kind = false) (h1 : q.checks.first = none)
    (h2 : s.oorOf q.checks.mem = none) (h3 : q.checks.later = none) :
    s.request d q = .next ((s.makeEntry q).1.nameH d (s.makeEntry q).2) := by
  have hdiff : (if q.limit then none else q.compare.bind fun ops => s.twinDiff q.opcode ops) = none := by
    have : ∀ ops, s.twinDiff q.opcode ops = none := fun ops => by simp [State.twinDiff, h.pairOf]
    simp [this]
  simp only [State.request, State.confirmed_of_none h.confirmed, h.storeIdle, Bool.and_false, State.stallIf_false, hfull, Bool.false_or,
    h.alone.getNi, htable, State.checked_pass h.unpoisoned _ h1 h2 h3, hdiff]

/-- A request that breaks a limit makes an entry that is DENIED in the next step (R261). -/
theorem State.makeEntry_limit (hlimit : q.limit = true) :
    let e := q.entry (s.blank q.kind)
    s.makeEntry q = (s.net (s.tile.ni.pushEnding { e with phase := .closing, len := e.len % 2 ^ 24 } 0x09 (s.cycle + 1)) s.torus,
      s.tile.ni.nextId) := by
  intro e
  simp only [State.makeEntry, h.pairOf, Option.elim_none, h.alone.getNi, h.ownStores, hlimit, Bool.true_or, if_true, h.alone.modNi]
  rfl

/-- A request with a status of its own makes an entry that ends with it in the next step. -/
theorem State.makeEntry_fate {status : BitVec 8} (hlimit : q.limit = false) (hfate : q.fate = some status) : let e := q.entry (s.blank q.kind)
    s.makeEntry q = (s.net (s.tile.ni.pushEnding { e with phase := .closing } status.toNat (s.cycle + 1)) s.torus, s.tile.ni.nextId) := by
  intro e
  simp only [State.makeEntry, h.pairOf, Option.elim_none, h.alone.getNi, h.ownStores, hlimit, hfate, h.alone.trailing, Bool.false_and,
    Bool.or_false, Bool.false_eq_true, if_false, if_true, h.alone.modNi]
  rfl

/-- Any other request makes its entry, does what it does then, and goes on its way where its kind is compared. -/
theorem State.makeEntry_launch (hlimit : q.limit = false) (hfate : q.fate = none) : let e := q.entry (s.blank q.kind)
    let t := q.after (s.net (s.tile.ni.push e) s.torus) s.tile.ni.nextId
    t.Alone s.tile.ep →
      s.makeEntry q = (if q.compare.isSome then t.launchEnt s.tile.ep s.tile.ni.nextId else t, s.tile.ni.nextId) := by
  intro e t ht
  have hpair : t.pairOf = none := State.pairOf_of_none ht.twin
  simp only [State.makeEntry, h.pairOf, Option.elim_none, h.alone.getNi, h.ownStores, hlimit, hfate, h.alone.trailing, Bool.false_and,
    Bool.or_false, Bool.false_eq_true, if_false, if_true, h.alone.modNi, List.append_nil]
  change ((match q.compare with
    | some ops => t.submit s.tile.ni.nextId q.opcode ops
    | none => t.mirrorEnded s.tile.ni.nextId), s.tile.ni.nextId) = _
  cases q.compare with
  | none => simp [State.mirrorEnded, ht.twin, t]
  | some ops => simp [State.submit, hpair, ht.focus, t]

end

/-! ### The handle (R86, R263) -/

/-- A free handle register is written and nothing else happens. -/
theorem State.nameH_free {s : State} {d : BitVec 4} (hd : s.tile.thr.regs.getH d.toNat = none) (id : Nat) :
    s.nameH d id = s.onRegs fun r => r.setH d.toNat (some id) := by
  simp [State.nameH, hd]

theorem regsExcept_setH {rs : List Reg} {r r' : Regs} (h : RegsExcept rs r r') (n : Nat) (v : Option Nat) :
    RegsExcept (.h n :: rs) r (r'.setH n v) := by
  obtain ⟨hs, hf, hv, hm, hp, hacc, hxa, hb, hsig, hh, hcr, hlc⟩ := h
  refine ⟨?_, ?_, ?_, ?_, ?_, ?_, ?_, ?_, ?_, fun i hi => ?_, ?_, hlc⟩
  case refine_10 =>
    simp only [List.mem_cons, not_or, Reg.h.injEq] at hi
    rw [Regs.getH_setH_ne _ _ hi.1, hh i hi.2]
  all_goals simpa

/-- The entry that a request leaves once the handle register names it. -/
theorem enters_of_named {s t : State} {d : BitVec 4} {e : Ent} {rs : List Reg} (hents : t.tile.ni.ents = s.tile.ni.ents ++ [e])
    (hid : e.id = s.tile.ni.nextId) (hnext : t.tile.ni.nextId = s.tile.ni.nextId + 1)
    (hregs : RegsExcept rs s.tile.thr.regs t.tile.thr.regs) (hmem : t.tile.mem = s.tile.mem) (hanvil : t.tile.anvil = s.tile.anvil)
    (hpc : t.tile.thr.pc = s.tile.thr.pc) :
    Enters e.kind d rs s (t.onRegs fun r => r.setH d.toNat (some s.tile.ni.nextId)) e := by
  refine ⟨hents, hid, rfl, ?_, hnext, regsExcept_setH hregs _ _, fun x => ?_, hanvil, hpc⟩
  · rw [hid]
    simp
  · show Sparse.get 0 t.tile.mem x = Sparse.get 0 s.tile.mem x
    rw [hmem]

/-! ### Requests that end in the next step (R261, R374) -/

section
variable {s : State} {key : Nat} (h : s.Alone key)
include h

/-- With one completion due, that entry completes. -/
theorem State.Alone.serveInstants_one {e : Ent} {status : Nat} (hdue : s.tile.ni.instant = [(e.id, status, s.cycle)])
    (he : s.tile.ni.ent e.id = some e) (hphase : e.phase ≠ .done) (hstays : e.detached = false) (hid : e.id ≠ 0) {u : State}
    (htime : u.time = s.time) : EntDone u (s.serveInstants key) e.id (BitVec.ofNat 8 status) 0 e.len := by
  have hent : ((s.net { s.tile.ni with instant := [] } s.torus)).ent key e.id = some e := by
    rw [State.Alone.ent (key := key) (by simpa)]
    exact he
  have hone : ∀ m : State, m.Alone key → m.tile.ni.ent e.id = some e → m.time = s.time →
      EntDone u (m.completeWith key e.id (BitVec.ofNat 8 status) 0 e.len) e.id (BitVec.ofNat 8 status) 0 e.len :=
    fun m hm hem hmt => hm.entDone_completeWith hem hphase hstays hid _ _ _ (htime.trans hmt.symm)
  have hnow : s.tile.ni.instant.filter (fun x => decide (x.2.2 ≤ s.cycle)) = [(e.id, status, s.cycle)] := by simp [hdue]
  have hlater : s.tile.ni.instant.filter (fun x => decide (s.cycle < x.2.2)) = [] := by simp [hdue]
  simp only [State.serveInstants, h.getNi, hnow, h.modNi, hlater, List.foldl_cons, List.foldl_nil, hent]
  split
  · exact hone _ ⟨h.focus, h.isTile, h.twin⟩ he rfl
  · exact hone _ ⟨h.focus, h.isTile, h.twin⟩ he rfl

end

/-- What is left of a request that ends at once (R261, R374). -/
theorem endsNext_of_pushEnding {s : State} (h : s.Issues) {d : BitVec 4} (hd : s.tile.thr.regs.getH d.toNat = none) {k : EKind} {e : Ent}
    (hid : e.id = s.tile.ni.nextId) (hkind : e.kind = k) (hphase : e.phase = .closing) (hstays : e.detached = false) {status : Nat} :
    EndsNext status k d e.len s ((s.net (s.tile.ni.pushEnding e status (s.cycle + 1)) s.torus).nameH d s.tile.ni.nextId) := by
  subst hkind
  rw [State.nameH_free (s := s.net (s.tile.ni.pushEnding e status (s.cycle + 1)) s.torus) hd]
  have hne : e.id ≠ 0 := hid ▸ h.nextId
  refine ⟨e, enters_of_named rfl hid rfl (RegsExcept.refl _ _) rfl rfl rfl, hphase, rfl, rfl, ?_, fun hnone => ?_⟩
  · rw [hid]
    exact List.mem_append_right _ (List.mem_singleton.2 rfl)
  · intro u
    refine State.Alone.serveInstants_one (s := u) ⟨h.alone.focus, h.alone.isTile, h.alone.twin⟩ ?_
      (Ni.push_ent (n := s.tile.ni) fun x hx => hid ▸ h.newId x hx) (by rw [hphase]; decide) hstays hne rfl
    show s.tile.ni.instant ++ [(s.tile.ni.nextId, status, s.cycle + 1)] = _
    rw [hnone, hid]
    rfl

/-! ### Whole requests -/

/-- The request finds a place in its table and passes its checks. -/
structure State.Passes (s : State) (q : Req) : Prop where
  room : q.full = false
  table : s.tile.ni.full q.kind = false
  first : q.checks.first = none
  mem : s.oorOf q.checks.mem = none
  later : q.checks.later = none

section
variable {s : State} (h : s.Issues) {d : BitVec 4} (hd : s.tile.thr.regs.getH d.toNat = none) {q : Req} (hp : s.Passes q)
include h hd hp

/-- A request that breaks a limit is DENIED (R261, R367). -/
theorem State.request_denied (hlimit : q.limit = true) (hid : (q.entry (s.blank q.kind)).id = s.tile.ni.nextId)
    (hkind : (q.entry (s.blank q.kind)).kind = q.kind) (hstays : (q.entry (s.blank q.kind)).detached = false) {n : Nat}
    (hlen : (q.entry (s.blank q.kind)).len = n) : ∃ t, s.request d q = .next t ∧ Denied q.kind d (n % 2 ^ 24) s t := by
  subst hlen
  refine ⟨_, State.request_pass h hp.room hp.table hp.first hp.mem hp.later, ?_⟩
  rw [State.makeEntry_limit h hlimit]
  exact endsNext_of_pushEnding (e := { q.entry (s.blank q.kind) with phase := .closing, len := (q.entry (s.blank q.kind)).len % 2 ^ 24 })
    h hd hid hkind rfl hstays

/-- A request with a status of its own ends with it. -/
theorem State.request_ends {status : BitVec 8} (hlimit : q.limit = false) (hfate : q.fate = some status)
    (hid : (q.entry (s.blank q.kind)).id = s.tile.ni.nextId) (hkind : (q.entry (s.blank q.kind)).kind = q.kind)
    (hstays : (q.entry (s.blank q.kind)).detached = false) :
    ∃ t, s.request d q = .next t ∧ EndsNext status.toNat q.kind d (q.entry (s.blank q.kind)).len s t := by
  refine ⟨_, State.request_pass h hp.room hp.table hp.first hp.mem hp.later, ?_⟩
  rw [State.makeEntry_fate h hlimit hfate]
  exact endsNext_of_pushEnding (e := { q.entry (s.blank q.kind) with phase := .closing }) h hd hid hkind rfl hstays

/-- Any other request goes on its way and is named. -/
theorem State.request_goes (hlimit : q.limit = false) (hfate : q.fate = none) {t u : State}
    (hafter : q.after (s.net (s.tile.ni.push (q.entry (s.blank q.kind))) s.torus) s.tile.ni.nextId = t) (ht : t.Alone s.tile.ep)
    (hu : (if q.compare.isSome then t.launchEnt s.tile.ep s.tile.ni.nextId else t) = u)
    (hregs : u.tile.thr.regs.getH d.toNat = s.tile.thr.regs.getH d.toNat) :
    s.request d q = .next (u.onRegs fun r => r.setH d.toNat (some s.tile.ni.nextId)) := by
  subst hafter hu
  rw [State.request_pass h hp.room hp.table hp.first hp.mem hp.later, State.makeEntry_launch h hlimit hfate ht,
    State.nameH_free (hregs.trans hd)]

end

end Sys2Proof.Machine
end

section
/-!
Operands of the N slot (R183, R184, R260, R273): the request flags of sb, the halves of a register and the anvil address.
-/
namespace Sys2Proof.Machine

open Sys2Proof.Safety

/-! ### Fields of a word -/

theorem extract_eq_zero_iff (y : Word) (i n : Nat) : y.extractLsb' i n = 0 ↔ y.toNat / 2 ^ i % 2 ^ n = 0 := by
  rw [← BitVec.toNat_inj, BitVec.extractLsb'_toNat, Nat.shiftRight_eq_div_pow, BitVec.ofNat_eq_ofNat, BitVec.toNat_zero]

theorem toNat_extract_high {y : Word} {i n : Nat} (h : i + n = 64) : (y.extractLsb' i n).toNat = y.toNat / 2 ^ i := by
  have hlt := y.isLt
  rw [BitVec.extractLsb'_toNat, Nat.shiftRight_eq_div_pow, Nat.mod_eq_of_lt]
  rw [Nat.div_lt_iff_lt_mul (by positivity), ← Nat.pow_add, Nat.add_comm n i, h]
  exact hlt

theorem loWord_eq (x : Word) : loWord x = BitVec.ofNat 32 x.toNat :=
  BitVec.eq_of_toNat_eq (by rw [loWord, BitVec.extractLsb'_toNat, Nat.shiftRight_zero, BitVec.toNat_ofNat])

theorem hiWord_toNat (x : Word) : (hiWord x).toNat = x.toNat / 2 ^ 32 := toNat_extract_high rfl

/-! ### The flags of sb (R184, R260) -/

/-- With DG, the group of the tile stands in the resolved word; every bit but those of GROUP and DG is that of sb. -/
theorem resolveDg_bit (y : SVal) (g : Word) {i : Nat} (hi : i < 64) : (resolveDg y g).val.getLsbD i =
    if y.val.getLsbD 55 = true ∧ (i = 55 ∨ 32 ≤ i ∧ i < 48) then decide (i ≠ 55) && g.getLsbD (i - 32) else y.val.getLsbD i := by
  unfold resolveDg
  by_cases h : y.val.getLsbD 55 = true
  · have hkeep : ∀ i < 64, (~~~(0x0080FFFF00000000 : Word)).getLsbD i = !decide (i = 55 ∨ 32 ≤ i ∧ i < 48) := by decide
    have hlow : ∀ i < 64, (0xFFFF : Word).getLsbD i = decide (i < 16) := by decide
    simp only [h, if_true, true_and, BitVec.getLsbD_or, BitVec.getLsbD_and, BitVec.getLsbD_shiftLeft, hkeep i hi, hi, decide_true,
      Bool.true_and]
    by_cases h32 : i < 32
    · simp [h32, show ¬(i = 55 ∨ 32 ≤ i ∧ i < 48) by omega]
    · rw [hlow (i - 32) (by omega)]
      by_cases h48 : i < 48
      · simp [h48, Nat.not_lt.1 h32, show i - 32 < 16 by omega, show i ≠ 55 by omega]
      · by_cases h55 : i = 55
        · simp [h55]
        · simp [h32, h48, h55, show ¬i - 32 < 16 by omega]
  · rw [if_neg h, if_neg (fun hc => h hc.1)]

section
variable (y : SVal) (g : Word)

theorem resolveDg_field {i n : Nat} (h : n + i ≤ 32 ∨ 48 ≤ i ∧ i + n ≤ 55 ∨ 56 ≤ i ∧ i + n ≤ 64) :
    (resolveDg y g).val.extractLsb' i n = y.val.extractLsb' i n := by
  apply BitVec.eq_of_getLsbD_eq
  intro k hk
  rw [BitVec.getLsbD_extractLsb', BitVec.getLsbD_extractLsb', resolveDg_bit y g (by omega), if_neg (by omega)]

theorem resolveDg_flag {i : Nat} (h : 48 ≤ i ∧ i ≠ 55 ∧ i < 64) : (resolveDg y g).val.getLsbD i = y.val.getLsbD i := by
  rw [resolveDg_bit y g h.2.2, if_neg (by omega)]

/-- Bits 31:0 of sb. -/
theorem loWord_resolveDg : loWord (resolveDg y g).val = BitVec.ofNat 32 y.val.toNat := by
  rw [loWord, resolveDg_field y g (by omega), ← loWord, loWord_eq]

end

/-- Whether the flags break a limit, on sb as it stands. -/
theorem reqFlags_bad (y : SVal) (g : Word) (any ntf anv : Bool) :
    (reqFlags (resolveDg y g).val).bad any ntf anv = true ↔ ¬sbLegal y.val any ntf anv := by
  have hextra : y.val.extractLsb' 48 5 = 0 ↔ y.val.toNat / 2 ^ 48 % 32 = 0 := extract_eq_zero_iff y.val 48 5
  have hnb : (y.val.extractLsb' 58 6).toNat = y.val.toNat / 2 ^ 58 := toNat_extract_high rfl
  simp only [reqFlags, ReqFlags.bad, sbLegal, resolveDg_field y g (i := 48) (n := 5) (by omega), resolveDg_field y g (i := 58) (n := 6) (by omega),
    resolveDg_flag y g (i := 57) (by omega), resolveDg_flag y g (i := 56) (by omega), resolveDg_flag y g (i := 54) (by omega),
    resolveDg_flag y g (i := 53) (by omega), hnb, ← hextra]
  grind

theorem reqFlags_ok {y : SVal} {any ntf anv : Bool} (g : Word) (h : sbLegal y.val any ntf anv) :
    (reqFlags (resolveDg y g).val).bad any ntf anv = false := by
  rw [← Bool.not_eq_true, reqFlags_bad]
  exact not_not.2 h

theorem reqFlags_group (s : State) (b : BitVec 5) : (reqFlags (resolveDg (s.opS 1 b) (s.rdC crGROUP)).val).group = sbGroup s (s.opS 1 b).val := by
  generalize s.opS 1 b = y
  apply BitVec.eq_of_getLsbD_eq
  intro i hi
  have hdiv : ∀ k, (y.val.toNat / 2 ^ 32).testBit k = y.val.getLsbD (32 + k) := fun k => by
    rw [Nat.testBit_div_two_pow, BitVec.testBit_toNat, Nat.add_comm]
  simp only [reqFlags, sbGroup, BitVec.getLsbD_extractLsb', resolveDg_bit y _ (show 32 + i < 64 by omega), BitVec.getLsbD_ofNat, hi, decide_true,
    Bool.true_and]
  by_cases h : y.val.getLsbD 55 = true
  · rw [if_pos ⟨h, by omega⟩, if_pos h, BitVec.testBit_toNat, Nat.add_sub_cancel_left]
    simp [show 32 + i ≠ 55 by omega]
    rfl
  · rw [if_neg (by tauto), if_neg h, hdiv]

theorem reqFlags_barrier (y : SVal) (g : Word) : (reqFlags (resolveDg y g).val).barrier = sbBarrier y.val := by
  simp only [reqFlags, ReqFlags.barrier, sbBarrier, resolveDg_field y g (i := 58) (n := 6) (by omega), resolveDg_flag y g (i := 57) (by omega)]
  rw [toNat_extract_high rfl]

theorem reqFlags_any (y : SVal) (g : Word) : (reqFlags (resolveDg y g).val).any = y.val.getLsbD 56 := resolveDg_flag y g (by omega)
theorem reqFlags_ntf (y : SVal) (g : Word) : (reqFlags (resolveDg y g).val).ntf = y.val.getLsbD 54 := resolveDg_flag y g (by omega)
theorem reqFlags_anv (y : SVal) (g : Word) : (reqFlags (resolveDg y g).val).anv = y.val.getLsbD 53 := resolveDg_flag y g (by omega)

/-! ### Checks -/

theorem State.oorOf_nil (s : State) : s.oorOf [] = none := rfl
theorem State.oorOf_one {s : State} {a : Word} {n : Nat} (h : s.tile.oor a n = none) : s.oorOf [(a, n)] = none := by
  simp [State.oorOf, h, minOpt]
theorem State.oorOf_two {s : State} {a b : Word} {m n : Nat} (ha : s.tile.oor a m = none) (hb : s.tile.oor b n = none) :
    s.oorOf [(a, m), (b, n)] = none := by
  simp [State.oorOf, ha, hb, minOpt]

end Sys2Proof.Machine
end

section
/-!
Sends (R83, R91 to R93, R96, R104, R261, R264): what the interface of a quiet tile sends of a new entry, and the proof of O30.
-/
namespace Sys2Proof.Machine

open Sys2Proof.Safety

theorem exec_send (d : BitVec 4) (a b c : BitVec 5) (s : State) : exec (.send d a b c) s = execSend d a b c s := rfl
theorem exec_sendr (d : BitVec 4) (a b c : BitVec 5) (s : State) : exec (.sendr d a b c) s = execSendr d a b c s := rfl
theorem exec_sendt (d : BitVec 4) (a b c : BitVec 5) (s : State) : exec (.sendt d a b c) s = execSendt d a b c s := rfl
theorem exec_sendv (d : BitVec 4) (a b c : BitVec 5) (s : State) : exec (.sendv d a b c) s = execSendv d a b c s := rfl

/-! ### Bytes of a buffer (R262) -/

/-- The bytes of a buffer in the tile store: in range, with none that is free or poisoned. -/
theorem State.Alone.readBuf_store {s : State} {key : Nat} (h : s.Alone key) {e : Ent} {a : Nat} {rs : List (Nat × Nat)}
    (hbuf : e.buf = .store a rs) (hdirty : e.dirty = []) {off n : Nat} (hrange : ∀ i < n, inRanges rs ((a + off + i) % 2 ^ 64) = true)
    (hquiet : ∀ x, s.tile.unsettled x = false ∧ s.tile.racing s.cycle x = false) (hpoison : s.tile.poison = []) :
    s.readBuf key e off n = ((List.range n).map fun i => byteAt s ((a + off + i) % 2 ^ 64), false) := by
  have hspans : s.badSpans key e off n = [] := by simp [State.badSpans, hbuf, h.getTile, hpoison]
  simp only [State.readBuf, hbuf, h.getTile, hspans, hdirty, List.any_nil, Bool.false_or, List.isEmpty_nil, Bool.not_true, Prod.mk.injEq, and_true]
  refine List.map_congr_left fun i hi => ?_
  simp only [hrange i (List.mem_range.1 hi), (hquiet _).1, Tile.raced, (hquiet _).2]
  rfl

theorem toNat_add_ofNat (p : Word) (i : Nat) : (p + BitVec.ofNat 64 i).toNat = (p.toNat + i) % 2 ^ 64 := by
  rw [BitVec.toNat_add, BitVec.toNat_ofNat, Nat.add_mod_mod]

/-- The bytes of a range of the tile store, in order. -/
def bytesAt (s : State) (p : Word) (n : Nat) : List Byte := (List.range n).map fun i => byteAt s (p + BitVec.ofNat 64 i).toNat

/-- The bytes that an instruction's buffer operand names. -/
theorem State.Alone.readBuf_operand {s : State} {key : Nat} (h : s.Alone key) {e : Ent} {p : Word} {n : Nat}
    (hbuf : e.buf = .store p.toNat s.tile.ranges) (hdirty : e.dirty = []) (hrange : s.tile.oor p n = none) (hn : n ≤ 2 ^ 64)
    (hquiet : ∀ x, s.tile.unsettled x = false ∧ s.tile.racing s.cycle x = false) (hpoison : s.tile.poison = []) :
    s.readBuf key e 0 n = (bytesAt s p n, false) := by
  rw [h.readBuf_store hbuf hdirty (fun i hi => ?_) hquiet hpoison]
  · simp only [Nat.add_zero, bytesAt, toNat_add_ofNat]
  · have := Tile.inRange_of_oor hrange hn hi
    rwa [toNat_add_ofNat] at this

/-- An entry that receives nothing leaves no byte of the tile store unsettled. -/
theorem Tile.unsettled_push {t : Tile} {n : Ni} {e : Ent} (hents : n.ents = t.ni.ents ++ [e]) (hghosts : n.ghosts = t.ni.ghosts)
    (he : e.kind.receives = false) (x : Nat) : ({ t with ni := n } : Tile).unsettled x = t.unsettled x := by
  simp [Tile.unsettled, hents, hghosts, Ent.unsettled, he]

/-! ### A new entry goes on its way -/

section
variable {s : State} (h : s.Issues) {e : Ent} (hid : e.id = s.tile.ni.nextId)
include h hid

omit hid in
theorem State.Issues.mem_push {x : Ent} (hx : x ∈ (s.tile.ni.push e).ents) (hne : x ≠ e) : x.phase ≠ .queued ∧ x.unsent = [] := by
  rcases List.mem_append.1 hx with hx | hx
  · exact h.idle x hx
  · exact absurd (List.mem_singleton.1 hx) hne

theorem State.Issues.newId' (x : Ent) (hx : x ∈ s.tile.ni.ents) : x.id ≠ e.id := hid ▸ h.newId x hx

/-- A send that has just been entered is offered to the interface (R119). -/
theorem State.Issues.launch_send (hsend : e.kind.isSend = true) (hpair : e.pairWait = false) (hphase : e.phase ≠ .done ∧ e.phase ≠ .closing) :
    (s.net (s.tile.ni.push e) s.torus).launchEnt s.tile.ep s.tile.ni.nextId = (s.net (s.tile.ni.push e) s.torus).pump s.tile.ep := by
  have halone : (s.net (s.tile.ni.push e) s.torus).Alone s.tile.ep := (State.alone_net _ _).2 h.alone
  have hsame : ({ e with pairWait := false } : Ent) = e := by rw [← hpair]
  have hmod : (s.net (s.tile.ni.push e) s.torus).modEnt s.tile.ep s.tile.ni.nextId (fun e => { e with pairWait := false }) =
      s.net (s.tile.ni.push e) s.torus := by
    rw [halone.modEnt, ← hid]
    show (s.net _ _).net ((s.tile.ni.push e).modEnt e.id _) _ = _
    rw [Ni.push_modEnt (h.newId' hid), hsame]
    rfl
  have hent : (s.net (s.tile.ni.push e) s.torus).ent s.tile.ep s.tile.ni.nextId = some e := by
    rw [halone.ent, ← hid]
    exact Ni.push_ent (h.newId' hid)
  simp [State.launchEnt, hmod, hent, hphase, hsend]

/-- What is new waits for nothing and is for a tile of the package. -/
structure Ent.MayLeave (e : Ent) (s : State) : Prop where
  isSend : e.kind.isSend = true
  pairWait : e.pairWait = false
  phase : e.phase = .queued
  retryAt : e.retryAt = none
  own : s.ownPkg e.rank = true
  tile : rankEp e.rank < 0x400

/-- A send to a tile of the package leaves at once (R119). -/
theorem State.Issues.launch_leaves (hm : e.MayLeave s) :
    (s.net (s.tile.ni.push e) s.torus).launchEnt s.tile.ep s.tile.ni.nextId =
      (s.net ((s.tile.ni.push e).served e.id) s.torus).leave s.tile.ep e := by
  have halone : (s.net (s.tile.ni.push e) s.torus).Alone s.tile.ep := (State.alone_net _ _).2 h.alone
  have hhalo : rankEp e.rank ≠ Config.haloEp := by have := hm.tile; simp only [Config.haloEp]; omega
  have hfirst : ∀ x ∈ (s.tile.ni.push e).ents, ¬(x.id < e.id ∧ x.phase = .queued) := by
    rintro x hx ⟨hlt, hphase⟩
    by_cases hne : x = e
    · exact absurd hlt (by rw [hne]; exact lt_irrefl _)
    · exact (h.mem_push hx hne).1 hphase
  have hturn : (s.tile.ni.push e).leaves e = true := by
    simp only [Ni.leaves, hm.isSend, hm.phase, hm.pairWait, hm.retryAt]
    simp only [Bool.and_eq_true, Bool.not_eq_true', List.any_eq_false, decide_eq_true_eq, beq_iff_eq]
    exact ⟨by decide, fun x hx hc => hfirst x hx ⟨hc.1.1.1, hc.2⟩⟩
  rw [h.launch_send hid hm.isSend hm.pairWait (by rw [hm.phase]; decide),
    halone.pump_serves (e := e) (List.mem_append_right _ (List.mem_singleton.2 rfl)) (by rw [State.net_tile, hturn]; rfl)
      (State.Alone.haloSend hhalo) h.free fun x hx hne => h.mem_push hx hne,
    halone.serveFirst_send (EKind.isReq_of_isSend hm.isSend)]
  rfl

end

/-- The SEQ that comes next between the tile and a rank in a group (R91). -/
def State.nextSeq (s : State) (r : Rank) (g : BitVec 16) : W32 := Sparse.get 0 s.tile.ni.seqOut (r.toNat * 65536 + g.toNat)

/-- The interface has one entry more, a packet of it is on the torus, and the pair's SEQ has been taken. -/
def Leaves (s : State) (e : Ent) (p : Packet) (t : State) : Prop :=
  ∃ n u, t = s.net n (s.torus ++ [u]) ∧ u.ev = .packet p ∧ n.ents = s.tile.ni.ents ++ [e] ∧ n.nextId = s.tile.ni.nextId + 1 ∧
    Sparse.get 0 n.seqOut (e.rank.toNat * 65536 + e.group.toNat) = s.nextSeq e.rank e.group + 1

section
variable {s : State} (h : s.Issues) {e : Ent} (hid : e.id = s.tile.ni.nextId) (hm : e.MayLeave s) (hseq : e.seq = none)
include h hid hm hseq

/-- An eager message goes whole. -/
theorem State.Issues.launch_whole (hwhole : e.len ≤ (Sparse.get (512, 0) s.tile.ni.groups e.group.toNat).1 ∨ e.kind = .sendv ∨ e.len = 0)
    (hpoison : e.poison = false) {l : List Byte}
    (hread : (s.net ((s.tile.ni.push e).served e.id) s.torus).readBuf s.tile.ep e 0 e.len = (l, false)) :
    Leaves s { e with seq := some (s.nextSeq e.rank e.group), phase := .awaitAck }
      (e.firstPacket (s.rankOf s.tile.ep) (s.nextSeq e.rank e.group) 0x01 (e.hflags ||| 8) l false)
      ((s.net (s.tile.ni.push e) s.torus).launchEnt s.tile.ep s.tile.ni.nextId) := by
  have halone : (s.net ((s.tile.ni.push e).served e.id) s.torus).Alone s.tile.ep := (State.alone_net _ _).2 h.alone
  have hhalo : rankEp e.rank ≠ Config.haloEp := by have := hm.tile; simp only [Config.haloEp]; omega
  have hnext : ((s.tile.ni.push e).served e.id).nextSeq e = s.nextSeq e.rank e.group := by simp [Ni.nextSeq, hseq]; rfl
  have hgo : (s.net ((s.tile.ni.push e).served e.id) s.torus).goesWhole s.tile.ep e = true := by
    simp only [State.goesWhole, hseq, halone.groupDesc, State.net_tile, Ni.served_groups, Ni.push_groups]
    simp
    tauto
  rw [h.launch_leaves hid hm, halone.leave_whole hm.own hhalo hgo, hread]
  refine ⟨_, _, rfl, ?_, ?_, ?_, ?_⟩
  · rw [State.parcel_ev]
    simp [hnext, hpoison, hfLAST]
  · rw [Ni.modEnt_ents_append (n := s.tile.ni) (h.newId' hid) (by simp)]
    simp [hnext]
  · simp [Ni.modEnt]
  · simp [Ni.modEnt, Ni.numbered_seqOut hseq, seqKey, State.nextSeq]

/-- A longer one leaves as RTS. -/
theorem State.Issues.launch_rdv (hlen : (Sparse.get (512, 0) s.tile.ni.groups e.group.toNat).1 < e.len) (hlen0 : e.len ≠ 0)
    (hkind : e.kind ≠ .sendv ∧ e.kind ≠ .donew) :
    Leaves s { e with seq := some (s.nextSeq e.rank e.group), phase := .awaitCts
                      rcd := { e.rcd with flags := e.rcd.flags ||| recRdv, tstamp := s.stamp } }
      (e.firstPacket (s.rankOf s.tile.ep) (s.nextSeq e.rank e.group) 0x02 e.hflags [] false)
      ((s.net (s.tile.ni.push e) s.torus).launchEnt s.tile.ep s.tile.ni.nextId) := by
  have halone : (s.net ((s.tile.ni.push e).served e.id) s.torus).Alone s.tile.ep := (State.alone_net _ _).2 h.alone
  have hhalo : rankEp e.rank ≠ Config.haloEp := by have := hm.tile; simp only [Config.haloEp]; omega
  have hnext : ((s.tile.ni.push e).served e.id).nextSeq e = s.nextSeq e.rank e.group := by simp [Ni.nextSeq, hseq]; rfl
  have hgo : (s.net ((s.tile.ni.push e).served e.id) s.torus).goesWhole s.tile.ep e = false := by
    simp only [State.goesWhole, hseq, halone.groupDesc, State.net_tile, Ni.served_groups, Ni.push_groups]
    simp [hlen, hlen0, hkind]
  rw [h.launch_leaves hid hm, halone.leave_rdv hm.own hhalo hgo]
  refine ⟨_, _, rfl, ?_, ?_, ?_, ?_⟩
  · rw [State.parcel_ev]
    simp [hnext]
  · rw [Ni.modEnt_ents_append (n := s.tile.ni) (h.newId' hid) (by simp)]
    simp [hnext]
  · simp [Ni.modEnt]
  · simp [Ni.modEnt, Ni.numbered_seqOut hseq, seqKey, State.nextSeq]

end

/-! ### The entry of a send (R264) -/

/-- What SEND, SENDR, SENDT and SENDV enter alike. -/
structure State.NewSend (s : State) (b : BitVec 5) (k : EKind) (rank : Rank) (len : Nat) (e : Ent) : Prop where
  id : e.id = s.tile.ni.nextId
  kind : e.kind = k
  dest : e.rank = rank
  tag : e.tag = BitVec.ofNat 32 (s.opS 1 b).val.toNat
  group : e.group = sbGroup s (s.opS 1 b).val
  length : e.len = len
  nb : e.nb = sbBarrier (s.opS 1 b).val
  record : e.rcd = { Rec.zero with source := rank, tag := BitVec.ofNat 32 (s.opS 1 b).val.toNat, group := sbGroup s (s.opS 1 b).val }
  seq : e.seq = none
  pairWait : e.pairWait = false
  retryAt : e.retryAt = none
  poison : e.poison = false
  dirty : e.dirty = []
  stays : e.detached = false

/-- The entry as the obligation on sends describes it. -/
def Entered (s : State) (d : BitVec 4) (b : BitVec 5) (rank : Rank) (k : EKind) (n : Nat) (t : State) (ph : Phase) : Prop :=
  ∃ e, Enters k d [] s t e ∧ e.rank = rank ∧ e.tag = BitVec.ofNat 32 (s.opS 1 b).val.toNat ∧ e.group = sbGroup s (s.opS 1 b).val ∧ e.len = n ∧
    e.nb = sbBarrier (s.opS 1 b).val ∧ e.phase = ph ∧ e.rcd.source = rank ∧ e.rcd.tag = BitVec.ofNat 32 (s.opS 1 b).val.toNat ∧
    e.rcd.group = sbGroup s (s.opS 1 b).val

/-- The first packet as the obligation describes it. -/
def Goes (s : State) (b : BitVec 5) (rank : Rank) (kind hf : BitVec 8) (n : Nat) (l : List Byte) (off : W32) (t : State) : Prop :=
  (Sends s t fun q => q.payload = l ∧ q.poison = false ∧ q.hdr.dest = rank ∧ q.hdr.src = s.rankOf s.tile.ep ∧
    q.hdr.tag = BitVec.ofNat 32 (s.opS 1 b).val.toNat ∧ q.hdr.group = sbGroup s (s.opS 1 b).val ∧ q.hdr.kind = kind ∧ q.hdr.hflags = hf ∧
    q.hdr.len = n ∧ q.hdr.seq = s.nextSeq rank (sbGroup s (s.opS 1 b).val) ∧ q.hdr.offset = off) ∧
  Sparse.get 0 t.tile.ni.seqOut (rank.toNat * 65536 + (sbGroup s (s.opS 1 b).val).toNat) = s.nextSeq rank (sbGroup s (s.opS 1 b).val) + 1

section
variable {s : State} {d : BitVec 4} {b : BitVec 5} {k : EKind} {rank : Rank} {len : Nat} {e : Ent}

/-- An entry whose first packet has left shows the operands, and the packet carries them. -/
theorem State.NewSend.entered_goes (hnew : s.NewSend b k rank len e) {ph : Phase} {r : Rec} (hr : r.source = e.rcd.source ∧ r.tag = e.rcd.tag ∧
      r.group = e.rcd.group) {kind hf : BitVec 8} {l : List Byte} {t : State}
    (ht : Leaves s { e with seq := some (s.nextSeq e.rank e.group), phase := ph, rcd := r }
      (e.firstPacket (s.rankOf s.tile.ep) (s.nextSeq e.rank e.group) kind hf l false) t) :
    t.tile.thr = s.tile.thr ∧ (Entered s d b rank k len (t.onRegs fun g => g.setH d.toNat (some s.tile.ni.nextId)) ph ∧
      Goes s b rank kind hf len l e.timeOffset (t.onRegs fun g => g.setH d.toNat (some s.tile.ni.nextId))) := by
  obtain ⟨hid, hkind, hrank, htag, hgroup, hlen, hnb, hrec, -⟩ := hnew
  obtain ⟨n, u, rfl, hu, hents, hnext, hseq⟩ := ht
  subst hkind hrank hlen
  rw [hrec] at hr
  refine ⟨rfl, ⟨_, enters_of_named (e := { e with seq := some (s.nextSeq e.rank e.group), phase := ph, rcd := r })
    hents hid hnext (RegsExcept.refl _ _) rfl rfl rfl, rfl, htag, hgroup, rfl, hnb, rfl, hr⟩,
    ⟨u, _, rfl, hu, rfl, rfl, rfl, rfl, htag, hgroup, rfl, rfl, rfl, ?_, rfl⟩, ?_⟩
  · show s.nextSeq e.rank e.group = _
    rw [hgroup]
  · rw [← hgroup]
    exact hseq

end

/-- The entry of SEND before what the other sends add. -/
def State.sendEnt (s : State) (b : BitVec 5) (k : EKind) (rank : Rank) (len : Nat) (buf : Buf) : Ent :=
  sendEntry rank (resolveDg (s.opS 1 b) (s.rdC crGROUP)).val len buf (s.blank k)

theorem State.sendEnt_new (s : State) (b : BitVec 5) (k : EKind) (rank : Rank) (len : Nat) (buf : Buf) :
    s.NewSend b k rank len (s.sendEnt b k rank len buf) where
  id := rfl
  kind := rfl
  dest := rfl
  tag := loWord_resolveDg _ _
  group := reqFlags_group _ _
  length := rfl
  nb := reqFlags_barrier _ _
  record := by
    rw [← loWord_resolveDg (s.opS 1 b) (s.rdC crGROUP), ← reqFlags_group]
    rfl
  seq := rfl
  pairWait := rfl
  retryAt := rfl
  poison := rfl
  dirty := rfl
  stays := rfl

/-! ### SEND, SENDR and SENDT (R264) -/

/-- The buffer that sc names; rank and length of sa. -/
def State.opBuf (s : State) (c : BitVec 5) : Buf := .store (s.opS 2 c).val.toNat s.tile.ranges
def State.opRank (s : State) (a : BitVec 5) : Rank := BitVec.ofNat 32 (s.opS 0 a).val.toNat
def State.opLen (s : State) (a : BitVec 5) : Nat := (s.opS 0 a).val.toNat / 2 ^ 32

/-- The request of SEND, SENDR or SENDT. -/
def State.sendQ (s : State) (a b c : BitVec 5) (k : EKind) (opcode : Nat) (third : Option Nat) (extra : List Word) (full : Bool)
    (f : Ent → Ent) : Req :=
  let o := s.nOps a b c
  { kind := k, opcode, full
    checks :=
      { names := nNames a b c, ops := [o.1, o.2.1, o.2.2], third
        first := firstOf [resCheck a.toNat o.1 3, resCheck c.toNat o.2.2 0]
        mem := if (hiWord o.1.val).toNat ≤ maxLen then [(o.2.2.val, (hiWord o.1.val).toNat)] else [] }
    limit := decide (maxLen < (hiWord o.1.val).toNat) || (reqFlags o.2.1.val).bad false false false
    fate := (s.sendFate (loWord o.1.val)).map (·.1)
    compare := some ([o.1.val, o.2.1.val] ++ extra)
    entry := fun e => f (sendEntry (loWord o.1.val) o.2.1.val (hiWord o.1.val).toNat (.store o.2.2.val.toNat s.tile.ranges) e) }

theorem State.sendReq_eq (s : State) (d : BitVec 4) (a b c : BitVec 5) (k : EKind) (opcode : Nat) (third : Option Nat) (extra : List Word)
    (full : Bool) (f : Ent → Ent) :
    s.sendReq d a b c k opcode third extra full f = s.request d (s.sendQ a b c k opcode third extra full f) := rfl

section
variable {s : State} {a b c : BitVec 5} {k : EKind} {opcode : Nat} {third : Option Nat} {extra : List Word} {full : Bool} {f : Ent → Ent}

theorem State.sendQ_entry : (s.sendQ a b c k opcode third extra full f).entry (s.blank (s.sendQ a b c k opcode third extra full f).kind) =
    f (s.sendEnt b k (s.opRank a) (s.opLen a) (s.opBuf c)) := by
  simp only [State.opRank, State.opLen, ← loWord_eq, ← hiWord_toNat]
  rfl

theorem State.sendQ_limit : (s.sendQ a b c k opcode third extra full f).limit = true ↔
    ¬sbLegal (s.opS 1 b).val false false false ∨ 16777215 < s.opLen a := by
  rw [← reqFlags_bad _ (s.rdC crGROUP), State.opLen, ← hiWord_toNat]
  show (decide (maxLen < (hiWord (s.opS 0 a).val).toNat) || (reqFlags (resolveDg (s.opS 1 b) (s.rdC crGROUP)).val).bad false false false) = true ↔ _
  rw [Bool.or_eq_true, decide_eq_true_eq]
  exact or_comm

theorem State.sendQ_fate : (s.sendQ a b c k opcode third extra full f).fate = (s.sendFate (s.opRank a)).map (·.1) := by
  rw [State.opRank, ← loWord_eq]
  rfl

theorem State.sendQ_passes (htable : s.tile.ni.full k = false) (ha : (s.opS 0 a).ok = true) (hc : (s.opS 2 c).ok = true)
    (hrange : s.opLen a ≤ 16777215 → s.tile.oor (s.opS 2 c).val (s.opLen a) = none) (hfull : full = false) :
    s.Passes (s.sendQ a b c k opcode third extra full f) where
  room := hfull
  table := htable
  first := by simp only [State.sendQ, State.nOps, resCheck_ok ha, resCheck_ok hc]; rfl
  mem := by
    simp only [State.sendQ, State.nOps, hiWord_toNat]
    split
    · next hlen => exact State.oorOf_one (hrange hlen)
    · rfl
  later := rfl

end

section
variable {s : State} (h : s.Issues) {a b c : BitVec 5}
include h

/-- What the interface reads of a buffer of a send that it is serving. -/
theorem State.Issues.readBuf_served {e : Ent} (hbuf : e.buf = s.opBuf c) (hdirty : e.dirty = []) (hkind : e.kind.receives = false)
    (hlen : e.len ≤ 2 ^ 64) (hrange : s.tile.oor (s.opS 2 c).val e.len = none) :
    (s.net ((s.tile.ni.push e).served e.id) s.torus).readBuf s.tile.ep e 0 e.len = (bytesAt s (s.opS 2 c).val e.len, false) :=
  State.Alone.readBuf_operand ((State.alone_net _ _).2 h.alone) hbuf hdirty hrange hlen
    (fun x => ⟨(Tile.unsettled_push (n := (s.tile.ni.push e).served e.id) rfl rfl hkind x).trans (h.quiet x).1, (h.quiet x).2⟩) h.unpoisoned.2

variable {d : BitVec 4} (hd : s.tile.thr.regs.getH d.toNat = none) {k : EKind} {opcode : Nat} {third : Option Nat} {extra : List Word}
  {full : Bool} {f : Ent → Ent} (hp : s.Passes (s.sendQ a b c k opcode third extra full f))
  (hnew : s.NewSend b k (s.opRank a) (s.opLen a) (f (s.sendEnt b k (s.opRank a) (s.opLen a) (s.opBuf c))))
include hd hp hnew

/-- A send that breaks a limit (R261, R367; log 100). -/
theorem State.sendReq_denied (hlimit : ¬sbLegal (s.opS 1 b).val false false false ∨ 16777215 < s.opLen a) :
    ∃ t, s.sendReq d a b c k opcode third extra full f = .next t ∧ Denied k d (s.opLen a % 2 ^ 24) s t := by
  have hentry : (s.sendQ a b c k opcode third extra full f).entry (s.blank k) = _ := State.sendQ_entry
  rw [← hentry] at hnew
  rw [State.sendReq_eq]
  exact State.request_denied h hd hp (State.sendQ_limit.2 hlimit) hnew.id hnew.kind hnew.stays hnew.length

variable (hlegal : sbLegal (s.opS 1 b).val false false false) (hlen : s.opLen a ≤ 16777215)
include hlegal hlen

omit h hd hp hnew in
theorem State.sendQ_legal : (s.sendQ a b c k opcode third extra full f).limit = false := by
  rw [← Bool.not_eq_true, State.sendQ_limit]
  exact not_or.2 ⟨not_not.2 hlegal, Nat.not_lt.2 hlen⟩

/-- A send whose destination ends it (R163, R264, R374). -/
theorem State.sendReq_ends {status : BitVec 8} {r : Bool} (hfate : s.sendFate (s.opRank a) = some (status, r)) :
    ∃ t, s.sendReq d a b c k opcode third extra full f = .next t ∧ EndsNext status.toNat k d (s.opLen a) s t := by
  have hentry : (s.sendQ a b c k opcode third extra full f).entry (s.blank k) = _ := State.sendQ_entry
  rw [← hentry] at hnew
  rw [State.sendReq_eq, ← hnew.length]
  exact State.request_ends h hd hp (State.sendQ_legal hlegal hlen) (by rw [State.sendQ_fate, hfate]; rfl) hnew.id hnew.kind hnew.stays

omit hnew in
/-- A send that goes on its way. -/
theorem State.sendReq_goes (hfate : s.sendFate (s.opRank a) = none) {u : State}
    (hu : (s.net (s.tile.ni.push (f (s.sendEnt b k (s.opRank a) (s.opLen a) (s.opBuf c)))) s.torus).launchEnt s.tile.ep s.tile.ni.nextId = u)
    (hthr : u.tile.thr = s.tile.thr) :
    s.sendReq d a b c k opcode third extra full f = .next (u.onRegs fun r => r.setH d.toNat (some s.tile.ni.nextId)) := by
  have hentry : (s.sendQ a b c k opcode third extra full f).entry (s.blank k) = _ := State.sendQ_entry
  rw [← hentry] at hu
  rw [State.sendReq_eq]
  exact State.request_goes h hd hp (State.sendQ_legal hlegal hlen) (by rw [State.sendQ_fate, hfate]; rfl) rfl ((State.alone_net _ _).2 h.alone) hu
    (by rw [hthr])

/-- A message that has its turn goes whole or as RTS (R92, R93, R96). -/
def Sent (s : State) (d : BitVec 4) (a b c : BitVec 5) (k : EKind) (hf : BitVec 8) (off : W32) (t : State) : Prop :=
  if s.opLen a ≤ (Sparse.get (512, 0) s.tile.ni.groups (sbGroup s (s.opS 1 b).val).toNat).1 ∨ s.opLen a = 0 then
    Entered s d b (s.opRank a) k (s.opLen a) t .awaitAck ∧
      Goes s b (s.opRank a) 0x01 (hf ||| 8) (s.opLen a) (bytesAt s (s.opS 2 c).val (s.opLen a)) off t
  else Entered s d b (s.opRank a) k (s.opLen a) t .awaitCts ∧ Goes s b (s.opRank a) 0x02 hf (s.opLen a) [] off t

theorem State.sendReq_sent (hr : Reachable s (s.opRank a)) (hk : k = .send ∨ k = .sendr ∨ k = .sendt)
    (hphase : (f (s.sendEnt b k (s.opRank a) (s.opLen a) (s.opBuf c))).phase = .queued)
    (hbuf : (f (s.sendEnt b k (s.opRank a) (s.opLen a) (s.opBuf c))).buf = s.opBuf c)
    (hrange : s.tile.oor (s.opS 2 c).val (s.opLen a) = none) :
    let e := f (s.sendEnt b k (s.opRank a) (s.opLen a) (s.opBuf c))
    ∃ t, s.sendReq d a b c k opcode third extra full f = .next t ∧ Sent s d a b c k e.hflags e.timeOffset t := by
  intro e
  have hsend : e.kind.isSend = true ∧ e.kind.receives = false ∧ e.kind ≠ .sendv ∧ e.kind ≠ .donew := by
    rw [hnew.kind]
    rcases hk with rfl | rfl | rfl <;> decide
  obtain ⟨hown, htile, hmap⟩ := hr
  have hm : e.MayLeave s := ⟨hsend.1, hnew.pairWait, hphase, hnew.retryAt, by rwa [hnew.dest], by rwa [hnew.dest]⟩
  have hgoes := fun u hu ht => State.sendReq_goes (u := u) h hd hp hlegal hlen (State.sendFate_reachable ⟨hown, htile, hmap⟩) hu ht
  by_cases hsmall : s.opLen a ≤ (Sparse.get (512, 0) s.tile.ni.groups (sbGroup s (s.opS 1 b).val).toNat).1 ∨ s.opLen a = 0
  · have hread := h.readBuf_served (e := e) hbuf hnew.dirty hsend.2.1 (by rw [hnew.length]; omega) (by rw [hnew.length]; exact hrange)
    have hleaves := h.launch_whole hnew.id hm hnew.seq (by rw [hnew.length, hnew.group]; tauto) hnew.poison hread
    obtain ⟨hthr, hdone⟩ := hnew.entered_goes (d := d) (r := e.rcd) ⟨rfl, rfl, rfl⟩ hleaves
    refine ⟨_, hgoes _ rfl hthr, ?_⟩
    rw [Sent, if_pos hsmall]
    rwa [hnew.length] at hdone
  · have hleaves := h.launch_rdv hnew.id hm hnew.seq (by rw [hnew.length, hnew.group]; omega) (by rw [hnew.length]; omega) hsend.2.2
    obtain ⟨hthr, hdone⟩ := hnew.entered_goes (d := d) (r := { e.rcd with flags := e.rcd.flags ||| recRdv, tstamp := s.stamp })
      ⟨rfl, rfl, rfl⟩ hleaves
    refine ⟨_, hgoes _ rfl hthr, ?_⟩
    rw [Sent, if_neg hsmall]
    exact hdone

end

/-! ### SENDV (R93, R264) -/

section
variable {s : State} (h : s.Issues) {d : BitVec 4} (hd : s.tile.thr.regs.getH d.toNat = none) (htable : s.tile.ni.full .send = false)
  (a b c : BitVec 5)

/-- The request of SENDV. -/
def State.sendvQ (s : State) (a b c : BitVec 5) : Req :=
  let x := s.opS 0 a
  let y := resolveDg (s.opS 1 b) (s.rdC crGROUP)
  { kind := .sendv, opcode := 0x04, store := false
    checks := { names := [.s a.toNat, .s b.toNat], ops := [x, y], regs := [.v c.toNat] }
    limit := (reqFlags y.val).bad false false false
    fate := (s.sendFate (loWord x.val)).map (·.1)
    compare := some [x.val, y.val]
    entry := sendEntry (loWord x.val) y.val 256 (.bytes (toLE 256 (s.rdV c).bits.toNat)) }

theorem execSendv_eq (s : State) (d : BitVec 4) (a b c : BitVec 5) : execSendv d a b c s = s.request d (s.sendvQ a b c) := rfl

/-- The entry of SENDV. -/
def State.sendvEnt (s : State) (a b c : BitVec 5) : Ent := s.sendEnt b .sendv (s.opRank a) 256 (.bytes (toLE 256 (s.rdV c).bits.toNat))

theorem State.sendvQ_entry (s : State) : (s.sendvQ a b c).entry (s.blank .sendv) = s.sendvEnt a b c := by
  simp only [State.sendvEnt, State.opRank, ← loWord_eq]
  rfl

include htable in
theorem State.sendvQ_passes : s.Passes (s.sendvQ a b c) := ⟨rfl, htable, rfl, rfl, rfl⟩

include h hd htable

/-- SENDV with a flag that it does not permit, or a reserved one. -/
theorem execSendv_denied (hlegal : ¬sbLegal (s.opS 1 b).val false false false) :
    ∃ t, execSendv d a b c s = .next t ∧ Denied .sendv d 256 s t :=
  State.request_denied h hd (State.sendvQ_passes htable a b c) ((reqFlags_bad _ _ _ _ _).2 hlegal) rfl rfl rfl rfl

/-- SENDV sends its 256 bytes whole, whatever the group's limit. -/
theorem execSendv_sends (hlegal : sbLegal (s.opS 1 b).val false false false) (hr : Reachable s (s.opRank a)) :
    ∃ t, execSendv d a b c s = .next t ∧ Entered s d b (s.opRank a) .sendv 256 t .awaitAck ∧
      Goes s b (s.opRank a) 0x01 8 256 (toLE 256 (s.rdV c).bits.toNat) 0 t := by
  have hnew : s.NewSend b .sendv (s.opRank a) 256 (s.sendvEnt a b c) := State.sendEnt_new _ _ _ _ _ _
  obtain ⟨hown, htile, hmap⟩ := hr
  have hm : (s.sendvEnt a b c).MayLeave s := ⟨rfl, rfl, rfl, rfl, hown, htile⟩
  have hread := State.readBuf_bytes (s := s.net ((s.tile.ni.push (s.sendvEnt a b c)).served (s.sendvEnt a b c).id) s.torus) (key := s.tile.ep)
    (e := s.sendvEnt a b c) (toLE 256 (s.rdV c).bits.toNat) rfl
  rw [show (toLE 256 (s.rdV c).bits.toNat).length = 256 by simp [toLE]] at hread
  have hleaves := h.launch_whole hnew.id hm hnew.seq (.inr (.inl rfl)) hnew.poison (l := toLE 256 (s.rdV c).bits.toNat) hread
  obtain ⟨hthr, hdone⟩ := hnew.entered_goes (d := d) (r := (s.sendvEnt a b c).rcd) ⟨rfl, rfl, rfl⟩ hleaves
  have hflags : (s.sendvEnt a b c).hflags = 0 := by simp [Ent.hflags, State.sendvEnt, State.sendEnt, sendEntry, State.blank, Ent.fresh]
  rw [hflags, show (0 ||| 8 : BitVec 8) = 8 from rfl, show (s.sendvEnt a b c).timeOffset = 0 from rfl] at hdone
  refine ⟨_, ?_, hdone⟩
  rw [← State.sendvQ_entry] at hthr ⊢
  exact State.request_goes h hd (State.sendvQ_passes htable a b c) (reqFlags_ok _ hlegal)
    (by
      have hfate : s.sendFate (loWord (s.opS 0 a).val) = none := by
        rw [loWord_eq]
        exact State.sendFate_reachable ⟨hown, htile, hmap⟩
      show (s.sendFate (loWord (s.opS 0 a).val)).map (·.1) = none
      rw [hfate]; rfl) rfl ((State.alone_net _ _).2 h.alone) rfl (congrArg (fun r : Thread => r.regs.getH d.toNat) hthr)

end

/-! ### SEND, SENDR and SENDT by name -/

section
variable {s : State} (h : s.Issues) {d : BitVec 4} (hd : s.tile.thr.regs.getH d.toNat = none) (htable : s.tile.ni.full .send = false)
  {a b c : BitVec 5}

/-- What SENDR and SENDT add to the entry of SEND (R103, R104). -/
def State.addRelease (s : State) (e : Ent) : Ent := { e with watch := (s.getNi s.tile.ep).unperformed }
def State.addTime (s : State) (e : Ent) : Ent :=
  let early := decide (s.time < (s.rdC crTSEND).toNat)
  { e with timed := true, tsend := some (s.rdC crTSEND), late := !early, phase := if early then .held else .queued }

/-- Whether SENDT finds no room among the held ones (R264). -/
def State.timedFull (s : State) : Bool :=
  decide (s.time < (s.rdC crTSEND).toNat) && decide (Config.timedMax ≤ (s.getNi s.tile.ep).heldTimed)

theorem execSendr_eq (s : State) : execSendr d a b c s = s.sendReq d a b c .sendr 0x02 none [] false s.addRelease := rfl
theorem execSendt_eq (s : State) :
    execSendt d a b c s = s.sendReq d a b c .sendt 0x03 (some crTSEND) [s.rdC crTSEND] s.timedFull s.addTime := rfl

theorem State.addRelease_new {k : EKind} {rank : Rank} {len : Nat} {e : Ent} (hnew : s.NewSend b k rank len e) :
    s.NewSend b k rank len (s.addRelease e) := { hnew with }
theorem State.addTime_new {k : EKind} {rank : Rank} {len : Nat} {e : Ent} (hnew : s.NewSend b k rank len e) :
    s.NewSend b k rank len (s.addTime e) := { hnew with }

include h in
theorem State.Issues.timedFull_false (hheld : s.time < (s.rdC crTSEND).toNat → s.tile.ni.heldTimed < 16) : s.timedFull = false := by
  rw [State.timedFull, h.alone.getNi]
  by_contra hfull
  simp only [Bool.not_eq_false, Bool.and_eq_true, decide_eq_true_eq] at hfull
  have := hheld hfull.1
  simp only [Config.timedMax] at hfull
  omega

variable (hlegal : sbLegal (s.opS 1 b).val false false false) (hlen : s.opLen a ≤ 16777215) (ha : (s.opS 0 a).ok = true)
  (hc : (s.opS 2 c).ok = true) (hrange : s.tile.oor (s.opS 2 c).val (s.opLen a) = none)
include h hd htable hlegal hlen ha hc hrange

/-- A SENDT whose time has not come is held, and nothing leaves (R104). -/
theorem execSendt_holds (hr : Reachable s (s.opRank a)) (hearly : s.time < (s.rdC crTSEND).toNat) (hheld : s.tile.ni.heldTimed < 16) :
    ∃ t, execSendt d a b c s = .next t ∧ Entered s d b (s.opRank a) .sendt (s.opLen a) t .held ∧ t.torus = s.torus := by
  let e := s.addTime (s.sendEnt b .sendt (s.opRank a) (s.opLen a) (s.opBuf c))
  have hnew : s.NewSend b .sendt (s.opRank a) (s.opLen a) e := State.addTime_new (State.sendEnt_new _ _ _ _ _ _)
  have hphase : e.phase = .held := by simp [e, State.addTime, hearly]
  have hstays : (s.net (s.tile.ni.push e) s.torus).pump s.tile.ep = s.net (s.tile.ni.push e) s.torus := by
    refine State.Alone.pump_idle ((State.alone_net _ _).2 h.alone) fun x hx => ?_
    rcases List.mem_append.1 hx with hx | hx
    · exact h.idle x hx
    · rw [List.mem_singleton.1 hx, hphase]
      exact ⟨by decide, rfl⟩
  have hlaunch := h.launch_send hnew.id (by rw [hnew.kind]; rfl) hnew.pairWait (by rw [hphase]; decide)
  refine ⟨_, State.sendReq_goes (k := .sendt) (f := s.addTime) h hd
    (State.sendQ_passes htable ha hc (fun _ => hrange) (h.timedFull_false fun _ => hheld)) hlegal hlen
    (State.sendFate_reachable hr) (hlaunch.trans hstays) rfl, ⟨e, enters_of_named rfl hnew.id rfl (RegsExcept.refl _ _) rfl rfl rfl, hnew.dest,
      hnew.tag, hnew.group, hnew.length, hnew.nb, hphase, ?_⟩, rfl⟩
  rw [hnew.record]
  exact ⟨rfl, rfl, rfl⟩

/-- The three sends that go at once. -/
theorem execSend_sends (hr : Reachable s (s.opRank a)) : ∃ t, execSend d a b c s = .next t ∧ Sent s d a b c .send 0 0 t := by
  have hflags : (s.sendEnt b .send (s.opRank a) (s.opLen a) (s.opBuf c)).hflags = 0 := by
    simp [Ent.hflags, State.sendEnt, sendEntry, State.blank, Ent.fresh]
  have hsent := State.sendReq_sent (f := id) (opcode := 0x01) (third := none) (extra := []) h hd
    (State.sendQ_passes htable ha hc (fun _ => hrange) rfl) (State.sendEnt_new _ _ _ _ _ _) hlegal hlen hr (.inl rfl) rfl rfl hrange
  simp only [id_eq, hflags] at hsent
  exact hsent

theorem execSendr_sends (hr : Reachable s (s.opRank a)) : ∃ t, execSendr d a b c s = .next t ∧ Sent s d a b c .sendr 2 0 t := by
  have hflags : (s.addRelease (s.sendEnt b .sendr (s.opRank a) (s.opLen a) (s.opBuf c))).hflags = 2 := by
    simp [Ent.hflags, State.addRelease, State.sendEnt, sendEntry, State.blank, Ent.fresh, hfRELPEND]
  have hsent := State.sendReq_sent (k := .sendr) (f := s.addRelease) (opcode := 0x02) (third := none) (extra := []) h hd
    (State.sendQ_passes htable ha hc (fun _ => hrange) rfl) (State.addRelease_new (State.sendEnt_new _ _ _ _ _ _)) hlegal hlen hr
    (.inr (.inl rfl)) rfl rfl hrange
  simp only [hflags] at hsent
  exact hsent

theorem execSendt_sends (hr : Reachable s (s.opRank a)) (hnow : (s.rdC crTSEND).toNat ≤ s.time) :
    ∃ t, execSendt d a b c s = .next t ∧ Sent s d a b c .sendt 1 (BitVec.ofNat 32 (s.rdC crTSEND).toNat) t := by
  have hearly : ¬s.time < (s.rdC crTSEND).toNat := Nat.not_lt.2 hnow
  have hflags : (s.addTime (s.sendEnt b .sendt (s.opRank a) (s.opLen a) (s.opBuf c))).hflags = 1 := by
    simp [Ent.hflags, State.addTime, State.sendEnt, sendEntry, State.blank, Ent.fresh, hfTIMED]
  have hoffset : (s.addTime (s.sendEnt b .sendt (s.opRank a) (s.opLen a) (s.opBuf c))).timeOffset =
      BitVec.ofNat 32 (s.rdC crTSEND).toNat := loWord_eq _
  have hsent := State.sendReq_sent (k := .sendt) (f := s.addTime) (opcode := 0x03) (third := some crTSEND) (extra := [s.rdC crTSEND]) h hd
    (State.sendQ_passes htable ha hc (fun _ => hrange) (h.timedFull_false fun he => absurd he hearly))
    (State.addTime_new (State.sendEnt_new _ _ _ _ _ _)) hlegal hlen hr (.inr (.inr rfl)) (by simp [State.addTime, hearly]) rfl hrange
  simp only [hflags, hoffset] at hsent
  exact hsent

end

/-! ### Where a send cannot go (R163, R264, R374) -/

section
variable {s : State} {r : Rank}

theorem State.sendFate_unreachable (hr : rankEp r < 0x400 ∧ s.ownPkg r = true ∧ rankEp r ∈ s.mgmt.harvest ∨ 0x400 ≤ rankEp r ∧ rankEp r < 0x4C0 ∨
    0x4C4 ≤ rankEp r ∧ rankEp r < 0x500 ∨ 0x540 ≤ rankEp r) : ∃ b, s.sendFate r = some (0x07, b) := by
  rcases hr with ⟨htile, hown, hmap⟩ | hr
  · have h1 : ¬0x400 ≤ rankEp r := by omega
    have h2 : ¬Config.haloEp < rankEp r := by simp only [Config.haloEp]; omega
    have h3 : ¬0x540 ≤ rankEp r := by omega
    exact ⟨true, by simp [State.sendFate, hown, htile, h1, h2, h3, hmap, stUNREACHABLE]⟩
  · refine ⟨false, ?_⟩
    rw [State.sendFate, if_pos]
    · rfl
    · simp only [Bool.or_eq_true, Bool.and_eq_true, decide_eq_true_eq]
      simp only [Config.placerEp, Config.haloEp]
      omega

theorem State.sendFate_denied (hep : rankEp r = 0x4C3) (hown : s.ownPkg r = false) : s.sendFate r = some (0x09, false) := by
  simp [State.sendFate, hep, hown, Config.placerEp, Config.haloEp, stDENIED]

end

/-! ### O30 -/

/-- Settles O30: each send by whether its entry leaves, is held, or ends in the next step. -/
theorem sendInstructions : Obligations.SendInstructions := by
  unfold Obligations.SendInstructions
  intro d a b c s hready hd htable x y p rank len tag group limit seq data entered goes sent
  have h := issues_of_netReady hready
  refine ⟨fun hown htile hmap hlegal => ⟨?_, fun ha hc hlen hrange => ⟨?_, ?_, fun hnow => ?_, fun hearly hheld => ?_⟩⟩,
    fun hlegal ha hc hlen hrange => ⟨fun hr => ?_, fun hep hown => ?_⟩, fun hlegal => ?_, fun hlimit ha hc hrange => ⟨?_, ?_, fun hheld => ?_⟩⟩
  · exact execSendv_sends h hd htable a b c hlegal ⟨hown, htile, hmap⟩
  · exact execSend_sends h hd htable hlegal hlen ha hc hrange ⟨hown, htile, hmap⟩
  · exact execSendr_sends h hd htable hlegal hlen ha hc hrange ⟨hown, htile, hmap⟩
  · exact execSendt_sends h hd htable hlegal hlen ha hc hrange ⟨hown, htile, hmap⟩ hnow
  · exact execSendt_holds h hd htable hlegal hlen ha hc hrange ⟨hown, htile, hmap⟩ hearly hheld
  · obtain ⟨r, hfate⟩ := State.sendFate_unreachable hr
    exact State.sendReq_ends (f := id) h hd (State.sendQ_passes htable ha hc (fun _ => hrange) rfl) (State.sendEnt_new _ _ _ _ _ _) hlegal hlen hfate
  · exact State.sendReq_ends (f := id) h hd (State.sendQ_passes htable ha hc (fun _ => hrange) rfl) (State.sendEnt_new _ _ _ _ _ _) hlegal hlen
      (State.sendFate_denied hep hown)
  · exact execSendv_denied h hd htable a b c hlegal
  · exact State.sendReq_denied (f := id) h hd (State.sendQ_passes htable ha hc hrange rfl) (State.sendEnt_new _ _ _ _ _ _) hlimit
  · exact State.sendReq_denied (k := .sendr) (f := s.addRelease) h hd (State.sendQ_passes htable ha hc hrange rfl)
      (State.addRelease_new (State.sendEnt_new _ _ _ _ _ _)) hlimit
  · exact State.sendReq_denied (k := .sendt) (f := s.addTime) h hd (State.sendQ_passes htable ha hc hrange (h.timedFull_false fun _ => hheld))
      (State.addTime_new (State.sendEnt_new _ _ _ _ _ _)) hlimit

end Sys2Proof.Machine
end

section
/-!
Posts, contrails and subscriptions (R87, R100, R102, R105, R265, R273): what a new receive finds in an empty unexpected store, the anvil operand,
and the proof of O31.
-/
namespace Sys2Proof.Machine

open Sys2Proof.Safety

theorem exec_post (d : BitVec 4) (a b c : BitVec 5) (s : State) : exec (.post d a b c) s = execPost d a b c s := rfl
theorem exec_postm (d : BitVec 4) (a b c : BitVec 5) (s : State) : exec (.postm d a b c) s = execPostm d a b c s := rfl
theorem exec_posta (d : BitVec 4) (a b c : BitVec 5) (s : State) : exec (.posta d a b c) s = execPosta d a b c s := rfl
theorem exec_publ (d : BitVec 4) (a b c : BitVec 5) (s : State) : exec (.publ d a b c) s = execPubl d a b c s := rfl
theorem exec_subs (d : BitVec 4) (a b c : BitVec 5) (s : State) : exec (.subs d a b c) s = execSubs d a b c s := rfl

/-! ### The anvil operand (R155, R183, R368) -/

/-- The region register that sc names, the offset in it, and the region's bytes. -/
def State.opAb (s : State) (c : BitVec 5) : Nat := (s.cr (0x0D8 + (s.opS 2 c).val.toNat / 2 ^ 32 % 8)).toNat
def State.opOff (s : State) (c : BitVec 5) : Nat := (s.opS 2 c).val.toNat % 2 ^ 22
def State.opSize (s : State) (c : BitVec 5) : Nat := s.opAb c / 2 ^ 16 % 128 * 65536

/-- sc names an offset inside a region of the tile's partition. -/
def State.InAnvil (s : State) (c : BitVec 5) : Prop :=
  (s.opS 2 c).val &&& 0xFFFFFFF8FFC00000 = 0 ∧ s.partOf s.tile.ep = some (s.opAb c / 2 ^ 32 % 64) ∧ s.opOff c < s.opSize c

/-- The anvil buffer that sc names. -/
def State.opAnvil (s : State) (c : BitVec 5) : Buf := .anvil ((s.opS 2 c).val.toNat / 2 ^ 32 % 8) (s.opOff c)

section
variable {s : State} {c : BitVec 5}

theorem anvilOperand_region (x : Word) : (anvilOperand x).region = x.toNat / 2 ^ 32 % 8 := by
  show (x.extractLsb' 32 3).toNat = _
  rw [BitVec.extractLsb'_toNat, Nat.shiftRight_eq_div_pow]

theorem anvilOperand_off (x : Word) : (anvilOperand x).off = x.toNat % 2 ^ 22 := by
  show (x.extractLsb' 0 22).toNat = _
  rw [BitVec.extractLsb'_toNat, Nat.shiftRight_zero]

theorem State.opAnvil_eq (s : State) (c : BitVec 5) :
    s.opAnvil c = .anvil (anvilOperand (s.opS 2 c).val).region (anvilOperand (s.opS 2 c).val).off := by
  rw [anvilOperand_region, anvilOperand_off]
  rfl

/-- The checks of an anvil buffer pass. -/
theorem State.InAnvil.anvilBuf (h : s.InAnvil c) {n : Nat} (hn : s.opOff c + n ≤ s.opSize c) :
    s.anvilBuf (anvilOperand (s.opS 2 c).val) n = none := by
  obtain ⟨hbits, hpart, hoff⟩ := h
  have hbad : (anvilOperand (s.opS 2 c).val).bad = false := decide_eq_false (not_not.2 hbits)
  have hab : s.cr (crAB0 + (anvilOperand (s.opS 2 c).val).region) = s.cr (0x0D8 + (s.opS 2 c).val.toNat / 2 ^ 32 % 8) := by
    rw [anvilOperand_region]; rfl
  have howner : abOwner (s.cr (0x0D8 + (s.opS 2 c).val.toNat / 2 ^ 32 % 8)) = s.opAb c / 2 ^ 32 % 64 := by
    rw [abOwner, BitVec.extractLsb'_toNat, Nat.shiftRight_eq_div_pow]; rfl
  have hsize : abSize (s.cr (0x0D8 + (s.opS 2 c).val.toNat / 2 ^ 32 % 8)) * 65536 = s.opSize c := by
    rw [abSize, BitVec.extractLsb'_toNat, Nat.shiftRight_eq_div_pow]; rfl
  have hfits : ¬(s.opSize c ≤ s.opOff c ∨ s.opSize c < s.opOff c + n) := by omega
  have hoffset : (anvilOperand (s.opS 2 c).val).off = s.opOff c := anvilOperand_off _
  simp only [State.anvilBuf, hbad, hab, howner, hsize, hpart, hoffset, hfits, Bool.false_eq_true, if_false, ne_eq, not_true_eq_false,
    Bool.or_eq_true, decide_eq_true_eq]

end

/-! ### The entry of a receive (R87, R265) -/

/-- What a receive enters; a mailbox has pool units for its hold copy. -/
def State.recvEnt (s : State) (a b : BitVec 5) (k : EKind) (buf : Buf) (us : List Nat) : Ent :=
  { recvEntry (s.opS 0 a).val (resolveDg (s.opS 1 b) (s.rdC crGROUP)).val (s.rdC crTAGMASK) buf (s.blank k) with units := us }

/-- The entry as the obligation on posts describes it. -/
def Posted (s : State) (d : BitVec 4) (a b : BitVec 5) (k : EKind) (buf : Buf) (t : State) (e : Ent) : Prop :=
  Enters k d [] s t e ∧ e.phase = .posted ∧ e.rank = s.opRank a ∧ e.any = (s.opS 1 b).val.getLsbD 56 ∧
    e.tag = BitVec.ofNat 32 (s.opS 1 b).val.toNat ∧ e.mask = BitVec.ofNat 32 (s.rdC 0x015).toNat ∧ e.group = sbGroup s (s.opS 1 b).val ∧
    e.nb = sbBarrier (s.opS 1 b).val ∧ e.len = s.opLen a ∧ e.buf = buf ∧ t.torus = s.torus

/-- A receive that finds nothing is entered with its operands. -/
theorem posted_of_push {s : State} {d : BitVec 4} {a b : BitVec 5} {k : EKind} {buf : Buf} (us : List Nat) :
    Posted s d a b k buf
      ((s.net (s.tile.ni.push (s.recvEnt a b k buf us)) s.torus).onRegs fun r => r.setH d.toNat (some s.tile.ni.nextId))
      (s.recvEnt a b k buf us) :=
  ⟨enters_of_named rfl rfl rfl (RegsExcept.refl _ _) rfl rfl rfl, rfl, loWord_eq _, reqFlags_any _ _, loWord_resolveDg _ _, loWord_eq _,
    reqFlags_group _ _, reqFlags_barrier _ _, hiWord_toNat _, rfl, rfl⟩

section
variable {s : State} (h : s.Issues) (hunexp : s.tile.ni.unexp = [])
include h hunexp

/-- A new receive finds nothing in an empty store (R89, R100). -/
theorem State.Issues.search_empty {e : Ent} (hid : e.id = s.tile.ni.nextId) (hbox : e.boxq = []) (hclosing : e.closing = false) :
    (s.net (s.tile.ni.push e) s.torus).search s.tile.ni.nextId = s.net (s.tile.ni.push e) s.torus := by
  have halone : (s.net (s.tile.ni.push e) s.torus).Alone s.tile.ep := (State.alone_net _ _).2 h.alone
  have hent : (s.net (s.tile.ni.push e) s.torus).ent s.tile.ep s.tile.ni.nextId = some e := by
    rw [halone.ent, ← hid]
    exact Ni.push_ent (h.newId' hid)
  have hoffered : (s.tile.ni.push e).offered = [] := by
    show s.tile.ni.unexp.filter _ = []
    rw [hunexp]
    rfl
  have hsearch : (s.net (s.tile.ni.push e) s.torus).search s.tile.ni.nextId =
      (s.net (s.tile.ni.push e) s.torus).postSearch s.tile.ep s.tile.ni.nextId := by
    rw [State.search]
    exact if_neg (by rw [show (s.net (s.tile.ni.push e) s.torus).tile.ep = s.tile.ep from rfl, halone.trailing]; decide)
  have hmap : ({ e with boxq := [] } : Ent) = e := by rw [← hbox]
  have hkept : { s.tile.ni.push e with unexp := (s.tile.ni.push e).unexp.filter fun u => u.waits || !e.fits u.hdr } = s.tile.ni.push e := by
    have hstore : (s.tile.ni.push e).unexp = [] := hunexp
    have hsame : ((s.tile.ni.push e).unexp.filter fun u => u.waits || !e.fits u.hdr) = (s.tile.ni.push e).unexp := by rw [hstore]; rfl
    rw [hsame]
  have hgo : (s.net (s.tile.ni.push e) s.torus).boxGo s.tile.ep s.tile.ni.nextId = s.net (s.tile.ni.push e) s.torus := by
    simp only [State.boxGo, hent, hbox, List.length_nil, State.boxTake, hclosing]
    simp
  rw [hsearch]
  simp only [State.postSearch, hent, halone.getNi, State.net_tile, hoffered, List.filter_nil, List.map_nil, List.find?_nil, halone.modNi, hkept]
  split
  · rw [State.Alone.modEnt (key := s.tile.ep) (by simpa using h.alone), ← hid]
    simp only [State.net_tile, State.net_net, State.net_torus]
    rw [Ni.push_modEnt (h.newId' hid), hmap, hid, hgo]
  · rfl

end

/-! ### POST, POSTM and POSTA (R100, R102, R265) -/

theorem firstOf_one {x : Option (Nat × Word)} (h : x = none) : firstOf [x] = none := by rw [h]; rfl

/-- The residues of sa and sc pass, and so do the checks after them. -/
theorem firstOf_operands {s : State} {a c : BitVec 5} (ha : (s.opS 0 a).ok = true) (hc : (s.opS 2 c).ok = true) {l : List (Option (Nat × Word))}
    (hl : firstOf l = none) : firstOf (resCheck a.toNat (s.opS 0 a) 3 :: resCheck c.toNat (s.opS 2 c) 0 :: l) = none := by
  rw [resCheck_ok ha, resCheck_ok hc]
  exact hl

/-- A buffer in the tile store is checked where its length is legal. -/
theorem State.oorOf_ite {s : State} {p : Word} {n : Nat} {P : Prop} [Decidable P] (h : P → s.tile.oor p n = none) :
    s.oorOf (if P then [(p, n)] else []) = none := by
  split
  · next hg => exact State.oorOf_one (h hg)
  · rfl

/-- Units that a pool gives are as many as asked for, and nobody has them. -/
theorem State.allot_spec {s : State} {key n : Nat} {l : List Nat} (h : s.allot key n = some l) :
    l.length = n ∧ ∀ u ∈ l, u ∉ (s.getNi key).usedUnits := by
  simp only [State.allot] at h
  split at h
  · next hn =>
    obtain rfl := Option.some.inj h
    refine ⟨by rw [List.length_take, Nat.min_eq_left hn], fun u hu => ?_⟩
    have := List.of_mem_filter (List.mem_of_mem_take hu)
    simpa using this
  · exact nomatch h

section
variable {s : State} (h : s.Issues) {d : BitVec 4} (hd : s.tile.thr.regs.getH d.toNat = none) (htable : s.tile.ni.full .post = false)
  (hunexp : s.tile.ni.unexp = []) {a b c : BitVec 5}

/-- A receive that keeps the limits posts its entry. -/
theorem State.request_posts (h : s.Issues) (hd : s.tile.thr.regs.getH d.toNat = none) (hunexp : s.tile.ni.unexp = []) {q : Req} {buf : Buf}
    {us : List Nat} (hp : s.Passes q) (hlimit : q.limit = false) (hfate : q.fate = none) (hcompare : q.compare = none)
    (hentry : q.entry (s.blank q.kind) = s.recvEnt a b q.kind buf us) (hafter : q.after = fun s id => s.search id) :
    ∃ t, s.request d q = .next t ∧ Posted s d a b q.kind buf t (s.recvEnt a b q.kind buf us) := by
  refine ⟨_, State.request_goes h hd hp hlimit hfate (t := s.net (s.tile.ni.push (q.entry (s.blank q.kind))) s.torus) ?_
    (u := s.net (s.tile.ni.push (q.entry (s.blank q.kind))) s.torus) ((State.alone_net _ _).2 h.alone) (by rw [hcompare]; rfl) rfl, ?_⟩
  · rw [hafter, hentry]
    exact h.search_empty hunexp rfl rfl rfl
  · rw [hentry]
    exact posted_of_push us

variable (ha : (s.opS 0 a).ok = true) (hc : (s.opS 2 c).ok = true)

/-- Whether a request's flags or its length break a limit. -/
theorem limit_iff {x : Word} {P : Prop} {bad : Bool} (hbad : bad = true ↔ P) :
    (decide (maxLen < (hiWord x).toNat) || bad) = true ↔ P ∨ 16777215 < x.toNat / 2 ^ 32 := by
  rw [Bool.or_eq_true, decide_eq_true_eq, hbad, hiWord_toNat]
  exact or_comm

theorem limit_false {x : Word} {bad : Bool} (hbad : bad = false) (hlen : x.toNat / 2 ^ 32 ≤ 16777215) :
    (decide (maxLen < (hiWord x).toNat) || bad) = false := by
  rw [Bool.or_eq_false_iff, decide_eq_false_iff_not, hiWord_toNat]
  exact ⟨Nat.not_lt.2 hlen, hbad⟩

section
variable (hrange : s.opLen a ≤ 16777215 → s.tile.oor (s.opS 2 c).val (s.opLen a) = none)
include h hd htable ha hc hrange

theorem execPost_denied (hlimit : ¬sbLegal (s.opS 1 b).val true false false ∨ 16777215 < s.opLen a) :
    ∃ t, execPost d a b c s = .next t ∧ Denied .post d (s.opLen a % 2 ^ 24) s t := by
  refine State.request_denied h hd ⟨rfl, htable, firstOf_operands ha hc rfl, State.oorOf_ite fun hg => ?_, rfl⟩ ?_ rfl rfl rfl
    (hiWord_toNat _)
  · rw [State.opLen, ← hiWord_toNat] at hrange
    exact hrange hg
  · exact (limit_iff (reqFlags_bad _ _ _ _ _)).2 hlimit

include hunexp in
theorem execPost_posts (hlegal : sbLegal (s.opS 1 b).val true false false) (hlen : s.opLen a ≤ 16777215) :
    ∃ t, execPost d a b c s = .next t ∧ Posted s d a b .post (s.opBuf c) t (s.recvEnt a b .post (s.opBuf c) []) := by
  refine State.request_posts h hd hunexp ⟨rfl, htable, firstOf_operands ha hc rfl, State.oorOf_ite fun hg => ?_, rfl⟩
    (limit_false (reqFlags_ok _ hlegal) hlen) rfl rfl rfl rfl
  rw [hiWord_toNat]
  exact hrange hlen

end

section
variable (hin : s.InAnvil c)
include h hd htable ha hc hin

/-- An offset inside the region passes the checks of POSTA. -/
theorem execPosta_denied (hlimit : ¬sbLegal (s.opS 1 b).val true false false ∨ 16777215 < s.opLen a) :
    ∃ t, execPosta d a b c s = .next t ∧ Denied .posta d (s.opLen a % 2 ^ 24) s t :=
  State.request_denied h hd ⟨rfl, htable, firstOf_operands ha hc (firstOf_one (hin.anvilBuf hin.2.2.le)), rfl, rfl⟩
    ((limit_iff (reqFlags_bad _ _ _ _ _)).2 hlimit) rfl rfl rfl (hiWord_toNat _)

include hunexp in
theorem execPosta_posts (hlegal : sbLegal (s.opS 1 b).val true false false) (hlen : s.opLen a ≤ 16777215) :
    ∃ t, execPosta d a b c s = .next t ∧ Posted s d a b .posta (s.opAnvil c) t (s.recvEnt a b .posta (s.opAnvil c) []) := by
  rw [State.opAnvil_eq]
  exact State.request_posts h hd hunexp ⟨rfl, htable, firstOf_operands ha hc (firstOf_one (hin.anvilBuf hin.2.2.le)), rfl, rfl⟩
    (limit_false (reqFlags_ok _ hlegal) hlen) rfl rfl rfl rfl

end

theorem mailbox_limit {ok bad : Bool} {l : Option (List Nat)} {us : List Nat} (hok : ok = true) (hl : l = some us) (hbad : bad = false) :
    (!ok || l.isNone || bad) = false := by
  simp [hok, hl, hbad]

theorem mailbox_entry {s : State} {a b : BitVec 5} {buf : Buf} {ok bad : Bool} {l : Option (List Nat)} {us : List Nat} (hok : ok = true)
    (hl : l = some us) (hbad : bad = false) :
    { recvEntry (s.opS 0 a).val (resolveDg (s.opS 1 b) (s.rdC crGROUP)).val (s.rdC crTAGMASK) buf (s.blank .postm) with
      units := if ok && !bad then l.getD [] else [] } = s.recvEnt a b .postm buf us := by
  subst hok hl hbad
  rfl

section
variable (hrange : 1 ≤ s.opLen a → s.opLen a ≤ 2048 → s.tile.oor (s.opS 2 c).val (s.opLen a) = none)
include h hd htable ha hc hrange

theorem execPostm_denied (hlimit : ¬sbLegal (s.opS 1 b).val true false false ∨ s.opLen a = 0 ∨ 2048 < s.opLen a ∨
      s.allot s.tile.ep ((s.opLen a + 63) / 64) = none) :
    ∃ t, execPostm d a b c s = .next t ∧ Denied .postm d (s.opLen a % 2 ^ 24) s t := by
  refine State.request_denied h hd ⟨rfl, htable, firstOf_operands ha hc rfl, State.oorOf_ite fun hg => ?_, rfl⟩ ?_ rfl rfl rfl
    (hiWord_toNat _)
  · simp only [State.nOps, hiWord_toNat, Bool.and_eq_true, decide_eq_true_eq] at hg ⊢
    exact hrange hg.1 hg.2
  · have hbad := reqFlags_bad (s.opS 1 b) (s.rdC crGROUP) true false false
    rw [State.opLen] at hlimit
    simp only [State.nOps, hiWord_toNat, Bool.or_eq_true, Bool.not_eq_true', Bool.and_eq_false_iff, decide_eq_false_iff_not, hbad,
      Option.isNone_iff_eq_none, unitsOf]
    rcases hlimit with hflag | hzero | hlong | hpool
    · exact .inr hflag
    · exact .inl (.inl (.inl (by omega)))
    · exact .inl (.inl (.inr (by omega)))
    · exact .inl (.inr hpool)

include hunexp in
/-- A mailbox that the pool has room for is posted with its hold copy's units. -/
theorem execPostm_posts (hlegal : sbLegal (s.opS 1 b).val true false false) (hpos : 1 ≤ s.opLen a) (hlen : s.opLen a ≤ 2048) {us : List Nat}
    (hus : s.allot s.tile.ep ((s.opLen a + 63) / 64) = some us) :
    ∃ t, execPostm d a b c s = .next t ∧ Posted s d a b .postm (s.opBuf c) t (s.recvEnt a b .postm (s.opBuf c) us) := by
  have hflags := reqFlags_ok (s.rdC crGROUP) hlegal
  have hunits : s.allot s.tile.ep (unitsOf (hiWord (s.opS 0 a).val).toNat) = some us := by rw [hiWord_toNat]; exact hus
  have hok : (decide (1 ≤ (hiWord (s.opS 0 a).val).toNat) && decide ((hiWord (s.opS 0 a).val).toNat ≤ 2048)) = true := by
    rw [hiWord_toNat, Bool.and_eq_true, decide_eq_true_eq, decide_eq_true_eq]
    exact ⟨hpos, hlen⟩
  refine State.request_posts h hd hunexp ⟨rfl, htable, firstOf_operands ha hc rfl, State.oorOf_ite fun hg => ?_, rfl⟩ ?_ rfl rfl ?_ rfl
  · rw [hiWord_toNat]
    exact hrange hpos hlen
  · exact mailbox_limit hok hunits hflags
  · exact mailbox_entry hok hunits hflags

end

end

/-! ### PUBL and SUBS (R105, R273) -/

/-- The buffer of a contrail or subscription: with ANV an anvil address. -/
def State.trailBuf (s : State) (b c : BitVec 5) : Buf := if (s.opS 1 b).val.getLsbD 53 then s.opAnvil c else s.opBuf c

/-- The entry of PUBL or SUBS. -/
def State.trailEnt (s : State) (k : EKind) (b c : BitVec 5) (rank : Rank) (len : Nat) (ph : Phase) : Ent :=
  { s.sendEnt b k rank len (s.trailBuf b c) with phase := ph }

/-- The buffer of PUBL or SUBS passes its checks; `n` bytes have to fit in a region. -/
structure State.TrailFits (s : State) (a b c : BitVec 5) (n : Nat) : Prop where
  anvil : (s.opS 1 b).val.getLsbD 53 = true → s.InAnvil c ∧ s.opOff c + n ≤ s.opSize c
  store : (s.opS 1 b).val.getLsbD 53 = false → s.opLen a ≤ 16777215 → s.tile.oor (s.opS 2 c).val (s.opLen a) = none

section
variable {s : State} {a b c : BitVec 5} {n : Nat}

theorem State.trailBuf_eq (s : State) (b c : BitVec 5) :
    (if (reqFlags (resolveDg (s.opS 1 b) (s.rdC crGROUP)).val).anv then
      .anvil (anvilOperand (s.opS 2 c).val).region (anvilOperand (s.opS 2 c).val).off else .store (s.opS 2 c).val.toNat s.tile.ranges) =
    s.trailBuf b c := by
  rw [reqFlags_anv, State.trailBuf, State.opAnvil_eq]
  rfl

/-- The entry as PUBL and SUBS make it. -/
theorem State.trailEnt_eq (s : State) (k : EKind) (a b c : BitVec 5) (rank : Rank) (ph : Phase) :
    { sendEntry rank (resolveDg (s.opS 1 b) (s.rdC crGROUP)).val (hiWord (s.opS 0 a).val).toNat
        (if (reqFlags (resolveDg (s.opS 1 b) (s.rdC crGROUP)).val).anv then
          .anvil (anvilOperand (s.opS 2 c).val).region (anvilOperand (s.opS 2 c).val).off else .store (s.opS 2 c).val.toNat s.tile.ranges)
        (s.blank k) with phase := ph } = s.trailEnt k b c rank (s.opLen a) ph := by
  rw [State.trailBuf_eq, hiWord_toNat]
  rfl

theorem State.TrailFits.anvilCheck (h : s.TrailFits a b c n) :
    firstOf [if (reqFlags (resolveDg (s.opS 1 b) (s.rdC crGROUP)).val).anv then s.anvilBuf (anvilOperand (s.opS 2 c).val) n else none] = none := by
  rw [reqFlags_anv]
  split
  · next hanv =>
    obtain ⟨hin, hfits⟩ := h.anvil hanv
    exact firstOf_one (hin.anvilBuf hfits)
  · rfl

theorem State.TrailFits.storeCheck (h : s.TrailFits a b c n) :
    s.oorOf (if decide ((hiWord (s.opS 0 a).val).toNat ≤ maxLen) && !(reqFlags (resolveDg (s.opS 1 b) (s.rdC crGROUP)).val).anv then
      [((s.opS 2 c).val, (hiWord (s.opS 0 a).val).toNat)] else []) = none := by
  refine State.oorOf_ite fun hg => ?_
  rw [Bool.and_eq_true, decide_eq_true_eq, Bool.not_eq_true', reqFlags_anv, hiWord_toNat] at hg
  rw [hiWord_toNat]
  exact h.store hg.2 hg.1

end

/-- A change that no entry of that number shows changes nothing. -/
theorem Ni.modEnt_same {n : Ni} {id : Nat} {f : Ent → Ent} (h : ∀ x ∈ n.ents, x.id = id → f x = x) : n.modEnt id f = n := by
  have hents : (n.modEnt id f).ents = n.ents := by
    rw [Ni.modEnt_ents]
    refine (List.map_congr_left fun x hx => ?_).trans n.ents.map_id
    split
    · next hid => exact h x hx hid
    · rfl
  rw [Ni.modEnt_ents] at hents
  rw [Ni.modEnt, hents]

/-- Only a subscription among the receives and contrails sends anything when it is entered (R105). -/
theorem State.Alone.launch_other {s : State} {key : Nat} (h : s.Alone key) {e : Ent} {id : Nat} (he : s.tile.ni.ent id = some e)
    (hpair : ∀ x ∈ s.tile.ni.ents, x.id = id → x.pairWait = false) (hphase : e.phase ≠ .done ∧ e.phase ≠ .closing)
    (hkind : e.kind.isSend = false ∧ e.kind.isReq = false) : s.launchEnt key id =
      if e.kind == .subs then s.emit key (e.packet (s.rankOf key) 0x09 0 0 [] false) else s := by
  have hmod : s.modEnt key id (fun e => { e with pairWait := false }) = s := by
    rw [h.modEnt, Ni.modEnt_same fun x hx hid => by rw [← hpair x hx hid], State.net_self]
  simp [State.launchEnt, hmod, h.ent, he, hphase, hkind, h.niRank]

/-- The interface with other contrails asked for. -/
def Ni.asking (n : Ni) (l : List (BitVec 16 × W32)) : Ni := { n with asked := l }

/-- A contrail's new entry may be asked for a round, and nothing else changes (R105). -/
theorem State.Alone.askAgain {s : State} {key : Nat} (h : s.Alone key) (g : BitVec 16) (tag : W32) :
    ∃ l, s.askAgain key g tag = s.net (s.tile.ni.asking l) s.torus := by
  rw [State.askAgain]
  split
  · exact ⟨_, h.modNi _⟩
  · exact ⟨s.tile.ni.asked, rfl⟩

/-- The new entry alone has its number. -/
theorem State.Issues.pushed_pair {s : State} (h : s.Issues) {e : Ent} (hpair : e.pairWait = false) :
    ∀ x ∈ (s.tile.ni.push e).ents, x.id = s.tile.ni.nextId → x.pairWait = false := by
  intro x hx hxid
  rcases List.mem_append.1 hx with hx | hx
  · exact absurd hxid (h.newId x hx)
  · rwa [List.mem_singleton.1 hx]

section
variable {s : State} (h : s.Issues) {d : BitVec 4} (hd : s.tile.thr.regs.getH d.toNat = none) {a b c : BitVec 5}
  (ha : (s.opS 0 a).ok = true) (hc : (s.opS 2 c).ok = true)
include h hd ha hc

section
variable (htable : s.tile.ni.full .publ = false) (hfits : s.TrailFits a b c (s.opLen a))
include htable hfits

theorem execPubl_denied (hlimit : ¬sbLegal (s.opS 1 b).val false false true ∨ 16777215 < s.opLen a ∨ 8 ≤ s.tile.ni.contrails.length ∨
      ∃ e ∈ s.tile.ni.contrails, e.tag = BitVec.ofNat 32 (s.opS 1 b).val.toNat ∧ e.group = sbGroup s (s.opS 1 b).val) :
    ∃ t, execPubl d a b c s = .next t ∧ Denied .publ d (s.opLen a % 2 ^ 24) s t := by
  refine State.request_denied h hd ⟨rfl, htable, firstOf_operands ha hc ?_, hfits.storeCheck, rfl⟩ ?_ rfl rfl rfl (hiWord_toNat _)
  · rw [State.opLen, ← hiWord_toNat] at hfits
    exact hfits.anvilCheck
  · have hbad := reqFlags_bad (s.opS 1 b) (s.rdC crGROUP) false false true
    rw [State.opLen] at hlimit
    simp only [State.nOps, hiWord_toNat, Bool.or_eq_true, Bool.not_eq_true', decide_eq_false_iff_not, decide_eq_true_eq, hbad, h.alone.getNi,
      List.any_eq_true, Bool.and_eq_true, beq_iff_eq, loWord_resolveDg, reqFlags_group, maxLen, Nat.not_le]
    tauto

/-- A contrail is opened (R105). -/
theorem execPubl_opens (hlegal : sbLegal (s.opS 1 b).val false false true) (hlen : s.opLen a ≤ 16777215)
    (hroom : s.tile.ni.contrails.length < 8)
    (hnew : ∀ e ∈ s.tile.ni.contrails, e.tag ≠ BitVec.ofNat 32 (s.opS 1 b).val.toNat ∨ e.group ≠ sbGroup s (s.opS 1 b).val) :
    ∃ t, execPubl d a b c s = .next t ∧ t.torus = s.torus ∧ Enters .publ d [] s t (s.trailEnt .publ b c (s.rankOf s.tile.ep) (s.opLen a) .open_) := by
  let e := s.trailEnt .publ b c (s.rankOf s.tile.ep) (s.opLen a) .open_
  have hid : e.id = s.tile.ni.nextId := rfl
  have hpushed : (s.net (s.tile.ni.push e) s.torus).Alone s.tile.ep := (State.alone_net _ _).2 h.alone
  obtain ⟨l, hask⟩ := hpushed.askAgain (sbGroup s (s.opS 1 b).val) (BitVec.ofNat 32 (s.opS 1 b).val.toNat)
  have halone : ((s.net (s.tile.ni.push e) s.torus).net ((s.tile.ni.push e).asking l) s.torus).Alone s.tile.ep :=
    (State.alone_net _ _).2 hpushed
  have hlaunch := halone.launch_other (e := e) (id := s.tile.ni.nextId) (Ni.push_ent (h.newId' hid)) (h.pushed_pair rfl)
    (show Phase.open_ ≠ _ ∧ Phase.open_ ≠ _ by decide) (show EKind.publ.isSend = false ∧ EKind.publ.isReq = false by decide)
  have hentry := State.trailEnt_eq s .publ a b c (s.rankOf s.tile.ep) .open_
  refine ⟨_, State.request_goes h hd ⟨rfl, htable, firstOf_operands ha hc ?_, hfits.storeCheck, rfl⟩ ?_ rfl ?_ halone hlaunch rfl,
    rfl, enters_of_named (e := e) rfl hid rfl (RegsExcept.refl _ _) rfl rfl rfl⟩
  · rw [State.opLen, ← hiWord_toNat] at hfits
    exact hfits.anvilCheck
  · have hflags := reqFlags_ok (s.rdC crGROUP) hlegal
    have hany : (s.tile.ni.contrails.any fun e => e.tag == BitVec.ofNat 32 (s.opS 1 b).val.toNat && e.group == sbGroup s (s.opS 1 b).val) = false := by
      rw [List.any_eq_false]
      intro e he
      have := hnew e he
      simp only [Bool.and_eq_true, beq_iff_eq]
      tauto
    show (!decide ((hiWord (s.opS 0 a).val).toNat ≤ maxLen) || (reqFlags (resolveDg (s.opS 1 b) (s.rdC crGROUP)).val).bad false false true ||
      decide (8 ≤ (s.getNi s.tile.ep).contrails.length) || (s.getNi s.tile.ep).contrails.any fun e =>
        e.tag == loWord (resolveDg (s.opS 1 b) (s.rdC crGROUP)).val && e.group == (reqFlags (resolveDg (s.opS 1 b) (s.rdC crGROUP)).val).group)
        = false
    rw [hiWord_toNat, hflags, h.alone.getNi, loWord_resolveDg, reqFlags_group, hany, decide_eq_true (show (s.opS 0 a).val.toNat / 2 ^ 32 ≤ maxLen from hlen),
      decide_eq_false (Nat.not_le.2 hroom)]
    rfl
  · have he : e = s.trailEnt .publ b c (s.niRank s.tile.ep) (s.opLen a) .open_ := by rw [h.alone.niRank]
    rw [← h.alone.niRank] at hentry
    rw [← loWord_resolveDg _ (s.rdC crGROUP), ← reqFlags_group, he, ← hentry] at hask
    rw [he, ← hentry]
    exact hask

end

section
variable (htable : s.tile.ni.full .post = false) (hfits : s.TrailFits a b c 0)
include htable hfits

theorem execSubs_denied (hlimit : ¬sbLegal (s.opS 1 b).val false false true ∨ 16777215 < s.opLen a ∨ s.ownPkg (s.opRank a) = false ∨
      0x400 ≤ rankEp (s.opRank a)) : ∃ t, execSubs d a b c s = .next t ∧ Denied .subs d (s.opLen a % 2 ^ 24) s t := by
  refine State.request_denied h hd ⟨rfl, htable, firstOf_operands ha hc hfits.anvilCheck, hfits.storeCheck, rfl⟩ ?_ rfl rfl rfl (hiWord_toNat _)
  have hbad := reqFlags_bad (s.opS 1 b) (s.rdC crGROUP) false false true
  rw [State.opLen, State.opRank, ← loWord_eq] at hlimit
  show (!decide ((hiWord (s.opS 0 a).val).toNat ≤ maxLen) || (reqFlags (resolveDg (s.opS 1 b) (s.rdC crGROUP)).val).bad false false true ||
    !s.ownPkg (loWord (s.opS 0 a).val) || decide (0x400 ≤ rankEp (loWord (s.opS 0 a).val))) = true
  simp only [hiWord_toNat, Bool.or_eq_true, Bool.not_eq_true', decide_eq_false_iff_not, decide_eq_true_eq, hbad, maxLen, Nat.not_le]
  tauto

/-- A subscription is posted, and SUBSCRIBE leaves for the publisher (R105). -/
theorem execSubs_sends (hlegal : sbLegal (s.opS 1 b).val false false true) (hlen : s.opLen a ≤ 16777215) (hr : Reachable s (s.opRank a)) :
    ∃ t, execSubs d a b c s = .next t ∧ Enters .subs d [] s t (s.trailEnt .subs b c (s.opRank a) (s.opLen a) .posted) ∧
      t.torus = s.torus ++ [s.parcel (.packet ((s.trailEnt .subs b c (s.opRank a) (s.opLen a) .posted).packet (s.rankOf s.tile.ep) 0x09 0 0 []
        false)) s.tile.ep (rankEp (s.opRank a))] := by
  let e := s.trailEnt .subs b c (s.opRank a) (s.opLen a) .posted
  have hid : e.id = s.tile.ni.nextId := rfl
  have halone : (s.net (s.tile.ni.push e) s.torus).Alone s.tile.ep := (State.alone_net _ _).2 h.alone
  have hlaunch := halone.launch_other (e := e) (id := s.tile.ni.nextId) (Ni.push_ent (h.newId' hid)) (h.pushed_pair rfl)
    (show Phase.posted ≠ _ ∧ Phase.posted ≠ _ by decide) (show EKind.subs.isSend = false ∧ EKind.subs.isReq = false by decide)
  rw [if_pos (show (e.kind == .subs) = true from rfl), State.net_rankOf, halone.emit (p := e.packet (s.rankOf s.tile.ep) 0x09 0 0 [] false) hr.1] at hlaunch
  have hfate := State.sendFate_reachable hr
  have hentry := State.trailEnt_eq s .subs a b c (s.opRank a) .posted
  have hlo : loWord (s.opS 0 a).val = s.opRank a := loWord_eq _
  refine ⟨_, State.request_goes h hd ⟨rfl, htable, firstOf_operands ha hc hfits.anvilCheck, hfits.storeCheck, rfl⟩ ?_ ?_ ?_ halone hlaunch rfl,
    enters_of_named (e := e) rfl hid rfl (RegsExcept.refl _ _) rfl rfl rfl, rfl⟩
  · have hflags := reqFlags_ok (s.rdC crGROUP) hlegal
    show (!decide ((hiWord (s.opS 0 a).val).toNat ≤ maxLen) || (reqFlags (resolveDg (s.opS 1 b) (s.rdC crGROUP)).val).bad false false true ||
      !s.ownPkg (loWord (s.opS 0 a).val) || decide (0x400 ≤ rankEp (loWord (s.opS 0 a).val))) = false
    rw [hiWord_toNat, hflags, hlo, decide_eq_true (show (s.opS 0 a).val.toNat / 2 ^ 32 ≤ maxLen from hlen), hr.1,
      decide_eq_false (Nat.not_le.2 hr.2.1)]
    rfl
  · show (s.sendFate (loWord (s.opS 0 a).val)).map (·.1) = none
    rw [hlo, hfate]
    rfl
  · rw [← hlo] at hentry
    have he : e = s.trailEnt .subs b c (loWord (s.opS 0 a).val) (s.opLen a) .posted := by rw [hlo]
    rw [he, ← hentry]
    rfl

end
end

/-! ### O31 -/

/-- Settles O31: each posting instruction by whether it breaks a limit. -/
theorem postingInstructions : Obligations.PostingInstructions := by
  unfold Obligations.PostingInstructions
  intro d a b c s hready hd hunexp hpost hpubl ha hc x y p len j off ab anvil posted
  have h := issues_of_netReady hready
  have hgroup := reqFlags_group s b
  refine ⟨fun hlimit hrange => ?_, fun hlimit hrange => ?_, fun hlimit hin => ?_, ⟨fun hlimit hfits => ?_, fun hlimit hanvil hstore => ?_⟩,
    fun hlegal hlen hrange => ?_, fun hlegal hpos hlen hrange hpool => ?_, fun hlegal hlen hin => ?_,
    fun hlegal hlen hanvil hstore => ⟨fun hroom hnew => ?_, fun hown htile hmap => ?_⟩⟩
  · exact execPost_denied h hd hpost ha hc hrange hlimit
  · exact execPostm_denied h hd hpost ha hc hrange hlimit
  · exact execPosta_denied h hd hpost ha hc hin hlimit
  · exact execPubl_denied h hd ha hc hpubl ⟨hfits.1, hfits.2⟩ hlimit
  · exact execSubs_denied h hd ha hc hpost ⟨fun hf => ⟨hanvil hf, (hanvil hf).2.2.le⟩, hstore⟩ hlimit
  · obtain ⟨t, ht, hposted⟩ := execPost_posts h hd hpost hunexp ha hc (fun _ => hrange) hlegal hlen
    exact ⟨t, ht, _, hposted⟩
  · obtain ⟨us, hus⟩ := Option.ne_none_iff_exists'.1 hpool
    obtain ⟨t, ht, hposted⟩ := execPostm_posts h hd hpost hunexp ha hc (fun _ _ => hrange) hlegal hpos hlen hus
    have hspec := State.allot_spec hus
    rw [h.alone.getNi] at hspec
    exact ⟨t, ht, _, hposted, hspec⟩
  · obtain ⟨t, ht, hposted⟩ := execPosta_posts h hd hpost hunexp ha hc hin hlegal hlen
    exact ⟨t, ht, _, hposted⟩
  · obtain ⟨t, ht, htorus, henters⟩ := execPubl_opens h hd ha hc hpubl ⟨hanvil, fun hf _ => hstore hf⟩ hlegal hlen hroom hnew
    exact ⟨t, ht, _, henters, rfl, rfl, loWord_resolveDg _ _, hgroup, rfl, rfl, htorus⟩
  · obtain ⟨t, ht, henters, htorus⟩ := execSubs_sends h hd ha hc hpost ⟨fun hf => ⟨(hanvil hf).1, (hanvil hf).1.2.2.le⟩, fun hf _ => hstore hf⟩
      hlegal hlen ⟨hown, htile, hmap⟩
    exact ⟨t, ht, _, henters, rfl, rfl, loWord_resolveDg _ _, hgroup, rfl, rfl, _, _, htorus, rfl, rfl, rfl, rfl, rfl, rfl⟩

end Sys2Proof.Machine
end

section
/-!
Requests to the servers (R119, R126, R135 to R137, R271, R272): how the first packet of a request leaves, what its shards are, and the proof
of O32.
-/
namespace Sys2Proof.Machine

open Sys2Proof.Safety

theorem exec_get (d : BitVec 4) (a b c : BitVec 5) (s : State) : exec (.get d a b c) s = execGet d a b c s := rfl
theorem exec_put (d : BitVec 4) (a b c : BitVec 5) (s : State) : exec (.put d a b c) s = execPut d a b c s := rfl
theorem exec_getb (d : BitVec 4) (a b c : BitVec 5) (s : State) : exec (.getb d a b c) s = execGetb d a b c s := rfl
theorem exec_putb (d : BitVec 4) (a b c : BitVec 5) (s : State) : exec (.putb d a b c) s = execPutb d a b c s := rfl
theorem exec_gath (d : BitVec 4) (a b c : BitVec 5) (s : State) : exec (.gath d a b c) s = execGath d a b c s := rfl
theorem exec_scat (d : BitVec 4) (a b c : BitVec 5) (s : State) : exec (.scat d a b c) s = execScat d a b c s := rfl
theorem exec_apply (d : BitVec 4) (a b c : BitVec 5) (s : State) : exec (.apply d a b c) s = execApply d a b c s := rfl
theorem exec_cas (d : BitVec 4) (a b c : BitVec 5) (s : State) : exec (.cas d a b c) s = execCas d a b c s := rfl

/-! ### Shards (R134, R135) -/

theorem homesOf_lt {ps : List Piece} : ∀ k ∈ homesOf ps, k < 192 := by
  refine List.foldlRecOn (motive := fun l : List Nat => ∀ k ∈ l, k < 192) ps _ (fun k hk => nomatch hk) fun l hl p _ => ?_
  dsimp only
  split
  · exact hl
  · intro k hk
    rcases List.mem_append.1 hk with hk | hk
    · exact hl k hk
    · rw [List.mem_singleton.1 hk]
      exact Nat.mod_lt _ (by decide)

theorem homesOf_ne_nil {ps : List Piece} (h : ps ≠ []) : homesOf ps ≠ [] := by
  obtain ⟨p, l, rfl⟩ := List.exists_cons_of_ne_nil h
  refine List.foldlRecOn (motive := fun l : List Nat => l ≠ []) l _ (by simp) fun l hl p _ => ?_
  dsimp only
  split
  · exact hl
  · simp

section
variable {issuer : Rank} {xid actx : Nat} {group : BitVec 16} {kind : Nat} {ps : List Piece} {data : List Byte} {aop : Nat}
  {nt : Option (Rank × W32)} {bad : List (Nat × Nat)}

theorem shardsOf_ne_nil (h : ps ≠ []) : shardsOf issuer xid actx group kind ps data aop nt bad ≠ [] := by
  have := homesOf_ne_nil h
  simpa [shardsOf]

/-- Every shard is for a server. -/
theorem shardsOf_srv {q : Shard} (hq : q ∈ shardsOf issuer xid actx group kind ps data aop nt bad) : q.srv < 192 := by
  obtain ⟨x, hx, rfl⟩ := List.mem_map.1 hq
  exact homesOf_lt _ (List.fst_mem_of_mem_zipIdx hx)

end

/-! ### TOUCH (R126) -/

section
variable {s : State} {srv : Nat}

theorem State.touch_cr (n : Nat) : ((s.onTile fun t => t.touch srv).cr (0x040 + n / 64)).getLsbD (n % 64) = true ↔
    (s.cr (0x040 + n / 64)).getLsbD (n % 64) = true ∨ srv = n := by
  have hbit : ∀ i < 64, ∀ k < 64, (((1 <<< k : Nat) : Nat) : Word).getLsbD i = decide (k = i) := by decide
  have hcr : (s.onTile fun t => t.touch srv).cr (0x040 + n / 64) =
      if 0x040 + n / 64 = 0x040 + srv / 64 then s.cr (0x040 + srv / 64) ||| (1 <<< (srv % 64)) else s.cr (0x040 + n / 64) :=
    Tile.cr_setCr _ _ _ _
  rw [hcr]
  split
  · next heq =>
    have hdiv : n / 64 = srv / 64 := by omega
    rw [BitVec.getLsbD_or, Bool.or_eq_true, hbit _ (Nat.mod_lt _ (by decide)) _ (Nat.mod_lt _ (by decide)), decide_eq_true_eq, hdiv]
    exact or_congr_right (by omega)
  · next hne => exact (or_iff_left (by omega)).symm

theorem State.touch_regs (hsrv : srv < 192) :
    RegsExcept [.cr 0x040, .cr 0x041, .cr 0x042] s.tile.thr.regs (s.onTile fun t => t.touch srv).tile.thr.regs := by
  obtain ⟨hs, hf, hv, hm, hp, hacc, hxa, hb, hsig, hh, hcr, hlc⟩ := regsExcept_setC s.tile.thr.regs (0x040 + srv / 64)
    (s.cr (0x040 + srv / 64) ||| (1 <<< (srv % 64)))
  refine ⟨fun n _ => hs n (by simp), fun n _ => hf n (by simp), fun n _ => hv n (by simp), fun n _ => hm n (by simp), fun n _ => hp n (by simp),
    fun k i _ => hacc k i (by simp), fun k i _ => hxa k i (by simp), fun n _ => hb n (by simp), fun n _ => hsig n (by simp),
    fun n _ => hh n (by simp), fun n hn => hcr n ?_, hlc⟩
  simp only [List.mem_cons, Reg.cr.injEq, List.not_mem_nil, or_false, not_or] at hn ⊢
  omega

end

/-! ### The first packet of a request (R119, R137) -/

/-- The entry once a packet of a shard has left: the shard's last, or another. -/
def Ent.leftWhole (e : Ent) (rest : List Nat) (no due : Nat) : Ent :=
  { e with unsent := rest, part := 0, shards := e.shards.map fun z => if z.shard.no = no then { z with due } else z }
def Ent.leftPart (e : Ent) : Ent := { e with part := e.part + 2048 }

section
variable {s : State} {key : Nat} (h : s.Alone key)
include h

/-- A tile that stands alone compares its packets with no other. -/
theorem State.Alone.comparePart (e : Ent) (x : ShardSt) : s.comparePart key e x = s := by
  simp [State.comparePart, h.mateOf]

/-- The first packet of a request's first shard leaves and sets TOUCH (R119, R126, R137). -/
theorem State.Alone.sendPart_first {e : Ent} (he : s.tile.ni.ent e.id = some e) {x : ShardSt} {l : List ShardSt} {rest : List Nat}
    (hshards : e.shards = x :: l) (hunsent : e.unsent = x.shard.no :: rest) (hpart : e.part = 0) (hfirst : x.attempts = 1) (hopen : x.code = none) :
    let t := s.onTile fun t => t.touch x.shard.srv
    s.sendPart key e = if 2048 < x.shard.data.length
      then t.net (s.tile.ni.modEnt e.id Ent.leftPart) (s.torus ++ [s.parcel (.shardPart e.kind.shardKind x.shard) key (0x400 + x.shard.srv)])
      else t.net (s.tile.ni.modEnt e.id fun y => y.leftWhole rest x.shard.no (s.time + s.shardTo key))
        (s.torus ++ [s.parcel (.shard e.kind.shardKind x.shard) key (0x400 + x.shard.srv)]) := by
  intro t
  have htouch : s.modTile key (fun t => t.touch x.shard.srv) = t := h.modTile rfl
  have halone : t.Alone key := ⟨h.focus, h.isTile, h.twin⟩
  have hfind : e.shards.find? (fun y => y.shard.no == x.shard.no && y.code.isNone) = some x := by simp [hshards, hopen]
  simp only [State.sendPart, hunsent, hfind, h.comparePart, h.ent, he, Option.bind_some, Option.elim_some, h.key_eq, hpart, hfirst,
    h.rankEp_niRank, beq_self_eq_true, Bool.and_true, if_true, htouch, Nat.zero_add, halone.modEnt, State.inject_eq]
  split
  · rfl
  · rfl

end

theorem State.Alone.serveFirst_req {s : State} {key : Nat} (h : s.Alone key) {e : Ent} (hreq : e.kind.isReq = true) :
    s.serveFirst key e = (s.net (s.tile.ni.served e.id) s.torus).sendPart key e := by
  rw [State.serveFirst, if_pos hreq, h.modNi]
  rfl

/-- An entry without shards to send owes no server anything (R125). -/
theorem Ent.owes_of_sent {e : Ent} (hpair : e.pairWait = false) (hsent : e.unsent = []) (k : Nat) : e.owes k = false := by
  simp [Ent.owes, hpair, hsent]

/-- The request with all its shards to send. -/
def Ent.offering (e : Ent) : Ent := { e with unsent := e.shards.map fun x => x.shard.no }

/-- What a new request has to be, for its first shard to leave at once. -/
structure Ent.MayAsk (e : Ent) : Prop where
  isReq : e.kind.isReq = true
  pairWait : e.pairWait = false
  phase : e.phase ≠ .done ∧ e.phase ≠ .closing
  rank : rankEp e.rank ≠ Config.haloEp
  fresh : ∀ x ∈ e.shards, x.code = none

theorem EKind.isSend_of_isReq {k : EKind} (h : k.isReq = true) : k.isSend = false := by
  cases k <;> simp_all [EKind.isSend, EKind.isReq, EKind.table]

/-- A request's first shard has its turn at once (R119, R125). -/
theorem State.Issues.launch_asks {s : State} (h : s.Issues) {e : Ent} (hid : e.id = s.tile.ni.nextId) (hm : e.MayAsk) (hout : s.mgmt.outMask = [])
    (hshards : e.shards ≠ []) : (s.net (s.tile.ni.push e) s.torus).launchEnt s.tile.ep s.tile.ni.nextId =
      (s.net ((s.tile.ni.push e.offering).served e.id) s.torus).sendPart s.tile.ep e.offering := by
  have halone : ∀ n : Ni, (s.net n s.torus).Alone s.tile.ep := fun n => (State.alone_net _ _).2 h.alone
  have hmod : (s.net (s.tile.ni.push e) s.torus).modEnt s.tile.ep s.tile.ni.nextId (fun e => { e with pairWait := false }) =
      s.net (s.tile.ni.push e) s.torus := by
    rw [(halone _).modEnt, State.net_tile, Ni.modEnt_same fun x hx hxid => by rw [← h.pushed_pair hm.pairWait x hx hxid]]
    rfl
  have hent : (s.net (s.tile.ni.push e) s.torus).ent s.tile.ep s.tile.ni.nextId = some e := by
    rw [(halone _).ent, ← hid]
    exact Ni.push_ent (h.newId' hid)
  have hall : e.shards.filter (fun x => !(s.mgmt.outMask.contains x.shard.srv || x.code.isSome)) = e.shards :=
    List.filter_eq_self.2 fun x hx => by simp [hout, hm.fresh x hx]
  have hoffer : (s.net (s.tile.ni.push e) s.torus).modEnt s.tile.ep s.tile.ni.nextId (fun e =>
      { e with unsent := (e.shards.filter fun x => !(s.mgmt.outMask.contains x.shard.srv || x.code.isSome)).map fun x => x.shard.no }) =
      s.net (s.tile.ni.push e.offering) s.torus := by
    rw [(halone _).modEnt, ← hid]
    show s.net ((s.tile.ni.push e).modEnt e.id _) s.torus = _
    rw [Ni.push_modEnt (h.newId' hid), hall]
    rfl
  obtain ⟨x, l, hx⟩ := List.exists_cons_of_ne_nil hshards
  have hasks : (s.tile.ni.push e.offering).asks e.offering = true := by
    have hhead : e.offering.unsent = x.shard.no :: l.map fun y => y.shard.no := by simp [Ent.offering, hx]
    have hfind : e.offering.shards.find? (fun y => y.shard.no == x.shard.no) = some x := by simp [Ent.offering, hx]
    have howes : ∀ y ∈ (s.tile.ni.push e.offering).ents, ¬((decide (y.id < e.offering.id) && y.owes x.shard.srv) = true) := by
      intro y hy
      rcases List.mem_append.1 hy with hy | hy
      · rw [Ent.owes_of_sent (h.paired y hy) (h.idle y hy).2, Bool.and_false]
        decide
      · rw [List.mem_singleton.1 hy, decide_eq_false (lt_irrefl _)]
        simp
    have hkind : e.offering.kind.isReq = true ∧ e.offering.pairWait = false := ⟨hm.isReq, hm.pairWait⟩
    simp only [Ni.asks, hhead, hfind, hkind, List.any_eq_false.2 howes]
    rfl
  have hlaunch : (s.net (s.tile.ni.push e) s.torus).launchEnt s.tile.ep s.tile.ni.nextId =
      (s.net (s.tile.ni.push e.offering) s.torus).pump s.tile.ep := by
    rw [← hoffer]
    simp [State.launchEnt, hmod, hent, hm.phase, hm.isReq, EKind.isSend_of_isReq hm.isReq]
  rw [hlaunch, (halone (s.tile.ni.push e.offering)).pump_serves (e := e.offering) (List.mem_append_right _ (List.mem_singleton.2 rfl)) (by rw [State.net_tile, hasks, Bool.or_true])
    (State.Alone.haloSend hm.rank) h.free fun x hx hne => h.mem_push hx hne, (halone _).serveFirst_req (e := e.offering) hm.isReq]
  rfl

/-! ### Requests over pieces (R135, R136, R271) -/

/-- A shard that has not left yet. -/
def newShard (q : Shard) : ShardSt := ⟨q, 1, 0, false, false, none, [], false, false⟩

/-- Timers of new shards change neither what they are nor that they are new. -/
theorem newShards_due (qs : List Shard) (no due : Nat) :
    let l := (qs.map newShard).map fun z => if z.shard.no = no then { z with due } else z
    l.map (fun x => x.shard) = qs ∧ ∀ x ∈ l, x.attempts = 1 ∧ x.code = none := by
  intro l
  have hone : ∀ q : Shard, let z := if (newShard q).shard.no = no then { newShard q with due } else newShard q
      z.shard = q ∧ z.attempts = 1 ∧ z.code = none := by
    intro q
    dsimp only
    split <;> exact ⟨rfl, rfl, rfl⟩
  constructor
  · rw [List.map_map, List.map_map]
    exact (List.map_congr_left fun q _ => (hone q).1).trans qs.map_id
  · intro x hx
    obtain ⟨z, hz, rfl⟩ := List.mem_map.1 hx
    obtain ⟨q, -, rfl⟩ := List.mem_map.1 hz
    exact (hone q).2

/-- The shards of a request whose buffer holds no poison. -/
def State.shards (s : State) (b : BitVec 5) (k : EKind) (ps : List Piece) (data : List Byte) (aop : Nat) (nt : Option (Rank × W32)) : List Shard :=
  shardsOf (s.rankOf s.tile.ep) s.tile.ni.nextXid.toNat ((s.rdC 0x012).toNat % 65536) (sbGroup s (s.opS 1 b).val) k.shardKind ps data aop nt []

/-- The entry of a request with its shards. -/
def State.reqEnt (s : State) (b : BitVec 5) (k : EKind) (len : Nat) (buf : Buf) (ps : List Piece) (qs : List Shard) : Ent :=
  { reqEntry (resolveDg (s.opS 1 b) (s.rdC crGROUP)).val len buf ps s (s.blank k) with shards := qs.map newShard }

/-- What a request of `qs` leaves, as the obligation says it. -/
def Asked (s : State) (d : BitVec 4) (b : BitVec 5) (k : EKind) (len buf : Nat) (kind : Nat) (qs : List Shard) (t : State) : Prop :=
  ∃ e, Enters k d [.cr 0x040, .cr 0x041, .cr 0x042] s t e ∧ e.phase = .shards ∧ e.group = sbGroup s (s.opS 1 b).val ∧
    e.nb = sbBarrier (s.opS 1 b).val ∧ e.len = len ∧ e.buf = .store buf s.tile.ranges ∧ e.rcd.flen = len ∧ e.shards.map (fun h => h.shard) = qs ∧
    (∀ h ∈ e.shards, h.attempts = 1 ∧ h.code = none) ∧
    ∃ q rest u, qs = q :: rest ∧ t.torus = s.torus ++ [u] ∧ u.src = s.tile.ep ∧ u.dst = 0x400 + q.srv ∧
      (if q.data.length ≤ 2048 then u.ev = .shard kind q ∧ e.unsent = rest.map (fun x => x.no) ∧ e.part = 0
       else u.ev = .shardPart kind q ∧ e.unsent = qs.map (fun x => x.no) ∧ e.part = 2048) ∧
      ∀ n < 192, (t.cr (0x040 + n / 64)).getLsbD (n % 64) = true ↔ (s.cr (0x040 + n / 64)).getLsbD (n % 64) = true ∨ q.srv = n

/-- The entry of a request of which packets have left. -/
def Ent.asking (e : Ent) (us : List Nat) (part : Nat) (l : List ShardSt) : Ent := { e with unsent := us, part := part, shards := l }

/-- A request whose first packet has left, named. -/
theorem asked_of_left {s : State} {d : BitVec 4} {b : BitVec 5} {k : EKind} {len a : Nat} {ps : List Piece} {q : Shard} {rest : List Shard}
    {us : List Nat} {part : Nat} {l : List ShardSt} (hl : l.map (fun x => x.shard) = q :: rest) (hopen : ∀ x ∈ l, x.attempts = 1 ∧ x.code = none)
    (hsrv : q.srv < 192) {n : Ni} (hents : n.ents = s.tile.ni.ents ++ [(s.reqEnt b k len (.store a s.tile.ranges) ps (q :: rest)).asking us part l])
    (hnext : n.nextId = s.tile.ni.nextId + 1) {u : Transit} (hsrc : u.src = s.tile.ep) (hdst : u.dst = 0x400 + q.srv)
    (hev : if q.data.length ≤ 2048 then u.ev = .shard k.shardKind q ∧ us = rest.map (fun x => x.no) ∧ part = 0
      else u.ev = .shardPart k.shardKind q ∧ us = (q :: rest).map (fun x => x.no) ∧ part = 2048) :
    Asked s d b k len a k.shardKind (q :: rest)
      (((s.onTile fun t => t.touch q.srv).net n (s.torus ++ [u])).onRegs fun r => r.setH d.toNat (some s.tile.ni.nextId)) := by
  have henters := enters_of_named (s := s) (t := (s.onTile fun t => t.touch q.srv).net n (s.torus ++ [u])) (d := d)
    (e := (s.reqEnt b k len (.store a s.tile.ranges) ps (q :: rest)).asking us part l) hents rfl hnext (State.touch_regs hsrv) rfl rfl rfl
  exact ⟨_, henters, rfl, reqFlags_group _ _, reqFlags_barrier _ _, rfl, rfl, rfl, hl, hopen, q, rest, u, rfl, rfl, hsrc, hdst, hev,
    fun n _ => State.touch_cr n⟩

/-- The request as `State.serverReq` hands it on. -/
def State.serverQ (s : State) (k : EKind) (opcode : Nat) (checks : Checks) (cmp : List Word) (limit : Bool) (y : Word) (len : Nat) (buf : Buf)
    (ps : List Piece) (data : Unit → List Byte × List (Nat × Nat)) (aop : Nat) (notify : Option (Rank × W32)) : Req :=
  { kind := k, opcode, checks
    limit := limit || decide (64 < (homesOf ps).length)
    fate := if ps.isEmpty then some stOK else none
    compare := some cmp
    entry := reqEntry y len buf ps s
    after := fun s id =>
      let b := data ()
      s.giveShards id k.shardKind ps b.1 aop notify b.2 }

/-- A new request is given its shards (R135). -/
theorem State.Issues.giveShards_push {s : State} (h : s.Issues) (b : BitVec 5) (k : EKind) (len : Nat) (buf : Buf) (ps : List Piece) (data : List Byte) (aop : Nat)
    (nt : Option (Rank × W32)) :
    (s.net (s.tile.ni.push (reqEntry (resolveDg (s.opS 1 b) (s.rdC crGROUP)).val len buf ps s (s.blank k))) s.torus).giveShards s.tile.ni.nextId
      k.shardKind ps data aop nt [] = s.net (s.tile.ni.push (s.reqEnt b k len buf ps (s.shards b k ps data aop nt))) s.torus := by
  let e := reqEntry (resolveDg (s.opS 1 b) (s.rdC crGROUP)).val len buf ps s (s.blank k)
  have hid : e.id = s.tile.ni.nextId := rfl
  have halone : (s.net (s.tile.ni.push e) s.torus).Alone s.tile.ep := (State.alone_net _ _).2 h.alone
  have hent : (s.net (s.tile.ni.push e) s.torus).ent s.tile.ep s.tile.ni.nextId = some e := by
    rw [halone.ent]
    exact Ni.push_ent (h.newId' hid)
  have hactx : ((s.rdC crACTX).extractLsb' 0 16).toNat = (s.rdC 0x012).toNat % 65536 := by
    rw [BitVec.extractLsb'_toNat, Nat.shiftRight_zero]
    rfl
  have hgroup : e.group = sbGroup s (s.opS 1 b).val := reqFlags_group s b
  have hqs : shardsOf ((s.net (s.tile.ni.push e) s.torus).niRank s.tile.ep) e.xid.toNat
      (((s.net (s.tile.ni.push e) s.torus).rdC crACTX).extractLsb' 0 16).toNat e.group k.shardKind ps data aop nt [] = s.shards b k ps data aop nt := by
    rw [halone.niRank, hgroup]
    show shardsOf _ _ ((s.rdC crACTX).extractLsb' 0 16).toNat _ _ _ _ _ _ _ = _
    rw [hactx]
    rfl
  show (s.net (s.tile.ni.push e) s.torus).giveShards e.id k.shardKind ps data aop nt [] = _
  simp only [State.giveShards, State.net_tile]
  rw [show (s.net (s.tile.ni.push e) s.torus).ent s.tile.ep e.id = some e from hent]
  simp only [hqs, halone.modEnt, State.net_tile, State.net_net, State.net_torus]
  rw [Ni.push_modEnt (h.newId' hid)]
  rfl

section
variable {s : State} (h : s.Issues) {d : BitVec 4} (hd : s.tile.thr.regs.getH d.toNat = none) {b : BitVec 5} {k : EKind} {opcode : Nat}
  {checks : Checks} {cmp : List Word} {limit : Bool} {y : Word} {len : Nat} {buf : Buf} {ps : List Piece}
  {data : Unit → List Byte × List (Nat × Nat)} {aop : Nat} {nt : Option (Rank × W32)}

theorem State.serverReq_eq : s.serverReq d k opcode checks cmp limit y len buf ps data aop nt =
    s.request d (s.serverQ k opcode checks cmp limit y len buf ps data aop nt) := rfl

variable (htable : s.tile.ni.full k = false) (h1 : checks.first = none) (h2 : s.oorOf checks.mem = none) (h3 : checks.later = none)
include h hd htable h1 h2 h3

/-- A request that breaks a limit, or has more than 64 shards (R135, R261, R367). -/
theorem State.serverReq_denied (hlimit : limit = true ∨ 64 < (homesOf ps).length) :
    ∃ t, s.serverReq d k opcode checks cmp limit y len buf ps data aop nt = .next t ∧ ∃ n, Denied k d n s t := by
  obtain ⟨t, ht, hdenied⟩ := State.request_denied (q := s.serverQ k opcode checks cmp limit y len buf ps data aop nt) h hd
    ⟨rfl, htable, h1, h2, h3⟩ (by simpa [State.serverQ] using hlimit) rfl rfl rfl rfl
  exact ⟨t, ht, _, hdenied⟩

/-- A request of no byte completes OK in the next step (R136). -/
theorem State.serverReq_empty (hlimit : limit = false) (hps : ps = []) {n : Nat} (hlen : len = n) :
    ∃ t, s.serverReq d k opcode checks cmp limit y len buf ps data aop nt = .next t ∧ EndsNext 0 k d n s t := by
  subst hps hlen
  exact State.request_ends (q := s.serverQ k opcode checks cmp limit y len buf [] data aop nt) (status := stOK) h hd
    ⟨rfl, htable, h1, h2, h3⟩ (by rw [hlimit]; rfl) rfl rfl rfl rfl

/-- A request over pieces is entered with its shards, and the first packet of the first leaves. -/
theorem State.serverReq_asks (hlimit : limit = false) {ps' : List Piece} (hpieces : ps = ps') (hps : ps' ≠ [] ∧ (homesOf ps').length ≤ 64)
    (hreq : k.isReq = true) (hout : s.mgmt.outMask = []) {n : Nat} (hlen : len = n) {l : List Byte} (hdata : data () = (l, [])) {op : Nat}
    (hop : aop = op) {nt' : Option (Rank × W32)} (hnt : nt = nt') {a : Nat} (hbuf : buf = .store a s.tile.ranges)
    (hy : y = (resolveDg (s.opS 1 b) (s.rdC crGROUP)).val) :
    ∃ t, s.serverReq d k opcode checks cmp limit y len buf ps data aop nt = .next t ∧
      Asked s d b k n a k.shardKind (s.shards b k ps' l op nt') t := by
  subst hpieces hlen hop hnt hbuf
  let buf := Buf.store a s.tile.ranges
  let qs := s.shards b k ps l aop nt
  let e := s.reqEnt b k len buf ps qs
  have hid : e.id = s.tile.ni.nextId := rfl
  have hqs : qs ≠ [] := shardsOf_ne_nil hps.1
  obtain ⟨q, rest, hcons⟩ := List.exists_cons_of_ne_nil hqs
  have hsrv : q.srv < 192 := shardsOf_srv (hcons ▸ List.mem_cons_self : q ∈ qs)
  have hshards : e.shards = newShard q :: rest.map newShard := by
    show qs.map newShard = _
    rw [hcons]
    rfl
  have hm : e.MayAsk := ⟨hreq, rfl, ⟨(by decide : Phase.shards ≠ .done), (by decide : Phase.shards ≠ .closing)⟩, (by decide : rankEp 0 ≠ _), by
    intro x hx
    obtain ⟨q, -, rfl⟩ := List.mem_map.1 hx
    rfl⟩
  have halone : (s.net ((s.tile.ni.push e.offering).served e.id) s.torus).Alone s.tile.ep := (State.alone_net _ _).2 h.alone
  have hnos : e.offering.unsent = q.no :: rest.map fun x => x.no := by
    rw [Ent.offering, hshards, List.map_cons, List.map_map]
    rfl
  have hlaunch := h.launch_asks hid hm hout (by rw [hshards]; simp)
  rw [halone.sendPart_first (e := e.offering) (Ni.push_ent (e := e.offering) (h.newId' hid)) hshards hnos rfl rfl rfl] at hlaunch
  have hgive := h.giveShards_push b k len buf ps l aop nt
  have hgoes : ∀ u : State, (s.net (s.tile.ni.push e) s.torus).launchEnt s.tile.ep s.tile.ni.nextId = u →
      u.tile.thr.regs.getH d.toNat = s.tile.thr.regs.getH d.toNat →
      s.serverReq d k opcode checks cmp limit y len buf ps data aop nt = .next (u.onRegs fun r => r.setH d.toNat (some s.tile.ni.nextId)) :=
    fun u hu hregs => State.request_goes (q := s.serverQ k opcode checks cmp limit y len buf ps data aop nt)
      (t := s.net (s.tile.ni.push e) s.torus) (u := u) h hd ⟨rfl, htable, h1, h2, h3⟩
      (by simp [State.serverQ, hlimit, hps.2]) (by simp [State.serverQ, hps.1]) (by rw [← hgive, hy]; simp only [State.serverQ, hdata])
      ((State.alone_net _ _).2 h.alone) hu hregs
  have hents := Ni.modEnt_ents_append (n := s.tile.ni) (e := e.offering) (m := (s.tile.ni.push e.offering).served e.id) (h.newId' hid) rfl
  have hdue := newShards_due qs q.no (s.time + s.shardTo s.tile.ep)
  rw [show s.shards b k ps l aop nt = q :: rest from hcons]
  by_cases hbig : 2048 < q.data.length
  · refine ⟨_, hgoes _ (hlaunch.trans (if_pos hbig)) rfl, asked_of_left (ps := ps) (us := e.offering.unsent) (part := 2048) (l := e.shards) ?_ ?_ hsrv ?_
      rfl rfl rfl ?_⟩
    · rw [hshards, List.map_cons, List.map_map]
      exact congrArg (q :: ·) rest.map_id
    · intro x hx
      obtain ⟨q, -, rfl⟩ := List.mem_map.1 hx
      exact ⟨rfl, rfl⟩
    · rw [← hcons]
      exact hents _
    · rw [if_neg (Nat.not_le.2 hbig)]
      exact ⟨rfl, hnos, rfl⟩
  · refine ⟨_, hgoes _ (hlaunch.trans (if_neg hbig)) rfl, asked_of_left (ps := ps) (us := rest.map fun x => x.no) (part := 0)
      (l := (e.offering.leftWhole (rest.map fun x => x.no) q.no (s.time + s.shardTo s.tile.ep)).shards) ?_ ?_ hsrv ?_ rfl rfl rfl ?_⟩
    · rw [← hcons]
      exact hdue.1
    · exact hdue.2
    · rw [← hcons]
      exact hents _
    · rw [if_pos (Nat.not_lt.1 hbig)]
      exact ⟨rfl, rfl, rfl⟩

end

end Sys2Proof.Machine
end

section
/-!
GET, PUT, GETB, PUTB, GATH, SCAT, APPLY and CAS (R135, R136, R147 to R150, R271, R272): their operands and limits, and the proof of O32.
-/
namespace Sys2Proof.Machine

open Sys2Proof.Safety

/-! ### Operands (R271) -/

/-- The low half of sb, and the address of sa. -/
def State.opLow (s : State) (b : BitVec 5) : Nat := (s.opS 1 b).val.toNat % 2 ^ 32
def State.opVa (s : State) (a : BitVec 5) : Nat := (s.opS 0 a).val.toNat
def State.opZ (s : State) (c : BitVec 5) : Word := (s.opS 2 c).val

/-- A field of the low half, whatever DG does. -/
theorem low_field (y : SVal) (g : Word) {i n : Nat} (h : n + i ≤ 32) :
    ((resolveDg y g).val.extractLsb' i n).toNat = y.val.toNat % 2 ^ 32 / 2 ^ i % 2 ^ n := by
  have hpow : 2 ^ 32 = 2 ^ i * 2 ^ (32 - i) := by rw [← Nat.pow_add, Nat.add_sub_cancel' (by omega)]
  rw [resolveDg_field y g (.inl h), BitVec.extractLsb'_toNat, Nat.shiftRight_eq_div_pow, hpow, Nat.mod_mul_right_div_self,
    Nat.mod_mod_of_dvd _ (Nat.pow_dvd_pow 2 (by omega))]

theorem low_field_zero (y : SVal) (g : Word) {i n : Nat} (h : n + i ≤ 32) :
    (resolveDg y g).val.extractLsb' i n = 0 ↔ y.val.toNat % 2 ^ 32 / 2 ^ i % 2 ^ n = 0 := by
  rw [← low_field y g h, ← BitVec.toNat_inj, BitVec.ofNat_eq_ofNat, BitVec.toNat_zero]

/-- An address of 48 bits. -/
theorem high_zero_iff (x : Word) : x.extractLsb' 48 16 = 0 ↔ x.toNat < 2 ^ 48 := by
  rw [extract_eq_zero_iff]
  have := x.isLt
  omega

theorem address_eq {x : Word} (h : x.toNat < 2 ^ 48) : (x.extractLsb' 0 48).toNat = x.toNat := by
  rw [BitVec.extractLsb'_toNat, Nat.shiftRight_zero, Nat.mod_eq_of_lt h]

theorem hiWord_eq (x : Word) : hiWord x = BitVec.ofNat 32 (x.toNat / 2 ^ 32) :=
  BitVec.eq_of_toNat_eq (by
    have := x.isLt
    rw [hiWord_toNat, BitVec.toNat_ofNat, Nat.mod_eq_of_lt (by omega)])

section
variable {s : State} (h : s.Issues)
include h

/-- What a request reads of the tile store, in range (R262). -/
theorem State.Issues.reqBytes {a : Nat} {p : Word} (hp : p.toNat = a) {n : Nat} (hrange : s.tile.oor p n = none) (hn : n ≤ 2 ^ 64) :
    s.reqBytes a n = (bytesAt s p n, []) := by
  subst hp
  have hspans : ∀ e : Ent, e.buf = .store p.toNat s.tile.ranges → s.badSpans s.tile.ep e 0 n = [] := fun e he => by
    simp [State.badSpans, he, h.alone.getTile, h.unpoisoned.2]
  have hread := h.alone.readBuf_operand (e := { Ent.fresh 0 .put with buf := .store p.toNat s.tile.ranges, dirty := s.ownStores }) rfl h.ownStores
    hrange hn h.quiet h.unpoisoned.2
  rw [State.reqBytes, hread, hspans _ rfl]

end

theorem firstOf_pair {x y : SVal} (hx : x.ok = true) (hy : y.ok = true) {m n i j : Nat} : firstOf [resCheck m x i, resCheck n y j] = none := by
  rw [resCheck_ok hx, resCheck_ok hy]
  rfl

/-! ### GET and PUT (R140, R271, R401) -/

section
variable {y : SVal} {g : Word}

/-- Whether the length of GET or PUT is legal, and what it then is. -/
theorem getLen_ok (h : y.val.toNat % 2 ^ 32 ≤ 1048576) :
    (decide ((resolveDg y g).val.extractLsb' 21 11 = 0) && decide (((resolveDg y g).val.extractLsb' 0 21).toNat ≤ 1048576)) = true ∧
      ((resolveDg y g).val.extractLsb' 0 21).toNat = y.val.toNat % 2 ^ 32 := by
  rw [Bool.and_eq_true, decide_eq_true_eq, decide_eq_true_eq, low_field_zero y g (by omega), low_field y g (by omega)]
  omega

theorem getLen_bad (h : 1048576 < y.val.toNat % 2 ^ 32) :
    (decide ((resolveDg y g).val.extractLsb' 21 11 = 0) && decide (((resolveDg y g).val.extractLsb' 0 21).toNat ≤ 1048576)) = false := by
  rw [Bool.and_eq_false_iff, decide_eq_false_iff_not, decide_eq_false_iff_not, low_field_zero y g (by omega), low_field y g (by omega)]
  omega

end

/-- Limits of which each holds, and of which one is broken. -/
theorem limits_hold {p q r : Bool} (hp : p = false) (hq : q = false) (hr : r = false) : (p || q || r) = false := by simp [*]
theorem limits_hold_five {p q r u v : Bool} (hp : p = false) (hq : q = false) (hr : r = false) (hu : u = false) (hv : v = false) :
    (p || q || r || u || v) = false := by simp [*]
theorem limits_break {p q r : Bool} (h : p = true ∨ q = true ∨ r = true) : (p || q || r) = true := by simpa [or_assoc] using h
theorem limits_break_five {p q r u v : Bool} (h : p = true ∨ q = true ∨ r = true ∨ u = true ∨ v = true) : (p || q || r || u || v) = true := by
  simpa [or_assoc] using h

/-- The notification of a PUT (R140). -/
def State.notify (s : State) (b : BitVec 5) (k : EKind) : Option (Rank × W32) :=
  if k == .put && (s.opS 1 b).val.getLsbD 54 then some (BitVec.ofNat 32 (s.rdC 0x017).toNat, BitVec.ofNat 32 ((s.rdC 0x017).toNat / 2 ^ 32))
  else none

/-- The pieces of GET and PUT as the model has them. -/
def getPieces (x y : Word) : List Piece :=
  if decide (y.extractLsb' 21 11 = 0) && decide ((y.extractLsb' 0 21).toNat ≤ 1048576) then
    rangePieces 0 (x.extractLsb' 0 48).toNat (y.extractLsb' 0 21).toNat else []

/-- The range that GET or PUT names. -/
def State.opRange (s : State) (a b : BitVec 5) : List Piece := rangePieces 0 (s.opVa a) (s.opLow b)

/-- What is legal without NTF is legal with it permitted. -/
theorem sbLegal_notify {y : Word} {any ntf anv : Bool} (h : sbLegal y any false anv) : sbLegal y any ntf anv :=
  ⟨h.1, h.2.1, h.2.2.1, fun _ => h.2.2.2.1 rfl, h.2.2.2.2⟩

/-- Without the flag, it does not matter whether it is permitted. -/
theorem sbLegal_without {y : Word} {any n m anv : Bool} (h : sbLegal y any n anv) (hbit : y.getLsbD 54 = false) : sbLegal y any m anv :=
  ⟨h.1, h.2.1, h.2.2.1, fun _ => hbit, h.2.2.2.2⟩

section
variable {s : State} {a b : BitVec 5}

theorem State.getPieces_eq (hlen : s.opLow b ≤ 1048576) (hva : s.opVa a < 2 ^ 48) :
    getPieces (s.opS 0 a).val (resolveDg (s.opS 1 b) (s.rdC crGROUP)).val = s.opRange a b := by
  obtain ⟨hok, hlow⟩ := getLen_ok (g := s.rdC crGROUP) hlen
  rw [getPieces, if_pos hok, hlow, address_eq hva]
  rfl

theorem State.getEnd_eq (hlen : s.opLow b ≤ 1048576) (hva : s.opVa a < 2 ^ 48) : ((s.opS 0 a).val.extractLsb' 0 48).toNat +
    ((resolveDg (s.opS 1 b) (s.rdC crGROUP)).val.extractLsb' 0 21).toNat = s.opVa a + s.opLow b := by
  rw [address_eq hva, (getLen_ok hlen).2]
  rfl

theorem State.notify_eq (s : State) (b : BitVec 5) (k : EKind) :
    (if (k == .put && (reqFlags (resolveDg (s.opS 1 b) (s.rdC crGROUP)).val).ntf) = true then some (loWord (s.rdC crNOTIFY), hiWord (s.rdC crNOTIFY))
      else none) = s.notify b k := by
  rw [reqFlags_ntf, loWord_eq, hiWord_eq]
  rfl

end

section
variable {s : State} (h : s.Issues) {d : BitVec 4} (hd : s.tile.thr.regs.getH d.toNat = none) {a b c : BitVec 5} {k : EKind} {opcode : Nat}
  (htable : s.tile.ni.full k = false) (hb : (s.opS 1 b).ok = true) (hc : (s.opS 2 c).ok = true)
include h hd htable hb hc

omit h hd htable hb hc in
/-- The buffer of GET or PUT is checked where its length is legal. -/
theorem State.getPut_mem (hrange : s.opLow b ≤ 1048576 → s.tile.oor (s.opZ c) (s.opLow b) = none) :
    s.oorOf (if decide ((resolveDg (s.opS 1 b) (s.rdC crGROUP)).val.extractLsb' 21 11 = 0) &&
      decide (((resolveDg (s.opS 1 b) (s.rdC crGROUP)).val.extractLsb' 0 21).toNat ≤ 1048576) then
      [((s.opS 2 c).val, ((resolveDg (s.opS 1 b) (s.rdC crGROUP)).val.extractLsb' 0 21).toNat)] else []) = none := by
  refine State.oorOf_ite fun hg => ?_
  have hlen : s.opLow b ≤ 1048576 := by
    by_contra hbig
    rw [getLen_bad (Nat.not_le.1 hbig)] at hg
    exact absurd hg (by decide)
  rw [(getLen_ok hlen).2]
  exact hrange hlen

omit h hd htable hb hc in
/-- A notification that is legal breaks no limit (R140). -/
theorem State.getPut_notifies {ps : List Piece} (hps : ps = s.opRange a b)
    (hnt : k = .put → (s.opS 1 b).val.getLsbD 54 = true → s.notifyOk (BitVec.ofNat 32 (s.rdC 0x017).toNat) = true ∧
      (homesOf (s.opRange a b)).length = 1) :
    ((k == .put && (reqFlags (resolveDg (s.opS 1 b) (s.rdC crGROUP)).val).ntf) &&
      (!s.notifyOk (loWord (s.rdC crNOTIFY)) || decide (1 < (homesOf ps).length))) = false := by
  rw [hps, reqFlags_ntf, loWord_eq]
  by_cases hput : k = .put ∧ (s.opS 1 b).val.getLsbD 54 = true
  · obtain ⟨hok, hone⟩ := hnt hput.1 hput.2
    rw [show s.notifyOk (BitVec.ofNat 32 (s.rdC crNOTIFY).toNat) = true from hok, hone]
    simp
  · have : (k == EKind.put && (s.opS 1 b).val.getLsbD 54) = false := by simpa using hput
    rw [this, Bool.false_and]

omit h hd htable hb hc in
/-- A notification that is not legal breaks one. -/
theorem State.getPut_notifies_not {ps : List Piece} (hps : ps = s.opRange a b) (hput : k = .put) (hntf : (s.opS 1 b).val.getLsbD 54 = true)
    (hbad : s.notifyOk (BitVec.ofNat 32 (s.rdC 0x017).toNat) = false ∨ 1 < (homesOf (s.opRange a b)).length) :
    ((k == .put && (reqFlags (resolveDg (s.opS 1 b) (s.rdC crGROUP)).val).ntf) &&
      (!s.notifyOk (loWord (s.rdC crNOTIFY)) || decide (1 < (homesOf ps).length))) = true := by
  have hrank : loWord (s.rdC crNOTIFY) = BitVec.ofNat 32 (s.rdC 0x017).toNat := loWord_eq _
  rw [hps, reqFlags_ntf, hrank, hput, hntf, Bool.and_eq_true, Bool.or_eq_true, Bool.not_eq_true', decide_eq_true_eq]
  exact ⟨rfl, hbad⟩

/-- GET and PUT within their limits. -/
theorem State.getPut_asks (hreq : k.isReq = true) (hout : s.mgmt.outMask = []) (hlegal : sbLegal (s.opS 1 b).val false (k == .put) false)
    (hlen : s.opLow b ≤ 1048576) (hva48 : s.opVa a < 2 ^ 48) (hva : s.opVa a + s.opLow b ≤ 2 ^ 48)
    (hrange : s.tile.oor (s.opZ c) (s.opLow b) = none)
    (hps : s.opRange a b ≠ [] ∧ (homesOf (s.opRange a b)).length ≤ 64)
    (hnt : k = .put → (s.opS 1 b).val.getLsbD 54 = true → s.notifyOk (BitVec.ofNat 32 (s.rdC 0x017).toNat) = true ∧
      (homesOf (s.opRange a b)).length = 1) :
    ∃ t, s.getPut d a b c k opcode = .next t ∧ Asked s d b k (s.opLow b) (s.opZ c).toNat k.shardKind
      (s.shards b k (s.opRange a b) (if k == .put then bytesAt s (s.opZ c) (s.opLow b) else []) 0 (s.notify b k)) t := by
  obtain ⟨hok, hlow⟩ := getLen_ok (g := s.rdC crGROUP) hlen
  have hpieces := State.getPieces_eq hlen hva48
  unfold State.getPut
  dsimp only
  refine State.serverReq_asks h hd htable (firstOf_pair hb hc) (State.getPut_mem fun _ => hrange) rfl ?_ hpieces hps hreq hout hlow ?_ rfl
    (State.notify_eq s b k) rfl rfl
  · refine limits_hold_five (congrArg (!·) hok) (decide_eq_false (not_not.2 ((high_zero_iff _).2 hva48))) (reqFlags_ok _ hlegal)
      (decide_eq_false (Nat.not_lt.2 ?_)) ?_
    · exact (State.getEnd_eq hlen hva48).trans_le hva
    · exact State.getPut_notifies hpieces hnt
  · split
    · exact (congrArg _ hlow).trans (h.reqBytes rfl hrange (by omega))
    · rfl

/-- GET and PUT of no byte (R136). -/
theorem State.getPut_empty (hlegal : sbLegal (s.opS 1 b).val false false false) (hlen : s.opLow b = 0) (hva : s.opVa a < 2 ^ 48)
    (hrange : s.tile.oor (s.opZ c) 0 = none) :
    ∃ t, s.getPut d a b c k opcode = .next t ∧ EndsNext 0 k d 0 s t := by
  obtain ⟨hok, hlow⟩ := getLen_ok (g := s.rdC crGROUP) (y := s.opS 1 b) (hlen.trans_le (by omega))
  have hzero : ((resolveDg (s.opS 1 b) (s.rdC crGROUP)).val.extractLsb' 0 21).toNat = 0 := hlow.trans hlen
  have hnone : s.opRange a b = [] := by rw [State.opRange, hlen]; rfl
  unfold State.getPut
  dsimp only
  refine State.serverReq_empty h hd htable (firstOf_pair hb hc) (State.getPut_mem fun _ => by rwa [hlen]) rfl ?_
    ((State.getPieces_eq (hlen.trans_le (by omega)) hva).trans hnone) hzero
  refine limits_hold_five (congrArg (!·) hok) (decide_eq_false (not_not.2 ((high_zero_iff _).2 hva))) (reqFlags_ok _ ?_)
    (decide_eq_false (Nat.not_lt.2 ?_)) (State.getPut_notifies (State.getPieces_eq (hlen.trans_le (by omega)) hva) fun _ hntf => ?_)
  · exact sbLegal_notify hlegal
  · exact (State.getEnd_eq (hlen.trans_le (by omega)) hva).trans_le (by rw [hlen]; exact hva.le)
  · exact absurd hntf (by rw [hlegal.2.2.2.1 rfl]; decide)

/-- GET and PUT that break a limit (R261, R367, R401). -/
theorem State.getPut_denied (hrange : s.opLow b ≤ 1048576 → s.tile.oor (s.opZ c) (s.opLow b) = none)
    (hlimit : ¬sbLegal (s.opS 1 b).val false (k == .put) false ∨ 2 ^ 48 ≤ s.opVa a ∨ 1048576 < s.opLow b ∨ 2 ^ 48 < s.opVa a + s.opLow b ∨
      64 < (homesOf (s.opRange a b)).length ∨ (k = .put ∧ (s.opS 1 b).val.getLsbD 54 = true ∧
        (s.notifyOk (BitVec.ofNat 32 (s.rdC 0x017).toNat) = false ∨ 1 < (homesOf (s.opRange a b)).length))) :
    ∃ t, s.getPut d a b c k opcode = .next t ∧ ∃ n, Denied k d n s t := by
  unfold State.getPut
  dsimp only
  refine State.serverReq_denied h hd htable (firstOf_pair hb hc) (State.getPut_mem hrange) rfl ?_
  rcases Nat.lt_or_ge 1048576 (s.opLow b) with hlong | hlen
  · exact .inl (limits_break_five (.inl (congrArg (!·) (getLen_bad hlong))))
  rcases Nat.lt_or_ge (s.opVa a) (2 ^ 48) with hva | hfar
  · obtain ⟨hok, hlow⟩ := getLen_ok (g := s.rdC crGROUP) hlen
    have hpieces := State.getPieces_eq hlen hva
    rcases hlimit with hflags | hfar | hlong | hend | hmany | ⟨hput, hntf, hbad⟩
    · exact .inl (limits_break_five (.inr (.inr (.inl ((reqFlags_bad _ _ _ _ _).2 hflags)))))
    · exact absurd hfar (Nat.not_le.2 hva)
    · exact absurd hlong (Nat.not_lt.2 hlen)
    · exact .inl (limits_break_five (.inr (.inr (.inr (.inl (decide_eq_true (hend.trans_eq (State.getEnd_eq hlen hva).symm)))))))
    · exact .inr (hmany.trans_eq (by rw [← hpieces]; rfl))
    · exact .inl (limits_break_five (.inr (.inr (.inr (.inr (State.getPut_notifies_not hpieces hput hntf hbad))))))
  · exact .inl (limits_break_five (.inr (.inl (decide_eq_true fun hz => absurd ((high_zero_iff _).1 hz) (Nat.not_lt.2 hfar)))))

end

/-! ### GETB and PUTB (R147, R272) -/

/-- The box that sa names, and whether it keeps the limits. -/
def State.opBox (s : State) (a : BitVec 5) : Box := readBox (s.ldBytes (s.opS 0 a).val 48)
def State.GoodBox (s : State) (a : BitVec 5) : Prop := s.opVa a % 8 = 0 ∧ ((s.opBox a).empty = true ∨ (s.opBox a).ok = true)

section
variable {s : State} {a b c : BitVec 5}

/-- Whether the model finds a box good. -/
theorem goodBox_iff : (decide ((s.opS 0 a).val.extractLsb' 0 3 = 0) && ((s.opBox a).empty || (s.opBox a).ok)) = true ↔ s.GoodBox a := by
  rw [Bool.and_eq_true, decide_eq_true_eq, Bool.or_eq_true, extract_eq_zero_iff, Nat.pow_zero, Nat.div_one]
  rfl

theorem boxPieces_eq (hgood : s.GoodBox a) (hfull : (s.opBox a).empty = false) :
    (if (decide ((s.opS 0 a).val.extractLsb' 0 3 = 0) && ((s.opBox a).empty || (s.opBox a).ok) && !(s.opBox a).empty) = true then
      (s.opBox a).pieces else []) = (s.opBox a).pieces :=
  if_pos (by rw [goodBox_iff.2 hgood, hfull]; rfl)

theorem State.oorOf_cons {p : Word} {n : Nat} {l : List (Word × Nat)} (hp : s.tile.oor p n = none) (hl : s.oorOf l = none) :
    s.oorOf ((p, n) :: l) = none := by
  simp only [State.oorOf, List.foldl_cons, hp]
  exact hl

/-- Bits 31:0 of sb. -/
theorem low_zero_iff (y : SVal) (g : Word) : loWord (resolveDg y g).val = 0 ↔ y.val.toNat % 2 ^ 32 = 0 := by
  rw [loWord_resolveDg, ← BitVec.toNat_inj, BitVec.toNat_ofNat]
  rfl

end

section
variable {s : State} (h : s.Issues) {d : BitVec 4} (hd : s.tile.thr.regs.getH d.toNat = none) {a b c : BitVec 5} {k : EKind} {opcode : Nat}
  (htable : s.tile.ni.full k = false) (ha : (s.opS 0 a).ok = true) (hc : (s.opS 2 c).ok = true) (hdesc : s.tile.oor (s.opS 0 a).val 48 = none)
include h hd htable ha hc hdesc

/-- GETB and PUTB of a box within the limits. -/
theorem State.boxReq_asks (hreq : k.isReq = true) (hout : s.mgmt.outMask = []) (hlegal : sbLegal (s.opS 1 b).val false false false)
    (hlow : s.opLow b = 0) (halign : s.opVa a % 8 = 0) (hok : (s.opBox a).ok = true) (hfull : (s.opBox a).empty = false)
    (hrange : s.tile.oor (s.opZ c) (s.opBox a).bytes = none) (hps : (s.opBox a).pieces ≠ [] ∧ (homesOf (s.opBox a).pieces).length ≤ 64) :
    ∃ t, s.boxReq d a b c k opcode = .next t ∧ Asked s d b k (s.opBox a).bytes (s.opZ c).toNat k.shardKind
      (s.shards b k (s.opBox a).pieces (if k == .putb then bytesAt s (s.opZ c) (s.opBox a).bytes else []) 0 none) t := by
  have hgood := goodBox_iff.2 ⟨halign, .inr hok⟩
  have hsize : (s.opBox a).bytes ≤ 2 ^ 64 := by
    rw [Box.ok, Bool.and_eq_true, decide_eq_true_eq] at hok
    omega
  have hlen : (if (decide ((s.opS 0 a).val.extractLsb' 0 3 = 0) && ((s.opBox a).empty || (s.opBox a).ok)) = true then
      (if (s.opBox a).empty = true then 0 else (s.opBox a).bytes) else 0) = (s.opBox a).bytes := by
    rw [if_pos hgood, hfull]
    rfl
  have hpieces := boxPieces_eq (s := s) (a := a) ⟨halign, .inr hok⟩ hfull
  unfold State.boxReq
  dsimp only
  refine State.serverReq_asks h hd htable (firstOf_pair ha hc) (State.oorOf_cons hdesc (State.oorOf_ite fun _ => ?_)) rfl ?_ hpieces hps hreq hout
    hlen ?_ rfl rfl rfl rfl
  · exact (congrArg (s.tile.oor _) hlen).trans hrange
  · exact limits_hold (congrArg (!·) hgood) (decide_eq_false (not_not.2 ((low_zero_iff _ _).2 hlow))) (reqFlags_ok _ hlegal)
  · split
    · exact (congrArg _ hlen).trans (h.reqBytes rfl hrange hsize)
    · rfl

/-- GETB and PUTB that break a limit (R261, R272, R367). -/
theorem State.boxReq_denied (hrange : s.GoodBox a → s.tile.oor (s.opZ c) (if (s.opBox a).empty then 0 else (s.opBox a).bytes) = none)
    (hlimit : ¬sbLegal (s.opS 1 b).val false false false ∨ s.opLow b ≠ 0 ∨ ¬s.GoodBox a ∨
      (s.GoodBox a ∧ (s.opBox a).empty = false ∧ 64 < (homesOf (s.opBox a).pieces).length)) :
    ∃ t, s.boxReq d a b c k opcode = .next t ∧ ∃ n, Denied k d n s t := by
  unfold State.boxReq
  dsimp only
  refine State.serverReq_denied h hd htable (firstOf_pair ha hc) (State.oorOf_cons hdesc (State.oorOf_ite fun hg => ?_)) rfl ?_
  · exact (congrArg (s.tile.oor _) (if_pos hg)).trans (hrange (goodBox_iff.1 hg))
  rcases hlimit with hflags | hlow | hbad | ⟨hgood, hfull, hmany⟩
  · exact .inl (limits_break (.inr (.inr ((reqFlags_bad _ _ _ _ _).2 hflags))))
  · exact .inl (limits_break (.inr (.inl (decide_eq_true fun hz => hlow ((low_zero_iff _ _).1 hz)))))
  · exact .inl (limits_break (.inl (congrArg (!·) (Bool.eq_false_iff.2 fun hg => hbad (goodBox_iff.1 hg)))))
  · refine .inr (hmany.trans_eq (congrArg (fun l => (homesOf l).length) ?_))
    exact (boxPieces_eq hgood hfull).symm

end

/-! ### GATH and SCAT (R148, R271) -/

/-- The buffer and the list that sc names, the count and the element size of sb. -/
def State.opLo (s : State) (c : BitVec 5) : Nat := (s.opS 2 c).val.toNat % 2 ^ 32
def State.opHi (s : State) (c : BitVec 5) : Nat := (s.opS 2 c).val.toNat / 2 ^ 32
def State.opCount (s : State) (b : BitVec 5) : Nat := s.opLow b % 2 ^ 11
def State.opCode (s : State) (b : BitVec 5) : Nat := s.opLow b / 2 ^ 12 % 8

/-- The pieces of a list request. -/
def State.opList (s : State) (a b c : BitVec 5) : List Piece :=
  listPieces (s.opVa a) (4 * 2 ^ s.opCode b) ((List.range (s.opCount b)).map fun i => ofLE (bytesAt s (BitVec.ofNat 64 (s.opHi c + 4 * i)) 4))

/-- The count is legal. -/
def State.Counted (s : State) (b : BitVec 5) : Prop := 1 ≤ s.opCount b ∧ s.opCount b ≤ 1024

section
variable {s : State} {b c : BitVec 5}

theorem State.opLo_eq (s : State) (c : BitVec 5) : (loWord (s.opS 2 c).val).toNat = s.opLo c := by
  rw [loWord_eq, BitVec.toNat_ofNat]
  rfl
theorem State.opHi_eq (s : State) (c : BitVec 5) : (hiWord (s.opS 2 c).val).toNat = s.opHi c := hiWord_toNat _

/-- Halves of sc as addresses. -/
theorem State.opLo_toNat (s : State) (c : BitVec 5) : (BitVec.ofNat 64 (s.opLo c)).toNat = s.opLo c := by
  rw [BitVec.toNat_ofNat, Nat.mod_eq_of_lt]
  rw [State.opLo]
  omega
theorem State.opHi_toNat (s : State) (c : BitVec 5) : (BitVec.ofNat 64 (s.opHi c)).toNat = s.opHi c := by
  have := (s.opS 2 c).val.isLt
  rw [BitVec.toNat_ofNat, Nat.mod_eq_of_lt]
  rw [State.opHi]
  omega

theorem State.opCount_eq (s : State) (b : BitVec 5) (g : Word) : ((resolveDg (s.opS 1 b) g).val.extractLsb' 0 11).toNat = s.opCount b := by
  rw [low_field _ _ (by omega), Nat.pow_zero, Nat.div_one]
  rfl
theorem State.opCode_eq (s : State) (b : BitVec 5) (g : Word) : ((resolveDg (s.opS 1 b) g).val.extractLsb' 12 3).toNat = s.opCode b := low_field _ _ (by omega)

theorem counted_iff (g : Word) : (decide (1 ≤ ((resolveDg (s.opS 1 b) g).val.extractLsb' 0 11).toNat) &&
    decide (((resolveDg (s.opS 1 b) g).val.extractLsb' 0 11).toNat ≤ 1024)) = true ↔ s.Counted b := by
  rw [Bool.and_eq_true, decide_eq_true_eq, decide_eq_true_eq, State.opCount_eq]
  rfl

theorem goodList_iff (g : Word) : (decide (1 ≤ ((resolveDg (s.opS 1 b) g).val.extractLsb' 0 11).toNat) &&
    decide (((resolveDg (s.opS 1 b) g).val.extractLsb' 0 11).toNat ≤ 1024) &&
    decide (((resolveDg (s.opS 1 b) g).val.extractLsb' 12 3).toNat ≠ 7)) = true ↔ s.Counted b ∧ s.opCode b ≠ 7 := by
  rw [Bool.and_eq_true, counted_iff, decide_eq_true_eq, State.opCode_eq]

/-- A bit of the low half. -/
theorem low_bit_iff (y : SVal) (g : Word) {i : Nat} (hi : i < 32) : (resolveDg y g).val.getLsbD i = true ↔ y.val.toNat % 2 ^ 32 / 2 ^ i % 2 = 1 := by
  have hone : ((resolveDg y g).val.extractLsb' i 1).toNat = y.val.toNat % 2 ^ 32 / 2 ^ i % 2 ^ 1 := low_field y g (by omega)
  rw [← Nat.pow_one 2, ← hone, BitVec.extractLsb'_toNat, Nat.shiftRight_eq_div_pow, Nat.pow_one, ← BitVec.testBit_toNat, Nat.testBit_eq_decide_div_mod_eq,
    decide_eq_true_eq]

theorem listLen_eq (g : Word) : ((resolveDg (s.opS 1 b) g).val.extractLsb' 0 11).toNat *
    esBytes ((resolveDg (s.opS 1 b) g).val.extractLsb' 12 3).toNat = s.opCount b * (4 * 2 ^ s.opCode b) := by
  rw [State.opCount_eq, State.opCode_eq, esBytes]

theorem listSize_le (h : s.Counted b) : s.opCount b * (4 * 2 ^ s.opCode b) ≤ 2 ^ 64 := by
  have hcode : s.opCode b ≤ 7 := by
    rw [State.opCode]
    omega
  have hpow : 2 ^ s.opCode b ≤ 2 ^ 7 := Nat.pow_le_pow_right (by decide) hcode
  have := Nat.mul_le_mul h.2 (Nat.mul_le_mul_left 4 hpow)
  omega

theorem State.oorOf_append {l m : List (Word × Nat)} (hl : s.oorOf l = none) (hm : s.oorOf m = none) : s.oorOf (l ++ m) = none := by
  rw [State.oorOf] at *
  rw [List.foldl_append, hl, hm]

/-- The list and the buffer are checked where they are legal. -/
theorem State.listReq_mem (hlist : s.Counted b → s.tile.oor (BitVec.ofNat 64 (s.opHi c)) (4 * s.opCount b) = none)
    (hbuf : s.Counted b → s.opCode b ≠ 7 → s.tile.oor (BitVec.ofNat 64 (s.opLo c)) (s.opCount b * (4 * 2 ^ s.opCode b)) = none) {g : Word} :
    s.oorOf ((if decide (1 ≤ ((resolveDg (s.opS 1 b) g).val.extractLsb' 0 11).toNat) &&
        decide (((resolveDg (s.opS 1 b) g).val.extractLsb' 0 11).toNat ≤ 1024) &&
        decide (((resolveDg (s.opS 1 b) g).val.extractLsb' 12 3).toNat ≠ 7) then
        [(BitVec.ofNat 64 (loWord (s.opS 2 c).val).toNat, ((resolveDg (s.opS 1 b) g).val.extractLsb' 0 11).toNat *
          esBytes ((resolveDg (s.opS 1 b) g).val.extractLsb' 12 3).toNat)] else []) ++
      if decide (1 ≤ ((resolveDg (s.opS 1 b) g).val.extractLsb' 0 11).toNat) &&
        decide (((resolveDg (s.opS 1 b) g).val.extractLsb' 0 11).toNat ≤ 1024) then
        [(BitVec.ofNat 64 (hiWord (s.opS 2 c).val).toNat, 4 * ((resolveDg (s.opS 1 b) g).val.extractLsb' 0 11).toNat)] else []) = none := by
  refine State.oorOf_append (State.oorOf_ite fun hg => ?_) (State.oorOf_ite fun hg => ?_)
  · obtain ⟨hcount, hcode⟩ := (goodList_iff g).1 hg
    rw [listLen_eq, State.opLo_eq]
    exact hbuf hcount hcode
  · rw [State.opCount_eq, State.opHi_eq]
    exact hlist ((counted_iff g).1 hg)

/-- What SCAT and GATH carry where nothing is poisoned. -/
theorem scatData_eq {p : Bool} {u v : List Byte × List (Nat × Nat)} {l : List Byte} {f : Nat × Nat → List (Nat × Nat)} (hu : u = (l, []))
    (hv : v.2 = []) : (if p then (u.1, u.2 ++ v.2.flatMap f) else ([], v.2.flatMap f)) = (if p then l else [], []) := by
  cases p <;> simp [hu, hv]

/-- A part of a range of bytes. -/
theorem bytesAt_slice (s : State) (a : Nat) {n i k : Nat} (h : i + k ≤ n) :
    ((bytesAt s (BitVec.ofNat 64 a) n).drop i).take k = bytesAt s (BitVec.ofNat 64 (a + i)) k := by
  refine List.ext_getElem (by simp [bytesAt]; omega) fun j h1 h2 => ?_
  simp only [List.length_take, List.length_drop, bytesAt, List.length_map, List.length_range] at h1
  simp [bytesAt, BitVec.ofNat_add, BitVec.add_assoc]

end

/-- What a request reads at sc[31:0]. -/
theorem State.Issues.reqBytes_lo {s : State} (h : s.Issues) {c : BitVec 5} {n : Nat} (hrange : s.tile.oor (BitVec.ofNat 64 (s.opLo c)) n = none)
    (hn : n ≤ 2 ^ 64) : s.reqBytes (loWord (s.opS 2 c).val).toNat n = (bytesAt s (BitVec.ofNat 64 (s.opLo c)) n, []) := by
  rw [State.opLo_eq, h.reqBytes (s.opLo_toNat c) hrange hn]

/-- The list of GATH or SCAT as the model reads it. -/
def State.listWords (s : State) (b c : BitVec 5) : List Byte × List (Nat × Nat) :=
  s.reqBytes (hiWord (s.opS 2 c).val).toNat (4 * ((resolveDg (s.opS 1 b) (s.rdC crGROUP)).val.extractLsb' 0 11).toNat)

section
variable {s : State} (h : s.Issues) {a b c : BitVec 5} (hcount : s.Counted b)
  (hlist : s.tile.oor (BitVec.ofNat 64 (s.opHi c)) (4 * s.opCount b) = none)
include h hcount hlist

theorem State.Issues.listWords_eq : s.listWords b c = (bytesAt s (BitVec.ofNat 64 (s.opHi c)) (4 * s.opCount b), []) := by
  have hsmall := hcount.2
  rw [State.listWords, State.opHi_eq, State.opCount_eq, h.reqBytes (s.opHi_toNat c) hlist (by omega)]

/-- The pieces that the model makes of the list. -/
theorem State.Issues.listPieces_eq (hva : s.opVa a < 2 ^ 48) : listPieces ((s.opS 0 a).val.extractLsb' 0 48).toNat
    (esBytes ((resolveDg (s.opS 1 b) (s.rdC crGROUP)).val.extractLsb' 12 3).toNat)
    ((List.range ((resolveDg (s.opS 1 b) (s.rdC crGROUP)).val.extractLsb' 0 11).toNat).map fun i =>
      ofLE (((s.listWords b c).1.drop (4 * i)).take 4)) = s.opList a b c := by
  have hidx : ((List.range (s.opCount b)).map fun i => ofLE (((s.listWords b c).1.drop (4 * i)).take 4)) =
      (List.range (s.opCount b)).map fun i => ofLE (bytesAt s (BitVec.ofNat 64 (s.opHi c + 4 * i)) 4) := by
    refine List.map_congr_left fun i hi => ?_
    rw [h.listWords_eq hcount hlist, bytesAt_slice s _ (by have := List.mem_range.1 hi; omega)]
  rw [address_eq hva, State.opCode_eq, State.opCount_eq, hidx]
  rfl

end

section
variable {s : State} (h : s.Issues) {d : BitVec 4} (hd : s.tile.thr.regs.getH d.toNat = none) {a b c : BitVec 5} {k : EKind} {opcode : Nat}
  (htable : s.tile.ni.full k = false) (hb : (s.opS 1 b).ok = true) (hc : (s.opS 2 c).ok = true)
  (hlist : s.Counted b → s.tile.oor (BitVec.ofNat 64 (s.opHi c)) (4 * s.opCount b) = none)
  (hbuf : s.Counted b → s.opCode b ≠ 7 → s.tile.oor (BitVec.ofNat 64 (s.opLo c)) (s.opCount b * (4 * 2 ^ s.opCode b)) = none)
include h hd htable hb hc hlist hbuf

/-- GATH and SCAT within their limits. -/
theorem State.listReq_asks (hreq : k.isReq = true) (hout : s.mgmt.outMask = []) (hlegal : sbLegal (s.opS 1 b).val false false false)
    (hva : s.opVa a < 2 ^ 48) (hcount : s.Counted b) (hbit : s.opLow b / 2 ^ 11 % 2 = 0) (hcode : s.opLow b / 2 ^ 12 < 7)
    (hps : s.opList a b c ≠ [] ∧ (homesOf (s.opList a b c)).length ≤ 64) :
    ∃ t, s.listReq d a b c k opcode = .next t ∧ Asked s d b k (s.opCount b * (4 * 2 ^ s.opCode b)) (s.opLo c) k.shardKind
      (s.shards b k (s.opList a b c) (if k == .scat then bytesAt s (BitVec.ofNat 64 (s.opLo c)) (s.opCount b * (4 * 2 ^ s.opCode b)) else [])
        0 none) t := by
  have hseven : s.opCode b ≠ 7 := by
    rw [State.opCode]
    omega
  have hrest : (s.opS 1 b).val.toNat % 2 ^ 32 / 2 ^ 15 % 2 ^ 17 = 0 := by
    rw [State.opLow] at hcode
    omega
  have hgood := (goodList_iff (s.rdC crGROUP)).2 ⟨hcount, hseven⟩
  have hwords := h.listWords_eq hcount (hlist hcount)
  have hdata : s.reqBytes (loWord (s.opS 2 c).val).toNat (((resolveDg (s.opS 1 b) (s.rdC crGROUP)).val.extractLsb' 0 11).toNat *
      esBytes ((resolveDg (s.opS 1 b) (s.rdC crGROUP)).val.extractLsb' 12 3).toNat) =
      (bytesAt s (BitVec.ofNat 64 (s.opLo c)) (s.opCount b * (4 * 2 ^ s.opCode b)), []) := by
    rw [listLen_eq, h.reqBytes_lo (hbuf hcount hseven) (listSize_le hcount)]
  unfold State.listReq
  dsimp only
  refine State.serverReq_asks h hd htable (firstOf_pair hb hc) (State.listReq_mem hlist hbuf) rfl ?_
    ((if_pos hgood).trans (h.listPieces_eq hcount (hlist hcount) hva)) hps hreq hout (listLen_eq _) ?_ rfl rfl
    (congrArg (Buf.store · _) (s.opLo_eq c)) rfl
  · exact limits_hold_five (congrArg (!·) hgood) (Bool.eq_false_iff.2 fun hset => absurd (hbit.symm.trans ((low_bit_iff _ _ (by omega)).1 hset)) (by decide))
      (decide_eq_false (not_not.2 ((low_field_zero _ _ (by omega)).2 hrest))) (decide_eq_false (not_not.2 ((high_zero_iff _).2 hva)))
      (reqFlags_ok _ hlegal)
  · exact scatData_eq hdata (congrArg Prod.snd hwords)

/-- GATH and SCAT that break a limit (R261, R367). -/
theorem State.listReq_denied (hlimit : ¬sbLegal (s.opS 1 b).val false false false ∨ 2 ^ 48 ≤ s.opVa a ∨ ¬s.Counted b ∨ s.opCode b = 7 ∨
      s.opLow b / 2 ^ 11 % 2 = 1 ∨ 2 ^ 15 ≤ s.opLow b ∨ 64 < (homesOf (s.opList a b c)).length) :
    ∃ t, s.listReq d a b c k opcode = .next t ∧ ∃ n, Denied k d n s t := by
  unfold State.listReq
  dsimp only
  refine State.serverReq_denied h hd htable (firstOf_pair hb hc) (State.listReq_mem hlist hbuf) rfl ?_
  by_cases hgood : s.Counted b ∧ s.opCode b ≠ 7
  swap
  · exact .inl (limits_break_five (.inl (congrArg (!·) (Bool.eq_false_iff.2 fun hg => hgood ((goodList_iff _).1 hg)))))
  rcases Nat.lt_or_ge (s.opVa a) (2 ^ 48) with hva | hfar
  swap
  · exact .inl (limits_break_five (.inr (.inr (.inr (.inl (decide_eq_true fun hz => absurd ((high_zero_iff _).1 hz) (Nat.not_lt.2 hfar)))))))
  rcases hlimit with hflags | hfar | hcount | hseven | hbit | hlong | hmany
  · exact .inl (limits_break_five (.inr (.inr (.inr (.inr ((reqFlags_bad _ _ _ _ _).2 hflags))))))
  · exact absurd hfar (Nat.not_le.2 hva)
  · exact absurd hgood.1 hcount
  · exact absurd hseven hgood.2
  · exact .inl (limits_break_five (.inr (.inl ((low_bit_iff _ _ (by omega)).2 hbit))))
  · refine .inl (limits_break_five (.inr (.inr (.inl (decide_eq_true fun hz => ?_)))))
    have hz := (low_field_zero _ _ (by omega)).1 hz
    rw [State.opLow] at hlong
    omega
  · refine .inr (hmany.trans_eq (congrArg (fun l => (homesOf l).length) ?_))
    exact ((if_pos ((goodList_iff _).2 hgood)).trans (h.listPieces_eq hgood.1 (hlist hgood.1) hva)).symm

end

/-! ### APPLY and CAS (R149, R150, R271) -/

/-- The width of APPLY's operand; a reserved OP has width 0 (log 33). -/
def State.opWidth (s : State) (b : BitVec 5) : Nat := applyWidth (s.opLow b % 16)

section
variable {s : State} {b : BitVec 5}

theorem applyWidth_eq {n : Nat} (h : n < 16) :
    applyWidth n = if n = 0 ∨ n = 10 then 4 else if n = 11 then 64 else if n < 12 then 8 else 0 := by
  interval_cases n <;> rfl

theorem applyWidth_mem (n : Nat) : applyWidth n ∈ [0, 4, 8, 64] := by
  unfold applyWidth
  split <;> decide

theorem State.opWidth_eq (s : State) (b : BitVec 5) (g : Word) : applyWidth ((resolveDg (s.opS 1 b) g).val.extractLsb' 0 4).toNat = s.opWidth b := by
  rw [low_field _ _ (by omega), Nat.pow_zero, Nat.div_one]
  rfl

theorem State.opWidth_le (s : State) (b : BitVec 5) : s.opWidth b ≤ 2 ^ 64 := by
  have := applyWidth_mem (s.opLow b % 16)
  simp only [List.mem_cons, List.not_mem_nil, or_false] at this
  rw [State.opWidth]
  omega

theorem homesOf_one (k va n : Nat) : (homesOf [⟨k, va, n⟩]).length = 1 := rfl

/-- Operands without poison. -/
theorem operand_data {m n : Nat} (hm : m = n) {l : List Byte} {a : Nat} (h : s.reqBytes a n = (l, [])) :
    ((s.reqBytes a m).1, poisonedWhole m (s.reqBytes a m).2) = (l, []) := by
  rw [hm, h]
  rfl

/-- The operands of APPLY are in range. -/
theorem execApply_mem {c : BitVec 5} (hsrc : s.tile.oor (BitVec.ofNat 64 (s.opLo c)) (s.opWidth b) = none)
    (hold : s.tile.oor (BitVec.ofNat 64 (s.opHi c)) (s.opWidth b) = none) {g : Word} :
    s.oorOf [(BitVec.ofNat 64 (loWord (s.opS 2 c).val).toNat, applyWidth ((resolveDg (s.opS 1 b) g).val.extractLsb' 0 4).toNat),
      (BitVec.ofNat 64 (hiWord (s.opS 2 c).val).toNat, applyWidth ((resolveDg (s.opS 1 b) g).val.extractLsb' 0 4).toNat)] = none := by
  rw [State.opLo_eq, State.opHi_eq, State.opWidth_eq]
  exact State.oorOf_two hsrc hold

end

section
variable {s : State} (h : s.Issues) {d : BitVec 4} (hd : s.tile.thr.regs.getH d.toNat = none) {a b c : BitVec 5} (htable : s.tile.ni.full .apply = false)
  (hc : (s.opS 2 c).ok = true)
include h hd htable hc

section
variable (hsrc : s.tile.oor (BitVec.ofNat 64 (s.opLo c)) (s.opWidth b) = none) (hold : s.tile.oor (BitVec.ofNat 64 (s.opHi c)) (s.opWidth b) = none)
include hsrc hold

/-- APPLY within its limits. -/
theorem execApply_asks (hout : s.mgmt.outMask = []) (hlegal : sbLegal (s.opS 1 b).val false false false) (hva : s.opVa a < 2 ^ 48)
    (hlow : s.opLow b < 16) : ∃ t, execApply d a b c s = .next t ∧ Asked s d b .apply (s.opWidth b) (s.opHi c) 6
      (s.shards b .apply [⟨0, s.opVa a, s.opWidth b⟩] (bytesAt s (BitVec.ofNat 64 (s.opLo c)) (s.opWidth b)) (s.opLow b) none) t := by
  have hrest : (s.opS 1 b).val.toNat % 2 ^ 32 / 2 ^ 4 % 2 ^ 28 = 0 := by
    rw [State.opLow] at hlow
    omega
  have hop : ((resolveDg (s.opS 1 b) (s.rdC crGROUP)).val.extractLsb' 0 4).toNat = s.opLow b := by
    rw [low_field _ _ (by omega), Nat.pow_zero, Nat.div_one]
    exact Nat.mod_eq_of_lt hlow
  have hwidth := s.opWidth_eq b (s.rdC crGROUP)
  unfold execApply
  dsimp only
  refine State.serverReq_asks h hd htable (resCheck_ok hc _ _) (execApply_mem hsrc hold) rfl ?_
    (congrArg₂ (fun va n => [(⟨0, va, n⟩ : Piece)]) (address_eq hva) hwidth) ⟨by simp, by rw [homesOf_one]; decide⟩ rfl hout hwidth ?_ hop rfl
    (congrArg (Buf.store · _) (s.opHi_eq c)) rfl
  · exact limits_hold (decide_eq_false (not_not.2 ((low_field_zero _ _ (by omega)).2 hrest)))
      (decide_eq_false (not_not.2 ((high_zero_iff _).2 hva))) (reqFlags_ok _ hlegal)
  · exact operand_data hwidth (h.reqBytes_lo hsrc (s.opWidth_le b))

/-- APPLY that breaks a limit (R261, R367). -/
theorem execApply_denied (hlimit : ¬sbLegal (s.opS 1 b).val false false false ∨ 2 ^ 48 ≤ s.opVa a ∨ 16 ≤ s.opLow b) :
    ∃ t, execApply d a b c s = .next t ∧ ∃ n, Denied .apply d n s t := by
  unfold execApply
  dsimp only
  refine State.serverReq_denied h hd htable (resCheck_ok hc _ _) (execApply_mem hsrc hold) rfl (.inl ?_)
  rcases hlimit with hflags | hfar | hlong
  · exact limits_break (.inr (.inr ((reqFlags_bad _ _ _ _ _).2 hflags)))
  · exact limits_break (.inr (.inl (decide_eq_true fun hz => absurd ((high_zero_iff _).1 hz) (Nat.not_lt.2 hfar))))
  · refine limits_break (.inl (decide_eq_true fun hz => ?_))
    have hz := (low_field_zero _ _ (by omega)).1 hz
    rw [State.opLow] at hlong
    omega

end

end

section
variable {s : State} (h : s.Issues) {d : BitVec 4} (hd : s.tile.thr.regs.getH d.toNat = none) {a b c : BitVec 5} (htable : s.tile.ni.full .cas = false)
  (hc : (s.opS 2 c).ok = true) (hsrc : s.tile.oor (BitVec.ofNat 64 (s.opLo c)) 16 = none) (hold : s.tile.oor (BitVec.ofNat 64 (s.opHi c)) 8 = none)
include h hd htable hc hsrc hold

omit h hd htable hc in
theorem execCas_mem : s.oorOf [(BitVec.ofNat 64 (loWord (s.opS 2 c).val).toNat, 16), (BitVec.ofNat 64 (hiWord (s.opS 2 c).val).toNat, 8)] = none := by
  rw [State.opLo_eq, State.opHi_eq]
  exact State.oorOf_two hsrc hold

/-- CAS within its limits. -/
theorem execCas_asks (hout : s.mgmt.outMask = []) (hlegal : sbLegal (s.opS 1 b).val false false false) (hva : s.opVa a < 2 ^ 48)
    (hlow : s.opLow b = 0) : ∃ t, execCas d a b c s = .next t ∧ Asked s d b .cas 8 (s.opHi c) 7
      (s.shards b .cas [⟨0, s.opVa a, 8⟩] (bytesAt s (BitVec.ofNat 64 (s.opLo c)) 16) 0 none) t := by
  unfold execCas
  dsimp only
  refine State.serverReq_asks h hd htable (resCheck_ok hc _ _) (execCas_mem hsrc hold) rfl ?_
    (congrArg (fun va => [(⟨0, va, 8⟩ : Piece)]) (address_eq hva)) ⟨by simp, by rw [homesOf_one]; decide⟩ rfl hout rfl ?_ rfl rfl
    (congrArg (Buf.store · _) (s.opHi_eq c)) rfl
  · exact limits_hold (decide_eq_false (not_not.2 ((low_zero_iff _ _).2 hlow))) (decide_eq_false (not_not.2 ((high_zero_iff _).2 hva)))
      (reqFlags_ok _ hlegal)
  · exact operand_data rfl (h.reqBytes_lo hsrc (by decide))

/-- CAS that breaks a limit (R261, R367). -/
theorem execCas_denied (hlimit : ¬sbLegal (s.opS 1 b).val false false false ∨ 2 ^ 48 ≤ s.opVa a ∨ s.opLow b ≠ 0) :
    ∃ t, execCas d a b c s = .next t ∧ ∃ n, Denied .cas d n s t := by
  unfold execCas
  dsimp only
  refine State.serverReq_denied h hd htable (resCheck_ok hc _ _) (execCas_mem hsrc hold) rfl (.inl ?_)
  rcases hlimit with hflags | hfar | hlow
  · exact limits_break (.inr (.inr ((reqFlags_bad _ _ _ _ _).2 hflags)))
  · exact limits_break (.inr (.inl (decide_eq_true fun hz => absurd ((high_zero_iff _).1 hz) (Nat.not_lt.2 hfar))))
  · exact limits_break (.inl (decide_eq_true fun hz => hlow ((low_zero_iff _ _).1 hz)))

end

/-! ### O32 -/

/-- Settles O32: each server request by whether it keeps its limits, breaks one, or has no byte. -/
theorem serverRequests : Obligations.ServerRequests := by
  unfold Obligations.ServerRequests
  intro d a b c s hready hd htable hout ha hb hc x y z lo hi va bytes inside shards asked few low
  have h := issues_of_netReady hready
  refine ⟨fun hlegal hpos hlen hva hrange hfew => ⟨fun hbit => ?_, fun hbit => ?_, fun hbit hok hone => ?_⟩,
    fun hlegal => ⟨fun hlow halign hdesc hok hfull hrange hfew => ⟨?_, ?_⟩,
      fun hva hpos hcount hbit hcode hbuf hlist hfew => ⟨?_, ?_⟩, fun hva hlow hsrc hold => ?_, fun hva hlow hsrc hold => ?_⟩,
    fun hlegal hva hlow hrange => ⟨?_, ?_⟩, fun hrange => ⟨fun hlimit => ?_, fun hlimit => ?_⟩, fun hdesc hrange hlimit => ⟨?_, ?_⟩,
    fun hlist hbuf hlimit => ⟨?_, ?_⟩, fun hwidths hlimit => ?_, fun hsrc hold hlimit => ?_⟩
  · exact State.getPut_asks (k := .get) (a := a) h hd htable hb hc rfl hout (sbLegal_without hlegal hbit) hlen (show va < 2 ^ 48 by omega) hva hrange hfew nofun
  · have hnone : s.notify b .put = none := if_neg (by rw [hbit]; decide)
    have hasks := State.getPut_asks (k := .put) (opcode := 0x0E) (a := a) h hd htable hb hc rfl hout hlegal hlen (show va < 2 ^ 48 by omega) hva hrange hfew
      fun _ hset => absurd (hbit.symm.trans hset) (by decide)
    rwa [hnone] at hasks
  · have hsome : s.notify b .put = some (BitVec.ofNat 32 (s.rdC 0x017).toNat, BitVec.ofNat 32 ((s.rdC 0x017).toNat / 2 ^ 32)) :=
      if_pos (by rw [hbit]; rfl)
    have hasks := State.getPut_asks (k := .put) (opcode := 0x0E) (a := a) h hd htable hb hc rfl hout hlegal hlen (show va < 2 ^ 48 by omega) hva hrange hfew
      fun _ _ => ⟨hok, hone⟩
    rwa [hsome] at hasks
  · exact State.boxReq_asks (k := .getb) h hd htable ha hc hdesc rfl hout hlegal hlow halign hok hfull hrange hfew
  · exact State.boxReq_asks (k := .putb) h hd htable ha hc hdesc rfl hout hlegal hlow halign hok hfull hrange hfew
  · have hes : s.opCode b = low / 2 ^ 12 := Nat.mod_eq_of_lt (show low / 2 ^ 12 < 8 by omega)
    have hasks := State.listReq_asks (k := .gath) (opcode := 0x11) (a := a) h hd htable hb hc (fun _ => hlist) (fun _ _ => by rw [hes]; exact hbuf) rfl
      hout hlegal hva ⟨hpos, hcount⟩ hbit hcode (by rw [State.opList, hes]; exact hfew)
    rw [State.opList, hes] at hasks
    exact hasks
  · have hes : s.opCode b = low / 2 ^ 12 := Nat.mod_eq_of_lt (show low / 2 ^ 12 < 8 by omega)
    have hasks := State.listReq_asks (k := .scat) (opcode := 0x12) (a := a) h hd htable hb hc (fun _ => hlist) (fun _ _ => by rw [hes]; exact hbuf) rfl
      hout hlegal hva ⟨hpos, hcount⟩ hbit hcode (by rw [State.opList, hes]; exact hfew)
    rw [State.opList, hes] at hasks
    exact hasks
  · have hw : s.opWidth b = if low = 0 ∨ low = 10 then 4 else if low = 11 then 64 else if low < 12 then 8 else 0 := by
      rw [State.opWidth, show s.opLow b % 16 = low from Nat.mod_eq_of_lt hlow, applyWidth_eq hlow]
    rw [← hw] at hsrc hold ⊢
    exact execApply_asks h hd htable hc hsrc hold hout hlegal hva hlow
  · exact execCas_asks h hd htable hc hsrc hold hout hlegal hva hlow
  · exact State.getPut_empty (k := .get) h hd htable hb hc hlegal hlow hva hrange
  · exact State.getPut_empty (k := .put) h hd htable hb hc hlegal hlow hva hrange
  · refine State.getPut_denied (k := .get) (a := a) h hd htable hb hc hrange ?_
    rcases hlimit with hflags | hlong
    · exact .inl hflags
    · exact .inr (hlong.imp_right fun hlong => hlong.imp_right fun hlong => hlong.imp_right fun hmany => .inl hmany.2)
  · refine State.getPut_denied (k := .put) (a := a) h hd htable hb hc hrange ?_
    rcases hlimit with hflags | hlong | ⟨hntf, hbad⟩
    · exact .inl hflags
    · exact .inr (hlong.imp_right fun hlong => hlong.imp_right fun hlong => hlong.imp_right fun hmany => .inl hmany.2)
    · exact .inr (.inr (.inr (.inr (.inr ⟨rfl, hntf, hbad⟩))))
  · exact State.boxReq_denied (k := .getb) h hd htable ha hc hdesc hrange hlimit
  · exact State.boxReq_denied (k := .putb) h hd htable ha hc hdesc hrange hlimit
  · exact State.listReq_denied (k := .gath) h hd htable hb hc hlist hbuf hlimit
  · exact State.listReq_denied (k := .scat) h hd htable hb hc hlist hbuf hlimit
  · obtain ⟨hsrc, hold⟩ := hwidths _ (applyWidth_mem (s.opLow b % 16))
    exact execApply_denied h hd htable hc hsrc hold hlimit
  · exact execCas_denied h hd htable hc hsrc hold hlimit

end Sys2Proof.Machine
end

section
/-!
Handles (R100, R263, R266 to R270, R273): what WAITM, TESTM, MREC, CANCEL, FREEH and PROBE do on a tile that stands alone.
-/
namespace Sys2Proof.Machine

open Sys2Proof.Safety

theorem exec_waitm (k : BitVec 4) (j : BitVec 3) (s : State) : exec (.waitm k j) s = execWaitm k j s := rfl
theorem exec_testm (k : BitVec 4) (j : BitVec 3) (s : State) : exec (.testm k j) s = execTestm k j s := rfl
theorem exec_mrec (d : BitVec 5) (k : BitVec 4) (w : BitVec 2) (s : State) : exec (.mrec d k w) s = execMrec d k w s := rfl
theorem exec_cancel (k : BitVec 4) (s : State) : exec (.cancel k) s = execCancel k s := rfl
theorem exec_unpub (k : BitVec 4) (s : State) : exec (.unpub k) s = execUnpub k s := rfl
theorem exec_freeh (k : BitVec 4) (s : State) : exec (.freeh k) s = execFreeh k s := rfl
theorem exec_probe (d a b : BitVec 5) (j : BitVec 3) (s : State) : exec (.probe d a b j) s = execProbe d a b j s := rfl

/-! ### A handle that names an entry (R263) -/

/-- A confirmed path without poison of a tile that stands alone; hk names the entry `e`. -/
structure State.Handles (s : State) (k : BitVec 4) (e : Ent) : Prop where
  unpoisoned : Unpoisoned s
  confirmed : s.tile.spec = none
  alone : s.Alone s.tile.ep
  named : s.rdH k = some e.id
  nonzero : e.id ≠ 0
  entry : s.tile.ni.ent e.id = some e

section
variable {s : State} {k : BitVec 4} {e : Ent} (h : s.Handles k e)
include h

theorem State.Handles.handle (f : Nat → State → State) : s.handle k f = .next (f e.id s) := by
  rw [State.handle, h.named]
  exact State.checked_plain h.unpoisoned _ rfl rfl rfl

theorem State.Handles.ent : s.ent s.tile.ep e.id = some e := by rw [h.alone.ent, h.entry]

omit h in
/-- A tile that stands alone reads its own state, and queues nothing (R430). -/
theorem State.Alone.asyncRead {key : Nat} (h : s.Alone key) (own : State → Out) (f : List Word → State → Out) : s.asyncRead own f = own s := by
  rw [State.asyncRead, State.pairOf_of_none h.twin]

omit h in
theorem State.Alone.queueResult {key : Nat} (h : s.Alone key) (ws : List Word) : s.queueResult ws = s := by
  rw [State.queueResult, State.queueEntry, State.pairOf_of_none h.twin]

end

/-! ### Observation (R121, R267) -/

/-- An observed entry. -/
def Ent.seen (e : Ent) : Ent := { e with observed := true }

@[simp] theorem Ni.acquire_ents (n : Ni) (e : Ent) : (n.acquire e).ents = n.ents := by
  unfold Ni.acquire
  split
  · dsimp only; split <;> rfl
  · dsimp only; split <;> rfl

/-- The tile after the observation of an entry that is no mailbox. -/
def State.seen (s : State) (e : Ent) : State := s.net ((s.tile.ni.acquire e).modEnt e.id Ent.seen) s.torus

/-- What a slot that writes only registers leaves of the tile. -/
theorem onlyRegs_tile {rs : List Reg} {s t : State} (h : OnlyRegs rs s t) :
    t.tile.ni = s.tile.ni ∧ t.tile.iss = s.tile.iss ∧ t.tile.thr.pc = s.tile.thr.pc ∧ t.tile.thr.pend = s.tile.thr.pend ∧
      ∀ key, s.Alone key → t.Alone key := by
  obtain ⟨-, -, -, ht⟩ := h
  rw [ht]
  exact ⟨rfl, rfl, rfl, rfl, fun _ ha => ⟨ha.focus, ha.isTile, ha.twin⟩⟩

section
variable {s : State} {k : BitVec 4} {e : Ent} (h : s.Handles k e) (hdone : e.phase = .done)
include h hdone

/-- The observation of a completed entry. -/
theorem State.Handles.observe : s.observe s.tile.ep e.id = s.seen e := by
  have halone : (s.net (s.tile.ni.acquire e) s.torus).Alone s.tile.ep := (State.alone_net _ _).2 h.alone
  simp only [State.observe, h.ent, hdone, h.alone.modNi, halone.modEnt]
  simp
  rfl

/-- WAITM and TESTM of a completed entry (R267). -/
theorem State.Handles.observation {j : BitVec 3} (hclash : s.clash (.p j.toNat) = false) (hbox : e.kind ≠ .postm) (wait : Bool) :
    ∃ t, s.observation k j e.id wait = t.msgTrap k e.rcd.status ∧ ToP (s.seen e) t j (if wait then okStatus e.rcd.status else true) 1 := by
  have halone : (s.seen e).Alone s.tile.ep := (State.alone_net _ _).2 h.alone
  have hent : (s.seen e).ent s.tile.ep e.id = some e.seen := by
    rw [halone.ent]
    exact Ni.ent_modEnt (by rw [Ni.ent, Ni.acquire_ents]; exact h.entry) fun _ => rfl
  have hrec : (s.seen e).seenRec e.id = e.rcd := by
    have hkind : (e.seen.kind == EKind.postm) = false := by simpa [Ent.seen] using hbox
    rw [State.seenRec, show (s.seen e).tile.ep = s.tile.ep from rfl, hent]
    simp only [Ent.record, hkind, Bool.false_and]
    rfl
  have hspec := State.wrP_spec (s := s.seen e) h.unpoisoned.2 hclash (if wait then okStatus e.rcd.status else true) 1
  have hafter := (onlyRegs_tile hspec.2.2).2.2.2.2 _ halone
  refine ⟨_, ?_, hspec⟩
  simp only [State.observation, h.observe hdone, hrec, hafter.queueResult]

end

/-! ### WAITM and TESTM (R267) -/

/-- An entry that is no mailbox can be observed once it has completed. -/
theorem Ent.observable_iff {e : Ent} (hbox : e.kind ≠ .postm) : e.observable = decide (e.phase = .done) := by
  simp only [Ent.observable, decide_eq_false hbox, Bool.false_and, Bool.false_eq_true, if_false]
  exact beq_eq_decide _ _

/-- The entries after an observation. -/
theorem State.seen_ents (s : State) (e : Ent) :
    (s.seen e).tile.ni.ents = s.tile.ni.ents.map fun x => if x.id = e.id then { x with observed := true } else x := by
  show ((s.tile.ni.acquire e).modEnt e.id Ent.seen).ents = _
  rw [Ni.modEnt_ents, Ni.acquire_ents]
  rfl

section
variable {s : State} {k : BitVec 4} {e : Ent} (h : s.Handles k e) {j : BitVec 3} (hbox : e.kind ≠ .postm)
include h hbox

theorem State.Handles.waitm_done (hdone : e.phase = .done) : execWaitm k j s = .next (s.observation k j e.id true) := by
  simp only [execWaitm, State.confirmed_of_none h.confirmed, h.named, h.alone.asyncRead, h.ent, Ent.observable_iff hbox, hdone, decide_true,
    Bool.not_true, State.stallIf_false, h.handle]

theorem State.Handles.waitm_open (hopen : e.phase ≠ .done) : execWaitm k j s = .next (s.stallOn (.waitm k.toNat)) := by
  simp only [execWaitm, State.confirmed_of_none h.confirmed, h.named, h.alone.asyncRead, h.ent, Ent.observable_iff hbox, decide_eq_false hopen,
    Bool.not_false, State.stallIf_true]

theorem State.Handles.testm_done (hdone : e.phase = .done) : execTestm k j s = .next (s.observation k j e.id false) := by
  simp only [execTestm, State.confirmed_of_none h.confirmed, h.named, h.alone.asyncRead, h.ent, Ent.observable_iff hbox, hdone, decide_true,
    if_true, h.handle]

theorem State.Handles.testm_open (hclash : s.clash (.p j.toNat) = false) (hopen : e.phase ≠ .done) :
    execTestm k j s = .next (s.wrP j false 1) := by
  have hafter := (onlyRegs_tile (State.wrP_spec h.unpoisoned.2 hclash false 1).2.2).2.2.2.2 _ h.alone
  simp only [execTestm, State.confirmed_of_none h.confirmed, h.named, h.alone.asyncRead, h.ent, Ent.observable_iff hbox, decide_eq_false hopen,
    Bool.false_eq_true, if_false, h.handle, hafter.queueResult]

/-- What WAITM and TESTM of a completed entry leave with MSG_STATUS disabled, or where the status is no failure. -/
theorem State.Handles.observed (hdone : e.phase = .done) (hclash : s.clash (.p j.toNat) = false) (hquiet : (s.cr 0x023).getLsbD 62 = false)
    (wait : Bool) :
    ToP (s.seen e) (s.observation k j e.id wait) j (if wait then okStatus e.rcd.status else true) 1 := by
  obtain ⟨t, ht, hspec⟩ := h.observation hdone hclash hbox wait
  have hcr : t.cr crTVEC = s.cr 0x023 := hspec.2.2.1.2.2.2.2.2.2.2.2.2.2.1 _ (by simp)
  rw [ht, State.msgTrap, hcr, hquiet]
  exact hspec

/-- What they leave with it enabled of a failure (R267, R331, R441). -/
theorem State.Handles.observed_fails (hdone : e.phase = .done) (hclash : s.clash (.p j.toNat) = false) (hraise : (s.cr 0x023).getLsbD 62 = true)
    (hfail : okStatus e.rcd.status = false) (hhold : s.tile.iss.hold = true) (wait : Bool) :
    ∃ t, ToP (s.seen e) t j (!wait) 1 ∧ s.observation k j e.id wait =
      (t.onThr fun x => { x with pend := x.pend ++ [⟨0x08, BitVec.ofNat 64 (e.rcd.status.toNat + k.toNat * 256), t.tile.iss.addr⟩] }).onIss
        fun i => { i with trapped := some true } := by
  obtain ⟨t, ht, hspec⟩ := h.observation hdone hclash hbox wait
  have hcr : t.cr crTVEC = s.cr 0x023 := hspec.2.2.1.2.2.2.2.2.2.2.2.2.2.1 _ (by simp)
  have hiss : t.tile.iss.hold = true := by
    rw [(onlyRegs_tile hspec.2.2).2.1]
    exact hhold
  refine ⟨t, ?_, ?_⟩
  · rw [hfail] at hspec
    cases wait <;> exact hspec
  · rw [ht, State.msgTrap, hcr, hraise, hfail, State.lateTrap, hiss]
    rfl

end

/-- The interface without an entry. -/
def Ni.dropped (n : Ni) (id : Nat) : Ni :=
  { n with ents := n.ents.filter fun e => e.id != id, ghosts := n.ghosts ++ (n.ents.filter fun e => e.id == id).flatMap Ent.ghost }

/-! ### MREC, CANCEL and FREEH (R100, R268 to R270) -/

/-- A word of a record, `f` being its flags. -/
def recWord (r : Rec) (f : BitVec 8) : Nat → Word
  | 0 => BitVec.ofNat 64 (r.status.toNat + f.toNat * 2 ^ 8 + r.group.toNat * 2 ^ 16 + r.source.toNat * 2 ^ 32)
  | 1 => BitVec.ofNat 64 (r.tag.toNat + r.dlen % 2 ^ 24 * 2 ^ 32 + r.flen % 2 ^ 8 * 2 ^ 56)
  | 2 => BitVec.ofNat 64 (r.flen / 2 ^ 8 % 2 ^ 16 + r.progress % 2 ^ 16 * 2 ^ 16 + r.tstamp.toNat * 2 ^ 32)
  | _ => r.shards

/-- The flags that a record shows: HELD of a mailbox whose delivery waits for a RELEASE (R103, R110). -/
def Ent.shownFlags (e : Ent) : BitVec 8 := if e.kind = .postm ∧ e.phase = .relHeld then e.rcd.flags ||| 0x10 else e.rcd.flags

theorem Ent.record_word (e : Ent) {w : Nat} (hw : w < 4) : e.record.words.getD w 0 = recWord e.rcd e.shownFlags w := by
  have hrec : e.record = { e.rcd with flags := e.shownFlags } := by
    by_cases hheld : e.kind = .postm ∧ e.phase = .relHeld
    · have : (e.kind == EKind.postm && e.phase == Phase.relHeld) = true := by simpa using hheld
      rw [Ent.record, if_pos this, Ent.shownFlags, if_pos hheld]
      rfl
    · have : ¬(e.kind == EKind.postm && e.phase == Phase.relHeld) = true := by simpa using hheld
      rw [Ent.record, if_neg this, Ent.shownFlags, if_neg hheld]
  rw [hrec]
  interval_cases w <;> rfl

section
variable {s : State} {k : BitVec 4} {e : Ent} (h : s.Handles k e)
include h

theorem State.Handles.mrec {d : BitVec 5} (hclash : s.clash (.s d.toNat) = false) (w : BitVec 2) :
    ∃ t, execMrec d k w s = .next t ∧ ToS s t d (recWord e.rcd e.shownFlags w.toNat) 2 0 := by
  have hspec := (State.wrS_spec h.unpoisoned.2 hclash (SVal.of (recWord e.rcd e.shownFlags w.toNat)) 2 0).1
  have hafter := (onlyRegs_tile hspec.2.2).2.2.2.2 _ h.alone
  have hword : (s.seenRec e.id).words.getD w.toNat 0 = recWord e.rcd e.shownFlags w.toNat := by
    rw [State.seenRec, h.ent]
    exact e.record_word w.isLt
  refine ⟨_, ?_, hspec⟩
  simp only [execMrec, State.confirmed_of_none h.confirmed, h.named, h.alone.asyncRead, h.handle, hword, hafter.queueResult]

/-- CANCEL of a receive that nothing has matched (R269). -/
theorem State.Handles.cancel (hphase : e.phase = .posted) (hkind : e.kind = .post) (hstays : e.detached = false) (hnb : e.nb = none) :
    execCancel k s = .next (s.net (s.tile.ni.modEnt e.id fun x => x.finished ((e.cancelledRec e.rcd).finish s.stamp)) s.torus) := by
  rw [execCancel, State.confirmed_of_none h.confirmed, h.handle,
    ← h.alone.complete_plain h.entry (by rw [hphase]; decide) hnb hstays h.nonzero _ (.inr rfl)]
  simp [State.cancel, h.ent, hphase, hkind, h.alone.trailing, EKind.isRecv, EKind.table]

/-- FREEH of a completed entry (R270). -/
theorem State.Handles.freeh (hdone : e.phase = .done) : ∃ n : Ni, n.ents = s.tile.ni.ents.filter (fun x => x.id ≠ e.id) ∧
    execFreeh k s = .next ((s.net n s.torus).onRegs fun r => r.setH k.toNat none) := by
  have halone : ∀ n : Ni, (s.net n s.torus).Alone s.tile.ep := fun n => (State.alone_net _ _).2 h.alone
  have hdrop : s.detach s.tile.ep e.id = s.net (s.tile.ni.dropped e.id) s.torus := by
    simp only [State.detach, h.ent, hdone, State.dropEnt, h.alone.modNi]
    rfl
  have hgone : (s.net (s.tile.ni.dropped e.id) s.torus).ent s.tile.ep e.id = none := by
    rw [(halone _).ent, Ni.ent]
    exact List.find?_eq_none.2 fun x hx => by simpa [Ni.dropped] using (List.mem_filter.1 hx).2
  have hclose : (s.net (s.tile.ni.dropped e.id) s.torus).closeContrail s.tile.ep e.id = s.net (s.tile.ni.dropped e.id) s.torus := by
    rw [State.closeContrail, hgone]
  refine ⟨s.tile.ni.dropped e.id, List.filter_congr fun x _ => by rw [bne, beq_eq_decide, decide_not], ?_⟩
  rw [execFreeh, State.confirmed_of_none h.confirmed, h.handle, State.letGo, hdrop, h.ent, h.alone.trailing]
  simp only [Bool.false_eq_true, hclose, ite_self]

end

/-! ### PROBE (R266) -/

/-- A result for one register is in no other's window. -/
theorem State.clash_land {s : State} {r q : Reg} (hne : r ≠ q) (h : s.clash q = false) (lat : Nat) (g : BitVec 6) : (s.land r lat g).clash q = false := by
  rw [State.clash, List.any_eq_false] at *
  intro l hl
  rcases List.mem_cons.1 hl with rfl | hl
  · simp [hne]
  · exact h l (List.mem_of_mem_filter hl)

theorem State.clash_wrS {s : State} (hp : s.tile.poison = []) (d : BitVec 5) (v : SVal) (lat : Nat) (g : BitVec 6) {n : Nat}
    (h : s.clash (.p n) = false) : (s.wrS d v lat g).clash (.p n) = false := by
  rw [State.wrS]
  split
  · exact State.clash_land (by simp) h lat g
  · dsimp only
    rw [clean_nil (by exact hp)]
    exact State.clash_land (by simp) h lat g

theorem reqFlags_nb (y : SVal) (g : Word) : (reqFlags (resolveDg y g).val).nb = y.val.toNat / 2 ^ 58 := by
  show ((resolveDg y g).val.extractLsb' 58 6).toNat = _
  rw [resolveDg_field y g (i := 58) (n := 6) (by omega), toNat_extract_high rfl]
theorem reqFlags_nbe (y : SVal) (g : Word) : (reqFlags (resolveDg y g).val).nbe = y.val.getLsbD 57 := resolveDg_flag y g (by omega)

section
variable {s : State} (hu : Unpoisoned s) (hspec : s.tile.spec = none) (h : s.Alone s.tile.ep) {d a b : BitVec 5} {j : BitVec 3}

/-- Whether PROBE's operands match a message. -/
def State.probes (s : State) (a b : BitVec 5) (u : Unexp) : Bool :=
  decide (u.hdr.group = sbGroup s (s.opS 1 b).val) && ((s.opS 1 b).val.getLsbD 56 || decide (u.hdr.src = s.opRank a)) &&
    decide ((u.hdr.tag ^^^ BitVec.ofNat 32 (s.opS 1 b).val.toNat) &&& ~~~(BitVec.ofNat 32 (s.rdC 0x015).toNat) = 0)

/-- What PROBE answers of what it has found. -/
def probeWord : Option Unexp → Word
  | some u => BitVec.ofNat 64 (u.hdr.src.toNat + u.hdr.len % 2 ^ 24 * 2 ^ 32)
  | none => 0

/-- The receive that PROBE tries fits what its operands match. -/
theorem State.probes_eq (s : State) (a b : BitVec 5) (u : Unexp) :
    (recvEntry (s.opS 0 a).val (resolveDg (s.opS 1 b) (s.rdC crGROUP)).val (s.rdC crTAGMASK) (.bytes []) (Ent.fresh 0 .post)).fits u.hdr =
      s.probes a b u := by
  have hmask : loWord (s.rdC crTAGMASK) = BitVec.ofNat 32 (s.rdC 0x015).toNat := loWord_eq _
  have hrank : loWord (s.opS 0 a).val = s.opRank a := loWord_eq _
  simp only [Ent.fits, recvEntry, reqFlags_group, reqFlags_any, loWord_resolveDg, hmask, hrank, State.probes, beq_eq_decide]
  congr 2
  · exact decide_eq_decide.2 eq_comm
  · congr 1
    exact decide_eq_decide.2 eq_comm

include hu hspec h

/-- PROBE without a barrier (R266). -/
theorem execProbe_finds (hd : s.clash (.s d.toNat) = false) (hj : s.clash (.p j.toNat) = false)
    (hlegal : sbLegal (s.opS 1 b).val true false false) (hnb : (s.opS 1 b).val.getLsbD 57 = false) :
    let found := s.tile.ni.offered.find? (s.probes a b)
    ∃ t u, ToS s t d (probeWord found) 2 0 ∧ ToP t u j found.isSome 2 ∧ execProbe d a b j s = .next u := by
  intro found
  have hwrite := (State.wrS_spec hu.2 hd (SVal.of (probeWord found)) 2 0).1
  obtain ⟨hni, hiss, hpc, hpend, hafter⟩ := onlyRegs_tile hwrite.2.2
  have hpoison : (s.wrS d (SVal.of (probeWord found)) 2).tile.poison = [] := by
    rw [hwrite.2.2.2.2.2]
    exact hu.2
  have hpred := State.wrP_spec hpoison (State.clash_wrS hu.2 d _ 2 0 hj) found.isSome 2
  refine ⟨_, _, hwrite, hpred, ?_⟩
  have hlast := (onlyRegs_tile hpred.2.2).2.2.2.2 _ (hafter _ h)
  have hflags : ((reqFlags (resolveDg (s.opS 1 b) (s.rdC crGROUP)).val).bad true false false ||
      (reqFlags (resolveDg (s.opS 1 b) (s.rdC crGROUP)).val).nbe || (reqFlags (resolveDg (s.opS 1 b) (s.rdC crGROUP)).val).nb != 0) = false := by
    rw [reqFlags_ok _ hlegal, reqFlags_nbe, reqFlags_nb, hnb, hlegal.2.1 hnb]
    rfl
  have hfound : (if ((reqFlags (resolveDg (s.opS 1 b) (s.rdC crGROUP)).val).bad true false false ||
      (reqFlags (resolveDg (s.opS 1 b) (s.rdC crGROUP)).val).nbe || (reqFlags (resolveDg (s.opS 1 b) (s.rdC crGROUP)).val).nb != 0) = true then none
      else (s.getNi s.tile.ep).offered.find? fun u => (recvEntry (s.opS 0 a).val (resolveDg (s.opS 1 b) (s.rdC crGROUP)).val (s.rdC crTAGMASK)
        (.bytes []) (Ent.fresh 0 .post)).fits u.hdr) = found := by
    simp only [hflags, Bool.false_eq_true, if_false, h.getNi, State.probes_eq]
    rfl
  rw [execProbe, State.confirmed_of_none hspec, h.asyncRead, State.checked_plain hu _ rfl rfl rfl]
  dsimp only
  rw [hfound, ← hlast.queueResult [probeWord found, if found.isSome then 1 else 0]]
  rfl

end

end Sys2Proof.Machine
end

section
/-!
The end of a contrail (R105, R273): the subscriptions that it cancels, at every interface and in every suspended context, leave the completed
entry of the publisher as it is; and the proof of O33.
-/
namespace Sys2Proof.Machine

open Sys2Proof.Safety

/-- A completed entry is shown with its record, and no other entry of its number is open. -/
def Ni.Shows (n : Ni) (id : Nat) (r : Rec) : Prop :=
  (∃ f ∈ n.ents, f.id = id ∧ f.phase = .done ∧ f.rcd = r) ∧ ∀ f ∈ n.ents, f.id = id → f.phase = .done

/-- The tile in focus, and, where `g` holds, what it shows. Its suspended context may stand on it meanwhile, where `g` does not. -/
structure State.Shows (s : State) (g : Prop) (ep pc id : Nat) (r : Rec) : Prop where
  focus : s.tile.ep = ep
  pc : g → s.tile.thr.pc = pc
  entry : g → s.tile.ni.Shows id r

section
variable {n m : Ni} {id : Nat} {r : Rec} (h : n.Shows id r)
include h

/-- Entries change, but none of that number in phase or record. -/
theorem Ni.Shows.map {f : Ent → Ent} (hm : m.ents = n.ents.map f) (hid : ∀ x, (f x).id = x.id)
    (hf : ∀ x, x.id = id → (f x).phase = x.phase ∧ (f x).rcd = x.rcd) : m.Shows id r := by
  obtain ⟨⟨e, he, heid, hphase, hrcd⟩, hall⟩ := h
  constructor
  · exact ⟨f e, by rw [hm]; exact List.mem_map_of_mem he, (hid e).trans heid, (hf e heid).1.trans hphase, (hf e heid).2.trans hrcd⟩
  · intro x hx hxid
    rw [hm] at hx
    obtain ⟨y, hy, rfl⟩ := List.mem_map.1 hx
    rw [hid] at hxid
    exact (hf y hxid).1.trans (hall y hy hxid)

theorem Ni.Shows.modEnt {k : Nat} (hk : k ≠ id) {f : Ent → Ent} (hid : ∀ x, (f x).id = x.id) : (n.modEnt k f).Shows id r := by
  refine h.map rfl (fun x => ?_) fun x hx => ?_
  · split
    · exact hid x
    · rfl
  · rw [if_neg fun hc => hk (hc.symm.trans hx)]
    exact ⟨rfl, rfl⟩

theorem Ni.Shows.dropped {k : Nat} (hk : k ≠ id) (hm : m.ents = n.ents.filter fun e => e.id != k) : m.Shows id r := by
  obtain ⟨⟨e, he, heid, hphase, hrcd⟩, hall⟩ := h
  constructor
  · exact ⟨e, by rw [hm]; exact List.mem_filter.2 ⟨he, by simpa [heid] using hk.symm⟩, heid, hphase, hrcd⟩
  · intro x hx hxid
    rw [hm] at hx
    exact hall x (List.mem_of_mem_filter hx) hxid

theorem Ni.Shows.countBumps (k count who : Nat) : (n.countBumps k count who).Shows id r := by
  refine h.map rfl (fun x => ?_) fun x _ => ?_
  · split
    · rfl
    · split <;> rfl
  · split
    · exact ⟨rfl, rfl⟩
    · split <;> exact ⟨rfl, rfl⟩

theorem Ni.Shows.of_ents (hm : m.ents = n.ents) : m.Shows id r := by
  obtain ⟨⟨e, he, hrest⟩, hall⟩ := h
  exact ⟨⟨e, by rw [hm]; exact he, hrest⟩, fun x hx => hall x (by rw [← hm]; exact hx)⟩

end

section
variable {s : State} {g : Prop} {ep pc id : Nat} {r : Rec} (h : s.Shows g ep pc id r)
include h

/-- A change of one tile. -/
theorem State.Shows.modTile (key : Nat) {f : Tile → Tile} (hep : ∀ t, (f t).ep = t.ep) (hpc : ∀ t, (f t).thr.pc = t.thr.pc)
    (hni : g → key = ep → ∀ t : Tile, t.ni.Shows id r → (f t).ni.Shows id r) : (s.modTile key f).Shows g ep pc id r := by
  obtain ⟨hfocus, hp, hentry⟩ := h
  rw [State.modTile, State.setTile]
  split
  · next hkey =>
    rw [hep, State.getTile_ep] at hkey
    have htile : s.getTile key = s.tile := by rw [← hkey, State.getTile_focus]
    rw [htile]
    exact ⟨(hep _).trans hfocus, fun hg => (hpc _).trans (hp hg), fun hg => hni hg (hkey.symm.trans hfocus) _ (hentry hg)⟩
  · exact ⟨hfocus, hp, hentry⟩

/-- A change of one interface. -/
theorem State.Shows.modNi (key : Nat) {f : Ni → Ni} (hni : g → key = ep → ∀ n : Ni, n.Shows id r → (f n).Shows id r) :
    (s.modNi key f).Shows g ep pc id r := by
  rw [State.modNi]
  split
  · exact h.modTile key (fun _ => rfl) (fun _ => rfl) fun hg hk t ht => hni hg hk _ ht
  · split
    · exact ⟨h.focus, h.pc, h.entry⟩
    · exact ⟨h.focus, h.pc, h.entry⟩

theorem State.Shows.modEnt (key : Nat) {k : Nat} (hk : g → key = ep → k ≠ id) {f : Ent → Ent} (hid : ∀ x, (f x).id = x.id) :
    (s.modEnt key k f).Shows g ep pc id r :=
  h.modNi key fun hg hkey _ hn => hn.modEnt (hk hg hkey) hid

theorem State.Shows.bumpAgen (key j : Nat) : (s.modTile key fun t => t.bumpAgen j).Shows g ep pc id r :=
  h.modTile key (fun _ => rfl) (fun _ => rfl) fun _ _ _ ht => ht

theorem State.Shows.markDone (key : Nat) {k : Nat} (hk : g → key = ep → k ≠ id) (e : Ent) (q : Rec) : (s.markDone key k e q).Shows g ep pc id r := by
  have hmark := h.modEnt key hk (f := fun x => { x with rcd := q, phase := .done, observed := false, counted := false, retryAt := none }) fun _ => rfl
  have hdrop := hmark.modNi key (f := fun n => n.dropped k) fun hg hkey n hn => hn.dropped (hk hg hkey) rfl
  have hbump : ∀ t : State, t.Shows g ep pc id r → ∀ b, (t.modTile key fun u => u.bump s.cycle b k).Shows g ep pc id r := fun t ht b =>
    ht.modTile key (fun _ => rfl) (fun _ => rfl) fun _ _ u hu => (hu.countBumps _ _ _).of_ents rfl
  rw [State.markDone]
  split
  · split
    · refine hbump _ ?_ _
      split
      · exact hdrop
      · exact hmark
    · split
      · exact hdrop
      · exact hmark
  · split
    · exact hdrop
    · exact hmark

theorem State.Shows.getNi (hep : ep < 0x400) : s.getNi ep = s.tile.ni := by
  have := h.focus
  subst this
  exact State.getNi_focus hep

theorem State.Shows.mirrorDone (hep : ep < 0x400) (key : Nat) (e : Ent) (q : Rec) : (s.mirrorDone key e q).Shows g ep pc id r := by
  rw [State.mirrorDone]
  split
  · exact h
  split
  · exact h
  next w _ _ =>
  split
  · next f hf =>
    split
    · next hopen =>
      have hother : g → w.partner = ep → f.id ≠ id := by
        rintro hg hkey hid
        have hmem := List.mem_of_find?_eq_some hf
        rw [hkey, h.getNi hep] at hmem
        simp [(h.entry hg).2 f hmem hid] at hopen
      exact (h.modEnt w.partner hother (f := fun x => { x with shards := e.shards }) fun _ => rfl).markDone w.partner hother f q
    · exact h
  · exact h.modTile _ (fun _ => rfl) (fun _ => rfl) fun _ _ _ ht => ht

theorem State.Shows.raiseAgen (key j : Nat) : (s.raiseAgen key j).Shows g ep pc id r := by
  have hraised := h.bumpAgen key j
  rw [State.raiseAgen]
  split
  · split
    · exact hraised.bumpAgen _ _
    · exact hraised
  · exact hraised

/-- No completion changes what is shown: the entry has completed already. -/
theorem State.Shows.complete (hep : ep < 0x400) (key k : Nat) (f : Rec → Rec) : (s.complete key k f).Shows g ep pc id r := by
  rw [State.complete]
  split
  · exact h
  next e he =>
  split
  · exact h
  next hopen =>
  have hother : g → key = ep → k ≠ id := by
    rintro hg hkey hk
    rw [State.ent, hkey, h.getNi hep] at he
    obtain ⟨hmem, heid⟩ := Ni.mem_of_ent he
    exact hopen ((h.entry hg).2 e hmem (heid.trans hk))
  have hmark := (h.markDone key hother e ((f e.rcd).finish s.stamp)).mirrorDone hep key e ((f e.rcd).finish s.stamp)
  have hregion : (match e.anvilRegion with
      | some j => if ((f e.rcd).finish s.stamp).status = stCANCELLED then (s.markDone key k e ((f e.rcd).finish s.stamp)).mirrorDone key e ((f e.rcd).finish s.stamp)
        else ((s.markDone key k e ((f e.rcd).finish s.stamp)).mirrorDone key e ((f e.rcd).finish s.stamp)).raiseAgen key j
      | none => (s.markDone key k e ((f e.rcd).finish s.stamp)).mirrorDone key e ((f e.rcd).finish s.stamp)).Shows g ep pc id r := by
    split
    · split
      · exact hmark
      · exact hmark.raiseAgen _ _
    · exact hmark
  dsimp only
  split
  · have := hregion.modNi key (f := fun n => { n with waitCq := n.waitCq ++ [((f e.rcd).finish s.stamp, e.cookie)] }) fun _ _ _ hn => hn
    exact ⟨this.focus, this.pc, this.entry⟩
  · split
    · exact ⟨hregion.focus, hregion.pc, hregion.entry⟩
    · split
      · exact ⟨hregion.focus, hregion.pc, hregion.entry⟩
      · split
        · exact ⟨hregion.focus, hregion.pc, hregion.entry⟩
        · exact hregion

/-- Several completions at one interface. -/
theorem State.Shows.completeAll (hep : ep < 0x400) (key : Nat) (l : List Ent) (f : Rec → Rec) :
    (l.foldl (fun st e => st.complete key e.id f) s).Shows g ep pc id r :=
  List.foldlRecOn (motive := fun st : State => st.Shows g ep pc id r) l _ h fun _ hst e _ => hst.complete hep key e.id f

end

/-! ### Suspended contexts (R49) -/

theorem State.modTile_tile_other {s : State} {key : Nat} (h : key ≠ s.tile.ep) {f : Tile → Tile} (hf : (f (s.getTile key)).ep = key) :
    (s.modTile key f).tile = s.tile := by
  rw [State.modTile, State.setTile, hf, if_neg h.symm]

section
variable {s : State} {g : Prop} {ep pc id : Nat} {r : Rec}

/-- A tile that has its own context back shows what it showed. -/
theorem State.Shows.restore {s : State} (h : s.Shows True ep pc id r) (l : List Nat) {t : State} (ht : t.Shows (ep ∉ l) ep pc id r) :
    (l.foldl (fun st e => st.modTile e fun u => u.shadowIn (s.getTile e)) t).Shows True ep pc id r := by
  induction l generalizing t with
  | nil => exact ⟨ht.focus, fun _ => ht.pc (by simp), fun _ => ht.entry (by simp)⟩
  | cons e l ih =>
    rw [List.foldl_cons]
    refine ih ?_
    by_cases he : e = ep
    · subst he
      have hown : s.getTile e = s.tile := by rw [← h.focus, State.getTile_focus]
      have hshow : t.modTile e (fun u => u.shadowIn (s.getTile e)) = t.onTile fun u => u.shadowIn s.tile := by
        have := ht.focus
        subst this
        rw [hown]
        exact State.modTile_focus t _ rfl
      rw [hshow]
      exact ⟨ht.focus, fun _ => h.pc trivial, fun _ => h.entry trivial⟩
    · have hsame : (t.modTile e fun u => u.shadowIn (s.getTile e)).tile = t.tile :=
        State.modTile_tile_other (fun hc => he (hc.trans ht.focus)) (by exact State.getTile_ep t e)
      exact ⟨by rw [hsame]; exact ht.focus, fun hl => by rw [hsame]; exact ht.pc (by simp [Ne.symm he, hl]),
        fun hl => by rw [hsame]; exact ht.entry (by simp [Ne.symm he, hl])⟩

/-- Suspended contexts are brought onto their tiles. -/
theorem State.Shows.suspend {l : List Nat} {t : State} (ht : t.Shows (ep ∉ l) ep pc id r) (p : List Nat)
    (hp : ∀ x ∈ p, x ∈ l) : (p.foldl (fun st e => st.modTile e Tile.shadowOut) t).Shows (ep ∉ l) ep pc id r := by
  refine List.foldlRecOn (motive := fun st : State => st.Shows (ep ∉ l) ep pc id r) p _ ht fun t ht e he => ?_
  have hkeep : ∀ u : Tile, u.shadowOut.ep = u.ep := fun u => by unfold Tile.shadowOut; split <;> rfl
  by_cases hkey : e = ep
  · have hin : ep ∈ l := hkey ▸ hp e he
    exact ⟨by rw [State.modTile, State.setTile_tile_ep]; exact ht.focus, fun hl => absurd hin hl, fun hl => absurd hin hl⟩
  · have hsame : (t.modTile e Tile.shadowOut).tile = t.tile :=
      State.modTile_tile_other (fun hc => hkey (hc.trans ht.focus)) ((hkeep _).trans (State.getTile_ep t e))
    exact ⟨by rw [hsame]; exact ht.focus, fun hl => by rw [hsame]; exact ht.pc hl, fun hl => by rw [hsame]; exact ht.entry hl⟩

/-- What a suspended context undergoes leaves the tile in focus what it shows, if it leaves it so on its own. -/
theorem State.Shows.inShadow {s : State} (h : s.Shows True ep pc id r) (key : Nat) {f : State → State}
    (hf : ∀ (g : Prop) (t : State), t.Shows g ep pc id r → (f t).Shows g ep pc id r) : (s.inShadow key f).Shows True ep pc id r := by
  unfold State.inShadow
  split
  · exact h
  next c _ =>
    dsimp only
    exact h.restore _ (hf _ _ (State.Shows.suspend ⟨h.focus, fun _ => h.pc trivial, fun _ => h.entry trivial⟩ _ fun _ hx => hx))

/-- The subscriptions of a contrail that ends are other entries than a completed one (R105). -/
theorem State.Shows.endSubscriptions {s : State} (h : s.Shows True ep pc id r) (hep : ep < 0x400) (pub : Rank) (tag : W32) (group : BitVec 16) :
    (s.endSubscriptions pub tag group).Shows True ep pc id r := by
  unfold State.endSubscriptions
  refine List.foldlRecOn (motive := fun st : State => st.Shows True ep pc id r) _ _ h fun t ht key _ => ?_
  have hown := ht.completeAll hep key ((t.getNi key).ents.filter fun e =>
    e.kind == .subs && e.phase == .posted && e.rank == pub && e.tag == tag && e.group == group)
    fun r => { r with status := stCANCELLED, dlen := 0, flen := 0 }
  dsimp only
  split
  · exact hown.inShadow key fun g u hu => hu.completeAll hep key _ _
  · exact hown

theorem State.Shows.endContrail {s : State} (h : s.Shows True ep pc id r) (hep : ep < 0x400) (key : Nat) (e : Ent) :
    (s.endContrail key e).Shows True ep pc id r := by
  have hforgot := h.modNi key (f := fun n => { n with
    asked := n.asked.filter fun a => !(a.1 == e.group && a.2 == e.tag), alone := n.alone.filter fun o => !(o.2.1 == e.group && o.2.2 == e.tag) })
    fun _ _ _ hn => hn
  have hended := hforgot.endSubscriptions hep (s.niRank key) e.tag e.group
  exact ⟨hended.focus, hended.pc, hended.entry⟩

end

/-! ### UNPUB (R105, R273) -/

/-- An entry that completes is shown with its record. -/
theorem Ni.shows_finished {n : Ni} {e : Ent} (he : n.ent e.id = some e) (r : Rec) : (n.modEnt e.id fun x => x.finished r).Shows e.id r := by
  obtain ⟨hmem, -⟩ := Ni.mem_of_ent he
  refine ⟨⟨e.finished r, Ni.mem_modEnt_self hmem _, rfl, rfl, rfl⟩, fun f hf hid => ?_⟩
  rw [Ni.modEnt_ents] at hf
  obtain ⟨x, -, rfl⟩ := List.mem_map.1 hf
  by_cases hx : x.id = e.id
  · rw [if_pos hx]; rfl
  · rw [if_neg hx] at hid; exact absurd hid hx

theorem State.Handles.unpub {s : State} {k : BitVec 4} {e : Ent} (h : s.Handles k e) (hphase : e.phase = .open_) (hkind : e.kind = .publ)
    (hstays : e.detached = false) (hnb : e.nb = none) : ∃ t, execUnpub k s = .next t ∧
      t.Shows True s.tile.ep s.tile.thr.pc e.id ({ e.rcd with status := stOK, dlen := e.len, flen := e.len }.finish s.stamp) := by
  have hregion : e.anvilRegion = none := by
    unfold Ent.anvilRegion
    rw [hkind]
    split <;> rfl
  have hdone := h.alone.complete_plain h.entry (by rw [hphase]; decide) hnb hstays h.nonzero
    (fun r => { r with status := stOK, dlen := e.len, flen := e.len }) (.inl hregion)
  have hshown : (s.net (s.tile.ni.modEnt e.id fun x =>
      x.finished ({ e.rcd with status := stOK, dlen := e.len, flen := e.len }.finish s.stamp)) s.torus).Shows True s.tile.ep s.tile.thr.pc e.id
        ({ e.rcd with status := stOK, dlen := e.len, flen := e.len }.finish s.stamp) :=
    ⟨rfl, fun _ => rfl, fun _ => Ni.shows_finished h.entry _⟩
  refine ⟨_, ?_, hshown.endContrail h.alone.isTile s.tile.ep e⟩
  rw [execUnpub, State.confirmed_of_none h.confirmed, h.handle]
  simp [State.closeContrail, h.ent, hphase, hkind, h.alone.trailing, hdone]

/-! ### O33 -/

theorem okStatus_eq (st : BitVec 8) : okStatus st = decide (st = 0x00 ∨ st = 0x01) := by
  simp only [okStatus, stOK, stCORRECTED, beq_eq_decide, Bool.decide_or]

/-- Two frames in a row. -/
theorem regsExcept_append {rs qs : List Reg} {r r' r'' : Regs} (h : RegsExcept rs r r') (h' : RegsExcept qs r' r'') :
    RegsExcept (rs ++ qs) r r'' := by
  obtain ⟨hs, hf, hv, hm, hp, hacc, hxa, hb, hsig, hh, hcr, hlc⟩ := h
  obtain ⟨hs', hf', hv', hm', hp', hacc', hxa', hb', hsig', hh', hcr', hlc'⟩ := h'
  simp only [RegsExcept, List.mem_append, not_or]
  exact ⟨fun n hn => (hs' n hn.2).trans (hs n hn.1), fun n hn => (hf' n hn.2).trans (hf n hn.1), fun n hn => (hv' n hn.2).trans (hv n hn.1),
    fun n hn => (hm' n hn.2).trans (hm n hn.1), fun n hn => (hp' n hn.2).trans (hp n hn.1),
    fun k i hk hi => (hacc' k i hk.2 hi).trans (hacc k i hk.1 hi), fun k i hk hi => (hxa' k i hk.2 hi).trans (hxa k i hk.1 hi),
    fun n hn => (hb' n hn.2).trans (hb n hn.1), fun n hn => (hsig' n hn.2).trans (hsig n hn.1), fun n hn => (hh' n hn.2).trans (hh n hn.1),
    fun n hn => (hcr' n hn.2).trans (hcr n hn.1), hlc'.trans hlc⟩

/-- The frame of a slot that writes only registers. -/
theorem onlyRegs_frame {rs : List Reg} {s t : State} (h : OnlyRegs rs s t) :
    (RegsExcept rs s.tile.thr.regs t.tile.thr.regs ∧ t.tile.iss = s.tile.iss ∧ t.tile.thr.pc = s.tile.thr.pc) ∧ ∀ x, byteAt t x = byteAt s x :=
  have ⟨_, hiss, hpc, _, _⟩ := onlyRegs_tile h
  ⟨⟨h.1, hiss, hpc⟩, h.2.1⟩

/-- Settles O33: a tile that stands alone reads its entries at once, so that WAITM, TESTM and MREC are `Handles.observed` and
`Handles.mrec`; CANCEL and FREEH change the entry alone; and of the subscriptions that UNPUB cancels, in suspended contexts too, none is the
publisher's completed entry (`Shows`). -/
theorem handleInstructions : Obligations.HandleInstructions := by
  unfold Obligations.HandleInstructions
  constructor
  · intro k j e s hu hc hep hraise hhold hclash hnamed hnz hent hdone hbox hs0 hs1
    have h : s.Handles k e := ⟨hu, hc.1, ⟨rfl, hep, hc.2⟩, hnamed, hnz, hent⟩
    have hfail : okStatus e.rcd.status = false := by rw [okStatus_eq]; exact decide_eq_false (not_or.2 ⟨hs0, hs1⟩)
    have hfails : ∀ wait, let t := s.observation k j e.id wait
        t.tile.thr.pend = s.tile.thr.pend ++ [⟨0x08, BitVec.ofNat 64 (e.rcd.status.toNat + k.toNat * 256), s.tile.iss.addr⟩] ∧
          t.tile.iss.trapped = some true ∧ t.tile.thr.regs.getP j.toNat = (if j = 0 then true else !wait) ∧
          t.tile.ni.ents = (s.tile.ni.ents.map fun y => if y.id = e.id then { y with observed := true } else y) ∧
          RegsExcept [.p j.toNat] s.tile.thr.regs t.tile.thr.regs ∧ t.tile.thr.pc = s.tile.thr.pc ∧ ∀ x, byteAt t x = byteAt s x := by
      intro wait
      obtain ⟨t, ⟨hval, -, hframe⟩, ht⟩ := h.observed_fails hbox hdone hclash hraise hfail hhold wait
      obtain ⟨hni, hiss, hpc, hpend, -⟩ := onlyRegs_tile hframe
      dsimp only
      rw [ht]
      refine ⟨?_, rfl, hval, ?_, hframe.1, hpc, hframe.2.1⟩
      · show t.tile.thr.pend ++ [⟨0x08, _, t.tile.iss.addr⟩] = _
        rw [hpend, hiss]
        rfl
      · exact (congrArg Ni.ents hni).trans (s.seen_ents e)
    intro x hx
    simp only [List.mem_cons, List.not_mem_nil, or_false] at hx
    rcases hx with rfl | rfl
    · exact ⟨_, h.waitm_done hbox hdone, hfails true⟩
    · exact ⟨_, h.testm_done hbox hdone, hfails false⟩
  · intro k j d a b w e s hu hc hep hquiet hclashP hclashS regs still pred
    have halone : s.Alone s.tile.ep := ⟨rfl, hep, hc.2⟩
    refine ⟨fun hnamed hnz hent => ?_, ?_⟩
    · have h : s.Handles k e := ⟨hu, hc.1, halone, hnamed, hnz, hent⟩
      refine ⟨fun hdone hbox => ?_, fun hopen hbox => ?_, ?_, fun hphase hkind hstays hnb => ?_, fun hphase hkind hstays hnb => ?_⟩
      · have hobs : ∀ wait, let t := s.observation k j e.id wait
            pred (if wait then decide (e.rcd.status = 0x00 ∨ e.rcd.status = 0x01) else true) t ∧ regs [.p j.toNat] t ∧ still t ∧
              t.tile.ni.ents = s.tile.ni.ents.map fun x => if x.id = e.id then { x with observed := true } else x := by
          intro wait
          obtain ⟨hval, -, hframe⟩ := h.observed hbox hdone hclashP hquiet wait
          rw [okStatus_eq] at hval
          exact ⟨hval, (onlyRegs_frame hframe).1, (onlyRegs_frame hframe).2,
            (congrArg Ni.ents (onlyRegs_tile hframe).1).trans (s.seen_ents e)⟩
        obtain ⟨n, hents, hfree⟩ := h.freeh hdone
        exact ⟨⟨_, h.waitm_done hbox hdone, hobs true⟩, ⟨_, h.testm_done hbox hdone, hobs false⟩,
          ⟨_, hfree, hents, Regs.getH_setH _ _ _, ⟨regsExcept_setH (RegsExcept.refl [] _) _ _, rfl, rfl⟩, fun _ => rfl⟩⟩
      · have hwrite := State.wrP_spec hu.2 hclashP false 1
        exact ⟨h.waitm_open hbox hopen, _, h.testm_open hbox hclashP hopen, hwrite.1, (onlyRegs_frame hwrite.2.2).1,
          (onlyRegs_frame hwrite.2.2).2, (onlyRegs_tile hwrite.2.2).1⟩
      · obtain ⟨t, ht, hword⟩ := h.mrec hclashS w
        exact ⟨t, ht, hword⟩
      · have hflags : ((e.cancelledRec e.rcd).finish s.stamp).flags = 0x80 := show (0 : BitVec 8) ||| recDone = _ by decide
        refine ⟨_, h.cancel hphase hkind hstays hnb, ⟨_, Ni.mem_modEnt_self (Ni.mem_of_ent hent).1 _, rfl, rfl, rfl, rfl, hflags⟩,
          ⟨RegsExcept.refl _ _, rfl, rfl⟩, fun _ => rfl, rfl⟩
      · obtain ⟨t, ht, -, hpc, hshows⟩ := h.unpub hphase hkind hstays hnb
        obtain ⟨⟨f, hf, hid, hdone, hrcd⟩, -⟩ := hshows trivial
        exact ⟨t, ht, ⟨f, hf, hid, hdone, by rw [hrcd]; exact ⟨rfl, rfl, rfl⟩⟩, hpc trivial⟩
    · intro y hlegal hnbe fits found
      obtain ⟨t, u, ⟨hword, -, hfirst⟩, ⟨hval, -, hsecond⟩, hexec⟩ := execProbe_finds hu hc.1 halone hclashS hclashP hlegal hnbe
      have hpass := hsecond.1.1 d.toNat (by simp)
      refine ⟨u, hexec, hval, ?_, ⟨?_, ?_, ?_⟩, fun x => (hsecond.2.1 x).trans (hfirst.2.1 x), ?_⟩
      · exact (onlyRegs_tile hsecond).1.trans (onlyRegs_tile hfirst).1
      · exact regsExcept_append hfirst.1 hsecond.1
      · exact (onlyRegs_tile hsecond).2.1.trans (onlyRegs_tile hfirst).2.1
      · exact (onlyRegs_tile hsecond).2.2.1.trans (onlyRegs_tile hfirst).2.2.1
      · rw [hpass, hword]
        rfl

end Sys2Proof.Machine
end

section
/-!
Packets that reach a tile which takes them (R88, R96, R97, R370): the gate, the landing of bytes, the answer, and the completion of the
receive.
-/
namespace Sys2Proof.Machine

open Sys2Proof.Safety

/-! ### A tile that takes packets -/

/-- The tile in focus is `key`, stands alone, runs, and neither is hidden nor holds a suspended gang. -/
structure State.Admits (s : State) (key : Nat) : Prop where
  alone : s.Alone key
  pkg : s.pkg < 2 ^ 20
  running : s.tile.run = .running
  shown : s.tile.hidden = false
  unshadowed : s.tile.shadow = none

theorem admits_of_takes {s : State} (h : TileTakes s) : s.Admits s.tile.ep := by
  obtain ⟨hep, hpkg, hrun, htwin, hhidden, hshadow, -⟩ := h
  exact ⟨⟨rfl, hep, htwin⟩, hpkg, hrun, hhidden, hshadow⟩

theorem State.Admits.net {s : State} {key : Nat} (h : s.Admits key) (n : Ni) (l : List Transit) : (s.net n l).Admits key :=
  ⟨(State.alone_net n l).2 h.alone, h.pkg, h.running, h.shown, h.unshadowed⟩

/-- A rank of the package is its endpoint's. -/
theorem State.ownPkg_rankOf {s : State} (hpkg : s.pkg < 2 ^ 20) {ep : Nat} (hep : ep < 4096) : s.ownPkg (s.rankOf ep) = true := by
  rw [State.ownPkg, beq_iff_eq, rankPkg, State.rankOf, BitVec.toNat_ofNat]
  omega

section
variable {s : State} {key : Nat} (h : s.Admits key)
include h

theorem State.Admits.refusal : s.refusal key = none := by
  rw [State.refusal, if_pos h.alone.key_eq, h.alone.getTile, Tile.refusal, h.shown, h.alone.twin]
  simp [Tile.refusal.go, h.running]

theorem State.Admits.niKey {dest src : Rank} (hd : dest = s.rankOf key) : Machine.niKey dest src = key := by
  have := h.alone.isTile
  rw [hd, Machine.niKey, rankEp_rankOf s (by omega), if_neg]
  simp only [Config.haloEp]
  omega

theorem State.Admits.barred {p : Packet} (hd : p.hdr.dest = s.rankOf key) : s.barred p = none := by
  rw [State.barred, h.niKey hd, State.forShadow, h.alone.getTile, h.unshadowed]
  simpa using h.refusal

/-- The tile takes every packet that is for it. -/
theorem State.Admits.gate {p : Packet} (hd : p.hdr.dest = s.rankOf key) (i : Nat) (f : Nat → State) : s.gate p i f = f key := by
  have hown : s.ownPkg p.hdr.dest = true := by rw [hd]; exact State.ownPkg_rankOf h.pkg (by have := h.alone.isTile; omega)
  rw [State.gate, hown, h.barred hd, h.niKey hd]
  rfl

end

/-! ### Entries that stay -/

/-- The entries of `l` but those of number `id` stand in `m`. -/
def Keeps (l m : List Ent) (id : Nat) : Prop := ∀ x ∈ l, x.id ≠ id → x ∈ m

theorem Keeps.refl (l : List Ent) (id : Nat) : Keeps l l id := fun _ hx _ => hx

theorem Keeps.modEnt {l : List Ent} {n : Ni} {id : Nat} (h : Keeps l n.ents id) (f : Ent → Ent) : Keeps l (n.modEnt id f).ents id :=
  fun x hx hid => Ni.mem_modEnt_other (h x hx hid) hid f

/-- Two changes of one entry are one. -/
theorem Ni.modEnt_modEnt (n : Ni) (id : Nat) {f : Ent → Ent} (hf : ∀ x, (f x).id = x.id) (g : Ent → Ent) :
    (n.modEnt id f).modEnt id g = n.modEnt id fun x => g (f x) := by
  simp only [Ni.modEnt, List.map_map]
  congr 1
  refine List.map_congr_left fun x _ => ?_
  by_cases hx : x.id = id
  · simp [hx, hf]
  · simp [hx]

/-- Numbers that name one entry each still do so. -/
theorem Ni.modEnt_ids (n : Ni) (id : Nat) {f : Ent → Ent} (hf : ∀ x, (f x).id = x.id) :
    ((n.modEnt id f).ents.map fun x => x.id) = n.ents.map fun x => x.id := by
  rw [Ni.modEnt_ents, List.map_map]
  refine List.map_congr_left fun x _ => ?_
  show (if x.id = id then f x else x).id = x.id
  split
  · exact hf x
  · rfl

/-! ### Bytes that land (R262) -/

/-- The tile after bytes have landed in a buffer of the tile store. -/
def State.filled (s : State) (rs : List (Nat × Nat)) (a : Nat) (l : List Byte) : State :=
  s.onTile fun t => { t with
    mem := putRange rs t.mem (BitVec.ofNat 64 a) l, poison := t.poison.filter fun p => !p.covered (a % 2 ^ 64) l.length }

@[simp] theorem State.filled_ni (s : State) (rs : List (Nat × Nat)) (a : Nat) (l : List Byte) : (s.filled rs a l).tile.ni = s.tile.ni := rfl
@[simp] theorem State.filled_torus (s : State) (rs : List (Nat × Nat)) (a : Nat) (l : List Byte) : (s.filled rs a l).torus = s.torus := rfl
theorem State.filled_net (s : State) (n : Ni) (k : List Transit) (rs : List (Nat × Nat)) (a : Nat) (l : List Byte) :
    (s.net n k).filled rs a l = (s.filled rs a l).net n k := rfl

theorem State.Alone.filled {s : State} {key : Nat} (h : s.Alone key) (rs : List (Nat × Nat)) (a : Nat) (l : List Byte) :
    (s.filled rs a l).Alone key := ⟨h.focus, h.isTile, h.twin⟩

theorem toNat_ofNat_add (a i : Nat) : (BitVec.ofNat 64 a + BitVec.ofNat 64 i).toNat = (a + i) % 2 ^ 64 := by
  rw [← BitVec.ofNat_add, BitVec.toNat_ofNat]

theorem landed_filled (s : State) (rs : List (Nat × Nat)) (a : Nat) (l : List Byte) (n : Ni) (k : List Transit) :
    Landed rs a l s ((s.filled rs a l).net n k) := by
  refine ⟨fun hl i hi hr => ?_, fun x hx => ?_, rfl⟩
  · have hget := get_putRange_at rs l s.tile.mem (BitVec.ofNat 64 a) hl hi (by rwa [toNat_ofNat_add])
    rw [toNat_ofNat_add] at hget
    exact hget.trans (by simp [hi])
  · exact get_putRange_ne rs l s.tile.mem (BitVec.ofNat 64 a) (hx.imp_left fun hx i hi => by rw [toNat_ofNat_add]; exact hx i hi)

theorem Job.hit_over {j : Job} {cycle : Nat} (h : j.until_ ≤ cycle) (a n : Nat) : j.hit cycle a n = [] := by
  rw [Job.hit, if_neg (by omega)]

/-- A job none of whose rows is touched is as it was. -/
theorem Job.raced_nil (j : Job) (fresh : Nat) : j.raced fresh [] = j := by
  simp [Job.raced]

/-- No engine reads the bytes any more. -/
theorem Tile.mmaRace_over {t : Tile} {cycle : Nat} (h : ∀ j ∈ t.eng.mma, j.until_ ≤ cycle) (fresh a n : Nat) : t.mmaRace fresh cycle a n = t := by
  have hrows : t.eng.mma.foldl (Tile.raceRows fresh cycle a n) t = t := by
    refine List.foldlRecOn (motive := fun u => u = t) _ _ rfl fun u hu j hj => ?_
    rw [hu, Tile.raceRows, Job.hit_over (h j hj)]
    rfl
  have hjobs : (t.eng.mma.map fun j => j.raced fresh (j.hit cycle a n)) = t.eng.mma :=
    (List.map_congr_left fun j hj => by rw [Job.hit_over (h j hj), Job.raced_nil, id]).trans t.eng.mma.map_id
  rw [Tile.mmaRace, hrows, hjobs]

/-- No engine writes the bytes any more. -/
theorem Tile.raceStore_over {t : Tile} {cycle : Nat} (h : ∀ j ∈ t.eng.msto, j.until_ ≤ cycle) (fresh a : Nat) (l : List Byte) :
    t.raceStore fresh cycle a l = (t, l) := by
  have : (t.eng.msto.any fun j => decide (cycle < j.until_)) = false :=
    List.any_eq_false.2 fun j hj => by have := h j hj; simpa using this
  rw [Tile.raceStore, this]
  rfl

/-- A tile that stands alone, whose engines are done, receives bytes into its store. -/
theorem State.Alone.recvBytes_store {s : State} {key : Nat} (h : s.Alone key) (hmma : ∀ j ∈ s.tile.eng.mma, j.until_ ≤ s.cycle)
    (hmsto : ∀ j ∈ s.tile.eng.msto, j.until_ ≤ s.cycle) (a : Nat) (rs : List (Nat × Nat)) (off : Nat) (l : List Byte) :
    s.recvBytes key (.store a rs) off l = s.filled rs (a + off) l := by
  rw [h.recvBytes, State.writeBuf, h.modTile]
  · simp only [State.onTile, Tile.mmaRace_over hmma, Tile.raceStore_over hmsto]
    rfl
  · rw [Tile.mmaRace_over hmma, Tile.raceStore_over hmsto]

/-! ### Completion of a receive (R97, R110, R111, R122) -/

/-- What `EntDone` says, of an entry that has finished. -/
theorem entDone_finished {s t : State} {e : Ent} {r : Rec} {time : W32} (hmem : e.finished (r.finish time) ∈ t.tile.ni.ents)
    (htime : time = s.stamp) : EntDone s t e.id r.status r.dlen r.flen := by
  refine ⟨_, hmem, rfl, rfl, rfl, rfl, rfl, ?_, htime⟩
  simp [Ent.finished, Rec.finish, recDone]

/-- The status of a delivery that is not poisoned. -/
theorem Ent.received_status {e : Ent} (hp : e.poison = false) (h : Header) :
    (e.received h false).status = if e.granted < h.len then stTRUNC else stOK := by simp [Ent.received, hp]

theorem State.tellPoisoned_other (s : State) (key : Nat) {status : BitVec 8} (h : status ≠ stPOISONED) (peer : Rank) :
    s.tellPoisoned key status peer = s := by
  simp [State.tellPoisoned, h]

section
variable {s : State} {key : Nat} (h : s.Alone key) {e : Ent} {hdr : Header} (he : s.tile.ni.ent e.id = some e) (hhdr : e.hdr = some hdr)
include h he hhdr

/-- A delivery that waits for no RELEASE and for no other delivery completes its receive. -/
theorem State.Alone.landOne_ends (hgo : hdr.hflags &&& hfRELPEND = 0 ∨ e.relEarly = some 0) (hturn : s.tile.ni.outOfTurn e = false)
    (hkind : e.kind ≠ .postm) (hopen : e.phase ≠ .done) (hregion : e.anvilRegion = none) (hnb : e.nb = none) (hstays : e.detached = false)
    (hid : e.id ≠ 0) (hp : e.poison = false) (hearly : e.relEarly ≠ some 2) :
    s.landOne key e.id = s.net (s.tile.ni.modEnt e.id fun x => x.finished ((e.received hdr false).finish s.stamp)) s.torus := by
  have hrel : (e.relEarly == some 2) = false := by simpa using hearly
  have hwait : (hdr.hflags &&& hfRELPEND != 0 && !(e.relEarly == some 0)) = false := by
    rcases hgo with hgo | hgo
    · simp [hgo]
    · simp [hgo]
  have hstatus : (e.received hdr false).status ≠ stPOISONED := by
    rw [Ent.received_status hp]
    split <;> decide
  have hbox : (e.kind == EKind.postm) = false := by simpa using hkind
  simp only [State.landOne, h.ent, he, hhdr, hrel, Bool.or_false, hwait, h.getNi, hturn, hbox, Bool.false_eq_true, if_false]
  rw [State.tellPoisoned_other _ _ hstatus, h.complete_plain he hopen hnb hstays hid _ (.inl hregion)]

/-- One whose turn has not come waits for it (R122). -/
theorem State.Alone.landOne_waits (hgo : hdr.hflags &&& hfRELPEND = 0) (hturn : s.tile.ni.outOfTurn e = true) :
    s.landOne key e.id = s.net (s.tile.ni.modEnt e.id fun x => { x with phase := .turn }) s.torus := by
  simp [State.landOne, h.ent, he, hhdr, hgo, h.getNi, hturn, h.modEnt]

end

/-- No other delivery has waited for this one. -/
theorem State.Alone.landed_only {s : State} {key id : Nat} (h : s.Alone key) {n : Ni} {l : List Transit} (hone : s.landOne key id = s.net n l)
    (hturn : ∀ x ∈ n.ents, x.id ≠ id → x.phase ≠ .turn) : s.landed key id = s.net n l := by
  have halone : (s.net n l).Alone key := (State.alone_net n l).2 h
  have hnone : (n.ents.filter fun e => e.phase == .turn && e.id != id) = [] :=
    List.filter_eq_nil_iff.2 fun x hx => by
      have := hturn x hx
      simp only [Bool.and_eq_true, beq_iff_eq, bne_iff_ne, ne_eq, not_and, not_not]
      tauto
  rw [State.landed, hone]
  simp only [halone.getNi, State.net_tile, hnone]
  rfl

/-- Only a mailbox goes on to its next message. -/
theorem State.Alone.boxGo_other {s : State} {key id : Nat} (h : s.Alone key) (hbox : ∀ e, s.tile.ni.ent id = some e → e.kind ≠ .postm) :
    s.boxGo key id = s := by
  rw [State.boxGo, h.ent]
  split
  · rfl
  · next e he => simp [hbox e he]

end Sys2Proof.Machine
end

section
/-!
The end of a send at its sender (R370 to R375): what is refused waits and leaves again, what fails completes with a record; and the proof
of O38.
-/
namespace Sys2Proof.Machine

open Sys2Proof.Safety

/-! ### The entry that a packet names -/

theorem List.find?_eq_some_of_unique {α : Type} {p : α → Bool} {l : List α} {a : α} (ha : a ∈ l) (hp : p a = true)
    (hone : ∀ x ∈ l, p x = true → x = a) : l.find? p = some a := by
  cases hf : l.find? p with
  | none => exact absurd hp (List.find?_eq_none.1 hf a ha)
  | some b => rw [hone b (List.mem_of_find?_eq_some hf) (List.find?_some hf)]

theorem Ni.eq_of_id {n : Ni} (hids : (n.ents.map fun x => x.id).Nodup) {x e : Ent} (hx : x ∈ n.ents) (he : e ∈ n.ents) (hid : x.id = e.id) :
    x = e := by
  have hfirst := Ni.ent_of_mem hx hids
  rw [hid, Ni.ent_of_mem he hids] at hfirst
  exact (Option.some.inj hfirst).symm

theorem EKind.isSend_region {e : Ent} (h : e.kind.isSend = true) : e.anvilRegion = none := by
  unfold Ent.anvilRegion
  split
  · rw [if_neg]
    cases hk : e.kind <;> simp_all [EKind.isSend]
  · rfl

/-- An entry that is changed twice. -/
theorem Ni.mem_modEnt_twice {n : Ni} {e : Ent} (he : e ∈ n.ents) {g : Ent → Ent} (hg : (g e).id = e.id) (f : Ent → Ent) :
    f (g e) ∈ ((n.modEnt e.id g).modEnt e.id f).ents := by
  have := Ni.mem_modEnt_self (Ni.mem_modEnt_self he g) f
  rwa [hg] at this

/-! ### A send that is over (R372, R374, R375) -/

/-- DATA or a RELEASE on behalf of a send, on its way in some form. -/
def State.SentFor (s : State) (key : Nat) (e : Ent) (v : Ev) : Prop :=
  ∃ q, v.inner? = some q ∧ (q.hdr.kind = 0x04 ∨ q.hdr.kind = 0x08) ∧ q.hdr.src = s.rankOf key ∧ q.hdr.dest = e.rank ∧ q.hdr.xid = e.xid

/-- What of it is withdrawn from the torus: what no injection has begun for, or what has been refused. -/
def State.Withdrawn (s : State) (key : Nat) (e : Ent) (u : Transit) : Prop := s.SentFor key e u.ev ∧ (u.injected = 0 ∨ ∃ q i, u.ev = .refused q i)

/-- What the model takes for such a packet, and what is left when it has gone. -/
def State.takesAlong (s : State) (key : Nat) (e : Ent) (v : Ev) : Bool :=
  (v.inner?.map fun p => (p.hdr.kind == 0x04 || p.hdr.kind == 0x08) && p.hdr.src == s.niRank key && p.hdr.dest == e.rank &&
    p.hdr.xid == e.xid).getD false
def State.cleared (s : State) (key : Nat) (e : Ent) : State :=
  { s with
    torus := s.torus.filter fun t => !(s.takesAlong key e t.ev && (t.injected == 0 || (match t.ev with | .refused _ _ => true | _ => false)))
    sched := s.sched.filter fun x => !s.takesAlong key e x.2 }
def Ni.unwaiting (n : Ni) (id : Nat) : Ni := { n with waiting := n.waiting.filter fun w => w.1 != id }

theorem State.dropPackets_eq (s : State) (key : Nat) (e : Ent) :
    s.dropPackets key e = (s.cleared key e).modNi key fun n => n.unwaiting e.id := rfl

theorem State.Alone.takesAlong_iff {s : State} {key : Nat} (h : s.Alone key) (e : Ent) (v : Ev) :
    s.takesAlong key e v = true ↔ s.SentFor key e v := by
  unfold State.SentFor State.takesAlong
  rw [h.niRank]
  cases v.inner? <;> simp [and_assoc]

theorem State.Alone.mem_cleared {s : State} {key : Nat} (h : s.Alone key) (e : Ent) (u : Transit) :
    u ∈ (s.cleared key e).torus ↔ u ∈ s.torus ∧ ¬s.Withdrawn key e u := by
  have hrefused : (match u.ev with | .refused _ _ => true | _ => false) = true ↔ ∃ q i, u.ev = .refused q i := by
    cases u.ev <;> simp
  have hiff : (s.takesAlong key e u.ev && (u.injected == 0 || (match u.ev with | .refused _ _ => true | _ => false))) = true ↔
      s.Withdrawn key e u := by
    rw [Bool.and_eq_true, Bool.or_eq_true, h.takesAlong_iff, hrefused, beq_iff_eq, State.Withdrawn]
  show u ∈ List.filter _ _ ↔ _
  rw [List.mem_filter, Bool.not_eq_true', ← Bool.not_eq_true, hiff]

/-- A send that stays and bumps no barrier is over: its record, and nothing of it that leaves any more. -/
structure State.Failed (s t : State) (key : Nat) (e : Ent) (status : BitVec 8) (dlen : Nat) : Prop where
  done : EntDone s t e.id status dlen e.len
  others : Keeps s.tile.ni.ents t.tile.ni.ents e.id
  torus : ∀ u, u ∈ t.torus ↔ u ∈ s.torus ∧ ¬s.Withdrawn key e u
  sched : ∀ x, x ∈ t.sched ↔ x ∈ s.sched ∧ ¬s.SentFor key e x.2
  waiting : ∀ w ∈ t.tile.ni.waiting, w.1 ≠ e.id
  frame : t = { s with tile := { s.tile with ni := t.tile.ni }, torus := t.torus, sched := t.sched }

theorem State.Alone.failSend {s : State} {key : Nat} (h : s.Alone key) {e : Ent} (he : s.tile.ni.ent e.id = some e) (hkind : e.kind.isSend = true)
    (hopen : e.phase ≠ .done) (hplain : Plain e) (status : BitVec 8) (dlen : Nat) : s.Failed (s.failSend key e status dlen) key e status dlen := by
  obtain ⟨hnb, hstays, hid, -, -⟩ := hplain
  have halone : (s.cleared key e).Alone key := ⟨h.focus, h.isTile, h.twin⟩
  have hdone := State.Alone.complete_plain (s := (s.cleared key e).net (s.tile.ni.unwaiting e.id) (s.cleared key e).torus) (key := key) (by simpa)
    (e := e) he hopen hnb hstays hid (fun r => { r with status, dlen, flen := e.len }) (.inl (EKind.isSend_region hkind))
  have hresult : s.failSend key e status dlen = (s.cleared key e).net ((s.tile.ni.unwaiting e.id).modEnt e.id fun x =>
      x.finished (({ e.rcd with status, dlen, flen := e.len } : Rec).finish s.stamp)) (s.cleared key e).torus := by
    rw [State.failSend, State.completeWith, State.dropPackets_eq, halone.modNi]
    exact hdone
  rw [hresult]
  refine ⟨?_, ?_, h.mem_cleared e, fun x => ?_, fun w hw => ?_, rfl⟩
  · exact entDone_finished (r := { e.rcd with status, dlen, flen := e.len })
      (Ni.mem_modEnt_self (n := s.tile.ni.unwaiting e.id) (Ni.mem_of_ent he).1 _) rfl
  · exact (Keeps.refl s.tile.ni.ents e.id).modEnt (n := s.tile.ni.unwaiting e.id) _
  · show x ∈ List.filter _ _ ↔ _
    rw [List.mem_filter, Bool.not_eq_true', ← Bool.not_eq_true, h.takesAlong_iff]
  · simpa using (List.mem_filter.1 hw).2

/-- A failed send that makes a record at its interface (R326, R372, R374). -/
theorem State.Alone.failSend_logged {s : State} {key : Nat} (h : s.Alone key) {e : Ent} (he : s.tile.ni.ent e.id = some e)
    (hkind : e.kind.isSend = true) (hopen : e.phase ≠ .done) (hplain : Plain e) (status : BitVec 8) (d0 : Word) :
    let t := (s.logNi key status 0 d0).failSend key e status 0
    EntDone s t e.id status 0 e.len ∧ Keeps s.tile.ni.ents t.tile.ni.ents e.id ∧ (∀ u, u ∈ t.torus ↔ u ∈ s.torus ∧ ¬s.Withdrawn key e u) ∧
      t = { s with
        tile := { s.tile with ni := t.tile.ni }, torus := t.torus, sched := t.sched, mgmt := { s.mgmt with queues := t.mgmt.queues } } ∧
      (s.mgmt.queues = [] → t.HasRecord 0x02 1 status.toNat) := by
  have hkey := h.isTile
  have halone : (s.logNi key status 0 d0).Alone key := ⟨h.focus, h.isTile, h.twin⟩
  have hclass : niClass key = 0x02 := by
    have hplacer : key ≠ Config.placerEp := by simp only [Config.placerEp]; omega
    have hdisp : key ≠ Config.dispatcherEp := by simp only [Config.dispatcherEp]; omega
    have hmgmt : key ≠ Config.mgmtEp := by simp only [Config.mgmtEp]; omega
    rw [niClass, if_neg (by omega), h.not_host, if_neg Bool.false_ne_true, if_neg hplacer, if_neg hdisp, if_neg hmgmt]
  obtain ⟨hdone, hothers, htorus, -, -, hframe⟩ := halone.failSend he hkind hopen hplain status 0
  refine ⟨hdone, hothers, htorus, ?_, fun hq => ?_⟩
  · rw [hframe]
    rfl
  · refine State.HasRecord.of_mgmt (s := s.logNi key status 0 d0) ?_ (by rw [hframe])
    rw [State.logNi, hclass]
    exact State.log_hasRecord _ _ _ _ _ _ hq

/-! ### Refusals (R370 to R372) -/

/-- The retry interval after a refusal (R371). -/
def Ent.nextInterval (e : Ent) : Nat := if e.interval = 0 then 2000 else min (2 * e.interval) 256000

/-- A refused message waits. -/
theorem State.Alone.awaitRetry {s : State} {key : Nat} (h : s.Alone key) (e : Ent) : s.awaitRetry key e = s.net (s.tile.ni.modEnt e.id fun x =>
    { x with phase := .queued, retryAt := some (s.time + e.nextInterval), interval := e.nextInterval }) s.torus := h.modEnt _ _

section
variable {s : State} (h : s.Admits s.tile.ep) {p : Packet} (hdest : p.hdr.dest = s.rankOf s.tile.ep) {e : Ent}
  (hnamed : s.tile.ni.named p.hdr.src p.hdr.xid = some e) (hwait : e.phase = .awaitAck ∨ e.phase = .awaitCts)
include h hdest hnamed hwait

/-- BUSY: the message waits. -/
theorem execBusy_waits : execBusy p s = .next (s.awaitRetry s.tile.ep e) := by
  have hphase : (e.phase == .awaitAck || e.phase == .awaitCts) = true := by simpa using hwait
  rw [execBusy, h.gate (p := withKind p 0x07) hdest]
  simp only [State.busyArrived, h.alone.getNi, withKind, hnamed, hphase, if_true]

/-- ABSENT with reason 7: the request is over. -/
theorem execAbsent_ends (hreason : p.hdr.offset = 7) : execAbsent p s = .next (s.unreachable s.tile.ep e 0) := by
  have hnone : s.accepted e = 0 := by
    have hphase : (e.phase == .awaitAck || e.phase == .awaitCts) = true := by simpa using hwait
    rw [State.accepted, hphase]
    rfl
  rw [execAbsent, h.gate (p := withKind p 0x06) hdest]
  simp only [State.absentArrived, h.alone.getNi, withKind, hnamed, hreason, hnone]
  rfl

/-- ABSENT with reason 0: the message waits, or is over once ABSLIMIT has passed from the first one. -/
theorem execAbsent_zero (hreason : p.hdr.offset = 0) : execAbsent p s = .next
    (if e.absFrom.isSome = true ∧ e.absFrom.getD s.time + 1000 * s.param (s.partOf s.tile.ep) 4 ≤ s.time then
      (s.logNi s.tile.ep stABSENT 0 (e.rank.zeroExtend 64)).failSend s.tile.ep e stABSENT 0
    else (s.modEnt s.tile.ep e.id fun x => { x with absFrom := some (e.absFrom.getD s.time) }).awaitRetry s.tile.ep e) := by
  have hphase : (!(e.phase == .awaitAck || e.phase == .awaitCts)) = false := by rcases hwait with hw | hw <;> rw [hw] <;> rfl
  have hpart : s.keyPart s.tile.ep = s.partOf s.tile.ep := by rw [State.keyPart, if_pos h.alone.key_eq]
  have htile : s.tile.ep < 0x1000 := by have := h.alone.isTile; omega
  have hoffset : ¬(0 : W32).extractLsb' 0 8 = 7 := by decide
  rw [execAbsent, h.gate (p := withKind p 0x06) hdest]
  simp only [State.absentArrived, h.alone.getNi, withKind, hnamed, hreason, hoffset, if_false, hphase, Bool.false_eq_true, hpart, htile, decide_true,
    Bool.and_true, Bool.and_eq_true, decide_eq_true_eq]

end

/-! ### A message that leaves (R91, R371) -/

/-- A message that has left: its entry waits for the answer, and its first packet is under way. -/
structure State.Leaves (s t : State) (key : Nat) (e : Ent) (rdv : Bool) : Prop where
  entry : ∃ f ∈ t.tile.ni.ents, f.id = e.id ∧ f.phase = (if rdv then .awaitCts else .awaitAck) ∧ f.seq = some (s.tile.ni.nextSeq e)
  others : Keeps s.tile.ni.ents t.tile.ni.ents e.id
  frame : OnlyNi s t
  sends : Sends s t fun q => q.hdr = ⟨e.rank, s.rankOf key, e.tag, e.group, if rdv then 0x02 else 0x01,
    if rdv then e.hflags else e.hflags ||| hfLAST, e.len, s.tile.ni.nextSeq e, e.timeOffset, e.xid⟩

theorem State.Alone.leave_leaves {s : State} {key : Nat} (h : s.Alone key) {e : Ent} (he : e ∈ s.tile.ni.ents) (hown : s.ownPkg e.rank = true)
    (hrank : rankEp e.rank ≠ Config.haloEp) {rdv : Bool} (hrdv : s.goesWhole key e = !rdv) : s.Leaves (s.leave key e) key e rdv := by
  have hmem : e ∈ (s.tile.ni.numbered e).ents := by rwa [Ni.numbered_ents]
  have hkeep : Keeps s.tile.ni.ents (s.tile.ni.numbered e).ents e.id := by rw [Ni.numbered_ents]; exact Keeps.refl _ _
  cases rdv with
  | false =>
    rw [h.leave_whole hown hrank hrdv]
    exact ⟨⟨_, Ni.mem_modEnt_self hmem _, rfl, rfl, rfl⟩, hkeep.modEnt _, rfl, _, _, rfl, rfl, rfl⟩
  | true =>
    rw [h.leave_rdv hown hrank hrdv]
    exact ⟨⟨_, Ni.mem_modEnt_self hmem _, rfl, rfl, rfl⟩, hkeep.modEnt _, rfl, _, _, rfl, rfl, rfl⟩

/-- The one entry that has anything to send leaves when it is queued. -/
theorem State.Alone.pump_leaves {s : State} {key : Nat} (h : s.Alone key) {e : Ent} (he : e ∈ s.tile.ni.ents) (hkind : e.kind.isSend = true)
    (hphase : e.phase = .queued) (hpair : e.pairWait = false) (hretry : e.retryAt = none) (hown : s.ownPkg e.rank = true)
    (hrank : rankEp e.rank ≠ Config.haloEp) (hfree : s.injecting key = false)
    (hothers : ∀ x ∈ s.tile.ni.ents, x ≠ e → x.phase ≠ .queued ∧ x.unsent = []) {rdv : Bool} (hrdv : s.goesWhole key e = !rdv) :
    s.Leaves (s.pump key) key e rdv := by
  have hturn : s.tile.ni.leaves e = true := by
    have hfirst : (s.tile.ni.ents.any fun x => decide (x.id < e.id) && x.kind.isSend && x.rank == e.rank && x.phase == .queued) = false := by
      refine List.any_eq_false.2 fun x hx => ?_
      by_cases hxe : x = e
      · simp [hxe]
      · simp [(hothers x hx hxe).1]
    rw [Ni.leaves, hfirst, hkind, hphase, hpair, hretry]
    rfl
  have hserved : (s.net (s.tile.ni.served e.id) s.torus).Alone key := (State.alone_net _ _).2 h
  rw [h.pump_serves he (by rw [hturn]; rfl) (State.Alone.haloSend hrank) hfree hothers, h.serveFirst_send (EKind.isReq_of_isSend hkind)]
  have hleave := hserved.leave_leaves (e := e) he hown hrank (rdv := rdv) (by
    rw [← hrdv, State.goesWhole, State.goesWhole, hserved.groupDesc, h.groupDesc]
    rfl)
  exact ⟨hleave.entry, hleave.others, hleave.frame, hleave.sends⟩

/-- One that has waited and is queued again leaves, where no other has anything to send. -/
theorem State.Alone.pump_released {s : State} {key : Nat} (h : s.Alone key) {e : Ent} (he : e ∈ s.tile.ni.ents)
    (hothers : ∀ x ∈ s.tile.ni.ents, x.id ≠ e.id → x.phase ≠ .queued ∧ x.unsent = []) (hids : (s.tile.ni.ents.map fun x => x.id).Nodup)
    (hfree : s.injecting key = false) {g : Ent → Ent} (hg : ∀ x, (g x).id = x.id) (hkind : (g e).kind.isSend = true) (hphase : (g e).phase = .queued)
    (hpair : (g e).pairWait = false) (hretry : (g e).retryAt = none) (hown : s.ownPkg (g e).rank = true)
    (hrank : rankEp (g e).rank < 0x400) {rdv : Bool} (hrdv : s.goesWhole key (g e) = !rdv) :
    s.Leaves ((s.modEnt key e.id g).pump key) key (g e) rdv := by
  have halone : (s.net (s.tile.ni.modEnt e.id g) s.torus).Alone key := (State.alone_net _ _).2 h
  have hidle : ∀ x ∈ (s.tile.ni.modEnt e.id g).ents, x ≠ g e → x.phase ≠ .queued ∧ x.unsent = [] := by
    intro x hx hne
    obtain ⟨y, hy, rfl⟩ := List.mem_map.1 hx
    by_cases hid : y.id = e.id
    · rw [if_pos hid, Ni.eq_of_id hids hy he hid] at hne
      exact absurd rfl hne
    · rw [if_neg hid]
      exact hothers y hy hid
  have hhalo : rankEp (g e).rank ≠ Config.haloEp := by simp only [Config.haloEp]; omega
  rw [h.modEnt]
  obtain ⟨hentry, hkeep, hframe, hsends⟩ := halone.pump_leaves (Ni.mem_modEnt_self he g) hkind hphase hpair hretry hown hhalo hfree hidle
    (rdv := rdv) (by
      rw [← hrdv, State.goesWhole, State.goesWhole, halone.groupDesc, h.groupDesc]
      rfl)
  refine ⟨hentry, fun x hx hid => hkeep x (Ni.mem_modEnt_other hx ?_ g) hid, hframe, hsends⟩
  rwa [hg] at hid

/-- What is said of a message that has left, field by field. -/
theorem State.Leaves.fields {s t : State} {key : Nat} {e : Ent} {rdv : Bool} (h : s.Leaves t key e rdv) {src : Rank} {seq off : W32} {hf : BitVec 8}
    (hsrc : src = s.rankOf key) (hseq : s.tile.ni.nextSeq e = seq) (hhf : e.hflags = hf) (hoff : e.timeOffset = off) :
    (∃ f ∈ t.tile.ni.ents, f.id = e.id ∧ f.phase = (if rdv then .awaitCts else .awaitAck) ∧ f.seq = some seq) ∧ OthersKept s t e.id ∧
      OnlyNi s t ∧ Sends s t fun q => q.hdr.kind = (if rdv then 0x02 else 0x01) ∧ q.hdr.dest = e.rank ∧ q.hdr.src = src ∧
        q.hdr.tag = e.tag ∧ q.hdr.group = e.group ∧ q.hdr.seq = seq ∧ q.hdr.xid = e.xid ∧ q.hdr.len = e.len ∧
        q.hdr.hflags = (if rdv then hf else hf ||| 8) ∧ q.hdr.offset = off := by
  obtain ⟨hentry, hkeep, hframe, u, q, hu, hev, hq⟩ := h
  subst hseq hhf hoff hsrc
  refine ⟨hentry, hkeep, hframe, u, q, hu, hev, ?_⟩
  dsimp only
  rw [hq]
  exact ⟨rfl, rfl, rfl, rfl, rfl, rfl, rfl, rfl, rfl, rfl⟩

/-! ### O38 -/

theorem exec_busy (p : Packet) (s : State) : exec (.busy p) s = execBusy p s := rfl
theorem exec_absent (p : Packet) (s : State) : exec (.absent p) s = execAbsent p s := rfl
theorem exec_uetFailure (ep xid : Nat) (s : State) : exec (.uetFailure ep xid) s = execUetFailure ep xid s := rfl
theorem exec_retryInterval (ep xid : Nat) (s : State) : exec (.retryInterval ep xid) s = execRetryInterval ep xid s := rfl
theorem exec_timedSendRelease (ep id : Nat) (s : State) : exec (.timedSendRelease ep id) s = execTimedSendRelease ep id s := rfl

/-- A plain message that has not left yet goes whole up to its group's limit (R92, R93). -/
theorem State.Alone.goesWhole_new {s : State} {key : Nat} (h : s.Alone key) {e : Ent} (hseq : e.seq = none) (hv : e.kind ≠ .sendv)
    (hd : e.kind ≠ .donew) : s.goesWhole key e = !decide (e.len ≠ 0 ∧ (Sparse.get (512, 0) s.tile.ni.groups e.group.toNat).1 < e.len) := by
  have hv' : (e.kind == EKind.sendv) = false := by simpa using hv
  have hd' : (e.kind == EKind.donew) = false := by simpa using hd
  rw [State.goesWhole, hseq, Option.isSome_none, if_neg Bool.false_ne_true, h.groupDesc, hv', hd', Bool.or_false, Bool.or_false, beq_eq_decide, ← Bool.decide_or, ← decide_not]
  exact decide_eq_decide.2 (by omega)

theorem recRdv_clear (f : BitVec 8) : (f &&& recRdv == 0) = !f.getLsbD 5 := by
  have hbit : recRdv = BitVec.twoPow 8 5 := by decide
  rw [hbit, BitVec.and_twoPow]
  cases f.getLsbD 5 <;> rfl

/-- Settles O38: a refusal changes the sending entry alone (`awaitRetry`), a failure clears what it had sent and completes it with a record
(`failSend_logged`), and a message whose interval or TSEND has come is the only one that leaves (`pump_leaves`). -/
theorem refusedAndTimedSends : Obligations.RefusedAndTimedSends := by
  unfold Obligations.RefusedAndTimedSends
  intro p e s htakes hdest hplain he hpair hfree hothers h wait waits left here mine failed
  have ha := admits_of_takes htakes
  obtain ⟨-, -, -, -, -, -, hids, -⟩ := htakes
  have hent := Ni.ent_of_mem he hids
  have hother : ∀ x ∈ s.tile.ni.ents, x ≠ e → x.id ≠ e.id := fun x hx hne hid => hne (Ni.eq_of_id hids hx he hid)
  have hidle : ∀ x ∈ s.tile.ni.ents, x.id ≠ e.id → x.phase ≠ .queued ∧ x.unsent = [] := fun x hx hid =>
    ⟨(hothers x hx hid).1, (hothers x hx hid).2.1⟩
  refine ⟨fun hkind hrank hxid hwait => ?_, ?_, ?_⟩
  · have hopen : e.phase ≠ .done := by rcases hwait with hw | hw <;> rw [hw] <;> decide
    have hnamed : s.tile.ni.named p.hdr.src p.hdr.xid = some e := by
      refine List.find?_eq_some_of_unique he (by simp [hrank, hxid, hopen, h]) fun x hx hp => ?_
      by_contra hne
      simp only [Bool.and_eq_true, beq_iff_eq] at hp
      exact (hothers x hx (hother x hx hne)).2.2 (hp.1.2.trans hxid.symm)
    have hfails : ∀ status, failed status ((s.logNi s.tile.ep status 0 (e.rank.zeroExtend 64)).failSend s.tile.ep e status 0) := by
      intro status
      obtain ⟨hdone, hkeep, htorus, hframe, hrec⟩ := ha.alone.failSend_logged hent (by rw [hkind]; rfl) hopen hplain status (e.rank.zeroExtend 64)
      refine ⟨hdone, hkeep, fun u => ?_, hframe, hrec⟩
      have hgone := htorus u
      rw [State.Withdrawn, State.SentFor, ← hdest] at hgone
      exact hgone
    have hwaits : ∀ g : Ent → Ent, (∀ x, (g x).id = x.id ∧ (g x).seq = x.seq) → waits ((s.modEnt s.tile.ep e.id g).awaitRetry s.tile.ep e) := by
      intro g hg
      have halone : (s.net (s.tile.ni.modEnt e.id g) s.torus).Alone s.tile.ep := (State.alone_net _ _).2 ha.alone
      have hmem := Ni.mem_modEnt_twice he (hg e).1
        fun x => { x with phase := .queued, retryAt := some (s.time + e.nextInterval), interval := e.nextInterval }
      rw [ha.alone.modEnt, halone.awaitRetry]
      exact ⟨⟨_, hmem, (hg e).1, rfl, rfl, rfl, (hg e).2⟩, ((Keeps.refl _ _).modEnt g).modEnt _, rfl, rfl⟩
    refine ⟨⟨_, execBusy_waits ha hdest hnamed hwait, ?_⟩, fun hoffset hfirst => ⟨_, execAbsent_zero ha hdest hnamed hwait hoffset, ?_⟩,
      fun hfar i hi => ?_, fun hoffset f hfirst => ⟨fun hlimit => ⟨_, execAbsent_zero ha hdest hnamed hwait hoffset, ?_⟩,
        fun hlimit => ⟨_, execAbsent_zero ha hdest hnamed hwait hoffset, ?_⟩⟩⟩
    · have hsame : s.modEnt s.tile.ep e.id (fun x => x) = s := by rw [ha.alone.modEnt, Ni.modEnt_same fun _ _ _ => rfl]; rfl
      have := hwaits (fun x => x) fun _ => ⟨rfl, rfl⟩
      rwa [hsame] at this
    · rw [if_neg (by simp [hfirst])]
      exact hwaits _ fun _ => ⟨rfl, rfl⟩
    · have htells : s.tells s.tile.ep e.rank = true := by simp [State.tells, ha.alone.key_eq, hfar]
      have hkindr : (e.kind == EKind.subs) = false := by rw [hkind]; rfl
      have hends : s.unreachable s.tile.ep e 0 = (s.logNi s.tile.ep stUNREACHABLE 0 (e.rank.zeroExtend 64)).failSend s.tile.ep e stUNREACHABLE 0 := by
        rw [State.unreachable, htells, hkindr]
        rfl
      have hlost : execUetFailure s.tile.ep e.xid.toNat s = .next (s.unreachable s.tile.ep e 0) := by
        have hfind : (s.getNi s.tile.ep).ents.find? (fun x => x.kind.isSend && x.xid.toNat == e.xid.toNat && x.phase != .done && !s.ownPkg x.rank) =
            some e := by
          rw [ha.alone.getNi]
          refine List.find?_eq_some_of_unique he (by simp [hkind, EKind.isSend, hopen, hfar]) fun x hx hp => ?_
          by_contra hne
          simp only [Bool.and_eq_true, beq_iff_eq] at hp
          exact (hothers x hx (hother x hx hne)).2.2 (BitVec.eq_of_toNat_eq hp.1.1.2)
        rw [execUetFailure, State.transportFailed, hfind]
      rw [List.mem_append, List.mem_singleton] at hi
      rcases hi with rfl | hi
      · exact ⟨_, hlost, hends ▸ hfails stUNREACHABLE⟩
      · split at hi
        · next hseven =>
          obtain rfl := List.mem_singleton.1 hi
          exact ⟨_, execAbsent_ends ha hdest hnamed hwait hseven, hends ▸ hfails stUNREACHABLE⟩
        · exact nomatch hi
    · rw [if_pos (by simpa [hfirst] using hlimit)]
      exact hfails stABSENT
    · rw [if_neg (by simpa [hfirst] using hlimit)]
      exact hwaits _ fun _ => ⟨rfl, rfl⟩
  · intro hkind htimed hhere hphase hretry q hseq
    obtain ⟨at_, hdue, hat⟩ := hretry
    have hfind : (s.getNi s.tile.ep).ents.find? (fun x => x.kind.isSend && x.xid.toNat == e.xid.toNat && x.phase == .queued && x.retryAt.isSome) =
        some e := by
      rw [ha.alone.getNi]
      refine List.find?_eq_some_of_unique he (by simp [hkind, EKind.isSend, hphase, hat]) fun x hx hp => ?_
      by_contra hne
      simp only [Bool.and_eq_true, beq_iff_eq] at hp
      exact (hothers x hx (hother x hx hne)).2.2 (BitVec.eq_of_toNat_eq hp.1.1.2)
    refine ⟨(s.modEnt s.tile.ep e.id fun x => { x with retryAt := none }).pump s.tile.ep, ?_, ?_⟩
    · rw [exec_retryInterval, execRetryInterval, State.retryDue, hfind]
      simp [hat, hdue]
    · have hwhole : s.goesWhole s.tile.ep { e with retryAt := none } = !e.rcd.flags.getLsbD 5 := by
        rw [State.goesWhole, hseq, Option.isSome_some, if_pos rfl, recRdv_clear]
      exact (ha.alone.pump_released he hidle hids hfree (g := fun x => { x with retryAt := none }) (fun _ => rfl) (by rw [hkind]; rfl) hphase hpair
        rfl hhere.1 hhere.2 hwhole).fields hdest (by rw [Ni.nextSeq, hseq]; rfl) (by simp [Ent.hflags, htimed, hkind])
        (by simp [Ent.timeOffset, htimed])
  · intro hkind htimed hhere hphase hretry hseq w hw hdue
    refine ⟨(s.modEnt s.tile.ep e.id fun x => { x with phase := .queued }).pump s.tile.ep, ?_, ?_⟩
    · rw [exec_timedSendRelease, execTimedSendRelease, State.timedDue, ha.alone.ent, hent]
      simp [htimed, hphase, hw, hdue]
    · have hwhole := ha.alone.goesWhole_new (e := { e with phase := .queued }) hseq (by simp [hkind]) (by simp [hkind])
      exact (ha.alone.pump_released he hidle hids hfree (g := fun x => { x with phase := .queued }) (fun _ => rfl) (by rw [hkind]; rfl) rfl hpair
        hretry hhere.1 hhere.2 hwhole).fields hdest (by rw [Ni.nextSeq, hseq]; rfl) (by simp [Ent.hflags, htimed, hkind, hfTIMED])
        (by rw [Ent.timeOffset, htimed, hw]; exact loWord_eq w)

end Sys2Proof.Machine
end

section
/-!
The rest of a transfer at its sender (R96, R97, R379): CTS, ACK and REVOKE.
-/
namespace Sys2Proof.Machine

open Sys2Proof.Safety

theorem exec_cts (p : Packet) (s : State) : exec (.cts p) s = execCts p s := rfl
theorem exec_ack (p : Packet) (s : State) : exec (.ack p) s = execAck p s := rfl
theorem exec_revoke (p : Packet) (s : State) : exec (.revoke p) s = execRevoke p s := rfl

theorem Ni.mem_of_named {n : Ni} {r : Rank} {x : W32} {e : Ent} (h : n.named r x = some e) :
    e ∈ n.ents ∧ e.rank = r ∧ e.xid = x ∧ e.phase ≠ .done := by
  have hp := List.find?_some h
  simp only [Bool.and_eq_true, beq_iff_eq, bne_iff_ne] at hp
  exact ⟨List.mem_of_find?_eq_some h, hp.1.1, hp.1.2, hp.2⟩

/-! ### Completion of a send (R97) -/

/-- The status with which a delivered send completes (R104, R110). -/
def Ent.sentStatus (e : Ent) (dlen : Nat) : BitVec 8 := if dlen < e.len then stTRUNC else if e.late then stLATE else stOK

theorem State.Alone.dataDone_plain {s : State} {key : Nat} (h : s.Alone key) {e : Ent} (he : s.tile.ni.ent e.id = some e) (hkind : e.kind = .send)
    (hopen : e.phase ≠ .done) (hplain : Plain e) (dlen : Nat) : s.dataDone key e.id dlen = s.net (s.tile.ni.modEnt e.id fun x =>
      x.finished (({ e.rcd with status := e.sentStatus dlen, dlen, flen := e.len, progress := e.chunks, tstamp := s.stamp } : Rec).finish s.stamp))
        s.torus := by
  obtain ⟨hnb, hstays, hid, hpoison, hearly⟩ := hplain
  have hsend : (e.kind == EKind.sendr) = false := by rw [hkind]; rfl
  have hclean : (e.poison || e.relEarly == some 2) = false := by rw [hpoison, hearly]; rfl
  have hstatus : e.sentStatus dlen ≠ stPOISONED := by
    unfold Ent.sentStatus
    split
    · decide
    · split <;> decide
  simp only [State.dataDone, h.ent, he, hsend, hclean, Bool.false_and, Bool.false_eq_true, if_false]
  rw [State.tellPoisoned_other _ _ (by exact hstatus)]
  exact h.complete_plain he hopen hnb hstays hid _ (.inl (EKind.isSend_region (by rw [hkind]; rfl)))

/-- What is said of a send that has completed. -/
theorem State.Alone.dataDone_said {s : State} {key : Nat} (h : s.Alone key) {e : Ent} (he : s.tile.ni.ent e.id = some e) (hkind : e.kind = .send)
    (hopen : e.phase ≠ .done) (hplain : Plain e) (dlen : Nat) : let t := s.dataDone key e.id dlen
    EntDone s t e.id (e.sentStatus dlen) dlen e.len ∧ OthersKept s t e.id ∧ OnlyNi s t ∧ t.torus = s.torus := by
  rw [h.dataDone_plain he hkind hopen hplain]
  exact ⟨entDone_finished (r := { e.rcd with status := e.sentStatus dlen, dlen, flen := e.len, progress := e.chunks, tstamp := s.stamp })
    (Ni.mem_modEnt_self (Ni.mem_of_ent he).1 _) rfl, (Keeps.refl _ _).modEnt _, rfl, rfl⟩

section
variable {s : State} (h : s.Admits s.tile.ep) {p : Packet} (hdest : p.hdr.dest = s.rankOf s.tile.ep) {e : Ent}
  (hnamed : s.tile.ni.named p.hdr.src p.hdr.xid = some e) (hkind : e.kind = .send)
include h hdest hnamed hkind

/-! ### CTS and ACK (R96, R97) -/

/-- A send under a grant. -/
def Ent.underGrant (h : Header) (stamp : W32) (e : Ent) : Ent :=
  let conv : BitVec 8 := if h.hflags &&& hfCONVERTED != 0 then recRdv ||| recConv else 0
  { e with
    rcd := { e.rcd with flags := e.rcd.flags ||| conv, tstamp := if conv = 0 then e.rcd.tstamp else stamp }
    granted := h.offset.toNat, sent := 0, chunks := 0, took := 0 }

theorem execCts_granted (hwait : e.phase = .awaitCts) : execCts p s = .next
    (if p.hdr.offset.toNat = 0 then (s.modEnt s.tile.ep e.id (Ent.underGrant p.hdr s.stamp)).dataDone s.tile.ep e.id 0
    else (s.modEnt s.tile.ep e.id (Ent.underGrant p.hdr s.stamp)).modEnt s.tile.ep e.id fun x => { x with phase := .sending }) := by
  rw [execCts, h.gate (p := withKind p 0x03) hdest]
  have hgo : (!e.kind.isSend || !(e.phase == .awaitCts || e.phase == .awaitAck)) = false := by rw [hkind, hwait]; rfl
  simp only [State.granted, h.alone.getNi, withKind, hnamed, hgo, Bool.false_eq_true, if_false]
  rfl

theorem execAck_message (hcode : p.hdr.offset.toNat / 2 ^ 24 = 0x80) :
    execAck p s = .next (s.dataDone s.tile.ep e.id (p.hdr.offset.toNat % 2 ^ 24)) := by
  have hsend : e.kind.isSend = true := by rw [hkind]; rfl
  rw [execAck, h.gate (p := withKind p 0x05) hdest]
  simp only [State.ackArrived, h.alone.getNi, withKind, hnamed, hsend, hcode, ackRevoke, ackRelease, ackDenied]
  rfl

theorem execAck_denied (hcode : p.hdr.offset.toNat / 2 ^ 24 = 0xC0) : execAck p s = .next (s.failSend s.tile.ep e stDENIED 0) := by
  have hsend : e.kind.isSend = true := by rw [hkind]; rfl
  rw [execAck, h.gate (p := withKind p 0x05) hdest]
  simp only [State.ackArrived, h.alone.getNi, withKind, hnamed, hsend, hcode, ackRevoke, ackRelease, ackDenied]
  rfl

end

/-! ### REVOKE (R379) -/

/-- The DATA of a message, and the CTS that granted it, on their way in some form. -/
def isData (h : Header) (q : Packet) : Bool := q.hdr.kind == 0x04 && q.hdr.src == h.dest && q.hdr.dest == h.src && q.hdr.xid == h.xid
def isGrant (h : Header) (q : Packet) : Bool := q.hdr.kind == 0x03 && q.hdr.src == h.src && q.hdr.dest == h.dest && q.hdr.xid == h.xid
def carries (f : Packet → Bool) (v : Ev) : Bool := (v.inner?.map f).getD false

/-- DATA whose injection has not begun, or that goes again, and a CTS that goes again. -/
def withdrawnData (h : Header) (t : Transit) : Bool :=
  match t.ev with
  | .packet _ => carries (isData h) t.ev && t.injected == 0
  | _ => carries (isData h) t.ev
def voidGrant (h : Header) (t : Transit) : Bool :=
  match t.ev with
  | .packet _ => false
  | _ => carries (isGrant h) t.ev

theorem carries_iff (f : Packet → Bool) (v : Ev) : carries f v = true ↔ ∃ q, v.inner? = some q ∧ f q = true := by
  unfold carries
  cases v.inner? <;> simp

theorem withdrawnData_iff (h : Header) (t : Transit) :
    withdrawnData h t = true ↔ carries (isData h) t.ev = true ∧ (t.injected = 0 ∨ ∀ q, t.ev ≠ .packet q) := by
  unfold withdrawnData
  cases t.ev <;> simp

theorem voidGrant_iff (h : Header) (t : Transit) : voidGrant h t = true ↔ carries (isGrant h) t.ev = true ∧ ∀ q, t.ev ≠ .packet q := by
  unfold voidGrant
  cases t.ev <;> simp

/-- What REVOKE withdraws, and the entry under no grant. -/
def State.revoked (s : State) (key : Nat) (h : Header) : State :=
  ({ s with
    sched := s.sched.filter fun x => !carries (isGrant h) x.2 && !carries (isData h) x.2
    torus := s.torus.filter fun t => !withdrawnData h t && !voidGrant h t }).modNi key fun n =>
      { n with waiting := n.waiting.filter fun w => !isData h w.2.1 }
def Ent.ungranted (e : Ent) : Ent := { e with phase := .awaitCts, granted := 0, sent := 0, chunks := 0, took := 0 }

theorem State.revokeArrived_named {s : State} {key : Nat} {h : Header} {e : Ent} (hnamed : (s.getNi key).named h.src h.xid = some e) :
    s.revokeArrived key h = ((s.revoked key h).modEnt key e.id Ent.ungranted).emit key (ackPacket h ackRevoke
      (if e.phase == .sending || e.phase == .awaitLast then
        e.chunks - ((s.torus.filter (withdrawnData h)).length + (s.sched.filter fun x => carries (isData h) x.2).length +
          ((s.getNi key).waiting.filter fun w => isData h w.2.1).length)
      else 0)) := by
  unfold State.revokeArrived
  rw [hnamed]
  rfl

/-- Under the revoked grant nothing waits outside the torus: what leaves it, and what the sender answers. -/
theorem State.Alone.revokeArrived {s : State} {key : Nat} (h : s.Alone key) {d : Header} {e : Ent} (hnamed : s.tile.ni.named d.src d.xid = some e)
    (hsched : s.sched = []) (hwaiting : s.tile.ni.waiting = []) (hown : s.ownPkg d.src = true) :
    s.revokeArrived key d = s.net (s.tile.ni.modEnt e.id Ent.ungranted) ((s.torus.filter fun t => !withdrawnData d t && !voidGrant d t) ++
      [s.parcel (.packet (ackPacket d ackRevoke (if e.phase = .sending ∨ e.phase = .awaitLast then
        e.chunks - (s.torus.filter (withdrawnData d)).length else 0))) key (rankEp d.src)]) := by
  have hrevoked : s.revoked key d = s.net s.tile.ni (s.torus.filter fun t => !withdrawnData d t && !voidGrant d t) := by
    have hsame : (s.sched.filter fun x => !carries (isGrant d) x.2 && !carries (isData d) x.2) = s.sched := by rw [hsched]; rfl
    have hstill : (s.tile.ni.waiting.filter fun w => !isData d w.2.1) = s.tile.ni.waiting := by rw [hwaiting]; rfl
    rw [State.revoked, hsame]
    have hleft : (s.net s.tile.ni (s.torus.filter fun t => !withdrawnData d t && !voidGrant d t)).Alone key := (State.alone_net _ _).2 h
    refine (hleft.modNi _).trans ?_
    show s.net { s.tile.ni with waiting := s.tile.ni.waiting.filter fun w => !isData d w.2.1 } _ = _
    rw [hstill]
    rfl
  have hcount : (s.torus.filter (withdrawnData d)).length + (s.sched.filter fun x => carries (isData d) x.2).length +
      ((s.getNi key).waiting.filter fun w => isData d w.2.1).length = (s.torus.filter (withdrawnData d)).length := by
    rw [hsched, h.getNi, hwaiting]
    rfl
  have halone : (s.net (s.tile.ni.modEnt e.id Ent.ungranted) (s.torus.filter fun t => !withdrawnData d t && !voidGrant d t)).Alone key :=
    (State.alone_net _ _).2 h
  rw [State.revokeArrived_named (by rw [h.getNi]; exact hnamed), hrevoked, State.Alone.modEnt (key := key) (by simpa), hcount]
  simp only [Bool.or_eq_true, beq_iff_eq]
  exact halone.emit (by exact hown)

/-- What the obligation says of a REVOKE that leaves `l` on the torus and counts `n` chunks. -/
def State.Revoked (s t : State) (d : Header) (e : Ent) (n : Nat) (l : List Transit) : Prop :=
  ((∃ f ∈ t.tile.ni.ents, f.id = e.id ∧ f.phase = .awaitCts ∧ f.granted = 0 ∧ f.sent = 0 ∧ f.chunks = 0) ∧ OthersKept s t e.id) ∧ OnlyNi s t ∧
    ∃ u q, t.torus = l ++ [u] ∧ u.ev = .packet q ∧ q.hdr.kind = 0x05 ∧ q.hdr.dest = d.src ∧ q.hdr.xid = d.xid ∧ q.hdr.hflags = 0 ∧
      q.hdr.offset = BitVec.ofNat 32 (n % 2 ^ 24)

section
variable {s : State} (h : s.Admits s.tile.ep) {p : Packet} (hdest : p.hdr.dest = s.rankOf s.tile.ep) (hown : s.ownPkg p.hdr.src = true) {e : Ent}
  (hnamed : s.tile.ni.named p.hdr.src p.hdr.xid = some e) (hsched : s.sched = []) (hwaiting : s.tile.ni.waiting = [])
include h hdest hown hnamed hsched hwaiting

/-- REVOKE with `m` packets of DATA among those that it leaves out. -/
theorem execRevoke_revoked {l : List Transit} {m n : Nat} (hleft : (s.torus.filter fun t => !withdrawnData p.hdr t && !voidGrant p.hdr t) = l)
    (hgone : (s.torus.filter (withdrawnData p.hdr)).length = m) (hn : (if e.phase = .sending ∨ e.phase = .awaitLast then e.chunks - m else 0) = n) :
    ∃ t, execRevoke p s = .next t ∧ s.Revoked t p.hdr e n l := by
  have hexec := h.alone.revokeArrived (d := (withKind p 0x0C).hdr) hnamed hsched hwaiting hown
  refine ⟨s.net (s.tile.ni.modEnt e.id Ent.ungranted) (l ++ [s.parcel (.packet (ackPacket (withKind p 0x0C).hdr ackRevoke n)) s.tile.ep
    (rankEp p.hdr.src)]), ?_, ?_⟩
  · rw [execRevoke, h.gate (p := withKind p 0x0C) hdest, hexec]
    rw [← hleft, ← hn, ← hgone]
    rfl
  · refine ⟨⟨⟨e.ungranted, Ni.mem_modEnt_self (Ni.mem_of_named hnamed).1 _, rfl, rfl, rfl, rfl, rfl⟩, (Keeps.refl _ _).modEnt Ent.ungranted⟩, rfl,
      _, _, rfl, rfl, rfl, rfl, rfl, rfl, ?_⟩
    show BitVec.ofNat 32 (0 * 2 ^ 24 + n % 2 ^ 24) = _
    rw [Nat.zero_mul, Nat.zero_add]

end

end Sys2Proof.Machine
end

section
/-!
DATA at the receive that it is for (R96, R97, R375): what the sender comes to know, the bytes that land, and the completion; and the proof
of O37.
-/
namespace Sys2Proof.Machine

open Sys2Proof.Safety

/-! ### Another tile's interface -/

/-- The state with another tile in focus, of the same endpoint, and other packets on the torus. -/
def State.withTile (s : State) (t : Tile) (l : List Transit) : State := { s with tile := t, torus := l }

section
variable {s : State} {t : Tile} (hep : t.ep = s.tile.ep) {k : Nat} (hk : k ≠ s.tile.ep) (l : List Transit)
include hep hk

theorem State.getTile_withTile : (s.withTile t l).getTile k = s.getTile k := by
  rw [State.getTile, State.getTile, if_neg (by rw [State.withTile, hep]; exact hk.symm), if_neg hk.symm]
  rfl

theorem State.getNi_withTile : (s.withTile t l).getNi k = s.getNi k := by
  rw [State.getNi, State.getNi, State.getTile_withTile hep hk]
  rfl

theorem State.modNi_withTile (f : Ni → Ni) : (s.withTile t l).modNi k f = (s.modNi k f).withTile t l := by
  rw [State.modNi, State.modNi]
  split
  · rw [State.modTile, State.modTile, State.getTile_withTile hep hk, State.setTile, State.setTile, State.getTile_ep, if_neg, if_neg]
    · rfl
    · exact hk.symm
    · rw [State.withTile, hep]; exact hk.symm
  · split
    · rfl
    · rw [State.getNi_withTile hep hk]
      rfl

omit hep in
theorem State.modNi_other (f : Ni → Ni) : (s.modNi k f).tile = s.tile ∧ (s.modNi k f).torus = s.torus := by
  have hsame : s.modNi k f = (s.modNi k f).withTile s.tile s.torus := State.modNi_withTile (t := s.tile) rfl hk s.torus f
  exact ⟨by rw [hsame]; rfl, by rw [hsame]; rfl⟩

end

/-! ### What the sender comes to know (R375) -/

/-- An entry of which more has been accepted. -/
def tookMore (m : Nat) (e : Ent) : Ent := { e with took := e.took + m }

/-- The state after the sender has come to know of accepted DATA: at most an entry's count of it has changed. -/
structure State.Noted (s u : State) (m : Nat) : Prop where
  tile : u.tile = { s.tile with ni := u.tile.ni }
  ents : ∃ c : Ent → Bool, u.tile.ni.ents = s.tile.ni.ents.map fun x => if c x then tookMore m x else x
  torus : u.torus = s.torus
  time : u.time = s.time
  cycle : u.cycle = s.cycle
  pkg : u.pkg = s.pkg

theorem State.Noted.alone {s u : State} {m key : Nat} (h : s.Noted u m) (ha : s.Alone key) : u.Alone key := by
  refine ⟨?_, ha.isTile, ?_⟩
  · rw [h.tile]; exact ha.focus
  · rw [h.tile]; exact ha.twin

theorem State.Noted.refl (s : State) (m : Nat) : s.Noted s m :=
  ⟨rfl, ⟨fun _ => false, s.tile.ni.ents.map_id.symm⟩, rfl, rfl, rfl, rfl⟩

theorem State.noteTook_own {s : State} {d : Header} (hown : s.ownPkg d.src = true) (m : Nat) : s.noteTook d m =
    match (s.getNi (niKey d.src d.dest)).named d.dest d.xid with
    | some e => s.modNi (niKey d.src d.dest) fun n => n.modEnt e.id (tookMore m)
    | none => s := by
  rw [State.noteTook, hown]
  rfl

theorem State.modNi_noted {s : State} {k : Nat} (hk : k ≠ s.tile.ep) (f : Ni → Ni) (m : Nat) : s.Noted (s.modNi k f) m := by
  obtain ⟨htile, htorus⟩ := State.modNi_other hk f
  refine ⟨by rw [htile], ⟨fun _ => false, by rw [htile]; exact s.tile.ni.ents.map_id.symm⟩, htorus, ?_, ?_, ?_⟩ <;>
  · rw [State.modNi, State.modTile, State.setTile]
    split
    · split <;> rfl
    · split <;> rfl

theorem State.Alone.noteTook_noted {s : State} {key : Nat} (h : s.Alone key) {d : Header} (hown : s.ownPkg d.src = true) (m : Nat) :
    s.Noted (s.noteTook d m) m := by
  rw [State.noteTook_own hown]
  split
  · next e he =>
    by_cases hk : niKey d.src d.dest = key
    · rw [hk, h.modNi]
      refine ⟨rfl, ⟨fun x => decide (x.id = e.id), ?_⟩, rfl, rfl, rfl, rfl⟩
      simp [Ni.modEnt_ents]
    · exact State.modNi_noted (by rw [h.focus]; exact hk) _ m
  · exact State.Noted.refl s m

/-- Two changes of entries in either order. -/
theorem Ni.modEnt_comm (n : Ni) (i j : Nat) {f g : Ent → Ent} (hf : ∀ x, (f x).id = x.id) (hg : ∀ x, (g x).id = x.id)
    (hcomm : ∀ x, f (g x) = g (f x)) : (n.modEnt i f).modEnt j g = (n.modEnt j g).modEnt i f := by
  have hkeep : ∀ (k : Nat) (u : Ent → Ent) (x : Ent), (∀ y, (u y).id = y.id) → (if x.id = k then u x else x).id = x.id := fun k u x hu => by
    split
    · exact hu x
    · rfl
  simp only [Ni.modEnt, List.map_map]
  congr 1
  refine List.map_congr_left fun x _ => ?_
  simp only [Function.comp, hkeep i f x hf, hkeep j g x hg]
  split
  · split
    · exact (hcomm x).symm
    · rfl
  · rfl

/-- A change that keeps what is asked of an entry keeps the entry that is found. -/
theorem Ni.find?_modEnt (n : Ni) (id : Nat) {g : Ent → Ent} {p : Ent → Bool} (hp : ∀ x, p (g x) = p x) :
    (n.modEnt id g).ents.find? p = (n.ents.find? p).map fun e => if e.id = id then g e else e := by
  have hcomp : (p ∘ fun e => if e.id = id then g e else e) = p := by
    funext e
    simp only [Function.comp]
    split
    · exact hp e
    · rfl
  rw [Ni.modEnt_ents, List.find?_map, hcomp]

/-- What the sender comes to know does not depend on what DATA does to its receive. -/
theorem State.Alone.noteTook_withTile {s : State} {key : Nat} (h : s.Alone key) {t : Tile} {l : List Transit} (hx : (s.withTile t l).Alone key)
    {id m : Nat} {g : Ent → Ent} (hni : t.ni = s.tile.ni.modEnt id g) (hid : ∀ x, (g x).id = x.id)
    (hg : ∀ x, (g x).rank = x.rank ∧ (g x).xid = x.xid ∧ (g x).phase = x.phase) (hcomm : ∀ x, g (tookMore m x) = tookMore m (g x)) {d : Header}
    (hown : s.ownPkg d.src = true) : (s.withTile t l).noteTook d m =
      (s.noteTook d m).withTile { t with ni := (s.noteTook d m).tile.ni.modEnt id g } l := by
  have hep : t.ep = s.tile.ep := hx.focus.trans h.focus.symm
  have hsame : s.withTile { t with ni := s.tile.ni.modEnt id g } l = s.withTile t l := by rw [← hni]
  rw [State.noteTook_own hown, State.noteTook_own (s := s.withTile t l) hown]
  have hnamed : (s.tile.ni.modEnt id g).named d.dest d.xid = (s.tile.ni.named d.dest d.xid).map fun e => if e.id = id then g e else e :=
    Ni.find?_modEnt _ _ fun x => by rw [(hg x).1, (hg x).2.1, (hg x).2.2]
  by_cases hk : niKey d.src d.dest = key
  · rw [hk, hx.getNi, h.getNi, show (s.withTile t l).tile.ni = s.tile.ni.modEnt id g from hni, hnamed]
    cases s.tile.ni.named d.dest d.xid with
    | none => exact hsame.symm
    | some e =>
      have hkeep : (if e.id = id then g e else e).id = e.id := by
        split
        · exact hid e
        · rfl
      simp only [Option.map_some, hkeep, hx.modNi, h.modNi]
      show s.withTile { t with ni := t.ni.modEnt e.id (tookMore m) } l = s.withTile { t with ni := (s.tile.ni.modEnt e.id (tookMore m)).modEnt id g } l
      rw [hni, Ni.modEnt_comm (g := tookMore m) _ _ _ hid (fun _ => rfl) hcomm]
  · have hother : niKey d.src d.dest ≠ s.tile.ep := by rw [h.focus]; exact hk
    rw [State.getNi_withTile hep hother]
    cases (s.getNi (niKey d.src d.dest)).named d.dest d.xid with
    | none => exact hsame.symm
    | some e =>
      simp only [State.modNi_withTile hep hother, (State.modNi_other hother _).1]
      rw [← hni]

/-! ### DATA (R96, R97) -/

theorem exec_data (p : Packet) (s : State) : exec (.data p) s = execData p s := rfl

/-- A receive for which a beat, and a chunk, of its DATA has come. -/
def Ent.beaten (e : Ent) : Ent := { e with beat := true }
def Ent.chunked (off : Nat) (l : List Byte) (e : Ent) : Ent :=
  { e with
    sent := e.sent + l.length + 0, chunks := e.chunks + 1, part := e.part + 0, poison := e.poison || false
    stage := if e.kind == .postm then putBytes e.stage off l else e.stage }

def Ent.lastChunk (took off : Nat) (l : List Byte) (e : Ent) : Ent :=
  { (({ e with took := took } : Ent).beaten.chunked off l) with phase := .landing }

@[simp] theorem Ent.lastChunk_id (took off : Nat) (l : List Byte) (e : Ent) : (e.lastChunk took off l).id = e.id := rfl
@[simp] theorem Ent.lastChunk_granted (took off : Nat) (l : List Byte) (e : Ent) : (e.lastChunk took off l).granted = e.granted := rfl
@[simp] theorem Ent.lastChunk_part (took off : Nat) (l : List Byte) (e : Ent) : (e.lastChunk took off l).part = e.part := rfl
@[simp] theorem Ent.received_dlen (e : Ent) (h : Header) (bad : Bool) : (e.received h bad).dlen = e.granted - e.part := rfl
@[simp] theorem Ent.received_flen (e : Ent) (h : Header) (bad : Bool) : (e.received h bad).flen = h.len := rfl

theorem Ni.mem_of_receiving {n : Ni} {h : Header} {e : Ent} (hr : n.receiving h = some e) : e ∈ n.ents := List.mem_of_find?_eq_some hr

theorem Ni.receiving_beaten (n : Ni) {h : Header} {e : Ent} (hr : n.receiving h = some e) :
    (n.modEnt e.id Ent.beaten).receiving h = some e.beaten := by
  rw [Ni.receiving, Ni.find?_modEnt (g := Ent.beaten) _ _ (fun _ => rfl), show n.ents.find? _ = some e from hr]
  simp

/-- A chunk of the grant of a POST: it lands, and the last one ends the delivery. -/
theorem State.Alone.dataChunk_post {s : State} {key : Nat} (h : s.Alone key) {p : Packet} {e : Ent} (hrevoked : s.tile.ni.revoked = [])
    (hr : s.tile.ni.receiving p.hdr = some e) (hphase : e.phase = .granted) (hkind : e.kind = .post) {a : Nat} {rs : List (Nat × Nat)}
    (hbuf : e.buf = .store a rs) {h0 : Header} (hhdr : e.hdr = some h0) (hclean : p.poison = false)
    (hfits : p.hdr.offset.toNat + p.payload.length ≤ e.granted) : s.dataChunk key p =
      if e.granted ≤ e.sent + p.payload.length then
        ((((((s.recvBytes key (.store a rs) p.hdr.offset.toNat p.payload).noteTook p.hdr p.payload.length).modEnt key e.id
          (Ent.chunked p.hdr.offset.toNat p.payload)).modEnt key e.id fun x => { x with phase := .landing }).emit key
            (ackPacket h0 ackMessage (e.granted - e.part))).landed key e.id).boxGo key e.id
      else ((s.recvBytes key (.store a rs) p.hdr.offset.toNat p.payload).noteTook p.hdr p.payload.length).modEnt key e.id
        (Ent.chunked p.hdr.offset.toNat p.payload) := by
  have hall : p.payload.take (e.granted - p.hdr.offset.toNat) = p.payload := List.take_of_length_le (by omega)
  have hgranted : (e.phase != .granted) = false := by rw [hphase]; rfl
  have hpost : (e.kind == .postm) = false := by rw [hkind]; rfl
  rw [State.dataChunk, h.getNi, hrevoked, List.any_nil, if_neg Bool.false_ne_true, hr]
  simp only [hgranted, hpost, hall, hclean, hbuf, hhdr, Bool.false_and, Bool.false_eq_true, if_false, State.whenAwake]
  rfl

/-- The state once a chunk has landed in the tile store. -/
def State.withChunk (s : State) (p : Packet) (e : Ent) (rs : List (Nat × Nat)) (a : Nat) : State :=
  let u := s.noteTook p.hdr p.payload.length
  (u.filled rs (a + p.hdr.offset.toNat) p.payload).net
    ((u.tile.ni.modEnt e.id Ent.beaten).modEnt e.id (Ent.chunked p.hdr.offset.toNat p.payload)) u.torus

section
variable {s : State} (h : s.Admits s.tile.ep) (hmma : ∀ j ∈ s.tile.eng.mma, j.until_ ≤ s.cycle) (hmsto : ∀ j ∈ s.tile.eng.msto, j.until_ ≤ s.cycle)
  {p : Packet} (hdest : p.hdr.dest = s.rankOf s.tile.ep) (hown : s.ownPkg p.hdr.src = true) (hclean : p.poison = false)
  (hrevoked : s.tile.ni.revoked = []) {e : Ent} (hr : s.tile.ni.receiving p.hdr = some e)
include h hdest hrevoked hr

/-- The header of DATA marks its receive. -/
theorem State.Admits.dataBeat : s.dataBeat (withKind p 0x04) = s.net (s.tile.ni.modEnt e.id Ent.beaten) s.torus := by
  have hown : s.ownPkg (withKind p 0x04).hdr.dest = true := by
    rw [show (withKind p 0x04).hdr.dest = _ from hdest]
    exact State.ownPkg_rankOf h.pkg (by have := h.alone.isTile; omega)
  have hreceiving : s.tile.ni.receiving (withKind p 0x04).hdr = some e := hr
  simp only [State.dataBeat, hown, h.barred (p := withKind p 0x04) hdest, h.niKey (dest := (withKind p 0x04).hdr.dest) hdest, h.alone.getNi, hrevoked,
    hreceiving, h.alone.modEnt]
  rfl

include hmma hmsto hown hclean in
/-- A chunk of the grant of a POST lands; the last one ends the delivery. -/
theorem execData_lands (hkind : e.kind = .post) (hphase : e.phase = .granted) {a : Nat} {rs : List (Nat × Nat)} (hbuf : e.buf = .store a rs)
    {h0 : Header} (hhdr : e.hdr = some h0) (hfits : p.hdr.offset.toNat + p.payload.length ≤ e.granted) : execData p s = .next
    (if e.granted ≤ e.sent + p.payload.length then
      ((((s.withChunk p e rs a).modEnt s.tile.ep e.id fun x => { x with phase := .landing }).emit s.tile.ep
        (ackPacket h0 ackMessage (e.granted - e.part))).landed s.tile.ep e.id).boxGo s.tile.ep e.id
    else s.withChunk p e rs a) := by
  have hbeat := h.dataBeat hdest hrevoked hr
  have hb := h.net (s.tile.ni.modEnt e.id Ent.beaten) s.torus
  have hnoted := h.alone.noteTook_noted hown p.payload.length
  have hfilled := hb.alone.recvBytes_store hmma hmsto a rs p.hdr.offset.toNat p.payload
  have hchunk : (((s.net (s.tile.ni.modEnt e.id Ent.beaten) s.torus).recvBytes s.tile.ep (.store a rs) p.hdr.offset.toNat p.payload).noteTook p.hdr
      p.payload.length).modEnt s.tile.ep e.id (Ent.chunked p.hdr.offset.toNat p.payload) = s.withChunk p e rs a := by
    have hnote := h.alone.noteTook_withTile (hb.alone.filled rs (a + p.hdr.offset.toNat) p.payload) (m := p.payload.length) (g := Ent.beaten) rfl
      (fun _ => rfl) (fun _ => ⟨rfl, rfl, rfl⟩) (fun _ => rfl) hown
    rw [hfilled]
    have hsame : ((s.net (s.tile.ni.modEnt e.id Ent.beaten) s.torus).filled rs (a + p.hdr.offset.toNat) p.payload).noteTook p.hdr p.payload.length =
        ((s.noteTook p.hdr p.payload.length).filled rs (a + p.hdr.offset.toNat) p.payload).net
          ((s.noteTook p.hdr p.payload.length).tile.ni.modEnt e.id Ent.beaten) (s.noteTook p.hdr p.payload.length).torus := by
      refine hnote.trans ?_
      rw [State.filled, State.onTile, hnoted.tile, hnoted.torus]
      rfl
    rw [hsame]
    exact State.Alone.modEnt (key := s.tile.ep) ((State.alone_net _ _).2 ((hnoted.alone h.alone).filled rs _ _)) _ _
  have hreceiving : (s.net (s.tile.ni.modEnt e.id Ent.beaten) s.torus).tile.ni.receiving (withKind p 0x04).hdr = some e.beaten :=
    s.tile.ni.receiving_beaten hr
  rw [execData, hbeat, hb.gate (p := withKind p 0x04) hdest, hb.alone.dataChunk_post (p := withKind p 0x04) (e := e.beaten) hrevoked hreceiving
    hphase hkind hbuf hhdr hclean hfits]
  exact congrArg Host.Outcome.next (ite_congr rfl (fun _ => by exact hchunk ▸ rfl) fun _ => hchunk)

end

/-! ### The end of a delivery -/

theorem Ent.post_region {e : Ent} (h : e.kind = .post) : e.anvilRegion = none := by
  unfold Ent.anvilRegion
  rw [h]
  split <;> rfl

/-- What holds of the other entries still does. -/
theorem Ni.others_modEnt {n : Ni} {id : Nat} {P : Ent → Prop} (h : ∀ x ∈ n.ents, x.id ≠ id → P x) {f : Ent → Ent} (hf : ∀ x, (f x).id = x.id) :
    ∀ x ∈ (n.modEnt id f).ents, x.id ≠ id → P x := by
  intro x hx hxid
  obtain ⟨y, hy, rfl⟩ := List.mem_map.1 hx
  by_cases hyid : y.id = id
  · rw [if_pos hyid] at hxid
    exact absurd ((hf y).trans hyid) hxid
  · rw [if_neg hyid]
    exact h y hy hyid

/-- The delivery of a POST that nothing holds up ends, and nothing else has waited for it. -/
theorem State.Alone.landed_post {s : State} {key : Nat} (h : s.Alone key) {e : Ent} {hdr : Header} (he : s.tile.ni.ent e.id = some e)
    (hhdr : e.hdr = some hdr) (hgo : hdr.hflags &&& hfRELPEND = 0 ∨ e.relEarly = some 0) (hturn : s.tile.ni.outOfTurn e = false)
    (hkind : e.kind = .post) (hopen : e.phase ≠ .done) (hnb : e.nb = none) (hstays : e.detached = false) (hid : e.id ≠ 0) (hp : e.poison = false)
    (hearly : e.relEarly ≠ some 2) (hothers : ∀ x ∈ s.tile.ni.ents, x.id ≠ e.id → x.phase ≠ .turn) :
    (s.landed key e.id).boxGo key e.id =
      s.net (s.tile.ni.modEnt e.id fun x => x.finished ((e.received hdr false).finish s.stamp)) s.torus := by
  have hbox : e.kind ≠ .postm := by rw [hkind]; decide
  have hone := h.landOne_ends he hhdr hgo hturn hbox hopen (Ent.post_region hkind) hnb hstays hid hp hearly
  have hlanded := h.landed_only hone (Ni.others_modEnt hothers fun _ => rfl)
  have hafter : (s.net (s.tile.ni.modEnt e.id fun x => x.finished ((e.received hdr false).finish s.stamp)) s.torus).Alone key :=
    (State.alone_net _ _).2 h
  rw [hlanded]
  refine hafter.boxGo_other fun x hx => ?_
  have hfinished : (s.tile.ni.modEnt e.id fun x => x.finished ((e.received hdr false).finish s.stamp)).ent e.id = _ :=
    Ni.ent_modEnt he fun _ => rfl
  rw [Option.some.inj (hx.symm.trans hfinished)]
  exact hbox

/-- An entry of which more has been accepted is the same to its receive. -/
theorem State.Noted.ent {s u : State} {m : Nat} (h : s.Noted u m) (hids : (s.tile.ni.ents.map fun x => x.id).Nodup) {e : Ent}
    (he : e ∈ s.tile.ni.ents) : ∃ took, u.tile.ni.ent e.id = some { e with took := took } := by
  obtain ⟨c, hents⟩ := h.ents
  have hsame : ∀ x : Ent, (if c x then tookMore m x else x).id = x.id := fun x => by split <;> rfl
  have hmem : (if c e then tookMore m e else e) ∈ u.tile.ni.ents := by rw [hents]; exact List.mem_map_of_mem he
  have hfound := Ni.ent_of_mem hmem (by
    rw [hents, List.map_map]
    exact (List.map_congr_left fun x _ => hsame x) ▸ hids)
  rw [hsame] at hfound
  rw [hfound]
  split
  · exact ⟨_, rfl⟩
  · exact ⟨_, rfl⟩

/-- No phase changes by what the sender comes to know. -/
theorem State.Noted.phases {s u : State} {m : Nat} (h : s.Noted u m) {q : Phase} (hq : ∀ x ∈ s.tile.ni.ents, x.phase ≠ q) :
    ∀ x ∈ u.tile.ni.ents, x.phase ≠ q := by
  obtain ⟨c, hents⟩ := h.ents
  intro x hx
  rw [hents] at hx
  obtain ⟨y, hy, rfl⟩ := List.mem_map.1 hx
  split
  · exact hq y hy
  · exact hq y hy

/-- A delivery under an RTS does not take turns (R122). -/
theorem Ni.outOfTurn_unmatched (n : Ni) {e : Ent} (h : e.matched = 0) : n.outOfTurn e = false := by simp [Ni.outOfTurn, h]

theorem hfRELPEND_clear {f : BitVec 8} (h : f.getLsbD 1 = false) : f &&& hfRELPEND = 0 := by
  have hbit : hfRELPEND = BitVec.twoPow 8 1 := by decide
  rw [hbit, BitVec.and_twoPow, h]
  rfl

section
variable {s : State} (h : s.Admits s.tile.ep) (hids : (s.tile.ni.ents.map fun x => x.id).Nodup) {p : Packet} (hown : s.ownPkg p.hdr.src = true)
  {e : Ent} (he : e ∈ s.tile.ni.ents) (rs : List (Nat × Nat)) (a : Nat)
include h hids hown he

/-- What a chunk leaves that is not the last one. -/
theorem State.withChunk_more (hphase : e.phase = .granted) : let u := s.noteTook p.hdr p.payload.length
    let t := s.withChunk p e rs a
    Landed rs (a + p.hdr.offset.toNat) p.payload u t ∧ t.torus = s.torus ∧
      (∃ f ∈ t.tile.ni.ents, f.id = e.id ∧ f.phase = .granted ∧ f.sent = e.sent + p.payload.length ∧ f.chunks = e.chunks + 1) ∧
      OthersKept u t e.id := by
  intro u t
  have hu : s.Noted u p.payload.length := h.alone.noteTook_noted hown _
  obtain ⟨took, hent⟩ := hu.ent hids he
  have hmem := Ni.mem_modEnt_twice (Ni.mem_of_ent hent).1 (g := Ent.beaten) rfl (Ent.chunked p.hdr.offset.toNat p.payload)
  exact ⟨landed_filled u rs _ _ _ _, hu.torus, ⟨_, hmem, rfl, hphase, rfl, rfl⟩, ((Keeps.refl _ _).modEnt Ent.beaten).modEnt _⟩

/-- The state when the last chunk has landed and the ACK begins to leave. -/
def State.withLast (s : State) (p : Packet) (e : Ent) (h0 : Header) (rs : List (Nat × Nat)) (a : Nat) : State :=
  (s.withChunk p e rs a).net ((s.withChunk p e rs a).tile.ni.modEnt e.id fun x => { x with phase := .landing })
    (s.torus ++ [(s.withChunk p e rs a).parcel (.packet (ackPacket h0 ackMessage (e.granted - e.part))) s.tile.ep (rankEp h0.src)])

omit h hids hown he in
theorem State.withLast_net (s : State) (p : Packet) (e : Ent) (h0 : Header) (rs : List (Nat × Nat)) (a : Nat) (n : Ni) (l : List Transit) :
    (s.withLast p e h0 rs a).net n l = ((s.noteTook p.hdr p.payload.length).filled rs (a + p.hdr.offset.toNat) p.payload).net n l := by
  rw [State.withLast, State.withChunk, State.net_net, State.net_net]

omit hids he in
theorem State.withLast_alone (h0 : Header) : (s.withLast p e h0 rs a).Alone s.tile.ep :=
  (State.alone_net _ _).2 ((State.alone_net _ _).2 (((h.alone.noteTook_noted hown _).alone h.alone).filled rs _ _))

omit hids he in
theorem State.withLast_eq {h0 : Header} (hown0 : s.ownPkg h0.src = true) :
    ((s.withChunk p e rs a).modEnt s.tile.ep e.id fun x => { x with phase := .landing }).emit s.tile.ep
      (ackPacket h0 ackMessage (e.granted - e.part)) = s.withLast p e h0 rs a := by
  have hu : s.Noted (s.noteTook p.hdr p.payload.length) p.payload.length := h.alone.noteTook_noted hown _
  have hw : (s.withChunk p e rs a).Alone s.tile.ep := (State.alone_net _ _).2 ((hu.alone h.alone).filled rs _ _)
  have hown1 : (s.withChunk p e rs a).ownPkg h0.src = true := by
    rw [State.ownPkg, show (s.withChunk p e rs a).pkg = _ from hu.pkg]
    exact hown0
  have htorus : (s.withChunk p e rs a).torus = s.torus := hu.torus
  rw [hw.modEnt, State.Alone.emit (key := s.tile.ep) (by simpa) (by exact hown1), State.net_torus, htorus]
  rfl

theorem State.withLast_ent (h0 : Header) : ∃ took, (s.withLast p e h0 rs a).tile.ni.ent e.id = some (e.lastChunk took p.hdr.offset.toNat p.payload) := by
  obtain ⟨took, hent⟩ := (h.alone.noteTook_noted hown p.payload.length).ent hids he
  exact ⟨took, Ni.ent_modEnt (Ni.ent_modEnt (Ni.ent_modEnt hent (f := Ent.beaten) fun _ => rfl)
    (f := Ent.chunked p.hdr.offset.toNat p.payload) fun _ => rfl) fun _ => rfl⟩

omit hids he in
theorem State.withLast_turns (h0 : Header) (hturn : ∀ x ∈ s.tile.ni.ents, x.phase ≠ .turn) :
    ∀ x ∈ (s.withLast p e h0 rs a).tile.ni.ents, x.id ≠ e.id → x.phase ≠ .turn :=
  Ni.others_modEnt (Ni.others_modEnt (Ni.others_modEnt (f := Ent.beaten)
    (fun x hx _ => (h.alone.noteTook_noted hown p.payload.length).phases hturn x hx) fun _ => rfl)
      (f := Ent.chunked p.hdr.offset.toNat p.payload) fun _ => rfl) fun _ => rfl

/-- What the last chunk leaves. -/
theorem State.withLast_said (hkind : e.kind = .post) {h0 : Header} (hhdr : e.hdr = some h0) (hrel : h0.hflags.getLsbD 1 = false)
    (hmatched : e.matched = 0) (hturn : ∀ x ∈ s.tile.ni.ents, x.phase ≠ .turn) (hplain : Plain e) : let u := s.noteTook p.hdr p.payload.length
    let t := ((s.withLast p e h0 rs a).landed s.tile.ep e.id).boxGo s.tile.ep e.id
    Landed rs (a + p.hdr.offset.toNat) p.payload u t ∧
      EntDone s t e.id (if e.granted < h0.len then stTRUNC else stOK) (e.granted - e.part) h0.len ∧ OthersKept u t e.id ∧
      t.torus = (s.withLast p e h0 rs a).torus := by
  have hu := h.alone.noteTook_noted hown p.payload.length
  obtain ⟨took, hent⟩ := State.withLast_ent h hids hown he rs a h0
  obtain ⟨hnb, hstays, hid, hpoison, hearly⟩ := hplain
  have hclean : (e.lastChunk took p.hdr.offset.toNat p.payload).poison = false := show (e.poison || false) = false by rw [hpoison]; rfl
  have hclear : (e.lastChunk took p.hdr.offset.toNat p.payload).relEarly ≠ some 2 := show e.relEarly ≠ some 2 by rw [hearly]; nofun
  have hend := (State.withLast_alone h hown rs a h0).landed_post (e := e.lastChunk took p.hdr.offset.toNat p.payload) hent hhdr
    (.inl (hfRELPEND_clear hrel)) (Ni.outOfTurn_unmatched _ hmatched) hkind nofun hnb hstays hid hclean hclear
    (State.withLast_turns h hown rs a h0 hturn)
  have hkeep : Keeps (s.noteTook p.hdr p.payload.length).tile.ni.ents (s.withLast p e h0 rs a).tile.ni.ents e.id :=
    (((Keeps.refl _ _).modEnt Ent.beaten).modEnt _).modEnt _
  have hmem := Ni.mem_modEnt_self (Ni.mem_of_ent hent).1 fun x =>
    x.finished (((e.lastChunk took p.hdr.offset.toNat p.payload).received h0 false).finish (s.withLast p e h0 rs a).stamp)
  have htime : (s.withLast p e h0 rs a).stamp = s.stamp := congrArg (BitVec.ofNat 32) hu.time
  have hstatus := Ent.received_status hclean h0
  intro u t
  have ht : t = _ := hend
  rw [ht]
  refine ⟨?_, ?_, hkeep.modEnt _, State.net_torus _ _ _⟩
  · rw [State.withLast_net]
    exact landed_filled u rs (a + p.hdr.offset.toNat) p.payload _ _
  · have hdone := entDone_finished (s := s) (t := (s.withLast p e h0 rs a).net _ (s.withLast p e h0 rs a).torus) hmem htime
    rwa [hstatus, Ent.received_dlen, Ent.received_flen, Ent.lastChunk_id, Ent.lastChunk_granted, Ent.lastChunk_part] at hdone

end

/-! ### O37 -/

theorem carries_data_iff (h : Header) (v : Ev) : carries (isData h) v = true ↔
    ∃ q, v.inner? = some q ∧ q.hdr.kind = 0x04 ∧ q.hdr.src = h.dest ∧ q.hdr.dest = h.src ∧ q.hdr.xid = h.xid := by
  simp [carries_iff, isData, and_assoc]

theorem carries_grant_iff (h : Header) (v : Ev) : carries (isGrant h) v = true ↔
    ∃ q, v.inner? = some q ∧ q.hdr.kind = 0x03 ∧ q.hdr.src = h.src ∧ q.hdr.dest = h.dest ∧ q.hdr.xid = h.xid := by
  simp [carries_iff, isGrant, and_assoc]

/-- Settles O37: CTS, ACK and REVOKE change the one send that they name (`dataDone_said`, `failSend`, `execRevoke_revoked`); DATA lands beside
what its sender comes to know of it, and its last chunk ends the delivery (`withChunk_more`, `withLast_said`). -/
theorem transfersGoOn : Obligations.TransfersGoOn := by
  unfold Obligations.TransfersGoOn
  intro p e h0 rs a s htakes hdest hown hclean hrevoked hplain h off changed asSent mine stays
  have ha := admits_of_takes htakes
  obtain ⟨-, -, -, -, -, -, hids, hmma, hmsto⟩ := htakes
  refine ⟨fun hnamed hkind => ?_, fun hr hkind hphase hbuf hhdr hrel hown0 hfits hmatched hturn => ?_⟩
  · obtain ⟨he, hrank, hxid, hopen⟩ := Ni.mem_of_named hnamed
    have hent := Ni.ent_of_mem he hids
    refine ⟨fun hwait => ⟨fun hgrant => ?_, fun hgrant => ?_⟩, fun hcode => ?_, fun hcode => ?_, fun hsched hwaiting => ?_⟩
    · refine ⟨_, execCts_granted ha hdest hnamed hkind hwait, ?_⟩
      have halone : (s.net (s.tile.ni.modEnt e.id (Ent.underGrant p.hdr s.stamp)) s.torus).Alone s.tile.ep := (State.alone_net _ _).2 ha.alone
      have hmem := Ni.mem_modEnt_twice he (g := Ent.underGrant p.hdr s.stamp) rfl fun x => { x with phase := .sending }
      rw [if_neg (Nat.pos_iff_ne_zero.1 hgrant), ha.alone.modEnt, halone.modEnt]
      exact ⟨⟨⟨_, hmem, rfl, rfl, rfl, rfl, rfl⟩, ((Keeps.refl _ _).modEnt (Ent.underGrant p.hdr s.stamp)).modEnt _⟩, rfl, rfl⟩
    · refine ⟨_, execCts_granted ha hdest hnamed hkind hwait, ?_⟩
      have halone : (s.net (s.tile.ni.modEnt e.id (Ent.underGrant p.hdr s.stamp)) s.torus).Alone s.tile.ep := (State.alone_net _ _).2 ha.alone
      rw [if_pos hgrant, ha.alone.modEnt]
      obtain ⟨hdone, hkeep, hframe, htorus⟩ := halone.dataDone_said (e := e.underGrant p.hdr s.stamp) (Ni.ent_modEnt hent fun _ => rfl) hkind hopen
        hplain 0
      exact ⟨hdone, fun x hx hid => hkeep x (Ni.mem_modEnt_other hx hid _) hid, hframe, htorus⟩
    · exact ⟨_, execAck_message ha hdest hnamed hkind hcode, ha.alone.dataDone_said hent hkind hopen hplain _⟩
    · obtain ⟨hdone, hkeep, htorus, hsch, hwait, hframe⟩ := ha.alone.failSend hent (by rw [hkind]; rfl) hopen hplain stDENIED 0
      refine ⟨_, execAck_denied ha hdest hnamed hkind hcode, hdone, hkeep, fun u => ?_, fun x => ?_, hwait, hframe⟩
      · have hgone := htorus u
        rw [State.Withdrawn, State.SentFor, ← hdest, hrank, hxid] at hgone
        exact hgone
      · have hgone := hsch x
        rw [State.SentFor, ← hdest, hrank, hxid] at hgone
        exact hgone
    · intro chunks data revoked grant
      have hdata : ∀ u : Transit, carries (isData p.hdr) u.ev = true ↔ data u := fun u => carries_data_iff _ _
      have hgrant : ∀ u : Transit, carries (isGrant p.hdr) u.ev = true ↔ grant u := fun u => carries_grant_iff _ _
      have hgo := @execRevoke_revoked s ha p hdest hown e hnamed hsched hwaiting
      refine ⟨fun hnone => ?_, fun u hu hdatau hnew => ?_, fun u hu hgrantu hagain => ?_⟩
      · have hd : ∀ u ∈ s.torus, withdrawnData p.hdr u = false := fun u hu => by
          rw [← Bool.not_eq_true, withdrawnData_iff, hdata]
          rintro ⟨hdatau, hwhere⟩
          obtain ⟨hbegun, q, hq⟩ := (hnone u hu).1 hdatau
          exact hwhere.elim hbegun fun hall => hall q hq
        have hv : ∀ u ∈ s.torus, voidGrant p.hdr u = false := fun u hu => by
          rw [← Bool.not_eq_true, voidGrant_iff, hgrant]
          rintro ⟨hgrantu, hall⟩
          obtain ⟨q, hq⟩ := (hnone u hu).2 hgrantu
          exact hall q hq
        exact hgo (List.filter_eq_self.2 fun u hu => by rw [hd u hu, hv u hu]; rfl)
          (List.length_eq_zero_iff.2 (List.filter_eq_nil_iff.2 fun u hu => by rw [hd u hu]; exact Bool.false_ne_true)) rfl
      · have hd : withdrawnData p.hdr u = true := (withdrawnData_iff _ _).2 ⟨(hdata u).2 hdatau, .inl hnew⟩
        refine hgo (m := 1) (by rw [hu, List.filter_singleton, hd]; rfl) (by rw [hu, List.filter_singleton, hd]; rfl) ?_
        show (if e.phase = .sending ∨ e.phase = .awaitLast then e.chunks - 1 else 0) =
          (if e.phase = .sending ∨ e.phase = .awaitLast then e.chunks else 0) - 1
        split <;> rfl
      · have hv : voidGrant p.hdr u = true := (voidGrant_iff _ _).2 ⟨(hgrant u).2 hgrantu, hagain⟩
        have hd : withdrawnData p.hdr u = false := by
          rw [← Bool.not_eq_true, withdrawnData_iff, hdata]
          rintro ⟨⟨q, hq, hkindq, -⟩, -⟩
          obtain ⟨q', hq', hkindq', -⟩ := hgrantu
          rw [Option.some.inj (hq.symm.trans hq'), hkindq'] at hkindq
          exact absurd hkindq (by decide)
        exact hgo (by rw [hu, List.filter_singleton, hd, hv]; rfl) (by rw [hu, List.filter_singleton, hd]) rfl
  · intro u
    have hexec := execData_lands ha hmma hmsto hdest hown hclean hrevoked hr hkind hphase hbuf hhdr hfits
    have he := Ni.mem_of_receiving hr
    refine ⟨fun hmore => ⟨_, hexec, ?_⟩, fun hlast => ⟨_, hexec, ?_⟩⟩
    · rw [if_neg (by omega)]
      exact State.withChunk_more ha hids hown he rs a hphase
    · obtain ⟨hlanded, hdone, hkeep, htorus⟩ := State.withLast_said ha hids hown he rs a hkind hhdr hrel hmatched hturn hplain
      rw [if_pos hlast, State.withLast_eq ha hown rs a hown0]
      exact ⟨hlanded, hdone, hkeep, _, _, htorus, rfl, rfl, rfl, rfl, rfl, rfl⟩

end Sys2Proof.Machine
end

section
/-!
EAGER and RTS at a tile that takes them (R88, R91, R94 to R97, R370): what their headers do, and what the last flit does.
-/
namespace Sys2Proof.Machine

open Sys2Proof.Safety

theorem exec_eager (p : Packet) (s : State) : exec (.eager p) s = .next (s.message (withKind p 0x01)) := rfl
theorem exec_rts (p : Packet) (s : State) : exec (.rts p) s = .next (s.message (withKind p 0x02)) := rfl

/-! ### The interface of a tile (R88, R370) -/

/-- A packet for the tile in focus, which stands alone, of the package. -/
structure State.IsFor (s : State) (p : Packet) : Prop where
  alone : s.Alone s.tile.ep
  own : s.ownPkg p.hdr.dest = true
  dest : rankEp p.hdr.dest = s.tile.ep

theorem State.isFor_of_rank {s : State} (h : s.Alone s.tile.ep) (hpkg : s.pkg < 2 ^ 20) {p : Packet} (hd : p.hdr.dest = s.rankOf s.tile.ep) :
    s.IsFor p := by
  have := h.isTile
  exact ⟨h, by rw [hd]; exact State.ownPkg_rankOf hpkg (by omega), by rw [hd, rankEp_rankOf s (by omega)]⟩

section
variable {s : State} {p : Packet} (h : s.IsFor p)
include h

theorem State.IsFor.withKind (k : BitVec 8) : s.IsFor (withKind p k) := ⟨h.alone, h.own, h.dest⟩

theorem State.IsFor.messageHead_takes (hr : s.refusal s.tile.ep = none) : s.messageHead p = s.arrive s.tile.ep p := by
  rw [State.messageHead, h.dest, h.own, h.alone.key_eq]
  simp [hr, State.hostBlocked, h.alone.not_host]

theorem State.IsFor.messageHead_refuses {r : Nat} (hr : s.refusal s.tile.ep = some r) :
    s.messageHead p = s.refuse s.tile.ep p.hdr 0x06 r := by
  rw [State.messageHead, h.dest, h.own, h.alone.key_eq]
  simp [hr]

/-- The rest of a packet at the tile: only an EAGER has one. -/
theorem State.IsFor.messageTail {t : State} (hpkg : t.pkg = s.pkg) :
    t.messageTail p = if p.hdr.kind = 0x01 then t.arriveWhole s.tile.ep p else t := by
  have htile := h.alone.isTile
  have hplacer : s.tile.ep ≠ Config.placerEp := by simp only [Config.placerEp]; omega
  have hdisp : s.tile.ep ≠ Config.dispatcherEp := by simp only [Config.dispatcherEp]; omega
  have hmgmt : s.tile.ep ≠ Config.mgmtEp := by simp only [Config.mgmtEp]; omega
  have hhalo : s.tile.ep ≠ Config.haloEp := by simp only [Config.haloEp]; omega
  have hown : t.ownPkg p.hdr.dest = true := by rw [State.ownPkg, hpkg]; exact h.own
  simp only [State.messageTail, hown, h.dest, hplacer, hdisp, hmgmt, hhalo, if_false, h.alone.key_eq, Bool.true_or, Bool.true_and, Bool.not_true,
    Bool.false_eq_true, beq_iff_eq]

end

/-! ### What is there of a message already -/

/-- A header of the same message as another. -/
def SameMessage (a b : Header) : Prop := a.src = b.src ∧ a.xid = b.xid

/-- The interface holds no receive, and no mailbox a message, that the header of `h` names. -/
def Ni.Unheard (n : Ni) (h : Header) : Prop :=
  ∀ x ∈ n.ents, (∀ q, x.hdr = some q → x.phase = .landing → ¬SameMessage q h) ∧ ∀ u ∈ x.boxq, ¬SameMessage u.hdr h

/-- No receive takes the payload of a message that is unheard of. -/
theorem Ni.Unheard.find?_eq_none {n : Ni} {d : Header} (h : n.Unheard d) : n.ents.find? (fun e => e.kind.isRecv && e.phase == .landing &&
    (e.hdr.map fun q => q.kind == 0x01 && q.src == d.src && q.xid == d.xid).getD false) = none := by
  refine List.find?_eq_none.2 fun x hx hp => ?_
  cases hhdr : x.hdr with
  | none => simp [hhdr] at hp
  | some q =>
    simp only [hhdr, Option.map_some, Option.getD_some, Bool.and_eq_true, beq_iff_eq] at hp
    exact (h x hx).1 q hhdr hp.1.2 ⟨hp.2.1.2, hp.2.2⟩

/-- The last flit of an EAGER finds nothing of its message. -/
theorem State.Alone.arriveWhole_none {s : State} {key : Nat} (h : s.Alone key) {p : Packet} (hents : s.tile.ni.Unheard p.hdr)
    (hstore : ∀ u ∈ s.tile.ni.unexp, SameMessage u.hdr p.hdr → u.whole = true) : s.arriveWhole key p = s := by
  have hkept : s.tile.ni.unexp.find? (fun u => (u.hdr.kind == 0x01 && u.hdr.src == p.hdr.src && u.hdr.xid == p.hdr.xid) && !u.whole) = none := by
    refine List.find?_eq_none.2 fun u hu hp => ?_
    simp only [Bool.and_eq_true, beq_iff_eq, Bool.not_eq_true'] at hp
    rw [hstore u hu ⟨hp.1.1.2, hp.1.2⟩] at hp
    exact nomatch hp.2
  have hboxes : (s.tile.ni.ents.map fun e => { e with boxq := e.boxq.map fun u =>
      if (u.hdr.kind == 0x01 && u.hdr.src == p.hdr.src && u.hdr.xid == p.hdr.xid) && !u.whole then
        { u with whole := true, poison := p.poison, pay := p.payload } else u }) = s.tile.ni.ents := by
    refine (List.map_congr_left fun e he => ?_).trans s.tile.ni.ents.map_id
    have hbox : (e.boxq.map fun u => if (u.hdr.kind == 0x01 && u.hdr.src == p.hdr.src && u.hdr.xid == p.hdr.xid) && !u.whole then
        { u with whole := true, poison := p.poison, pay := p.payload } else u) = e.boxq := by
      refine (List.map_congr_left fun u hu => if_neg fun hp => ?_).trans e.boxq.map_id
      simp only [Bool.and_eq_true, beq_iff_eq] at hp
      exact (hents e he).2 u hu ⟨hp.1.1.2, hp.1.2⟩
    rw [hbox]
    rfl
  unfold State.arriveWhole
  dsimp only
  rw [h.getNi, hents.find?_eq_none, hkept, h.modNi]
  dsimp only
  rw [hboxes]
  rfl

/-! ### The header (R88, R91, R95) -/

/-- The payload that comes with a header. -/
def loadOf (p : Packet) : Option (List Byte × Bool) := if p.hdr.kind = 0x02 then none else some (p.payload, p.poison)

/-- The interface once it has accepted the next message of a source and group; and once it has given it its place in arrival order. -/
def Ni.accepting (n : Ni) (h : Header) : Ni :=
  { n with seqIn := Sparse.set 0 n.seqIn (seqKey h.src h.group) (Sparse.get 0 n.seqIn (seqKey h.src h.group) + 1) }
def Ni.placed (n : Ni) : Ni := { n with arrivals := n.arrivals + 1 }

section
variable {s : State} {key : Nat} (h : s.Alone key) {p : Packet}
include h

omit h in
/-- An untimed message has no SKEW. -/
theorem State.skewed_untimed (htime : p.hdr.hflags &&& hfTIMED = 0) : s.skewed key p.hdr = false := by simp [State.skewed, htime]

theorem State.Alone.arrive_refused (hfull : s.tile.ni.storeFull = true)
    (hnone : p.hdr.seq ≠ Sparse.get 0 s.tile.ni.seqIn (seqKey p.hdr.src p.hdr.group) ∨ s.tile.ni.matching p.hdr = none) :
    s.arrive key p = s.refuse key p.hdr 0x07 0 := by
  by_cases hseq : p.hdr.seq = Sparse.get 0 s.tile.ni.seqIn (seqKey p.hdr.src p.hdr.group)
  · simp only [State.arrive, h.getNi, hseq, hnone.resolve_left (not_not.2 hseq), hfull]
    simp
  · have : (p.hdr.seq != Sparse.get 0 s.tile.ni.seqIn (seqKey p.hdr.src p.hdr.group)) = true := by simpa using hseq
    simp only [State.arrive, h.getNi, this, hfull, if_true]

variable (htime : p.hdr.hflags &&& hfTIMED = 0)
include htime

theorem State.Alone.arrive_held (hroom : s.tile.ni.storeFull = false)
    (hseq : p.hdr.seq ≠ Sparse.get 0 s.tile.ni.seqIn (seqKey p.hdr.src p.hdr.group)) : s.arrive key p = s.keep key p.hdr (loadOf p) true false := by
  have : (p.hdr.seq != Sparse.get 0 s.tile.ni.seqIn (seqKey p.hdr.src p.hdr.group)) = true := by simpa using hseq
  simp only [State.arrive, h.getNi, this, hroom, if_true, Bool.false_eq_true, if_false, State.skewed_untimed htime]
  rfl

variable (hseq : p.hdr.seq = Sparse.get 0 s.tile.ni.seqIn (seqKey p.hdr.src p.hdr.group))
include hseq

theorem State.Alone.arrive_kept (hroom : s.tile.ni.storeFull = false) (hnone : s.tile.ni.matching p.hdr = none) : s.arrive key p =
    ((s.net (s.tile.ni.accepting p.hdr) s.torus).keep key p.hdr (loadOf p) false false).caughtUp key (seqKey p.hdr.src p.hdr.group) := by
  have : (p.hdr.seq != Sparse.get 0 s.tile.ni.seqIn (seqKey p.hdr.src p.hdr.group)) = false := by simpa using hseq
  simp only [State.arrive, h.getNi, this, hroom, hnone, Bool.false_eq_true, if_false, State.skewed_untimed htime, h.modNi]
  rfl

theorem State.Alone.arrive_taken {e : Ent} (hfirst : s.tile.ni.matching p.hdr = some e) (hphase : e.phase = .posted) : s.arrive key p =
    ((s.net (s.tile.ni.accepting p.hdr).placed s.torus).take key e.id p.hdr (loadOf p) s.tile.ni.arrivals false false).caughtUp key
      (seqKey p.hdr.src p.hdr.group) := by
  have : (p.hdr.seq != Sparse.get 0 s.tile.ni.seqIn (seqKey p.hdr.src p.hdr.group)) = false := by simpa using hseq
  have haccepted : (s.net (s.tile.ni.accepting p.hdr) s.torus).Alone key := (State.alone_net _ _).2 h
  have hmatch : (e.phase == .posted) = true := by simpa using hphase
  simp only [State.arrive, h.getNi, this, hfirst, hmatch, Bool.false_eq_true, if_false, if_true, State.skewed_untimed htime, h.modNi]
  rw [State.Alone.modNi (key := key) (by simpa)]
  rfl

end

/-- Where no header is held for its predecessor, none is compared (R91). -/
theorem State.Alone.caughtUp_none {s : State} {key : Nat} (h : s.Alone key) (hwaits : ∀ u ∈ s.tile.ni.unexp, u.waits = false) (k : Nat) :
    s.caughtUp key k = s := by
  have hnone : ∀ want : W32, s.tile.ni.unexp.find? (fun u => u.waits && seqKey u.hdr.src u.hdr.group == k && u.hdr.seq == want) = none := fun want =>
    List.find?_eq_none.2 fun u hu => by simp [hwaits u hu]
  simp only [State.caughtUp, State.catchUp, h.getNi, hnone]

/-! ### A receive that takes a message (R96, R97) -/

/-- A receive that has taken a message of which no RELEASE has come. -/
def Ent.taken (h : Header) (g arrival : Nat) (stamp : W32) (phase : Phase) (e : Ent) : Ent :=
  { e with
    hdr := some h, peer := h.src, peerXid := h.xid, granted := g, sent := 0, chunks := 0, part := 0, full := h.len, cts := false, beat := false
    relEarly := none, arrival, stage := [], skew := false, phase, poison := false
    rcd := if e.kind == .postm then e.rcd else { e.rcd with source := h.src, tag := h.tag, group := h.group, tstamp := stamp } }
def Ent.takenWhole (h : Header) (g arrival : Nat) (stamp : W32) (no : Nat) (e : Ent) : Ent :=
  { e.taken h g arrival stamp .landing with matched := if e.kind == .postm then 0 else no }

/-- The interface that has matched one eager message more. -/
def Ni.nextMatch (n : Ni) : Ni := { n with matchNo := n.matchNo + 1 }

/-- A receive whose payload has come whole. -/
def Ent.filledWith (l : List Byte) (bad : Bool) (e : Ent) : Ent :=
  { e with poison := bad, stage := if e.kind == .postm then putBytes [] 0 l else [] }

section
variable {s : State} {key : Nat} (h : s.Alone key) {e : Ent} (he : s.tile.ni.ent e.id = some e)
include h

/-- Where no RELEASE has come early, none is forgotten. -/
theorem State.Alone.modNi_relLog (hrel : s.tile.ni.relLog = []) (f : Rank × W32 × Nat → Bool) :
    (s.modNi key fun n => { n with relLog := n.relLog.filter f }) = s := by
  have hsame : s.tile.ni.relLog.filter f = s.tile.ni.relLog := by rw [hrel]; rfl
  rw [h.modNi]
  show s.net { s.tile.ni with relLog := s.tile.ni.relLog.filter f } s.torus = s
  rw [hsame]
  rfl

include he

theorem State.Alone.take_eager (hrel : s.tile.ni.relLog = []) (d : Header) (l : List Byte) (bad : Bool) (arrival : Nat) :
    s.take key e.id d (some (l, bad)) arrival false false = s.net (s.tile.ni.nextMatch.modEnt e.id
      (Ent.takenWhole d (s.grant key e d.len) arrival s.stamp (s.tile.ni.matchNo + 1))) s.torus := by
  have halone : (s.net s.tile.ni.nextMatch s.torus).Alone key := (State.alone_net _ _).2 h
  unfold State.take
  rw [h.ent, he, h.getNi]
  dsimp only
  rw [hrel, h.modNi_relLog hrel, h.modNi]
  exact halone.modEnt e.id (Ent.takenWhole d (s.grant key e d.len) arrival s.stamp (s.tile.ni.matchNo + 1))

theorem State.Alone.take_rts (hrel : s.tile.ni.relLog = []) (hrevoked : s.tile.ni.revoked = []) {d : Header} (hgrant : s.grant key e d.len ≠ 0)
    (arrival : Nat) : s.take key e.id d none arrival false false =
      (s.net (s.tile.ni.modEnt e.id (Ent.taken d (s.grant key e d.len) arrival s.stamp .granted)) s.torus).sendCts key e.id := by
  unfold State.take
  rw [h.ent, he, h.getNi]
  dsimp only
  rw [hrel, hrevoked, h.modNi_relLog hrel, if_neg hgrant, h.modEnt]
  rfl

variable {d : Header} (hhdr : e.hdr = some d) (hown : s.ownPkg d.src = true)
include hhdr hown

theorem State.Alone.sendCts (hconv : d.hflags &&& hfCONVERTED = 0) : s.sendCts key e.id =
    s.net (s.tile.ni.modEnt e.id fun x => { x with cts := true })
      (s.torus ++ [s.parcel (.packet (answer d 0x03 e.granted)) key (rankEp d.src)]) := by
  have halone : (s.net (s.tile.ni.modEnt e.id fun x => { x with cts := true }) s.torus).Alone key := (State.alone_net _ _).2 h
  simp only [State.sendCts, h.ent, he, hhdr, h.modEnt, hconv]
  exact halone.emit (by exact hown)

theorem State.Alone.eagerIn_post (hkind : e.kind = .post) {a : Nat} {rs : List (Nat × Nat)} (hbuf : e.buf = .store a rs)
    (hmma : ∀ j ∈ s.tile.eng.mma, j.until_ ≤ s.cycle) (hmsto : ∀ j ∈ s.tile.eng.msto, j.until_ ≤ s.cycle) (l : List Byte) (bad : Bool) :
    s.eagerIn key e.id l bad = ((s.filled rs a (l.take e.granted)).net (s.tile.ni.modEnt e.id (Ent.filledWith (l.take e.granted) bad))
      (s.torus ++ [s.parcel (.packet (ackPacket d ackMessage e.granted)) key (rankEp d.src)])).landed key e.id := by
  have hbox : (e.kind == .postm) = false := by rw [hkind]; rfl
  have halone : (s.net (s.tile.ni.modEnt e.id (Ent.filledWith (l.take e.granted) bad)) s.torus).Alone key := (State.alone_net _ _).2 h
  have hfilled := halone.recvBytes_store hmma hmsto a rs 0 (l.take e.granted)
  have hafter := halone.filled rs (a + 0) (l.take e.granted)
  unfold State.eagerIn
  rw [h.ent, he]
  dsimp only
  rw [hhdr]
  dsimp only
  rw [hbox, if_neg Bool.false_ne_true, hbuf, h.modEnt]
  refine (congrArg (fun t : State => (t.emit key (ackPacket d ackMessage e.granted)).landed key e.id) hfilled).trans ?_
  rw [hafter.emit (by exact hown)]
  rfl

end

end Sys2Proof.Machine
end

section
/-!
A message that a POST takes (R88, R96, R97, R122): an EAGER is delivered or waits for its turn, an RTS is granted.
-/
namespace Sys2Proof.Machine

open Sys2Proof.Safety

/-- A tile whose interface takes a message at once: nothing of it or of its predecessors is there. -/
structure State.Hears (s : State) (p : Packet) : Prop where
  admits : s.Admits s.tile.ep
  dest : p.hdr.dest = s.rankOf s.tile.ep
  own : s.ownPkg p.hdr.src = true
  flags : p.hdr.hflags &&& 7 = 0
  ids : (s.tile.ni.ents.map fun x => x.id).Nodup
  mma : ∀ j ∈ s.tile.eng.mma, j.until_ ≤ s.cycle
  msto : ∀ j ∈ s.tile.eng.msto, j.until_ ≤ s.cycle
  relLog : s.tile.ni.relLog = []
  revoked : s.tile.ni.revoked = []
  waits : ∀ u ∈ s.tile.ni.unexp, u.waits = false
  unheard : s.tile.ni.Unheard p.hdr
  unstored : ∀ u ∈ s.tile.ni.unexp, ¬SameMessage u.hdr p.hdr
  earlier : ∀ u ∈ s.tile.ni.unexp, u.arrival < s.tile.ni.arrivals

/-- The message is the next of its source and group. -/
def State.Next (s : State) (p : Packet) : Prop := p.hdr.seq = Sparse.get 0 s.tile.ni.seqIn (seqKey p.hdr.src p.hdr.group)

theorem hflags_clear {f : BitVec 8} (h : f &&& 7 = 0) {m : BitVec 8} (hm : 7 &&& m = m) : f &&& m = 0 := by
  rw [← hm, ← BitVec.and_assoc, h]
  exact BitVec.zero_and

section
variable {s : State} {p : Packet} (h : s.Hears p)
include h

theorem State.Hears.untimed : p.hdr.hflags &&& hfTIMED = 0 := hflags_clear h.flags (by decide)
theorem State.Hears.unpended : p.hdr.hflags &&& hfRELPEND = 0 := hflags_clear h.flags (by decide)
theorem State.Hears.unconverted : p.hdr.hflags &&& hfCONVERTED = 0 := hflags_clear h.flags (by decide)

theorem State.Hears.isFor : s.IsFor p := State.isFor_of_rank h.admits.alone h.admits.pkg h.dest

theorem State.Hears.withKind (k : BitVec 8) : s.Hears (withKind p k) :=
  ⟨h.admits, h.dest, h.own, h.flags, h.ids, h.mma, h.msto, h.relLog, h.revoked, h.waits, h.unheard, h.unstored, h.earlier⟩

end

theorem Ni.accepting_next (n : Ni) (d : Header) : Sparse.get 0 (n.accepting d).seqIn (seqKey d.src d.group) =
    Sparse.get 0 n.seqIn (seqKey d.src d.group) + 1 := by
  rw [Ni.accepting, Sparse.get_set_self]

/-! ### EAGER -/

/-- The interface when a POST has taken an eager message. -/
def Ni.taking (n : Ni) (p : Packet) (e : Ent) (stamp : W32) : Ni :=
  (n.accepting p.hdr).placed.nextMatch.modEnt e.id (Ent.takenWhole p.hdr (min p.hdr.len e.len) n.arrivals stamp (n.matchNo + 1))

/-- That POST, and the state in which its bytes have landed and the ACK begins to leave. -/
def Ent.delivered (p : Packet) (n : Ni) (stamp : W32) (e : Ent) : Ent :=
  (e.takenWhole p.hdr (min p.hdr.len e.len) n.arrivals stamp (n.matchNo + 1)).filledWith (p.payload.take (min p.hdr.len e.len)) p.poison
def State.delivering (s : State) (p : Packet) (e : Ent) (rs : List (Nat × Nat)) (a : Nat) : State :=
  (s.filled rs a (p.payload.take (min p.hdr.len e.len))).net
    ((s.tile.ni.taking p e s.stamp).modEnt e.id (Ent.filledWith (p.payload.take (min p.hdr.len e.len)) p.poison))
    (s.torus ++ [s.parcel (.packet (ackPacket p.hdr ackMessage (min p.hdr.len e.len))) s.tile.ep (rankEp p.hdr.src)])

section
variable {s : State} {p : Packet} (h : s.Hears p) (hnext : s.Next p) {e : Ent} (hfirst : s.tile.ni.matching p.hdr = some e) (hkind : e.kind = .post)
  (hphase : e.phase = .posted) {a : Nat} {rs : List (Nat × Nat)} (hbuf : e.buf = .store a rs)
include h hfirst

theorem State.Hears.first_ent : s.tile.ni.ent e.id = some e := Ni.ent_of_mem (List.mem_of_find?_eq_some hfirst) h.ids

theorem State.Hears.taking_ent (stamp : W32) : (s.tile.ni.taking p e stamp).ent e.id =
    some (e.takenWhole p.hdr (min p.hdr.len e.len) s.tile.ni.arrivals stamp (s.tile.ni.matchNo + 1)) :=
  Ni.ent_modEnt (h.first_ent hfirst) fun _ => rfl

include hnext hphase hbuf in
/-- The header of an EAGER that a POST takes. -/
theorem State.Hears.messageHead_eager (heager : p.hdr.kind = 0x01) : s.messageHead p = s.net (s.tile.ni.taking p e s.stamp) s.torus := by
  have ha := h.admits.alone
  have hplaced : (s.net (s.tile.ni.accepting p.hdr).placed s.torus).Alone s.tile.ep := (State.alone_net _ _).2 ha
  have htaken : (s.net (s.tile.ni.taking p e s.stamp) s.torus).Alone s.tile.ep := (State.alone_net _ _).2 ha
  have hgrant : (s.net (s.tile.ni.accepting p.hdr).placed s.torus).grant s.tile.ep e p.hdr.len = min p.hdr.len e.len := by
    rw [State.grant, hbuf]
  have hload : loadOf p = some (p.payload, p.poison) := by rw [loadOf, heager]; rfl
  rw [h.isFor.messageHead_takes h.admits.refusal, ha.arrive_taken h.untimed hnext hfirst hphase, hload,
    hplaced.take_eager (h.first_ent hfirst) h.relLog, hgrant]
  exact htaken.caughtUp_none h.waits _

/-- Its last flit finds the POST. -/
theorem State.Hears.finds_taking (heager : p.hdr.kind = 0x01) (hkind : e.kind = .post) (stamp : W32) :
    (s.tile.ni.taking p e stamp).ents.find? (fun x => x.kind.isRecv && x.phase == .landing &&
      (x.hdr.map fun q => q.kind == 0x01 && q.src == p.hdr.src && q.xid == p.hdr.xid).getD false) =
      some (e.takenWhole p.hdr (min p.hdr.len e.len) s.tile.ni.arrivals stamp (s.tile.ni.matchNo + 1)) := by
  have he := List.mem_of_find?_eq_some hfirst
  have hrecv : e.kind.isRecv = true := by rw [hkind]; rfl
  refine List.find?_eq_some_of_unique (Ni.mem_of_ent (h.taking_ent hfirst stamp)).1 ?_ fun x hx hp => ?_
  · simp [Ent.takenWhole, Ent.taken, hrecv, heager]
  · obtain ⟨y, hy, rfl⟩ := List.mem_map.1 hx
    by_cases hid : y.id = e.id
    · rw [if_pos hid, Ni.eq_of_id h.ids hy he hid]
    · rw [if_neg hid] at hp
      cases hhdr : y.hdr with
      | none => simp [hhdr] at hp
      | some q =>
        simp only [hhdr, Option.map_some, Option.getD_some, Bool.and_eq_true, beq_iff_eq] at hp
        exact absurd ⟨hp.2.1.2, hp.2.2⟩ ((h.unheard y hy).1 q hhdr hp.1.2)

include hnext hphase hbuf hkind in
/-- An EAGER that a POST takes. -/
theorem State.Hears.message_eager (heager : p.hdr.kind = 0x01) :
    s.message p = ((s.delivering p e rs a).landed s.tile.ep e.id).boxGo s.tile.ep e.id := by
  have htaken : (s.net (s.tile.ni.taking p e s.stamp) s.torus).Alone s.tile.ep := (State.alone_net _ _).2 h.admits.alone
  rw [State.message, h.messageHead_eager hnext hfirst hphase hbuf heager, h.isFor.messageTail (t := s.net (s.tile.ni.taking p e s.stamp) s.torus) rfl,
    if_pos heager]
  unfold State.arriveWhole
  dsimp only
  rw [htaken.getNi, State.net_tile, h.finds_taking hfirst heager hkind]
  exact congrArg (fun t : State => t.boxGo s.tile.ep e.id) (htaken.eagerIn_post
    (e := e.takenWhole p.hdr (min p.hdr.len e.len) s.tile.ni.arrivals s.stamp (s.tile.ni.matchNo + 1)) (h.taking_ent hfirst s.stamp) rfl h.own hkind hbuf
    h.mma h.msto p.payload p.poison)

end

/-! ### Its turn (R122) -/

theorem Ent.takenWhole_id (d : Header) (g arrival : Nat) (stamp : W32) (no : Nat) (e : Ent) : (e.takenWhole d g arrival stamp no).id = e.id := rfl
theorem Ent.filledWith_id (l : List Byte) (bad : Bool) (e : Ent) : (e.filledWith l bad).id = e.id := rfl

section
variable {s : State} {p : Packet} (h : s.Hears p) {e : Ent} (hfirst : s.tile.ni.matching p.hdr = some e) (hkind : e.kind = .post)
  (rs : List (Nat × Nat)) (a : Nat)
include h

theorem State.Hears.delivering_alone : (s.delivering p e rs a).Alone s.tile.ep := (State.alone_net _ _).2 (h.admits.alone.filled rs a _)

include hfirst

theorem State.Hears.delivering_ent : (s.delivering p e rs a).tile.ni.ent e.id = some (e.delivered p s.tile.ni s.stamp) :=
  Ni.ent_modEnt (h.taking_ent hfirst s.stamp) fun _ => rfl

omit h hfirst in
theorem State.delivering_keeps : Keeps s.tile.ni.ents (s.delivering p e rs a).tile.ni.ents e.id :=
  ((Keeps.refl _ _).modEnt (n := (s.tile.ni.accepting p.hdr).placed.nextMatch) _).modEnt _

omit h hfirst in
theorem State.delivering_others {P : Ent → Prop} (hP : ∀ x ∈ s.tile.ni.ents, x.id ≠ e.id → P x) :
    ∀ x ∈ (s.delivering p e rs a).tile.ni.ents, x.id ≠ e.id → P x :=
  Ni.others_modEnt (Ni.others_modEnt (n := (s.tile.ni.accepting p.hdr).placed.nextMatch) hP (Ent.takenWhole_id _ _ _ _ _)) (Ent.filledWith_id _ _)

omit hfirst in
theorem State.Hears.delivering_ids : ((s.delivering p e rs a).tile.ni.ents.map fun x => x.id).Nodup := by
  have hsame : ((s.delivering p e rs a).tile.ni.ents.map fun x => x.id) = s.tile.ni.ents.map fun x => x.id :=
    (Ni.modEnt_ids _ _ (Ent.filledWith_id _ _)).trans
      (Ni.modEnt_ids (s.tile.ni.accepting p.hdr).placed.nextMatch _ (Ent.takenWhole_id _ _ _ _ _))
  rw [hsame]
  exact h.ids

/-- It has its turn when no earlier delivery of its source and group is under way. -/
theorem State.Hears.delivering_inTurn (hturn : ∀ x ∈ s.tile.ni.ents, x.phase ≠ .turn)
    (hfree : ∀ x ∈ s.tile.ni.ents, x.peer = p.hdr.src → x.phase ≠ .landing ∧ x.phase ≠ .relHeld) :
    (s.delivering p e rs a).tile.ni.outOfTurn (e.delivered p s.tile.ni s.stamp) = false := by
  have hothers := State.delivering_others (p := p) (e := e) rs a (P := fun x => x.phase ≠ .turn ∧ (x.peer = p.hdr.src → x.phase ≠ .landing ∧ x.phase ≠ .relHeld))
    fun x hx _ => ⟨hturn x hx, hfree x hx⟩
  rw [Ni.outOfTurn, Bool.and_eq_false_iff]
  refine .inr (List.any_eq_false.2 fun x hx => ?_)
  by_cases hid : x.id = e.id
  · rw [Ni.eq_of_id (h.delivering_ids rs a) hx (Ni.mem_of_ent (h.delivering_ent hfirst rs a)).1 hid]
    simp
  · obtain ⟨hnot, hclear⟩ := hothers x hx hid
    simp only [Bool.and_eq_true, Bool.or_eq_true, beq_iff_eq]
    rintro ⟨⟨⟨-, hpeer⟩, -⟩, (hl | hr) | ht⟩
    · exact (hclear hpeer).1 hl
    · exact (hclear hpeer).2 hr
    · exact hnot ht

omit h hfirst in
include hkind in
/-- It waits behind one that is. -/
theorem State.delivering_outOfTurn {x : Ent} (hx : x ∈ s.tile.ni.ents) (hid : x.id ≠ e.id) (hmatched : x.matched ≠ 0)
    (hle : x.matched ≤ s.tile.ni.matchNo) (hpeer : x.peer = p.hdr.src) (hgroup : x.hdr.map (fun q => q.group) = some p.hdr.group)
    (hphase : x.phase = .landing ∨ x.phase = .relHeld) :
    (s.delivering p e rs a).tile.ni.outOfTurn (e.delivered p s.tile.ni s.stamp) = true := by
  have hno : (e.delivered p s.tile.ni s.stamp).matched = s.tile.ni.matchNo + 1 := by
    show (if e.kind == .postm then 0 else s.tile.ni.matchNo + 1) = _
    rw [hkind]
    rfl
  have hmem : x ∈ (s.delivering p e rs a).tile.ni.ents := State.delivering_keeps rs a x hx hid
  rw [Ni.outOfTurn, Bool.and_eq_true]
  refine ⟨by rw [hno]; simp, List.any_eq_true.2 ⟨x, hmem, ?_⟩⟩
  simp only [Bool.and_eq_true, Bool.or_eq_true, beq_iff_eq, bne_iff_ne, decide_eq_true_eq, hno]
  exact ⟨⟨⟨⟨hmatched, by omega⟩, hpeer⟩, hgroup⟩, .inl hphase⟩

omit h hfirst in
/-- What is said of the state in which the bytes have landed, whatever becomes of the receive then. -/
theorem State.delivering_said (n : Ni) (hseq : n.seqIn = (s.tile.ni.accepting p.hdr).seqIn)
    (hkeep : Keeps (s.delivering p e rs a).tile.ni.ents n.ents e.id) : let t := (s.delivering p e rs a).net n (s.delivering p e rs a).torus
    Landed rs a (p.payload.take (min p.hdr.len e.len)) s t ∧
      (Sends s t fun q => q.hdr.kind = 0x05 ∧ q.hdr.hflags = 0 ∧ q.hdr.dest = p.hdr.src ∧ q.hdr.src = p.hdr.dest ∧ q.hdr.xid = p.hdr.xid ∧
        q.hdr.offset = BitVec.ofNat 32 (0x80 * 2 ^ 24 + min p.hdr.len e.len % 2 ^ 24)) ∧
      Sparse.get 0 t.tile.ni.seqIn (seqKey p.hdr.src p.hdr.group) = Sparse.get 0 s.tile.ni.seqIn (seqKey p.hdr.src p.hdr.group) + 1 ∧
      OthersKept s t e.id := by
  have hsame : (s.delivering p e rs a).net n (s.delivering p e rs a).torus =
      (s.filled rs a (p.payload.take (min p.hdr.len e.len))).net n (s.delivering p e rs a).torus := by rw [State.delivering, State.net_net]
  rw [hsame]
  refine ⟨landed_filled s rs a _ _ _, ⟨_, _, rfl, rfl, rfl, rfl, rfl, rfl, rfl, rfl⟩, ?_, fun x hx hid =>
    hkeep x (State.delivering_keeps rs a x hx hid) hid⟩
  show Sparse.get 0 n.seqIn _ = _
  rw [hseq]
  exact Ni.accepting_next _ _

/-- A message whose turn it is completes its POST. -/
theorem State.Hears.eager_done (hkind : e.kind = .post) (hplain : Plain e) (hclean : p.poison = false)
    (hturn : ∀ x ∈ s.tile.ni.ents, x.phase ≠ .turn)
    (hfree : ∀ x ∈ s.tile.ni.ents, x.peer = p.hdr.src → x.phase ≠ .landing ∧ x.phase ≠ .relHeld) :
    ∃ n : Ni, ((s.delivering p e rs a).landed s.tile.ep e.id).boxGo s.tile.ep e.id =
        (s.delivering p e rs a).net n (s.delivering p e rs a).torus ∧
      n.seqIn = (s.tile.ni.accepting p.hdr).seqIn ∧ Keeps (s.delivering p e rs a).tile.ni.ents n.ents e.id ∧
      ∃ f ∈ n.ents, ∃ r : Rec, f = (e.delivered p s.tile.ni s.stamp).finished (r.finish s.stamp) ∧
        r.status = (if e.len < p.hdr.len then 0x02 else 0x00) ∧ r.dlen = min p.hdr.len e.len ∧ r.flen = p.hdr.len := by
  obtain ⟨hnb, hstays, hid, -, -⟩ := hplain
  have hent := h.delivering_ent hfirst rs a
  have hend := (h.delivering_alone (e := e) rs a).landed_post (e := e.delivered p s.tile.ni s.stamp) hent rfl (.inl h.unpended)
    (h.delivering_inTurn hfirst rs a hturn hfree) hkind nofun hnb hstays hid hclean nofun
    (State.delivering_others rs a fun x hx _ => hturn x hx)
  refine ⟨_, hend, rfl, (Keeps.refl _ _).modEnt _, _, Ni.mem_modEnt_self (Ni.mem_of_ent hent).1 _, _, rfl, ?_, rfl, rfl⟩
  have hstatus := Ent.received_status (e := e.delivered p s.tile.ni s.stamp) hclean p.hdr
  rw [hstatus, show (e.delivered p s.tile.ni s.stamp).granted = min p.hdr.len e.len from rfl]
  by_cases hlen : e.len < p.hdr.len
  · rw [if_pos hlen, if_pos (by omega)]
    rfl
  · rw [if_neg hlen, if_neg (by omega)]
    rfl

/-- One that comes before its turn waits, after the one that it waits for. -/
theorem State.Hears.eager_waits (hkind : e.kind = .post) (hturn : ∀ x ∈ s.tile.ni.ents, x.phase ≠ .turn) {x : Ent} (hx : x ∈ s.tile.ni.ents)
    (hid : x.id ≠ e.id) (hmatched : x.matched ≠ 0) (hle : x.matched ≤ s.tile.ni.matchNo) (hpeer : x.peer = p.hdr.src)
    (hgroup : x.hdr.map (fun q => q.group) = some p.hdr.group) (hphase : x.phase = .landing ∨ x.phase = .relHeld) :
    ∃ n : Ni, ((s.delivering p e rs a).landed s.tile.ep e.id).boxGo s.tile.ep e.id =
        (s.delivering p e rs a).net n (s.delivering p e rs a).torus ∧
      n.seqIn = (s.tile.ni.accepting p.hdr).seqIn ∧ Keeps (s.delivering p e rs a).tile.ni.ents n.ents e.id ∧
      ∃ f ∈ n.ents, f.id = e.id ∧ f.phase = .turn ∧ x.matched < f.matched := by
  have halone := h.delivering_alone (e := e) rs a
  have hent := h.delivering_ent hfirst rs a
  have hno : (e.delivered p s.tile.ni s.stamp).matched = s.tile.ni.matchNo + 1 := by
    show (if e.kind == .postm then 0 else s.tile.ni.matchNo + 1) = _
    rw [hkind]
    rfl
  have hone := halone.landOne_waits (e := e.delivered p s.tile.ni s.stamp) hent rfl h.unpended
    (State.delivering_outOfTurn hkind rs a hx hid hmatched hle hpeer hgroup hphase)
  have hlanded := halone.landed_only hone (Ni.others_modEnt (State.delivering_others rs a fun x hx _ => hturn x hx) fun _ => rfl)
  have hafter : ∀ n : Ni, ((s.delivering p e rs a).net n (s.delivering p e rs a).torus).Alone s.tile.ep := fun n => (State.alone_net _ _).2 halone
  have hmem := Ni.mem_modEnt_self (Ni.mem_of_ent hent).1 fun x => { x with phase := .turn }
  have hturned : ((s.delivering p e rs a).tile.ni.modEnt e.id fun x => { x with phase := .turn }).ent e.id = _ := Ni.ent_modEnt hent fun _ => rfl
  refine ⟨(s.delivering p e rs a).tile.ni.modEnt e.id fun x => { x with phase := .turn }, ?_, rfl, (Keeps.refl _ _).modEnt _, _, hmem, rfl, rfl, ?_⟩
  · refine (congrArg (fun t : State => t.boxGo s.tile.ep e.id) hlanded).trans ((hafter _).boxGo_other fun y hy => ?_)
    rw [Option.some.inj (hy.symm.trans hturned)]
    exact fun hbox => absurd (hkind.symm.trans hbox) nofun
  · show x.matched < (e.delivered p s.tile.ni s.stamp).matched
    rw [hno]
    omega

end

end Sys2Proof.Machine
end

section
/-!
Messages that are granted, kept, held back or refused (R91, R94, R95, R370); and the proof of O36.
-/
namespace Sys2Proof.Machine

open Sys2Proof.Safety

/-! ### RTS that a POST takes (R96) -/

/-- The interface when a POST has been granted an RTS. -/
def Ni.granting (n : Ni) (p : Packet) (e : Ent) (stamp : W32) : Ni :=
  (n.accepting p.hdr).placed.modEnt e.id (Ent.taken p.hdr (min p.hdr.len e.len) n.arrivals stamp .granted)

section
variable {s : State} {p : Packet} (h : s.Hears p)
include h

/-- An RTS is its header alone. -/
theorem State.Hears.message_rts (hrts : p.hdr.kind = 0x02) {t : State} (ht : s.arrive s.tile.ep p = t) (hpkg : t.pkg = s.pkg) : s.message p = t := by
  rw [State.message, h.isFor.messageHead_takes h.admits.refusal, ht, h.isFor.messageTail hpkg, if_neg (by rw [hrts]; decide)]

theorem State.Hears.rts_granted (hrts : p.hdr.kind = 0x02) (hnext : s.Next p) {e : Ent} (hfirst : s.tile.ni.matching p.hdr = some e)
    (hphase : e.phase = .posted) {a : Nat} {rs : List (Nat × Nat)} (hbuf : e.buf = .store a rs) (hgrant : 0 < min p.hdr.len e.len) :
    s.message p = s.net ((s.tile.ni.granting p e s.stamp).modEnt e.id fun x => { x with cts := true })
      (s.torus ++ [s.parcel (.packet (answer p.hdr 0x03 (min p.hdr.len e.len))) s.tile.ep (rankEp p.hdr.src)]) := by
  have ha := h.admits.alone
  have he := h.first_ent hfirst
  have hplaced : (s.net (s.tile.ni.accepting p.hdr).placed s.torus).Alone s.tile.ep := (State.alone_net _ _).2 ha
  have htaken : (s.net (s.tile.ni.granting p e s.stamp) s.torus).Alone s.tile.ep := (State.alone_net _ _).2 ha
  have hamount : (s.net (s.tile.ni.accepting p.hdr).placed s.torus).grant s.tile.ep e p.hdr.len = min p.hdr.len e.len := by
    rw [State.grant, hbuf]
  have hload : loadOf p = none := by rw [loadOf, hrts]; rfl
  have hcts := htaken.sendCts (e := e.taken p.hdr (min p.hdr.len e.len) s.tile.ni.arrivals s.stamp .granted)
    (Ni.ent_modEnt (n := (s.tile.ni.accepting p.hdr).placed) he fun _ => rfl) rfl h.own h.unconverted
  have hsent : ∀ (n : Ni) (l : List Transit), n.unexp = s.tile.ni.unexp → (s.net n l).caughtUp s.tile.ep (seqKey p.hdr.src p.hdr.group) = s.net n l :=
    fun n l hn => State.Alone.caughtUp_none ((State.alone_net _ _).2 ha) (by rw [State.net_tile, hn]; exact h.waits) _
  refine h.message_rts hrts ?_ rfl
  rw [ha.arrive_taken h.untimed hnext hfirst hphase, hload, hplaced.take_rts he h.relLog h.revoked (by rw [hamount]; omega), hamount]
  exact (congrArg (fun t : State => t.caughtUp s.tile.ep (seqKey p.hdr.src p.hdr.group)) hcts).trans (hsent _ _ rfl)

end

/-! ### A message that is kept (R91, R94, R95) -/

/-- The interface once the payload of a message that it stores has come. -/
def Ni.wholeAt (n : Ni) (arrival : Nat) (bad : Bool) : Ni :=
  { n with unexp := n.unexp.map fun x => if x.arrival = arrival then { x with whole := true, poison := bad } else x }

/-- The interface that has stored a message. -/
def Ni.stored (n : Ni) (u : Unexp) : Ni := { n with unexp := n.unexp ++ [u], arrivals := n.arrivals + 1 }

section
variable {s : State} {key : Nat} (h : s.Alone key) (d : Header) (waits skew : Bool)
include h

theorem State.Alone.keep_header (hrts : d.kind = 0x02) :
    s.keep key d none waits skew = s.net (s.tile.ni.stored ⟨d, [], false, waits, s.tile.ni.arrivals, false, skew, true, []⟩) s.torus := by
  simp only [State.keep, h.modNi, hrts]
  rfl

theorem State.Alone.keep_converted (l : List Byte) (bad : Bool) (hnone : s.allot key (unitsOf l.length) = none) :
    s.keep key d (some (l, bad)) waits skew =
      s.net (s.tile.ni.stored ⟨d, [], true, waits, s.tile.ni.arrivals, false, skew, true, []⟩) s.torus := by
  simp only [State.keep, hnone, h.modNi]
  rfl

theorem State.Alone.keep_whole (l : List Byte) (bad : Bool) {us : List Nat} (hsome : s.allot key (unitsOf l.length) = some us) :
    s.keep key d (some (l, bad)) waits skew =
      s.net (s.tile.ni.stored ⟨d, us, false, waits, s.tile.ni.arrivals, false, skew, false, []⟩) s.torus := by
  simp only [State.keep, hsome, h.modNi]
  rfl

/-- Which units are free depends on the store and the entries alone. -/
theorem State.Alone.allot_net {n : Ni} (l : List Transit) (hents : n.ents = s.tile.ni.ents) (hunexp : n.unexp = s.tile.ni.unexp) (m : Nat) :
    (s.net n l).allot key m = s.allot key m := by
  have halone : (s.net n l).Alone key := (State.alone_net _ _).2 h
  have hused : n.usedUnits = s.tile.ni.usedUnits := by rw [Ni.usedUnits, Ni.usedUnits, hents, hunexp]
  have hpool : (s.net n l).poolUnits key = s.poolUnits key := by
    rw [State.poolUnits, State.poolUnits, halone.getTile, h.getTile]
    rfl
  rw [State.allot, State.allot, halone.getNi, h.getNi, hpool, State.net_tile, hused]

omit h in
theorem State.allot_length {us : List Nat} {m : Nat} (hsome : s.allot key m = some us) : us.length = m := by
  rw [State.allot] at hsome
  split at hsome
  · next hle =>
    rw [← Option.some.inj hsome, List.length_take]
    exact Nat.min_eq_left hle
  · exact nomatch hsome

end

/-! ### The store's units (R94) -/

/-- Nothing but bytes of the tile store and their poison tells `t` from `s`, as far as its interface and its engines go. -/
structure State.BytesOnly (s t : State) (key : Nat) : Prop where
  alone : t.Alone key
  eng : t.tile.eng = s.tile.eng
  cycle : t.cycle = s.cycle
  ni : t.tile.ni = s.tile.ni
  torus : t.torus = s.torus

/-- A payload that is written into units changes neither the interface nor the torus. -/
theorem State.Alone.writeUnits {s : State} {key : Nat} (h : s.Alone key) (hmma : ∀ j ∈ s.tile.eng.mma, j.until_ ≤ s.cycle)
    (hmsto : ∀ j ∈ s.tile.eng.msto, j.until_ ≤ s.cycle) (us : List Nat) (l : List Byte) : s.BytesOnly (s.writeUnits key us l) key := by
  refine List.foldlRecOn (motive := fun t => s.BytesOnly t key) _ _ ⟨h, rfl, rfl, rfl, rfl⟩ fun t ⟨ht, heng, hcycle, hni, htorus⟩ u _ => ?_
  rw [ht.recvBytes_store (by rw [heng, hcycle]; exact hmma) (by rw [heng, hcycle]; exact hmsto)]
  exact ⟨ht.filled _ _ _, heng, hcycle, hni, htorus⟩

/-! ### What becomes of a message that no receive takes -/

section
variable {s : State} {p : Packet} (h : s.Hears p) (hroom : s.tile.ni.storeFull = false)
include h

/-- A message that is held for no predecessor calls no other. -/
theorem State.Hears.stored_caughtUp {n : Ni} (hn : n.unexp = s.tile.ni.unexp) {u : Unexp} (hu : u.waits = false) (l : List Transit) (k : Nat) :
    (s.net (n.stored u) l).caughtUp s.tile.ep k = s.net (n.stored u) l := by
  refine State.Alone.caughtUp_none (key := s.tile.ep) ((State.alone_net _ _).2 h.admits.alone) (fun x hx => ?_) k
  rcases List.mem_append.1 (show x ∈ n.unexp ++ [u] from hx) with hx | hx
  · rw [hn] at hx
    exact h.waits x hx
  · rw [List.mem_singleton.1 hx]
    exact hu

/-- With a full store, BUSY. -/
theorem State.Hears.message_busy (hfull : s.tile.ni.storeFull = true) (hnone : ¬s.Next p ∨ s.tile.ni.matching p.hdr = none) :
    s.message p = s.net s.tile.ni (s.torus ++ [s.parcel (.packet (answer p.hdr 0x07 0)) s.tile.ep (rankEp p.hdr.src)]) := by
  have ha := h.admits.alone
  have hsent : s.refuse s.tile.ep p.hdr 0x07 0 = _ := ha.emit (p := answer p.hdr 0x07 0) h.own
  rw [State.message, h.isFor.messageHead_takes h.admits.refusal, ha.arrive_refused hfull hnone, hsent, h.isFor.messageTail (by rfl)]
  split
  · exact State.Alone.arriveWhole_none ((State.alone_net _ _).2 ha) h.unheard fun u hu hsame => absurd hsame (h.unstored u hu)
  · rfl

include hroom

theorem State.Hears.rts_kept (hrts : p.hdr.kind = 0x02) (hnext : s.Next p) (hnone : s.tile.ni.matching p.hdr = none) : s.message p =
    s.net ((s.tile.ni.accepting p.hdr).stored ⟨p.hdr, [], false, false, s.tile.ni.arrivals, false, false, true, []⟩) s.torus := by
  have haccepted : (s.net (s.tile.ni.accepting p.hdr) s.torus).Alone s.tile.ep := (State.alone_net _ _).2 h.admits.alone
  refine h.message_rts hrts ?_ rfl
  rw [h.admits.alone.arrive_kept h.untimed hnext hroom hnone, show loadOf p = none by rw [loadOf, hrts]; rfl, haccepted.keep_header _ _ _ hrts]
  exact h.stored_caughtUp (n := s.tile.ni.accepting p.hdr) rfl rfl _ _

theorem State.Hears.rts_held (hrts : p.hdr.kind = 0x02) (hseq : ¬s.Next p) : s.message p =
    s.net (s.tile.ni.stored ⟨p.hdr, [], false, true, s.tile.ni.arrivals, false, false, true, []⟩) s.torus := by
  refine h.message_rts hrts ?_ rfl
  rw [h.admits.alone.arrive_held h.untimed hroom hseq, show loadOf p = none by rw [loadOf, hrts]; rfl, h.admits.alone.keep_header _ _ _ hrts]

variable (heager : p.hdr.kind = 0x01) (hnext : s.Next p) (hnone : s.tile.ni.matching p.hdr = none)
include heager hnext hnone

/-- An EAGER without room in the pool is converted. -/
theorem State.Hears.eager_converted (hpool : s.allot s.tile.ep (unitsOf p.payload.length) = none) : s.message p =
    s.net ((s.tile.ni.accepting p.hdr).stored ⟨p.hdr, [], true, false, s.tile.ni.arrivals, false, false, true, []⟩) s.torus := by
  have ha := h.admits.alone
  have haccepted : (s.net (s.tile.ni.accepting p.hdr) s.torus).Alone s.tile.ep := (State.alone_net _ _).2 ha
  have hhead : s.arrive s.tile.ep p =
      s.net ((s.tile.ni.accepting p.hdr).stored ⟨p.hdr, [], true, false, s.tile.ni.arrivals, false, false, true, []⟩) s.torus := by
    rw [ha.arrive_kept h.untimed hnext hroom hnone, show loadOf p = some (p.payload, p.poison) by rw [loadOf, heager]; rfl,
      haccepted.keep_converted _ _ _ _ _ (by rw [ha.allot_net (n := s.tile.ni.accepting p.hdr) _ rfl rfl]; exact hpool)]
    exact h.stored_caughtUp (n := s.tile.ni.accepting p.hdr) rfl rfl _ _
  rw [State.message, h.isFor.messageHead_takes h.admits.refusal, hhead, h.isFor.messageTail (by rfl), if_pos heager]
  refine State.Alone.arriveWhole_none ((State.alone_net _ _).2 ha) h.unheard fun u hu hsame => ?_
  rcases List.mem_append.1 (show u ∈ s.tile.ni.unexp ++ [_] from hu) with hu | hu
  · exact absurd hsame (h.unstored u hu)
  · rw [List.mem_singleton.1 hu]

omit hroom hnext hnone in
/-- The payload of an EAGER that is being kept finds its place, and those of others stay. -/
theorem State.Hears.finds_stored (us : List Nat) :
    ((s.tile.ni.accepting p.hdr).stored ⟨p.hdr, us, false, false, s.tile.ni.arrivals, false, false, false, []⟩).unexp.find?
        (fun u => (u.hdr.kind == 0x01 && u.hdr.src == p.hdr.src && u.hdr.xid == p.hdr.xid) && !u.whole) =
      some ⟨p.hdr, us, false, false, s.tile.ni.arrivals, false, false, false, []⟩ ∧
    (((s.tile.ni.accepting p.hdr).stored ⟨p.hdr, us, false, false, s.tile.ni.arrivals, false, false, false, []⟩).unexp.map fun x =>
        if x.arrival = s.tile.ni.arrivals then { x with whole := true, poison := p.poison } else x) =
      s.tile.ni.unexp ++ [⟨p.hdr, us, false, false, s.tile.ni.arrivals, p.poison, false, true, []⟩] := by
  have hold : s.tile.ni.unexp.find? (fun u => (u.hdr.kind == 0x01 && u.hdr.src == p.hdr.src && u.hdr.xid == p.hdr.xid) && !u.whole) = none :=
    List.find?_eq_none.2 fun u hu hp => by
      simp only [Bool.and_eq_true, beq_iff_eq] at hp
      exact h.unstored u hu ⟨hp.1.1.2, hp.1.2⟩
  have hstay : (s.tile.ni.unexp.map fun x => if x.arrival = s.tile.ni.arrivals then { x with whole := true, poison := p.poison } else x) =
      s.tile.ni.unexp :=
    (List.map_congr_left fun x hx => if_neg (Nat.ne_of_lt (h.earlier x hx))).trans s.tile.ni.unexp.map_id
  constructor
  · show (s.tile.ni.unexp ++ [_]).find? _ = _
    rw [List.find?_append, hold]
    simp [heager]
  · show (s.tile.ni.unexp ++ [_]).map _ = _
    rw [List.map_append, hstay]
    simp

/-- One with room is kept whole. -/
theorem State.Hears.eager_kept {us : List Nat} (hpool : s.allot s.tile.ep (unitsOf p.payload.length) = some us) :
    ∃ n : Ni, (s.message p).tile.ni = n ∧ n.ents = s.tile.ni.ents ∧ n.seqIn = (s.tile.ni.accepting p.hdr).seqIn ∧
      n.unexp = s.tile.ni.unexp ++ [⟨p.hdr, us, false, false, s.tile.ni.arrivals, p.poison, false, true, []⟩] ∧
      (s.message p).torus = s.torus := by
  have ha := h.admits.alone
  have haccepted : (s.net (s.tile.ni.accepting p.hdr) s.torus).Alone s.tile.ep := (State.alone_net _ _).2 ha
  have hhead : s.arrive s.tile.ep p = s.net ((s.tile.ni.accepting p.hdr).stored
      ⟨p.hdr, us, false, false, s.tile.ni.arrivals, false, false, false, []⟩) s.torus := by
    rw [ha.arrive_kept h.untimed hnext hroom hnone, show loadOf p = some (p.payload, p.poison) by rw [loadOf, heager]; rfl,
      haccepted.keep_whole _ _ _ _ _ (by rw [ha.allot_net (n := s.tile.ni.accepting p.hdr) _ rfl rfl]; exact hpool)]
    exact h.stored_caughtUp (n := s.tile.ni.accepting p.hdr) rfl rfl _ _
  obtain ⟨hfind, hmap⟩ := h.finds_stored heager us
  have hkept : (s.net ((s.tile.ni.accepting p.hdr).stored ⟨p.hdr, us, false, false, s.tile.ni.arrivals, false, false, false, []⟩) s.torus).Alone
      s.tile.ep := (State.alone_net _ _).2 ha
  rw [State.message, h.isFor.messageHead_takes h.admits.refusal, hhead, h.isFor.messageTail (by rfl), if_pos heager]
  unfold State.arriveWhole
  dsimp only
  rw [hkept.getNi, State.net_tile, Ni.Unheard.find?_eq_none (by exact h.unheard), hfind]
  dsimp only
  rw [hkept.modNi]
  have hbytes := State.Alone.writeUnits (key := s.tile.ep) (s := s.net (((s.tile.ni.accepting p.hdr).stored
    ⟨p.hdr, us, false, false, s.tile.ni.arrivals, false, false, false, []⟩).wholeAt s.tile.ni.arrivals p.poison) s.torus)
    ((State.alone_net _ _).2 ha) h.mma h.msto us p.payload
  exact ⟨_, hbytes.ni, rfl, rfl, hmap, hbytes.torus⟩

end

end Sys2Proof.Machine
end

section
/-!
The proof of O36.
-/
namespace Sys2Proof.Machine

open Sys2Proof.Safety

/-! ### A tile that takes no messages (R370) -/

/-- The ABSENT that a tile answers while it does not run. -/
theorem State.IsFor.message_absent {s : State} {p : Packet} (h : s.IsFor p) (hown : s.ownPkg p.hdr.src = true) (hents : s.tile.ni.Unheard p.hdr)
    (hstore : ∀ u ∈ s.tile.ni.unexp, ¬SameMessage u.hdr p.hdr) {r : Nat} (hr : s.refusal s.tile.ep = some r) :
    s.message p = s.net s.tile.ni (s.torus ++ [s.parcel (.packet (answer p.hdr 0x06 r)) s.tile.ep (rankEp p.hdr.src)]) := by
  have hsent : s.refuse s.tile.ep p.hdr 0x06 r = _ := h.alone.emit (p := answer p.hdr 0x06 r) hown
  rw [State.message, h.messageHead_refuses hr, hsent, h.messageTail (by rfl)]
  split
  · exact State.Alone.arriveWhole_none ((State.alone_net _ _).2 h.alone) hents fun u hu hsame => absurd hsame (hstore u hu)
  · rfl

theorem State.Alone.refusal_go {s : State} (h : s.Alone s.tile.ep) (hshown : s.tile.hidden = false) : s.refusal s.tile.ep = Tile.refusal.go s.tile := by
  rw [State.refusal, if_pos h.key_eq, h.getTile, Tile.refusal, hshown, h.twin]
  rfl

theorem Ent.taken_id (d : Header) (g arrival : Nat) (stamp : W32) (ph : Phase) (e : Ent) : (e.taken d g arrival stamp ph).id = e.id := rfl

/-- The record shows the match, but in a mailbox. -/
theorem Ent.taken_rcd (d : Header) (g arrival : Nat) (stamp : W32) (ph : Phase) {e : Ent} (hkind : e.kind = .post) :
    (e.taken d g arrival stamp ph).rcd = { e.rcd with source := d.src, tag := d.tag, group := d.group, tstamp := stamp } := by
  rw [Ent.taken, hkind]
  rfl

/-- The receive that has been granted an RTS, and the entries beside it. -/
theorem Ni.granting_mem {s : State} {p : Packet} {e : Ent} (hfirst : s.tile.ni.matching p.hdr = some e) :
    let n := (s.tile.ni.granting p e s.stamp).modEnt e.id fun x => { x with cts := true }
    { e.taken p.hdr (min p.hdr.len e.len) s.tile.ni.arrivals s.stamp .granted with cts := true } ∈ n.ents ∧ Keeps s.tile.ni.ents n.ents e.id :=
  ⟨Ni.mem_modEnt_twice (n := (s.tile.ni.accepting p.hdr).placed) (List.mem_of_find?_eq_some hfirst) (Ent.taken_id _ _ _ _ _ _) _,
    ((Keeps.refl _ _).modEnt (n := (s.tile.ni.accepting p.hdr).placed) _).modEnt _⟩

/-! ### O36 -/

theorem Ni.storeFull_of_lt {n : Ni} (h : n.unexp.length < 1024) : n.storeFull = false := decide_eq_false (Nat.not_le_of_lt h)
theorem Ni.storeFull_of_le {n : Ni} (h : 1024 ≤ n.unexp.length) : n.storeFull = true := decide_eq_true h

/-- The packet that answers a header. -/
theorem State.sends_answer (s : State) (n : Ni) (d : Header) (kind : BitVec 8) (off a b : Nat) :
    Sends s (s.net n (s.torus ++ [s.parcel (.packet (answer d kind off)) a b])) fun q => q.hdr.kind = kind ∧ q.hdr.hflags = 0 ∧
      q.hdr.dest = d.src ∧ q.hdr.src = d.dest ∧ q.hdr.xid = d.xid ∧ q.hdr.offset = BitVec.ofNat 32 off :=
  ⟨_, _, rfl, rfl, rfl, rfl, rfl, rfl, rfl, rfl⟩

/-- Settles O36: the header finds its receive by `matching`, and the last flit of an EAGER what the header left; a delivery completes its POST
unless an earlier one of its source and group is under way (`eager_done`, `eager_waits`), an RTS is granted (`rts_granted`), and what fits
nothing is kept, converted, held or answered BUSY. -/
theorem firstPacketsArrive : Obligations.FirstPacketsArrive := by
  unfold Obligations.FirstPacketsArrive
  intro p e rs a s hdest hown hflags hfresh h key want first n next answered kept refused
  have hunheard : s.tile.ni.Unheard p.hdr := hfresh.1
  have hunstored : ∀ u ∈ s.tile.ni.unexp, ¬SameMessage u.hdr p.hdr := fun u hu => (hfresh.2 u hu).1
  constructor
  · intro htakes hclean hlen hrel hrevoked hwaits hturn
    have ha := admits_of_takes htakes
    obtain ⟨-, -, -, -, -, -, hids, hmma, hmsto⟩ := htakes
    have hears : s.Hears p := ⟨ha, hdest, hown, hflags, hids, hmma, hmsto, hrel, hrevoked, hwaits, hunheard, hunstored, fun u hu => (hfresh.2 u hu).2⟩
    have heager := hears.withKind 0x01
    have hrts := hears.withKind 0x02
    have hunits : unitsOf (withKind p 0x01).payload.length = (h.len + 63) / 64 := congrArg unitsOf hlen
    refine ⟨fun hseq hfirst hkind hphase hbuf hplain => ⟨fun x hx hmatched hle hpeer hgroup hwait => ?_, fun hfree => ?_, fun hgrant => ?_⟩,
      fun hseq hnone hroom => ⟨?_, fun hpool => ?_, fun hpool => ?_⟩, fun hseq hroom => ?_, fun hnone hfull => ?_⟩
    · have hid : x.id ≠ e.id := fun hid => by
        rw [Ni.eq_of_id hids hx (List.mem_of_find?_eq_some hfirst) hid, hphase] at hwait
        exact absurd hwait (by decide)
      obtain ⟨m, hend, hseqIn, hkeep, f, hf, hfid, hfturn, hfmatched⟩ :=
        heager.eager_waits hfirst rs a hkind hturn hx hid hmatched hle hpeer hgroup hwait
      have hrun := (heager.message_eager hseq hfirst hkind hphase hbuf rfl).trans hend
      obtain ⟨hlanded, hsends, hnext, hothers⟩ := State.delivering_said rs a m hseqIn hkeep
      exact ⟨_, (exec_eager p s).trans (congrArg _ hrun), hlanded, hsends, hnext, hothers, f, hf, hfid, hfturn, hfmatched⟩
    · obtain ⟨m, hend, hseqIn, hkeep, f, hf, r, rfl, hstatus, hdlen, hflen⟩ := heager.eager_done hfirst rs a hkind hplain hclean hturn hfree
      have hrun := (heager.message_eager hseq hfirst hkind hphase hbuf rfl).trans hend
      obtain ⟨hlanded, hsends, hnext, hothers⟩ := State.delivering_said rs a m hseqIn hkeep
      have hdone := entDone_finished (t := (s.delivering (withKind p 0x01) e rs a).net m (s.delivering (withKind p 0x01) e rs a).torus) hf rfl
      rw [hstatus, hdlen, hflen] at hdone
      exact ⟨_, (exec_eager p s).trans (congrArg _ hrun), hdone, hlanded, hsends, hnext, hothers⟩
    · have hrun := hrts.rts_granted rfl hseq hfirst hphase hbuf hgrant
      obtain ⟨hmem, hkeep⟩ := Ni.granting_mem (s := s) (p := withKind p 0x02) hfirst
      have hrcd := Ent.taken_rcd (withKind p 0x02).hdr (min p.hdr.len e.len) s.tile.ni.arrivals s.stamp .granted hkind
      exact ⟨_, (exec_rts p s).trans (congrArg _ hrun), ⟨_, hmem, rfl, rfl, rfl, rfl, rfl, congrArg Rec.source hrcd, congrArg Rec.tag hrcd⟩,
        s.sends_answer _ h _ _ _ _, Ni.accepting_next _ _, hkeep, rfl⟩
    · have hrun := hrts.rts_kept (Ni.storeFull_of_lt hroom) rfl hseq hnone
      exact ⟨_, (exec_rts p s).trans (congrArg _ hrun), ⟨_, rfl, rfl, rfl, rfl, rfl, rfl, rfl⟩, Ni.accepting_next _ _, rfl, rfl, rfl⟩
    · have hrun := heager.eager_converted (Ni.storeFull_of_lt hroom) rfl hseq hnone (hunits ▸ hpool)
      exact ⟨_, (exec_eager p s).trans (congrArg _ hrun), ⟨_, rfl, rfl, rfl, rfl, rfl, rfl, rfl⟩, Ni.accepting_next _ _, rfl, rfl, rfl⟩
    · obtain ⟨us, hus⟩ := Option.ne_none_iff_exists'.1 hpool
      obtain ⟨m, hm, hents, hseqIn, hunexp, htorus⟩ :=
        heager.eager_kept (Ni.storeFull_of_lt hroom) rfl hseq hnone (hunits ▸ hus)
      subst hm
      exact ⟨_, exec_eager p s, ⟨_, hunexp, rfl, rfl, rfl, rfl, rfl, State.allot_length hus⟩,
        (congrArg (fun l => Sparse.get 0 l key) hseqIn).trans (Ni.accepting_next _ _), hents, htorus⟩
    · have hrun := hrts.rts_held (Ni.storeFull_of_lt hroom) rfl hseq
      exact ⟨_, (exec_rts p s).trans (congrArg _ hrun), ⟨_, rfl, rfl, rfl, rfl, rfl, rfl, rfl⟩, rfl, rfl, rfl⟩
    · have hbusy : ∀ k, s.message (withKind p k) = _ := fun k => (hears.withKind k).message_busy (Ni.storeFull_of_le hfull) hnone
      exact List.forall_mem_cons.2 ⟨⟨_, (exec_eager p s).trans (congrArg _ (hbusy 0x01)), s.sends_answer _ h _ _ _ _, rfl⟩,
        List.forall_mem_singleton.2 ⟨_, (exec_rts p s).trans (congrArg _ (hbusy 0x02)), s.sends_answer _ h _ _ _ _, rfl⟩⟩
  · intro hep hpkg htwin hshown
    have halone : s.Alone s.tile.ep := ⟨rfl, hep, htwin⟩
    have hrefuses : ∀ r, Tile.refusal.go s.tile = some r → refused 0x06 r := fun r hr => by
      have habsent : ∀ k, s.message (withKind p k) = _ := fun k =>
        (State.isFor_of_rank (p := withKind p k) halone hpkg hdest).message_absent hown hunheard hunstored ((halone.refusal_go hshown).trans hr)
      exact List.forall_mem_cons.2 ⟨⟨_, (exec_eager p s).trans (congrArg _ (habsent 0x01)), s.sends_answer _ h _ _ _ _, rfl⟩,
        List.forall_mem_singleton.2 ⟨_, (exec_rts p s).trans (congrArg _ (habsent 0x02)), s.sends_answer _ h _ _ _ _, rfl⟩⟩
    refine ⟨?_, fun hrun => hrefuses 7 (by rw [Tile.refusal.go, hrun])⟩
    rintro (hrun | hrun | hrun) <;> exact hrefuses 0 (by rw [Tile.refusal.go, hrun])

end Sys2Proof.Machine
end

section
/-!
RELEASE, contrails and the escape channel (R99, R105 to R107, R117, R382); and the proof of O39.
-/
namespace Sys2Proof.Machine

open Sys2Proof.Safety

theorem exec_release (p : Packet) (s : State) : exec (.release p) s = execRelease p s := rfl
theorem exec_subscribe (p : Packet) (s : State) : exec (.subscribe p) s = execSubscribe p s := rfl
theorem exec_prune (p : Packet) (s : State) : exec (.prune p) s = execPrune p s := rfl
theorem exec_contrailRound (ep id : Nat) (s : State) : exec (.contrailRound ep id) s = .next (s.startRound ep id) := rfl
theorem exec_cdata (p : Packet) (s : State) : exec (.cdata p) s = execCdata p s := rfl
theorem exec_ucdata (p : Packet) (s : State) : exec (.ucdata p) s = execUcdata p s := rfl
theorem exec_escapeChannel (n : Nat) (s : State) : exec (.escapeChannel n) s = .next { s with torus := escapeNow s.torus n s.cycle } := rfl

/-! ### RELEASE (R99, R382) -/

/-- A receive that a clearing RELEASE has reached. -/
def Ent.cleared (e : Ent) : Ent := { e with relEarly := some 0 }

/-- The state in which the RELEASE is acknowledged and its receive may go on. -/
def State.clearing (s : State) (h : Header) (e : Ent) : State :=
  s.net (s.tile.ni.modEnt e.id Ent.cleared) (s.torus ++ [s.parcel (.packet (ackPacket h ackRelease 0)) s.tile.ep (rankEp h.src)])

section
variable {s : State} (h : s.Admits s.tile.ep) {p : Packet} (hdest : p.hdr.dest = s.rankOf s.tile.ep) (hown : s.ownPkg p.hdr.src = true) {e : Ent}
  (hr : s.tile.ni.receiving p.hdr = some e) (hphase : e.phase = .relHeld)
include h hdest hown hr hphase

theorem execRelease_clears (hoff : p.hdr.offset = 0) :
    execRelease p s = .next (((s.clearing p.hdr e).landed s.tile.ep e.id).boxGo s.tile.ep e.id) := by
  have hkey : ¬0x1000 ≤ s.tile.ep := by have := h.alone.isTile; omega
  have hnet : (s.net (s.tile.ni.modEnt e.id Ent.cleared) s.torus).Alone s.tile.ep := (State.alone_net _ _).2 h.alone
  have hreceiving : s.tile.ni.receiving (withKind p 0x08).hdr = some e := hr
  have hsent : (s.modEnt s.tile.ep e.id fun x => { x with relEarly := some 0 }).emit s.tile.ep (ackPacket (withKind p 0x08).hdr ackRelease 0) =
      s.clearing p.hdr e := by
    rw [h.alone.modEnt]
    exact hnet.emit hown
  have hkind : (withKind p 0x08).hdr.offset.toNat % 256 = 0 := by
    rw [show (withKind p 0x08).hdr.offset = 0 from hoff]
    rfl
  rw [execRelease, h.gate (p := withKind p 0x08) hdest]
  unfold State.releaseArrived
  dsimp only
  rw [if_neg hkey, h.alone.getNi, hreceiving]
  dsimp only
  rw [if_pos (by rw [hphase]; rfl), hkind, if_neg Nat.zero_ne_one, hsent]

omit hdest hown in
/-- Its receive ends, and the RELEASE is acknowledged. -/
theorem State.clearing_ends (hids : (s.tile.ni.ents.map fun x => x.id).Nodup) (hkind : e.kind = .post) {h0 : Header} (hhdr : e.hdr = some h0)
    (hplain : Plain e) (hothers : ∀ x ∈ s.tile.ni.ents, x.phase ≠ .turn ∧ (x.id ≠ e.id → x.phase ≠ .landing ∧ x.phase ≠ .relHeld)) :
    let t := ((s.clearing p.hdr e).landed s.tile.ep e.id).boxGo s.tile.ep e.id
    EntDone s t e.id (if e.granted < h0.len then stTRUNC else stOK) (e.granted - e.part) h0.len ∧ OthersKept s t e.id ∧ OnlyNi s t ∧
      t.torus = (s.clearing p.hdr e).torus := by
  have he := Ni.mem_of_receiving hr
  have halone : (s.clearing p.hdr e).Alone s.tile.ep := (State.alone_net _ _).2 h.alone
  have hent : (s.clearing p.hdr e).tile.ni.ent e.id = some e.cleared := Ni.ent_modEnt (Ni.ent_of_mem he hids) fun _ => rfl
  obtain ⟨hnb, hstays, hid, hpoison, -⟩ := hplain
  have hrest : ∀ x ∈ (s.clearing p.hdr e).tile.ni.ents, x.id ≠ e.id → x.phase ≠ .turn ∧ x.phase ≠ .landing ∧ x.phase ≠ .relHeld :=
    Ni.others_modEnt (f := Ent.cleared) (fun x hx hne => ⟨(hothers x hx).1, (hothers x hx).2 hne⟩) fun _ => rfl
  have hinTurn : (s.clearing p.hdr e).tile.ni.outOfTurn e.cleared = false := by
    rw [Ni.outOfTurn, Bool.and_eq_false_iff]
    refine .inr (List.any_eq_false.2 fun x hx => ?_)
    by_cases hid : x.id = e.id
    · have hsame := Ni.modEnt_ids (f := Ent.cleared) s.tile.ni e.id fun _ => rfl
      rw [Ni.eq_of_id (n := (s.clearing p.hdr e).tile.ni) (hsame.symm ▸ hids) hx (Ni.mem_of_ent hent).1 hid]
      simp
    · obtain ⟨hturn, hlanding, hheld⟩ := hrest x hx hid
      simp [hturn, hlanding, hheld]
  have hend := halone.landed_post (e := e.cleared) hent hhdr (.inr rfl) hinTurn hkind (by rw [show e.cleared.phase = _ from hphase]; nofun) hnb hstays
    hid hpoison (by nofun) fun x hx hne => (hrest x hx hne).1
  intro t
  have ht : t = _ := hend
  have hmem := Ni.mem_modEnt_self (Ni.mem_of_ent hent).1 fun x => x.finished ((e.cleared.received h0 false).finish s.stamp)
  have hdone := entDone_finished (s := s) (t := (s.clearing p.hdr e).net _ (s.clearing p.hdr e).torus) hmem rfl
  rw [Ent.received_status (e := e.cleared) hpoison] at hdone
  rw [ht]
  exact ⟨hdone, ((Keeps.refl _ _).modEnt Ent.cleared).modEnt _, rfl, rfl⟩

end

/-! ### The escape channel (R117) -/

theorem escapeNow_other (l : List Transit) {n m : Nat} (h : m ≠ n) (cycle : Nat) : (escapeNow l n cycle)[m]? = l[m]? := by
  rw [escapeNow, List.getElem?_map, List.getElem?_zipIdx, Option.map_map]
  cases l[m]? with
  | none => rfl
  | some u =>
    show some (if 0 + m = n then _ else u) = _
    rw [if_neg (by omega)]

section
variable {u : Transit} {g : Leg} {b : Branch} {f : Nat × Bool} {l : List (Nat × Bool)} {cycle : Nat} (hlegs : u.legs = [g]) (houts : g.outs = some [b])
  (hflits : g.flits = f :: l) (hcame : f.1 < cycle) (hgone : g.gone = 0) (hsent : b.sent = 0) (hsize : 0 < u.size) (hport : b.port < 6)
include hlegs houts hflits hcame hgone hsent hsize hport

/-- The one claim of a packet whose header waits at one port. -/
theorem claimsOf_one : claimsOf [u] cycle = [⟨0, 0, 0, g.router, b.port, b.cls, f.1, g.inp, b.grant, 0, true, true⟩] := by
  simp [claimsOf, hlegs, houts, hflits, hgone, hsent, hsize, hport, hcame]

/-- A header that may escape goes on in ESC. -/
theorem escapeNow_one (hcls : g.cls ≠ 2) (hbranch : b.cls ≠ 2) (hfree : u.fixedRoute = false) (hwaited : 16 ≤ g.waited)
    (hslot : (slotAt [u] (portNext g.router (portTo g.router (escHop g.router u.last).next))
      (enters (portTo g.router (escHop g.router u.last).next)) 2).isSome = true) :
    escapeNow [u] 0 cycle = [{ u with legs := [{ g with outs := some [⟨portTo g.router (escHop g.router u.last).next, 2, some cycle, 0⟩] }] }] := by
  have hescapes : escapes [u] (claimsOf [u] cycle) =
      [⟨0, 0, 0, g.router, portTo g.router (escHop g.router u.last).next, 2, f.1, g.inp, none, 0, true, true⟩] := by
    rw [claimsOf_one hlegs houts hflits hcame hgone hsent hsize hport]
    simp [escapes, hlegs, hfree, hcls, hbranch, hwaited, hslot, allocated]
  have hgranted : granted [⟨0, 0, 0, g.router, portTo g.router (escHop g.router u.last).next, 2, f.1, g.inp, none, 0, true, true⟩] =
      [⟨0, 0, 0, g.router, portTo g.router (escHop g.router u.last).next, 2, f.1, g.inp, none, 0, true, true⟩] := by
    simp [granted, Claim.before]
  rw [escapeNow, hescapes, hgranted]
  simp [hlegs, houts, hsent]

end

/-! ### The counts of a contrail (R106) -/

/-- The count of a contrail at a router's port. -/
def State.portCount (s : State) (pub : Rank) (group : BitVec 16) (tag : W32) (x : Nat × Nat) : Nat :=
  Sparse.get 0 ((s.contrailAt x.1 pub group tag).getD ⟨pub, group, tag, [], []⟩).ports x.2

/-- An entry with the count of a port raised or lowered. -/
def Contrail.counted (c : Contrail) (port : Nat) (sub : Rank) (up : Bool) : Contrail :=
  { c with
    ports := Sparse.set 0 c.ports port (if up then Sparse.get 0 c.ports port + 1 else Sparse.get 0 c.ports port - 1)
    far := if port < 8 then c.far else if up then c.far ++ [(port, sub)] else c.far.erase (port, sub) }

section
variable (s : State) (pub : Rank) (group : BitVec 16) (tag : W32) (sub : Rank) (up : Bool) (r port : Nat)

theorem State.countPort_frame : s.countPort pub group tag sub up r port = { s with routers := (s.countPort pub group tag sub up r port).routers } := rfl

theorem State.countPort_other {i : Nat} (hi : i ≠ r) :
    Sparse.get [] (s.countPort pub group tag sub up r port).routers i = Sparse.get [] s.routers i := Sparse.get_set_ne _ _ hi

/-- The entry that a router has of a contrail, or begins. -/
def State.contrailOf : Contrail := (s.contrailAt r pub group tag).getD ⟨pub, group, tag, [], []⟩

theorem State.contrailOf_is : (s.contrailOf pub group tag r).is pub group tag = true := by
  rw [State.contrailOf]
  cases hfound : s.contrailAt r pub group tag with
  | none => simp [Contrail.is]
  | some c => exact List.find?_some (p := fun c : Contrail => c.is pub group tag) hfound

/-- An entry that replaces the one of its contrail is found in its place, unless it is dropped. -/
theorem find?_replaced {pub : Rank} {group : BitVec 16} {tag : W32} {c : Contrail} (hc : c.is pub group tag = true) (l : List Contrail) (drop : Bool) :
    (if drop then l.filter fun c => !c.is pub group tag else (l.filter fun c => !c.is pub group tag) ++ [c]).find? (fun c => c.is pub group tag) =
      if drop then none else some c := by
  have hrest : (l.filter fun c => !c.is pub group tag).find? (fun c => c.is pub group tag) = none :=
    List.find?_eq_none.2 fun x hx => by simpa using (List.mem_filter.1 hx).2
  split
  · exact hrest
  · rw [List.find?_append, hrest, Option.none_or, List.find?_singleton, if_pos hc]

theorem State.portCount_countPort : (s.countPort pub group tag sub up r port).portCount pub group tag (r, port) =
    if up then s.portCount pub group tag (r, port) + 1 else s.portCount pub group tag (r, port) - 1 := by
  have hcontrail : (s.countPort pub group tag sub up r port).contrailAt r pub group tag =
      if ((s.contrailOf pub group tag r).counted port sub up).ports.isEmpty then none
      else some ((s.contrailOf pub group tag r).counted port sub up) := by
    refine Eq.trans (congrArg (List.find? fun c : Contrail => c.is pub group tag) (Sparse.get_set_self _ _ _)) ?_
    exact find?_replaced (c := (s.contrailOf pub group tag r).counted port sub up) (s.contrailOf_is pub group tag r) _ _
  have hvalue : Sparse.get 0 ((s.contrailOf pub group tag r).counted port sub up).ports port =
      if up then s.portCount pub group tag (r, port) + 1 else s.portCount pub group tag (r, port) - 1 := Sparse.get_set_self _ _ _
  rw [← hvalue, State.portCount, hcontrail]
  split
  · next hempty => rw [List.isEmpty_iff.1 hempty]; rfl
  · rfl

/-- A header counts at each of several routers. -/
def State.countAll (h : Header) (up : Bool) (l : List (Nat × Nat)) (s : State) : State :=
  l.foldl (fun t x => t.countPort h.dest h.group h.tag h.src up x.1 x.2) s

end

section
variable (h : Header) (up : Bool) (s : State)

theorem State.countAll_frame (l : List (Nat × Nat)) : s.countAll h up l = { s with routers := (s.countAll h up l).routers } :=
  List.foldlRecOn (motive := fun t : State => t = { s with routers := t.routers }) _ _ rfl fun t ht x _ => by
    rw [ht]
    rfl

/-- The routers that it does not pass keep their entries. -/
theorem State.countAll_other {l : List (Nat × Nat)} {r : Nat} (hr : ∀ x ∈ l, x.1 ≠ r) :
    Sparse.get [] (s.countAll h up l).routers r = Sparse.get [] s.routers r :=
  List.foldlRecOn (motive := fun t : State => Sparse.get [] t.routers r = Sparse.get [] s.routers r) _ _ rfl fun _ ht x hx =>
    (State.countPort_other _ _ _ _ _ _ _ _ (hr x hx).symm).trans ht

theorem State.portCount_eq {t : State} {x : Nat × Nat} (hsame : Sparse.get [] t.routers x.1 = Sparse.get [] s.routers x.1) (pub : Rank)
    (group : BitVec 16) (tag : W32) : t.portCount pub group tag x = s.portCount pub group tag x := by
  rw [State.portCount, State.portCount, State.contrailAt, State.contrailAt, hsame]

/-- At each router of a way that passes none twice, the count of its port rises or falls by one. -/
theorem State.portCount_countAll {l : List (Nat × Nat)} (hnodup : (l.map fun x => x.1).Nodup) {x : Nat × Nat} (hx : x ∈ l) :
    (s.countAll h up l).portCount h.dest h.group h.tag x =
      if up then s.portCount h.dest h.group h.tag x + 1 else s.portCount h.dest h.group h.tag x - 1 := by
  induction l generalizing s with
  | nil => exact nomatch hx
  | cons y l ih =>
    obtain ⟨hy, hnodup⟩ := List.nodup_cons.1 hnodup
    have hne : ∀ z ∈ l, z.1 ≠ y.1 := fun z hz hsame => hy (List.mem_map.2 ⟨z, hz, hsame⟩)
    show ((s.countPort h.dest h.group h.tag h.src up y.1 y.2).countAll h up l).portCount _ _ _ x = _
    rcases List.mem_cons.1 hx with rfl | hx
    · rw [State.portCount_eq _ (State.countAll_other h up _ hne)]
      exact State.portCount_countPort _ _ _ _ _ _ _ _
    · rw [ih _ hnodup hx, State.portCount_eq s (State.countPort_other _ _ _ _ _ _ _ _ (hne x hx))]

variable (hmark : marked h = false)
include hmark

/-- A SUBSCRIBE that finds room everywhere counts at every router. -/
theorem State.countAt_subscribe (hkind : h.kind = 0x09) {l : List (Nat × Nat)} (hnodup : (l.map fun x => x.1).Nodup)
    (hroom : ∀ x ∈ l, s.portRoom h.dest h.group h.tag x.1 = true) :
    l.foldl (fun r x => r.1.countAt r.2 x.1 x.2) (s, h) = (s.countAll h true l, h) := by
  induction l generalizing s with
  | nil => rfl
  | cons y l ih =>
    obtain ⟨hy, hnodup⟩ := List.nodup_cons.1 hnodup
    have hstep : s.countAt h y.1 y.2 = (s.countPort h.dest h.group h.tag h.src true y.1 y.2, h) := by
      unfold State.countAt
      dsimp only
      rw [hmark, if_neg Bool.false_ne_true, if_pos hkind, if_pos (hroom y List.mem_cons_self)]
    rw [List.foldl_cons, hstep]
    refine ih _ hnodup fun z hz => ?_
    have hne : z.1 ≠ y.1 := fun hsame => hy (List.mem_map.2 ⟨z, hz, hsame⟩)
    rw [State.portRoom, State.contrailAt, State.countPort_other _ _ _ _ _ _ _ _ hne]
    exact hroom z (List.mem_cons_of_mem _ hz)

/-- A PRUNE, where no subscription has been without room, counts at every router. -/
theorem State.countAt_prune (hkind : h.kind ≠ 0x09) (hspills : s.spills = []) (l : List (Nat × Nat)) :
    l.foldl (fun r x => r.1.countAt r.2 x.1 x.2) (s, h) = (s.countAll h false l, h) := by
  induction l generalizing s with
  | nil => rfl
  | cons y l ih =>
    have hstep : s.countAt h y.1 y.2 = (s.countPort h.dest h.group h.tag h.src false y.1 y.2, h) := by
      unfold State.countAt
      dsimp only
      rw [hmark, if_neg Bool.false_ne_true, if_neg hkind, hspills]
      rfl
    rw [List.foldl_cons, hstep]
    exact ih _ hspills

end

end Sys2Proof.Machine
end

section
/-!
SUBSCRIBE and PRUNE on their way, the rounds of a contrail and their chunks (R105, R106); and the proof of O39.
-/
namespace Sys2Proof.Machine

open Sys2Proof.Safety

/-! ### SUBSCRIBE and PRUNE (R105, R106) -/

section
variable {s : State} (h : s.Admits s.tile.ep) {d : Header} (hdest : d.dest = s.rankOf s.tile.ep) (hown : s.ownPkg d.src = true)
include h hdest hown

/-- The way of a SUBSCRIBE or PRUNE to the tile in focus. -/
theorem State.Admits.countPath : s.countPath d =
    (subscriptionPath s.tile.ep (rankEp d.src)).reverse.foldl (fun r x => r.1.countAt r.2 x.1 x.2) (s, d) := by
  have hep := h.alone.isTile
  have hpub : s.endpointOf d.dest d.src = some s.tile.ep := by
    rw [State.endpointOf, hdest, State.ownPkg_rankOf h.pkg (by omega), if_pos rfl, rankEp_rankOf s (by omega)]
  have hsub : s.endpointOf d.src d.dest = some (rankEp d.src) := by rw [State.endpointOf, hown, if_pos rfl]
  rw [State.countPath, hpub, hsub]

variable (hmark : marked d = false)
include hmark

theorem State.Admits.subscribed (hkind : d.kind = 0x09) (hnodup : ((subscriptionPath s.tile.ep (rankEp d.src)).map fun x => x.1).Nodup)
    (hroom : ∀ x ∈ subscriptionPath s.tile.ep (rankEp d.src), s.portRoom d.dest d.group d.tag x.1 = true) :
    s.subscribed s.tile.ep d = (s.countAll d true (subscriptionPath s.tile.ep (rankEp d.src)).reverse).net
      { s.tile.ni with asked := s.tile.ni.asked.filter (· != (d.group, d.tag)) ++ [(d.group, d.tag)] } s.torus := by
  have hframe := s.countAll_frame d true (subscriptionPath s.tile.ep (rankEp d.src)).reverse
  have halone : (s.countAll d true (subscriptionPath s.tile.ep (rankEp d.src)).reverse).Alone s.tile.ep := by
    rw [hframe]
    exact ⟨h.alone.focus, h.alone.isTile, h.alone.twin⟩
  have hway := s.countAt_subscribe d hmark hkind (l := (subscriptionPath s.tile.ep (rankEp d.src)).reverse)
    (by rw [List.map_reverse, List.nodup_reverse]; exact hnodup) fun x hx => hroom x (List.mem_reverse.1 hx)
  unfold State.subscribed
  dsimp only
  rw [h.countPath hdest hown, hway]
  unfold State.subscribedAt
  rw [halone.modNi, hmark, hframe]
  rfl

theorem State.Admits.pruned (hkind : d.kind ≠ 0x09) (hspills : s.spills = []) :
    s.pruned s.tile.ep d = s.countAll d false (subscriptionPath s.tile.ep (rankEp d.src)).reverse := by
  unfold State.pruned
  dsimp only
  rw [h.countPath hdest hown, s.countAt_prune d hmark hkind hspills, State.prunedAt, hmark]
  rfl

end

/-! ### Rounds (R105) -/

/-- A contrail whose round has begun, and the interface that no subscriber of it waits at any more. -/
def Ent.inRound (e : Ent) : Ent := { e with phase := .round, sent := 0, late := false }
def Ni.answering (n : Ni) (e : Ent) : Ni :=
  { n.modEnt e.id Ent.inRound with asked := n.asked.filter (· != (e.group, e.tag)) }

theorem State.Alone.startRound {s : State} {key : Nat} (h : s.Alone key) {e : Ent} (he : s.tile.ni.ent e.id = some e) (hkind : e.kind = .publ)
    (hphase : e.phase = .open_) (hopen : e.closing = false) (hasked : (e.group, e.tag) ∈ s.tile.ni.asked) :
    s.startRound key e.id = s.net (s.tile.ni.answering e) s.torus := by
  have hgo : (e.kind == .publ && e.phase == .open_ && !e.closing && (s.getNi key).asked.contains (e.group, e.tag)) = true := by
    rw [hkind, hphase, hopen, h.getNi, List.contains_iff_mem.2 hasked]
    rfl
  have hnet : (s.net (s.tile.ni.modEnt e.id Ent.inRound) s.torus).Alone key := (State.alone_net _ _).2 h
  rw [State.startRound, h.ent, he]
  dsimp only
  rw [if_pos hgo, h.modEnt]
  exact hnet.modNi _

/-! ### Chunks (R105, R106) -/

/-- A subscription that takes a round. -/
def Ent.joined (d : Header) (g : Nat) (e : Ent) : Ent :=
  { e with phase := .landing, hdr := some d, granted := g, sent := 0, chunks := 0, part := 0, poison := false, late := false }

/-- Whether a subscription is for the chunk of a header. -/
def Ent.follows (d : Header) (e : Ent) : Bool := e.kind == .subs && e.rank == d.src && e.tag == d.tag && e.group == d.group

/-- Nothing comes before the first chunk. -/
theorem State.cdataChunk_first {u : State} {key : Nat} {q : Packet} (hoff : q.hdr.offset = 0) (i : Nat) {x : Ent}
    (hone : (u.getNi key).ents.filter (Ent.follows q.hdr) = [x]) (hx : u.ent key x.id = some x) :
    u.cdataChunk key q i = u.takeCdata key q x := by
  have hnone : ∀ v : Option Packet, (v.map fun r => r.hdr.kind == q.hdr.kind && r.hdr.dest == q.hdr.dest && r.hdr.src == q.hdr.src &&
      r.hdr.tag == q.hdr.tag && r.hdr.group == q.hdr.group && decide (r.hdr.offset.toNat < q.hdr.offset.toNat)).getD false = false := fun v => by
    cases v <;> simp [hoff]
  have hfilter : (u.getNi key).ents.filter (fun e => e.kind == .subs && e.rank == q.hdr.src && e.tag == q.hdr.tag && e.group == q.hdr.group) = [x] :=
    hone
  unfold State.cdataChunk
  dsimp only
  rw [if_neg, hfilter, List.foldl_cons, List.foldl_nil, hx]
  simp only [Bool.or_eq_true, List.any_eq_true, not_or, not_exists, not_and]
  refine ⟨⟨fun y _ => ?_, fun y _ => ?_⟩, fun y _ => ?_⟩
  · split
    · exact Bool.false_ne_true
    · rw [hnone]; exact Bool.false_ne_true
  · split
    · exact Bool.false_ne_true
    · rw [hnone]; exact Bool.false_ne_true
  · simp [hoff]


/-- A subscription to which the only chunk of its round has come. -/
def Ent.filledOnce (l : List Byte) (n : Nat) (e : Ent) : Ent := { e with sent := l.length, part := 0, chunks := n, poison := false, late := false }

/-- The record of a round that is over. -/
def Ent.roundRec (d : Header) (e : Ent) (r : Rec) : Rec :=
  { r with
    status := if e.granted < d.len then stTRUNC else stOK, source := e.rank, tag := e.tag, group := e.group, dlen := e.granted, flen := d.len
    progress := e.chunks + 1 }

theorem Ent.roundRec_status (d : Header) (e : Ent) (r : Rec) : (e.roundRec d r).status = if e.granted < d.len then stTRUNC else stOK := rfl

theorem State.takeCdata_only {u : State} {key : Nat} {q : Packet} {x : Ent} {a : Nat} {rs : List (Nat × Nat)} (hbuf : x.buf = .store a rs)
    (hphase : x.phase = .landing) (hhdr : x.hdr = some q.hdr) (hsent : x.sent = 0) (hpart : x.part = 0) (hlate : x.late = false)
    (hclean : x.poison = false) (hgood : q.poison = false) (hfresh : q.hdr.xid &&& staleBit = 0) (hoff : q.hdr.offset = 0)
    (hlen : q.payload.length = q.hdr.len) : u.takeCdata key q x =
      (((u.recvBytes key (.store a rs) 0 (q.payload.take x.granted)).modEnt key x.id (Ent.filledOnce q.payload (x.chunks + 1))).complete key x.id
        (x.roundRec q.hdr)).prune key x := by
  have hgo : (x.phase != .landing || (x.hdr.map fun d => d.kind) != some q.hdr.kind) = false := by
    rw [hphase, hhdr]
    simp
  have hstatus : (if x.granted < q.hdr.len then stTRUNC else stOK) ≠ stPOISONED := by split <;> decide
  have hoff' : q.hdr.offset.toNat = 0 := by rw [hoff]; rfl
  have hall : ¬q.payload.length < q.hdr.len := by omega
  unfold State.takeCdata
  dsimp only
  rw [hgo, if_neg Bool.false_ne_true, hbuf]
  simp only [State.whenAwake, hgood, Bool.false_and, Bool.false_eq_true, if_false, hlate, hclean, hfresh, hoff', Nat.sub_zero, bne_self_eq_false,
    Bool.or_false, Nat.zero_min, ite_self, hpart, hsent, Nat.zero_add, Nat.add_zero]
  rw [if_neg hall, State.tellPoisoned_other _ _ hstatus]
  rfl

/-- The PRUNE of a subscription begins to leave for the publisher (R105). -/
theorem State.Alone.prune {s : State} {key : Nat} (h : s.Alone key) {e : Ent} (hown : s.ownPkg e.rank = true) : s.prune key e =
    s.net s.tile.ni (s.torus ++ [s.parcel (.packet (e.packet (s.niRank key) 0x0A 0 0 [] false)) key (rankEp e.rank)]) :=
  h.emit (p := e.packet (s.niRank key) 0x0A 0 0 [] false) hown

theorem State.Alone.prune_sends {s : State} {key : Nat} (h : s.Alone key) {e : Ent} (hown : s.ownPkg e.rank = true) :
    ∃ u, s.prune key e = s.net s.tile.ni (s.torus ++ [u]) ∧ ∃ q, u.ev = .packet q ∧
      q.hdr.kind = 0x0A ∧ q.hdr.dest = e.rank ∧ q.hdr.tag = e.tag ∧ q.hdr.group = e.group :=
  ⟨_, h.prune hown, e.packet (s.niRank key) 0x0A 0 0 [] false, rfl, rfl, rfl, rfl, rfl⟩

theorem Ni.filter_modEnt (n : Ni) (id : Nat) {g : Ent → Ent} {p : Ent → Bool} (hp : ∀ x, p (g x) = p x) :
    (n.modEnt id g).ents.filter p = (n.ents.filter p).map fun e => if e.id = id then g e else e := by
  rw [Ni.modEnt_ents, List.filter_map]
  congr 1
  refine List.filter_congr fun x _ => ?_
  show p (if x.id = id then g x else x) = p x
  split
  · exact hp x
  · rfl

section
variable {s : State} (h : s.Admits s.tile.ep) {p : Packet} (hdest : p.hdr.dest = s.rankOf s.tile.ep) {e : Ent}
  (hone : s.tile.ni.ents.filter (Ent.follows p.hdr) = [e]) (hphase : e.phase = .posted) (hoff : p.hdr.offset = 0)
include hone

theorem Ni.mem_of_follows : e ∈ s.tile.ni.ents ∧ Ent.follows p.hdr e = true :=
  List.mem_filter.1 (hone ▸ List.mem_singleton_self e)

include h hdest hphase hoff in
/-- The one subscription that waits takes the round. -/
theorem State.Admits.joinRound {a : Nat} {rs : List (Nat × Nat)} (hbuf : e.buf = .store a rs) :
    s.joinRound p = s.net (s.tile.ni.modEnt e.id (Ent.joined p.hdr (min p.hdr.len e.len))) s.torus := by
  have hep := h.alone.isTile
  have hown : s.ownPkg p.hdr.dest = true := by rw [hdest]; exact State.ownPkg_rankOf h.pkg (by omega)
  have hgo : (!s.ownPkg p.hdr.dest || (s.barred p).isSome || p.hdr.offset != 0) = false := by
    rw [hown, h.barred hdest, hoff]
    rfl
  have hwaits : s.tile.ni.ents.filter (fun x => x.kind == .subs && x.phase == .posted && x.rank == p.hdr.src && x.tag == p.hdr.tag &&
      x.group == p.hdr.group) = [e] := by
    have hsplit : (s.tile.ni.ents.filter fun x => x.kind == .subs && x.phase == .posted && x.rank == p.hdr.src && x.tag == p.hdr.tag &&
        x.group == p.hdr.group) = (s.tile.ni.ents.filter (Ent.follows p.hdr)).filter fun x => x.phase == .posted := by
      rw [List.filter_filter]
      refine List.filter_congr fun x _ => ?_
      cases hx : x.phase == .posted <;> simp [Ent.follows]
    rw [hsplit, hone, List.filter_singleton, hphase]
    rfl
  have hgrant : s.grant s.tile.ep e p.hdr.len = min p.hdr.len e.len := by rw [State.grant, hbuf]
  unfold State.joinRound
  dsimp only
  rw [hgo, if_neg Bool.false_ne_true, h.niKey hdest, h.alone.getNi, hwaits, List.foldl_cons, List.foldl_nil, hgrant]
  exact h.alone.modEnt _ _

/-- The state when the only chunk of a round has landed in its subscription. -/
def State.chunkIn (s : State) (p : Packet) (e : Ent) (rs : List (Nat × Nat)) (a : Nat) : State :=
  (s.filled rs a (p.payload.take (min p.hdr.len e.len))).net
    ((s.tile.ni.modEnt e.id (Ent.joined p.hdr (min p.hdr.len e.len))).modEnt e.id (Ent.filledOnce p.payload 1)) s.torus

include h hdest hphase hoff in
/-- The only chunk of a round. -/
theorem State.Admits.onlyChunk (hids : (s.tile.ni.ents.map fun x => x.id).Nodup) (hmma : ∀ j ∈ s.tile.eng.mma, j.until_ ≤ s.cycle)
    (hmsto : ∀ j ∈ s.tile.eng.msto, j.until_ ≤ s.cycle) {a : Nat} {rs : List (Nat × Nat)} (hbuf : e.buf = .store a rs) (hgood : p.poison = false)
    (hfresh : p.hdr.xid &&& staleBit = 0) (hlen : p.payload.length = p.hdr.len) (i : Nat) :
    (s.joinRound p).gate p i (fun key => (s.joinRound p).cdataChunk key p i) =
      ((s.chunkIn p e rs a).complete s.tile.ep e.id ((e.joined p.hdr (min p.hdr.len e.len)).roundRec p.hdr)).prune s.tile.ep
        (e.joined p.hdr (min p.hdr.len e.len)) := by
  obtain ⟨he, hfollows⟩ := Ni.mem_of_follows hone
  have hnet := h.net (s.tile.ni.modEnt e.id (Ent.joined p.hdr (min p.hdr.len e.len))) s.torus
  have hent := Ni.ent_modEnt (f := Ent.joined p.hdr (min p.hdr.len e.len)) (Ni.ent_of_mem he hids) fun _ => rfl
  have hjoined : (s.tile.ni.modEnt e.id (Ent.joined p.hdr (min p.hdr.len e.len))).ents.filter (Ent.follows p.hdr) =
      [e.joined p.hdr (min p.hdr.len e.len)] := by
    rw [Ni.filter_modEnt (g := Ent.joined p.hdr (min p.hdr.len e.len)) _ _ fun _ => rfl, hone, List.map_singleton, if_pos rfl]
  rw [h.joinRound hdest hone hphase hoff hbuf, hnet.gate hdest, State.cdataChunk_first hoff i (x := e.joined p.hdr (min p.hdr.len e.len))
    (by rw [hnet.alone.getNi]; exact hjoined) (by rw [hnet.alone.ent]; exact hent),
    State.takeCdata_only (x := e.joined p.hdr (min p.hdr.len e.len)) hbuf rfl rfl rfl rfl rfl rfl hgood hfresh hoff hlen]
  have hlands := hnet.alone.recvBytes_store hmma hmsto a rs 0 (p.payload.take (min p.hdr.len e.len))
  have hfilled : ((s.filled rs a (p.payload.take (min p.hdr.len e.len))).net (s.tile.ni.modEnt e.id (Ent.joined p.hdr (min p.hdr.len e.len)))
      s.torus).Alone s.tile.ep := (State.alone_net _ _).2 (h.alone.filled _ _ _)
  exact congrArg (fun t : State => (t.complete s.tile.ep e.id ((e.joined p.hdr (min p.hdr.len e.len)).roundRec p.hdr)).prune s.tile.ep
    (e.joined p.hdr (min p.hdr.len e.len)))
    ((congrArg (fun t : State => t.modEnt s.tile.ep e.id (Ent.filledOnce p.payload 1)) hlands).trans (hfilled.modEnt _ _))

include h

omit hone in
theorem State.Admits.chunkIn_alone (rs : List (Nat × Nat)) (a : Nat) : (s.chunkIn p e rs a).Alone s.tile.ep :=
  (State.alone_net _ _).2 (h.alone.filled _ _ _)

/-- The subscription completes. -/
theorem State.Admits.chunkIn_done (hids : (s.tile.ni.ents.map fun x => x.id).Nodup) (hplain : Plain e) {a : Nat} {rs : List (Nat × Nat)}
    (hbuf : e.buf = .store a rs) : ∃ n : Ni,
      (s.chunkIn p e rs a).complete s.tile.ep e.id ((e.joined p.hdr (min p.hdr.len e.len)).roundRec p.hdr) = (s.chunkIn p e rs a).net n s.torus ∧
      Keeps s.tile.ni.ents n.ents e.id ∧
      ∀ l, EntDone s ((s.chunkIn p e rs a).net n l) e.id (if e.len < p.hdr.len then stTRUNC else stOK) (min p.hdr.len e.len) p.hdr.len := by
  obtain ⟨hnb, hstays, hid, -, -⟩ := hplain
  have he := (Ni.mem_of_follows hone).1
  have hent : (s.chunkIn p e rs a).tile.ni.ent e.id = some ((e.joined p.hdr (min p.hdr.len e.len)).filledOnce p.payload 1) :=
    Ni.ent_modEnt (Ni.ent_modEnt (f := Ent.joined p.hdr (min p.hdr.len e.len)) (Ni.ent_of_mem he hids) fun _ => rfl) fun _ => rfl
  have hregion : ((e.joined p.hdr (min p.hdr.len e.len)).filledOnce p.payload 1).anvilRegion = none := by
    rw [Ent.anvilRegion, show ((e.joined p.hdr (min p.hdr.len e.len)).filledOnce p.payload 1).buf = _ from hbuf]
  have hend := (h.chunkIn_alone rs a).complete_plain (e := (e.joined p.hdr (min p.hdr.len e.len)).filledOnce p.payload 1) hent nofun hnb hstays hid
    ((e.joined p.hdr (min p.hdr.len e.len)).roundRec p.hdr) (.inl hregion)
  have hmem := Ni.mem_modEnt_self (Ni.mem_of_ent hent).1 fun y => y.finished (((e.joined p.hdr (min p.hdr.len e.len)).roundRec p.hdr e.rcd).finish s.stamp)
  have hstatus : (if min p.hdr.len e.len < p.hdr.len then stTRUNC else stOK) = if e.len < p.hdr.len then stTRUNC else stOK :=
    ite_congr (propext (by omega)) (fun _ => rfl) fun _ => rfl
  have hkeep : Keeps s.tile.ni.ents (s.chunkIn p e rs a).tile.ni.ents e.id :=
    ((Keeps.refl _ _).modEnt (Ent.joined p.hdr (min p.hdr.len e.len))).modEnt (Ent.filledOnce p.payload 1)
  refine ⟨_, hend, hkeep.modEnt _, fun l => ?_⟩
  rw [← hstatus]
  exact entDone_finished (t := (s.chunkIn p e rs a).net _ l) hmem rfl

/-- The subscription completes and is pruned. -/
theorem State.Admits.onlyChunk_ends (hids : (s.tile.ni.ents.map fun x => x.id).Nodup) (hplain : Plain e) {a : Nat} {rs : List (Nat × Nat)}
    (hbuf : e.buf = .store a rs) (hown : s.ownPkg p.hdr.src = true) :
    let x := e.joined p.hdr (min p.hdr.len e.len)
    let t := ((s.chunkIn p e rs a).complete s.tile.ep e.id (x.roundRec p.hdr)).prune s.tile.ep x
    Landed rs a (p.payload.take (min p.hdr.len e.len)) s t ∧
      EntDone s t e.id (if e.len < p.hdr.len then stTRUNC else stOK) (min p.hdr.len e.len) p.hdr.len ∧ OthersKept s t e.id ∧
      Sends s t fun q => q.hdr.kind = 0x0A ∧ q.hdr.dest = p.hdr.src ∧ q.hdr.tag = p.hdr.tag ∧ q.hdr.group = p.hdr.group := by
  have hfollows := (Ni.mem_of_follows hone).2
  simp only [Ent.follows, Bool.and_eq_true, beq_iff_eq] at hfollows
  obtain ⟨⟨⟨-, hrank⟩, htag⟩, hgroup⟩ := hfollows
  obtain ⟨n, hend, hkeep, hdone⟩ := h.chunkIn_done hone hids hplain hbuf
  have halone : ((s.chunkIn p e rs a).net n s.torus).Alone s.tile.ep := (State.alone_net n s.torus).2 (h.chunkIn_alone rs a)
  have hpub : ((s.chunkIn p e rs a).net n s.torus).ownPkg (e.joined p.hdr (min p.hdr.len e.len)).rank = true :=
    (congrArg s.ownPkg hrank).trans hown
  obtain ⟨u, hpruned, q, hev, hkind, hto, hqtag, hqgroup⟩ := halone.prune_sends hpub
  intro x t
  have ht : t = (s.chunkIn p e rs a).net n (s.torus ++ [u]) := (congrArg (fun u : State => u.prune s.tile.ep x) hend).trans hpruned
  rw [ht]
  have hlanded : Landed rs a (p.payload.take (min p.hdr.len e.len)) s ((s.chunkIn p e rs a).net n (s.torus ++ [u])) := by
    rw [State.chunkIn, State.net_net]
    exact landed_filled s rs a _ _ _
  exact ⟨hlanded, hdone _, hkeep, u, q, State.net_torus _ _ _, hev, hkind, hto.trans hrank, hqtag.trans htag, hqgroup.trans hgroup⟩

end

theorem State.countAll_net (d : Header) (up : Bool) (l : List (Nat × Nat)) (s : State) (n : Ni) :
    (s.countAll d up l).net n s.torus = { s with tile := { s.tile with ni := n }, routers := (s.countAll d up l).routers } := by
  conv_lhs => rw [State.countAll_frame]
  rfl

/-! ### O39 -/

theorem staleBit_clear {x : W32} (h : x.getLsbD 31 = false) : x &&& staleBit = 0 := by
  have hbit : staleBit = BitVec.twoPow 32 31 := by decide
  rw [hbit, BitVec.and_twoPow, h]
  rfl

/-- Settles O39: a RELEASE is noted with its receive, which then ends (`clearing_ends`); SUBSCRIBE and PRUNE count at each router of the way
(`portCount_countAll`); the only chunk of a round ends its subscription (`onlyChunk_ends`); an escape touches the branch of its header
(`escapeNow_one`). -/
theorem releasesAndContrails : Obligations.ReleasesAndContrails := by
  unfold Obligations.ReleasesAndContrails
  refine ⟨fun p e h0 rs a s htakes hdest hown he hplain => ?_, fun n s => ?_, fun u g b f l s htorus hlegs houts hflits hcame hgone hsent hsize hport hcls
    hbranch hfree hwaited => ?_⟩
  · intro h path count
    have ha := admits_of_takes htakes
    obtain ⟨-, -, -, -, -, -, hids, hmma, hmsto⟩ := htakes
    have htile : isTile s.tile.ep = true := decide_eq_true ha.alone.isTile
    have hcount : ∀ (t : State) (x : Nat × Nat), count t x = t.portCount h.dest h.group h.tag x := fun t x => by
      dsimp only [count, State.portCount, State.contrailAt]
      cases (Sparse.get [] t.routers x.1).find? fun c => c.is h.dest h.group h.tag <;> rfl
    refine ⟨fun hr hkind hphase hhdr hoff hothers => ?_, fun hnodup hmark => ⟨fun hroom => ?_, fun hspills => ?_⟩,
      fun hkind hphase hopen hasked => ?_, fun hone hphase hbuf hoff hfresh hgood hlen => ?_⟩
    · obtain ⟨hdone, hkeep, hframe, htorus⟩ := State.clearing_ends ha hr hphase hids hkind hhdr hplain hothers
      exact ⟨_, (exec_release p s).trans (execRelease_clears ha hdest hown hr hphase hoff), hdone, hkeep, hframe, _, _, htorus, rfl, rfl, rfl, rfl,
        rfl, rfl⟩
    · have hrun : execSubscribe p s = _ := congrArg Host.Outcome.next ((ha.gate (p := withKind p 0x09) hdest _ _).trans
        ((if_pos htile).trans (ha.subscribed (d := (withKind p 0x09).hdr) hdest hown hmark rfl hnodup hroom)))
      refine ⟨_, (exec_subscribe p s).trans hrun, fun x hx => ?_, ?_, rfl, ?_⟩
      · rw [hcount, hcount]
        exact State.portCount_countAll (withKind p 0x09).hdr true s (by rw [List.map_reverse, List.nodup_reverse]; exact hnodup) (List.mem_reverse.2 hx)
      · exact List.mem_append_right _ List.mem_cons_self
      · exact State.countAll_net _ _ _ _ _
    · have hrun : execPrune p s = _ := congrArg Host.Outcome.next ((ha.gate (p := withKind p 0x0A) hdest _ _).trans
        ((if_pos htile).trans (ha.pruned (d := (withKind p 0x0A).hdr) hdest hown hmark (show (0x0A : BitVec 8) ≠ 0x09 by decide) hspills)))
      refine ⟨_, (exec_prune p s).trans hrun, fun x hx => ?_, State.countAll_frame _ _ _ _⟩
      rw [hcount, hcount]
      exact State.portCount_countAll (withKind p 0x0A).hdr false s (by rw [List.map_reverse, List.nodup_reverse]; exact hnodup) (List.mem_reverse.2 hx)
    · have hent := Ni.ent_of_mem he hids
      exact ⟨_, (exec_contrailRound _ _ s).trans (congrArg _ (ha.alone.startRound hent hkind hphase hopen hasked)),
        ⟨_, Ni.mem_modEnt_self he Ent.inRound, rfl, rfl, rfl⟩, fun hin => by simp [Ni.answering] at hin, (Keeps.refl _ _).modEnt Ent.inRound, rfl, rfl⟩
    · have hfollows : ∀ k, s.tile.ni.ents.filter (Ent.follows (withKind p k).hdr) = [e] := fun _ => hone
      have hrun : ∀ k i, ((s.joinRound (withKind p k)).gate (withKind p k) i fun key => (s.joinRound (withKind p k)).cdataChunk key (withKind p k) i) = _ :=
        fun k i => ha.onlyChunk (p := withKind p k) hdest (hfollows k) hphase hoff hids hmma hmsto hbuf hgood (staleBit_clear hfresh) hlen i
      have hends := fun k => ha.onlyChunk_ends (p := withKind p k) (hfollows k) hids hplain hbuf hown
      exact List.forall_mem_cons.2 ⟨⟨_, (exec_cdata p s).trans (congrArg Host.Outcome.next (hrun _ _)), hends 0x0B⟩,
        List.forall_mem_singleton.2 ⟨_, (exec_ucdata p s).trans (congrArg Host.Outcome.next (hrun _ _)), hends 0x0D⟩⟩
  · exact ⟨_, exec_escapeChannel n s, rfl, fun m hm => escapeNow_other _ hm _⟩
  · intro port hslot
    refine ⟨_, exec_escapeChannel 0 s, ?_⟩
    show escapeNow s.torus 0 s.cycle = _
    rw [htorus]
    exact escapeNow_one hlegs houts hflits hcame hgone hsent hsize hport hcls hbranch hfree hwaited hslot

end Sys2Proof.Machine
end
